-- ==== Sys2Proof/Word.lean ====
section
/-! DEFINITION. The words of the Maelrok Quentavar QV9: bytes, registers, addresses and instruction words (R8, R212, R286). -/

namespace Sys2Proof

/-- A byte; multi-byte values are little-endian (R8). -/
abbrev Byte := BitVec 8

/-- A scalar register's word (R212). -/
abbrev Word := BitVec 64

/-- An address register's value, in the form of a virtual address (R124, R212). -/
abbrev Addr := BitVec 80

/-- An instruction word of three 32-bit parcels (R286). -/
abbrev InstrWord := BitVec 96

/-- A vector register (R212). -/
abbrev VWord := BitVec 4096

/-- A lane mask, one bit per 32-bit lane (R212). -/
abbrev Mask := BitVec 128

end Sys2Proof
end

