-- ==== Sys2Proof/Syntax/Operands.lean ====
section
/-! DEFINITION. The operand types of the instructions (R288 to R297) and of the events of the device (spec/95). -/

namespace Sys2Proof

/-- s0 to s63 (R290). -/
abbrev SReg := Fin 64
/-- a0 to a31 (R290). -/
abbrev AReg := Fin 32
/-- v0 to v31 (R290). -/
abbrev VReg := Fin 32
/-- p0 to p7 (R290). -/
abbrev PReg := Fin 8
/-- m0 to m7 (R290). -/
abbrev MReg := Fin 8
/-- acc0 to acc7 (R290). -/
abbrev AccReg := Fin 8
/-- Row-line slots k0 to k15 (R290). -/
abbrev KReg := Fin 16
/-- Barrier objects b0 to b15 (R290). -/
abbrev BarReg := Fin 16
/-- Mailboxes mb0 to mb15 (R290). -/
abbrev MbReg := Fin 16
/-- MXAGEN sets g0 to g3 (R395). -/
abbrev GReg := Fin 4
/-- Flood registers w0 to w15 (R425). -/
abbrev WReg := Fin 16
/-- Multicast sets MS0 to MS63 (R425). -/
abbrev MsReg := Fin 64
/-- Flood threads (R422). -/
abbrev ThreadId := Fin 16

/-- The SYNC field: WSEM, WCNT, SSEM, SINC (R292). -/
structure Sync where
  wsem : BitVec 8
  wcnt : BitVec 4
  ssem : BitVec 8
  sinc : BitVec 4
deriving DecidableEq, Repr

/-- A SYNC field that neither waits nor signals. -/
def Sync.none : Sync := ⟨0, 0, 0, 0⟩

/-- A scalar second operand: s[B], or SignExtend(X, 32) (R309). -/
inductive SrcB
  | reg (r : SReg)
  | imm (x : BitVec 32)
deriving DecidableEq, Repr

/-- Element width in bytes: 1, 2, 4 or 8 (R293, R373). -/
inductive Width
  | w8 | w16 | w32 | w64
deriving DecidableEq, Repr

/-- An integer type (R293). -/
structure IntTy where
  w : Width
  signed : Bool
deriving DecidableEq, Repr

/-- A floating-point type of the scalar instructions (R294, R313). -/
inductive FTy
  | f32 | f64
deriving DecidableEq, Repr

/-- A floating-point element type of the vector and table instructions (R294, R380). -/
inductive VTy
  | f32 | bf16 | f16
deriving DecidableEq, Repr

/-- A rounding mode (R268, R296). -/
inductive Rm
  | rne | rtz | rup | rdn | sr
deriving DecidableEq, Repr

/-- Rounding mode and saturation, without a mask (R296, R313). -/
structure RMod where
  rm : Rm
  sat : Bool
deriving DecidableEq, Repr

/-- The modifier byte MOD; `mask = none` is MEN = 0 (R296). -/
structure Mod where
  mask : Option MReg
  sat : Bool
  rm : Rm
deriving DecidableEq, Repr

/-- Integer conditions (R311). -/
inductive Cond
  | eq | ne | lt | ge | ltu | geu | le | gt | leu | gtu
deriving DecidableEq, Repr

/-- Floating-point conditions (R314). -/
inductive FCond
  | eq | ne | lt | le | gt | ge | un | or
deriving DecidableEq, Repr

/-- Memory orders (R297). -/
inductive Order
  | rlx | acq | rel | ar
deriving DecidableEq, Repr

/-- Memory scopes (R234). -/
inductive Scope
  | core | dev | fab | sys
deriving DecidableEq, Repr

/-- The OS field of F-M (R288). -/
structure OrdScope where
  ord : Order
  scope : Scope
deriving DecidableEq, Repr

/-- A memory operand of F-M (R289). -/
structure MemOp where
  base : AReg
  index : SReg
  scale : BitVec 2
  disp : BitVec 32
deriving DecidableEq, Repr

/-- A gather or scatter operand: the index is a vector register (R373). -/
structure GatherOp where
  base : AReg
  index : VReg
  scale : BitVec 2
  disp : BitVec 32
deriving DecidableEq, Repr

/-- ATOM's operations (R318). -/
inductive AtomOp
  | add | and | or | xor | min | max | xchg
deriving DecidableEq, Repr

/-- RATOM's operations (R434). -/
inductive RatomOp
  | int (op : AtomOp) (t : IntTy)
  | fadd (t : FTy)
  | faddOrd (t : FTy)
deriving DecidableEq, Repr

/-- PSET's forms (R312). -/
inductive PsetOp
  | const (d : PReg) (bit : Bool)
  | and (d a b : PReg)
  | or (d a b : PReg)
  | xor (d a b : PReg)
  | not (d a : PReg)
  | andn (d a b : PReg)
  | nz (d : PReg) (a : SReg)
deriving DecidableEq, Repr

/-- A branch predicate (R291). -/
inductive Pred
  | pos (p : PReg)
  | neg (p : PReg)
  | always
deriving DecidableEq, Repr

/-- The kind of access ACHK probes (R315). -/
inductive AccKind
  | read | write | exec
deriving DecidableEq, Repr

/-- Special registers moved through scalar registers (R230, R329). -/
inductive SprS
  | cycle | corenum | devid | taskid | sweepid | cls
  | esw | ecause | ecp | esp | waitlimit | mxwake
  | capcores | capgang | caprowq
deriving DecidableEq, Repr

/-- Special registers moved through address registers (R230, R329). -/
inductive SprA
  | epc | eaddr | hbase
deriving DecidableEq, Repr

/-- SRD's or SWR's register pair: the carrier and the special register (R329). -/
inductive SprMove
  | s (r : SReg) (x : SprS)
  | a (r : AReg) (x : SprA)
deriving DecidableEq, Repr

/-- A count of SEMWAIT, SEMSIG and SEMSET (R332). -/
inductive Cnt
  | imm (k : BitVec 16)
  | reg (r : SReg)
deriving DecidableEq, Repr

/-- The member mask of BARINIT (R332). -/
inductive MaskSrc
  | imm (m : BitVec 8)
  | reg (r : SReg)
deriving DecidableEq, Repr

/-- The class of SETCLASS (R332). -/
inductive ClassSrc
  | imm (c : BitVec 2)
  | reg (r : SReg)
deriving DecidableEq, Repr

/-- The order of FENCE (R332): .rlx is not encodable. -/
inductive FenceOrd
  | acq | rel | ar
deriving DecidableEq, Repr

/-- The mask logic forms of MLOG (R376). -/
inductive MlogOp
  | and (d a b : MReg)
  | or (d a b : MReg)
  | xor (d a b : MReg)
  | andn (d a b : MReg)
  | not (d a : MReg)
  | set (d : MReg)
  | clr (d : MReg)
deriving DecidableEq, Repr

/-- The width of VSETW (R377). -/
inductive WidthSrc
  | reg (r : SReg)
  | imm (x : BitVec 32)
deriving DecidableEq, Repr

/-- The operations of VRED, VSCAN and VDOT with their element type (R372). -/
inductive RedOp
  | fadd (t : VTy)
  | fmin (t : VTy)
  | fmax (t : VTy)
  | iadd (t : IntTy)
  | imin (t : IntTy)
  | imax (t : IntTy)
  | iand (t : IntTy)
  | ior (t : IntTy)
  | ixor (t : IntTy)
deriving DecidableEq, Repr

/-- The optional scale operand of an MX instruction: base register and set (R395). -/
abbrev ScaleOp := Option (AReg × GReg)

/-- The kind of accumulator MXST and MXRDV convert from (R395). -/
inductive AccKindM
  | fa | ia
deriving DecidableEq, Repr

/-- MXAGEN's forms (R395). -/
inductive AgenOp
  | write (g : GReg) (a : SReg)
  | read (d : SReg) (g : GReg)
deriving DecidableEq, Repr

/-- MXMODE's forms (R395). -/
inductive ModeOp
  | read (d : SReg)
  | set (d a : SReg)
  | clri (d : SReg)
  | setclri (d a : SReg)
deriving DecidableEq, Repr

/-- MXCHK's forms (R395). -/
inductive ChkOp
  | read (d a : SReg)
  | set (a : SReg) (chkoff clrcnt : Bool)
deriving DecidableEq, Repr

/-- Packet payload size (R430). -/
inductive Psz
  | pk256 | pk128 | pk64
deriving DecidableEq, Repr

/-- Remote scopes .fab and .sys (R430). -/
inductive RScope
  | fab | sys
deriving DecidableEq, Repr

/-- SPUT's forms (R430). -/
inductive SputOp
  | plain (p : Psz)
  | fadd (p : Psz)
  | faddOrd
deriving DecidableEq, Repr

/-- SQSET's forms (R427). -/
inductive SqsetOp
  | lo (d : WReg) (imm : BitVec 32)
  | mid (d : WReg) (imm : BitVec 32)
  | hi (d : WReg) (imm : BitVec 16)
  | addi (d : WReg) (imm : BitVec 32)
  | add (d a : WReg)
  | msclr (m : MsReg)
  | msset (m : MsReg) (first count step : BitVec 9)
  | msrem (m : MsReg) (first count step : BitVec 9)
deriving DecidableEq, Repr

/-! Operands of the events. -/

/-- The five engines of a unit, in the order of R177. -/
inductive Eng
  | vx | tx | mx | cx | fx
deriving DecidableEq, Repr

/-- A fabric packet: header fields of R61, payload bytes and, when confidential, the trailer. -/
structure Packet where
  ptype : BitVec 8 := 0
  flags : BitVec 8 := 0
  dst : BitVec 16 := 0
  src : BitVec 16 := 0
  intm : BitVec 16 := 0
  hops : BitVec 8 := 0
  status : BitVec 8 := 0
  len : BitVec 16 := 0
  tag : BitVec 16 := 0
  keyslot : BitVec 16 := 0
  addr : Addr := 0
  opx : BitVec 16 := 0
  cidx : BitVec 16 := 0
  ccnt : BitVec 16 := 0
  token : BitVec 64 := 0
  aux : BitVec 64 := 0
  payload : List Byte := []
  trailer : Option (BitVec 64 × BitVec 128) := none
deriving DecidableEq, Repr

/-- What one physical lane delivers in a codeword row: its 20-bit marker (R43), whether FEC failed or lock is lost, and its 640 stream bytes. -/
structure LaneWord where
  lane : Nat
  marker : BitVec 20
  uncorrectable : Bool
  lost : Bool
  bytes : List Byte
deriving DecidableEq, Repr

/-- A firmware image as boot sees it (R92): its public key, its stages' bytes, its signature and security version. -/
structure Firmware where
  pubKey : BitVec 512
  stages : List (List (BitVec 8))
  sig : BitVec 512
  secVer : Nat
deriving DecidableEq, Repr

/-- A live link of the link-state map: two (DEVID, port) ends (R69). -/
structure LinkRec where
  d1 : Nat
  p1 : Nat
  d2 : Nat
  p2 : Nat
deriving DecidableEq, Repr

/-- A CFG message (R79, R81). -/
inductive CfgMsg
  | windows (mgmt launch log : Nat)
  | portState (port : Fin 2) (up : Bool)
  /-- The port's configuration: L0p when `low`, else L0 (R78). -/
  | portConfig (port : Fin 2) (low : Bool)
deriving DecidableEq, Repr

/-- The host IOMMU's answer to an XLT request (R83). -/
inductive XltAnswer
  | translation (pa : Nat) (r w x : Bool)
  | notPresent
  | refused
deriving DecidableEq, Repr

/-- What a scrub or an ordinary read finds in a sector (R115). -/
inductive SectorFound
  | ok | corrected | uncorrectable
deriving DecidableEq, Repr

/-- A translation cache (R136). -/
inductive CacheId
  | scalar (core : Nat)
  | stream (core : Nat) (e : Eng)
  | sequencer
  | ingress
  | atc
deriving DecidableEq, Repr

/-- What the outside world, or the hardware's own chance, presents with an event.
Each event reads the fields its meaning names; the others are ignored. -/
structure Input where
  /-- A port 0 to 47, or a ZCL port 0 or 1. -/
  port : Nat := 0
  lane : Nat := 0
  core : Nat := 0
  slot : Nat := 0
  cluster : Nat := 0
  stack : Nat := 0
  /-- A bank: stack × 4096 + pseudo-channel × 64 + bank. -/
  bank : Nat := 0
  /-- A launch page, a grant window or an index of a packet held by the router. -/
  index : Nat := 0
  /-- A register or launch-page offset. -/
  off : Nat := 0
  thread : ThreadId := 0
  k : KReg := 0
  mb : MbReg := 0
  group : Fin 4 := 0
  eng : Eng := .vx
  sweep : BitVec 32 := 0
  asid : BitVec 16 := 0
  tag : BitVec 16 := 0
  src : BitVec 16 := 0
  pasid : Nat := 0
  va : Addr := 0
  hi : Addr := 0
  acc : AccKind := .read
  cache : CacheId := .ingress
  /-- The value written by a register write (its low bits), or an event's number. -/
  v : BitVec 128 := 0
  /-- A register write names a host physical address, in `va`, and bytes (R81). -/
  flag : Bool := false
  /-- The lanes on which a training word arrives with eye and FEC margin. -/
  map : BitVec 8 := 0
  flit : BitVec 576 := 0
  row : List LaneWord := []
  bytes : List Byte := []
  counts : List Nat := []
  links : List LinkRec := []
  pkt : Packet := {}
  fw : Firmware := ⟨0, [], 0, 0⟩
  cfg : CfgMsg := .windows 0 0 0
  xlt : XltAnswer := .refused
  found : SectorFound := .ok
  nonce : BitVec 256 := 0
deriving DecidableEq, Repr

end Sys2Proof
end

