-- ==== Sys2Proof/Syntax.lean ====
section
/-! DEFINITION. The one inductive of the machine's instructions: the 206 instructions of the opcode map (R304) and the 131 operations and events of the device, one constructor per row of the opcode table. -/

namespace Sys2Proof

/-- An instruction or an event of the device.
Every allocated instruction but the sequencer words carries its SYNC field first (R292, R425).
An event carries no operand of its own: what the outside or chance presents with it stands in the state's `inp` (`Input`). -/
inductive Instr
  -- SC: integer (R309)
  | add (y : Sync) (d a : SReg) (b : SrcB)
  | sub (y : Sync) (d a : SReg) (b : SrcB)
  | mul (y : Sync) (d a : SReg) (b : SrcB)
  | mulh (y : Sync) (sg : Bool) (d a : SReg) (b : SrcB)
  | div (y : Sync) (sg : Bool) (d a : SReg) (b : SrcB)
  | rem (y : Sync) (sg : Bool) (d a : SReg) (b : SrcB)
  | min (y : Sync) (sg : Bool) (d a : SReg) (b : SrcB)
  | max (y : Sync) (sg : Bool) (d a : SReg) (b : SrcB)
  | and (y : Sync) (d a : SReg) (b : SrcB)
  | or (y : Sync) (d a : SReg) (b : SrcB)
  | xor (y : Sync) (d a : SReg) (b : SrcB)
  | andn (y : Sync) (d a : SReg) (b : SrcB)
  | shl (y : Sync) (d a : SReg) (b : SrcB)
  | shr (y : Sync) (d a : SReg) (b : SrcB)
  | sar (y : Sync) (d a : SReg) (b : SrcB)
  | rotr (y : Sync) (d a : SReg) (b : SrcB)
  -- SC: bits, moves, compares (R310 to R312)
  | clz (y : Sync) (w : Width) (d a : SReg)
  | ctz (y : Sync) (w : Width) (d a : SReg)
  | popc (y : Sync) (w : Width) (d a : SReg)
  | bswap (y : Sync) (w : Width) (d a : SReg)
  | ext (y : Sync) (sg : Bool) (d a : SReg) (lsb wm1 : BitVec 6)
  | ins (y : Sync) (d a : SReg) (lsb wm1 : BitVec 6)
  | sel (y : Sync) (d : SReg) (c : PReg) (a b : SReg)
  | cmp (y : Sync) (c : Cond) (d : PReg) (a : SReg) (b : SrcB)
  | movi (y : Sync) (d : SReg) (x : BitVec 32)
  | movhi (y : Sync) (d : SReg) (x : BitVec 32)
  | mov (y : Sync) (d a : SReg)
  | pset (y : Sync) (op : PsetOp)
  | sext (y : Sync) (w : Width) (d a : SReg)
  | zext (y : Sync) (w : Width) (d a : SReg)
  -- SC: floating point (R313, R314)
  | fadd (y : Sync) (t : FTy) (r : RMod) (d a b : SReg)
  | fsub (y : Sync) (t : FTy) (r : RMod) (d a b : SReg)
  | fmul (y : Sync) (t : FTy) (r : RMod) (d a b : SReg)
  | ffma (y : Sync) (t : FTy) (r : RMod) (d a b c : SReg)
  | fdiv (y : Sync) (t : FTy) (r : RMod) (d a b : SReg)
  | fsqrt (y : Sync) (t : FTy) (r : RMod) (d a : SReg)
  | fmin (y : Sync) (t : FTy) (d a b : SReg)
  | fmax (y : Sync) (t : FTy) (d a b : SReg)
  | fcmp (y : Sync) (t : FTy) (c : FCond) (d : PReg) (a b : SReg)
  | fcvt (y : Sync) (dst src : FTy) (r : RMod) (d a : SReg)
  | icvtf (y : Sync) (t : FTy) (it : IntTy) (r : RMod) (d a : SReg)
  | fcvti (y : Sync) (it : IntTy) (t : FTy) (r : RMod) (d a : SReg)
  -- SC: addresses (R315, R316)
  | aadd (y : Sync) (d a : AReg) (b : SReg)
  | aaddi (y : Sync) (d a : AReg) (x : BitVec 32)
  | alea (y : Sync) (d : AReg) (m : MemOp)
  | amov (y : Sync) (d a : AReg)
  | aset (y : Sync) (d : AReg) (a b : SReg)
  | aget (y : Sync) (hi : Bool) (d : SReg) (a : AReg)
  | asub (y : Sync) (d : SReg) (a b : AReg)
  | acmp (y : Sync) (c : Cond) (d : PReg) (a b : AReg)
  | achk (y : Sync) (k : AccKind) (d : PReg) (a : AReg) (b : SReg)
  -- SC: memory (R317 to R319)
  | ld (y : Sync) (t : IntTy) (o : OrdScope) (d : SReg) (m : MemOp)
  | st (y : Sync) (t : IntTy) (o : OrdScope) (d : SReg) (m : MemOp)
  | lda (y : Sync) (o : OrdScope) (d : AReg) (m : MemOp)
  | sta (y : Sync) (o : OrdScope) (d : AReg) (m : MemOp)
  | atom (y : Sync) (op : AtomOp) (t : IntTy) (o : OrdScope) (d i : SReg) (base : AReg) (disp : BitVec 28)
  | cas (y : Sync) (t : IntTy) (o : OrdScope) (d i : SReg) (base : AReg) (disp : BitVec 28)
  | pref (y : Sync) (sc : Scope) (m : MemOp)
  -- SC: control transfer and loops (R322 to R327)
  | br (y : Sync) (disp : BitVec 32)
  | brp (y : Sync) (p : Pred) (disp : BitVec 32)
  | jmp (y : Sync) (a : AReg)
  | call (y : Sync) (disp : BitVec 32)
  | calla (y : Sync) (d a : AReg)
  | ret (y : Sync) (a : AReg)
  | loop (y : Sync) (a : SReg) (n : BitVec 12)
  | loopi (y : Sync) (x : BitVec 32) (n : BitVec 12)
  | loopmb (y : Sync) (a : MbReg) (n : BitVec 12)
  | lpbrk (y : Sync) (p : Pred) (k : BitVec 3)
  -- SC: special registers and mailboxes (R329 to R331)
  | srd (y : Sync) (x : SprMove)
  | swr (y : Sync) (x : SprMove)
  | mbrd (y : Sync) (d : SReg) (a : MbReg)
  | mbwr (y : Sync) (d : MbReg) (a : SReg)
  | nop (y : Sync)
  -- SY (R332 to R356)
  | semwait (y : Sync) (n : BitVec 8) (k : Cnt)
  | semsig (y : Sync) (n : BitVec 8) (k : Cnt)
  | semset (y : Sync) (n : BitVec 8) (k : Cnt)
  | semrd (y : Sync) (d : SReg) (n : BitVec 8)
  | semcfg (y : Sync) (n : BitVec 8) (e : Bool)
  | qjoin (y : Sync) (m : BitVec 5)
  | fence (y : Sync) (o : FenceOrd) (sc : Scope)
  | mwait (y : Sync) (t : IntTy) (c : Cond) (sc : Scope) (d : SReg) (a : AReg) (b : SReg)
  | lwinit (y : Sync) (a : AReg) (b c : SReg) (sem : Option (BitVec 8))
  | lwwait (y : Sync) (d : SReg) (a : AReg) (g : Cnt)
  | lwrd (y : Sync) (d : SReg) (a : AReg)
  | barinit (y : Sync) (b : BarReg) (m : MaskSrc)
  | bararr (y : Sync) (d : SReg) (b : BarReg)
  | barwait (y : Sync) (b : BarReg) (p : SReg)
  | spawn (y : Sync) (d : SReg) (a : AReg)
  | yieldTask (y : Sync)
  | texit (y : Sync)
  | setclass (y : Sync) (d : SReg) (c : ClassSrc)
  | cropen (y : Sync) (a : AReg) (id : BitVec 16)
  | crclose (y : Sync) (id : BitVec 16)
  | trap (y : Sync) (brk : Bool) (code : BitVec 16)
  | tret (y : Sync)
  | halt (y : Sync)
  | ecall (y : Sync) (d a : SReg) (svc : BitVec 16)
  -- VX: floating point (R364, R365)
  | vadd (y : Sync) (t : VTy) (m : Mod) (d a b : VReg)
  | vsub (y : Sync) (t : VTy) (m : Mod) (d a b : VReg)
  | vmul (y : Sync) (t : VTy) (m : Mod) (d a b : VReg)
  | vfma (y : Sync) (t : VTy) (m : Mod) (d a b c : VReg)
  | vfms (y : Sync) (t : VTy) (m : Mod) (d a b c : VReg)
  | vmin (y : Sync) (t : VTy) (m : Option MReg) (d a b : VReg)
  | vmax (y : Sync) (t : VTy) (m : Option MReg) (d a b : VReg)
  | vabs (y : Sync) (t : VTy) (m : Option MReg) (d a : VReg)
  | vneg (y : Sync) (t : VTy) (m : Option MReg) (d a : VReg)
  | vrcp (y : Sync) (t : VTy) (m : Mod) (d a : VReg)
  | vrsq (y : Sync) (t : VTy) (m : Mod) (d a : VReg)
  | vexp2 (y : Sync) (t : VTy) (m : Mod) (d a : VReg)
  | vlog2 (y : Sync) (t : VTy) (m : Mod) (d a : VReg)
  | vdiv (y : Sync) (t : VTy) (m : Mod) (d a b : VReg)
  | vsqrt (y : Sync) (t : VTy) (m : Mod) (d a : VReg)
  | vfcmp (y : Sync) (t : VTy) (c : FCond) (m : Option MReg) (d : MReg) (a b : VReg)
  -- VX: integer (R366 to R368)
  | viadd (y : Sync) (t : IntTy) (m : Option MReg) (sat : Bool) (d a b : VReg)
  | visub (y : Sync) (t : IntTy) (m : Option MReg) (sat : Bool) (d a b : VReg)
  | vimul (y : Sync) (t : IntTy) (m : Option MReg) (sat : Bool) (d a b : VReg)
  | vimad (y : Sync) (t : IntTy) (m : Option MReg) (sat : Bool) (d a b c : VReg)
  | vimin (y : Sync) (t : IntTy) (m : Option MReg) (d a b : VReg)
  | vimax (y : Sync) (t : IntTy) (m : Option MReg) (d a b : VReg)
  | vand (y : Sync) (t : IntTy) (m : Option MReg) (d a b : VReg)
  | vor (y : Sync) (t : IntTy) (m : Option MReg) (d a b : VReg)
  | vxor (y : Sync) (t : IntTy) (m : Option MReg) (d a b : VReg)
  | vnot (y : Sync) (t : IntTy) (m : Option MReg) (d a : VReg)
  | vshl (y : Sync) (t : IntTy) (m : Option MReg) (d a b : VReg)
  | vshr (y : Sync) (t : IntTy) (m : Option MReg) (d a b : VReg)
  | vsar (y : Sync) (t : IntTy) (m : Option MReg) (d a b : VReg)
  | vicmp (y : Sync) (t : IntTy) (c : Cond) (m : Option MReg) (d : MReg) (a b : VReg)
  | vpopc (y : Sync) (t : IntTy) (m : Option MReg) (d a : VReg)
  | vclmul (y : Sync) (hi : Bool) (m : Option MReg) (d a b : VReg)
  -- VX: conversion and movement (R369 to R371)
  | vcvt (y : Sync) (dst src : BitVec 8) (m : Mod) (d a : VReg)
  | vpack (y : Sync) (t : IntTy) (sat : Bool) (d a b : VReg)
  | vunpack (y : Sync) (t : IntTy) (hi : Bool) (d a : VReg)
  | vbcast (y : Sync) (t : IntTy) (m : Option MReg) (d : VReg) (a : SReg)
  | vextr (y : Sync) (t : IntTy) (d : SReg) (a : VReg) (b : SReg)
  | vinsr (y : Sync) (t : IntTy) (d : VReg) (a b : SReg)
  | vperm (y : Sync) (t : IntTy) (m : Option MReg) (d a b : VReg)
  | vrot (y : Sync) (t : IntTy) (m : Option MReg) (d a : VReg) (b : SReg)
  | vsel (y : Sync) (t : IntTy) (m : MReg) (d a b : VReg)
  | vmov (y : Sync) (t : IntTy) (m : Option MReg) (d a : VReg)
  -- VX: reductions, memory, masks (R372 to R377)
  | vred (y : Sync) (op : RedOp) (m : Mod) (d a : VReg)
  | vscan (y : Sync) (op : RedOp) (m : Mod) (d a : VReg)
  | vdot (y : Sync) (op : RedOp) (m : Mod) (d a b : VReg)
  | vld (y : Sync) (w : Width) (d : VReg) (m : MemOp)
  | vst (y : Sync) (w : Width) (d : VReg) (m : MemOp)
  | vlds (y : Sync) (w : Width) (d : VReg) (m : MemOp)
  | vsts (y : Sync) (w : Width) (d : VReg) (m : MemOp)
  | vgath (y : Sync) (w : Width) (d : VReg) (g : GatherOp)
  | vscat (y : Sync) (w : Width) (d : VReg) (g : GatherOp)
  | mlog (y : Sync) (op : MlogOp)
  | mpopc (y : Sync) (d : SReg) (a : MReg)
  | msetl (y : Sync) (w : Width) (d : MReg) (a : SReg)
  | vsetw (y : Sync) (d : SReg) (x : WidthSrc)
  -- TX (R380 to R384)
  | txload (y : Sync) (d s : AReg)
  | txrun (y : Sync) (dst src : VTy) (sat : Bool) (d s : AReg) (n : SReg) (t : AReg)
  | txv (y : Sync) (dst src : VTy) (m : Option MReg) (sat : Bool) (d a : VReg) (t : AReg)
  | txcfg (y : Sync) (t : AReg) (a b : SReg)
  | txrd (y : Sync) (d : SReg) (t : AReg) (a : SReg)
  -- MX (R395 to R406)
  | mxldw (y : Sync) (fmt : BitVec 8) (w : AReg) (t : SReg) (x : GReg) (sc : ScaleOp)
  | mxldwt (y : Sync) (fmt : BitVec 8) (w : AReg) (t : SReg) (x : GReg) (sc : ScaleOp)
  | mxpass (y : Sync) (fmt : BitVec 8) (acc : AccReg) (a : AReg) (t : SReg) (x : GReg) (sc : ScaleOp)
  | mxzero (y : Sync) (mask : BitVec 8)
  | mxst (y : Sync) (kind : AccKindM) (dst : BitVec 8) (r : RMod) (acc : AccReg) (d : AReg) (t : SReg) (x : GReg)
  | mxrdv (y : Sync) (kind : AccKindM) (dst : BitVec 8) (r : RMod) (d : VReg) (acc : AccReg) (t : SReg)
  | mxwrv (y : Sync) (acc : AccReg) (a : VReg) (t : SReg)
  | mxagen (y : Sync) (op : AgenOp)
  | mxscl (y : Sync) (s : AReg) (t : SReg) (g : GReg)
  | mxmode (y : Sync) (op : ModeOp)
  | mxchk (y : Sync) (op : ChkOp)
  | mxidle (y : Sync)
  -- CX (R412 to R421)
  | cpy (y : Sync) (d s : AReg) (n : SReg) (lw : Option AReg)
  | cpyt (y : Sync) (p : BitVec 4) (d s : AReg) (t : SReg) (dstr : BitVec 16) (lw : Option AReg)
  | cpym (y : Sync) (d s : AReg) (n m : SReg) (lw : Option (BitVec 26))
  | fill (y : Sync) (w : Width) (d : AReg) (n v : SReg) (lw : Option AReg)
  | rlopen (y : Sync) (k : KReg) (r : AReg)
  | rlhold (y : Sync) (k : KReg)
  | rlrel (y : Sync) (k : KReg)
  | rlrd (y : Sync) (d : AReg) (k : KReg) (p : SReg) (lw : Option AReg)
  | rlwr (y : Sync) (k : KReg) (s : AReg) (p : SReg)
  | rlstat (y : Sync) (d : SReg) (k : KReg)
  | streamrow (y : Sync) (d r : AReg) (lw : Option AReg)
  | bankclose (y : Sync) (r : AReg)
  -- SQ (R422 to R429)
  | sqload (y : Sync) (sys : Bool) (d : SReg) (t : ThreadId) (p : AReg) (n : SReg)
  | sqstart (y : Sync) (d : SReg) (t : ThreadId) (a : AReg)
  | sqstop (y : Sync) (d : SReg) (t : ThreadId)
  | sqstat (y : Sync) (d : SReg) (t : ThreadId)
  | sqburst (s n o : WReg) (ms : MsReg) (lw : Option (BitVec 26))
  | sqset (op : SqsetOp)
  | sqsig (ms : MsReg) (n : BitVec 8) (c : BitVec 4)
  | sqwait (a v : WReg)
  | sqloop (c : WReg) (disp : BitVec 32)
  | sqend
  -- FX (R430 to R444)
  | put (y : Sync) (psz : Psz) (r s : AReg) (k c : SReg) (n : BitVec 32)
  | get (y : Sync) (psz : Psz) (d r : AReg) (k c : SReg) (n : BitVec 32)
  | rld (y : Sync) (t : IntTy) (acq : Bool) (sc : RScope) (d : SReg) (r : AReg) (k c : SReg)
  | rst (y : Sync) (t : IntTy) (rel : Bool) (sc : RScope) (v : SReg) (r : AReg) (k c : SReg)
  | ratom (y : Sync) (op : RatomOp) (o : Order) (sc : RScope) (noret : Bool) (v : SReg) (r : AReg) (k c : SReg)
  | rcas (y : Sync) (t : IntTy) (o : Order) (sc : RScope) (d : SReg) (r : AReg) (n c : SReg)
  | flush (y : Sync) (sc : RScope)
  | sld (y : Sync) (t : IntTy) (acq : Bool) (sc : RScope) (d i : SReg) (h : BitVec 12)
  | sst (y : Sync) (t : IntTy) (rel : Bool) (sc : RScope) (v i : SReg) (h : BitVec 12)
  | sget (y : Sync) (psz : Psz) (d : AReg) (i n : SReg) (h : BitVec 12) (lw : Option AReg)
  | sput (y : Sync) (op : SputOp) (s : AReg) (i n : SReg) (h : BitVec 12)
  | shfence (y : Sync)
  | shupd (y : Sync) (d : SReg) (a : AReg) (h : BitVec 12)
  | grant (y : Sync) (d a : SReg)
  | revoke (y : Sync) (a : SReg)
  -- Power, clocks and matrix gating (R31 to R38, R92)
  | powerOn
  | powerOff
  | attestationRequest
  | devctlWarmrst
  | tmcmdTruncate
  | ageingSample
  | clkSetstepWrite
  | clockChangePoint
  | clockRelockComplete
  | thermalThrottle
  | throttleStep
  | thermalTrip
  | matrixAutoidleGate
  | matrixGatingDone
  | matrixWakeDone
  -- The link (R42 to R57)
  | codewordRowReceive
  | laneWindowEnd
  | laneProposeRepeat
  | flitTransmit
  | idleFlitReceive
  | sequencedFlitReceive
  | retryReceive
  | retryResendTimeout
  | replayTimeout
  | laneProposeReceive
  | laneCommitReceive
  | laneDoneReceive
  | trainingWordReceive
  | trainingWordRepeat
  | strandedBackoffExpiry
  | downRetrainTimer
  | lthrWrite
  | lctlClrdown
  | lctlClrcnt
  | lctlRetrain
  | lctlHold
  | lctlPerhop
  | portDegradeWindow
  -- Routing (R62 to R71)
  | packetRoute
  | packetForward
  | ebbtExpiry
  | ebbPacketForward
  | tree
  | ebbFlip
  | flipReceive
  | drainSend
  | drain
  | ebbReportsCollected
  -- Requests and responses (R72 to R76, R432 to R440)
  | putreq
  | getreq
  | ldreq
  | streq
  | atomreq
  | casreq
  | ordreq
  | mgmt
  | ack
  | data
  | atomrsp
  | nack
  | requestResendTimeout
  | ordResend
  | ordRoundAbandon
  | completionRecordExpiry
  | wintWrite
  -- The host (R78 to R91)
  | zclCfgMessage
  | zclLinkDown
  | hostlinkTimeout
  | zclMemCompletion
  | xltReply
  | inv
  | invComplete
  | launchWrite
  | queueToPool
  | lpcfgWrite
  | lpringWrite
  | lpptrHeadWrite
  | mailboxHostWrite
  | registerWrite
  -- Main memory (R98 to R118)
  | latchGrant
  | leaseExpiry
  | refreshIssue
  | refreshComplete
  | rfmIssue
  | rfmComplete
  | stackTempReport
  | selfRefreshExit
  | memcfgWrite
  | scrubRead
  | bankReservationWaitExpiry
  | burstSlotGrant
  -- Translation and the sweeps (R130 to R174, R198)
  | pageWalk
  | streamTlbWalkAhead
  | pfheadWrite
  | map
  | unmap
  | modify
  | flushasid
  | resume
  | refuse
  | mappingBadop
  | mappingCommandComplete
  | unitPlacement
  | unitClearComplete
  | prewaitExpiry
  | schedctlWrite
  | sweepComplete
  | pendingTrapTaken
  | waittimeExpiry
  | waitConditionMet
  | preemptionImageWrite
  | preempt
  | exportSweep
  | importSweep
  | releaseSweep
  | sweepCmdBadop
  | dbgctlHalt
  | dbgctlRelease
  | dbgctlHaltonbrk
  | instructionFetch
  | engineEntryStart
  | engineUnitCommit
  | engineEntryComplete
  | ecallReply
  | mwaitPoll
  | sqwaitPoll
  -- The remaining events
  | zclLinkUp
  | laneLossOfLock
  | imageRestoreComplete
  | sweepCommandComplete
  | sequencerWordDecodeError
deriving DecidableEq, Repr

end Sys2Proof
end

