-- ==== Sys2Proof/WellFormed.lean ====
section
/-! DEFINITION. The limits on an instruction's operands that its operand types do not already carry: every case of R287 that an instruction's own description names and that does not depend on the state. -/

namespace Sys2Proof

/-- A count of zero names no semaphore (R292). -/
def Sync.ok (y : Sync) : Bool :=
  (y.wcnt != 0 || y.wsem == 0) && (y.sinc != 0 || y.ssem == 0)

/-- Width of an element type in bits (R294). -/
def VTy.bits : VTy → Nat
  | .f32 => 32
  | .bf16 | .f16 => 16

/-- log2 of the width in bytes. -/
def Width.log2 : Width → Nat
  | .w8 => 0 | .w16 => 1 | .w32 => 2 | .w64 => 3

/-- Width in bytes. -/
def Width.bytes (w : Width) : Nat := 2 ^ w.log2

/-- Width in bits. -/
def Width.bits (w : Width) : Nat := 8 * w.bytes

/-- A mask group of elements of `bits` bits begins at `m`: even for 16, a multiple of 4 for 8 (R358). -/
def groupOk (bits : Nat) (m : MReg) : Bool :=
  if bits = 16 then m.val % 2 == 0 else if bits = 8 then m.val % 4 == 0 else true

/-- The optional mask of an instruction (R358). -/
def maskOk (bits : Nat) : Option MReg → Bool
  | none => true
  | some m => groupOk bits m

/-- A binary8 format code (R260). -/
def isBinary8 (c : BitVec 8) : Bool :=
  c.toNat < 0x20 && c.toNat % 8 != 0

/-- A format code of R260 other than 0xFF. -/
def isFormat (c : BitVec 8) : Bool :=
  isBinary8 c || (0x20 ≤ c.toNat && c.toNat ≤ 0x24)

/-- Width of a format in bits (R260, R369). -/
def fmtBits (c : BitVec 8) : Nat :=
  if c.toNat ≤ 0x20 then 8 else if c.toNat ≤ 0x22 then 16 else 32

/-- The integer formats INT8 and INT32. -/
def isIntFormat (c : BitVec 8) : Bool := c == 0x20 || c == 0x24

/-- A weight or activation format (R396). -/
def isMxFormat (c : BitVec 8) : Bool :=
  isBinary8 c || (0x20 ≤ c.toNat && c.toNat ≤ 0x22)

/-- The destinations and roundings of MXST and MXRDV (R401). -/
def mxStoreOk (kind : AccKindM) (dst : BitVec 8) (rm : Rm) : Bool :=
  isBinary8 dst || (0x21 ≤ dst.toNat && dst.toNat ≤ 0x23)
    || (kind == .ia && isIntFormat dst && rm == .rne)

/-- ACMP's conditions are the unsigned ones (R315). -/
def acmpCond : Cond → Bool
  | .eq | .ne | .ltu | .geu | .leu | .gtu => true
  | _ => false

/-- Types whose double is a type: VPACK and VUNPACK (R370). -/
def halfTy (t : IntTy) : Bool := t.w != .w64

/-- Element width of a reduction's operation. -/
def RedOp.bits : RedOp → Nat
  | .fadd t | .fmin t | .fmax t => t.bits
  | .iadd t | .imin t | .imax t | .iand t | .ior t | .ixor t => t.w.bits

/-- RM and SAT of VRED, VSCAN and VDOT by operation (R372). -/
def redModOk (op : RedOp) (m : Mod) : Bool :=
  maskOk op.bits m.mask &&
  match op with
  | .fadd _ => m.rm != .sr && !m.sat
  | .iadd _ => m.rm == .rne
  | _ => m.rm == .rne && !m.sat

/-- VDOT takes the two adds only (R372). -/
def isAdd : RedOp → Bool
  | .fadd _ | .iadd _ => true
  | _ => false

/-- Width at which VCVT governs its mask: the wider format (R369). -/
def cvtBits (dst src : BitVec 8) : Nat := Nat.max (fmtBits dst) (fmtBits src)

/-- Width at which TXV governs its mask (R383). -/
def txBits (dst src : VTy) : Nat := Nat.max dst.bits src.bits

/-- An immediate count of SEMWAIT and SEMSIG is not zero (R332). -/
def cntOk : Cnt → Bool
  | .imm k => k != 0
  | .reg _ => true

/-- The SYNC field of an instruction; events and sequencer words have none (R292, R425). -/
def Instr.sync : Instr → Option Sync
  | .add y .. | .sub y .. | .mul y .. | .mulh y .. | .div y .. | .rem y .. | .min y .. | .max y ..
  | .and y .. | .or y .. | .xor y .. | .andn y .. | .shl y .. | .shr y .. | .sar y .. | .rotr y ..
  | .clz y .. | .ctz y .. | .popc y .. | .bswap y .. | .ext y .. | .ins y .. | .sel y .. | .cmp y ..
  | .movi y .. | .movhi y .. | .mov y .. | .pset y .. | .sext y .. | .zext y ..
  | .fadd y .. | .fsub y .. | .fmul y .. | .ffma y .. | .fdiv y .. | .fsqrt y .. | .fmin y .. | .fmax y ..
  | .fcmp y .. | .fcvt y .. | .icvtf y .. | .fcvti y ..
  | .aadd y .. | .aaddi y .. | .alea y .. | .amov y .. | .aset y .. | .aget y .. | .asub y .. | .acmp y .. | .achk y ..
  | .ld y .. | .st y .. | .lda y .. | .sta y .. | .atom y .. | .cas y .. | .pref y ..
  | .br y .. | .brp y .. | .jmp y .. | .call y .. | .calla y .. | .ret y .. | .loop y .. | .loopi y .. | .loopmb y .. | .lpbrk y ..
  | .srd y .. | .swr y .. | .mbrd y .. | .mbwr y .. | .nop y
  | .semwait y .. | .semsig y .. | .semset y .. | .semrd y .. | .semcfg y .. | .qjoin y .. | .fence y .. | .mwait y ..
  | .lwinit y .. | .lwwait y .. | .lwrd y .. | .barinit y .. | .bararr y .. | .barwait y .. | .spawn y .. | .yieldTask y
  | .texit y | .setclass y .. | .cropen y .. | .crclose y .. | .trap y .. | .tret y | .halt y | .ecall y ..
  | .vadd y .. | .vsub y .. | .vmul y .. | .vfma y .. | .vfms y .. | .vmin y .. | .vmax y .. | .vabs y .. | .vneg y ..
  | .vrcp y .. | .vrsq y .. | .vexp2 y .. | .vlog2 y .. | .vdiv y .. | .vsqrt y .. | .vfcmp y ..
  | .viadd y .. | .visub y .. | .vimul y .. | .vimad y .. | .vimin y .. | .vimax y .. | .vand y .. | .vor y .. | .vxor y ..
  | .vnot y .. | .vshl y .. | .vshr y .. | .vsar y .. | .vicmp y .. | .vpopc y .. | .vclmul y ..
  | .vcvt y .. | .vpack y .. | .vunpack y .. | .vbcast y .. | .vextr y .. | .vinsr y .. | .vperm y .. | .vrot y .. | .vsel y .. | .vmov y ..
  | .vred y .. | .vscan y .. | .vdot y .. | .vld y .. | .vst y .. | .vlds y .. | .vsts y .. | .vgath y .. | .vscat y ..
  | .mlog y .. | .mpopc y .. | .msetl y .. | .vsetw y ..
  | .txload y .. | .txrun y .. | .txv y .. | .txcfg y .. | .txrd y ..
  | .mxldw y .. | .mxldwt y .. | .mxpass y .. | .mxzero y .. | .mxst y .. | .mxrdv y .. | .mxwrv y .. | .mxagen y ..
  | .mxscl y .. | .mxmode y .. | .mxchk y .. | .mxidle y
  | .cpy y .. | .cpyt y .. | .cpym y .. | .fill y .. | .rlopen y .. | .rlhold y .. | .rlrel y .. | .rlrd y .. | .rlwr y .. | .rlstat y ..
  | .streamrow y .. | .bankclose y .. | .sqload y .. | .sqstart y .. | .sqstop y .. | .sqstat y ..
  | .put y .. | .get y .. | .rld y .. | .rst y .. | .ratom y .. | .rcas y .. | .flush y .. | .sld y .. | .sst y .. | .sget y ..
  | .sput y .. | .shfence y | .shupd y .. | .grant y .. | .revoke y .. => some y
  | _ => none

/-- The operands of an instruction keep the limits its description names. -/
def Instr.operandsOk : Instr → Bool
  | .ext _ _ _ _ lsb wm1 | .ins _ _ _ lsb wm1 => lsb.toNat + wm1.toNat < 64
  | .acmp _ c _ _ _ => acmpCond c
  | .ld _ _ o _ _ | .lda _ o _ _ => o.ord != .rel
  | .st _ _ o _ _ | .sta _ o _ _ => o.ord != .acq
  | .loop _ _ n | .loopi _ _ n | .loopmb _ _ n => n != 0
  | .lpbrk _ _ k => 1 ≤ k.toNat && k.toNat ≤ 4
  | .semwait _ _ k | .semsig _ _ k => cntOk k
  | .qjoin _ m => m != 0
  | .vadd _ t m _ _ _ | .vsub _ t m _ _ _ | .vmul _ t m _ _ _ | .vdiv _ t m _ _ _
  | .vfma _ t m _ _ _ _ | .vfms _ t m _ _ _ _
  | .vrcp _ t m _ _ | .vrsq _ t m _ _ | .vexp2 _ t m _ _ | .vlog2 _ t m _ _ | .vsqrt _ t m _ _ => maskOk t.bits m.mask
  | .vmin _ t m _ _ _ | .vmax _ t m _ _ _ | .vabs _ t m _ _ | .vneg _ t m _ _ => maskOk t.bits m
  | .vfcmp _ t _ m d _ _ => maskOk t.bits m && groupOk t.bits d
  | .viadd _ t m _ _ _ _ | .visub _ t m _ _ _ _ | .vimul _ t m _ _ _ _ | .vimad _ t m _ _ _ _ _
  | .vimin _ t m _ _ _ | .vimax _ t m _ _ _ | .vand _ t m _ _ _ | .vor _ t m _ _ _ | .vxor _ t m _ _ _
  | .vnot _ t m _ _ | .vshl _ t m _ _ _ | .vshr _ t m _ _ _ | .vsar _ t m _ _ _ | .vpopc _ t m _ _
  | .vbcast _ t m _ _ | .vperm _ t m _ _ _ | .vrot _ t m _ _ _ | .vmov _ t m _ _ => maskOk t.w.bits m
  | .vicmp _ t _ m d _ _ => maskOk t.w.bits m && groupOk t.w.bits d
  | .vsel _ t m _ _ _ => groupOk t.w.bits m
  | .vcvt _ dst src m _ _ =>
    isFormat dst && isFormat src && maskOk (cvtBits dst src) m.mask
      && (!(isIntFormat dst && isIntFormat src) || m.rm == .rne)
  | .vpack _ t _ _ _ _ | .vunpack _ t _ _ _ => halfTy t
  | .vred _ op m _ _ | .vscan _ op m _ _ => redModOk op m
  | .vdot _ op m _ _ _ => isAdd op && redModOk op m
  | .vgath _ w _ _ | .vscat _ w _ _ => w != .w8
  | .msetl _ w d _ => groupOk w.bits d
  | .txv _ dst src m _ _ _ _ => maskOk (txBits dst src) m
  | .mxldw _ f _ _ _ _ | .mxldwt _ f _ _ _ _ | .mxpass _ f _ _ _ _ _ => isMxFormat f
  | .mxzero _ mask => mask != 0
  | .mxst _ k dst r _ _ _ _ | .mxrdv _ k dst r _ _ _ => mxStoreOk k dst r.rm
  | .sqsig _ _ c => c != 0
  | .rcas _ _ _ _ _ _ _ c => c.val ≤ 62
  | .sld _ _ _ _ _ i _ | .sst _ _ _ _ _ i _ | .sget _ _ _ i _ _ _ | .sput _ _ _ i _ _ => i.val ≤ 62
  | _ => true

/-- A well-formed instruction: its SYNC field and its operands keep every limit of R287 that depends on the word alone. -/
def Instr.wf (i : Instr) : Bool :=
  (match i.sync with
   | some y => y.ok
   | none => true) && i.operandsOk

end Sys2Proof
end

