-- ==== Sys2Proof/Decode.lean ====
section
/-! DEFINITION. Decoding instruction words (R286 to R306 and the encoding tables of the instruction chapters), and AFTER it the encoder written from the same tables. -/

namespace Sys2Proof

/-- Why a word is no instruction; each reason makes a task trap ILLEGAL and a Flood thread enter ERROR with CAUSE 0x01 (R287, R306). -/
inductive Reject
  | cls | opcode | qualifier | reserved | register | sync | operand
deriving DecidableEq, Repr

/-- The result of decoding. -/
abbrev Dec := Except Reject Instr

/-- The fields of a word (R286, R288): F-E names `d a b c x` E0 to E3 and IMM; F-M names them D, BASE, INDEX, SCALE with OS, and DISP; F-B has PRED in `d`. -/
structure Fields where
  cls : BitVec 4
  opc : BitVec 8
  q : BitVec 4
  wsem : BitVec 8
  wcnt : BitVec 4
  ssem : BitVec 8
  sinc : BitVec 4
  d : BitVec 6
  a : BitVec 6
  b : BitVec 6
  c : BitVec 6
  x : BitVec 32
deriving DecidableEq, Repr

/-- The word with these fields (R286). -/
def Fields.pack (f : Fields) : InstrWord :=
  f.cls ++ (f.opc ++ (f.q ++ (f.wsem ++ (f.wcnt ++ (f.ssem ++ (f.sinc ++ (f.d ++ (f.a ++ (f.b ++ (f.c ++ f.x))))))))))

/-- The fields of a word (R286, R288, R292). -/
def Fields.unpack (w : InstrWord) : Fields where
  cls := w.extractLsb' 92 4
  opc := w.extractLsb' 84 8
  q := w.extractLsb' 80 4
  wsem := w.extractLsb' 72 8
  wcnt := w.extractLsb' 68 4
  ssem := w.extractLsb' 60 8
  sinc := w.extractLsb' 56 4
  d := w.extractLsb' 50 6
  a := w.extractLsb' 44 6
  b := w.extractLsb' 38 6
  c := w.extractLsb' 32 6
  x := w.extractLsb' 0 32

/-! The readers of single fields, in continuation form: each passes on what it read, or rejects by name. -/

/-- Continue when a condition holds. -/
def need (e : Reject) (b : Bool) (k : Dec) : Dec := bif b then k else .error e

/-- Reserved fields are zero (R287). -/
abbrev zero (b : Bool) (k : Dec) : Dec := need .reserved b k

/-- The qualifier has the only value the instruction defines. -/
abbrev qual (b : Bool) (k : Dec) : Dec := need .qualifier b k

/-- A scalar register: every value names one (R290). -/
def sregD (v : BitVec 6) (k : SReg → Dec) : Dec := k v.toFin

/-- A register of a kind with `n` registers (R290). -/
def regD (n : Nat) (v : BitVec 6) (k : Fin n → Dec) : Dec :=
  if h : v.toNat < n then k ⟨v.toNat, h⟩ else .error .register

abbrev aregD (v : BitVec 6) (k : AReg → Dec) : Dec := regD 32 v k
abbrev vregD (v : BitVec 6) (k : VReg → Dec) : Dec := regD 32 v k
abbrev pregD (v : BitVec 6) (k : PReg → Dec) : Dec := regD 8 v k
abbrev mregD (v : BitVec 6) (k : MReg → Dec) : Dec := regD 8 v k
abbrev accD (v : BitVec 6) (k : AccReg → Dec) : Dec := regD 8 v k
abbrev kregD (v : BitVec 6) (k : KReg → Dec) : Dec := regD 16 v k
abbrev barD (v : BitVec 6) (k : BarReg → Dec) : Dec := regD 16 v k
abbrev mbD (v : BitVec 6) (k : MbReg → Dec) : Dec := regD 16 v k
abbrev wregD (v : BitVec 6) (k : WReg → Dec) : Dec := regD 16 v k

/-- A 4-bit thread number (R422). -/
def thrD (v : BitVec 4) (k : ThreadId → Dec) : Dec := k v.toFin
/-- A 2-bit set number (R395). -/
def gregD (v : BitVec 2) (k : GReg → Dec) : Dec := k v.toFin

/-- Bits [n-1:lo] of X or IMM. -/
def Fields.xb (f : Fields) (lo n : Nat) : BitVec n := f.x.extractLsb' lo n

/-- Width by its 2-bit code (R293). -/
def widthOf (v : BitVec 2) : Width :=
  match v.toNat with
  | 0 => .w8 | 1 => .w16 | 2 => .w32 | _ => .w64

/-- The code of a width. -/
def Width.code : Width → BitVec 2
  | .w8 => 0 | .w16 => 1 | .w32 => 2 | .w64 => 3

/-- A 4-bit width qualifier: [3:2] zero (R310, R373). -/
def widthD (v : BitVec 4) (k : Width → Dec) : Dec :=
  qual (v.extractLsb' 2 2 == 0) (k (widthOf (v.extractLsb' 0 2)))

/-- An integer type (R293). -/
def intTyD (v : BitVec 4) (k : IntTy → Dec) : Dec :=
  qual (!v.getLsbD 3) (k ⟨widthOf (v.extractLsb' 0 2), v.getLsbD 2⟩)

/-- The code of an integer type (R293). -/
def IntTy.code (t : IntTy) : BitVec 4 := BitVec.ofBool false ++ (BitVec.ofBool t.signed ++ t.w.code)

/-- A scalar float type (R294). -/
def ftyD (v : BitVec 4) (k : FTy → Dec) : Dec :=
  match v.toNat with
  | 0 => k .f32 | 3 => k .f64 | _ => .error .qualifier

/-- The code of a scalar float type. -/
def FTy.code : FTy → BitVec 4
  | .f32 => 0 | .f64 => 3

/-- A vector float type (R294). -/
def vtyD (v : BitVec 4) (k : VTy → Dec) : Dec :=
  match v.toNat with
  | 0 => k .f32 | 1 => k .bf16 | 2 => k .f16 | _ => .error .qualifier

/-- The code of a vector float type. -/
def VTy.code : VTy → BitVec 4
  | .f32 => 0 | .bf16 => 1 | .f16 => 2

/-- A vector float type in two bits of Q (R380). -/
def vty2D (v : BitVec 2) (k : VTy → Dec) : Dec :=
  match v.toNat with
  | 0 => k .f32 | 1 => k .bf16 | 2 => k .f16 | _ => .error .qualifier

/-- The 2-bit code of a vector float type. -/
def VTy.code2 : VTy → BitVec 2
  | .f32 => 0 | .bf16 => 1 | .f16 => 2

/-- A condition (R311). -/
def condD (v : BitVec 4) (k : Cond → Dec) : Dec :=
  match v.toNat with
  | 0 => k .eq | 1 => k .ne | 2 => k .lt | 3 => k .ge | 4 => k .ltu
  | 5 => k .geu | 6 => k .le | 7 => k .gt | 8 => k .leu | 9 => k .gtu
  | _ => .error .qualifier

/-- The code of a condition (R311). -/
def Cond.code : Cond → BitVec 4
  | .eq => 0 | .ne => 1 | .lt => 2 | .ge => 3 | .ltu => 4
  | .geu => 5 | .le => 6 | .gt => 7 | .leu => 8 | .gtu => 9

/-- A floating-point condition (R314). -/
def fcondD (v : BitVec 6) (k : FCond → Dec) : Dec :=
  match v.toNat with
  | 0 => k .eq | 1 => k .ne | 2 => k .lt | 3 => k .le
  | 4 => k .gt | 5 => k .ge | 6 => k .un | 7 => k .or
  | _ => .error .operand

/-- The code of a floating-point condition. -/
def FCond.code : FCond → BitVec 6
  | .eq => 0 | .ne => 1 | .lt => 2 | .le => 3 | .gt => 4 | .ge => 5 | .un => 6 | .or => 7

/-- A rounding mode (R296). -/
def rmD (v : BitVec 3) (k : Rm → Dec) : Dec :=
  match v.toNat with
  | 0 => k .rne | 1 => k .rtz | 2 => k .rup | 3 => k .rdn | 4 => k .sr
  | _ => .error .operand

/-- The code of a rounding mode. -/
def Rm.code : Rm → BitVec 3
  | .rne => 0 | .rtz => 1 | .rup => 2 | .rdn => 3 | .sr => 4

/-- MEN and MASK of MOD, as bits [7:4] (R296). -/
def maskD (v : BitVec 4) (k : Option MReg → Dec) : Dec :=
  bif v.getLsbD 3 then k (some (v.extractLsb' 0 3).toFin)
  else zero (v.extractLsb' 0 3 == 0) (k none)

/-- The code of an optional mask. -/
def maskCode : Option MReg → BitVec 4
  | none => 0
  | some m => BitVec.ofBool true ++ BitVec.ofFin (w := 3) m

/-- The modifier byte MOD in X[7:0] (R296). -/
def Fields.modD (f : Fields) (k : Mod → Dec) : Dec :=
  maskD (f.xb 4 4) fun m => rmD (f.xb 0 3) fun rm => k ⟨m, (f.xb 3 1) == 1, rm⟩

/-- MOD without a mask (R313). -/
def Fields.rmodD (f : Fields) (k : RMod → Dec) : Dec :=
  zero (f.xb 4 4 == 0) <| rmD (f.xb 0 3) fun rm => k ⟨rm, (f.xb 3 1) == 1⟩

/-- MOD with a mask only (R296). -/
def Fields.maskOnlyD (f : Fields) (k : Option MReg → Dec) : Dec :=
  zero (f.xb 0 4 == 0) (maskD (f.xb 4 4) k)

/-- MOD with a mask and SAT (R366). -/
def Fields.maskSatD (f : Fields) (k : Option MReg → Bool → Dec) : Dec :=
  zero (f.xb 0 3 == 0) (maskD (f.xb 4 4) fun m => k m ((f.xb 3 1) == 1))

/-- The byte MOD (R296). -/
def modByte (m : Option MReg) (sat : Bool) (rm : Rm) : BitVec 8 :=
  maskCode m ++ (BitVec.ofBool sat ++ rm.code)

/-- Order by its code (R297). -/
def orderOf (v : BitVec 2) : Order :=
  match v.toNat with
  | 0 => .rlx | 1 => .acq | 2 => .rel | _ => .ar

/-- The code of an order. -/
def Order.code : Order → BitVec 2
  | .rlx => 0 | .acq => 1 | .rel => 2 | .ar => 3

/-- Scope by its code (R297). -/
def scopeOf (v : BitVec 2) : Scope :=
  match v.toNat with
  | 0 => .core | 1 => .dev | 2 => .fab | _ => .sys

/-- The code of a scope. -/
def Scope.code : Scope → BitVec 2
  | .core => 0 | .dev => 1 | .fab => 2 | .sys => 3

/-- OS of F-M (R288). -/
def Fields.osD (f : Fields) : OrdScope := ⟨orderOf (f.c.extractLsb' 2 2), scopeOf (f.c.extractLsb' 0 2)⟩

/-- The memory operand of F-M (R289). -/
def Fields.memD (f : Fields) (k : MemOp → Dec) : Dec :=
  aregD f.a fun b => sregD f.b fun i => k ⟨b, i, f.c.extractLsb' 4 2, f.x⟩

/-- The gather operand (R373). -/
def Fields.gatherD (f : Fields) (k : GatherOp → Dec) : Dec :=
  aregD f.a fun b => vregD f.b fun i => k ⟨b, i, f.c.extractLsb' 4 2, f.x⟩

/-- The scope of a fabric member: .fab or .sys (R430). -/
def rscopeD (v : BitVec 2) (k : RScope → Dec) : Dec :=
  match v.toNat with
  | 2 => k .fab | 3 => k .sys | _ => .error .operand

/-- The code of a fabric scope. -/
def RScope.code : RScope → BitVec 2
  | .fab => 2 | .sys => 3

/-- PSZ (R430). -/
def pszD (v : BitVec 2) (k : Psz → Dec) : Dec :=
  match v.toNat with
  | 0 => k .pk256 | 1 => k .pk128 | 2 => k .pk64 | _ => .error .qualifier

/-- The code of PSZ. -/
def Psz.code : Psz → BitVec 2
  | .pk256 => 0 | .pk128 => 1 | .pk64 => 2

/-- ATOM's operation by code (R318). -/
def atomD (v : BitVec 4) (k : AtomOp → Dec) : Dec :=
  match v.toNat with
  | 0 => k .add | 1 => k .and | 2 => k .or | 3 => k .xor | 4 => k .min | 5 => k .max | 6 => k .xchg
  | _ => .error .operand

/-- The code of ATOM's operation. -/
def AtomOp.code : AtomOp → BitVec 4
  | .add => 0 | .and => 1 | .or => 2 | .xor => 3 | .min => 4 | .max => 5 | .xchg => 6

/-- A branch predicate in PRED (R291). -/
def predD (v : BitVec 6) (k : Pred → Dec) : Dec :=
  if v.toNat < 8 then k (.pos (v.extractLsb' 0 3).toFin)
  else if v.toNat < 16 then k (.neg (v.extractLsb' 0 3).toFin)
  else if v = 0x3F then k .always else .error .operand

/-- The code of a branch predicate. -/
def Pred.code : Pred → BitVec 6
  | .pos p => 0#3 ++ BitVec.ofFin (w := 3) p
  | .neg p => 1#3 ++ BitVec.ofFin (w := 3) p
  | .always => 0x3F

/-- SRD's and SWR's special register by index (R230): whether it moves through an address register, and which. -/
def sprD (v : BitVec 8) (ks : SprS → Dec) (ka : SprA → Dec) : Dec :=
  match v.toNat with
  | 0x00 => ks .cycle
  | 0x01 => ks .corenum
  | 0x02 => ks .devid
  | 0x03 => ks .taskid
  | 0x04 => ks .sweepid
  | 0x05 => ks .cls
  | 0x08 => ks .esw
  | 0x09 => ka .epc
  | 0x0A => ks .ecause
  | 0x0B => ka .eaddr
  | 0x0C => ks .ecp
  | 0x0D => ks .esp
  | 0x0E => ka .hbase
  | 0x0F => ks .waitlimit
  | 0x10 => ks .mxwake
  | 0x18 => ks .capcores
  | 0x19 => ks .capgang
  | 0x1A => ks .caprowq
  | _ => .error .operand

/-- The index of a special register moved through a scalar register (R230). -/
def SprS.code : SprS → BitVec 8
  | .cycle => 0x00
  | .corenum => 0x01
  | .devid => 0x02
  | .taskid => 0x03
  | .sweepid => 0x04
  | .cls => 0x05
  | .esw => 0x08
  | .ecause => 0x0A
  | .ecp => 0x0C
  | .esp => 0x0D
  | .waitlimit => 0x0F
  | .mxwake => 0x10
  | .capcores => 0x18
  | .capgang => 0x19
  | .caprowq => 0x1A

/-- The index of a special register moved through an address register (R230). -/
def SprA.code : SprA → BitVec 8
  | .epc => 0x09
  | .eaddr => 0x0B
  | .hbase => 0x0E

/-! ## Class 0x0, SC -/

/-- The second operand of group 0x0: s[B] with X zero, or X with B zero, by Q[0] (R309). -/
def Fields.srcBD (f : Fields) (k : SrcB → Dec) : Dec :=
  bif f.q.getLsbD 0 then zero (f.b == 0) (k (.imm f.x)) else zero (f.x == 0) (sregD f.b fun r => k (.reg r))

/-- Members of group 0x0 without a signed form (R309). -/
def Fields.int3D (f : Fields) (k : SReg → SReg → SrcB → Dec) : Dec :=
  qual (f.q.extractLsb' 1 3 == 0) <| zero (f.c == 0) <|
  sregD f.d fun d => sregD f.a fun a => f.srcBD fun b => k d a b

/-- Members of group 0x0 with a signed form in Q[1] (R309). -/
def Fields.int3sD (f : Fields) (k : Bool → SReg → SReg → SrcB → Dec) : Dec :=
  qual (f.q.extractLsb' 2 2 == 0) <| zero (f.c == 0) <|
  sregD f.d fun d => sregD f.a fun a => f.srcBD fun b => k (f.q.getLsbD 1) d a b

/-- Members of group 0x1 of the form op.type sD, sA (R310). -/
def Fields.bit2D (f : Fields) (k : Width → SReg → SReg → Dec) : Dec :=
  widthD f.q fun w => zero (f.b == 0 && f.c == 0 && f.x == 0) <| sregD f.d fun d => sregD f.a fun a => k w d a

/-- Three scalar floating-point operands with MOD (R313). -/
def Fields.fp3D (f : Fields) (k : FTy → RMod → SReg → SReg → SReg → Dec) : Dec :=
  ftyD f.q fun t => f.rmodD fun r => sregD f.d fun d => sregD f.a fun a => sregD f.b fun b => k t r d a b

/-- Two scalar floating-point operands with MOD; X[11:8] is read by the member (R313, R314). -/
def Fields.fp2D (f : Fields) (k : FTy → RMod → SReg → SReg → Dec) : Dec :=
  ftyD f.q fun t => zero (f.b == 0 && f.c == 0 && f.xb 12 20 == 0) <|
  f.rmodD fun r => sregD f.d fun d => sregD f.a fun a => k t r d a

/-- Floating-point members that do not round (R313). -/
def Fields.fpxD (f : Fields) (k : FTy → SReg → SReg → Dec) : Dec :=
  ftyD f.q fun t => zero (f.x == 0) <| sregD f.a fun a => sregD f.b fun b => k t a b

/-- PSET by Q (R312). -/
def Fields.psetD (f : Fields) (k : PsetOp → Dec) : Dec :=
  zero (f.c == 0) <| pregD f.d fun d =>
  match f.q.toNat with
  | 0 => zero (f.a == 0 && f.b == 0 && f.xb 1 31 == 0) (k (.const d (f.xb 0 1 == 1)))
  | 1 => zero (f.x == 0) <| pregD f.a fun a => pregD f.b fun b => k (.and d a b)
  | 2 => zero (f.x == 0) <| pregD f.a fun a => pregD f.b fun b => k (.or d a b)
  | 3 => zero (f.x == 0) <| pregD f.a fun a => pregD f.b fun b => k (.xor d a b)
  | 4 => zero (f.x == 0 && f.b == 0) <| pregD f.a fun a => k (.not d a)
  | 5 => zero (f.x == 0) <| pregD f.a fun a => pregD f.b fun b => k (.andn d a b)
  | 6 => zero (f.x == 0 && f.b == 0) <| sregD f.a fun a => k (.nz d a)
  | _ => .error .qualifier

/-- A loop's body length B × 64 + C (R324). -/
def Fields.loopN (f : Fields) : BitVec 12 := f.b ++ f.c

/-- SRD and SWR: `r` is the register field used, the other is zero (R329). -/
def Fields.sprMoveD (f : Fields) (r : BitVec 6) (k : SprMove → Dec) : Dec :=
  qual (f.q == 0) <| zero (f.b == 0 && f.c == 0 && f.xb 8 24 == 0) <|
  sprD (f.xb 0 8) (fun x => sregD r fun r => k (.s r x)) (fun x => aregD r fun r => k (.a r x))

/-- Class 0x0, groups 0x0 and 0x1. -/
def decodeScInt (f : Fields) (y : Sync) : Dec :=
  match f.opc.toNat with
  | 0x00 => f.int3D fun d a b => .ok (.add y d a b)
  | 0x01 => f.int3D fun d a b => .ok (.sub y d a b)
  | 0x02 => f.int3D fun d a b => .ok (.mul y d a b)
  | 0x03 => f.int3sD fun s d a b => .ok (.mulh y s d a b)
  | 0x04 => f.int3sD fun s d a b => .ok (.div y s d a b)
  | 0x05 => f.int3sD fun s d a b => .ok (.rem y s d a b)
  | 0x06 => f.int3sD fun s d a b => .ok (.min y s d a b)
  | 0x07 => f.int3sD fun s d a b => .ok (.max y s d a b)
  | 0x08 => f.int3D fun d a b => .ok (.and y d a b)
  | 0x09 => f.int3D fun d a b => .ok (.or y d a b)
  | 0x0A => f.int3D fun d a b => .ok (.xor y d a b)
  | 0x0B => f.int3D fun d a b => .ok (.andn y d a b)
  | 0x0C => f.int3D fun d a b => .ok (.shl y d a b)
  | 0x0D => f.int3D fun d a b => .ok (.shr y d a b)
  | 0x0E => f.int3D fun d a b => .ok (.sar y d a b)
  | 0x0F => f.int3D fun d a b => .ok (.rotr y d a b)
  | 0x10 => f.bit2D fun w d a => .ok (.clz y w d a)
  | 0x11 => f.bit2D fun w d a => .ok (.ctz y w d a)
  | 0x12 => f.bit2D fun w d a => .ok (.popc y w d a)
  | 0x13 => f.bit2D fun w d a => .ok (.bswap y w d a)
  | 0x14 =>
    qual (f.q == 3 || f.q == 7) <| zero (f.b == 0 && f.c == 0 && f.xb 6 2 == 0 && f.xb 14 18 == 0) <|
    sregD f.d fun d => sregD f.a fun a => .ok (.ext y (f.q.getLsbD 2) d a (f.xb 0 6) (f.xb 8 6))
  | 0x15 =>
    qual (f.q == 0) <| zero (f.b == 0 && f.c == 0 && f.xb 6 2 == 0 && f.xb 14 18 == 0) <|
    sregD f.d fun d => sregD f.a fun a => .ok (.ins y d a (f.xb 0 6) (f.xb 8 6))
  | 0x16 =>
    qual (f.q == 0) <| zero (f.x == 0) <|
    sregD f.d fun d => pregD f.c fun c => sregD f.a fun a => sregD f.b fun b => .ok (.sel y d c a b)
  | 0x17 =>
    condD f.q fun c => pregD f.d fun d => sregD f.a fun a =>
    match f.c.toNat with
    | 0 => zero (f.x == 0) <| sregD f.b fun b => .ok (.cmp y c d a (.reg b))
    | 1 => zero (f.b == 0) <| .ok (.cmp y c d a (.imm f.x))
    | _ => .error .operand
  | 0x18 => qual (f.q == 0) <| zero (f.a == 0 && f.b == 0 && f.c == 0) <| sregD f.d fun d => .ok (.movi y d f.x)
  | 0x19 => qual (f.q == 0) <| zero (f.a == 0 && f.b == 0 && f.c == 0) <| sregD f.d fun d => .ok (.movhi y d f.x)
  | 0x1A =>
    qual (f.q == 0) <| zero (f.b == 0 && f.c == 0 && f.x == 0) <|
    sregD f.d fun d => sregD f.a fun a => .ok (.mov y d a)
  | 0x1B => f.psetD fun op => .ok (.pset y op)
  | 0x1C =>
    qual (f.q.extractLsb' 2 2 == 1) <| zero (f.b == 0 && f.c == 0 && f.x == 0) <|
    sregD f.d fun d => sregD f.a fun a => .ok (.sext y (widthOf (f.q.extractLsb' 0 2)) d a)
  | 0x1D => f.bit2D fun w d a => .ok (.zext y w d a)
  | _ => .error .opcode

/-- Class 0x0, groups 0x2 and 0x3. -/
def decodeScFloat (f : Fields) (y : Sync) : Dec :=
  match f.opc.toNat with
  | 0x20 => zero (f.c == 0 && f.xb 8 24 == 0) <| f.fp3D fun t r d a b => .ok (.fadd y t r d a b)
  | 0x21 => zero (f.c == 0 && f.xb 8 24 == 0) <| f.fp3D fun t r d a b => .ok (.fsub y t r d a b)
  | 0x22 => zero (f.c == 0 && f.xb 8 24 == 0) <| f.fp3D fun t r d a b => .ok (.fmul y t r d a b)
  | 0x23 => zero (f.xb 8 24 == 0) <| f.fp3D fun t r d a b => sregD f.c fun c => .ok (.ffma y t r d a b c)
  | 0x24 => zero (f.c == 0 && f.xb 8 24 == 0) <| f.fp3D fun t r d a b => .ok (.fdiv y t r d a b)
  | 0x25 => zero (f.xb 8 4 == 0) <| f.fp2D fun t r d a => .ok (.fsqrt y t r d a)
  | 0x26 => zero (f.c == 0) <| f.fpxD fun t a b => sregD f.d fun d => .ok (.fmin y t d a b)
  | 0x27 => zero (f.c == 0) <| f.fpxD fun t a b => sregD f.d fun d => .ok (.fmax y t d a b)
  | 0x28 => f.fpxD fun t a b => pregD f.d fun d => fcondD f.c fun c => .ok (.fcmp y t c d a b)
  | 0x29 => f.fp2D fun t r d a => ftyD (f.xb 8 4) fun src => .ok (.fcvt y t src r d a)
  | 0x2A => f.fp2D fun t r d a => intTyD (f.xb 8 4) fun it => .ok (.icvtf y t it r d a)
  | 0x2B => f.fp2D fun t r d a => intTyD (f.xb 8 4) fun it => .ok (.fcvti y it t r d a)
  | 0x30 =>
    qual (f.q == 0) <| zero (f.c == 0 && f.x == 0) <|
    aregD f.d fun d => aregD f.a fun a => sregD f.b fun b => .ok (.aadd y d a b)
  | 0x31 =>
    qual (f.q == 0) <| zero (f.b == 0 && f.c == 0) <|
    aregD f.d fun d => aregD f.a fun a => .ok (.aaddi y d a f.x)
  | 0x32 =>
    qual (f.q == 0) <| zero (f.c.extractLsb' 0 4 == 0) <| aregD f.d fun d => f.memD fun m => .ok (.alea y d m)
  | 0x33 =>
    qual (f.q == 0) <| zero (f.b == 0 && f.c == 0 && f.x == 0) <|
    aregD f.d fun d => aregD f.a fun a => .ok (.amov y d a)
  | 0x34 =>
    qual (f.q == 0) <| zero (f.c == 0 && f.x == 0) <|
    aregD f.d fun d => sregD f.a fun a => sregD f.b fun b => .ok (.aset y d a b)
  | 0x35 =>
    qual (f.q.extractLsb' 1 3 == 0) <| zero (f.b == 0 && f.c == 0 && f.x == 0) <|
    sregD f.d fun d => aregD f.a fun a => .ok (.aget y (f.q.getLsbD 0) d a)
  | 0x36 =>
    qual (f.q == 0) <| zero (f.c == 0 && f.x == 0) <|
    sregD f.d fun d => aregD f.a fun a => aregD f.b fun b => .ok (.asub y d a b)
  | 0x37 =>
    condD f.q fun c => zero (f.c == 0 && f.x == 0) <|
    pregD f.d fun d => aregD f.a fun a => aregD f.b fun b => .ok (.acmp y c d a b)
  | 0x38 =>
    zero (f.c == 0 && f.x == 0) <| pregD f.d fun d => aregD f.a fun a => sregD f.b fun b =>
    match f.q.toNat with
    | 0 => .ok (.achk y .read d a b)
    | 1 => .ok (.achk y .write d a b)
    | 2 => .ok (.achk y .exec d a b)
    | _ => .error .qualifier
  | _ => .error .opcode

/-- Class 0x0, groups 0x4 to 0x6. -/
def decodeScMem (f : Fields) (y : Sync) : Dec :=
  match f.opc.toNat with
  | 0x40 => intTyD f.q fun t => sregD f.d fun d => f.memD fun m => .ok (.ld y t f.osD d m)
  | 0x41 => intTyD f.q fun t => sregD f.d fun d => f.memD fun m => .ok (.st y t f.osD d m)
  | 0x42 => qual (f.q == 0) <| aregD f.d fun d => f.memD fun m => .ok (.lda y f.osD d m)
  | 0x43 => qual (f.q == 0) <| aregD f.d fun d => f.memD fun m => .ok (.sta y f.osD d m)
  | 0x44 =>
    intTyD f.q fun t => zero (f.c.extractLsb' 4 2 == 0) <| atomD (f.xb 28 4) fun op =>
    sregD f.d fun d => sregD f.b fun i => aregD f.a fun b => .ok (.atom y op t f.osD d i b (f.xb 0 28))
  | 0x45 =>
    intTyD f.q fun t => zero (f.c.extractLsb' 4 2 == 0 && f.xb 28 4 == 0) <|
    sregD f.d fun d => sregD f.b fun i => aregD f.a fun b => .ok (.cas y t f.osD d i b (f.xb 0 28))
  | 0x46 =>
    qual (f.q == 0) <| zero (f.d == 0 && f.c.extractLsb' 2 2 == 0) <|
    f.memD fun m => .ok (.pref y f.osD.scope m)
  | 0x50 =>
    qual (f.q == 0) <| zero (f.a == 0 && f.b == 0 && f.c == 0) <| need .operand (f.d == 0x3F) <| .ok (.br y f.x)
  | 0x51 => qual (f.q == 0) <| zero (f.a == 0 && f.b == 0 && f.c == 0) <| predD f.d fun p => .ok (.brp y p f.x)
  | 0x52 =>
    qual (f.q == 0) <| zero (f.d == 0 && f.b == 0 && f.c == 0 && f.x == 0) <| aregD f.a fun a => .ok (.jmp y a)
  | 0x53 =>
    qual (f.q == 0) <| zero (f.a == 0 && f.b == 0 && f.c == 0) <| need .operand (f.d == 0x3F) <| .ok (.call y f.x)
  | 0x54 =>
    qual (f.q == 0) <| zero (f.b == 0 && f.c == 0 && f.x == 0) <|
    aregD f.d fun d => aregD f.a fun a => .ok (.calla y d a)
  | 0x55 =>
    qual (f.q == 0) <| zero (f.d == 0 && f.b == 0 && f.c == 0 && f.x == 0) <| aregD f.a fun a => .ok (.ret y a)
  | 0x56 => qual (f.q == 0) <| zero (f.d == 0 && f.x == 0) <| sregD f.a fun a => .ok (.loop y a f.loopN)
  | 0x57 => qual (f.q == 0) <| zero (f.d == 0 && f.a == 0) <| .ok (.loopi y f.x f.loopN)
  | 0x58 => qual (f.q == 0) <| zero (f.d == 0 && f.x == 0) <| mbD f.a fun a => .ok (.loopmb y a f.loopN)
  | 0x59 =>
    qual (f.q == 0) <| zero (f.a == 0 && f.b == 0 && f.c == 0 && f.xb 3 29 == 0) <|
    predD f.d fun p => .ok (.lpbrk y p (f.xb 0 3))
  | 0x60 => zero (f.a == 0) <| f.sprMoveD f.d fun x => .ok (.srd y x)
  | 0x61 => zero (f.d == 0) <| f.sprMoveD f.a fun x => .ok (.swr y x)
  | 0x62 =>
    qual (f.q == 0) <| zero (f.b == 0 && f.c == 0 && f.x == 0) <| sregD f.d fun d => mbD f.a fun a => .ok (.mbrd y d a)
  | 0x63 =>
    qual (f.q == 0) <| zero (f.b == 0 && f.c == 0 && f.x == 0) <| mbD f.d fun d => sregD f.a fun a => .ok (.mbwr y d a)
  | 0x64 => qual (f.q == 0) <| zero (f.d == 0 && f.a == 0 && f.b == 0 && f.c == 0 && f.x == 0) <| .ok (.nop y)
  | _ => .error .opcode

/-- Class 0x0 by group. -/
def decodeSc (f : Fields) (y : Sync) : Dec :=
  bif f.opc.toNat < 0x20 then decodeScInt f y
  else bif f.opc.toNat < 0x40 then decodeScFloat f y
  else decodeScMem f y

/-! ## Class 0x1, SY (R332) -/

/-- An immediate count at X[lo+15:lo] with A zero (Q 0), or a register in A with those bits zero (Q 1). -/
def Fields.cntD (f : Fields) (lo : Nat) (k : Cnt → Dec) : Dec :=
  match f.q.toNat with
  | 0 => zero (f.a == 0) (k (.imm (f.xb lo 16)))
  | 1 => zero (f.xb lo 16 == 0) (sregD f.a fun r => k (.reg r))
  | _ => .error .qualifier

/-- Class 0x1. -/
def decodeSy (f : Fields) (y : Sync) : Dec :=
  match f.opc.toNat with
  | 0x00 =>
    zero (f.d == 0 && f.b == 0 && f.c == 0 && f.xb 24 8 == 0) <| f.cntD 8 fun k => .ok (.semwait y (f.xb 0 8) k)
  | 0x01 =>
    zero (f.d == 0 && f.b == 0 && f.c == 0 && f.xb 24 8 == 0) <| f.cntD 8 fun k => .ok (.semsig y (f.xb 0 8) k)
  | 0x02 =>
    zero (f.d == 0 && f.b == 0 && f.c == 0 && f.xb 24 8 == 0) <| f.cntD 8 fun k => .ok (.semset y (f.xb 0 8) k)
  | 0x03 =>
    qual (f.q == 0) <| zero (f.a == 0 && f.b == 0 && f.c == 0 && f.xb 8 24 == 0) <|
    sregD f.d fun d => .ok (.semrd y d (f.xb 0 8))
  | 0x04 =>
    qual (f.q == 0) <| zero (f.d == 0 && f.a == 0 && f.b == 0 && f.c == 0 && f.xb 9 23 == 0) <|
    .ok (.semcfg y (f.xb 0 8) (f.xb 8 1 == 1))
  | 0x10 =>
    qual (f.q == 0) <| zero (f.d == 0 && f.a == 0 && f.b == 0 && f.c == 0 && f.xb 5 27 == 0) <|
    .ok (.qjoin y (f.xb 0 5))
  | 0x11 =>
    zero (f.d == 0 && f.a == 0 && f.b == 0 && f.c == 0 && f.x == 0) <|
    match (f.q.extractLsb' 2 2).toNat with
    | 1 => .ok (.fence y .acq (scopeOf (f.q.extractLsb' 0 2)))
    | 2 => .ok (.fence y .rel (scopeOf (f.q.extractLsb' 0 2)))
    | 3 => .ok (.fence y .ar (scopeOf (f.q.extractLsb' 0 2)))
    | _ => .error .qualifier
  | 0x12 =>
    intTyD f.q fun t => zero (f.c == 0 && f.xb 6 26 == 0) <| condD (f.xb 0 4) fun c =>
    sregD f.d fun d => aregD f.a fun a => sregD f.b fun b => .ok (.mwait y t c (scopeOf (f.xb 4 2)) d a b)
  | 0x20 =>
    qual (f.q == 0) <| zero (f.d == 0 && f.xb 9 23 == 0) <|
    aregD f.a fun a => sregD f.b fun b => sregD f.c fun c =>
    bif f.xb 8 1 == 1 then .ok (.lwinit y a b c (some (f.xb 0 8)))
    else zero (f.xb 0 8 == 0) (.ok (.lwinit y a b c none))
  | 0x21 =>
    zero (f.c == 0 && f.xb 16 16 == 0) <| sregD f.d fun d => aregD f.a fun a =>
    match f.q.toNat with
    | 0 => zero (f.xb 0 16 == 0) <| sregD f.b fun b => .ok (.lwwait y d a (.reg b))
    | 1 => zero (f.b == 0) <| .ok (.lwwait y d a (.imm (f.xb 0 16)))
    | _ => .error .qualifier
  | 0x22 =>
    qual (f.q == 0) <| zero (f.b == 0 && f.c == 0 && f.x == 0) <|
    sregD f.d fun d => aregD f.a fun a => .ok (.lwrd y d a)
  | 0x30 =>
    zero (f.d == 0 && f.c == 0 && f.xb 8 24 == 0) <| barD f.a fun b =>
    match f.q.toNat with
    | 0 => zero (f.b == 0) <| .ok (.barinit y b (.imm (f.xb 0 8)))
    | 1 => zero (f.xb 0 8 == 0) <| sregD f.b fun r => .ok (.barinit y b (.reg r))
    | _ => .error .qualifier
  | 0x31 =>
    qual (f.q == 0) <| zero (f.b == 0 && f.c == 0 && f.x == 0) <|
    sregD f.d fun d => barD f.a fun b => .ok (.bararr y d b)
  | 0x32 =>
    qual (f.q == 0) <| zero (f.d == 0 && f.c == 0 && f.x == 0) <|
    barD f.a fun b => sregD f.b fun p => .ok (.barwait y b p)
  | 0x40 =>
    qual (f.q == 0) <| zero (f.b == 0 && f.c == 0 && f.x == 0) <|
    sregD f.d fun d => aregD f.a fun a => .ok (.spawn y d a)
  | 0x41 => qual (f.q == 0) <| zero (f.d == 0 && f.a == 0 && f.b == 0 && f.c == 0 && f.x == 0) <| .ok (.yieldTask y)
  | 0x42 => qual (f.q == 0) <| zero (f.d == 0 && f.a == 0 && f.b == 0 && f.c == 0 && f.x == 0) <| .ok (.texit y)
  | 0x43 =>
    zero (f.b == 0 && f.c == 0 && f.xb 2 30 == 0) <| sregD f.d fun d =>
    match f.q.toNat with
    | 0 => zero (f.a == 0) <| .ok (.setclass y d (.imm (f.xb 0 2)))
    | 1 => zero (f.xb 0 2 == 0) <| sregD f.a fun r => .ok (.setclass y d (.reg r))
    | _ => .error .qualifier
  | 0x50 =>
    qual (f.q == 0) <| zero (f.d == 0 && f.b == 0 && f.c == 0 && f.xb 16 16 == 0) <|
    aregD f.a fun a => .ok (.cropen y a (f.xb 0 16))
  | 0x51 =>
    qual (f.q == 0) <| zero (f.d == 0 && f.a == 0 && f.b == 0 && f.c == 0 && f.xb 16 16 == 0) <|
    .ok (.crclose y (f.xb 0 16))
  | 0x60 =>
    qual (f.q.extractLsb' 1 3 == 0) <| zero (f.d == 0 && f.a == 0 && f.b == 0 && f.c == 0 && f.xb 16 16 == 0) <|
    .ok (.trap y (f.q.getLsbD 0) (f.xb 0 16))
  | 0x61 => qual (f.q == 0) <| zero (f.d == 0 && f.a == 0 && f.b == 0 && f.c == 0 && f.x == 0) <| .ok (.tret y)
  | 0x62 => qual (f.q == 0) <| zero (f.d == 0 && f.a == 0 && f.b == 0 && f.c == 0 && f.x == 0) <| .ok (.halt y)
  | 0x63 =>
    qual (f.q == 0) <| zero (f.b == 0 && f.c == 0 && f.xb 16 16 == 0) <|
    sregD f.d fun d => sregD f.a fun a => .ok (.ecall y d a (f.xb 0 16))
  | _ => .error .opcode

/-! ## Classes 0x2 VX and 0x3 TX (R364 to R384) -/

/-- Three vector registers with a type and MOD; X[31:8] and C are zero (R364). -/
def Fields.vf3D (f : Fields) (k : VTy → Mod → VReg → VReg → VReg → Dec) : Dec :=
  vtyD f.q fun t => zero (f.c == 0 && f.xb 8 24 == 0) <| f.modD fun m =>
  vregD f.d fun d => vregD f.a fun a => vregD f.b fun b => k t m d a b

/-- Four vector registers with a type and MOD (R364). -/
def Fields.vf4D (f : Fields) (k : VTy → Mod → VReg → VReg → VReg → VReg → Dec) : Dec :=
  vtyD f.q fun t => zero (f.xb 8 24 == 0) <| f.modD fun m =>
  vregD f.d fun d => vregD f.a fun a => vregD f.b fun b => vregD f.c fun c => k t m d a b c

/-- Two vector registers with a type and MOD (R364). -/
def Fields.vf2D (f : Fields) (k : VTy → Mod → VReg → VReg → Dec) : Dec :=
  vtyD f.q fun t => zero (f.b == 0 && f.c == 0 && f.xb 8 24 == 0) <| f.modD fun m =>
  vregD f.d fun d => vregD f.a fun a => k t m d a

/-- Three vector registers with a type and a mask only (R364). -/
def Fields.vm3D (f : Fields) (k : VTy → Option MReg → VReg → VReg → VReg → Dec) : Dec :=
  vtyD f.q fun t => zero (f.c == 0 && f.xb 8 24 == 0) <| f.maskOnlyD fun m =>
  vregD f.d fun d => vregD f.a fun a => vregD f.b fun b => k t m d a b

/-- Two vector registers with a type and a mask only (R364). -/
def Fields.vm2D (f : Fields) (k : VTy → Option MReg → VReg → VReg → Dec) : Dec :=
  vtyD f.q fun t => zero (f.b == 0 && f.c == 0 && f.xb 8 24 == 0) <| f.maskOnlyD fun m =>
  vregD f.d fun d => vregD f.a fun a => k t m d a

/-- Three vector registers with an integer type, a mask and SAT (R366). -/
def Fields.vs3D (f : Fields) (k : IntTy → Option MReg → Bool → VReg → VReg → VReg → Dec) : Dec :=
  intTyD f.q fun t => zero (f.c == 0 && f.xb 8 24 == 0) <| f.maskSatD fun m sat =>
  vregD f.d fun d => vregD f.a fun a => vregD f.b fun b => k t m sat d a b

/-- Three vector registers with an integer type and a mask (R366, R371). -/
def Fields.vi3D (f : Fields) (k : IntTy → Option MReg → VReg → VReg → VReg → Dec) : Dec :=
  intTyD f.q fun t => zero (f.c == 0 && f.xb 8 24 == 0) <| f.maskOnlyD fun m =>
  vregD f.d fun d => vregD f.a fun a => vregD f.b fun b => k t m d a b

/-- Two vector registers with an integer type and a mask (R366, R371). -/
def Fields.vi2D (f : Fields) (k : IntTy → Option MReg → VReg → VReg → Dec) : Dec :=
  intTyD f.q fun t => zero (f.b == 0 && f.c == 0 && f.xb 8 24 == 0) <| f.maskOnlyD fun m =>
  vregD f.d fun d => vregD f.a fun a => k t m d a

/-- A reduction's operation from OP and Q (R372). -/
def Fields.redD (f : Fields) (k : RedOp → Dec) : Dec :=
  match (f.xb 8 4).toNat with
  | 0 => vtyD f.q fun t => k (.fadd t)
  | 1 => vtyD f.q fun t => k (.fmin t)
  | 2 => vtyD f.q fun t => k (.fmax t)
  | 4 => intTyD f.q fun t => k (.iadd t)
  | 5 => intTyD f.q fun t => k (.imin t)
  | 6 => intTyD f.q fun t => k (.imax t)
  | 7 => intTyD f.q fun t => k (.iand t)
  | 8 => intTyD f.q fun t => k (.ior t)
  | 9 => intTyD f.q fun t => k (.ixor t)
  | _ => .error .operand

/-- VX groups 0x0 and 0x1. -/
def decodeVxArith (f : Fields) (y : Sync) : Dec :=
  match f.opc.toNat with
  | 0x00 => f.vf3D fun t m d a b => .ok (.vadd y t m d a b)
  | 0x01 => f.vf3D fun t m d a b => .ok (.vsub y t m d a b)
  | 0x02 => f.vf3D fun t m d a b => .ok (.vmul y t m d a b)
  | 0x03 => f.vf4D fun t m d a b c => .ok (.vfma y t m d a b c)
  | 0x04 => f.vf4D fun t m d a b c => .ok (.vfms y t m d a b c)
  | 0x05 => f.vm3D fun t m d a b => .ok (.vmin y t m d a b)
  | 0x06 => f.vm3D fun t m d a b => .ok (.vmax y t m d a b)
  | 0x07 => f.vm2D fun t m d a => .ok (.vabs y t m d a)
  | 0x08 => f.vm2D fun t m d a => .ok (.vneg y t m d a)
  | 0x09 => f.vf2D fun t m d a => .ok (.vrcp y t m d a)
  | 0x0A => f.vf2D fun t m d a => .ok (.vrsq y t m d a)
  | 0x0B => f.vf2D fun t m d a => .ok (.vexp2 y t m d a)
  | 0x0C => f.vf2D fun t m d a => .ok (.vlog2 y t m d a)
  | 0x0D => f.vf3D fun t m d a b => .ok (.vdiv y t m d a b)
  | 0x0E => f.vf2D fun t m d a => .ok (.vsqrt y t m d a)
  | 0x0F =>
    vtyD f.q fun t => zero (f.c == 0 && f.xb 12 20 == 0) <| f.maskOnlyD fun m =>
    fcondD ((0 : BitVec 2) ++ f.xb 8 4) fun c => mregD f.d fun d => vregD f.a fun a => vregD f.b fun b =>
    .ok (.vfcmp y t c m d a b)
  | 0x10 => f.vs3D fun t m s d a b => .ok (.viadd y t m s d a b)
  | 0x11 => f.vs3D fun t m s d a b => .ok (.visub y t m s d a b)
  | 0x12 => f.vs3D fun t m s d a b => .ok (.vimul y t m s d a b)
  | 0x13 =>
    intTyD f.q fun t => zero (f.xb 8 24 == 0) <| f.maskSatD fun m s =>
    vregD f.d fun d => vregD f.a fun a => vregD f.b fun b => vregD f.c fun c => .ok (.vimad y t m s d a b c)
  | 0x14 => f.vi3D fun t m d a b => .ok (.vimin y t m d a b)
  | 0x15 => f.vi3D fun t m d a b => .ok (.vimax y t m d a b)
  | 0x16 => f.vi3D fun t m d a b => .ok (.vand y t m d a b)
  | 0x17 => f.vi3D fun t m d a b => .ok (.vor y t m d a b)
  | 0x18 => f.vi3D fun t m d a b => .ok (.vxor y t m d a b)
  | 0x19 => f.vi2D fun t m d a => .ok (.vnot y t m d a)
  | 0x1A => f.vi3D fun t m d a b => .ok (.vshl y t m d a b)
  | 0x1B => f.vi3D fun t m d a b => .ok (.vshr y t m d a b)
  | 0x1C => f.vi3D fun t m d a b => .ok (.vsar y t m d a b)
  | 0x1D =>
    intTyD f.q fun t => zero (f.c == 0 && f.xb 12 20 == 0) <| f.maskOnlyD fun m =>
    condD (f.xb 8 4) fun c => mregD f.d fun d => vregD f.a fun a => vregD f.b fun b =>
    .ok (.vicmp y t c m d a b)
  | 0x1E => f.vi2D fun t m d a => .ok (.vpopc y t m d a)
  | 0x1F =>
    qual (f.q.extractLsb' 1 3 == 0) <| zero (f.c == 0 && f.xb 8 24 == 0) <| f.maskOnlyD fun m =>
    vregD f.d fun d => vregD f.a fun a => vregD f.b fun b => .ok (.vclmul y (f.q.getLsbD 0) m d a b)
  | _ => .error .opcode

/-- VX groups 0x2 to 0x5. -/
def decodeVxMove (f : Fields) (y : Sync) : Dec :=
  match f.opc.toNat with
  | 0x20 =>
    qual (f.q == 0) <| zero (f.b == 0 && f.c == 0 && f.xb 24 8 == 0) <| f.modD fun m =>
    vregD f.d fun d => vregD f.a fun a => .ok (.vcvt y (f.xb 8 8) (f.xb 16 8) m d a)
  | 0x21 =>
    intTyD f.q fun t => zero (f.c == 0 && f.xb 4 28 == 0 && f.xb 0 3 == 0) <|
    vregD f.d fun d => vregD f.a fun a => vregD f.b fun b => .ok (.vpack y t (f.xb 3 1 == 1) d a b)
  | 0x22 =>
    intTyD f.q fun t => zero (f.b == 0 && f.c == 0 && f.xb 0 8 == 0 && f.xb 9 23 == 0) <|
    vregD f.d fun d => vregD f.a fun a => .ok (.vunpack y t (f.xb 8 1 == 1) d a)
  | 0x23 =>
    intTyD f.q fun t => zero (f.b == 0 && f.c == 0 && f.xb 8 24 == 0) <| f.maskOnlyD fun m =>
    vregD f.d fun d => sregD f.a fun a => .ok (.vbcast y t m d a)
  | 0x24 =>
    intTyD f.q fun t => zero (f.c == 0 && f.x == 0) <|
    sregD f.d fun d => vregD f.a fun a => sregD f.b fun b => .ok (.vextr y t d a b)
  | 0x25 =>
    intTyD f.q fun t => zero (f.c == 0 && f.x == 0) <|
    vregD f.d fun d => sregD f.a fun a => sregD f.b fun b => .ok (.vinsr y t d a b)
  | 0x26 => f.vi3D fun t m d a b => .ok (.vperm y t m d a b)
  | 0x27 =>
    intTyD f.q fun t => zero (f.c == 0 && f.xb 8 24 == 0) <| f.maskOnlyD fun m =>
    vregD f.d fun d => vregD f.a fun a => sregD f.b fun b => .ok (.vrot y t m d a b)
  | 0x28 =>
    f.vi3D fun t m d a b =>
    match m with
    | some m => .ok (.vsel y t m d a b)
    | none => .error .operand
  | 0x29 => f.vi2D fun t m d a => .ok (.vmov y t m d a)
  | 0x30 =>
    zero (f.b == 0 && f.c == 0 && f.xb 12 20 == 0) <| f.redD fun op => f.modD fun m =>
    vregD f.d fun d => vregD f.a fun a => .ok (.vred y op m d a)
  | 0x31 =>
    zero (f.b == 0 && f.c == 0 && f.xb 12 20 == 0) <| f.redD fun op => f.modD fun m =>
    vregD f.d fun d => vregD f.a fun a => .ok (.vscan y op m d a)
  | 0x32 =>
    zero (f.c == 0 && f.xb 12 20 == 0) <| f.redD fun op => f.modD fun m =>
    vregD f.d fun d => vregD f.a fun a => vregD f.b fun b => .ok (.vdot y op m d a b)
  | 0x40 =>
    widthD f.q fun w => zero (f.c.extractLsb' 0 4 == 0) <| vregD f.d fun d => f.memD fun m => .ok (.vld y w d m)
  | 0x41 =>
    widthD f.q fun w => zero (f.c.extractLsb' 0 4 == 0) <| vregD f.d fun d => f.memD fun m => .ok (.vst y w d m)
  | 0x42 =>
    widthD f.q fun w => zero (f.c.extractLsb' 0 4 == 0) <| vregD f.d fun d => f.memD fun m => .ok (.vlds y w d m)
  | 0x43 =>
    widthD f.q fun w => zero (f.c.extractLsb' 0 4 == 0) <| vregD f.d fun d => f.memD fun m => .ok (.vsts y w d m)
  | 0x44 =>
    widthD f.q fun w => zero (f.c.extractLsb' 0 4 == 0) <| vregD f.d fun d => f.gatherD fun g => .ok (.vgath y w d g)
  | 0x45 =>
    widthD f.q fun w => zero (f.c.extractLsb' 0 4 == 0) <| vregD f.d fun d => f.gatherD fun g => .ok (.vscat y w d g)
  | 0x50 =>
    zero (f.c == 0 && f.x == 0) <| mregD f.d fun d => mregD f.a fun a => mregD f.b fun b =>
    match f.q.toNat with
    | 0 => .ok (.mlog y (.and d a b))
    | 1 => .ok (.mlog y (.or d a b))
    | 2 => .ok (.mlog y (.xor d a b))
    | 3 => .ok (.mlog y (.andn d a b))
    | 4 => zero (f.b == 0) <| .ok (.mlog y (.not d a))
    | 5 => zero (f.a == 0 && f.b == 0) <| .ok (.mlog y (.set d))
    | 6 => zero (f.a == 0 && f.b == 0) <| .ok (.mlog y (.clr d))
    | _ => .error .qualifier
  | 0x51 =>
    qual (f.q == 0) <| zero (f.b == 0 && f.c == 0 && f.x == 0) <|
    sregD f.d fun d => mregD f.a fun a => .ok (.mpopc y d a)
  | 0x52 =>
    widthD f.q fun w => zero (f.b == 0 && f.c == 0 && f.x == 0) <|
    mregD f.d fun d => sregD f.a fun a => .ok (.msetl y w d a)
  | 0x53 =>
    zero (f.b == 0 && f.c == 0) <| sregD f.d fun d =>
    match f.q.toNat with
    | 0 => zero (f.x == 0) <| sregD f.a fun a => .ok (.vsetw y d (.reg a))
    | 1 => zero (f.a == 0) <| .ok (.vsetw y d (.imm f.x))
    | _ => .error .qualifier
  | _ => .error .opcode

/-- Class 0x2. -/
def decodeVx (f : Fields) (y : Sync) : Dec :=
  bif f.opc.toNat < 0x20 then decodeVxArith f y else decodeVxMove f y

/-- Class 0x3 (R380). -/
def decodeTx (f : Fields) (y : Sync) : Dec :=
  match f.opc.toNat with
  | 0x00 =>
    qual (f.q == 0) <| zero (f.b == 0 && f.c == 0 && f.x == 0) <|
    aregD f.d fun d => aregD f.a fun s => .ok (.txload y d s)
  | 0x01 =>
    vty2D (f.q.extractLsb' 0 2) fun src => vty2D (f.q.extractLsb' 2 2) fun dst =>
    zero (f.xb 4 28 == 0 && f.xb 0 3 == 0) <|
    aregD f.d fun d => aregD f.a fun s => sregD f.b fun n => aregD f.c fun t =>
    .ok (.txrun y dst src (f.xb 3 1 == 1) d s n t)
  | 0x02 =>
    vty2D (f.q.extractLsb' 0 2) fun src => vty2D (f.q.extractLsb' 2 2) fun dst =>
    zero (f.c == 0 && f.xb 8 24 == 0) <| f.maskSatD fun m sat =>
    vregD f.d fun d => vregD f.a fun a => aregD f.b fun t => .ok (.txv y dst src m sat d a t)
  | 0x03 =>
    qual (f.q == 0) <| zero (f.c == 0 && f.x == 0) <|
    aregD f.d fun t => sregD f.a fun a => sregD f.b fun b => .ok (.txcfg y t a b)
  | 0x04 =>
    qual (f.q == 0) <| zero (f.c == 0 && f.x == 0) <|
    sregD f.d fun d => aregD f.a fun t => sregD f.b fun a => .ok (.txrd y d t a)
  | _ => .error .opcode

/-! ## Class 0x4, MX (R395) -/

/-- The optional scale operand: SCL in IMM[12], Y in IMM[11:10], aS in `s` (R395). -/
def Fields.scaleD (f : Fields) (s : BitVec 6) (k : ScaleOp → Dec) : Dec :=
  bif f.xb 12 1 == 1 then aregD s fun a => gregD (f.xb 10 2) fun g => k (some (a, g))
  else zero (s == 0 && f.xb 10 2 == 0) (k none)

/-- The kind of accumulator: Q 0 .fa, 1 .ia (R395). -/
def kindD (q : BitVec 4) (k : AccKindM → Dec) : Dec :=
  match q.toNat with
  | 0 => k .fa | 1 => k .ia | _ => .error .qualifier

/-- The code of an accumulator kind. -/
def AccKindM.code : AccKindM → BitVec 4
  | .fa => 0 | .ia => 1

/-- Class 0x4. -/
def decodeMx (f : Fields) (y : Sync) : Dec :=
  match f.opc.toNat with
  | 0x00 =>
    qual (f.q == 0) <| zero (f.c == 0 && f.xb 13 19 == 0) <| aregD f.d fun w => sregD f.a fun t =>
    gregD (f.xb 8 2) fun x => f.scaleD f.b fun sc => .ok (.mxldw y (f.xb 0 8) w t x sc)
  | 0x01 =>
    qual (f.q == 0) <| zero (f.c == 0 && f.xb 13 19 == 0) <| aregD f.d fun w => sregD f.a fun t =>
    gregD (f.xb 8 2) fun x => f.scaleD f.b fun sc => .ok (.mxldwt y (f.xb 0 8) w t x sc)
  | 0x02 =>
    qual (f.q == 0) <| zero (f.xb 13 19 == 0) <| accD f.d fun n => aregD f.a fun a => sregD f.b fun t =>
    gregD (f.xb 8 2) fun x => f.scaleD f.c fun sc => .ok (.mxpass y (f.xb 0 8) n a t x sc)
  | 0x03 =>
    qual (f.q == 0) <| zero (f.d == 0 && f.a == 0 && f.b == 0 && f.c == 0 && f.xb 8 24 == 0) <|
    .ok (.mxzero y (f.xb 0 8))
  | 0x04 =>
    kindD f.q fun kd => zero (f.c == 0 && f.xb 10 6 == 0 && f.xb 20 12 == 0) <|
    accD f.d fun n => aregD f.a fun d => sregD f.b fun t => rmD (f.xb 16 3) fun rm => gregD (f.xb 8 2) fun x =>
    .ok (.mxst y kd (f.xb 0 8) ⟨rm, f.xb 19 1 == 1⟩ n d t x)
  | 0x05 =>
    kindD f.q fun kd => zero (f.c == 0 && f.xb 8 8 == 0 && f.xb 20 12 == 0) <|
    vregD f.d fun d => accD f.a fun n => sregD f.b fun t => rmD (f.xb 16 3) fun rm =>
    .ok (.mxrdv y kd (f.xb 0 8) ⟨rm, f.xb 19 1 == 1⟩ d n t)
  | 0x06 =>
    qual (f.q == 0) <| zero (f.c == 0 && f.x == 0) <|
    accD f.d fun n => vregD f.a fun a => sregD f.b fun t => .ok (.mxwrv y n a t)
  | 0x07 =>
    zero (f.b == 0 && f.c == 0 && f.xb 2 30 == 0) <| gregD (f.xb 0 2) fun g =>
    match f.q.toNat with
    | 0 => zero (f.d == 0) <| sregD f.a fun a => .ok (.mxagen y (.write g a))
    | 1 => zero (f.a == 0) <| sregD f.d fun d => .ok (.mxagen y (.read d g))
    | _ => .error .qualifier
  | 0x08 =>
    qual (f.q == 0) <| zero (f.b == 0 && f.c == 0 && f.xb 2 30 == 0) <| aregD f.d fun s => sregD f.a fun t =>
    gregD (f.xb 0 2) fun g => .ok (.mxscl y s t g)
  | 0x09 =>
    zero (f.b == 0 && f.c == 0 && f.x == 0) <| sregD f.d fun d => sregD f.a fun a =>
    match f.q.toNat with
    | 0 => zero (f.a == 0) <| .ok (.mxmode y (.read d))
    | 1 => .ok (.mxmode y (.set d a))
    | 2 => zero (f.a == 0) <| .ok (.mxmode y (.clri d))
    | 3 => .ok (.mxmode y (.setclri d a))
    | _ => .error .qualifier
  | 0x0A =>
    zero (f.b == 0 && f.c == 0 && f.xb 2 30 == 0) <| sregD f.a fun a =>
    match f.q.toNat with
    | 0 => zero (f.x == 0) <| sregD f.d fun d => .ok (.mxchk y (.read d a))
    | 1 => zero (f.d == 0) <| .ok (.mxchk y (.set a (f.xb 0 1 == 1) (f.xb 1 1 == 1)))
    | _ => .error .qualifier
  | 0x0B => qual (f.q == 0) <| zero (f.d == 0 && f.a == 0 && f.b == 0 && f.c == 0 && f.x == 0) <| .ok (.mxidle y)
  | _ => .error .opcode

/-! ## Classes 0x5 CX, 0x6 SQ and 0x7 FX (R412 to R444) -/

/-- An optional landing-word register: LWEN `en`, register field `r` (R409). -/
def lwD (en : Bool) (r : BitVec 6) (k : Option AReg → Dec) : Dec :=
  bif en then aregD r fun a => k (some a) else zero (r == 0) (k none)

/-- An optional landing-word offset: LWEN `en`, offset `o` (R409). -/
def lwoffD (en : Bool) (o : BitVec 26) (k : Option (BitVec 26) → Dec) : Dec :=
  bif en then k (some o) else zero (o == 0) (k none)

/-- Class 0x5. -/
def decodeCx (f : Fields) (y : Sync) : Dec :=
  match f.opc.toNat with
  | 0x00 =>
    qual (f.q == 0) <| zero (f.xb 1 31 == 0) <| aregD f.d fun d => aregD f.a fun s => sregD f.b fun n =>
    lwD (f.xb 0 1 == 1) f.c fun lw => .ok (.cpy y d s n lw)
  | 0x01 =>
    zero (f.xb 17 15 == 0) <| aregD f.d fun d => aregD f.a fun s => sregD f.b fun t =>
    lwD (f.xb 16 1 == 1) f.c fun lw => .ok (.cpyt y f.q d s t (f.xb 0 16) lw)
  | 0x02 =>
    qual (f.q == 0) <| zero (f.xb 27 5 == 0) <|
    aregD f.d fun d => aregD f.a fun s => sregD f.b fun n => sregD f.c fun m =>
    lwoffD (f.xb 26 1 == 1) (f.xb 0 26) fun lw => .ok (.cpym y d s n m lw)
  | 0x03 =>
    widthD f.q fun w => zero (f.xb 1 31 == 0) <| aregD f.d fun d => sregD f.a fun n => sregD f.b fun v =>
    lwD (f.xb 0 1 == 1) f.c fun lw => .ok (.fill y w d n v lw)
  | 0x10 =>
    qual (f.q == 0) <| zero (f.b == 0 && f.c == 0 && f.x == 0) <|
    kregD f.d fun k => aregD f.a fun r => .ok (.rlopen y k r)
  | 0x11 =>
    qual (f.q == 0) <| zero (f.a == 0 && f.b == 0 && f.c == 0 && f.x == 0) <| kregD f.d fun k => .ok (.rlhold y k)
  | 0x12 =>
    qual (f.q == 0) <| zero (f.a == 0 && f.b == 0 && f.c == 0 && f.x == 0) <| kregD f.d fun k => .ok (.rlrel y k)
  | 0x13 =>
    qual (f.q == 0) <| zero (f.xb 1 31 == 0) <| aregD f.d fun d => kregD f.a fun k => sregD f.b fun p =>
    lwD (f.xb 0 1 == 1) f.c fun lw => .ok (.rlrd y d k p lw)
  | 0x14 =>
    qual (f.q == 0) <| zero (f.c == 0 && f.x == 0) <|
    kregD f.d fun k => aregD f.a fun s => sregD f.b fun p => .ok (.rlwr y k s p)
  | 0x15 =>
    qual (f.q == 0) <| zero (f.b == 0 && f.c == 0 && f.x == 0) <|
    sregD f.d fun d => kregD f.a fun k => .ok (.rlstat y d k)
  | 0x20 =>
    qual (f.q == 0) <| zero (f.b == 0 && f.xb 1 31 == 0) <| aregD f.d fun d => aregD f.a fun r =>
    lwD (f.xb 0 1 == 1) f.c fun lw => .ok (.streamrow y d r lw)
  | 0x21 =>
    qual (f.q == 0) <| zero (f.a == 0 && f.b == 0 && f.c == 0 && f.x == 0) <| aregD f.d fun r => .ok (.bankclose y r)
  | _ => .error .opcode

/-- SQSET by Q (R427). -/
def Fields.sqsetD (f : Fields) (k : SqsetOp → Dec) : Dec :=
  zero (f.b == 0 && f.c == 0) <|
  match f.q.toNat with
  | 0 => zero (f.a == 0) <| wregD f.d fun d => k (.lo d f.x)
  | 1 => zero (f.a == 0) <| wregD f.d fun d => k (.mid d f.x)
  | 2 => zero (f.a == 0 && f.xb 16 16 == 0) <| wregD f.d fun d => k (.hi d (f.xb 0 16))
  | 3 => zero (f.a == 0) <| wregD f.d fun d => k (.addi d f.x)
  | 4 => zero (f.x == 0) <| wregD f.d fun d => wregD f.a fun a => k (.add d a)
  | 5 => zero (f.a == 0 && f.x == 0) <| k (.msclr f.d.toFin)
  | 6 => zero (f.a == 0 && f.xb 27 5 == 0) <| k (.msset f.d.toFin (f.xb 0 9) (f.xb 9 9) (f.xb 18 9))
  | 7 => zero (f.a == 0 && f.xb 27 5 == 0) <| k (.msrem f.d.toFin (f.xb 0 9) (f.xb 9 9) (f.xb 18 9))
  | _ => .error .qualifier

/-- Class 0x6, the members tasks issue (R422). -/
def decodeSqTask (f : Fields) (y : Sync) : Dec :=
  match f.opc.toNat with
  | 0x00 =>
    qual (f.q.extractLsb' 1 3 == 0) <| zero (f.c == 0 && f.xb 4 28 == 0) <|
    sregD f.d fun d => aregD f.a fun p => sregD f.b fun n => thrD (f.xb 0 4) fun t =>
    .ok (.sqload y (f.q.getLsbD 0) d t p n)
  | 0x01 =>
    qual (f.q == 0) <| zero (f.b == 0 && f.c == 0 && f.xb 4 28 == 0) <|
    sregD f.d fun d => aregD f.a fun a => thrD (f.xb 0 4) fun t => .ok (.sqstart y d t a)
  | 0x02 =>
    qual (f.q == 0) <| zero (f.a == 0 && f.b == 0 && f.c == 0 && f.xb 4 28 == 0) <|
    sregD f.d fun d => thrD (f.xb 0 4) fun t => .ok (.sqstop y d t)
  | 0x03 =>
    qual (f.q == 0) <| zero (f.a == 0 && f.b == 0 && f.c == 0 && f.xb 4 28 == 0) <|
    sregD f.d fun d => thrD (f.xb 0 4) fun t => .ok (.sqstat y d t)
  | _ => .error .opcode

/-- Class 0x6, the sequencer words: a zero SYNC field (R425). -/
def decodeSqWord (f : Fields) : Dec :=
  need .sync (f.wsem == 0 && f.wcnt == 0 && f.ssem == 0 && f.sinc == 0) <|
  match f.opc.toNat with
  | 0x10 =>
    qual (f.q == 0) <| zero (f.xb 27 5 == 0) <|
    wregD f.d fun s => wregD f.a fun n => wregD f.b fun o =>
    lwoffD (f.xb 26 1 == 1) (f.xb 0 26) fun lw => .ok (.sqburst s n o f.c.toFin lw)
  | 0x11 => f.sqsetD fun op => .ok (.sqset op)
  | 0x12 =>
    qual (f.q == 0) <| zero (f.a == 0 && f.b == 0 && f.c == 0 && f.xb 12 20 == 0) <|
    .ok (.sqsig f.d.toFin (f.xb 0 8) (f.xb 8 4))
  | 0x13 =>
    qual (f.q == 0) <| zero (f.b == 0 && f.c == 0 && f.x == 0) <|
    wregD f.d fun a => wregD f.a fun v => .ok (.sqwait a v)
  | 0x14 => qual (f.q == 0) <| zero (f.a == 0 && f.b == 0 && f.c == 0) <| wregD f.d fun c => .ok (.sqloop c f.x)
  | 0x15 => qual (f.q == 0) <| zero (f.d == 0 && f.a == 0 && f.b == 0 && f.c == 0 && f.x == 0) <| .ok .sqend
  | _ => .error .opcode

/-- PUT and GET (R430). -/
def Fields.xferD (f : Fields) (k : Psz → AReg → AReg → SReg → SReg → Dec) : Dec :=
  qual (f.q.extractLsb' 2 2 == 0) <| pszD (f.q.extractLsb' 0 2) fun p =>
  aregD f.d fun d => aregD f.a fun a => sregD f.b fun b => sregD f.c fun c => k p d a b c

/-- RATOM's operation from OP and Q (R434). -/
def Fields.ratomD (f : Fields) (k : RatomOp → Dec) : Dec :=
  bif f.xb 0 4 == 8 then ftyD f.q fun t => k (.fadd t)
  else bif f.xb 0 4 == 9 then ftyD f.q fun t => k (.faddOrd t)
  else atomD (f.xb 0 4) fun op => intTyD f.q fun t => k (.int op t)

/-- Class 0x7. -/
def decodeFx (f : Fields) (y : Sync) : Dec :=
  match f.opc.toNat with
  | 0x00 => f.xferD fun p r s k c => .ok (.put y p r s k c f.x)
  | 0x01 => f.xferD fun p d r k c => .ok (.get y p d r k c f.x)
  | 0x02 =>
    intTyD f.q fun t => zero (f.xb 1 1 == 0 && f.xb 4 28 == 0) <| rscopeD (f.xb 2 2) fun sc =>
    sregD f.d fun d => aregD f.a fun r => sregD f.b fun k => sregD f.c fun c =>
    .ok (.rld y t (f.xb 0 1 == 1) sc d r k c)
  | 0x03 =>
    intTyD f.q fun t => zero (f.xb 0 1 == 0 && f.xb 4 28 == 0) <| rscopeD (f.xb 2 2) fun sc =>
    sregD f.d fun v => aregD f.a fun r => sregD f.b fun k => sregD f.c fun c =>
    .ok (.rst y t (f.xb 1 1 == 1) sc v r k c)
  | 0x04 =>
    f.ratomD fun op => zero (f.xb 9 23 == 0) <| rscopeD (f.xb 6 2) fun sc =>
    sregD f.d fun v => aregD f.a fun r => sregD f.b fun k => sregD f.c fun c =>
    .ok (.ratom y op (orderOf (f.xb 4 2)) sc (f.xb 8 1 == 1) v r k c)
  | 0x05 =>
    intTyD f.q fun t => zero (f.xb 4 28 == 0) <| rscopeD (f.xb 2 2) fun sc =>
    sregD f.d fun d => aregD f.a fun r => sregD f.b fun n => sregD f.c fun c =>
    .ok (.rcas y t (orderOf (f.xb 0 2)) sc d r n c)
  | 0x06 =>
    zero (f.d == 0 && f.a == 0 && f.b == 0 && f.c == 0 && f.x == 0) <|
    qual (f.q.extractLsb' 2 2 == 0) <| rscopeD (f.q.extractLsb' 0 2) fun sc => .ok (.flush y sc)
  | 0x10 =>
    intTyD f.q fun t => zero (f.b == 0 && f.c == 0 && f.xb 13 1 == 0 && f.xb 16 16 == 0) <|
    rscopeD (f.xb 14 2) fun sc => sregD f.d fun d => sregD f.a fun i =>
    .ok (.sld y t (f.xb 12 1 == 1) sc d i (f.xb 0 12))
  | 0x11 =>
    intTyD f.q fun t => zero (f.b == 0 && f.c == 0 && f.xb 12 1 == 0 && f.xb 16 16 == 0) <|
    rscopeD (f.xb 14 2) fun sc => sregD f.d fun v => sregD f.a fun i =>
    .ok (.sst y t (f.xb 13 1 == 1) sc v i (f.xb 0 12))
  | 0x12 =>
    qual (f.q.extractLsb' 2 2 == 0) <| zero (f.xb 13 19 == 0) <| pszD (f.q.extractLsb' 0 2) fun p =>
    aregD f.d fun d => sregD f.a fun i => sregD f.b fun n =>
    lwD (f.xb 12 1 == 1) f.c fun lw => .ok (.sget y p d i n (f.xb 0 12) lw)
  | 0x13 =>
    zero (f.c == 0 && f.xb 12 20 == 0) <| pszD (f.q.extractLsb' 0 2) fun p =>
    aregD f.d fun s => sregD f.a fun i => sregD f.b fun n =>
    match (f.q.extractLsb' 2 2).toNat with
    | 0 => .ok (.sput y (.plain p) s i n (f.xb 0 12))
    | 1 => .ok (.sput y (.fadd p) s i n (f.xb 0 12))
    | 2 => need .operand (p == .pk256) <| .ok (.sput y .faddOrd s i n (f.xb 0 12))
    | _ => .error .qualifier
  | 0x14 => qual (f.q == 0) <| zero (f.d == 0 && f.a == 0 && f.b == 0 && f.c == 0 && f.x == 0) <| .ok (.shfence y)
  | 0x15 =>
    qual (f.q == 0) <| zero (f.b == 0 && f.c == 0 && f.xb 12 20 == 0) <|
    sregD f.d fun d => aregD f.a fun a => .ok (.shupd y d a (f.xb 0 12))
  | 0x20 =>
    qual (f.q == 0) <| zero (f.b == 0 && f.c == 0 && f.x == 0) <|
    sregD f.d fun d => sregD f.a fun a => .ok (.grant y d a)
  | 0x21 =>
    qual (f.q == 0) <| zero (f.a == 0 && f.b == 0 && f.c == 0 && f.x == 0) <| sregD f.d fun a => .ok (.revoke y a)
  | _ => .error .opcode

/-- The SYNC field (R292). -/
def Fields.sync (f : Fields) : Sync := ⟨f.wsem, f.wcnt, f.ssem, f.sinc⟩

/-- The instruction a word's fields name, before the limits on its operands. -/
def decodeFields (f : Fields) : Dec :=
  match f.cls.toNat with
  | 0 => decodeSc f f.sync
  | 1 => decodeSy f f.sync
  | 2 => decodeVx f f.sync
  | 3 => decodeTx f f.sync
  | 4 => decodeMx f f.sync
  | 5 => decodeCx f f.sync
  | 6 => bif f.opc.toNat < 0x10 then decodeSqTask f f.sync else decodeSqWord f
  | 7 => decodeFx f f.sync
  | _ => .error .cls

/-- Decoding a word: total, and every rejection named (R287, R305, R306). -/
def decode (w : InstrWord) : Dec :=
  match decodeFields (Fields.unpack w) with
  | .ok i => bif i.wf then .ok i else .error .operand
  | .error e => .error e

/-- The word of 12 bytes, lowest address first: three little-endian parcels in ascending order are one little-endian 96-bit number (R8, R286). -/
def wordOfBytes (bs : List Byte) : InstrWord :=
  bs.reverse.foldl (fun acc b => (acc <<< 8) ||| b.setWidth 96) 0

/-- The 12 bytes of a word, lowest address first (R8, R286). -/
def bytesOfWord (w : InstrWord) : List Byte :=
  (List.range 12).map fun i => w.extractLsb' (8 * i) 8

/-- Decoding any bytes: an instruction with the rest, or a rejection; fewer than 12 bytes are no word. -/
def decodeBytes (bs : List Byte) : Except Reject (Instr × List Byte) :=
  bif bs.length < 12 then .error .cls
  else match decode (wordOfBytes (bs.take 12)) with
    | .ok i => .ok (i, bs.drop 12)
    | .error e => .error e

/-- The host's question: the instruction whose bits are `w`, the bits above `nbits` zero. -/
def decodeTableWord (nbits w : Nat) : Option Instr :=
  match decodeBytes (bytesOfWord (BitVec.ofNat 96 (w % 2 ^ nbits))) with
  | .ok (i, _) => some i
  | .error _ => none

/-! ## The encoder -/

/-- A 6-bit field naming register `r` of a kind. -/
def reg {n : Nat} (r : Fin n) : BitVec 6 := BitVec.ofNat 6 r.val

/-- A flag as one bit. -/
def bit (b : Bool) : BitVec 1 := BitVec.ofBool b

/-- The fields of an instruction of class `cls` and opcode `opc`. -/
def enc (cls : BitVec 4) (opc : BitVec 8) (y : Sync) (q : BitVec 4) (d a b c : BitVec 6) (x : BitVec 32) : Option Fields :=
  some ⟨cls, opc, q, y.wsem, y.wcnt, y.ssem, y.sinc, d, a, b, c, x⟩

/-- Group 0x0 of SC (R309). -/
def encInt (opc : BitVec 8) (y : Sync) (sg : Bool) (d a : SReg) : SrcB → Option Fields
  | .reg b => enc 0 opc y (0#2 ++ (bit sg ++ 0#1)) (reg d) (reg a) (reg b) 0 0
  | .imm x => enc 0 opc y (0#2 ++ (bit sg ++ 1#1)) (reg d) (reg a) 0 0 x

/-- A memory operand's fields (R288). -/
def encMem (cls : BitVec 4) (opc : BitVec 8) (y : Sync) (q : BitVec 4) (d : BitVec 6) (os : BitVec 4) (m : MemOp) : Option Fields :=
  enc cls opc y q d (reg m.base) (reg m.index) (m.scale ++ os) m.disp

/-- A gather operand's fields (R373). -/
def encGather (opc : BitVec 8) (y : Sync) (w : Width) (d : VReg) (g : GatherOp) : Option Fields :=
  enc 2 opc y (0#2 ++ w.code) (reg d) (reg g.base) (reg g.index) (g.scale ++ 0#4) g.disp

/-- OS (R288). -/
def OrdScope.code (o : OrdScope) : BitVec 4 := o.ord.code ++ o.scope.code

/-- X of an SC floating-point member: MOD below, `t` in X[11:8] (R313). -/
def fpX (r : RMod) (t : BitVec 4) : BitVec 32 := 0#20 ++ (t ++ modByte none r.sat r.rm)

/-- X of a vector member: MOD in X[7:0] (R296). -/
def modX (m : Mod) : BitVec 32 := 0#24 ++ modByte m.mask m.sat m.rm

/-- X of a vector member that takes a mask and SAT. -/
def maskX (m : Option MReg) (sat : Bool) : BitVec 32 := 0#24 ++ modByte m sat .rne

/-- A width as a 4-bit qualifier. -/
def wq (w : Width) : BitVec 4 := 0#2 ++ w.code

/-- A flag as a 4-bit qualifier. -/
def bq (b : Bool) : BitVec 4 := 0#3 ++ bit b

/-- IMM of MXLDW, MXLDWT and MXPASS (R395). -/
def mxX (fmt : BitVec 8) (x : GReg) (sc : ScaleOp) : BitVec 32 :=
  match sc with
  | none => 0#22 ++ (BitVec.ofFin (w := 2) x ++ fmt)
  | some (_, g) => 0#19 ++ (1#1 ++ (BitVec.ofFin (w := 2) g ++ (BitVec.ofFin (w := 2) x ++ fmt)))

/-- The scale base of an MX instruction. -/
def scReg : ScaleOp → BitVec 6
  | none => 0
  | some (a, _) => reg a

/-- The landing-word register field (R409). -/
def lwReg : Option AReg → BitVec 6
  | none => 0
  | some a => reg a

/-- The landing-word offset with LWEN above it (R414, R425). -/
def lwoffX (lw : Option (BitVec 26)) : BitVec 32 :=
  match lw with
  | none => 0
  | some o => 0#5 ++ (1#1 ++ o)

/-- A thread number in IMM[3:0]. -/
def thrX (t : ThreadId) : BitVec 32 := 0#28 ++ BitVec.ofFin (w := 4) t

/-- OP and Q of a reduction (R372). -/
def RedOp.codes : RedOp → BitVec 4 × BitVec 4
  | .fadd t => (0, t.code) | .fmin t => (1, t.code) | .fmax t => (2, t.code)
  | .iadd t => (4, t.code) | .imin t => (5, t.code) | .imax t => (6, t.code)
  | .iand t => (7, t.code) | .ior t => (8, t.code) | .ixor t => (9, t.code)

/-- A reduction's fields (R372). -/
def encRed (opc : BitVec 8) (y : Sync) (op : RedOp) (m : Mod) (d a : VReg) (b : BitVec 6) : Option Fields :=
  enc 2 opc y op.codes.2 (reg d) (reg a) b 0 (0#20 ++ (op.codes.1 ++ modByte m.mask m.sat m.rm))

/-- OP and Q of RATOM (R434). -/
def RatomOp.codes : RatomOp → BitVec 4 × BitVec 4
  | .int op t => (op.code, t.code)
  | .fadd t => (8, t.code)
  | .faddOrd t => (9, t.code)

/-- A sequencer word's fields (R425). -/
def encSq (opc : BitVec 8) (q : BitVec 4) (d a b c : BitVec 6) (x : BitVec 32) : Option Fields :=
  enc 6 opc Sync.none q d a b c x

/-- SQSET (R427). -/
def encSqset : SqsetOp → Option Fields
  | .lo d x => encSq 0x11 0 (reg d) 0 0 0 x
  | .mid d x => encSq 0x11 1 (reg d) 0 0 0 x
  | .hi d x => encSq 0x11 2 (reg d) 0 0 0 (0#16 ++ x)
  | .addi d x => encSq 0x11 3 (reg d) 0 0 0 x
  | .add d a => encSq 0x11 4 (reg d) (reg a) 0 0 0
  | .msclr m => encSq 0x11 5 (reg m) 0 0 0 0
  | .msset m fi co sp => encSq 0x11 6 (reg m) 0 0 0 (0#5 ++ (sp ++ (co ++ fi)))
  | .msrem m fi co sp => encSq 0x11 7 (reg m) 0 0 0 (0#5 ++ (sp ++ (co ++ fi)))

/-- PSET (R312). -/
def encPset (y : Sync) : PsetOp → Option Fields
  | .const d v => enc 0 0x1B y 0 (reg d) 0 0 0 (0#31 ++ bit v)
  | .and d a b => enc 0 0x1B y 1 (reg d) (reg a) (reg b) 0 0
  | .or d a b => enc 0 0x1B y 2 (reg d) (reg a) (reg b) 0 0
  | .xor d a b => enc 0 0x1B y 3 (reg d) (reg a) (reg b) 0 0
  | .not d a => enc 0 0x1B y 4 (reg d) (reg a) 0 0 0
  | .andn d a b => enc 0 0x1B y 5 (reg d) (reg a) (reg b) 0 0
  | .nz d a => enc 0 0x1B y 6 (reg d) (reg a) 0 0 0

/-- MLOG (R376). -/
def encMlog (y : Sync) : MlogOp → Option Fields
  | .and d a b => enc 2 0x50 y 0 (reg d) (reg a) (reg b) 0 0
  | .or d a b => enc 2 0x50 y 1 (reg d) (reg a) (reg b) 0 0
  | .xor d a b => enc 2 0x50 y 2 (reg d) (reg a) (reg b) 0 0
  | .andn d a b => enc 2 0x50 y 3 (reg d) (reg a) (reg b) 0 0
  | .not d a => enc 2 0x50 y 4 (reg d) (reg a) 0 0 0
  | .set d => enc 2 0x50 y 5 (reg d) 0 0 0 0
  | .clr d => enc 2 0x50 y 6 (reg d) 0 0 0 0

/-- SEMWAIT, SEMSIG and SEMSET (R332). -/
def encSem (opc : BitVec 8) (y : Sync) (n : BitVec 8) : Cnt → Option Fields
  | .imm k => enc 1 opc y 0 0 0 0 0 (0#8 ++ (k ++ n))
  | .reg r => enc 1 opc y 1 0 (reg r) 0 0 (0#24 ++ n)

/-- SRD and SWR (R329). -/
def encSpr (y : Sync) : Bool → SprMove → Option Fields
  | false, .s r x => enc 0 0x60 y 0 (reg r) 0 0 0 (0#24 ++ x.code)
  | false, .a r x => enc 0 0x60 y 0 (reg r) 0 0 0 (0#24 ++ x.code)
  | true, .s r x => enc 0 0x61 y 0 0 (reg r) 0 0 (0#24 ++ x.code)
  | true, .a r x => enc 0 0x61 y 0 0 (reg r) 0 0 (0#24 ++ x.code)

/-- The fields of an instruction; an event has none. -/
def Instr.fields : Instr → Option Fields
  | .add y d a b => encInt 0x00 y false d a b
  | .sub y d a b => encInt 0x01 y false d a b
  | .mul y d a b => encInt 0x02 y false d a b
  | .mulh y s d a b => encInt 0x03 y s d a b
  | .div y s d a b => encInt 0x04 y s d a b
  | .rem y s d a b => encInt 0x05 y s d a b
  | .min y s d a b => encInt 0x06 y s d a b
  | .max y s d a b => encInt 0x07 y s d a b
  | .and y d a b => encInt 0x08 y false d a b
  | .or y d a b => encInt 0x09 y false d a b
  | .xor y d a b => encInt 0x0A y false d a b
  | .andn y d a b => encInt 0x0B y false d a b
  | .shl y d a b => encInt 0x0C y false d a b
  | .shr y d a b => encInt 0x0D y false d a b
  | .sar y d a b => encInt 0x0E y false d a b
  | .rotr y d a b => encInt 0x0F y false d a b
  | .clz y w d a => enc 0 0x10 y (wq w) (reg d) (reg a) 0 0 0
  | .ctz y w d a => enc 0 0x11 y (wq w) (reg d) (reg a) 0 0 0
  | .popc y w d a => enc 0 0x12 y (wq w) (reg d) (reg a) 0 0 0
  | .bswap y w d a => enc 0 0x13 y (wq w) (reg d) (reg a) 0 0 0
  | .ext y s d a l w => enc 0 0x14 y (0#1 ++ (bit s ++ 3#2)) (reg d) (reg a) 0 0 (0#18 ++ (w ++ (0#2 ++ l)))
  | .ins y d a l w => enc 0 0x15 y 0 (reg d) (reg a) 0 0 (0#18 ++ (w ++ (0#2 ++ l)))
  | .sel y d c a b => enc 0 0x16 y 0 (reg d) (reg a) (reg b) (reg c) 0
  | .cmp y c d a (.reg b) => enc 0 0x17 y c.code (reg d) (reg a) (reg b) 0 0
  | .cmp y c d a (.imm x) => enc 0 0x17 y c.code (reg d) (reg a) 0 1 x
  | .movi y d x => enc 0 0x18 y 0 (reg d) 0 0 0 x
  | .movhi y d x => enc 0 0x19 y 0 (reg d) 0 0 0 x
  | .mov y d a => enc 0 0x1A y 0 (reg d) (reg a) 0 0 0
  | .pset y op => encPset y op
  | .sext y w d a => enc 0 0x1C y (1#2 ++ w.code) (reg d) (reg a) 0 0 0
  | .zext y w d a => enc 0 0x1D y (wq w) (reg d) (reg a) 0 0 0
  | .fadd y t r d a b => enc 0 0x20 y t.code (reg d) (reg a) (reg b) 0 (fpX r 0)
  | .fsub y t r d a b => enc 0 0x21 y t.code (reg d) (reg a) (reg b) 0 (fpX r 0)
  | .fmul y t r d a b => enc 0 0x22 y t.code (reg d) (reg a) (reg b) 0 (fpX r 0)
  | .ffma y t r d a b c => enc 0 0x23 y t.code (reg d) (reg a) (reg b) (reg c) (fpX r 0)
  | .fdiv y t r d a b => enc 0 0x24 y t.code (reg d) (reg a) (reg b) 0 (fpX r 0)
  | .fsqrt y t r d a => enc 0 0x25 y t.code (reg d) (reg a) 0 0 (fpX r 0)
  | .fmin y t d a b => enc 0 0x26 y t.code (reg d) (reg a) (reg b) 0 0
  | .fmax y t d a b => enc 0 0x27 y t.code (reg d) (reg a) (reg b) 0 0
  | .fcmp y t c d a b => enc 0 0x28 y t.code (reg d) (reg a) (reg b) c.code 0
  | .fcvt y t src r d a => enc 0 0x29 y t.code (reg d) (reg a) 0 0 (fpX r src.code)
  | .icvtf y t it r d a => enc 0 0x2A y t.code (reg d) (reg a) 0 0 (fpX r it.code)
  | .fcvti y it t r d a => enc 0 0x2B y t.code (reg d) (reg a) 0 0 (fpX r it.code)
  | .aadd y d a b => enc 0 0x30 y 0 (reg d) (reg a) (reg b) 0 0
  | .aaddi y d a x => enc 0 0x31 y 0 (reg d) (reg a) 0 0 x
  | .alea y d m => encMem 0 0x32 y 0 (reg d) 0 m
  | .amov y d a => enc 0 0x33 y 0 (reg d) (reg a) 0 0 0
  | .aset y d a b => enc 0 0x34 y 0 (reg d) (reg a) (reg b) 0 0
  | .aget y h d a => enc 0 0x35 y (bq h) (reg d) (reg a) 0 0 0
  | .asub y d a b => enc 0 0x36 y 0 (reg d) (reg a) (reg b) 0 0
  | .acmp y c d a b => enc 0 0x37 y c.code (reg d) (reg a) (reg b) 0 0
  | .achk y k d a b =>
    enc 0 0x38 y (match k with | .read => 0 | .write => 1 | .exec => 2) (reg d) (reg a) (reg b) 0 0
  | .ld y t o d m => encMem 0 0x40 y t.code (reg d) o.code m
  | .st y t o d m => encMem 0 0x41 y t.code (reg d) o.code m
  | .lda y o d m => encMem 0 0x42 y 0 (reg d) o.code m
  | .sta y o d m => encMem 0 0x43 y 0 (reg d) o.code m
  | .atom y op t o d i b x => enc 0 0x44 y t.code (reg d) (reg b) (reg i) (0#2 ++ o.code) (op.code ++ x)
  | .cas y t o d i b x => enc 0 0x45 y t.code (reg d) (reg b) (reg i) (0#2 ++ o.code) (0#4 ++ x)
  | .pref y sc m => encMem 0 0x46 y 0 0 (0#2 ++ sc.code) m
  | .br y x => enc 0 0x50 y 0 0x3F 0 0 0 x
  | .brp y p x => enc 0 0x51 y 0 p.code 0 0 0 x
  | .jmp y a => enc 0 0x52 y 0 0 (reg a) 0 0 0
  | .call y x => enc 0 0x53 y 0 0x3F 0 0 0 x
  | .calla y d a => enc 0 0x54 y 0 (reg d) (reg a) 0 0 0
  | .ret y a => enc 0 0x55 y 0 0 (reg a) 0 0 0
  | .loop y a n => enc 0 0x56 y 0 0 (reg a) (n.extractLsb' 6 6) (n.extractLsb' 0 6) 0
  | .loopi y x n => enc 0 0x57 y 0 0 0 (n.extractLsb' 6 6) (n.extractLsb' 0 6) x
  | .loopmb y a n => enc 0 0x58 y 0 0 (reg a) (n.extractLsb' 6 6) (n.extractLsb' 0 6) 0
  | .lpbrk y p k => enc 0 0x59 y 0 p.code 0 0 0 (0#29 ++ k)
  | .srd y x => encSpr y false x
  | .swr y x => encSpr y true x
  | .mbrd y d a => enc 0 0x62 y 0 (reg d) (reg a) 0 0 0
  | .mbwr y d a => enc 0 0x63 y 0 (reg d) (reg a) 0 0 0
  | .nop y => enc 0 0x64 y 0 0 0 0 0 0
  | .semwait y n k => encSem 0x00 y n k
  | .semsig y n k => encSem 0x01 y n k
  | .semset y n k => encSem 0x02 y n k
  | .semrd y d n => enc 1 0x03 y 0 (reg d) 0 0 0 (0#24 ++ n)
  | .semcfg y n e => enc 1 0x04 y 0 0 0 0 0 (0#23 ++ (bit e ++ n))
  | .qjoin y m => enc 1 0x10 y 0 0 0 0 0 (0#27 ++ m)
  | .fence y o sc =>
    enc 1 0x11 y ((match o with | .acq => 1#2 | .rel => 2#2 | .ar => 3#2) ++ sc.code) 0 0 0 0 0
  | .mwait y t c sc d a b => enc 1 0x12 y t.code (reg d) (reg a) (reg b) 0 (0#26 ++ (sc.code ++ c.code))
  | .lwinit y a b c none => enc 1 0x20 y 0 0 (reg a) (reg b) (reg c) 0
  | .lwinit y a b c (some n) => enc 1 0x20 y 0 0 (reg a) (reg b) (reg c) (0#23 ++ (1#1 ++ n))
  | .lwwait y d a (.reg b) => enc 1 0x21 y 0 (reg d) (reg a) (reg b) 0 0
  | .lwwait y d a (.imm g) => enc 1 0x21 y 1 (reg d) (reg a) 0 0 (0#16 ++ g)
  | .lwrd y d a => enc 1 0x22 y 0 (reg d) (reg a) 0 0 0
  | .barinit y b (.imm m) => enc 1 0x30 y 0 0 (reg b) 0 0 (0#24 ++ m)
  | .barinit y b (.reg r) => enc 1 0x30 y 1 0 (reg b) (reg r) 0 0
  | .bararr y d b => enc 1 0x31 y 0 (reg d) (reg b) 0 0 0
  | .barwait y b p => enc 1 0x32 y 0 0 (reg b) (reg p) 0 0
  | .spawn y d a => enc 1 0x40 y 0 (reg d) (reg a) 0 0 0
  | .yieldTask y => enc 1 0x41 y 0 0 0 0 0 0
  | .texit y => enc 1 0x42 y 0 0 0 0 0 0
  | .setclass y d (.imm c) => enc 1 0x43 y 0 (reg d) 0 0 0 (0#30 ++ c)
  | .setclass y d (.reg r) => enc 1 0x43 y 1 (reg d) (reg r) 0 0 0
  | .cropen y a id => enc 1 0x50 y 0 0 (reg a) 0 0 (0#16 ++ id)
  | .crclose y id => enc 1 0x51 y 0 0 0 0 0 (0#16 ++ id)
  | .trap y k code => enc 1 0x60 y (bq k) 0 0 0 0 (0#16 ++ code)
  | .tret y => enc 1 0x61 y 0 0 0 0 0 0
  | .halt y => enc 1 0x62 y 0 0 0 0 0 0
  | .ecall y d a svc => enc 1 0x63 y 0 (reg d) (reg a) 0 0 (0#16 ++ svc)
  | .vadd y t m d a b => enc 2 0x00 y t.code (reg d) (reg a) (reg b) 0 (modX m)
  | .vsub y t m d a b => enc 2 0x01 y t.code (reg d) (reg a) (reg b) 0 (modX m)
  | .vmul y t m d a b => enc 2 0x02 y t.code (reg d) (reg a) (reg b) 0 (modX m)
  | .vfma y t m d a b c => enc 2 0x03 y t.code (reg d) (reg a) (reg b) (reg c) (modX m)
  | .vfms y t m d a b c => enc 2 0x04 y t.code (reg d) (reg a) (reg b) (reg c) (modX m)
  | .vmin y t m d a b => enc 2 0x05 y t.code (reg d) (reg a) (reg b) 0 (maskX m false)
  | .vmax y t m d a b => enc 2 0x06 y t.code (reg d) (reg a) (reg b) 0 (maskX m false)
  | .vabs y t m d a => enc 2 0x07 y t.code (reg d) (reg a) 0 0 (maskX m false)
  | .vneg y t m d a => enc 2 0x08 y t.code (reg d) (reg a) 0 0 (maskX m false)
  | .vrcp y t m d a => enc 2 0x09 y t.code (reg d) (reg a) 0 0 (modX m)
  | .vrsq y t m d a => enc 2 0x0A y t.code (reg d) (reg a) 0 0 (modX m)
  | .vexp2 y t m d a => enc 2 0x0B y t.code (reg d) (reg a) 0 0 (modX m)
  | .vlog2 y t m d a => enc 2 0x0C y t.code (reg d) (reg a) 0 0 (modX m)
  | .vdiv y t m d a b => enc 2 0x0D y t.code (reg d) (reg a) (reg b) 0 (modX m)
  | .vsqrt y t m d a => enc 2 0x0E y t.code (reg d) (reg a) 0 0 (modX m)
  | .vfcmp y t c m d a b =>
    enc 2 0x0F y t.code (reg d) (reg a) (reg b) 0 (0#20 ++ (c.code.setWidth 4 ++ modByte m false .rne))
  | .viadd y t m s d a b => enc 2 0x10 y t.code (reg d) (reg a) (reg b) 0 (maskX m s)
  | .visub y t m s d a b => enc 2 0x11 y t.code (reg d) (reg a) (reg b) 0 (maskX m s)
  | .vimul y t m s d a b => enc 2 0x12 y t.code (reg d) (reg a) (reg b) 0 (maskX m s)
  | .vimad y t m s d a b c => enc 2 0x13 y t.code (reg d) (reg a) (reg b) (reg c) (maskX m s)
  | .vimin y t m d a b => enc 2 0x14 y t.code (reg d) (reg a) (reg b) 0 (maskX m false)
  | .vimax y t m d a b => enc 2 0x15 y t.code (reg d) (reg a) (reg b) 0 (maskX m false)
  | .vand y t m d a b => enc 2 0x16 y t.code (reg d) (reg a) (reg b) 0 (maskX m false)
  | .vor y t m d a b => enc 2 0x17 y t.code (reg d) (reg a) (reg b) 0 (maskX m false)
  | .vxor y t m d a b => enc 2 0x18 y t.code (reg d) (reg a) (reg b) 0 (maskX m false)
  | .vnot y t m d a => enc 2 0x19 y t.code (reg d) (reg a) 0 0 (maskX m false)
  | .vshl y t m d a b => enc 2 0x1A y t.code (reg d) (reg a) (reg b) 0 (maskX m false)
  | .vshr y t m d a b => enc 2 0x1B y t.code (reg d) (reg a) (reg b) 0 (maskX m false)
  | .vsar y t m d a b => enc 2 0x1C y t.code (reg d) (reg a) (reg b) 0 (maskX m false)
  | .vicmp y t c m d a b =>
    enc 2 0x1D y t.code (reg d) (reg a) (reg b) 0 (0#20 ++ (c.code ++ modByte m false .rne))
  | .vpopc y t m d a => enc 2 0x1E y t.code (reg d) (reg a) 0 0 (maskX m false)
  | .vclmul y h m d a b => enc 2 0x1F y (bq h) (reg d) (reg a) (reg b) 0 (maskX m false)
  | .vcvt y dst src m d a =>
    enc 2 0x20 y 0 (reg d) (reg a) 0 0 (0#8 ++ (src ++ (dst ++ modByte m.mask m.sat m.rm)))
  | .vpack y t s d a b => enc 2 0x21 y t.code (reg d) (reg a) (reg b) 0 (maskX none s)
  | .vunpack y t h d a => enc 2 0x22 y t.code (reg d) (reg a) 0 0 (0#23 ++ (bit h ++ 0#8))
  | .vbcast y t m d a => enc 2 0x23 y t.code (reg d) (reg a) 0 0 (maskX m false)
  | .vextr y t d a b => enc 2 0x24 y t.code (reg d) (reg a) (reg b) 0 0
  | .vinsr y t d a b => enc 2 0x25 y t.code (reg d) (reg a) (reg b) 0 0
  | .vperm y t m d a b => enc 2 0x26 y t.code (reg d) (reg a) (reg b) 0 (maskX m false)
  | .vrot y t m d a b => enc 2 0x27 y t.code (reg d) (reg a) (reg b) 0 (maskX m false)
  | .vsel y t m d a b => enc 2 0x28 y t.code (reg d) (reg a) (reg b) 0 (maskX (some m) false)
  | .vmov y t m d a => enc 2 0x29 y t.code (reg d) (reg a) 0 0 (maskX m false)
  | .vred y op m d a => encRed 0x30 y op m d a 0
  | .vscan y op m d a => encRed 0x31 y op m d a 0
  | .vdot y op m d a b => encRed 0x32 y op m d a (reg b)
  | .vld y w d m => encMem 2 0x40 y (wq w) (reg d) 0 m
  | .vst y w d m => encMem 2 0x41 y (wq w) (reg d) 0 m
  | .vlds y w d m => encMem 2 0x42 y (wq w) (reg d) 0 m
  | .vsts y w d m => encMem 2 0x43 y (wq w) (reg d) 0 m
  | .vgath y w d g => encGather 0x44 y w d g
  | .vscat y w d g => encGather 0x45 y w d g
  | .mlog y op => encMlog y op
  | .mpopc y d a => enc 2 0x51 y 0 (reg d) (reg a) 0 0 0
  | .msetl y w d a => enc 2 0x52 y (wq w) (reg d) (reg a) 0 0 0
  | .vsetw y d (.reg a) => enc 2 0x53 y 0 (reg d) (reg a) 0 0 0
  | .vsetw y d (.imm x) => enc 2 0x53 y 1 (reg d) 0 0 0 x
  | .txload y d s => enc 3 0x00 y 0 (reg d) (reg s) 0 0 0
  | .txrun y dst src s d a n t =>
    enc 3 0x01 y (dst.code2 ++ src.code2) (reg d) (reg a) (reg n) (reg t) (maskX none s)
  | .txv y dst src m s d a t => enc 3 0x02 y (dst.code2 ++ src.code2) (reg d) (reg a) (reg t) 0 (maskX m s)
  | .txcfg y t a b => enc 3 0x03 y 0 (reg t) (reg a) (reg b) 0 0
  | .txrd y d t a => enc 3 0x04 y 0 (reg d) (reg t) (reg a) 0 0
  | .mxldw y f w t x sc => enc 4 0x00 y 0 (reg w) (reg t) (scReg sc) 0 (mxX f x sc)
  | .mxldwt y f w t x sc => enc 4 0x01 y 0 (reg w) (reg t) (scReg sc) 0 (mxX f x sc)
  | .mxpass y f n a t x sc => enc 4 0x02 y 0 (reg n) (reg a) (reg t) (scReg sc) (mxX f x sc)
  | .mxzero y m => enc 4 0x03 y 0 0 0 0 0 (0#24 ++ m)
  | .mxst y k dst r n d t x =>
    enc 4 0x04 y k.code (reg n) (reg d) (reg t) 0
      (0#12 ++ (bit r.sat ++ (r.rm.code ++ (0#6 ++ (BitVec.ofFin (w := 2) x ++ dst)))))
  | .mxrdv y k dst r d n t =>
    enc 4 0x05 y k.code (reg d) (reg n) (reg t) 0 (0#12 ++ (bit r.sat ++ (r.rm.code ++ (0#8 ++ dst))))
  | .mxwrv y n a t => enc 4 0x06 y 0 (reg n) (reg a) (reg t) 0 0
  | .mxagen y (.write g a) => enc 4 0x07 y 0 0 (reg a) 0 0 (0#30 ++ BitVec.ofFin (w := 2) g)
  | .mxagen y (.read d g) => enc 4 0x07 y 1 (reg d) 0 0 0 (0#30 ++ BitVec.ofFin (w := 2) g)
  | .mxscl y s t g => enc 4 0x08 y 0 (reg s) (reg t) 0 0 (0#30 ++ BitVec.ofFin (w := 2) g)
  | .mxmode y (.read d) => enc 4 0x09 y 0 (reg d) 0 0 0 0
  | .mxmode y (.set d a) => enc 4 0x09 y 1 (reg d) (reg a) 0 0 0
  | .mxmode y (.clri d) => enc 4 0x09 y 2 (reg d) 0 0 0 0
  | .mxmode y (.setclri d a) => enc 4 0x09 y 3 (reg d) (reg a) 0 0 0
  | .mxchk y (.read d a) => enc 4 0x0A y 0 (reg d) (reg a) 0 0 0
  | .mxchk y (.set a k c) => enc 4 0x0A y 1 0 (reg a) 0 0 (0#30 ++ (bit c ++ bit k))
  | .mxidle y => enc 4 0x0B y 0 0 0 0 0 0
  | .cpy y d s n lw => enc 5 0x00 y 0 (reg d) (reg s) (reg n) (lwReg lw) (0#31 ++ bit lw.isSome)
  | .cpyt y p d s t x lw => enc 5 0x01 y p (reg d) (reg s) (reg t) (lwReg lw) (0#15 ++ (bit lw.isSome ++ x))
  | .cpym y d s n m lw => enc 5 0x02 y 0 (reg d) (reg s) (reg n) (reg m) (lwoffX lw)
  | .fill y w d n v lw => enc 5 0x03 y (wq w) (reg d) (reg n) (reg v) (lwReg lw) (0#31 ++ bit lw.isSome)
  | .rlopen y k r => enc 5 0x10 y 0 (reg k) (reg r) 0 0 0
  | .rlhold y k => enc 5 0x11 y 0 (reg k) 0 0 0 0
  | .rlrel y k => enc 5 0x12 y 0 (reg k) 0 0 0 0
  | .rlrd y d k p lw => enc 5 0x13 y 0 (reg d) (reg k) (reg p) (lwReg lw) (0#31 ++ bit lw.isSome)
  | .rlwr y k s p => enc 5 0x14 y 0 (reg k) (reg s) (reg p) 0 0
  | .rlstat y d k => enc 5 0x15 y 0 (reg d) (reg k) 0 0 0
  | .streamrow y d r lw => enc 5 0x20 y 0 (reg d) (reg r) 0 (lwReg lw) (0#31 ++ bit lw.isSome)
  | .bankclose y r => enc 5 0x21 y 0 (reg r) 0 0 0 0
  | .sqload y s d t p n => enc 6 0x00 y (bq s) (reg d) (reg p) (reg n) 0 (thrX t)
  | .sqstart y d t a => enc 6 0x01 y 0 (reg d) (reg a) 0 0 (thrX t)
  | .sqstop y d t => enc 6 0x02 y 0 (reg d) 0 0 0 (thrX t)
  | .sqstat y d t => enc 6 0x03 y 0 (reg d) 0 0 0 (thrX t)
  | .sqburst s n o m lw => encSq 0x10 0 (reg s) (reg n) (reg o) (reg m) (lwoffX lw)
  | .sqset op => encSqset op
  | .sqsig m n c => encSq 0x12 0 (reg m) 0 0 0 (0#20 ++ (c ++ n))
  | .sqwait a v => encSq 0x13 0 (reg a) (reg v) 0 0 0
  | .sqloop c x => encSq 0x14 0 (reg c) 0 0 0 x
  | .sqend => encSq 0x15 0 0 0 0 0 0
  | .put y p r s k c n => enc 7 0x00 y (0#2 ++ p.code) (reg r) (reg s) (reg k) (reg c) n
  | .get y p d r k c n => enc 7 0x01 y (0#2 ++ p.code) (reg d) (reg r) (reg k) (reg c) n
  | .rld y t q sc d r k c => enc 7 0x02 y t.code (reg d) (reg r) (reg k) (reg c) (0#28 ++ (sc.code ++ (0#1 ++ bit q)))
  | .rst y t q sc v r k c => enc 7 0x03 y t.code (reg v) (reg r) (reg k) (reg c) (0#28 ++ (sc.code ++ (bit q ++ 0#1)))
  | .ratom y op o sc nr v r k c =>
    enc 7 0x04 y op.codes.2 (reg v) (reg r) (reg k) (reg c) (0#23 ++ (bit nr ++ (sc.code ++ (o.code ++ op.codes.1))))
  | .rcas y t o sc d r n c => enc 7 0x05 y t.code (reg d) (reg r) (reg n) (reg c) (0#28 ++ (sc.code ++ o.code))
  | .flush y sc => enc 7 0x06 y (0#2 ++ sc.code) 0 0 0 0 0
  | .sld y t q sc d i h => enc 7 0x10 y t.code (reg d) (reg i) 0 0 (0#16 ++ (sc.code ++ (0#1 ++ (bit q ++ h))))
  | .sst y t q sc v i h => enc 7 0x11 y t.code (reg v) (reg i) 0 0 (0#16 ++ (sc.code ++ (bit q ++ (0#1 ++ h))))
  | .sget y p d i n h lw =>
    enc 7 0x12 y (0#2 ++ p.code) (reg d) (reg i) (reg n) (lwReg lw) (0#19 ++ (bit lw.isSome ++ h))
  | .sput y (.plain p) s i n h => enc 7 0x13 y (0#2 ++ p.code) (reg s) (reg i) (reg n) 0 (0#20 ++ h)
  | .sput y (.fadd p) s i n h => enc 7 0x13 y (1#2 ++ p.code) (reg s) (reg i) (reg n) 0 (0#20 ++ h)
  | .sput y .faddOrd s i n h => enc 7 0x13 y (2#2 ++ 0#2) (reg s) (reg i) (reg n) 0 (0#20 ++ h)
  | .shfence y => enc 7 0x14 y 0 0 0 0 0 0
  | .shupd y d a h => enc 7 0x15 y 0 (reg d) (reg a) 0 0 (0#20 ++ h)
  | .grant y d a => enc 7 0x20 y 0 (reg d) (reg a) 0 0 0
  | .revoke y a => enc 7 0x21 y 0 (reg a) 0 0 0 0
  | _ => none

/-- The word of an instruction (R286); an event of the device has none. -/
def encode (i : Instr) : Option InstrWord := i.fields.map Fields.pack

end Sys2Proof
end

