-- ==== Sys2Proof/Machine/Tab.lean ====
section
/-! DEFINITION. The containers of the state: sparse words by address in one canonical form, sets of numbers, and tables by number. -/

namespace Sys2Proof.Machine

/-- Words of `n` bits by address: addresses strictly rising, no word listed that is zero; an unlisted word is zero. -/
abbrev Sparse (n : Nat) := List (Nat × BitVec n)

/-- The word at an address. -/
def Sparse.get {n : Nat} : Sparse n → Nat → BitVec n
  | [], _ => 0
  | (b, w) :: m, a => if a = b then w else if a < b then 0 else Sparse.get m a

/-- Writing a word; writing zero removes the entry. -/
def Sparse.set {n : Nat} : Sparse n → Nat → BitVec n → Sparse n
  | [], a, v => if v = 0 then [] else [(a, v)]
  | (b, w) :: m, a, v =>
    if a < b then (if v = 0 then (b, w) :: m else (a, v) :: (b, w) :: m)
    else if a = b then (if v = 0 then m else (a, v) :: m)
    else (b, w) :: Sparse.set m a v

/-- An address is above a bound. -/
def Sparse.above : Option Nat → Nat → Bool
  | none, _ => true
  | some l, a => decide (l < a)

/-- Every address is above `lo`, addresses strictly rise, and no listed word is zero. -/
def Sparse.wfFrom {n : Nat} : Option Nat → Sparse n → Bool
  | _, [] => true
  | lo, (a, v) :: m =>
    Sparse.above lo a && v != 0 && Sparse.wfFrom (some a) m

/-- The canonical form. -/
def Sparse.wf {n : Nat} (m : Sparse n) : Bool := Sparse.wfFrom none m

/-- Removing every word at addresses lo to lo + n - 1. -/
def Sparse.clear {n : Nat} (m : Sparse n) (lo len : Nat) : Sparse n :=
  m.filter fun c => decide (c.1 < lo) || decide (lo + len ≤ c.1)

/-- Bytes by address: a memory in canonical form. -/
abbrev Memory := Sparse 8

/-- The memory's form holds. -/
abbrev Memory.wf (m : Memory) : Bool := Sparse.wf m

/-- `n` bytes from an address upward. -/
def Memory.bytes (m : Memory) (a : Nat) : Nat → List Byte
  | 0 => []
  | n + 1 => Sparse.get m a :: Memory.bytes m (a + 1) n

/-- Writing bytes from an address upward. -/
def Memory.write (m : Memory) (a : Nat) : List Byte → Memory
  | [] => m
  | b :: bs => Memory.write (Sparse.set m a b) (a + 1) bs

/-- A set of numbers, strictly rising. -/
abbrev NatSet := List Nat

/-- Adding a number. -/
def NatSet.add : NatSet → Nat → NatSet
  | [], a => [a]
  | b :: m, a => if a < b then a :: b :: m else if a = b then b :: m else b :: NatSet.add m a

/-- Removing a number. -/
def NatSet.del (m : NatSet) (a : Nat) : NatSet := m.filter (· != a)

/-- Membership. -/
def NatSet.has (m : NatSet) (a : Nat) : Bool := m.contains a

/-- Things by number; an unlisted number holds the default its reader names. -/
abbrev Tab (α : Type) := List (Nat × α)

/-- The thing at a number. -/
def Tab.get {α : Type} (d : α) : Tab α → Nat → α
  | [], _ => d
  | (j, x) :: t, i => if i = j then x else Tab.get d t i

/-- Replacing the thing at a number. -/
def Tab.set {α : Type} : Tab α → Nat → α → Tab α
  | [], i, v => [(i, v)]
  | (j, x) :: t, i, v =>
    if i = j then (i, v) :: t else if i < j then (i, v) :: (j, x) :: t else (j, x) :: Tab.set t i v

/-- Removing the entry of a number. -/
def Tab.del {α : Type} (t : Tab α) (i : Nat) : Tab α := t.filter (fun e => e.1 != i)

/-- A number of bytes as a little-endian number (R8). -/
def ofBytes : List Byte → Nat
  | [] => 0
  | b :: bs => b.toNat + 256 * ofBytes bs

/-- The `n` little-endian bytes of a number (R8). -/
def toBytes (v : Nat) : Nat → List Byte
  | 0 => []
  | n + 1 => BitVec.ofNat 8 v :: toBytes (v / 256) n

/-- Replacing the element at an index; past the end, nothing. -/
def listSet {α : Type} (l : List α) (i : Nat) (x : α) : List α := l.set i x

end Sys2Proof.Machine
end

