-- ==== Sys2Proof/Machine/Crypto.lean ====
section
/-! DEFINITION. The ciphers and hashes the specification names: SHA-256, AES-256 with CMAC, GCM and XTS, and CRC-32C (R44, R73, R76, R77, R96, R118, R130). -/

namespace Sys2Proof.Machine

/-! ## CRC-32C (R44) -/

/-- One bit of the reflected CRC register. -/
def crcBit (c : BitVec 32) : BitVec 32 :=
  bif c.getLsbD 0 then (c >>> 1) ^^^ 0x82F63B78 else c >>> 1

/-- One byte of the CRC. -/
def crcByte (c : BitVec 32) (b : Byte) : BitVec 32 :=
  crcBit (crcBit (crcBit (crcBit (crcBit (crcBit (crcBit (crcBit (c ^^^ b.setWidth 32))))))))

/-- CRC-32C of bytes (R44). -/
def crc32c (bs : List Byte) : BitVec 32 := bs.foldl crcByte 0xFFFFFFFF ^^^ 0xFFFFFFFF

/-! ## SHA-256 -/

/-- The 64 round constants, word i in bits [32i+31:32i]. -/
def shaK : BitVec 2048 := 0xc67178f2bef9a3f7a4506ceb90befffa8cc7020884c8781478a5636f748f82ee682e6ff35b9cca4f4ed8aa4a391c0cb334b0bcb52748774c1e376c0819a4c116106aa070f40e3585d6990624d192e819c76c51a3c24b8b70a81a664ba2bfe8a192722c8581c2c92e766a0abb650a735453380d134d2c6dfc2e1b213827b70a851429296706ca6351d5a79147c6e00bf3bf597fc7b00327c8a831c66d983e515276f988da5cb0a9dc4a7484aa2de92c6f240ca1cc0fc19dc6efbe4786e49b69c1c19bf1749bdc06a780deb1fe72be5d74550c7dc3243185be12835b01d807aa98ab1c5ed5923f82a459f111f13956c25be9b5dba5b5c0fbcf71374491428a2f98

/-- A big-endian 32-bit word. -/
def beWord (b0 b1 b2 b3 : Byte) : BitVec 32 := b0 ++ (b1 ++ (b2 ++ b3))

/-- The message schedule: words newest first, extended to 64. -/
def shaExtend : Nat → List (BitVec 32) → List (BitVec 32)
  | 0, w => w
  | n + 1, w =>
    let w2 := w.getD 1 0
    let w15 := w.getD 14 0
    let s1 := w2.rotateRight 17 ^^^ w2.rotateRight 19 ^^^ (w2 >>> 10)
    let s0 := w15.rotateRight 7 ^^^ w15.rotateRight 18 ^^^ (w15 >>> 3)
    shaExtend n ((s1 + w.getD 6 0 + s0 + w.getD 15 0) :: w)

/-- The eight working words. -/
structure ShaSt where
  a : BitVec 32
  b : BitVec 32
  c : BitVec 32
  d : BitVec 32
  e : BitVec 32
  f : BitVec 32
  g : BitVec 32
  h : BitVec 32

/-- One round. -/
def shaRound (x : ShaSt) (i : Nat) (w : BitVec 32) : ShaSt :=
  let s1 := x.e.rotateRight 6 ^^^ x.e.rotateRight 11 ^^^ x.e.rotateRight 25
  let ch := (x.e &&& x.f) ^^^ (~~~x.e &&& x.g)
  let t1 := x.h + s1 + ch + shaK.extractLsb' (32 * i) 32 + w
  let s0 := x.a.rotateRight 2 ^^^ x.a.rotateRight 13 ^^^ x.a.rotateRight 22
  let mj := (x.a &&& x.b) ^^^ (x.a &&& x.c) ^^^ (x.b &&& x.c)
  ⟨t1 + (s0 + mj), x.a, x.b, x.c, x.d + t1, x.e, x.f, x.g⟩

/-- The rounds over a schedule. -/
def shaRounds : Nat → List (BitVec 32) → ShaSt → ShaSt
  | _, [], x => x
  | i, w :: ws, x => shaRounds (i + 1) ws (shaRound x i w)

/-- Big-endian words of a list of bytes. -/
def beWords : List Byte → List (BitVec 32)
  | b0 :: b1 :: b2 :: b3 :: r => beWord b0 b1 b2 b3 :: beWords r
  | _ => []

/-- One 64-byte block. -/
def shaBlock (x : ShaSt) (block : List Byte) : ShaSt :=
  let y := shaRounds 0 (shaExtend 48 (beWords block).reverse).reverse x
  ⟨x.a + y.a, x.b + y.b, x.c + y.c, x.d + y.d, x.e + y.e, x.f + y.f, x.g + y.g, x.h + y.h⟩

/-- The blocks of a padded message. -/
def shaBlocks : Nat → List Byte → ShaSt → ShaSt
  | 0, _, x => x
  | n + 1, bs, x => shaBlocks n (bs.drop 64) (shaBlock x (bs.take 64))

/-- The digest, most significant byte first in the number. -/
def sha256 (bs : List Byte) : BitVec 256 :=
  let n := bs.length
  let padded := bs ++ (0x80 :: List.replicate ((119 - n % 64) % 64) 0) ++ (toBytes (8 * n) 8).reverse
  let x := shaBlocks (padded.length / 64) padded ⟨0x6a09e667, 0xbb67ae85, 0x3c6ef372, 0xa54ff53a, 0x510e527f, 0x9b05688c, 0x1f83d9ab, 0x5be0cd19⟩
  x.a ++ (x.b ++ (x.c ++ (x.d ++ (x.e ++ (x.f ++ (x.g ++ x.h))))))

/-- A digest as bytes in the order it is written. -/
def digestBytes (d : BitVec 256) : List Byte := (toBytes d.toNat 32).reverse

/-! ## AES-256 -/

/-- The S-box, entry x in bits [8x+7:8x]. -/
def aesSbox : BitVec 2048 := 0x16bb54b00f2d99416842e6bf0d89a18cdf2855cee9871e9b948ed9691198f8e19e1dc186b95735610ef6034866b53e708a8bbd4b1f74dde8c6b4a61c2e2578ba08ae7a65eaf4566ca94ed58d6d37c8e779e4959162acd3c25c2406490a3a32e0db0b5ede14b8ee4688902a22dc4f816073195d643d7ea7c41744975fec130ccdd2f3ff1021dab6bcf5389d928f40a351a89f3c507f02f94585334d43fbaaefd0cf584c4a39becb6a5bb1fc20ed00d153842fe329b3d63b52a05a6e1b1a2c830975b227ebe28012079a059618c323c7041531d871f1e5a534ccf73f362693fdb7c072a49cafa2d4adf04759fa7dc982ca76abd7fe2b670130c56f6bf27b777c63

/-- The inverse S-box. -/
def aesInvSbox : BitVec 2048 := 0x7d0c2155631469e126d677ba7e042b17619953833cbbebc8b0f52aae4d3be0a0ef9cc9939f7ae52d0d4ab519a97f51605fec8027591012b131c7078833a8dd1ff45acd78fec0db9a2079d2c64b3e56fc1bbe18aa0e62b76f89c5291d711af1476edf751ce837f9e28535ade72274ac9673e6b4f0cecff297eadc674f4111913a6b8a130103bdafc1020f3fca8f1e2cd00645b3b80558e4f70ad3bc8c00abd890849d8da75746155edab9edfd5048706c92b6655dcc5ca4d41698688664f6f87225d18b6d49a25b76b224d92866a12e084ec3fa420b954cee3d23c2a632947b54cbe9dec444438e3487ff2f9b8239e37cfbd7f3819ea340bf38a53630d56a0952

/-- A byte through the S-box. -/
def subByte (b : Byte) : Byte := aesSbox.extractLsb' (8 * b.toNat) 8

/-- A byte through the inverse S-box. -/
def invSubByte (b : Byte) : Byte := aesInvSbox.extractLsb' (8 * b.toNat) 8

/-- Multiplication by x in the AES field. -/
def xtime (b : Byte) : Byte := (b <<< 1) ^^^ (bif b.getLsbD 7 then 0x1B else 0)

/-- One round key word from the word eight back and the word before (index i in words). -/
def aesKeyWord (i : Nat) (rcon : Byte) (back prev : List Byte) : List Byte :=
  let t := if i % 8 = 0 then
      match (prev.drop 1 ++ prev.take 1).map subByte with
      | b :: r => (b ^^^ rcon) :: r
      | [] => []
    else if i % 8 = 4 then prev.map subByte else prev
  List.zipWith (· ^^^ ·) back t

/-- The key schedule, words newest first. -/
def aesExpand : Nat → Nat → Byte → List (List Byte) → List (List Byte)
  | 0, _, _, ws => ws
  | n + 1, i, rcon, ws =>
    aesExpand n (i + 1) (if i % 8 = 0 then xtime rcon else rcon) (aesKeyWord i rcon (ws.getD 7 []) (ws.getD 0 []) :: ws)

/-- A list cut into pieces of `k`. -/
def chunks {α : Type} (k : Nat) : Nat → List α → List (List α)
  | 0, _ => []
  | n + 1, l => l.take k :: chunks k n (l.drop k)

/-- The 15 round keys of 16 bytes. -/
def aesKeys (key : List Byte) : List (List Byte) :=
  let ws := (aesExpand 52 8 1 (chunks 4 8 key).reverse).reverse
  (chunks 4 15 ws).map List.flatten

/-- Two lists of bytes, exclusive-or. -/
def xorBytes (a b : List Byte) : List Byte := List.zipWith (· ^^^ ·) a b

/-- Byte positions of ShiftRows. -/
def shiftIdx : List Nat := [0, 5, 10, 15, 4, 9, 14, 3, 8, 13, 2, 7, 12, 1, 6, 11]
/-- Byte positions of the inverse of ShiftRows. -/
def invShiftIdx : List Nat := [0, 13, 10, 7, 4, 1, 14, 11, 8, 5, 2, 15, 12, 9, 6, 3]

/-- MixColumns. -/
def mixCols : List Byte → List Byte
  | a :: b :: c :: d :: r =>
    (xtime a ^^^ (xtime b ^^^ b) ^^^ c ^^^ d) :: (a ^^^ xtime b ^^^ (xtime c ^^^ c) ^^^ d)
      :: (a ^^^ b ^^^ xtime c ^^^ (xtime d ^^^ d)) :: ((xtime a ^^^ a) ^^^ b ^^^ c ^^^ xtime d) :: mixCols r
  | _ => []

/-- One encryption round; the last has no MixColumns. -/
def aesRound (st key : List Byte) (last : Bool) : List Byte :=
  let x := shiftIdx.map fun i => subByte (st.getD i 0)
  xorBytes (bif last then x else mixCols x) key

/-- The rounds over the remaining round keys. -/
def aesRounds : List (List Byte) → List Byte → List Byte
  | [], st => st
  | [k], st => aesRound st k true
  | k :: ks, st => aesRounds ks (aesRound st k false)

/-- AES-256 of one block under expanded keys. -/
def aesEnc (ks : List (List Byte)) (block : List Byte) : List Byte :=
  match ks with
  | [] => block
  | k :: r => aesRounds r (xorBytes block k)

/-- One decryption round: the inverse MixColumns is MixColumns three times. -/
def aesInvRound (st key : List Byte) (first : Bool) : List Byte :=
  let x := xorBytes st key
  let x := bif first then x else mixCols (mixCols (mixCols x))
  invShiftIdx.map fun i => invSubByte (x.getD i 0)

/-- The decryption rounds over round keys, last first. -/
def aesInvRounds : List (List Byte) → Bool → List Byte → List Byte
  | [], _, st => st
  | [k], _, st => xorBytes st k
  | k :: ks, first, st => aesInvRounds ks false (aesInvRound st k first)

/-- The inverse of `aesEnc`. -/
def aesDec (ks : List (List Byte)) (block : List Byte) : List Byte := aesInvRounds ks.reverse true block

/-- A key as bytes: bits [7:0] first. -/
def keyBytes (k : BitVec 256) : List Byte := toBytes k.toNat 32

/-! ## CMAC (R73, SP 800-38B) -/

/-- A block shifted left by one bit as a big-endian number, with the CMAC reduction. -/
def cmacDouble (b : List Byte) : List Byte :=
  let x : BitVec 128 := BitVec.ofNat 128 (ofBytes b.reverse)
  let y := (x <<< 1) ^^^ (bif x.getLsbD 127 then 0x87 else 0)
  (toBytes y.toNat 16).reverse

/-- AES-CMAC of a message shorter than one block. -/
def cmacShort (key : BitVec 256) (msg : List Byte) : List Byte :=
  let ks := aesKeys (keyBytes key)
  let k2 := cmacDouble (cmacDouble (aesEnc ks (List.replicate 16 0)))
  aesEnc ks (xorBytes (msg ++ (0x80 :: List.replicate (15 - msg.length) 0)) k2)

/-- CMAC24 of R303: T0 most significant. -/
def cmac24 (key : BitVec 256) (m : BitVec 40) (devid : BitVec 15) : BitVec 24 :=
  let t := cmacShort key (toBytes m.toNat 5 ++ toBytes devid.toNat 2 ++ [0])
  t.getD 0 0 ++ (t.getD 1 0 ++ t.getD 2 0)

/-! ## GCM (R76, R77) -/

/-- Multiplication in the GCM field, over the bits of `x` from the most significant. -/
def ghashMul : Nat → BitVec 128 → BitVec 128 → BitVec 128 → BitVec 128
  | 0, _, _, z => z
  | n + 1, x, v, z =>
    ghashMul n x (bif v.getLsbD 0 then (v >>> 1) ^^^ (0xE1#128 <<< 120) else v >>> 1)
      (bif x.getLsbD n then z ^^^ v else z)

/-- A block as a big-endian number, zero-padded at its end. -/
def beBlock (b : List Byte) : BitVec 128 := BitVec.ofNat 128 (ofBytes (b ++ List.replicate (16 - b.length) 0).reverse)

/-- GHASH over blocks. -/
def ghash (h : BitVec 128) (blocks : List (BitVec 128)) : BitVec 128 :=
  blocks.foldl (fun y b => ghashMul 128 (y ^^^ b) h 0) 0

/-- Bytes in blocks of 16. -/
def blocks16 (bs : List Byte) : List (List Byte) := chunks 16 ((bs.length + 15) / 16) bs

/-- The n-th counter block of a 12-byte nonce. -/
def gcmCtr (nonce : List Byte) (n : Nat) : List Byte := nonce ++ (toBytes n 4).reverse

/-- Counter mode from counter `n`. -/
def gcmCrypt (ks : List (List Byte)) (nonce : List Byte) : Nat → List (List Byte) → List Byte
  | _, [] => []
  | n, b :: r => xorBytes b (aesEnc ks (gcmCtr nonce n)) ++ gcmCrypt ks nonce (n + 1) r

/-- The tag over authenticated data and ciphertext. -/
def gcmTag (ks : List (List Byte)) (nonce aad ct : List Byte) : BitVec 128 :=
  let h := beBlock (aesEnc ks (List.replicate 16 0))
  let lens : BitVec 128 := BitVec.ofNat 64 (8 * aad.length) ++ BitVec.ofNat 64 (8 * ct.length)
  ghash h ((blocks16 aad).map beBlock ++ (blocks16 ct).map beBlock ++ [lens]) ^^^ beBlock (aesEnc ks (gcmCtr nonce 1))

/-- AES-256-GCM sealing: ciphertext and tag. -/
def gcmSeal (key : BitVec 256) (nonce aad pt : List Byte) : List Byte × BitVec 128 :=
  let ks := aesKeys (keyBytes key)
  let ct := gcmCrypt ks nonce 2 (blocks16 pt)
  (ct, gcmTag ks nonce aad ct)

/-- AES-256-GCM opening: none when the tag fails. -/
def gcmOpen (key : BitVec 256) (nonce aad ct : List Byte) (tag : BitVec 128) : Option (List Byte) :=
  let ks := aesKeys (keyBytes key)
  if gcmTag ks nonce aad ct = tag then some (gcmCrypt ks nonce 2 (blocks16 ct)) else none

/-! ## XTS (R118) -/

/-- The tweak of the second block: multiplication by x of a little-endian block. -/
def xtsDouble (b : List Byte) : List Byte :=
  let x : BitVec 128 := BitVec.ofNat 128 (ofBytes b)
  toBytes ((x <<< 1) ^^^ (bif x.getLsbD 127 then 0x87 else 0)).toNat 16

/-- The two tweaks of a sector (R118). -/
def xtsTweaks (k2 : List (List Byte)) (sector : Nat) : List Byte × List Byte :=
  let t := aesEnc k2 (toBytes sector 16)
  (t, xtsDouble t)

/-- Encrypting or decrypting one 32-byte sector; the tweak is DPA[51:5] (R118). -/
def xtsSector (keys : BitVec 512) (sector : Nat) (dec : Bool) (bs : List Byte) : List Byte :=
  let k1 := aesKeys (keyBytes (keys.extractLsb' 0 256))
  let k2 := aesKeys (keyBytes (keys.extractLsb' 256 256))
  let tw := xtsTweaks k2 sector
  let one := fun (b t : List Byte) =>
    xorBytes (bif dec then aesDec k1 (xorBytes b t) else aesEnc k1 (xorBytes b t)) t
  one (bs.take 16) tw.1 ++ one (bs.drop 16) tw.2

end Sys2Proof.Machine
end

