-- ==== Sys2Proof/Config.lean ====
section
/-! DEFINITION. What the implementation fixes, and the free values: opaque functions of a counter in the state, so that nothing can be proved of a value the specification leaves open. -/

namespace Sys2Proof.Config

/-- Cores of the device (R2, R22). -/
def cores : Nat := 288
/-- Clusters of 18 cores (R29). -/
def clusters : Nat := 16
/-- Fabric ports (R41). -/
def ports : Nat := 48
/-- Scratchpad bytes of one core: 7 MiB (R223). -/
def spBytes : Nat := 0x700000
/-- HBM bytes: 768 GiB (R98, R101). -/
def hbmBytes : Nat := 0xC000000000
/-- First reserved frame (R126). -/
def reservedGfn : Nat := 0xBF0000
/-- Entries of an engine queue and of its shared part (R210). -/
def queueShared : Nat := 32

/-- Cycles of the arithmetic clock that pass at the n-th step (DESIGN CHOICE, safe, log 7). -/
opaque freeCycles : Nat → BitVec 16
/-- Fabric ticks of 64 ns that pass at the n-th step (DESIGN CHOICE, safe, log 7). -/
opaque freeTicks : Nat → BitVec 16
/-- The n-th 256-bit draw of the Headland random source (R74; DESIGN CHOICE, safe, log 9). -/
opaque freeKey : Nat → BitVec 256
/-- The n-th value of TMNONCE after a log command (R96; DESIGN CHOICE, safe, log 9). -/
opaque freeNonce : Nat → BitVec 64
/-- The memory key pair that management has installed in a key slot (R118; DESIGN CHOICE, safe, log 9). -/
opaque freeMemKey : Nat → BitVec 512
/-- The fabric key that management has installed in a key slot (R76, R118; DESIGN CHOICE, safe, log 9). -/
opaque freeFabKey : Nat → BitVec 256
/-- The per-hop key of a port (R77; DESIGN CHOICE, safe, log 9). -/
opaque freeHopKey : Nat → BitVec 256
/-- The fused key hashes (R92): SHA-256 of an acceptable public key (DESIGN CHOICE, unsafe, log 10). -/
opaque fusedKeyHash : Nat → BitVec 256
/-- A fused key hash is revoked (R92; DESIGN CHOICE, unsafe, log 10). -/
opaque keyRevoked : Nat → Bool
/-- Whether an ECDSA P-256 signature (r, s) over a digest verifies under a public key (R92, R97; DESIGN CHOICE, unsafe, log 10). -/
opaque ecdsaVerify : BitVec 512 → BitVec 256 → BitVec 512 → Bool
/-- The device identity key's signature of a digest (R92; DESIGN CHOICE, unsafe, log 10). -/
opaque identitySign : BitVec 256 → BitVec 512
/-- SHA-256 of the fuse map (R92; DESIGN CHOICE, unsafe, log 10). -/
opaque fuseMapHash : BitVec 256
/-- Operator public key (R97; DESIGN CHOICE, unsafe, log 10). -/
opaque operatorKey : BitVec 512
/-- Where recovery's firmware-staging buffer lies in the management window (R92; DESIGN CHOICE, unsafe, log 10). -/
opaque stagingBase : Nat
/-- How many bytes recovery's firmware-staging buffer holds (R92; DESIGN CHOICE, unsafe, log 10). -/
opaque stagingSize : Nat
/-- The fused drift limit DLIM in millionths (R31; PRESUMED, unsafe, log 6). -/
opaque driftLimit : Nat
/-- The fused birth value of a cluster's ageing monitor (R31; PRESUMED, unsafe, log 6). -/
opaque birthCount : Nat → Nat → Nat
/-- The derating record of a cluster: MAXSTEP at the first reset (R31, R34; PRESUMED, unsafe, log 6). -/
def maxStep0 : Nat := 32
/-- Which entry of a full translation cache the n-th fill replaces (R136; DESIGN CHOICE, safe, log 68). -/
opaque freeVictim : Nat → Nat
/-- Whether the n-th scalar load that finds a line unlike HBM finds it gone (R243; DESIGN CHOICE, safe, log 70). -/
opaque freeMiss : Nat → Bool
/-- Byte i of what a GET or SGET leaves beyond its ECP after the n-th NACK (R184; DESIGN CHOICE, safe, log 13). -/
opaque freeGetByte : Nat → Nat → BitVec 8
/-- How far the n-th stopped command has run ahead of its committed position (R182; DESIGN CHOICE, safe, log 21). -/
opaque freeAhead : Nat → Nat
/-- What EADDR holds after the n-th trap whose rule names no address (R176; DESIGN CHOICE, safe, log 22). -/
opaque freeEaddr : Nat → BitVec 80
/-- Which of several free ranges of program memory the n-th SQLOAD takes (R423; DESIGN CHOICE, safe, log 22). -/
opaque freeRange : Nat → Nat
/-- The linear iteration number of the n-th imported task, which no bundle holds (R195, R199; DESIGN CHOICE, safe, log 24). -/
opaque freeIter : Nat → Nat

end Sys2Proof.Config
end

