-- ==== Sys2Proof/Machine/State.lean ====
section
/-! DEFINITION. The state of the device as plain data, the state right after power-on reset, and the reasons a step can stop. -/

namespace Sys2Proof.Machine

/-! ## Tasks -/

/-- A hardware-loop level: count, first body instruction, body length (R324). -/
structure Loop where
  cnt : BitVec 32 := 0
  start : Addr := 0
  len : BitVec 12 := 0
deriving DecidableEq, Repr

/-- An open containment region (R201, R350). -/
structure Region where
  handler : Addr
  id : BitVec 16
  mark : BitVec 24
  inh : Bool
  depth : Nat
deriving DecidableEq, Repr

/-- The state of a task slot (R166). -/
inductive TaskSt
  | idle | ready | issuing | waiting | parked | trapped | preempted
deriving DecidableEq, Repr

/-- The state of a row-line slot; YIELDED carries its reason, SAVED stands in images only (R106, R200). -/
inductive RowSt
  | empty | opening | held | yieldedRfm | yieldedTherm | lost | saved
deriving DecidableEq, Repr

/-- A row-line slot k0 to k15 (R103, R418). -/
structure RowSlot where
  st : RowSt := .empty
  /-- Virtual address of the row's first byte. -/
  addr : Addr := 0
  /-- DPA of the row's first byte. -/
  dpa : Nat := 0
  wr : Bool := false
  /-- Key slot of a confidential page's row (R118). -/
  key : Option (BitVec 12) := none
deriving DecidableEq, Repr

/-- What a task that is not READY waits for, with what its condition is tested on (R166, R335). -/
inductive Wait
  | none
  /-- The SYNC wait of the instruction at PC. -/
  | sync (n : BitVec 8) (cnt : Nat)
  /-- SEMWAIT past its SYNC wait. -/
  | sem (n : BitVec 8) (cnt : Nat)
  | landing (addr : Addr) (g : BitVec 16)
  | mwait (addr : Addr) (t : IntTy) (c : Cond) (b : Word)
  | barrier (b : BarReg) (phase : Bool)
  /-- A service call: its SYNC field, its register, the service and its argument (R355). -/
  | ecall (y : Sync) (d : SReg) (svc : BitVec 16) (arg : Word)
  /-- QJOIN over a set of engines. -/
  | join (engs : BitVec 5)
  /-- FENCE with a release at .fab or .sys: the task's puts and remote stores await acknowledgement. -/
  | fence
  /-- CRCLOSE: entries issued at a region depth above the bound. -/
  | crclose (depth : Nat)
  | texit
  /-- HALT while another context is halted (R354). -/
  | halt
  | queueFull (e : Eng)
  /-- Locked bytes of the unit's scratchpad (R226). -/
  | copyLock (off n : Nat)
  /-- Registers reserved for an engine (R361). -/
  | regBusy (r : List SReg)
  /-- An XLT request of a PASID and 4 KiB page without its reply (R83). -/
  | xlt (pasid vpage : Nat)
  /-- A bank of HBM that takes no request now (R109, R110, R112, R113). -/
  | bank (b : Nat)
  /-- ACHK: so many bytes of its range have passed, and the next page waits for a bank, or for the reply to the XLT request of a PASID
  and page (R83, R107, R316). -/
  | probe (passed : Nat) (hold : Nat ⊕ Nat × Nat)
  /-- FENCE while a stack is in self-refresh (R112). -/
  | selfRefresh
  /-- In an image: the access was refused, and its trap is taken when the task is placed again (R141, R185). -/
  | refused (addr : Addr)
  /-- In an image read in: a hold that its section records without what the word at PC says of it, with MWAIT's address (R166, R335). -/
  | word (addr : Option Addr)
  /-- RATOM or RCAS with an acquire without its reply (R241). -/
  | acquire
  /-- RLD or SLD parked for the response with this issue number (R185). -/
  | remote (isn : BitVec 24)
  /-- A queued page fault on the 64 KiB page of an ASID, of an access or of the fetch of the instruction (R141). -/
  | page (asid : BitVec 16) (vpage : Nat) (fetch : Bool)
deriving DecidableEq, Repr

/-- A contiguous part of an FX transfer at one target: its bytes in the transfer, where they go, and the handle that gave them (R149, R433). -/
structure Seg where
  start : Nat
  len : Nat
  dev : BitVec 15
  token : BitVec 64
  addr : Addr
  shard : Option (BitVec 12 × BitVec 16)
deriving DecidableEq, Repr

/-- A pre-emption that held an access: the unit, the sweep whose image takes its bytes, and the unit that holds the sweep's tasks again
once the image is restored (R191). -/
structure Redir where
  unit : Nat
  sweep : BitVec 32
  restored : Option Nat := none
deriving DecidableEq, Repr

/-- A pending trap of one engine (R192). -/
structure Pending where
  code : BitVec 8
  sub : BitVec 8
  addr : Addr
  ecp : Nat
  esp : Nat
deriving DecidableEq, Repr

/-- A task slot and the registers of its task (R164, R178, R195, R212, R230). -/
structure Task where
  st : TaskSt
  sweep : BitVec 32
  asid : BitVec 16
  /-- Linear iteration number (R158). -/
  iter : Nat
  seed : BitVec 64
  /-- CEIL of the sweep's record. -/
  ceil : BitVec 2
  pc : Addr
  s : Vector Word 64
  a : Vector Addr 32
  p : Vector Bool 8
  v : Vector VWord 32
  m : Vector Mask 8
  /-- Active vector width in 32-bit lanes (R357). -/
  width : Nat
  loops : Vector Loop 4
  depth : Nat
  esw : BitVec 64
  epc : Addr
  ecause : BitVec 64
  eaddr : Addr
  ecp : BitVec 64
  esp : BitVec 64
  hbase : Addr
  waitlimit : BitVec 64
  /-- The wait count of R186 up to `waitFrom`. -/
  waitAcc : Nat
  /-- The core's cycle at which the wait in force began; none when no wait is in force. -/
  waitFrom : Option Nat
  inh : Bool
  priv : Bool
  cls : BitVec 2
  /-- Inherited class, 3 for none (R167, R169). -/
  inherited : BitVec 2
  /-- Open regions, outermost first (R201). -/
  regions : List Region
  rows : Vector RowSlot 16
  rowq : Nat
  acts : BitVec 32
  isn : BitVec 24
  wait : Wait
  /-- The SYNC wait of the instruction at PC has been met: the semaphore and the count it took (R217, R335). -/
  took : Option (BitVec 8 × Nat)
  /-- An imported task is past the SYNC wait of the instruction at PC, whose operands name the count it took (R335). -/
  pastSync : Bool
  pendVx : Option Pending
  pendTx : Option Pending
  pendMx : Option Pending
  pendCx : Option Pending
  pendFx : Option Pending
  starve : Nat
  /-- YIELD removed the task from the set E of R167 (R346). -/
  yielded : Bool
  /-- Scalar registers reserved for an engine (R361). -/
  resvd : List SReg
  /-- The engine of the frozen command whose trap is being handled (R179). -/
  frozenEng : Option Eng
deriving DecidableEq, Repr

/-- An idle slot: every register zero (DESIGN CHOICE, unsafe, log 14). -/
def Task.idle : Task where
  st := .idle
  sweep := 0
  asid := 0
  iter := 0
  seed := 0
  ceil := 0
  pc := 0
  s := Vector.replicate 64 0
  a := Vector.replicate 32 0
  p := Vector.replicate 8 false
  v := Vector.replicate 32 0
  m := Vector.replicate 8 0
  width := 0
  loops := Vector.replicate 4 {}
  depth := 0
  esw := 0
  epc := 0
  ecause := 0
  eaddr := 0
  ecp := 0
  esp := 0
  hbase := 0
  waitlimit := 0
  waitAcc := 0
  waitFrom := none
  inh := false
  priv := false
  cls := 0
  inherited := 3
  regions := []
  rows := Vector.replicate 16 {}
  rowq := 0
  acts := 0
  isn := 0
  wait := .none
  took := none
  pastSync := false
  pendVx := none
  pendTx := none
  pendMx := none
  pendCx := none
  pendFx := none
  starve := 0
  yielded := false
  resvd := []
  frozenEng := none

/-! ## Engines and cores -/

/-- An engine queue entry (R182, R196, R210). -/
structure Entry where
  instr : Instr
  eng : Eng
  slot : Nat
  isn : BitVec 24
  rdepth : Nat
  /-- Operand values captured at issue, in operand-field order (R196, R360). -/
  o0 : BitVec 128 := 0
  o1 : BitVec 128 := 0
  o2 : BitVec 128 := 0
  o3 : BitVec 128 := 0
  /-- The SYNC wait has been met (R217). -/
  wmet : Bool := false
  started : Bool := false
  frozen : Bool := false
  /-- Frozen by a queued page fault, without a trap (R181). -/
  pageHeld : Option (BitVec 16 × Nat) := none
  comm : Nat := 0
  spec : Nat := 0
  /-- The entry stands in its task's reserved place of the queue (R210). -/
  rsvd : Bool := false
  /-- Bytes of the command that its landing word has counted (R183). -/
  landed : Nat := 0
  /-- The table header that a TX command read when it started (R379). -/
  hdr : Option (BitVec 128) := none
  /-- The vector and mask registers that a VX or TX command under way has read before it wrote (R360). -/
  srcs : Option (Vector VWord 32 × Vector Mask 8) := none
  /-- The owners that a sharded access has resolved (R149). -/
  segs : Option (List Seg) := none
  /-- Every unit is performed or sent; the entry awaits its turn to signal, or its responses. -/
  done : Bool := false
  /-- The entry is performed only when its responses have arrived (R216). -/
  needResp : Bool := false
  /-- Its register is written and reserved no more, though earlier entries of the task hold back its signal (R211, R361). -/
  freed : Bool := false
  /-- A containment unwind suppresses the entry's signal and landing-word counts (R202). -/
  mute : Bool := false
  /-- The range a copy locks in this unit's scratchpad: offset and length (R226). -/
  lock : Option (Nat × Nat) := none
  /-- The pattern under which that range is written: its bytes lie in the physical granules (R225, R226). -/
  lockSwz : Nat := 0
  /-- Pre-emptions that held an access of the entry (R191). -/
  redir : List Redir := []
  /-- Sets and IMODE copied at the first MX start (R393). -/
  mxCopied : Bool := false
  /-- Where an RLD or SLD was issued, with the loop levels at its issue (R185, R326). -/
  back : Option (Addr × Nat × Vector Loop 4) := none
deriving DecidableEq, Repr

/-- A semaphore (R215). -/
structure Sem where
  count : BitVec 16 := 0
  ext : Bool := false
  ovf : Bool := false
  /-- The count includes a signal from outside the unit, which a wait that it meets synchronises with at .dev scope (R246). -/
  dev : Bool := false
deriving DecidableEq, Repr

/-- A line of the scalar data cache: 64 bytes of HBM as a task of the unit last read or wrote them, by DPA / 64 and key slot
(R243; DEDUCED, unsafe, log 70). -/
structure DLine where
  line : Nat
  key : Option (BitVec 12)
  bytes : List Byte
deriving DecidableEq, Repr

/-- A barrier object (R168). -/
structure Barrier where
  member : BitVec 8 := 0
  arrived : BitVec 8 := 0
  phase : Bool := false
deriving DecidableEq, Repr

/-- The mode of a unit (R28). -/
inductive Gang
  | single | gang2 | gang4
deriving DecidableEq, Repr

/-- Power gating of a matrix array (R35). -/
inductive GateSt
  | awake | gating | gated | waking
deriving DecidableEq, Repr

/-- A core and the unit-shared state it holds as its unit's lowest core (R159, R214, R228). -/
structure Core where
  slots : Tab Task
  mode : Gang
  /-- Lowest core of the unit this core stands in. -/
  leader : Option Nat
  tenant : Option (BitVec 32)
  sems : Tab Sem
  bars : Tab Barrier
  mbox : Tab (BitVec 32)
  /-- Entries of the five engines, oldest first (R210, R211). -/
  queue : List Entry
  spm : Memory
  /-- Layout tags by 4 KiB frame (R224). -/
  tags : Memory
  /-- Poisoned 32-byte sectors (R115). -/
  spPoison : NatSet
  /-- Latch entries by k × 512 + j, each exclusive-or `latchFill`. -/
  latch : Sparse 16
  latchFmt : BitVec 8
  latchFill : BitVec 16
  /-- Accumulators by n × 65536 + i × 512 + j. -/
  acc : Sparse 32
  ags : Tab (BitVec 44)
  mxmode : BitVec 64
  isat : Bool
  autoIdle : BitVec 16
  gate : GateSt
  mxWake : BitVec 16
  /-- Bank reservations with the slot that made each (R113, R114). -/
  resv : List (Nat × Nat)
  lastAged : Nat
  last0 : Nat
  last1 : Nat
  last2 : Nat
  last3 : Nat
  /-- Instruction-memory words by address (R208). -/
  imem : Tab InstrWord
  /-- The front end's scalar data cache (R243). -/
  dcache : List DLine
  /-- Landing words by offset that have counted bytes of an agent outside the unit since LWINIT (R219, R246, R248). -/
  lwDev : NatSet
  /-- Cluster cycles not counted in CYCLE because of debug halts (R189, R230). -/
  cycHeld : Nat
  /-- Unit cleared and not yet free, or a pre-emption of the unit in progress (R159, R190). -/
  clearing : Bool
  freeze : Option (BitVec 8)
  /-- The range of the pre-emption area that the image of a pre-emption in progress takes: DPA and size (R193, R198). -/
  imgAt : Option (Nat × Nat)
  /-- Sweep that claims the unit (R163). -/
  claim : Option (BitVec 32)
deriving DecidableEq, Repr

/-- A core after reset (R36, R94, R159, R167, R388). -/
def Core.reset : Core where
  slots := []
  mode := .single
  leader := none
  tenant := none
  sems := []
  bars := []
  mbox := []
  queue := []
  spm := []
  tags := []
  spPoison := []
  latch := []
  latchFmt := 0xFF
  latchFill := 0
  acc := []
  ags := []
  mxmode := 0
  isat := false
  autoIdle := 0x1000
  gate := .gated
  mxWake := 0x0400
  resv := []
  lastAged := 7
  last0 := 7
  last1 := 7
  last2 := 7
  last3 := 7
  imem := []
  dcache := []
  lwDev := []
  cycHeld := 0
  clearing := false
  freeze := none
  imgAt := none
  claim := none

/-- A cluster's clock and ageing state (R30 to R34, R38). -/
structure Cluster where
  maxStep : Nat := Config.maxStep0
  setStep : Nat := Config.maxStep0
  curStep : Nat := Config.maxStep0
  dcount : BitVec 16 := 0
  retired : Bool := false
  /-- Drift past the limit was found at MAXSTEP 0: the cluster takes no new task and retires when its tasks are saved (R33). -/
  retiring : Bool := false
  throt : Bool := false
  /-- The throttled clock climbs again (R38). -/
  climb : Bool := false
  limit : Option Nat := none
  relocking : Bool := false
  /-- Monitor references; empty until the first sample takes the fused birth values. -/
  refs : List Nat := []
  cycles : Nat := 0
deriving DecidableEq, Repr

/-! ## The link and the router -/

/-- The state of a port (R57). -/
inductive PortSt
  | down | training | active | stranded | markedDown
deriving DecidableEq, Repr

/-- A phase of training (R55). -/
inductive TrainPhase
  | speed | map | confirm | ready
deriving DecidableEq, Repr

/-- A flit: 72 bytes, byte 0 in bits [7:0] (R44). -/
abbrev Flit := BitVec 576

/-- What one physical lane sends in a codeword row: a codeword with its 20-bit marker and 640 stream bytes, or, on a shed lane,
the training sequence (R42, R43, R52). -/
inductive LaneOut
  | codeword (marker : BitVec 20) (bytes : List Byte)
  | training
deriving DecidableEq, Repr

/-- A fabric port, both directions (R41 to R57). -/
structure Port where
  st : PortSt := .training
  txmap : BitVec 8 := 0
  rxmap : BitVec 8 := 0
  strcnt : BitVec 3 := 0
  txchg : Bool := false
  rxchg : Bool := false
  disag : BitVec 4 := 0
  winexp : BitVec 8 := 20
  sheduc : BitVec 8 := 4
  burst : BitVec 8 := 16
  admuc : BitVec 8 := 0
  admwin : BitVec 8 := 2
  /-- LTHR as written, in force from the next window (R57). -/
  lthrNext : Option (BitVec 40) := none
  hold : Bool := false
  perhop : Bool := false
  replays : BitVec 32 := 0
  crcerr : BitVec 32 := 0
  /-- LANECNT by lane. -/
  lanecnt : Tab (BitVec 8) := []
  /-- Credits held by the transmitter by virtual channel (R47). -/
  cred : Tab Nat := []
  -- transmit side
  txSeq : BitVec 12 := 0
  /-- Retry buffer, oldest first (R49). -/
  retry : List (BitVec 12 × Flit) := []
  /-- ACK last received (R48). -/
  ackRecv : BitVec 12 := 0xFFF
  /-- Replays that started at the same flit (R49). -/
  sameReplay : Nat := 0
  replayAt : BitVec 12 := 0
  /-- Flits waiting for first transmission: packets cut into flits, by virtual channel. -/
  pend : List (BitVec 3 × BitVec 3 × BitVec 512) := []
  /-- Flits sent, oldest first; the peer and the test of the link take them from here (an output). -/
  sent : List Flit := []
  /-- Unsequenced flits waiting. -/
  ctl : List (BitVec 3 × BitVec 512) := []
  /-- Stream bytes of flits sent that fill no codeword row yet (R46). -/
  txBytes : List Byte := []
  /-- ODD of the next row to send (R43). -/
  txOdd : Bool := false
  /-- Codeword rows sent, oldest first, each by physical lane (R42, R43; an output). -/
  rows : List (List (Nat × LaneOut)) := []
  /-- ODD of the last row received. -/
  rowOdd : Bool := false
  /-- The map being changed to in the transmit direction, and a proposal held until DONE (R51). -/
  txNew : Option (BitVec 8) := none
  txHeld : Option (BitVec 8 × Bool) := none
  -- receive side
  rxExpect : BitVec 12 := 0
  /-- Last flit accepted in order; 0xFFF before any (R44). -/
  rxLast : BitVec 12 := 0xFFF
  awaiting : Bool := false
  credDue : Tab Nat := []
  /-- Bytes received and not yet a whole flit (R46). -/
  rxBytes : List Byte := []
  /-- Codewords counted in the window, consecutive counted, codewords of the window, clean windows, by lane (R50, R52). -/
  winCnt : Tab Nat := []
  /-- Codewords of the window so far, and the lanes that have been active at some time of it (R50, R52). -/
  winRows : Nat := 0
  winLive : BitVec 8 := 0
  consec : Tab Nat := []
  clean : Tab Nat := []
  lockLost : NatSet := []
  /-- Mask this end proposes for the receive direction (R51). -/
  rxProp : Option (BitVec 8 × Bool) := none
  /-- PROP seen in the last row (R51). -/
  propSeen : Option (BitVec 8) := none
  -- training
  phase : TrainPhase := .speed
  keepSeq : Bool := false
  peerTx : BitVec 8 := 0
  peerRx : BitVec 8 := 0
  gotReady : Bool := false
  sentReady : Bool := false
  backoff : Bool := false
  /-- Identity of the neighbour (R58). -/
  peerId : BitVec 15 := 0
  peerPort : BitVec 6 := 0
  /-- The neighbour's identity was refused: the port stays DOWN (R58). -/
  idBad : Bool := false
  /-- Lanes that this end can drive: all eight of an unharmed part (PRESUMED, unsafe, log 6). -/
  lanesTx : BitVec 8 := 0xFF
  /-- Lanes on which this end receives with eye and FEC margin, as training has found them (R55). -/
  lanesRx : BitVec 8 := 0
  /-- Training words sent (an output). -/
  words : List (BitVec 128) := []
  -- per-hop encryption (R77)
  hopKey : BitVec 256 := 0
  perhopOn : Bool := false
  seqEpoch : Nat := 0
  rxEpoch : Nat := 0
  unseqTx : Nat := 0
  unseqRx : Nat := 0
  /-- REPLAYS at the start of the millisecond, and whether the last one degraded the port (R66). -/
  replayBase : BitVec 32 := 0
  degraded : Bool := false
  -- ebb switch (R71)
  drainSent : Bool := false
  drainRecv : Bool := false
  /-- Packet bytes assembled by virtual channel (R45). -/
  asm : Tab (List Byte) := []
deriving DecidableEq, Repr

/-- A packet held by this device's router (R65, R68). -/
structure Held where
  pkt : Packet
  vc : BitVec 3
  /-- The port it arrived on; none at its source. -/
  arrived : Option Nat
  /-- The channel it arrived on, whose buffers it holds (R47). -/
  inVc : BitVec 3
  /-- The port chosen and not yet sent on. -/
  next : Option Nat
deriving DecidableEq, Repr

/-- The router (R60 to R71). -/
structure Router where
  ebbt : BitVec 16 := 200
  nmbias : BitVec 8 := 8
  rplim : BitVec 8 := 16
  igcnt : BitVec 16 := 0
  egen : Bool := false
  draining : Bool := false
  gtab : Sparse 64 := []
  /-- Ebb entries by bank × 32768 + destination (R69). -/
  ebb : Memory := []
  /-- The 32-bit register of Draw() (R67; DESIGN CHOICE, unsafe, log 14). -/
  lfsr : BitVec 32 := 1
  held : List Held := []
  links : List LinkRec := []
  switchOpen : Bool := false
  /-- A further change of the live links waits for the open switch (R71). -/
  again : Bool := false
  reported : Bool := false
deriving DecidableEq, Repr

/-! ## Memory -/

/-- A subarray latch (R98, R102). -/
structure Latch where
  /-- The latch holds the row; false while its slot is YIELDED (R106). -/
  valid : Bool
  row : Nat
  core : Nat
  slot : Nat
  k : KReg
deriving DecidableEq, Repr

/-- A bank (R107, R110). -/
structure Bank where
  raa : Nat := 0
  openRow : Option Nat := none
  refreshing : Bool := false
  rfm : Bool := false
  /-- A request that has waited for the bank's reservation is served next (R113). -/
  pass : Bool := false
  /-- RFMs of the millisecond `ms` (R110). -/
  rfmMs : Nat := 0
  ms : Nat := 0
  /-- The millisecond whose storm event has been recorded (R110). -/
  stormMs : Option Nat := none
deriving DecidableEq, Repr

/-- A completion word that waits for the host IOMMU (R83, R157). -/
structure PendWord where
  asid : BitVec 16
  notify : Addr
  word : BitVec 64
  /-- The child whose pool entry is given up with it (R155). -/
  child : Option (BitVec 32) := none
deriving DecidableEq, Repr

/-- A request that has waited for a stack in self-refresh, in the order of arrival (R112). -/
inductive Waiter
  /-- An access of the unit at a core; the unit has had its turn since the stack takes requests again. -/
  | unit (c : Nat) (called : Bool)
  /-- A completion word. -/
  | word (w : PendWord)
  /-- A fabric request at ingress, by its source and its TAG. -/
  | req (src tag : BitVec 16)
  /-- A write of the management core. -/
  | mgmt
deriving DecidableEq, Repr

/-- A stack's registers (R111, R112, R117). -/
structure Stack where
  storm : BitVec 8 := 16
  raamax : BitVec 8 := 192
  raalevel : BitVec 8 := 64
  raadec : BitVec 8 := 32
  tcrit : BitVec 8 := 100
  texit : BitVec 8 := 90
  cecnt : BitVec 16 := 0
  uecnt : BitVec 16 := 0
  temp : BitVec 8 := 0
  sref : Bool := false
  /-- RFMs of the last complete millisecond before the millisecond `ms`, and those of `ms` so far (R111). -/
  rfmcnt : BitVec 16 := 0
  rfmNow : Nat := 0
  ms : Nat := 0
  period : BitVec 8 := 24
  /-- Next sector of the scrub pass, counted in the stack's own sectors (R117). -/
  scrubPos : Nat := 0
  /-- Sectors of this pass that a bank reservation has put off (R117). -/
  scrubSkip : List Nat := []
  /-- Requests that came while the stack was in self-refresh, or behind such a one (R112). -/
  arrived : List Waiter := []
deriving DecidableEq, Repr

/-- Main memory (R98 to R118). -/
structure Hbm where
  /-- Bytes by DPA; an unlisted byte reads 0 (DESIGN CHOICE, unsafe, log 1). -/
  bytes : Memory := []
  /-- Poisoned 32-byte sectors by DPA / 32. -/
  poison : NatSet := []
  /-- Sectors whose stored symbols have gone wrong and have not been read since, with whether ECC cannot correct them
  (MODEL'S OWN; DESIGN CHOICE, unsafe, log 29). -/
  latent : List (Nat × Bool) := []
  /-- Latches by bank × 4 + group (R98). -/
  latches : Tab Latch := []
  /-- Rows that only a latch holds: their array copies by DPA (R102, R108). -/
  stale : Memory := []
  /-- Addresses whose array copy differs from the latch's (R102, R108). -/
  staleAt : NatSet := []
  /-- Sectors whose poison has changed in their latch, with that of the array copy (R102, R108). -/
  stalePoison : List (Nat × Bool) := []
  /-- Openers waiting, in arrival order: bank × 4 + group, core, slot, k (R105). -/
  waiters : List (Nat × Nat × Nat × KReg) := []
  banks : Tab Bank := []
  stackRegs : Tab Stack := []
  /-- Writes of the management core that wait for their bank, oldest first (R107, R112, R113). -/
  waits : List (Nat × List Byte) := []
deriving DecidableEq, Repr

/-- Host memory by host physical address (R85). -/
structure HostMem where
  bytes : Memory := []
deriving DecidableEq, Repr

/-! ## Translation -/

/-- A cached translation (R136). -/
structure TlbEntry where
  cache : CacheId
  asid : BitVec 16
  vbase : Nat
  shift : Nat
  /-- DPA, or host physical address for the host half. -/
  pbase : Nat
  r : Bool
  w : Bool
  x : Bool
  conf : Option (BitVec 12) := none
  notify : Bool := false
  /-- A host-half page, with the PASID under which the host IOMMU translated it (R83, R84). -/
  pasid : Option Nat := none
deriving DecidableEq, Repr

/-- An ASID table entry (R133). -/
structure AsidEnt where
  valid : Bool := false
  hosten : Bool := false
  nopf : Bool := false
  pasid : BitVec 20 := 0
deriving DecidableEq, Repr

/-- Who faulted on a page (R142). -/
inductive Faulter
  | task (core slot : Nat)
  | entry (core slot : Nat) (e : Eng)
  | fetch (core slot : Nat)
  | thread (t : ThreadId)
  /-- A task of an image, or one of its entries (R141, R190). -/
  | saved (sweep : BitVec 32) (key slot : Nat) (e : Option Eng)
deriving DecidableEq, Repr

/-- What a reply of the host IOMMU left for the next access to its page (R83, R139). -/
inductive XltNote
  | fresh | notPresent | refused
deriving DecidableEq, Repr

/-- An XLT request in flight: PASID, 4 KiB page, and the address spaces whose accesses wait for it (R83). -/
structure XltReq where
  pasid : Nat
  vpage : Nat
  asids : List (BitVec 16)
deriving DecidableEq, Repr

/-- A page fault: its record's contents and everyone parked under it (R141, R142). -/
structure PageFault where
  asid : BitVec 16
  vpage : Nat
  va : Addr
  core : BitVec 16
  slot : BitVec 8
  agent : BitVec 8
  access : BitVec 8
  /-- Index in the ring, once queued. -/
  queued : Option (BitVec 16)
  who : List (Faulter × Addr)
deriving DecidableEq, Repr

/-! ## Sweeps -/

/-- A sweep record as accepted (R151). -/
structure SweepRec where
  bytes : List Byte
  coresident : Bool
  drop : Bool
  gang : Gang
  priv : Bool
  cls : BitVec 2
  ceil : BitVec 2
  rank : Nat
  order : Nat
  rowq : Nat
  tpc : Nat
  e0 : Nat
  e1 : Nat
  e2 : Nat
  e3 : Nat
  tb0 : Nat
  tb1 : Nat
  scroff : Nat
  entry : Addr
  arg : Addr
  notify : Addr
  cbase : Nat
  ccount : Nat
  live : BitVec 128
  seed : BitVec 64
deriving DecidableEq, Repr

/-- Where a sweep's record came from (R153, R165). -/
inductive Source
  | launch (page : Nat) (seq : BitVec 16)
  | child (parent : BitVec 32)
deriving DecidableEq, Repr

/-- An accepted sweep, in the pool or in the memory queue (R154, R155). -/
structure Sweep where
  id : BitVec 32
  rec' : SweepRec
  asid : BitVec 16
  src : Source
  /-- The pool entry; none while the record stands in the memory queue (R155). -/
  entry : Option Nat
  /-- Order of acceptance. -/
  accepted : Nat
  /-- Iterations placed, counted in walk order, and completed (R171, R199). -/
  placed : Nat
  done : Nat
  /-- Iterations completed before an import (R199). -/
  doneBefore : Nat
  prevUnit : Option Nat
  /-- Management holds the sweep (R198). -/
  held : Bool
  /-- The sweep has ended with a status and a reason; its completion is due (R88, R170). -/
  ended : Option (BitVec 8 × BitVec 8)
  /-- Time without an eligible unit has passed PREWAIT and the sweep is first for this unit (R162). -/
  firstFor : Option Nat
  /-- The completion word and record have become due (R88, R89). -/
  reported : Bool
  /-- Units that have moved while threads are held: the core that set bits name, and the core that holds the tasks now (R123). -/
  renames : List (Nat × Nat)
deriving DecidableEq, Repr

/-- A context image: one unit's state for one sweep (R194 to R197). -/
structure Image where
  sweep : BitVec 32
  /-- The number by which requests and places name the image: no core's, and no other image's of the sweep. -/
  key : Nat
  mode : Gang
  asid : BitVec 16
  /-- Unit at save. -/
  unit : Nat
  /-- The core by which the sweep's multicast sets still name the unit (R123). -/
  origin : Nat
  /-- The unit on which it is being restored (R160). -/
  target : Option Nat
  ftime : Nat
  /-- Where it stands in the pre-emption area, and the size of its range (R193). -/
  dpa : Nat
  size : Nat
  drop : Bool
  live : BitVec 128
  tasks : List (Nat × Task)
  queue : List Entry
  sems : Tab Sem
  latch : Sparse 16
  latchFmt : BitVec 8
  latchFill : BitVec 16
  acc : Sparse 32
  ags : Tab (BitVec 44)
  mxmode : BitVec 64
  isat : Bool
  /-- Live chunks: bytes, tags and poison by offset in the unit's scratchpad. -/
  spm : Memory
  tags : Memory
  spPoison : NatSet
  /-- A part of the image outside its chunks is poisoned (R197). -/
  poisoned : Bool
deriving DecidableEq, Repr

/-! ## The host interface -/

/-- A completion record that is due (R88). -/
structure CompRec where
  seq : BitVec 16
  status : BitVec 8
  reason : BitVec 8
  sweep : BitVec 32
  time : BitVec 64
  iters : BitVec 64
deriving DecidableEq, Repr

/-- A launch page (R86 to R89). -/
structure LPage where
  en : Bool := false
  asid : BitVec 16 := 0
  vec : BitVec 12 := 0
  irq : Bool := false
  priv : Bool := false
  clfloor : BitVec 2 := 3
  base : BitVec 45 := 0
  sz : BitVec 4 := 0
  dropcnt : BitVec 16 := 0
  seq : BitVec 16 := 0
  tail : BitVec 16 := 0
  head : BitVec 16 := 0
  held : List CompRec := []
  /-- Launches accepted and not yet complete (R87). -/
  openCnt : Nat := 0
  /-- Completions written since the page's reset, for PHASE (R88). -/
  written : Nat := 0
deriving DecidableEq, Repr

/-- A message the device has sent to the host (R79; an output record; DESIGN CHOICE, safe, log 15). -/
inductive HostMsg
  | evt (vec : BitVec 12)
  /-- A translation request, with the port that carries it (R80). -/
  | xlt (pasid : Nat) (va : Addr) (port : Nat)
  | invDone
  /-- The link state of a port (R79). -/
  | cfg (port : Nat) (up low : Bool)
  | attestation (nonce : BitVec 256) (devid : BitVec 15) (meas : List (BitVec 256)) (fuse : BitVec 256) (sv : Nat) (sig : BitVec 512)
deriving DecidableEq, Repr

/-! ## The fabric -/

/-- A grant window (R74). -/
structure Window where
  base : BitVec 64 := 0
  valid : Bool := false
  sizexp : BitVec 8 := 16
  asid : BitVec 16 := 0
  keyep : BitVec 8 := 0
  key : BitVec 256 := 0
deriving DecidableEq, Repr

/-- A physical place: an offset of a unit's scratchpad, a DPA with the key slot of a confidential page, a host physical address,
or an offset in an image. -/
inductive Place
  | spm (unit off : Nat)
  | hbm (dpa : Nat) (key : Option (BitVec 12))
  | host (pa : Nat)
  /-- A byte of a saved unit's scratchpad in the image of a sweep (R191). -/
  | img (sweep : BitVec 32) (unit off : Nat)
deriving DecidableEq, Repr

/-- Pieces of an access: places with their lengths, in address order. -/
abbrev Pieces := List (Place × Nat)

/-- What the requester does with a response (R435 to R441). -/
inductive ReqKind
  | put | get | ld (d : SReg) (t : IntTy) | st | atom (d : SReg) (t : IntTy) (noret : Bool) | cas (d : SReg) (t : IntTy)
  | sget | sput | mgmt
deriving DecidableEq, Repr

/-- A fabric request without its response (R64, R75, R182). -/
structure Outst where
  tag : BitVec 16
  pkt : Packet
  kind : ReqKind
  core : Nat
  slot : Nat
  sweep : BitVec 32
  eng : Eng
  isn : BitVec 24
  rdepth : Nat
  /-- Byte offset of this packet in the entry's stream, and its length. -/
  off : Nat
  len : Nat
  /-- Local destination of a GET or SGET. -/
  dst : Pieces
  /-- Landing word that a GET or SGET counts. -/
  lw : Option Place
  resends : Nat
  /-- Handle and carried generation of a sharded access (R149). -/
  shard : Option (BitVec 12 × BitVec 16)
  /-- Returned to the requester by a full window; resent after 1 µs (R437). -/
  deferred : Bool
deriving DecidableEq, Repr

/-- What happened to the packets of one FX entry, until its last response (R182, R440). -/
structure Xfer where
  core : Nat
  slot : Nat
  sweep : BitVec 32
  isn : BitVec 24
  /-- Position at which the run of the command began. -/
  base : Nat
  /-- Bytes sent. -/
  sent : Nat
  /-- Offsets and lengths answered OK. -/
  ok : List (Nat × Nat)
  /-- Local destinations of the packets sent, by their offset. -/
  dst : List (Nat × Pieces) := []
deriving DecidableEq, Repr

/-- A completion record of the target (R75). -/
structure TgtRec where
  src : BitVec 16
  tag : BitVec 16
  resp : Packet
deriving DecidableEq, Repr

/-- A contribution that the window holds: its packet, opened, and where its elements lie (R437). -/
structure OrdHeld where
  pkt : Packet
  places : Pieces
deriving DecidableEq, Repr

/-- An open round of the ordered-reduction window, on a 64-byte line (R437). -/
structure OrdRound where
  line : Place
  ccnt : BitVec 16
  next : Nat
  /-- Held contributions, oldest first. -/
  held : List OrdHeld
deriving DecidableEq, Repr

/-- A request that waits at ingress: for completion records, a host translation, a halted context or a unit being pre-empted,
with the sweeps whose images take its bytes (R75, R83, R191, R206). -/
structure HeldReq where
  pkt : Packet
  /-- Arrival port; none for loopback. -/
  port : Option Nat
  /-- The checks of R75 are passed. -/
  passed : Bool
  halted : Bool
  redir : List Redir
deriving DecidableEq, Repr

/-- A key slot (R76, R118). -/
structure KeySlot where
  memKey : BitVec 512 := 0
  fabKey : BitVec 256 := 0
  ctr : BitVec 64 := 0
deriving DecidableEq, Repr

/-! ## The Flood sequencer -/

/-- The state of a thread (R120). -/
inductive ThreadSt
  | idle | loaded | running | waiting | held | error
deriving DecidableEq, Repr

/-- A unit of a burst that is ready or waits for a page (R121, R122). -/
structure BurstUnit where
  src : Addr
  off : Nat
  len : Nat
  set : BitVec 288
  lw : Option (BitVec 26)
  pageHeld : Bool
  /-- Program-memory index of the SQBURST (R120). -/
  pc : Nat := 0
deriving DecidableEq, Repr

/-- A sequencer thread (R119, R120). -/
structure Thread where
  st : ThreadSt := .idle
  before : ThreadSt := .idle
  cause : BitVec 8 := 0
  /-- Program-memory index of the next or failing word. -/
  pc : Nat := 0
  sweep : BitVec 32 := 0
  asid : BitVec 16 := 0
  base : Nat := 0
  len : Nat := 0
  w : Vector Addr 16 := Vector.replicate 16 0
  sys : Bool := false
  units : List BurstUnit := []
deriving DecidableEq, Repr

/-- A multicast set with the sweep it is bound to (R119, R427). -/
structure McSet where
  bits : BitVec 288 := 0
  sweep : Option (BitVec 32) := none
deriving DecidableEq, Repr

/-- The sequencer (R119). -/
structure Flood where
  threads : Tab Thread := []
  prog : Tab InstrWord := []
  sets : Tab McSet := []
deriving DecidableEq, Repr

/-- A physical matrix half (R204, R405). -/
structure Half where
  corr : BitVec 16 := 0
  pass : Nat := 0
  cell : BitVec 20 := 0
  last : BitVec 2 := 3
  chkoff : Bool := false
deriving DecidableEq, Repr

/-- A defective cell: every increment it computes is wrong by `delta` (R204; DESIGN CHOICE, unsafe, log 17). -/
structure Defect where
  /-- Physical half. -/
  half : Nat
  /-- Logical row of the half, or 64 for the skerry row. -/
  row : Nat
  col : Nat
  delta : Int
deriving DecidableEq, Repr

/-- A site of the binding table (R26). -/
structure Bind where
  en : Bool
  unchk0 : Bool
  unchk1 : Bool
  core : Nat
  l0slab : BitVec 2
  l0half : Bool
  l1slab : BitVec 2
  l1half : Bool
deriving DecidableEq, Repr

/-- A sharding handle entry as its 64 bytes (R145). -/
abbrev ShardEnt := BitVec 512

/-- Bytes that an invalidated translation reached: in the host or in HBM, from a base, a length (R84, R135). -/
structure Old where
  host : Bool
  base : Nat
  len : Nat
  /-- Held row lines of the range count as open accesses (R418). -/
  rows : Bool := false
deriving DecidableEq, Repr

/-- An INV message in progress (R84). -/
structure Inval where
  pasid : Nat
  lo : Addr
  hi : Addr
  waits : List Old
deriving DecidableEq, Repr

/-- The mapping command block (R134). -/
structure MapCmd where
  cmd0 : BitVec 64 := 0
  cmd1 : BitVec 64 := 0
  cmd2 : BitVec 64 := 0
  cmd3 : BitVec 64 := 0
  cmd4 : BitVec 64 := 0
  cmd5 : BitVec 64 := 0
  cmd6 : BitVec 64 := 0
  cmd7 : BitVec 64 := 0
  busy : Bool := false
  status : BitVec 8 := 0
  /-- What the command in progress waits for (R135). -/
  waits : List Old := []
  /-- The command waits for a bank and has done nothing yet (R107, R110, R112, R113). -/
  again : Bool := false
deriving DecidableEq, Repr

/-- XLCTL (R142). -/
structure XlCtl where
  pnvec : BitVec 12 := 0
  pfvec : BitVec 12 := 0
  pnen : Bool := false
  pfen : Bool := false
deriving DecidableEq, Repr

/-- The sweep command block (R198). -/
structure SweepCmd where
  scmd : BitVec 64 := 0
  saddrlo : BitVec 64 := 0
  saddrhi : BitVec 64 := 0
  scores : BitVec 64 := 0
  sgo : BitVec 64 := 0
  size : BitVec 32 := 0
  busy : Bool := false
  status : BitVec 8 := 0
  /-- The status that the command in progress will report, and its sweep. -/
  next : BitVec 8 := 0
  sweep : BitVec 32 := 0
deriving DecidableEq, Repr

/-- DBGCTL (R206). -/
structure DbgCtl where
  asid : BitVec 16 := 0
  done : Bool := false
  haltonbrk : Bool := false
  halt : Bool := false
deriving DecidableEq, Repr

/-- The tidemark log's registers (R96). -/
structure Tide where
  head : Nat := 0
  tail : Nat := 0
  lost : BitVec 64 := 0
  nonce : BitVec 64 := 0
  basehash : BitVec 256 := 0
deriving DecidableEq, Repr

/-! ## The machine -/

/-- Whose instruction `exec` performs (MODEL'S OWN; DESIGN CHOICE, unsafe, log 4). -/
inductive Agent
  | task (core slot : Nat)
  | thread (t : ThreadId)
deriving DecidableEq, Repr

/-- A turn of an agent (MODEL'S OWN; DESIGN CHOICE, unsafe, log 4). -/
inductive Turn
  /-- An operation or event of the device, with what the outside presents. -/
  | event (i : Instr) (inp : Input)
  /-- The front end of the unit at a core issues. -/
  | unit (core : Nat)
  /-- A Flood thread performs its next word. -/
  | thread (t : ThreadId)
deriving DecidableEq, Repr

/-- The whole device. -/
structure State where
  -- the model's own fields (DESIGN CHOICE: log 3 and log 4, unsafe; log 8 and log 20, safe)
  cur : Agent
  agenda : List Turn
  focus : Nat
  inp : Input
  deferStart : Bool
  freeCtr : Nat
  -- cores and clusters
  cores : Tab Core
  clusters : Tab Cluster
  binds : Tab Bind
  badHalves : List (Nat × Nat × Bool)
  /-- Cells that skerry outcomes have named since the last reset, with the core (R40, R204). -/
  faultyCells : List (BitVec 20 × Nat)
  /-- What the silicon has wrong (MODEL'S OWN; DESIGN CHOICE, unsafe, log 17). -/
  defects : List Defect
  /-- Physical halves by (bay × 82 + slab) × 2 + half. -/
  halves : Tab Half
  -- memory and the host
  hbm : Hbm
  host : HostMem
  /-- Answers of the host IOMMU that no access has taken yet: ASID, 4 KiB page, answer (R83; DESIGN CHOICE, unsafe, log 2). -/
  xltAns : List (BitVec 16 × Nat × XltNote)
  zcl0 : Bool
  zcl1 : Bool
  /-- Ports in L0p (R78). -/
  zclLow : NatSet
  /-- A host-half access has found no port up, and none has come up since (R80). -/
  zclWait : Bool
  winMgmt : Nat
  winLaunch : Nat
  winLog : Nat
  -- the fabric
  ports : Tab Port
  router : Router
  wints : Tab Window
  /-- MAC failures since the window's last strandline event, and FTIME of that event (R75). -/
  macFails : Tab (BitVec 32 × Option Nat)
  outst : List Outst
  xfers : List Xfer
  nextTag : BitVec 16
  /-- TAGs of requests and resends of the last 2 ms: target, TAG, FTIME (R75). -/
  recentTags : List (BitVec 16 × BitVec 16 × Nat)
  tgtRecs : List TgtRec
  ingress : List HeldReq
  ords : List OrdRound
  keyslots : Tab KeySlot
  ftime : Nat
  devid : BitVec 15
  nextKey : Nat
  -- launch and completion
  lpages : Tab LPage
  hostLog : List HostMsg
  -- power, identity and faults
  powered : Bool
  stopped : Bool
  bootst : BitVec 4
  freason : BitVec 8
  faulted : Bool
  secVer : Nat
  /-- The DEVID given at boot was refused: the device has no identity (R58). -/
  idRefused : Bool
  measurements : List (BitVec 256)
  /-- The firmware-staging buffer of recovery (R92; its place and size are free values of Config; DESIGN CHOICE, unsafe, log 10). -/
  staging : Memory
  -- records of events
  strand : Tab (BitVec 256)
  strcount : Nat
  tide : Tide
  -- translation
  asids : Tab AsidEnt
  mapcmd : MapCmd
  faults : List PageFault
  pfhead : BitVec 16
  pftail : BitVec 16
  pfring : Tab (BitVec 256)
  xlctl : XlCtl
  tlb : List TlbEntry
  /-- XLT requests in flight (R83), and INV ranges in progress (R84). -/
  xlts : List XltReq
  invs : List Inval
  shtab : Tab ShardEnt
  -- sweeps
  sweeps : List Sweep
  nextSweep : BitVec 32
  acceptCtr : Nat
  prewait : BitVec 16
  images : List Image
  words : List PendWord
  /-- Records written into the memory queue so far (R155). -/
  mqTail : Nat
  scmd : SweepCmd
  dbg : DbgCtl
  flood : Flood
deriving DecidableEq, Repr

/-- The fuse map of a part with no bad half: sites 0 to 71 of each bay bound to their own slab (R22 to R26; PRESUMED, unsafe, log 6). -/
def Bind.fuse (n : Nat) : Bind :=
  if n % 80 < 72 then
    { en := true, unchk0 := false, unchk1 := false, core := 72 * (n / 80) + n % 80,
      l0slab := 1, l0half := false, l1slab := 1, l1half := true }
  else
    { en := false, unchk0 := false, unchk1 := false, core := 0x1FF, l0slab := 3, l0half := false, l1slab := 3, l1half := false }

/-- The machine right after power-on reset: boot has not begun (R92, R94). -/
def State.reset : State where
  cur := .task 0 0
  agenda := []
  focus := 0
  inp := {}
  deferStart := false
  freeCtr := 0
  cores := []
  clusters := []
  binds := []
  badHalves := []
  faultyCells := []
  defects := []
  halves := []
  hbm := {}
  host := {}
  xltAns := []
  zcl0 := true
  zcl1 := true
  zclLow := []
  zclWait := false
  winMgmt := 0
  winLaunch := 0
  winLog := 0
  ports := []
  router := {}
  wints := []
  macFails := []
  outst := []
  xfers := []
  nextTag := 0
  recentTags := []
  tgtRecs := []
  ingress := []
  ords := []
  keyslots := []
  ftime := 0
  devid := 0
  nextKey := 0
  lpages := []
  hostLog := []
  powered := true
  stopped := false
  bootst := 0
  freason := 0
  faulted := false
  secVer := 0
  idRefused := false
  measurements := []
  staging := []
  strand := []
  strcount := 0
  tide := {}
  asids := []
  mapcmd := {}
  faults := []
  pfhead := 0
  pftail := 0
  pfring := []
  xlctl := {}
  tlb := []
  xlts := []
  invs := []
  shtab := []
  sweeps := []
  nextSweep := 0
  acceptCtr := 0
  prewait := 10
  images := []
  words := []
  mqTail := 0
  scmd := {}
  dbg := {}
  flood := {}

/-! ## Why a step can stop -/

/-- No step of this machine stops with a fault: every trap and device-level fault of the specification leads to a next state. -/
inductive Fault
deriving DecidableEq, Repr

/-- Why a step can be refused. -/
inductive Refusal
  /-- The instruction has no meaning yet; raised by `exec` only. Safe. -/
  | notModelled (mnemonic : String)
deriving DecidableEq, Repr

end Sys2Proof.Machine
end

