-- ==== Sys2Proof/Machine/Place.lean ====
section
/-! DEFINITION. The parts of the state by number, and physical memory: scratchpads, HBM with its latches, poison and encryption, and host memory (R101, R102, R115, R116, R118, R223, R224, R228). -/

namespace Sys2Proof.Machine

/-! ## Parts of the state -/

def State.core (s : State) (c : Nat) : Core := Tab.get Core.reset s.cores c
def State.setCore (s : State) (c : Nat) (k : Core) : State := { s with cores := Tab.set s.cores c k }
def State.task (s : State) (c n : Nat) : Task := Tab.get Task.idle (s.core c).slots n
def State.setTask (s : State) (c n : Nat) (t : Task) : State :=
  let k := s.core c
  s.setCore c { k with slots := Tab.set k.slots n t }
/-- Changing a task. -/
def State.modTask (s : State) (c n : Nat) (f : Task → Task) : State := s.setTask c n (f (s.task c n))
/-- Changing a core. -/
def State.modCore (s : State) (c : Nat) (f : Core → Core) : State := s.setCore c (f (s.core c))
/-- Changing every core. -/
def State.mapCores (s : State) (f : Core → Core) : State := { s with cores := s.cores.map fun (e : Nat × Core) => (e.1, f e.2) }
def State.cluster (s : State) (c : Nat) : Cluster := Tab.get {} s.clusters c
def State.setCluster (s : State) (c : Nat) (k : Cluster) : State := { s with clusters := Tab.set s.clusters c k }
/-- A port; one that nothing has changed holds its installed per-hop key (R77; DESIGN CHOICE, safe, log 9). -/
def State.port (s : State) (p : Nat) : Port := Tab.get { hopKey := Config.freeHopKey p } s.ports p
def State.setPort (s : State) (p : Nat) (x : Port) : State := { s with ports := Tab.set s.ports p x }
def State.bindOf (s : State) (n : Nat) : Bind := Tab.get (Bind.fuse n) s.binds n
def State.half (s : State) (h : Nat) : Half := Tab.get {} s.halves h
def State.setHalf (s : State) (h : Nat) (x : Half) : State := { s with halves := Tab.set s.halves h x }
def State.window (s : State) (w : Nat) : Window := Tab.get {} s.wints w
def State.setWindow (s : State) (w : Nat) (x : Window) : State := { s with wints := Tab.set s.wints w x }
def State.lpage (s : State) (k : Nat) : LPage := Tab.get {} s.lpages k
def State.setLpage (s : State) (k : Nat) (x : LPage) : State := { s with lpages := Tab.set s.lpages k x }
def State.asidEnt (s : State) (a : Nat) : AsidEnt := Tab.get {} s.asids a
/-- A key slot: the keys that management has installed, or one that has sent packets (R118; DESIGN CHOICE, safe, log 9). -/
def State.keyslot (s : State) (k : Nat) : KeySlot :=
  Tab.get { memKey := Config.freeMemKey k, fabKey := Config.freeFabKey k } s.keyslots k
def State.setKeyslot (s : State) (k : Nat) (x : KeySlot) : State := { s with keyslots := Tab.set s.keyslots k x }
def State.bank (s : State) (b : Nat) : Bank := Tab.get {} s.hbm.banks b
def State.setBank (s : State) (b : Nat) (x : Bank) : State := { s with hbm := { s.hbm with banks := Tab.set s.hbm.banks b x } }
def State.stack (s : State) (k : Nat) : Stack := Tab.get {} s.hbm.stackRegs k
def State.setStack (s : State) (k : Nat) (x : Stack) : State :=
  { s with hbm := { s.hbm with stackRegs := Tab.set s.hbm.stackRegs k x } }
def State.thread (s : State) (t : ThreadId) : Thread := Tab.get {} s.flood.threads t.val
def State.setThread (s : State) (t : ThreadId) (x : Thread) : State :=
  { s with flood := { s.flood with threads := Tab.set s.flood.threads t.val x } }
/-- Changing every thread. -/
def State.mapThreads (s : State) (f : Thread → Thread) : State :=
  { s with flood := { s.flood with threads := s.flood.threads.map fun (e : Nat × Thread) => (e.1, f e.2) } }
def State.mcset (s : State) (m : Nat) : McSet := Tab.get {} s.flood.sets m
def State.setMcset (s : State) (m : Nat) (x : McSet) : State :=
  { s with flood := { s.flood with sets := Tab.set s.flood.sets m x } }
def State.sem (s : State) (c n : Nat) : Sem := Tab.get {} (s.core c).sems n
def State.setSem (s : State) (c n : Nat) (x : Sem) : State :=
  s.modCore c fun k => { k with sems := Tab.set k.sems n x }
/-- A wait's subtraction of n at the unit of a core; one that includes a signal from outside empties the data cache (R218, R246). -/
def State.takeSem (s : State) (c q n : Nat) : State :=
  let x := s.sem c q
  let left := x.count - BitVec.ofNat 16 n
  s.modCore c fun k =>
    { k with sems := Tab.set k.sems q { x with count := left, dev := x.dev && left != 0 }, dcache := if x.dev then [] else k.dcache }
def State.bar (s : State) (c n : Nat) : Barrier := Tab.get {} (s.core c).bars n
def State.setBar (s : State) (c n : Nat) (x : Barrier) : State :=
  s.modCore c fun k => { k with bars := Tab.set k.bars n x }
def State.sweep (s : State) (id : BitVec 32) : Option Sweep := s.sweeps.find? (fun w => w.id == id)
/-- Changing a sweep. -/
def State.modSweep (s : State) (id : BitVec 32) (f : Sweep → Sweep) : State :=
  { s with sweeps := s.sweeps.map fun w => if w.id = id then f w else w }

/-- A request of a task of a sweep at a slot. -/
def Outst.by (o : Outst) (c n : Nat) (id : BitVec 32) : Bool := o.core == c && o.slot == n && o.sweep == id

/-- Members of a unit's mode (R28). -/
def Gang.size : Gang → Nat
  | .single => 1 | .gang2 => 2 | .gang4 => 4

/-- The lowest core of the unit a core stands in (R228). -/
def State.leaderOf (s : State) (c : Nat) : Nat := ((s.core c).leader).getD c

/-- The populated scratchpad of the unit at a core, in bytes (R223, R228). -/
def State.spSize (s : State) (c : Nat) : Nat := Config.spBytes * (s.core c).mode.size

/-- A task of the unit at core `c` is in slot `n`. -/
def State.occupied (s : State) (c n : Nat) : Bool := decide ((s.task c n).st ≠ .idle)

/-! ## Where a byte lies -/

/-- The place `n` bytes on. -/
def Place.add : Place → Nat → Place
  | .spm u o, n => .spm u (o + n)
  | .hbm d k, n => .hbm (d + n) k
  | .host p, n => .host (p + n)
  | .img w u o, n => .img w u (o + n)

/-- The image of a sweep with a key. -/
def State.image (s : State) (w : BitVec 32) (u : Nat) : Option Image := s.images.find? fun i => i.sweep == w && i.key == u

/-- Changing the image of a sweep with a key. -/
def State.modImage (s : State) (w : BitVec 32) (u : Nat) (f : Image → Image) : State :=
  { s with images := s.images.map fun i => if i.sweep = w ∧ i.key = u then f i else i }

/-- Member core and offset of a unit's scratchpad byte (R228). -/
def spMember (u o : Nat) : Nat × Nat := (u + o / Config.spBytes, o % Config.spBytes)

/-- A scratchpad byte of a unit. -/
def State.spByte (s : State) (u o : Nat) : Byte :=
  Sparse.get (s.core (spMember u o).1).spm (spMember u o).2

/-- Writing a scratchpad byte of a unit. -/
def State.setSpByte (s : State) (u o : Nat) (b : Byte) : State :=
  s.modCore (spMember u o).1 fun k => { k with spm := Sparse.set k.spm (spMember u o).2 b }

/-- Bytes of a unit's scratchpad. -/
def State.spBytes (s : State) (u o : Nat) : Nat → List Byte
  | 0 => []
  | n + 1 => s.spByte u o :: State.spBytes s u (o + 1) n

/-- Writing bytes of a unit's scratchpad. -/
def State.setSpBytes (s : State) (u o : Nat) : List Byte → State
  | [] => s
  | b :: bs => State.setSpBytes (s.setSpByte u o b) u (o + 1) bs

/-- The layout tag of the frame of a unit's scratchpad byte (R224). -/
def State.spTag (s : State) (u o : Nat) : BitVec 8 :=
  Sparse.get (s.core (spMember u o).1).tags ((spMember u o).2 / 4096)

/-- Setting the layout tag of the frame of a unit's scratchpad byte (R224). -/
def State.setSpTag (s : State) (u o : Nat) (tag : BitVec 8) : State :=
  s.modCore (spMember u o).1 fun k => { k with tags := Sparse.set k.tags ((spMember u o).2 / 4096) tag }

/-- Setting the tags of every frame of a range: one frame per 4 KiB step and the last byte's. -/
def State.setSpTags (s : State) (u o n : Nat) (tag : BitVec 8) : State :=
  if n = 0 then s
  else (List.range ((o + n - 1) / 4096 - o / 4096 + 1)).foldl (fun s i => s.setSpTag u ((o / 4096 + i) * 4096) tag) s

/-! ## HBM (R101, R102) -/

/-- Bank number stack × 4096 + pseudo-channel × 64 + bank of a DPA (R101). -/
def bankOf (dpa : Nat) : Nat :=
  let l := dpa / 1024
  let m := l / 12
  (l % 12) * 4096 + (m % 64) * 64 + (m / 64) % 64

/-- Row of a DPA (R101). -/
def rowOf (dpa : Nat) : Nat := dpa / 1024 / 12 / 4096 % 16384

/-- Latch group of a DPA (R98, R101). -/
def groupOf (dpa : Nat) : Nat := rowOf dpa / 4096

/-- The latch a DPA's row would use: bank × 4 + group. -/
def latchIdx (dpa : Nat) : Nat := bankOf dpa * 4 + groupOf dpa

/-- A latch holds the row of a DPA (R102). -/
def Hbm.latched (h : Hbm) (dpa : Nat) : Bool :=
  h.latches.any fun e => e.1 == latchIdx dpa && e.2.valid && e.2.row == rowOf dpa

/-- Writing one byte of HBM: to the latch when one holds the row, whose array copy is then kept as stale (R102). -/
def Hbm.setByte (h : Hbm) (dpa : Nat) (b : Byte) : Hbm :=
  bif h.latched dpa && !(h.staleAt.has dpa) then
    { h with bytes := Sparse.set h.bytes dpa b, stale := Sparse.set h.stale dpa (Sparse.get h.bytes dpa),
             staleAt := h.staleAt.add dpa }
  else { h with bytes := Sparse.set h.bytes dpa b }

/-- Writing bytes of HBM upward from a DPA. -/
def Hbm.setBytes (h : Hbm) (dpa : Nat) : List Byte → Hbm
  | [] => h
  | b :: bs => Hbm.setBytes (h.setByte dpa b) (dpa + 1) bs

/-- Writing bytes of HBM. -/
def State.setHbm (s : State) (dpa : Nat) (bs : List Byte) : State := { s with hbm := s.hbm.setBytes dpa bs }

/-- Write-back of a latch: its row's array copy is the latch's (R100). -/
def State.writeBack (s : State) (dpa : Nat) : State :=
  let lo := dpa / 1024 * 1024
  { s with hbm := { s.hbm with stale := Sparse.clear s.hbm.stale lo 1024,
                               staleAt := s.hbm.staleAt.filter fun a => decide (a < lo) || decide (lo + 1024 ≤ a),
                               stalePoison := s.hbm.stalePoison.filter fun e => e.1 / 32 != dpa / 1024 } }

/-- The latches are lost without write-back: every row keeps its array copy, its poison with it (R108). -/
def State.loseLatches (s : State) : State :=
  { s with hbm := { s.hbm with
      bytes := s.hbm.staleAt.foldl (fun m a => Sparse.set m a (Sparse.get s.hbm.stale a)) s.hbm.bytes
      poison := s.hbm.stalePoison.foldl (fun m e => if e.2 then m.add e.1 else m.del e.1) s.hbm.poison
      stale := [], staleAt := [], stalePoison := [], latches := [], waiters := [] } }

/-- A sector of HBM as its reader sees it: decrypted under a confidential page's keys (R118). -/
def State.hbmSector (s : State) (sector : Nat) : Option (BitVec 12) → List Byte
  | none => s.hbm.bytes.bytes (sector * 32) 32
  | some k => xtsSector (s.keyslot k.toNat).memKey sector true (s.hbm.bytes.bytes (sector * 32) 32)

/-- Bytes of HBM as their reader sees them. -/
def State.hbmBytes (s : State) (dpa n : Nat) : Option (BitVec 12) → List Byte
  | none => s.hbm.bytes.bytes dpa n
  | some k =>
    if n = 0 then []
    else
      let all := (List.range ((dpa + n - 1) / 32 - dpa / 32 + 1)).flatMap fun i => s.hbmSector (dpa / 32 + i) (some k)
      (all.drop (dpa % 32)).take n

/-- Replacing bytes of a list from an offset. -/
def splice (old : List Byte) (at' : Nat) (new : List Byte) : List Byte :=
  old.take at' ++ new ++ old.drop (at' + new.length)

/-- Writing bytes of HBM as their writer gives them: a confidential page's sectors are decrypted, merged and encrypted (R118). -/
def State.putHbm (s : State) (dpa : Nat) (bs : List Byte) : Option (BitVec 12) → State
  | none => s.setHbm dpa bs
  | some k =>
    if bs.length = 0 then s
    else
      let n := (dpa + bs.length - 1) / 32 - dpa / 32 + 1
      let old := (List.range n).flatMap fun i => s.hbmSector (dpa / 32 + i) (some k)
      let new := splice old (dpa % 32) bs
      (List.range n).foldl (fun s' i =>
        s'.setHbm ((dpa / 32 + i) * 32)
          (xtsSector (s.keyslot k.toNat).memKey (dpa / 32 + i) false ((new.drop (32 * i)).take 32))) s

/-! ## Poison (R115, R116) -/

/-- The sector of a place carries poison; host memory carries none. -/
def State.poisoned (s : State) : Place → Bool
  | .spm u o => (s.core (spMember u o).1).spPoison.has ((spMember u o).2 / 32)
  | .hbm d _ => s.hbm.poison.has (d / 32)
  | .host _ => false
  | .img w u o => match s.image w u with | some i => i.spPoison.has (o / 32) | none => false

/-- Setting or clearing the poison of a sector of HBM: in the latch when one holds its row, whose array copy keeps its own (R102). -/
def Hbm.setPoison (h : Hbm) (sector : Nat) (b : Bool) : Hbm :=
  { h with
    poison := if b then h.poison.add sector else h.poison.del sector
    stalePoison :=
      if h.latched (sector * 32) && !(h.stalePoison.any fun e => e.1 == sector) then (sector, h.poison.has sector) :: h.stalePoison
      else h.stalePoison }

/-- Setting or clearing the poison of a place's sector. -/
def State.setPoison (s : State) (p : Place) (b : Bool) : State :=
  match p with
  | .spm u o =>
    s.modCore (spMember u o).1 fun k =>
      { k with spPoison := if b then k.spPoison.add ((spMember u o).2 / 32) else k.spPoison.del ((spMember u o).2 / 32) }
  | .hbm d _ => { s with hbm := s.hbm.setPoison (d / 32) b }
  | .host _ => s
  | .img w u o =>
    s.modImage w u fun i => { i with spPoison := if b then i.spPoison.add (o / 32) else i.spPoison.del (o / 32) }

/-- A whole write of a place's sector leaves no old symbol in it (R115). -/
def State.freshSector (s : State) : Place → State
  | .hbm d _ => { s with hbm := { s.hbm with latent := s.hbm.latent.filter fun e => !(e.1 == d / 32) } }
  | _ => s

/-- Position of a place within its sector. -/
def Place.inSector : Place → Nat
  | .spm _ o => o % 32
  | .hbm d _ => d % 32
  | .host p => p % 32
  | .img _ _ o => o % 32

/-- The first poisoned byte of `n` bytes, by its distance. -/
def State.firstPoison (s : State) (p : Place) (n : Nat) : Option Nat :=
  (List.range n).find? fun i => (i == 0 || (p.add i).inSector == 0) && s.poisoned (p.add i)

/-- Poison after a write of `n` bytes from a place, `carried i` telling whether byte i is poisoned:
`via` tells where a sector lies; a sector that receives a poisoned byte, or keeps a part while poisoned, is poisoned whole; a whole clean write clears (R116). -/
def State.mergePoison (s : State) (via : Place → Place) (p : Place) (n : Nat) (carried : Nat → Bool) : State :=
  if n = 0 then s
  else
    let off := p.inSector
    (List.range ((off + n + 31) / 32)).foldl (fun s' i =>
      let lo := if i = 0 then 0 else 32 * i - off
      let hi := Nat.min n (32 * (i + 1) - off)
      let dirty := (List.range (hi - lo)).any fun j => carried (lo + j)
      let whole := decide (hi - lo = 32)
      let q := via (p.add lo)
      let s' := if whole then s'.freshSector q else s'
      if dirty then s'.setPoison q true
      else if whole then s'.setPoison q false
      else s') s

/-! ## Reading and writing places -/

/-- `n` bytes from a place. -/
def State.read (s : State) (p : Place) (n : Nat) : List Byte :=
  match p with
  | .spm u o => s.spBytes u o n
  | .hbm d k => s.hbmBytes d n k
  | .host a => s.host.bytes.bytes a n
  | .img w u o => match s.image w u with | some i => i.spm.bytes o n | none => List.replicate n 0

/-- Writing bytes at a place, poison aside. -/
def State.writeRaw (s : State) (p : Place) (bs : List Byte) : State :=
  match p with
  | .spm u o => s.setSpBytes u o bs
  | .hbm d k => s.putHbm d bs k
  | .host a => { s with host := { s.host with bytes := s.host.bytes.write a bs } }
  | .img w u o => s.modImage w u fun i => { i with spm := i.spm.write o bs }

/-- The frames of a write of `n` bytes take a tag (R224). -/
def State.tagFrames (s : State) (p : Place) (n : Nat) (tag : BitVec 8) : State :=
  match p with
  | .spm u o => s.setSpTags u o n tag
  | .img w u o =>
    if n = 0 then s
    else
      s.modImage w u fun i =>
        { i with tags := (List.range ((o + n - 1) / 4096 - o / 4096 + 1)).foldl (fun m j => Sparse.set m (o / 4096 + j) tag) i.tags }
  | _ => s

/-- Writing bytes with their poison; a scratchpad frame takes the tag of the write's addressing mode (R116, R224). -/
def State.writeTag (s : State) (p : Place) (bs : List Byte) (carried : Nat → Bool) (tag : BitVec 8) : State :=
  ((s.mergePoison id p bs.length carried).writeRaw p bs).tagFrames p bs.length tag

/-! ## Swizzled frames (R225) -/

/-- Physical offset of a logical byte under a swizzle pattern (R225). -/
def swizzle (p o : Nat) : Nat := o / 512 * 512 + ((o / 16 % 32) ^^^ (o / 512 % 8 * p % 32)) * 16 + o % 16

/-- Where a logical byte of a scratchpad lies under a pattern. -/
def Place.swz (pat : Nat) : Place → Place
  | .spm u o => .spm u (swizzle pat o)
  | .img w u o => .img w u (swizzle pat o)
  | p => p

/-- Writing logical bytes under a pattern, poison aside. -/
def State.writeSwzRaw (s : State) (p : Place) (pat : Nat) : List Byte → State
  | [] => s
  | b :: l => State.writeSwzRaw (s.writeRaw (p.swz pat) [b]) (p.add 1) pat l

/-- A write of logical bytes under a pattern: each logical sector lies in one sector, and each frame takes the pattern as its tag
(R116, R224, R225). -/
def State.writeSwz (s : State) (p : Place) (pat : Nat) (bs : List Byte) (carried : Nat → Bool) : State :=
  ((s.mergePoison (Place.swz pat) p bs.length carried).writeSwzRaw p pat bs).tagFrames p bs.length (BitVec.ofNat 8 pat)

/-- An ordinary clean write: linear tag (R224). -/
def State.write (s : State) (p : Place) (bs : List Byte) : State := s.writeTag p bs (fun _ => false) 0

end Sys2Proof.Machine
end

