-- ==== Sys2Proof/Machine/Banks.lean ====
section
/-! DEFINITION. Requests to a bank of HBM: when it takes one, its row buffer, and the activates it counts; with the writes of the management core that wait for their bank (R107 to R113). -/

namespace Sys2Proof.Machine

/-- Stack of a DPA (R101). -/
def stackOf (dpa : Nat) : Nat := dpa / 1024 % 12

/-- Stack of a bank number. -/
def stackOfBank (b : Nat) : Nat := b / 4096

/-- First byte of a row of a bank (R101). -/
def rowDpa (bank row : Nat) : Nat := ((row * 4096 + bank % 64 * 64 + bank / 64 % 64) * 12 + stackOfBank bank) * 1024

/-- A unit other than `c` has reserved the bank (R113). -/
def State.reservedByOther (s : State) (c bank : Nat) : Bool :=
  s.cores.any fun e => e.1 != c && e.2.resv.any fun r => r.1 == bank

/-- The unit at a core has reserved the bank (R113). -/
def State.reserved (s : State) (c bank : Nat) : Bool := (s.core c).resv.any fun r => r.1 == bank

/-- An activate may be issued to the bank now: RAA below RAAMAX, no RFM or refresh under way, no self-refresh (R107, R110, R112). -/
def State.canAct (s : State) (bank : Nat) : Bool :=
  let b := s.bank bank
  let k := s.stack (stackOfBank bank)
  decide (b.raa < k.raamax.toNat) && !b.rfm && !b.refreshing && !k.sref

/-- No request that has waited for self-refresh to end stands before one of a unit (R112); `Config.cores` is who is no unit. -/
def Stack.lets (k : Stack) (unit : Nat) : Bool :=
  match k.arrived with
  | [] => true
  | .unit c _ :: _ => c == unit
  | _ :: _ => unit == Config.cores

/-- The bank takes a request of a unit: not under refresh, RFM or self-refresh, nor under another unit's reservation, but for the one
request that has waited for it (R109, R110, R112, R113). -/
def State.bankTakes (s : State) (unit bank : Nat) : Bool :=
  let b := s.bank bank
  !(b.rfm || b.refreshing || (s.stack (stackOfBank bank)).sref) && (!(s.reservedByOther unit bank) || b.pass)

/-- A request that a bank does not take has a place in the order of arrival when its stack is in self-refresh, or others wait there
already (R112). -/
def State.lineUp (s : State) (bank : Nat) (w : Waiter) : State :=
  let k := s.stack (stackOfBank bank)
  if (k.sref || !k.arrived.isEmpty) && !(k.arrived.contains w) then
    s.setStack (stackOfBank bank) { k with arrived := k.arrived ++ [w] }
  else s

/-- The one request that had waited has been served (R113). -/
def State.usePass (s : State) (unit bank : Nat) : State :=
  if s.reservedByOther unit bank then s.setBank bank { s.bank bank with pass := false } else s

/-- A request of a unit enters the bank, behind those that self-refresh made wait (R109, R110, R112, R113). -/
def State.enterBank (s : State) (unit bank : Nat) : Option State :=
  if s.bankTakes unit bank && (s.stack (stackOfBank bank)).lets unit then some (s.usePass unit bank) else none

/-- One activate of the bank (R107). -/
def State.addAct (s : State) (bank : Nat) : State :=
  s.setBank bank { s.bank bank with raa := (s.bank bank).raa + 1 }

/-- The bank is left precharged (R100). -/
def State.prechargeBank (s : State) (bank : Nat) : State := s.setBank bank { s.bank bank with openRow := none }

/-- A request that has entered its bank finds its row: in a latch, in the row buffer, or by an ordinary activate (R102, R107, R110);
none while the bank takes no activate. -/
def State.findRow (s : State) (dpa : Nat) : Option State :=
  let b := bankOf dpa
  if s.hbm.latched dpa || (s.bank b).openRow == some (rowOf dpa) then some s
  else if s.canAct b then
    let s := s.addAct b
    some (s.setBank b { s.bank b with openRow := some (rowOf dpa) })
  else none

/-- An access of a unit to a row; none when it must wait. (DESIGN CHOICE, unsafe, log 27) -/
def State.useRow (s : State) (unit dpa : Nat) : Option State :=
  (s.enterBank unit (bankOf dpa)).bind fun s => s.findRow dpa

/-- Rows that `n` bytes from a DPA touch, by their first byte. -/
def rowsOf (d n : Nat) : List Nat :=
  if n = 0 then [] else (List.range ((d + n - 1) / 1024 - d / 1024 + 1)).map fun i => (d / 1024 + i) * 1024

/-- The rows of an access, in address order; the first bank that makes it wait, which then changes nothing. -/
def useRows (unit : Nat) : List Nat → State → Except Nat State
  | [], s => .ok s
  | d :: l, s =>
    match s.useRow unit d with
    | some s => useRows unit l s
    | none => .error (bankOf d)

/-- Rows of HBM that pieces touch. -/
def Pieces.rows : Pieces → List Nat
  | [] => []
  | (.hbm d _, n) :: l => rowsOf d n ++ Pieces.rows l
  | _ :: l => Pieces.rows l

/-- One access of several reads and writes of an agent that is no unit's, a walk or a mapping command: each row as the bank stood when
the access began, so that one that has waited is served whole (R113, R138). (DESIGN CHOICE, unsafe, log 27) -/
def State.alsoRow (s begun : State) (dpa : Nat) : Option State :=
  if begun.bankTakes Config.cores (bankOf dpa) then (s.usePass Config.cores (bankOf dpa)).findRow dpa else none

/-- Several such rows; the first bank that makes the access wait. -/
def alsoRows (begun : State) : List Nat → State → Except Nat State
  | [], s => .ok s
  | d :: l, s =>
    match s.alsoRow begun d with
    | some s => alsoRows begun l s
    | none => .error (bankOf d)

/-! ## Writes of the management core -/

/-- The rows take the write of whole sectors now, and the write clears their poison (R107, R116); none while it must wait. -/
def State.tryWrite (s : State) (dpa : Nat) (bs : List Byte) : Option State :=
  match useRows Config.cores (rowsOf dpa bs.length) s with
  | .ok s => some (s.write (.hbm dpa none) bs)
  | .error _ => none

/-- What the management core reads where it has written: a write that waits, else HBM. -/
def State.mgmtBytes (s : State) (dpa n : Nat) : List Byte :=
  match s.hbm.waits.reverse.find? fun w => w.1 == dpa with
  | some w => w.2.take n
  | none => s.hbm.bytes.bytes dpa n

/-- The writes of the management core that wait are tried again, in their order. -/
def retryWaits : List (Nat × List Byte) → State → State
  | [], s => s
  | w :: l, s =>
    match s.tryWrite w.1 w.2 with
    | some s => retryWaits l { s with hbm := { s.hbm with waits := l } }
    | none => s.lineUp (bankOf w.1) .mgmt

/-- Trying the management core's waiting writes again. -/
def State.retryWrites (s : State) : State := retryWaits s.hbm.waits s

/-- The management core writes whole sectors of HBM, after those of its writes that wait (R112, R113). -/
def State.mgmtWrite (s : State) (dpa : Nat) (bs : List Byte) : State :=
  State.retryWrites { s with hbm := { s.hbm with waits := s.hbm.waits ++ [(dpa, bs)] } }

end Sys2Proof.Machine
end

