-- ==== Sys2Proof/Machine/Logs.lean ====
section
/-! DEFINITION. The strandline recorder, the tidemark log, and the errors that a reader of HBM finds: poison events, corrected and uncorrectable sectors; with the layout of the inverted page table (R95, R96, R115, R127 to R130, R142, R469). -/

namespace Sys2Proof.Machine

/-! ## The inverted page table and its anchors (R127 to R130) -/

/-- Shift of a page size code (R127). -/
def pageShift : Nat → Nat
  | 0 => 16 | 1 => 21 | _ => 30

/-- The DPA of a frame's entry (R128). -/
def iptDpa (f : Nat) : Nat := 0xBF00000000 + f % 12 * 0x2000000 + f / 12 * 32

/-- The DPA of an anchor (R130). -/
def anchorDpa (i : Nat) : Nat := 0xBF18000000 + i * 8

/-- The end of a chain. -/
def chainEnd : Nat := 0xFFFFFFFFF

/-- An inverted page table entry: words 0 to 3 (R129). -/
abbrev IptEntry := BitVec 256

def IptEntry.v (e : IptEntry) : Bool := e.getLsbD 63
def IptEntry.vpn (e : IptEntry) : BitVec 63 := e.extractLsb' 0 63
def IptEntry.asid (e : IptEntry) : BitVec 16 := e.extractLsb' 112 16
def IptEntry.size (e : IptEntry) : BitVec 2 := e.extractLsb' 110 2
def IptEntry.r (e : IptEntry) : Bool := e.getLsbD 109
def IptEntry.w (e : IptEntry) : Bool := e.getLsbD 108
def IptEntry.x (e : IptEntry) : Bool := e.getLsbD 107
def IptEntry.c (e : IptEntry) : Bool := e.getLsbD 106
def IptEntry.keyslot (e : IptEntry) : BitVec 12 := e.extractLsb' 94 12
def IptEntry.ppol (e : IptEntry) : BitVec 2 := e.extractLsb' 92 2
def IptEntry.cont (e : IptEntry) : Bool := e.getLsbD 91
def IptEntry.reserved1 (e : IptEntry) : BitVec 27 := e.extractLsb' 64 27
def IptEntry.reserved2 (e : IptEntry) : BitVec 28 := e.extractLsb' 164 28
def IptEntry.next (e : IptEntry) : BitVec 36 := e.extractLsb' 128 36

/-- 32 bytes of HBM as an entry, and a number of bytes as a bit vector. -/
def leBits (n : Nat) (bs : List Byte) : BitVec n := BitVec.ofNat n (ofBytes bs)

/-- The entry of a frame. -/
def State.ipt (s : State) (f : Nat) : IptEntry := leBits 256 (s.hbm.bytes.bytes (iptDpa f) 32)

/-- A message to the host, EVT with a vector (R79). -/
def State.evt (s : State) (vec : BitVec 12) : State := { s with hostLog := s.hostLog ++ [.evt vec] }

/-- A list of bytes cut or padded with zeros to a length. -/
def padTo (n : Nat) (bs : List Byte) : List Byte := (bs ++ List.replicate n 0).take n

/-! ## Strandline and tidemark -/

/-- Appending a strandline event: TYPE, SOURCE and the 16 bytes of DETAIL (R95). (DESIGN CHOICE, unsafe, log 33) -/
def State.strandEvent (s : State) (ty source : Nat) (detail : List Byte) : State :=
  let rec' := toBytes s.ftime 8 ++ toBytes ty 2 ++ toBytes source 2 ++ toBytes s.strcount 4 ++ padTo 16 detail
  { s with strand := Tab.set s.strand (s.strcount % 8192) (leBits 256 rec'), strcount := s.strcount + 1 }

/-- DPA of tidemark entry t (R96, R126). -/
def tideDpa (t : Nat) : Nat := 0xBF1A000000 + t % 262144 * 64

/-- The CHAIN of the entry before number t (R96). -/
def State.tideChain (s : State) (t : Nat) : List Byte :=
  if t = 0 then List.replicate 32 0
  else if t = s.tide.head then digestBytes s.tide.basehash
  else (s.mgmtBytes (tideDpa (t - 1)) 64).drop 32

/-- Appending one tidemark entry: TYPE, SOURCE and 12 bytes of DETAIL (R96). (DESIGN CHOICE, unsafe, log 66) -/
def State.tideRaw (s : State) (ty source : Nat) (detail : List Byte) : State :=
  let t := s.tide.tail
  let head := toBytes t 8 ++ toBytes s.ftime 8 ++ toBytes ty 2 ++ toBytes source 2 ++ padTo 12 detail
  let chain := digestBytes (sha256 (s.tideChain t ++ head))
  let s := s.mgmtWrite (tideDpa t) (head ++ chain)
  { s with tide := { s.tide with tail := t + 1 } }

/-- An entry, lost when the log holds `bound` entries; the one that brings it to 262,143 is followed by FULL (R96). A TRUNCATE that frees no place
in a log of 262,144 entries loses its TRUNCATED entry so, which TMLOST counts (R97; DESIGN CHOICE, unsafe, log 66). -/
def State.tideUpTo (s : State) (bound ty source : Nat) (detail : List Byte) : State :=
  if bound ≤ s.tide.tail - s.tide.head then
    { s with tide := { s.tide with lost := if s.tide.lost = BitVec.allOnes 64 then s.tide.lost else s.tide.lost + 1 } }
  else
    let s := s.tideRaw ty source detail
    if s.tide.tail - s.tide.head = 262143 then s.tideRaw 0x0100 0 [] else s

/-- A tidemark event: lost from the FULL entry on (R96). -/
def State.tideEvent (s : State) (ty source : Nat) (detail : List Byte) : State := s.tideUpTo 262143 ty source detail

/-- The policy of the page whose frames hold a DPA is NOTIFY (R129). -/
def State.notifyPage (s : State) (dpa : Nat) : Bool :=
  let f := dpa / 65536
  [(f, 0), (f / 32 * 32, 1), (f / 16384 * 16384, 2)].any fun (h, sz) =>
    let e := s.ipt h
    decide (h < Config.reservedGfn) && e.v && e.size.toNat == sz && e.ppol == 1

/-- The anchors' part of the table region (R126, R130). -/
def isAnchor (dpa : Nat) : Bool := decide (0xBF18000000 ≤ dpa) && decide (dpa < 0xBF1A000000)

/-- A poison event of a sector: both logs, and PNVEC under NOTIFY; the management core rewrites a poisoned anchor sector with its values
(R115, R129, R142, R469). -/
def State.poisonEvent (s : State) (dpa agent core : Nat) : State :=
  let d := toBytes (dpa / 32 * 32) 7 ++ [BitVec.ofNat 8 agent] ++ toBytes core 2
  let s := (s.strandEvent 0x08 (stackOf dpa) d).tideEvent 0x08 (stackOf dpa) d
  let s := if s.notifyPage dpa && s.xlctl.pnen then s.evt s.xlctl.pnvec else s
  if isAnchor dpa then s.setPoison (.hbm dpa none) false else s

/-- A sector found uncorrectable: poison marker, UECNT, poison event (R115). -/
def State.uncorrectable (s : State) (dpa agent core : Nat) : State :=
  let s := s.setPoison (.hbm dpa none) true
  let k := s.stack (stackOf dpa)
  let s := s.setStack (stackOf dpa) { k with uecnt := if k.uecnt = 0xFFFF then 0xFFFF else k.uecnt + 1 }
  s.poisonEvent dpa agent core

/-! ## Errors that a read finds (R115) -/

/-- A sector found corrected: CECNT and a tidemark entry; its symbols are right again, unless a latch holds the sector until it leaves
it (R115). -/
def State.corrected (s : State) (dpa : Nat) : State :=
  let k := s.stack (stackOf dpa)
  let s := s.setStack (stackOf dpa) { k with cecnt := if k.cecnt = 0xFFFF then 0xFFFF else k.cecnt + 1 }
  (if s.hbm.latched dpa then s else s.freshSector (.hbm dpa none)).tideEvent 0x0D (stackOf dpa) (toBytes (dpa / 32 * 32) 7)

/-- A read of a sector finds what has gone wrong in it. -/
def State.readSector (s : State) (sector agent core : Nat) : State :=
  match s.hbm.latent.find? fun e => e.1 == sector with
  | none => s
  | some (_, true) => (s.freshSector (.hbm (sector * 32) none)).uncorrectable (sector * 32) agent core
  | some (_, false) => s.corrected (sector * 32)

/-- A write of `n` bytes merges the sectors that it covers in part: the controller reads them (R115, R116). -/
def State.mergeRead (s : State) : Pieces → State
  | [] => s
  | (.hbm d _, n) :: l =>
    let s := if n = 0 ∨ d % 32 = 0 ∧ 32 ≤ n then s else s.readSector (d / 32) 13 0xFFFF
    let s := if n = 0 ∨ (d + n) % 32 = 0 ∨ (d + n) / 32 = d / 32 then s else s.readSector ((d + n) / 32) 13 0xFFFF
    State.mergeRead s l
  | _ :: l => State.mergeRead s l

/-- The sectors that a read touches. -/
def State.readSectors (s : State) (agent core : Nat) : Pieces → State
  | [] => s
  | (.hbm d _, n) :: l =>
    if n = 0 then State.readSectors s agent core l
    else
      State.readSectors ((List.range ((d + n - 1) / 32 - d / 32 + 1)).foldl (fun s i => s.readSector (d / 32 + i) agent core) s)
        agent core l
  | _ :: l => State.readSectors s agent core l

end Sys2Proof.Machine
end

