-- ==== Sys2Proof/Machine/Translate.lean ====
section
/-! DEFINITION. From virtual addresses to places: regions, scratchpad checks, the inverted page table, the translation caches and the page-fault queue (R124 to R144, R469). -/

namespace Sys2Proof.Machine

/-! ## Trap causes (R176) and translation reasons (R132) -/

def cILLEGAL : BitVec 8 := 0x01
def cBADSTATUS : BitVec 8 := 0x02
def cALIGN : BitVec 8 := 0x04
def cSPACCESS : BitVec 8 := 0x05
def cXLATE : BitVec 8 := 0x06
def cPROT : BitVec 8 := 0x07
def cTOKEN : BitVec 8 := 0x08
def cREMOTE : BitVec 8 := 0x09
def cPOISON : BitVec 8 := 0x0A
def cOPFORMAT : BitVec 8 := 0x0B
def cMXCHECK : BitVec 8 := 0x0C
def cDEADWAIT : BitVec 8 := 0x0D
def cWAITTIME : BitVec 8 := 0x0E
def cROWLOST : BitVec 8 := 0x0F
def cROWQUOTA : BitVec 8 := 0x10
def cLOOPNEST : BitVec 8 := 0x13
def cSPAWNFULL : BitVec 8 := 0x14
def cSHARD : BitVec 8 := 0x15
def cCRGN : BitVec 8 := 0x16
def cBREAK : BitVec 8 := 0x17
def cSOFT : BitVec 8 := 0x18

def xNOTMAPPED : BitVec 8 := 1
def xREFUSED : BitVec 8 := 2
def xFORM : BitVec 8 := 3
def xOVERLAP : BitVec 8 := 4
def xMALFORMED : BitVec 8 := 5
def xCHAIN : BitVec 8 := 6
def xASIDINV : BitVec 8 := 7

/-! ## Regions (R124) -/

/-- The region of a virtual address. -/
inductive VaRegion
  | scratch | host | device
deriving DecidableEq, Repr

/-- The region of a virtual address, by the tests of R124 in their order. -/
def vaRegion (va : Addr) : VaRegion :=
  if va.extractLsb' 36 44 = BitVec.allOnes 44 then .scratch
  else if va.getLsbD 79 then .device
  else .host

/-- Who accesses, through which cache, in which address space and for what. -/
structure Acc where
  cache : CacheId
  /-- Lowest core of the issuing unit. -/
  unit : Nat
  /-- A copy-class access may name another unit's scratchpad (R125). -/
  copy : Bool
  asid : BitVec 16
  r : Bool
  w : Bool
  x : Bool
  /-- A load that the unit's data cache may serve (R243, R320). -/
  dc : Bool := false
  /-- The management core's own access (R115). -/
  mgmt : Bool := false
  /-- The commands to the bank are the instruction's own: a row line's or STREAMROW's (R100, R113). -/
  raw : Bool := false
deriving DecidableEq, Repr

/-- Why an access stops, its address aside. -/
inductive Stop
  | trap (code sub : BitVec 8)
  /-- A walk has consumed the poison of a table sector (R469). -/
  | poison
  /-- Not mapped, or not present at the host (R141). -/
  | absent
  /-- An XLT request is in flight (R83). -/
  | xlt (pasid vpage : Nat)
  /-- A bank takes no request now (R109, R110, R112, R113). -/
  | bank (b : Nat)
  /-- The unit whose scratchpad is named is being pre-empted (R191). -/
  | frozen (unit : Nat)
deriving DecidableEq, Repr

/-! ## Scratchpad addresses (R125, R228) -/

/-- The core that an SPA names for a unit; none where R125 faults SPACCESS. -/
def spaCore (s : State) (x : Acc) (spa : BitVec 36) : Option Nat :=
  let f := (spa.extractLsb' 26 10).toNat
  if f = 1023 then (if x.unit < Config.cores then some x.unit else none)
  else if f < Config.cores then
    if s.leaderOf f ≠ f then none
    else if !x.copy && f ≠ x.unit then none
    else some f
  else none

/-- The place of `n` bytes at an SPA. -/
def spaPlace (s : State) (x : Acc) (spa : BitVec 36) (n : Nat) : Except Stop Place :=
  match spaCore s x spa with
  | none => .error (.trap cSPACCESS 0)
  | some c =>
    let o := (spa.extractLsb' 0 26).toNat
    if s.spSize c < o + n then .error (.trap cSPACCESS 0)
    else if c ≠ x.unit ∧ (s.core c).freeze.isSome then .error (.frozen c)
    else .ok (.spm c o)

/-! ## The inverted page table (R127 to R131) -/

/-- Malformed(e) of R131 for the entry of frame `f`. -/
def IptEntry.malformed (e : IptEntry) (f : Nat) : Bool :=
  e.reserved1 != 0 || e.reserved2 != 0 || e.size == 3 || (1 : BitVec 2).ult e.ppol ||
  e.vpn.toNat % 2 ^ (pageShift e.size.toNat - 16) != 0 || f % 2 ^ (pageShift e.size.toNat - 16) != 0 ||
  (e.next.toNat != chainEnd && decide (Config.reservedGfn ≤ e.next.toNat))

/-- AnchorIndex (R130). -/
def anchorIndex (asid : BitVec 16) (sz : Nat) (va : Addr) : Nat :=
  let page := (va.extractLsb' 0 79).toNat / 2 ^ pageShift sz
  (crc32c (toBytes page 8 ++ toBytes asid.toNat 2 ++ [BitVec.ofNat 8 sz, 0])).toNat % 2 ^ 22

/-- How a walk ends without a page. -/
inductive WalkErr
  | reason (sub : BitVec 8)
  | poison
  /-- A bank takes no read of the walk now (R109, R110, R112, R113). -/
  | bank (b : Nat)
deriving DecidableEq, Repr

/-- A read of a sector of the tables, as an ordinary load of an access that began in `begun`: the state, and what ends the walk there;
the poison of a sector is consumed unless nothing waits on the walk (R107, R115, R138, R469). -/
def State.walkRead (s begun : State) (dpa : Nat) (consume : Bool) : State × Option WalkErr :=
  match s.alsoRow begun dpa with
  | none => (s, some (.bank (bankOf dpa)))
  | some s =>
    if s.hbm.poison.has (dpa / 32) then (if consume then s.poisonEvent dpa 11 0xFFFF else s, some .poison)
    else
      (s.readSector (dpa / 32) 11 0xFFFF, if s.hbm.latent.any (fun e => e.1 == dpa / 32 && e.2) then some .poison else none)

/-- A page found by a walk: its head frame and size code. -/
structure Found where
  frame : Nat
  sz : Nat
deriving DecidableEq, Repr

/-- Following one chain: at most 64 entries (R131), each sector read as an ordinary load (R138); `begun` and `consume` as in
`State.walkRead`. -/
def walkChain (begun : State) (consume : Bool) (asid : BitVec 16) (va : Addr) (sz : Nat) : Nat → Nat → Option Found → State →
    State × Except WalkErr (Option Found)
  | fuel, f, found, s =>
    if f = chainEnd then (s, .ok found)
    else
      match fuel with
      | 0 => (s, .error (.reason xCHAIN))
      | fuel + 1 =>
        if 0xBEFFFF < f then (s, .error (.reason xMALFORMED))
        else
          match s.walkRead begun (iptDpa f) consume with
          | (s, some e) => (s, .error e)
          | (s, none) =>
            let e := s.ipt f
            if e.malformed f then (s, .error (.reason xMALFORMED))
            else
              let hit := e.v && e.asid == asid && e.size.toNat == sz &&
                decide (e.vpn.toNat / 2 ^ (pageShift sz - 16) = (va.extractLsb' 0 79).toNat / 2 ^ pageShift sz)
              if hit && found.isSome then (s, .error (.reason xOVERLAP))
              else walkChain begun consume asid va sz fuel e.next.toNat (if hit then some ⟨f, sz⟩ else found) s

/-- The chain of one page size (R130, R131); reserved anchor bits are malformed (R132). -/
def walkSize (s begun : State) (consume : Bool) (asid : BitVec 16) (va : Addr) (sz : Nat) (found : Option Found) :
    State × Except WalkErr (Option Found) :=
  let d := anchorDpa (anchorIndex asid sz va)
  match s.walkRead begun d consume with
  | (s, some e) => (s, .error e)
  | (s, none) =>
    let a : BitVec 64 := leBits 64 (s.hbm.bytes.bytes d 8)
    if a.extractLsb' 36 27 ≠ 0 then (s, .error (.reason xMALFORMED))
    else walkChain begun consume asid va sz 64 (if a.getLsbD 63 then (a.extractLsb' 0 36).toNat else chainEnd) found s

/-- The sizes of a walk in order; the first that fails ends it. -/
def walkSizes (begun : State) (consume : Bool) (asid : BitVec 16) (va : Addr) : List Nat → Option Found → State → State × Except WalkErr (Option Found)
  | [], found, s => (s, .ok found)
  | sz :: l, found, s =>
    match walkSize s begun consume asid va sz found with
    | (s, .ok f) => walkSizes begun consume asid va l f s
    | r => r

/-- Walk(asid, va) of R131; the poison of a sector is consumed only for an access that waits on the walk (R469); one that a bank makes
wait has done nothing, and its next attempt walks again. -/
def walk (s : State) (consume : Bool) (asid : BitVec 16) (va : Addr) : State × Except WalkErr Found :=
  match walkSizes s consume asid va [0, 1, 2] none s with
  | (_, .error (.bank b)) => (s, .error (.bank b))
  | (s, .error e) => (s, .error e)
  | (s, .ok none) => (s, .error (.reason xNOTMAPPED))
  | (s, .ok (some f)) => (s, .ok f)

/-- The cached translation of a found page. -/
def foundEntry (s : State) (cache : CacheId) (asid : BitVec 16) (va : Addr) (f : Found) : TlbEntry :=
  let e := s.ipt f.frame
  { cache := cache, asid := asid, vbase := va.toNat / 2 ^ pageShift f.sz * 2 ^ pageShift f.sz, shift := pageShift f.sz,
    pbase := f.frame * 2 ^ 16, r := e.r, w := e.w, x := e.x,
    conf := if e.c then some e.keyslot else none, notify := e.ppol == 1 }

/-! ## Translation caches (R136, R139) -/

def TlbEntry.covers (e : TlbEntry) (va : Addr) : Bool :=
  decide (e.vbase ≤ va.toNat) && decide (va.toNat < e.vbase + 2 ^ e.shift)

/-- The permission an access needs (R140). -/
def TlbEntry.allows (e : TlbEntry) (x : Acc) : Bool := (!x.r || e.r) && (!x.w || e.w) && (!x.x || e.x)

/-- The cached translation that serves an address. -/
def State.cached (s : State) (cache : CacheId) (asid : BitVec 16) (va : Addr) : Option TlbEntry :=
  s.tlb.find? fun e => e.cache == cache && e.asid == asid && e.covers va

/-- Entries of a translation cache (R136). -/
def cacheEntries : CacheId → Nat
  | .scalar _ => 128
  | .stream _ _ => 64
  | .sequencer => 256
  | .ingress | .atc => 4096

/-- Room for one more translation in a cache: when it is full an entry of it goes, whichever the implementation replaces (R136; free value). -/
def State.evict (s : State) (cache : CacheId) : State :=
  let own := s.tlb.filter fun e => e.cache == cache
  if own.length < cacheEntries cache then s
  else
    match own[Config.freeVictim s.freeCtr % own.length]? with
    | some v => { s with freeCtr := s.freeCtr + 1, tlb := s.tlb.erase v }
    | none => s

/-- Placing a translation in its cache; an older one of the same page goes. -/
def State.fillTlb (s : State) (n : TlbEntry) : State :=
  let s := { s with tlb := s.tlb.filter fun e => !(e.cache == n.cache && e.asid == n.asid && e.vbase == n.vbase && e.shift == n.shift) }
  let s := s.evict n.cache
  { s with tlb := n :: s.tlb }

/-- The place a device-half translation gives. -/
def TlbEntry.place (e : TlbEntry) (va : Addr) : Place := .hbm (e.pbase + (va.toNat - e.vbase)) e.conf

/-- A walk for an access (R140 steps 3 to 5). -/
def walkDevice (s : State) (x : Acc) (va : Addr) (consume : Bool) : State × Except Stop Place :=
  if (s.asidEnt x.asid.toNat).valid then
    match walk s consume x.asid va with
    | (s, .error .poison) => (s, .error .poison)
    | (s, .error (.bank b)) => (s, .error (.bank b))
    | (s, .error (.reason sub)) => (s, .error (if sub = xNOTMAPPED then .absent else .trap cXLATE sub))
    | (s, .ok f) =>
      let e := foundEntry s x.cache x.asid va f
      (s.fillTlb e, if e.allows x then .ok (e.place va) else .error (.trap cPROT 0))
  else (s, .error (.trap cXLATE xASIDINV))

/-- A device-half address: the cached translation, or a walk; one that lacks the permission is walked once more (R139). -/
def xlateDevice (s : State) (x : Acc) (va : Addr) (consume : Bool) : State × Except Stop Place :=
  match s.cached x.cache x.asid va with
  | some e => if e.allows x then (s, .ok (e.place va)) else walkDevice s x va consume
  | none => walkDevice s x va consume

/-- A port that can carry host-half accesses is up (R80). -/
def State.zclUp (s : State) : Bool := s.zcl0 || s.zcl1

/-- The port that carries an access to a host-half address: bit 12 chooses when both are up (R80). -/
def State.zclPort (s : State) (va : Addr) : Nat :=
  if s.zcl0 && s.zcl1 then (va.getLsbD 12).toNat else if s.zcl0 then 0 else 1

/-- Sending an XLT request, unless one for the page is in flight, which the access joins (R83). -/
def State.sendXlt (s : State) (pasid : Nat) (asid : BitVec 16) (va : Addr) : State :=
  let vpage := va.toNat / 4096
  if s.xlts.any fun r => r.pasid == pasid && r.vpage == vpage then
    { s with xlts := s.xlts.map fun r =>
        if r.pasid = pasid ∧ r.vpage = vpage ∧ !(r.asids.contains asid) then { r with asids := r.asids ++ [asid] } else r }
  else
    { s with
      xlts := s.xlts ++ [{ pasid := pasid, vpage := vpage, asids := [asid] }]
      hostLog := s.hostLog ++ [.xlt pasid va (s.zclPort va)] }

/-- Taking the answer that stands for a page. -/
def State.takeNote (s : State) (asid : BitVec 16) (vpage : Nat) : State :=
  { s with xltAns := s.xltAns.filter fun e => !(e.1 == asid && e.2.1 == vpage) }

/-- The place a host-half translation gives, once a port is up to carry the access (R80). -/
def hostPlace (s : State) (e : TlbEntry) (va : Addr) (pasid : Nat) : State × Except Stop Place :=
  if s.zclUp then (s, .ok (.host (e.pbase + (va.toNat - e.vbase))))
  else ({ s with zclWait := true }, .error (.xlt pasid (va.toNat / 4096)))

/-- A host-half address: form, the requesting cache, the address translation cache, the ASID table, and the host IOMMU
(R80, R82, R83, R136, R140). -/
def xlateHost (s : State) (x : Acc) (va : Addr) : State × Except Stop Place :=
  if va.extractLsb' 57 22 ≠ 0 then (s, .error (.trap cXLATE xFORM))
  else
    let a := s.asidEnt x.asid.toNat
    let pasid := a.pasid.toNat
    let vpage := va.toNat / 4096
    let note : Option XltNote := (s.xltAns.find? fun e => e.1 == x.asid && e.2.1 == vpage).map fun e => e.2.2
    let ask : State × Except Stop Place :=
      if a.valid && a.hosten then
        match note with
        | some .notPresent => (s.takeNote x.asid vpage, .error .absent)
        | some .refused => (s.takeNote x.asid vpage, .error (.trap cXLATE xREFUSED))
        | _ =>
          if s.zclUp then (s.sendXlt pasid x.asid va, .error (.xlt pasid vpage))
          else ({ s with zclWait := true }, .error (.xlt pasid vpage))
      else (s, .error (.trap cXLATE xASIDINV))
    let viaAtc : State × Except Stop Place :=
      match s.cached .atc x.asid va with
      | some e =>
        if e.allows x then hostPlace ((s.takeNote x.asid vpage).fillTlb { e with cache := x.cache }) e va pasid
        else if note = some .fresh then (s.takeNote x.asid vpage, .error (.trap cPROT 0))
        else ask
      | none => ask
    match s.cached x.cache x.asid va with
    | some e => if e.allows x then hostPlace s e va pasid else viaAtc
    | none => viaAtc

/-- One address, with `n` bytes for the scratchpad's size check; ACHK alone consumes no poison of a walk (R469). -/
def xlate (s : State) (x : Acc) (va : Addr) (n : Nat) (consume : Bool := true) : State × Except Stop Place :=
  match vaRegion va with
  | .scratch => (s, spaPlace s x (va.extractLsb' 0 36) n)
  | .host => xlateHost s x va
  | .device => xlateDevice s x va consume

/-! ## Whole accesses (R124, R140) -/

/-- Cutting an access at 4 KiB boundaries; the first piece to fail decides, with its address. -/
def pieces (x : Acc) : Nat → State → Addr → Nat → State × Except (Stop × Addr) Pieces
  | 0, s, _, _ => (s, .ok [])
  | fuel + 1, s, va, n =>
    if n = 0 then (s, .ok [])
    else
      let k := Nat.min n (4096 - va.toNat % 4096)
      match xlate s x va k with
      | (s, .error e) => (s, .error (e, va))
      | (s, .ok p) =>
        match pieces x fuel s (va + BitVec.ofNat 80 k) (n - k) with
        | (s, .error e) => (s, .error e)
        | (s, .ok l) => (s, .ok ((p, k) :: l))

/-- The pieces of an access of `n` bytes; an access across two regions faults FORM before any effect (R124). -/
def locate (s : State) (x : Acc) (va : Addr) (n : Nat) : State × Except (Stop × Addr) Pieces :=
  if n = 0 then (s, .ok [])
  else if vaRegion va ≠ vaRegion (va + BitVec.ofNat 80 (n - 1)) then (s, .error (.trap cXLATE xFORM, va))
  else if vaRegion va = .scratch then
    match spaPlace s x (va.extractLsb' 0 36) n with
    | .error e => (s, .error (e, va))
    | .ok p => (s, .ok [(p, n)])
  else pieces x (n / 4096 + 2) s va n

/-- Bytes of pieces. -/
def State.readAll (s : State) : Pieces → List Byte
  | [] => []
  | (p, n) :: l => s.read p n ++ State.readAll s l

/-- Writing bytes over pieces, with poison by byte and a layout tag. -/
def State.writeAllTag (s : State) (bs : List Byte) (carried : Nat → Bool) (tag : BitVec 8) : Pieces → State
  | [] => s
  | (p, n) :: l =>
    State.writeAllTag (s.writeTag p (bs.take n) carried tag) (bs.drop n) (fun i => carried (i + n)) tag l

/-- Writing clean bytes over pieces. -/
def State.writeAll (s : State) (l : Pieces) (bs : List Byte) : State := s.writeAllTag bs (fun _ => false) 0 l

/-- Distance of the first poisoned byte. -/
def State.firstPoisonAll (s : State) : Pieces → Option Nat
  | [] => none
  | (p, n) :: l =>
    match s.firstPoison p n with
    | some i => some i
    | none => (State.firstPoisonAll s l).map (· + n)

/-- Whether the byte at a distance is poisoned. -/
def State.poisonAt (s : State) : Pieces → Nat → Bool
  | [], _ => false
  | (p, n) :: l, i => if i < n then s.poisoned (p.add i) else State.poisonAt s l (i - n)

/-! ## The page-fault queue (R141, R142) -/

/-- The 32 bytes of a page-fault record. -/
def PageFault.record (f : PageFault) : BitVec 256 :=
  leBits 256 (toBytes f.va.toNat 10 ++ toBytes f.asid.toNat 2 ++ toBytes f.core.toNat 2 ++ [f.slot, f.agent, f.access, 1])

/-- Queueing waiting records while the ring has space (R141). -/
def drainFaults : Nat → State → State
  | 0, s => s
  | fuel + 1, s =>
    match s.faults.find? (fun f => f.queued.isNone) with
    | none => s
    | some f =>
      if 256 ≤ (s.pftail - s.pfhead).toNat then s
      else
        let i := s.pftail
        let s := { s with
          faults := s.faults.map fun (g : PageFault) => if g.asid = f.asid ∧ g.vpage = f.vpage then { g with queued := some i } else g
          pfring := Tab.set s.pfring (i.toNat % 256) f.record
          pftail := i + 1 }
        drainFaults fuel (if s.xlctl.pfen then s.evt s.xlctl.pfvec else s)

/-- A fault on a page: a new record, or another faulter under the standing one (R141). -/
def State.pageFault (s : State) (asid : BitVec 16) (va : Addr) (core : BitVec 16) (slot agent access : BitVec 8)
    (who : Faulter) : State :=
  let vpage := va.toNat / 65536
  if s.faults.any (fun f => f.asid == asid && f.vpage == vpage) then
    { s with faults := s.faults.map fun f =>
        if f.asid = asid ∧ f.vpage = vpage then { f with who := f.who ++ [(who, va)] } else f }
  else
    drainFaults (s.faults.length + 1)
      { s with faults := s.faults ++
          [{ asid := asid, vpage := vpage, va := va, core := core, slot := slot, agent := agent, access := access,
             queued := none, who := [(who, va)] }] }

/-- ACCESS of a fault record (R142). -/
def Acc.bits (x : Acc) : BitVec 8 :=
  (if x.r then 1 else 0) + (if x.w then 2 else 0) + (if x.x then 4 else 0)

/-- A record stands for a page (R135, R141). -/
def State.pageHeld (s : State) (asid : BitVec 16) (vpage : Nat) : Bool :=
  s.faults.any fun f => f.asid == asid && f.vpage == vpage

end Sys2Proof.Machine
end

