-- ==== Sys2Proof/Machine/Cache.lean ====
section
/-! DEFINITION. The scalar data cache of a front end: lines of device-half HBM as its unit last read or wrote them, stale until an acquire or a later miss
(R243, R246; DEDUCED, unsafe, log 70). -/

namespace Sys2Proof.Machine

/-- Bytes of a cache line: that of a monitor wait (R340). -/
def lineBytes : Nat := 64

/-- The line of the cache of the unit at a core that holds a DPA under a key slot. -/
def State.dline (s : State) (c d : Nat) (key : Option (BitVec 12)) : Option DLine :=
  (s.core c).dcache.find? fun l => l.line == d / lineBytes && l.key == key

/-- Lines with a number leave the cache. -/
def dropLine (line : Nat) (l : List DLine) : List DLine := l.filter fun x => x.line != line

/-- A miss: the line is read from HBM; one with a poisoned sector is not kept. -/
def State.fillLine (s : State) (c d : Nat) (key : Option (BitVec 12)) : State :=
  let n := d / lineBytes
  let p : Place := .hbm (n * lineBytes) key
  s.modCore c fun k => { k with dcache :=
    if (s.firstPoison p lineBytes).isSome then dropLine n k.dcache
    else { line := n, key := key, bytes := s.read p lineBytes } :: dropLine n k.dcache }

/-- The data cache serves a load of HBM: its line is there and holds what HBM holds, or has not left it meanwhile (R243). -/
def State.hits (s : State) (c d : Nat) (key : Option (BitVec 12)) (n : Nat) : Bool :=
  match s.dline c d key with
  | none => false
  | some l =>
    (s.firstPoison (.hbm d key) n).isNone &&
      ((l.bytes.drop (d % lineBytes)).take n == s.read (.hbm d key) n || !(Config.freeMiss s.freeCtr))

/-- The pieces of a load that its unit's data cache does not serve. -/
def State.missed (s : State) (c : Nat) (l : Pieces) : Pieces :=
  l.filter fun p => match p with
    | (.hbm d key, n) => !(s.hits c d key n)
    | _ => true

/-- A scalar load of HBM: a line that differs from HBM serves it, unless it has left the cache meanwhile, which is free (R243, R320). -/
def State.loadHbm (s : State) (c d : Nat) (key : Option (BitVec 12)) (n : Nat) : State × List Byte :=
  let mem := s.read (.hbm d key) n
  match s.dline c d key with
  | none => (s.fillLine c d key, mem)
  | some l =>
    let old := (l.bytes.drop (d % lineBytes)).take n
    if old = mem then (s, mem)
    else if Config.freeMiss s.freeCtr then ({ s with freeCtr := s.freeCtr + 1 }.fillLine c d key, mem)
    else ({ s with freeCtr := s.freeCtr + 1 }, old)

/-- A scalar load: the scratchpad and the host half are never served from the cache (R320). -/
def State.loadAll (s : State) (c : Nat) : Pieces → State × List Byte
  | [] => (s, [])
  | (.hbm d key, n) :: l =>
    let r := s.loadHbm c d key n
    let t := State.loadAll r.1 c l
    (t.1, r.2 ++ t.2)
  | (p, n) :: l =>
    let t := State.loadAll s c l
    (t.1, s.read p n ++ t.2)

/-- A line of the cache after a store of its unit to its bytes. -/
def DLine.put (l : DLine) (d : Nat) (key : Option (BitVec 12)) (bs : List Byte) : DLine :=
  if l.line = d / lineBytes ∧ l.key = key then
    { l with bytes := (l.bytes.take (d % lineBytes) ++ bs ++ l.bytes.drop (d % lineBytes + bs.length)).take lineBytes }
  else l

/-- A scalar store writes through: the lines it finds take its bytes (R243). -/
def State.storeAll (s : State) (c : Nat) (l : Pieces) (bs : List Byte) : State :=
  match l with
  | [(.hbm d key, _)] =>
    (s.writeAll l bs).modCore c fun k => { k with dcache := k.dcache.map fun x => x.put d key bs }
  | _ => s.writeAll l bs

/-- A line of the cache after bytes that a read of memory itself has found, which may cross into the next line. -/
def DLine.seen (l : DLine) (d : Nat) (key : Option (BitVec 12)) (bs : List Byte) : DLine :=
  let k := lineBytes - d % lineBytes
  (l.put d key (bs.take k)).put (d + k) key (bs.drop k)

/-- A read of memory itself by a task: the lines its unit's cache holds of those bytes take what was read, so that no later load there
returns an older write (R237, R240). -/
def State.refresh (s : State) (c : Nat) (l : Pieces) : State :=
  match l with
  | [(.hbm d key, n)] => s.modCore c fun k => { k with dcache := k.dcache.map fun x => x.seen d key (s.read (.hbm d key) n) }
  | _ => s

/-- An acquire at .dev or wider: the cache of the unit at a core is empty (R241, R243). -/
def State.invalidate (s : State) (c : Nat) : State := s.modCore c fun k => { k with dcache := [] }

/-- A line lies in bytes of HBM that pieces name. -/
def DLine.touched (l : DLine) : Pieces → Bool
  | [] => false
  | (.hbm d _, n) :: ps => (decide (d < (l.line + 1) * lineBytes) && decide (l.line * lineBytes < d + n)) || l.touched ps
  | _ :: ps => l.touched ps

/-- A write of the unit's own engines: the lines it touches leave the cache (R243). -/
def State.dropLines (s : State) (c : Nat) (l : Pieces) : State :=
  if (s.core c).dcache.any fun x => x.touched l then
    s.modCore c fun k => { k with dcache := k.dcache.filter fun x => !x.touched l }
  else s

end Sys2Proof.Machine
end

