-- ==== Sys2Proof/Machine/Rows.lean ====
section
/-! DEFINITION. Row lines, latches and bank reservations: what each event does to a slot, its latch and its bank (R102 to R114). -/

namespace Sys2Proof.Machine

/-- A row-line slot of a task. -/
def State.row (s : State) (c n : Nat) (k : KReg) : RowSlot := (s.task c n).rows[k.val]

/-- Setting a row-line slot of a task. -/
def State.setRow (s : State) (c n : Nat) (k : KReg) (r : RowSlot) : State :=
  s.modTask c n fun t => { t with rows := t.rows.set k.val r }

/-- The latch of a number, when owned. -/
def State.latchAt (s : State) (idx : Nat) : Option Latch :=
  (s.hbm.latches.find? fun e => e.1 == idx).map fun e => e.2

/-- Setting a latch. -/
def State.setLatch (s : State) (idx : Nat) (l : Latch) : State :=
  { s with hbm := { s.hbm with latches := Tab.set s.hbm.latches idx l } }

/-! ## Latches (R100, R105, R106) -/

/-- RLYLD, or the write-back of RLPRE: what has gone wrong in the row is found and written back corrected, and the bank is left
precharged (R100, R115, R117). -/
def State.rowBack (s : State) (dpa : Nat) : State :=
  let s := (List.range 32).foldl (fun s i =>
    (s.readSector (dpa / 1024 * 32 + i) 13 0xFFFF).freshSector (.hbm ((dpa / 1024 * 32 + i) * 32) none)) s
  (s.writeBack dpa).prechargeBank (bankOf dpa)

/-- RLACT for a slot: the latch takes the row, one activate counts, the bank is left precharged, the slot is HELD (R100, R106, R107). -/
def State.rlact (s : State) (c n : Nat) (k : KReg) : State :=
  let r := s.row c n k
  let s := s.setLatch (latchIdx r.dpa) { valid := true, row := rowOf r.dpa, core := c, slot := n, k := k }
  let s := (s.addAct (bankOf r.dpa)).prechargeBank (bankOf r.dpa)
  let s := s.setRow c n k { r with st := .held }
  s.modTask c n fun t => { t with acts := t.acts + 1 }

/-- A latch is freed, its row written back if the latch still holds it (R100). -/
def State.freeLatch (s : State) (dpa : Nat) : State :=
  let s := if s.hbm.latched dpa then s.rowBack dpa else s
  { s with hbm := { s.hbm with latches := Tab.del s.hbm.latches (latchIdx dpa) } }

/-- An opener leaves the wait order of its latch (R105). -/
def State.dropWaiter (s : State) (c n : Nat) (k : KReg) : State :=
  { s with hbm := { s.hbm with waiters := s.hbm.waiters.filter fun w => !(w.2.1 == c && w.2.2.1 == n && w.2.2.2 == k) } }

/-- RLREL, task end, and the first part of RLOPEN on a slot that is not EMPTY (R106). -/
def State.releaseRow (s : State) (c n : Nat) (k : KReg) : State :=
  let r := s.row c n k
  match r.st with
  | .held | .yieldedRfm | .yieldedTherm => (s.freeLatch r.dpa).setRow c n k {}
  | .opening => (s.dropWaiter c n k).setRow c n k {}
  | .empty | .lost | .saved => s.setRow c n k {}

/-- Every slot of a task released (R106, R171). -/
def State.releaseRows (s : State) (c n : Nat) : State :=
  (List.finRange 16).foldl (fun s k => s.releaseRow c n k) s

/-- RLPRE for an RFM or self-refresh: the row is written back and the latch stays owned (R106, R110, R112). -/
def State.yieldRow (s : State) (idx : Nat) (st : RowSt) : State :=
  match s.latchAt idx with
  | some l =>
    let r := s.row l.core l.slot l.k
    if r.st = .held then
      ((s.rowBack r.dpa).setLatch idx { l with valid := false }).setRow l.core l.slot l.k { r with st := st }
    else s
  | none => s

/-- RLACT of a yielded row after the RFM or self-refresh (R106). -/
def State.relatch (s : State) (idx : Nat) (st : RowSt) : State :=
  match s.latchAt idx with
  | some l => if (s.row l.core l.slot l.k).st = st then s.rlact l.core l.slot l.k else s
  | none => s

/-- The latches of a bank. -/
def bankLatches (bank : Nat) : List Nat := [bank * 4, bank * 4 + 1, bank * 4 + 2, bank * 4 + 3]

/-- Granting a free latch to its first waiting opener, when its bank takes an activate of it (R105, R113). -/
def State.grantLatch (s : State) (idx : Nat) : State :=
  if (s.latchAt idx).isSome then s
  else
    match s.hbm.waiters.find? fun w => w.1 == idx with
    | none => s
    | some (_, c, n, k) =>
      if s.canAct (idx / 4) then
        match s.enterBank c (idx / 4) with
        | some s => (s.dropWaiter c n k).rlact c n k
        | none => s
      else s

/-! ## Reservations (R113, R114) -/

/-- BANKCLOSE of a bank: it is precharged and the reservation ends (R114). -/
def State.closeBank (s : State) (c bank : Nat) : State :=
  (s.setBank bank { s.bank bank with openRow := none, pass := false }).modCore c fun k =>
    { k with resv := k.resv.filter fun r => r.1 != bank }

/-- BANKCLOSE of every bank that a task reserved (R114). -/
def State.closeBanks (s : State) (c n : Nat) : State :=
  ((s.core c).resv.filter fun r => r.2 == n).foldl (fun s r => s.closeBank c r.1) s

end Sys2Proof.Machine
end

