-- ==== Sys2Proof/Machine/Records.lean ====
section
/-! DEFINITION. What the device records and reports: the strandline recorder, the tidemark log, completion rings and words, and device-level faults (R88, R89, R93, R95, R96, R115, R157, R170, R172). -/

namespace Sys2Proof.Machine

/-! ## Errors that an access finds (R115) -/

/-- The agent code of an access, and its core (R115, R142). -/
def Acc.agent (x : Acc) : Nat × Nat :=
  if x.mgmt then (12, 0xFFFF)
  else match x.cache with
  | .scalar c => (if x.x then 7 else 0, c)
  | .stream c e => (match e with | .vx => 1 | .tx => 2 | .mx => 3 | .cx => 4 | .fx => 5, c)
  | .sequencer => (6, 0xFFFF)
  | .ingress => (9, 0xFFFF)
  | .atc => (10, 0xFFFF)

/-- A write of an engine takes the lines it touches from its unit's data cache (R243). -/
def State.engineWrites (s : State) (x : Acc) (l : Pieces) : State :=
  match x.cache with
  | .stream c _ => s.dropLines c l
  | .scalar _ | .sequencer | .ingress | .atc => s

/-- What an access does to the sectors of its pieces: a read finds their errors, a write those of the sectors it merges with (R115). -/
def State.touch (s : State) (x : Acc) (l : Pieces) : State :=
  let s := if x.w then (s.mergeRead l).engineWrites x l else s
  if x.r || x.x then s.readSectors x.agent.1 x.agent.2 l else s

/-- An access waits for a bank: a unit's has a place in the order of arrival (R112). -/
def State.awaitBank (s : State) (x : Acc) (b : Nat) : State := if x.unit < Config.cores then s.lineUp b (.unit x.unit false) else s

/-- The pieces of an access: located, the banks of what the data cache does not serve taking it, the errors of its sectors found (R107, R109, R110, R112, R113, R115, R124, R140). -/
def resolve (s : State) (x : Acc) (va : Addr) (n : Nat) : State × Except (Stop × Addr) Pieces :=
  match locate s x va n with
  | (s, .error (.bank b, fail)) => (s.awaitBank x b, .error (.bank b, fail))
  | (s, .ok l) =>
    if x.raw then (s, .ok l)
    else
      let m := if x.dc then s.missed x.unit l else l
      match useRows x.unit (Pieces.rows m) s with
      | .ok s => (s.touch x m, .ok l)
      | .error b => (s.awaitBank x b, .error (.bank b, va))
  | r => r

/-! ## Completion rings (R88, R89) -/

/-- Entries of a completion ring. -/
def LPage.ringSize (p : LPage) : Nat := 2 ^ (6 + p.sz.toNat)

/-- Capacity of a completion ring (R88). -/
def LPage.capacity (p : LPage) : Nat := Nat.min p.ringSize 65535

/-- The ring is full (R88). -/
def LPage.full (p : LPage) : Bool := (p.tail - p.head).toNat == p.capacity

/-- A sweep's pool entry is given up (R155). -/
def State.dropSweep (s : State) (id : BitVec 32) : State :=
  { s with sweeps := s.sweeps.filter fun w => !(w.id == id && w.ended.isSome) }

/-- Writing one completion record into its ring (R88). -/
def State.writeComp (s : State) (k : Nat) (r : CompRec) : State :=
  let p := s.lpage k
  let phase : Nat := if p.written / p.ringSize % 2 = 0 then 1 else 0
  let bytes := toBytes r.seq.toNat 2 ++ [r.status, r.reason] ++ toBytes r.sweep.toNat 4 ++ toBytes r.time.toNat 8 ++
    toBytes r.iters.toNat 8 ++ List.replicate 7 0 ++ toBytes phase 1
  let s := s.write (.host (p.base.toNat * 4096 + 32 * (p.tail.toNat % p.ringSize))) bytes
  let s := s.setLpage k { p with tail := p.tail + 1, written := p.written + 1, openCnt := p.openCnt - 1 }
  let s := if p.irq then s.evt p.vec else s
  s.dropSweep r.sweep

/-- Writing the held records of a page while its ring has room and a port is up (R80, R89). (DEDUCED, unsafe, log 61) -/
def flushRing (k : Nat) : Nat → State → State
  | 0, s => s
  | fuel + 1, s =>
    let p := s.lpage k
    match p.held with
    | [] => s
    | r :: rest =>
      if p.full || !(s.zcl0 || s.zcl1) then s
      else flushRing k fuel ((s.setLpage k { p with held := rest }).writeComp k r)

/-- A completion record is due (R88, R89). -/
def State.pushComp (s : State) (k : Nat) (r : CompRec) : State :=
  let p := s.lpage k
  flushRing k (p.held.length + 1) (s.setLpage k { p with held := p.held ++ [r] })

/-! ## Completion words (R157) -/

/-- The completion word. -/
def compWord (status reason : BitVec 8) (iters : Nat) : Nat :=
  iters % 2 ^ 48 * 65536 + reason.toNat * 256 + 128 + status.toNat % 128

/-- The access with which management writes or reads in an address space. -/
def mgmtAcc (asid : BitVec 16) (w : Bool) : Acc :=
  { cache := .ingress, unit := Config.cores, copy := true, asid := asid, r := !w, w := w, x := false, mgmt := true }

/-- The trap event of a completion word whose store faults: XLATE, with the reason where R132 has one (R157). (DEDUCED, unsafe, log 28) -/
def State.wordFault (s : State) (w : PendWord) (sub : BitVec 8) : State :=
  s.strandEvent 0x01 0xFFFF ([cXLATE, sub, 0xFF, 2] ++ toBytes w.notify.toNat 10)

/-- A completion word is kept until its store can be performed. -/
def State.keepWord (s : State) (w : PendWord) : State := { s with words := s.words ++ [w] }

/-- A completion word is written, or its store has faulted: a child's pool entry is given up (R155, R157). -/
def State.wordDone (s : State) (w : PendWord) : State := match w.child with | some id => s.dropSweep id | none => s

/-- Writing a completion word; one that waits for the host IOMMU or a bank is kept, a faulting store is recorded and dropped. -/
def State.storeWord (s : State) (w : PendWord) : State :=
  if w.notify.toNat % 8 ≠ 0 ∨ vaRegion w.notify = .scratch then (s.wordFault w 0).wordDone w
  else match resolve s (mgmtAcc w.asid true) w.notify 8 with
  | (s, .ok l) => (s.writeAll l (toBytes w.word.toNat 8)).wordDone w
  | (s, .error (.xlt _ _, _)) => s.keepWord w
  | (s, .error (.bank b, _)) => (s.lineUp b (.word w)).keepWord w
  | (s, .error (.absent, _)) => (s.wordFault w xNOTMAPPED).wordDone w
  | (s, .error (.trap code sub, _)) => (s.wordFault w (if code = cXLATE then sub else 0)).wordDone w
  | (s, .error (.poison, _)) | (s, .error (.frozen _, _)) => (s.wordFault w 0).wordDone w

/-- The completion word at a nonzero NOTIFY (R157); a child's pool entry goes with it (R155). -/
def State.writeWord (s : State) (asid : BitVec 16) (notify : Addr) (status reason : BitVec 8) (iters : Nat)
    (child : Option (BitVec 32) := none) : State :=
  let w : PendWord := { asid := asid, notify := notify, word := BitVec.ofNat 64 (compWord status reason iters), child := child }
  if notify = 0 then s.wordDone w else s.storeWord w

/-- Trying the kept completion words again. -/
def State.retryWords (s : State) : State :=
  s.words.foldl (fun s w => s.storeWord w) { s with words := [] }

/-! ## Ending sweeps (R170 to R172) -/

/-- A task belongs to a sweep. -/
def Task.of (t : Task) (id : BitVec 32) : Bool := decide (t.st ≠ .idle) && t.sweep == id

/-- Entries of a unit that belong to tasks of a sweep. -/
def State.entriesOf (s : State) (id : BitVec 32) : Bool :=
  s.cores.any fun e => e.2.queue.any fun q => (Tab.get Task.idle e.2.slots q.slot).sweep == id && e.2.tenant == some id

/-- The sweep's part of what has been held up is over: no entry in an engine and no request without its response (R172). -/
def State.quiet (s : State) (id : BitVec 32) : Bool :=
  !(s.entriesOf id) && !(s.outst.any fun o => o.sweep == id)

/-- Completing an ended sweep when nothing of it is in flight, whatever ended it: its word, then its record; a child's pool entry is given up
once its word is written; an exported one reports what it completed here (R88, R155, R157, R172, R198). -/
def State.tryComplete (s : State) (id : BitVec 32) : State :=
  match s.sweep id with
  | none => s
  | some w =>
    match w.ended with
    | none => s
    | some (status, reason) =>
      if w.reported || !(s.quiet id) then s
      else
        let iters := if status = 7 then w.done else w.doneBefore + w.done
        let s := s.modSweep id fun w => { w with reported := true }
        match w.src with
        | .launch k seq =>
          (s.writeWord w.asid w.rec'.notify status reason iters).pushComp k
            { seq := seq, status := status, reason := reason, sweep := id, time := BitVec.ofNat 64 s.ftime,
              iters := BitVec.ofNat 64 iters }
        | .child _ => s.writeWord w.asid w.rec'.notify status reason iters (some id)

/-- A slot leaves its barriers; a departure may complete one (R168, R343). -/
def Barrier.leave (b : Barrier) (n : Nat) : Barrier :=
  let bit : BitVec 8 := 1 <<< n
  if b.member &&& bit = 0 then b
  else
    let m := b.member &&& ~~~bit
    let a := b.arrived &&& ~~~bit
    if a = m then { member := m, arrived := 0, phase := !b.phase } else { b with member := m, arrived := a }

/-- The slot at a core leaves every barrier of its unit. -/
def State.leaveBars (s : State) (c n : Nat) : State :=
  s.modCore c fun k => { k with bars := k.bars.map fun (e : Nat × Barrier) => (e.1, e.2.leave n) }

/-- A slot becomes IDLE: row lines released, reservations closed, barriers left (R106, R114, R168, R171). -/
def State.idleTask (s : State) (c n : Nat) : State :=
  let s := (s.releaseRows c n).closeBanks c n
  let s := s.leaveBars c n
  s.modTask c n fun t => { t with st := .idle, wait := .none, waitFrom := none, regions := [], depth := 0 }

/-- A unit holds a task. -/
def Core.busy (k : Core) : Bool := k.slots.any fun e => e.2.st != .idle

/-- A tenancy that has ended begins to clear its unit (R159). -/
def State.endTenancy (s : State) (c : Nat) : State :=
  s.modCore c fun k => { k with clearing := true }

/-- Slots of a core that hold tasks of a sweep. -/
def State.slotsOf (s : State) (c : Nat) (id : BitVec 32) : List Nat :=
  (List.range 8).filter fun n => (s.task c n).of id

/-- The sweep's threads stop (R120, R170). -/
def State.stopThreads (s : State) (id : BitVec 32) : State :=
  s.mapThreads fun t => if t.st ≠ .idle ∧ t.sweep = id then { t with st := .idle, units := [], cause := 0 } else t

/-- The end of a sweep: its queued and frozen entries go, its tasks become IDLE, its threads stop, its units clear, its images are freed,
and its completion is due (R170). -/
def State.endSweep (s : State) (id : BitVec 32) (status reason : BitVec 8) : State :=
  let s := s.modSweep id fun w => if w.ended.isSome then w else { w with ended := some (status, reason) }
  let units := (s.cores.filter fun e => e.2.tenant == some id).map fun e => e.1
  let s := units.foldl (fun s c =>
    let s := s.modCore c fun k => { k with queue := k.queue.filter fun q => q.started && !q.frozen && q.pageHeld.isNone }
    let s := (s.slotsOf c id).foldl (fun s n => s.idleTask c n) s
    s.endTenancy c) s
  let s := s.stopThreads id
  let s := { s with images := s.images.filter fun i => !(i.sweep == id) }
  s.tryComplete id

/-! ## Device-level faults (R5, R93) -/

def fPOISON : BitVec 8 := 0x01
def fMXCHECK : BitVec 8 := 0x02
def fTHERMAL : BitVec 8 := 0x03
def fINTERNAL : BitVec 8 := 0x04
def fHOSTLINK : BitVec 8 := 0x05
def fHOSTRESET : BitVec 8 := 0x06
def fDEVFAULT : BitVec 8 := 0x07

/-- RLPRE of every latch: those that hold a row write it back, and none stays owned or waited for (R100, R108, R117). -/
def State.preLatches (s : State) : State :=
  let s := s.hbm.latches.foldl (fun s (e : Nat × Latch) => if e.2.valid then s.rowBack (rowDpa (e.1 / 4) e.2.row) else s) s
  { s with hbm := { s.hbm with latches := [], waiters := [] } }

/-- Every piece of in-flight work is discarded: tasks, queues, images, threads, fabric requests, parked faults (R5).
Latches are written back unless the clocks have stopped (R108). -/
def State.discardWork (s : State) (writeBack : Bool) : State :=
  let s := if writeBack then s.preLatches else s.loseLatches
  let s := (s.cores.flatMap fun (e : Nat × Core) => e.2.resv.map fun r => (e.1, r.1)).foldl (fun s r => s.closeBank r.1 r.2) s
  let s := s.mapCores fun k => { k with
    queue := [], resv := [], dcache := [], claim := none, freeze := none
    slots := k.slots.map fun (t : Nat × Task) =>
      (t.1, { t.2 with st := .idle, wait := .none, waitFrom := none, rows := Vector.replicate 16 {}, regions := [] }) }
  let s := s.mapThreads fun t => { t with st := .idle, units := [], cause := 0 }
  { s with
    outst := [], xfers := [], ords := [], ingress := [], images := [], faults := [], xlts := [], xltAns := [] }

/-- FAULTED completions, with this reason, of every sweep without a record, also of one that had ended (R93). One whose record was due and held
for want of room in its ring keeps the status and the reason it was due with (R89; DEDUCED, unsafe, log 64). -/
def faultSweeps (reason : BitVec 8) : List Sweep → State → State
  | [], s => s
  | w :: ws, s =>
    let s := s.modSweep w.id fun w => if w.reported then w else { w with ended := some (1, reason) }
    faultSweeps reason ws (s.tryComplete w.id)

/-- An EVT message on each page with IRQ = 1 (R93). -/
def State.faultEvents (s : State) : State :=
  s.lpages.foldl (fun s e => if e.2.irq then s.evt e.2.vec else s) s

/-- A device-level fault (R93); a fault that is already outstanding keeps its reason. (DEDUCED, unsafe, log 64) -/
def State.deviceFault (s : State) (reason : BitVec 8) : State :=
  if s.faulted then s
  else
    let s := { s with faulted := true, freason := reason }
    let s := s.strandEvent 0x0A 0 [reason]
    let s := s.discardWork (reason != fTHERMAL)
    let s := faultSweeps reason s.sweeps s
    s.faultEvents

end Sys2Proof.Machine
end

