-- ==== Sys2Proof/Machine/Ops.lean ====
section
/-! DEFINITION. The shared operations of instructions: registers, Continue, semaphores, landing words, taking a trap and returning from it, containment, the holding of tasks, and the frame of a scalar instruction. -/

namespace Sys2Proof

/-- Code of an engine (R178). -/
def Eng.code : Eng → Nat
  | .vx => 1 | .tx => 2 | .mx => 3 | .cx => 4 | .fx => 5

/-- The engines in the order of R177. -/
def Eng.all : List Eng := [.vx, .tx, .mx, .cx, .fx]

/-- The scalar register an engine entry writes (R361). -/
def Instr.engineDest : Instr → Option SReg
  | .vextr _ _ d _ _ | .mpopc _ d _ | .txrd _ d _ _ | .mxchk _ (.read d _) | .mxmode _ (.read d) | .mxmode _ (.set d _)
  | .mxmode _ (.clri d) | .mxmode _ (.setclri d _) | .mxagen _ (.read d _) | .rlstat _ d _ | .sqload _ _ d _ _ _ | .sqstart _ d _ _
  | .sqstop _ d _ | .sqstat _ d _ | .ratom _ _ _ _ false d _ _ _ | .rcas _ _ _ _ d _ _ _ | .shupd _ d _ _ | .grant _ d _ => some d
  | _ => none

/-- A release at .fab or .sys waits until the task's earlier puts and remote stores are acknowledged (R242). -/
def OrdScope.awaits (o : OrdScope) : Bool :=
  (match o.ord with | .rel | .ar => true | .rlx | .acq => false) && (match o.scope with | .fab | .sys => true | .core | .dev => false)

/-- A load or read-modify-write is an acquire at .dev or wider, which empties the data cache (R241, R243). -/
def OrdScope.invalidates (o : OrdScope) : Bool :=
  (match o.ord with | .acq | .ar => true | .rlx | .rel => false) && o.scope != .core

end Sys2Proof

namespace Sys2Proof.Machine

/-! ## Registers (R212) -/

/-- s0 reads zero. -/
def Task.sreg (t : Task) (r : SReg) : Word := if r.val = 0 then 0 else t.s[r.val]
/-- A write to s0 is discarded. -/
def Task.setS (t : Task) (r : SReg) (x : Word) : Task := if r.val = 0 then t else { t with s := t.s.set r.val x }
def Task.areg (t : Task) (r : AReg) : Addr := t.a[r.val]
def Task.setA (t : Task) (r : AReg) (x : Addr) : Task := { t with a := t.a.set r.val x }
/-- p7 reads true. -/
def Task.preg (t : Task) (r : PReg) : Bool := if r.val = 7 then true else t.p[r.val]
/-- A write to p7 is discarded. -/
def Task.setP (t : Task) (r : PReg) (x : Bool) : Task := if r.val = 7 then t else { t with p := t.p.set r.val x }
def Task.vreg (t : Task) (r : VReg) : VWord := t.v[r.val]
def Task.setV (t : Task) (r : VReg) (x : VWord) : Task := { t with v := t.v.set r.val x }
def Task.mreg (t : Task) (r : MReg) : Mask := t.m[r.val]
def Task.setM (t : Task) (r : MReg) (x : Mask) : Task := { t with m := t.m.set r.val x }

/-! ## Continue (R326) -/

/-- First address past a loop's body. -/
def Loop.endAddr (l : Loop) : Addr := l.start + l.len.setWidth 80 * 12

/-- Continue at a depth: levels that end at `pc` are counted down, innermost first. -/
def contAt : Nat → Task → Addr → Task
  | 0, t, pc => { t with pc := pc, depth := 0 }
  | d + 1, t, pc =>
    let l := t.loops.toArray.getD d {}
    if pc = l.endAddr then
      let t := { t with loops := t.loops.setIfInBounds d { l with cnt := l.cnt - 1 } }
      if l.cnt - 1 ≠ 0 then { t with pc := l.start, depth := d + 1 } else contAt d t pc
    else { t with pc := pc, depth := d + 1 }

/-- Continue(t, pc) of R326; loops are suspended in a handler (R180). -/
def Task.cont (t : Task) (pc : Addr) : Task := if t.inh then { t with pc := pc } else contAt t.depth t pc

/-! ## Semaphores (R215 to R219) -/

/-- A signal of n: saturating, with the sticky overflow flag (R215). -/
def Sem.signal (q : Sem) (n : Nat) : Sem :=
  if 65535 < q.count.toNat + n then { q with count := 0xFFFF, ovf := true }
  else { q with count := q.count + BitVec.ofNat 16 n }

/-- Signal(q, n) at the unit of a core. -/
def State.signal (s : State) (c : Nat) (q : BitVec 8) (n : Nat) : State :=
  if n = 0 then s else s.setSem c q.toNat ((s.sem c q.toNat).signal n)

/-- A signal from outside the unit also sets EXT (R219). -/
def State.signalExt (s : State) (c : Nat) (q : BitVec 8) (n : Nat) : State :=
  if n = 0 then s else s.setSem c q.toNat { (s.sem c q.toNat).signal n with ext := true, dev := true }

/-- A signal of the unit's own engine that stands for an outside agent's bytes too: a wait it meets synchronises with them (R246, R248). -/
def State.signalDev (s : State) (c : Nat) (q : BitVec 8) (n : Nat) : State :=
  if n = 0 then s else s.setSem c q.toNat { (s.sem c q.toNat).signal n with dev := true }

/-- One test of a wait with its subtraction (R218); none when unmet. -/
def State.semTake (s : State) (c : Nat) (q : BitVec 8) (n : Nat) : Option State :=
  if n = 0 then some s else if n ≤ (s.sem c q.toNat).count.toNat then some (s.takeSem c q.toNat n) else none

/-! ## Landing words (R220 to R222) -/

/-- A landing word's 16 bytes. -/
structure LandingWord where
  target : Nat
  count : Nat
  gen : BitVec 16
  sem : BitVec 8
  flags : BitVec 8
deriving DecidableEq, Repr

def LandingWord.ofBits (b : BitVec 128) : LandingWord :=
  ⟨(b.extractLsb' 0 48).toNat, (b.extractLsb' 48 48).toNat, b.extractLsb' 96 16, b.extractLsb' 112 8, b.extractLsb' 120 8⟩

def LandingWord.bytes (w : LandingWord) : List Byte :=
  toBytes w.target 6 ++ toBytes w.count 6 ++ toBytes w.gen.toNat 2 ++ [w.sem, w.flags]

/-- LandCount on the word's contents: the new word and the number of advances (R221). -/
def LandingWord.add (w : LandingWord) (n : Nat) : LandingWord × Nat :=
  if w.flags.getLsbD 7 then (w, 0)
  else if w.flags.extractLsb' 1 6 ≠ 0 then ({ w with flags := w.flags ||| 0x80 }, 0)
  else
    let cnt := Nat.min (w.count + n) (2 ^ 48 - 1)
    if w.target = 0 then ({ w with count := cnt }, 0)
    else ({ w with count := cnt % w.target, gen := w.gen + BitVec.ofNat 16 (cnt / w.target) }, cnt / w.target)

/-- The landing word at an offset of a unit's scratchpad. -/
def State.landing (s : State) (u o : Nat) : LandingWord := .ofBits (leBits 128 (s.spBytes u o 16))

/-- The signal of an advance of the landing word at a place, at the unit's semaphores or those of an image; `outside` when the advance is
another unit's agent's (R191, R219, R248). -/
def State.signalAt (s : State) (p : Place) (q : BitVec 8) (n : Nat) (outside : Bool) : State :=
  match p with
  | .img w u _ =>
    s.modImage w u fun i =>
      let x := (Tab.get ({} : Sem) i.sems q.toNat).signal n
      { i with sems := Tab.set i.sems q.toNat { x with ext := x.ext || outside } }
  | .spm u o => if outside then s.signalExt u q n else if (s.core u).lwDev.has o then s.signalDev u q n else s.signal u q n
  | _ => s

/-- The landing word at a place has counted bytes of an agent outside the unit (R219, R248). -/
def State.countedBy (s : State) (p : Place) (outside : Bool) : State :=
  match p with
  | .spm u o => if outside then s.modCore u fun k => { k with lwDev := k.lwDev.add o } else s
  | _ => s

/-- LandCount(w, n) of R221 on the word at a place; `outside` when the bytes are another unit's agent's (R219). -/
def State.landAt (s : State) (p : Place) (n : Nat) (outside : Bool) : State :=
  if n = 0 || s.poisoned p then s
  else
    let w := LandingWord.ofBits (leBits 128 (s.read p 16))
    if w.flags.getLsbD 7 then s
    else
      let (w', adv) := w.add n
      let s := (s.write p w'.bytes).countedBy p outside
      if adv ≠ 0 ∧ w'.flags.getLsbD 0 then s.signalAt p w'.sem adv outside else s

/-- LandCount on the word at an offset of a unit's scratchpad. -/
def State.landCount (s : State) (u o n : Nat) (outside : Bool) : State := s.landAt (.spm u o) n outside

/-! ## Waits and their count (R186, R189) -/

/-- A core's cycle: its cluster's, without those of debug halts (R189, R230). -/
def State.now (s : State) (c : Nat) : Nat := (s.cluster (c / 18)).cycles - (s.core c).cycHeld

/-- A wait begins: the count runs from now unless one is already in force. -/
def Task.startWait (t : Task) (now : Nat) : Task := { t with waitFrom := some (t.waitFrom.getD now) }

/-- The wait in force ends. -/
def Task.endWait (t : Task) : Task := { t with wait := .none, waitFrom := none, waitAcc := 0 }

/-- An instruction has issued: the count goes on only for a wait of the task's own commands (R186). -/
def Task.pastWait (t : Task) : Task := if t.wait = .none ∧ t.waitFrom.isSome then t else t.endWait

/-- The wait count at a cycle (R186). -/
def Task.waitCount (t : Task) (now : Nat) : Nat := t.waitAcc + (match t.waitFrom with | some f => now - f | none => 0)

/-- The task is held at its instruction in a state; one that only timing holds stays READY, which counts nothing (R166, R186).
(DEDUCED, unsafe, log 47) -/
def State.holdTask (s : State) (c n : Nat) (st : TaskSt) (w : Wait) : State :=
  s.modTask c n fun t => { (if st = .ready then t else t.startWait (s.now c)) with st := st, wait := w }

/-- The hold ends: READY at the instruction. -/
def State.readyTask (s : State) (c n : Nat) : State :=
  s.modTask c n fun t => { t.endWait with st := .ready }

/-! ## Ranks and pending traps (R176, R177, R192) -/

/-- Rank of a cause (R176). -/
def trapRank (code : BitVec 8) : Nat :=
  match code.toNat with
  | 0x01 => 1 | 0x02 => 2 | 0x16 => 3 | 0x13 => 4 | 0x14 => 5 | 0x04 => 6 | 0x05 => 7 | 0x15 => 8 | 0x06 => 9 | 0x07 => 10
  | 0x10 => 11 | 0x0F => 12 | 0x0B => 13 | 0x08 => 14 | 0x09 => 15 | 0x0A => 16 | 0x0C => 17 | 0x17 => 18 | 0x18 => 19
  | 0x0D => 20 | 0x0E => 21 | _ => 22

def Task.pend (t : Task) : Eng → Option Pending
  | .vx => t.pendVx | .tx => t.pendTx | .mx => t.pendMx | .cx => t.pendCx | .fx => t.pendFx

def Task.setPend (t : Task) (e : Eng) (p : Option Pending) : Task :=
  match e with
  | .vx => { t with pendVx := p }
  | .tx => { t with pendTx := p }
  | .mx => { t with pendMx := p }
  | .cx => { t with pendCx := p }
  | .fx => { t with pendFx := p }

/-- A strandline trap event (R207). -/
def State.trapEvent (s : State) (c n : Nat) (code sub : BitVec 8) (outcome : Nat) (addr : Addr) (eng : Nat) : State :=
  s.strandEvent 0x01 c ([code, sub] ++ toBytes n 1 ++ toBytes outcome 1 ++ toBytes addr.toNat 10 ++ toBytes eng 1)

/-- Causes whose rules name no address for EADDR. -/
def nameless (code : BitVec 8) : Bool :=
  code == cILLEGAL || code == cBADSTATUS || code == cLOOPNEST || code == cSPAWNFULL || code == cROWQUOTA || code == cDEADWAIT ||
  code == cWAITTIME

/-- The address a trap records: its own, or a free value where no rule names one (DESIGN CHOICE, safe, log 22). -/
def State.trapAddr (s : State) (code : BitVec 8) (addr : Addr) : Addr :=
  if nameless code then Config.freeEaddr s.freeCtr else addr

/-- A trap of an engine becomes pending; a second one is merged and its cause recorded (R177, R192). -/
def State.pendTrap (s : State) (c n : Nat) (e : Eng) (p : Pending) : State :=
  let p := { p with addr := s.trapAddr p.code p.addr }
  match (s.task c n).pend e with
  | none => s.modTask c n fun t => t.setPend e (some p)
  | some q =>
    let (keep, drop) := if trapRank p.code < trapRank q.code then (p, q) else (q, p)
    (s.modTask c n fun t => t.setPend e (some keep)).trapEvent c n drop.code drop.sub 0 drop.addr e.code

/-! ## Taking a trap (R179, R217) -/

/-- The scalar pipeline's access. -/
def scalarAcc (c : Nat) (asid : BitVec 16) (r w x : Bool) : Acc :=
  { cache := .scalar c, unit := c, copy := false, asid := asid, r := r, w := w, x := x }

/-- The word at a task's PC, where it can be read. -/
def State.wordAt (s : State) (c n : Nat) : Option InstrWord :=
  let t := s.task c n
  match (s.core c).imem.find? fun e => e.1 == t.pc.toNat with
  | some e => some e.2
  | none =>
    if vaRegion t.pc = .scratch then none
    else
      match (locate s (scalarAcc c t.asid false false true) t.pc 12).2 with
      | .ok l => some (leBits 96 (s.readAll l))
      | .error _ => none

/-- The count that the instruction at PC has taken: an imported task's is named by the word there (R217, R335). -/
def State.tookAt (s : State) (c n : Nat) : Option (BitVec 8 × Nat) :=
  let t := s.task c n
  if t.pastSync then
    (s.wordAt c n).bind fun w =>
      match decode w with
      | .ok i => i.sync.bind fun y => if y.wcnt = 0 then none else some (y.wsem, y.wcnt.toNat)
      | .error _ => none
  else t.took

/-- The count that the instruction at PC took is returned (R217). -/
def State.returnTook (s : State) (c n : Nat) : State :=
  if (s.task c n).took.isSome || (s.task c n).pastSync then
    let u := s.modTask c n fun t => { t with took := none, pastSync := false }
    match s.tookAt c n with
    | none => u
    | some (q, k) => u.signal c q k
  else s

/-- A trap that is not delivered: the task becomes TRAPPED and its sweep ends with TASKTRAP (R170, R179). -/
def State.notDelivered (s : State) (c n : Nat) : State :=
  let s := s.modTask c n fun t => { t with st := .trapped }
  s.endSweep (s.task c n).sweep 1 0x10

/-- What a trap is taken with: cause, address, the pc to return to, positions, and the frozen command's engine. -/
structure Trap where
  code : BitVec 8
  sub : BitVec 8
  addr : Addr
  epc : Addr
  eng : Option Eng := none
  /-- The engine's command is frozen and may be replayed. -/
  frozen : Bool := false
  ecp : Nat := 0
  esp : Nat := 0
deriving DecidableEq, Repr

/-- ESW at trap entry (R178, R179). -/
def Trap.esw (x : Trap) (priv : Bool) : BitVec 64 :=
  (if priv then 2 else 0) |||
  (match x.eng with
   | some e => if x.frozen then BitVec.ofNat 64 (e.code * 2 ^ 40 + 2 ^ 39 + 2 ^ 38) else 0
   | none => 0)

/-- EnterTrap(t, code, sub, addr, epc) of R179, with the count returned and the wait in force abandoned. -/
def State.enterTrap (s : State) (c n : Nat) (x : Trap) : State :=
  let s := s.returnTook c n
  let t := s.task c n
  let e := match x.eng with | some e => e.code | none => 0
  if t.inh || t.hbase == 0 then (s.trapEvent c n x.code x.sub 2 x.addr e).notDelivered c n
  else
    (s.trapEvent c n x.code x.sub 0 x.addr e).modTask c n fun t =>
      { t.endWait with
        st := .ready
        esw := x.esw t.priv
        epc := x.epc
        ecause := BitVec.ofNat 64 (x.sub.toNat * 256 + x.code.toNat)
        eaddr := x.addr
        ecp := BitVec.ofNat 64 x.ecp
        esp := BitVec.ofNat 64 x.esp
        inh := true
        frozenEng := if x.frozen then x.eng else none
        pc := t.hbase }

/-- A trap at the issue of the instruction at PC (R177, R179). -/
def State.issueTrap (s : State) (c n : Nat) (code sub : BitVec 8) (addr : Addr) : State :=
  s.enterTrap c n { code := code, sub := sub, addr := s.trapAddr code addr, epc := (s.task c n).pc }

/-- The pending trap of lowest rank, equal ranks in engine order (R177). -/
def Task.firstPending (t : Task) : Option (Eng × Pending) :=
  Eng.all.foldl (fun best e =>
    match t.pend e, best with
    | none, b => b
    | some p, none => some (e, p)
    | some p, some (f, q) => if trapRank p.code < trapRank q.code then some (e, p) else some (f, q)) none

/-- The task's frozen command in an engine. -/
def State.frozenEntry (s : State) (c n : Nat) (e : Eng) : Option Entry :=
  (s.core c).queue.find? fun q => q.slot == n && q.eng == e && q.frozen

/-- Taking the pending trap at an issue boundary, with the positions of the engine's frozen command where it has one (R177, R179); none when
none is pending or the task is in a handler. -/
def State.takePending (s : State) (c n : Nat) : Option State :=
  let t := s.task c n
  if t.inh then none
  else
    match t.firstPending with
    | none => none
    | some (e, p) =>
      let at' := match s.frozenEntry c n e with
        | some q => (q.comm, q.spec)
        | none => (p.ecp, p.esp)
      let s := s.modTask c n fun t => t.setPend e none
      some (s.enterTrap c n
        { code := p.code, sub := p.sub, addr := p.addr, epc := t.pc, eng := some e,
          frozen := (s.frozenEntry c n e).isSome, ecp := at'.1, esp := at'.2 })

/-! ## Engine entries by task -/

/-- Changing the entries of a unit's queue that meet a test. -/
def State.modEntries (s : State) (c : Nat) (p : Entry → Bool) (f : Entry → Entry) : State :=
  s.modCore c fun k => { k with queue := k.queue.map fun q => if p q then f q else q }

/-- Removing the entries that meet a test. -/
def State.dropEntries (s : State) (c : Nat) (p : Entry → Bool) : State :=
  s.modCore c fun k => { k with queue := k.queue.filter fun q => !(p q) }

/-- A register reserved for an entry is released (R361). -/
def State.release (s : State) (c n : Nat) (i : Instr) : State :=
  match i.engineDest with
  | some d => if d.val = 0 then s else s.modTask c n fun t => { t with resvd := t.resvd.erase d }
  | none => s

/-- The register of an entry that leaves is released, unless it has been (R361). -/
def State.releaseEntry (s : State) (c : Nat) (q : Entry) : State := if q.freed then s else s.release c q.slot q.instr

/-- Requests and position records of an entry that leaves without completing: no landing word counts what still arrives (R183, R202). -/
def State.silence (s : State) (c : Nat) (q : Entry) : State :=
  if q.eng = .fx then
    let id := (s.task c q.slot).sweep
    { s with
      outst := s.outst.map fun o => if o.by c q.slot id && o.isn == q.isn then { o with lw := none } else o
      xfers := s.xfers.filter fun x => !(x.core == c && x.slot == q.slot && x.sweep == id && x.isn == q.isn) }
  else s

/-- Discarding one entry: its effects stand, its signal and its uncounted bytes are never added; a count it took goes back when `ret`
(R183, R217). -/
def State.discardEntry (s : State) (c : Nat) (q : Entry) (ret : Bool) : State :=
  let s := (s.dropEntries c fun x => x.slot == q.slot && x.isn == q.isn && x.eng == q.eng).silence c q
  let s := if q.frozen then s else s.release c q.slot q.instr
  match q.instr.sync with
  | some y => if ret && q.wmet then s.signal c y.wsem y.wcnt.toNat else s
  | none => s

/-! ## Return from a trap (R179, R183) -/

/-- TRET's conditions on ESW (R179). -/
def Task.eswBad (t : Task) : Bool :=
  t.esw.extractLsb' 48 16 != 0 || t.esw.extractLsb' 2 36 != 0 || t.esw.getLsbD 0 || (t.esw.getLsbD 1 && !t.priv)

/-- RLD and SLD, which park their task (R185). -/
def parks : Instr → Bool
  | .rld .. | .sld .. => true
  | _ => false

/-- A remote load of the task that is still under way parks it again (R177, R185). -/
def State.repark (s : State) (c n : Nat) : State :=
  match (s.core c).queue.find? fun q => q.slot == n && parks q.instr && !q.frozen with
  | some q => s.holdTask c n .parked (.remote q.isn)
  | none => s

/-- A register that an entry is to write is reserved (R361). -/
def State.reserve (s : State) (c n : Nat) (i : Instr) : State :=
  match i.engineDest with
  | some d => if d.val = 0 then s else s.modTask c n fun t => { t with resvd := d :: t.resvd }
  | none => s

/-- TRET past its checks: the frozen command is resumed from ECP or discarded, PRIV, INH and PC are restored (R179). -/
def State.trapReturn (s : State) (c n : Nat) : State :=
  let t := s.task c n
  let s :=
    if t.esw.getLsbD 39 then
      match t.frozenEng.bind fun e => s.frozenEntry c n e with
      | none => s
      | some q =>
        if t.esw.getLsbD 38 then
          (s.modEntries c (fun x => x.slot == n && x.isn == q.isn && x.eng == q.eng)
            fun x => { x with frozen := false, started := false, comm := t.ecp.toNat, spec := t.ecp.toNat, hdr := none, srcs := none,
                              segs := none }).reserve c n q.instr
        else s.discardEntry c q true
    else s
  s.modTask c n fun t => { t with priv := t.esw.getLsbD 1, inh := false, frozenEng := none, pc := t.epc }

/-! ## Containment (R201 to R203) -/

/-- Unwind(t, code, addr) of R202. (DEDUCED, unsafe, log 63) -/
def State.unwind (s : State) (c n : Nat) (code sub : BitVec 8) (addr : Addr) (comm spec : Nat) : State :=
  let s := s.returnTook c n
  let t := s.task c n
  match t.regions.getLast? with
  | none => s
  | some r =>
    let depth := t.regions.length
    let inside := fun (q : Entry) => q.slot == n && decide (depth ≤ q.rdepth)
    let gone := fun (q : Entry) => inside q && (!q.started || q.frozen || q.pageHeld.isSome)
    let removed := (s.core c).queue.filter gone
    let s := ((s.core c).queue.filter inside).foldl (fun s q => s.silence c q) s
    let s := removed.foldl (fun s q =>
      if q.frozen then s.modTask c n fun t => t.setPend q.eng none else s.releaseEntry c q) s
    let s := (s.dropEntries c gone).modEntries c inside fun q => { q with mute := true }
    let s := s.closeBanks c n
    s.modTask c n fun t =>
      { t.endWait with
        st := .ready
        depth := r.depth
        regions := t.regions.dropLast
        inh := r.inh
        ecause := BitVec.ofNat 64 (sub.toNat * 256 + code.toNat)
        eaddr := addr
        ecp := BitVec.ofNat 64 comm
        esp := BitVec.ofNat 64 spec
        epc := t.pc
        pc := r.handler }

/-- A POISON consumption or three-way MXCHECK at region depth `rdepth`: contained, or a device-level fault (R202, R203, R207). -/
def State.consume (s : State) (c n rdepth : Nat) (code sub : BitVec 8) (addr : Addr) (eng comm spec : Nat) : State :=
  let depth := if (s.task c n).st = .idle then 0 else (s.task c n).regions.length
  if 0 < depth ∧ depth ≤ rdepth then
    let s := s.trapEvent c n code sub 1 addr eng
    let s := s.tideEvent 0x01 c ([code, sub] ++ toBytes n 1 ++ [1] ++ toBytes addr.toNat 8)
    s.unwind c n code sub addr comm spec
  else
    (s.trapEvent c n code sub 3 addr eng).deviceFault (if code = cMXCHECK then fMXCHECK else fPOISON)

/-! ## Acknowledgements (R242, R249) -/

/-- An instruction whose acknowledgement a release at .fab or .sys awaits (R242). -/
def Instr.remoteWrite : Instr → Bool
  | .put .. | .rst .. | .ratom .. | .rcas .. | .sput .. | .sst .. => true
  | _ => false

/-- The kind of request such an instruction sends. -/
def ReqKind.remoteWrite : ReqKind → Bool
  | .put | .st | .atom .. | .cas .. | .sput => true
  | .get | .ld .. | .sget | .mgmt => false

/-- Every earlier put, remote store, remote atomic, SPUT and SST of the task is acknowledged (R242, R249). -/
def State.acked (s : State) (c n : Nat) : Bool :=
  !((s.core c).queue.any fun q => q.slot == n && Instr.remoteWrite q.instr) &&
  !(s.outst.any fun o => o.by c n (s.task c n).sweep && o.kind.remoteWrite)

/-! ## The copy lock (R226) -/

/-- The parts of a byte range in each 16-byte granule. -/
def granules (o n : Nat) : List (Nat × Nat) :=
  if n = 0 then []
  else
    (List.range ((o + n - 1) / 16 - o / 16 + 1)).map fun i =>
      let lo := Nat.max o ((o / 16 + i) * 16)
      (lo, Nat.min (o + n) ((o / 16 + i + 1) * 16) - lo)

/-- A locked range of a unit's scratchpad meets a physical range; a swizzle is its own inverse (R225, R226). -/
def Entry.locks (q : Entry) (off n : Nat) : Bool :=
  match q.lock with
  | some (o, k) =>
    if q.lockSwz = 0 then decide (o < off + n) && decide (off < o + k)
    else (granules off n).any fun g => decide (o < swizzle q.lockSwz g.1 + g.2) && decide (swizzle q.lockSwz g.1 < o + k)
  | none => false

/-- A copy that stands in the queue locks part of the range. -/
def State.lockedBy (queue : List Entry) (off n : Nat) : Bool := queue.any fun q => q.locks off n

/-- The first locked range that pieces of an access by unit `c` meet. -/
def lockHit (queue : List Entry) (c : Nat) : Pieces → Option (Nat × Nat)
  | [] => none
  | (.spm u o, n) :: l => if u = c && State.lockedBy queue o n then some (o, n) else lockHit queue c l
  | _ :: l => lockHit queue c l

/-! ## The frame of a scalar instruction (R216, R308, R333) -/

/-- How the action of an SC or SY instruction ends. -/
inductive Act
  /-- Performed; the task goes on at A + 12 (R326). -/
  | done (s : State)
  /-- Performed; the task goes on through Continue at an address. -/
  | cont (s : State) (pc : Addr)
  /-- Performed; control is at an address. -/
  | goto (s : State) (pc : Addr)
  /-- Performed, the PC being set or gone. -/
  | fin (s : State)
  /-- Performed by TRET: a remote load under way parks its task again. -/
  | ret (s : State)
  /-- An issue trap; nothing of the instruction is performed. -/
  | trap (s : State) (code sub : BitVec 8) (addr : Addr)
  /-- BREAK or SOFT: the PC is the one Continue produces (R352). -/
  | soft (s : State) (code : BitVec 8) (addr : Addr)
  /-- Poison consumed (R116). -/
  | poison (s : State) (addr : Addr)
  /-- Held in a state (R333). -/
  | hold (s : State) (st : TaskSt) (w : Wait)

/-- The instruction has issued: its number is used up, its wait is past. -/
def State.issued (s : State) (c n : Nat) : State :=
  s.modTask c n fun t => { t.pastWait with st := (if t.st = .idle then .idle else .ready), isn := t.isn + 1, took := none }

/-- The state after an action of an instruction at slot n of core c. (DEDUCED, unsafe, log 19) -/
def Act.run (y : Sync) (c n : Nat) : Act → State
  | .done s => ((s.issued c n).modTask c n fun t => t.cont (t.pc + 12)).signal c y.ssem y.sinc.toNat
  | .cont s pc => ((s.issued c n).modTask c n fun t => t.cont pc).signal c y.ssem y.sinc.toNat
  | .goto s pc => ((s.issued c n).modTask c n fun t => { t with pc := pc }).signal c y.ssem y.sinc.toNat
  | .fin s => (s.issued c n).signal c y.ssem y.sinc.toNat
  | .ret s => ((s.issued c n).repark c n).signal c y.ssem y.sinc.toNat
  | .trap s code sub addr => s.issueTrap c n code sub addr
  | .soft s code addr =>
    let s := (s.returnTook c n).modTask c n fun t => { t.cont (t.pc + 12) with isn := t.isn + 1 }
    s.enterTrap c n { code := code, sub := 0, addr := addr, epc := (s.task c n).pc }
  | .poison s addr => s.consume c n (s.task c n).regions.length cPOISON 0 addr 0 0 0
  | .hold s st w => s.holdTask c n st w

/-- The SYNC wait at issue: taken at most once for one issue; none when unmet (R216, R335). -/
def State.syncTake (s : State) (c n : Nat) (y : Sync) : Option State :=
  if y.wcnt = 0 || (s.task c n).took.isSome then some s
  else (s.semTake c y.wsem y.wcnt.toNat).map fun s => s.modTask c n fun t => { t with took := some (y.wsem, y.wcnt.toNat) }

/-- A thread that meets a word it cannot run goes to ERROR (R120, R306). -/
def State.threadError (s : State) (t : ThreadId) (cause : BitVec 8) : State :=
  s.setThread t { s.thread t with st := .error, cause := cause, units := [] }

/-- An SC or SY instruction of the current task: the ILLEGAL checks, the SYNC wait, then its own action (R308, R333). -/
def scalar (ill : Task → Bool) (y : Sync) (body : Nat → Nat → State → Act) (s : State) : Host.Outcome State Fault Refusal :=
  match s.cur with
  | .thread t => .next (s.threadError t cILLEGAL)
  | .task c n =>
    if ill (s.task c n) then .next (s.issueTrap c n cILLEGAL 0 0)
    else
      match s.syncTake c n y with
      | none => .next (s.holdTask c n .waiting (.sync y.wsem y.wcnt.toNat))
      | some s => .next ((body c n s).run y c n)

/-- Legal in every state. -/
def legal (_ : Task) : Bool := false

/-- An instruction that only changes the registers of its task. -/
def regOp (y : Sync) (f : Task → Task) (s : State) : Host.Outcome State Fault Refusal :=
  scalar legal y (fun c n s => .done (s.modTask c n f)) s

/-! ## Scalar memory accesses (R317, R140, R469) -/

/-- A scalar access that stops (R140, R141, R308). -/
def scalarStop (s : State) (c n : Nat) (x : Acc) (agent : BitVec 8) (va fail : Addr) : Stop → Act
  | .trap code sub => .trap s code sub va
  | .poison => .poison s fail
  | .absent =>
    if (s.asidEnt x.asid.toNat).nopf then .trap s cXLATE xNOTMAPPED va
    else
      .hold (s.pageFault x.asid fail (BitVec.ofNat 16 c) (BitVec.ofNat 8 n) agent x.bits
        (if x.x then .fetch c n else .task c n)) .parked (.page x.asid (fail.toNat / 65536) x.x)
  | .xlt p v => .hold s .ready (.xlt p v)
  | .bank b => .hold s .ready (.bank b)
  | .frozen _ => .trap s cSPACCESS 0 va

/-- A scalar access of `k` bytes aligned to `al`: its checks, the copy lock, then what is done with its pieces. -/
def scalarAccessAs (s : State) (c n : Nat) (va : Addr) (k al : Nat) (x : Acc) (f : State → Pieces → Act) : Act :=
  if va.toNat % al ≠ 0 then .trap s cALIGN 0 va
  else
    match resolve s x va k with
    | (s, .error (e, fail)) => scalarStop s c n x 0 va fail e
    | (s, .ok l) =>
      match lockHit (s.core c).queue c l with
      | some (o, m) => .hold s .waiting (.copyLock o m)
      | none => f s l

/-- A scalar access that memory serves. -/
def scalarAccess (s : State) (c n : Nat) (va : Addr) (k al : Nat) (r w : Bool) (f : State → Pieces → Act) : Act :=
  scalarAccessAs s c n va k al (scalarAcc c (s.task c n).asid r w false) f

/-- A scalar load of memory itself: poison is consumed (R116). -/
def scalarLoad (s : State) (c n : Nat) (va : Addr) (k : Nat) (f : State → List Byte → Act) : Act :=
  scalarAccess s c n va k k true false fun s l =>
    if (s.firstPoisonAll l).isSome then .poison s va else f (s.refresh c l) (s.readAll l)

/-- The data cache after an access with an order and a scope. -/
def State.acquired (s : State) (c : Nat) (o : OrdScope) : State := if o.invalidates then s.invalidate c else s

/-- LD and LDA: poison is consumed; the data cache may serve a load that does not empty it (R241, R243, R317, R320). -/
def cachedLoad (s : State) (c n : Nat) (va : Addr) (k : Nat) (o : OrdScope) (f : State → List Byte → Act) : Act :=
  scalarAccessAs s c n va k k { scalarAcc c (s.task c n).asid true false false with dc := !o.invalidates } fun s l =>
    if (s.firstPoisonAll l).isSome then .poison s va
    else if o.invalidates then f (s.invalidate c) (s.readAll l)
    else f (s.loadAll c l).1 (s.loadAll c l).2

/-- A scalar store, held while a release awaits acknowledgements (R242, R317, R320). -/
def scalarStore (s : State) (c n : Nat) (va : Addr) (o : OrdScope) (bs : List Byte) : Act :=
  scalarAccess s c n va bs.length bs.length false true fun s l =>
    if o.awaits && !(s.acked c n) then .hold s .waiting .fence else .done (s.storeAll c l bs)

end Sys2Proof.Machine
end

