-- ==== Sys2Proof/Machine/Operands.lean ====
section
/-! DEFINITION. Operand forms: scalar second operands, effective addresses, counts, vector elements, masks and widths (R289, R309, R337, R357 to R359, R373). -/

namespace Sys2Proof

/-- The low `w` bits of a word, extended to 64 by a type's signedness (R293). -/
def IntTy.ext (t : IntTy) (x : Word) : Word :=
  if t.signed then (x.setWidth t.w.bits).signExtend 64 else (x.setWidth t.w.bits).setWidth 64

/-- A value of a type as an exact integer (R293). -/
def IntTy.int (t : IntTy) (x : Nat) : Int :=
  if t.signed then (BitVec.ofNat t.w.bits x).toInt else (BitVec.ofNat t.w.bits x).toNat

/-- The least and greatest values of a type. -/
def IntTy.minVal (t : IntTy) : Int := if t.signed then -(2 ^ (t.w.bits - 1) : Nat) else 0
def IntTy.maxVal (t : IntTy) : Int := if t.signed then (2 ^ (t.w.bits - 1) : Nat) - 1 else (2 ^ t.w.bits : Nat) - 1

/-- Clamping to a type's range under SAT (R366). -/
def IntTy.clamp (t : IntTy) (x : Int) : Int := min (max x t.minVal) t.maxVal

end Sys2Proof

namespace Sys2Proof.Machine

/-! ## Scalar operands -/

/-- s[B], or SignExtend(X, 32) as a 64-bit pattern (R309). -/
def Task.srcB (t : Task) : SrcB → Word
  | .reg r => t.sreg r
  | .imm x => x.signExtend 64

/-- EA() of R289. -/
def Task.ea (t : Task) (m : MemOp) : Addr :=
  t.areg m.base + ((t.sreg m.index).signExtend 80 <<< m.scale.toNat) + m.disp.signExtend 80

/-- The address of ATOM and CAS (R318). -/
def Task.atomAddr (t : Task) (base : AReg) (disp : BitVec 28) : Addr := t.areg base + disp.signExtend 80

/-- A count as an exact number (R337). -/
def Task.cnt (t : Task) : Cnt → Nat
  | .imm k => k.toNat
  | .reg r => (t.sreg r).toNat

/-- The low `n` bytes of a word, least significant first (R8). -/
def lowBytes (x : Word) (n : Nat) : List Byte := toBytes x.toNat n

/-! ## Vector elements (R357) -/

/-- Element e of width w bits. -/
def elem (w : Nat) (v : VWord) (e : Nat) : Nat := v.toNat / 2 ^ (w * e) % 2 ^ w

/-- A register from its elements 0 upward; elements past the list are zero. -/
def ofElems (w : Nat) : List Nat → Nat
  | [] => 0
  | x :: xs => x % 2 ^ w + 2 ^ w * ofElems w xs

/-- A register whose elements `f` gives; none keeps the old element. -/
def mapElems (w : Nat) (old : VWord) (f : Nat → Option Nat) : VWord :=
  BitVec.ofNat 4096 (ofElems w ((List.range (4096 / w)).map fun e => (f e).getD (elem w old e)))

/-- Elements within a width of W lanes (R357). -/
def inWidth (w W : Nat) : Nat := 32 * W / w

/-! ## Masks (R358, R359) -/

/-- Register and bit that govern element e of width w in the group at M (R358). -/
def govern (w : Nat) (M : MReg) (e : Nat) : MReg × Nat :=
  if w = 64 then (M, 2 * e)
  else if w = 16 then (M + Fin.ofNat 8 (e % 2), e / 2)
  else if w = 8 then (M + Fin.ofNat 8 (e % 4), e / 4)
  else (M, e)

/-- Element e is active (R358). -/
def Task.active (t : Task) (w : Nat) (m : Option MReg) (e : Nat) : Bool :=
  match m with
  | none => true
  | some M => (t.mreg (govern w M e).1).getLsbD (govern w M e).2

/-- A mask with one bit changed. -/
def setBit (m : Mask) (i : Nat) (b : Bool) : Mask := if b then m ||| ((1 : Mask) <<< i) else m &&& ~~~((1 : Mask) <<< i)

/-- Writing the governing bit of element e; both bits for w = 64 (R359). -/
def Task.setMaskBit (t : Task) (w : Nat) (M : MReg) (e : Nat) (b : Bool) : Task :=
  let (r, i) := govern w M e
  let t := t.setM r (setBit (t.mreg r) i b)
  if w = 64 then t.setM r (setBit (t.mreg r) (i + 1) b) else t

/-- Writing the governing bits of elements 0 to n − 1. -/
def Task.setMask (t : Task) (w : Nat) (M : MReg) (n : Nat) (f : Nat → Bool) : Task :=
  (List.range n).foldl (fun t e => t.setMaskBit w M e (f e)) t

end Sys2Proof.Machine
end

