-- ==== Sys2Proof/Machine/Flags.lean ====
section
/-! DEFINITION. The conditions: integer compares (R311) and branch predicates (R291). This machine has no flags register; predicates p0 to p7 take its place (R212). -/

namespace Sys2Proof

/-- A condition on two 64-bit patterns (R311). -/
def Cond.eval {n : Nat} (c : Cond) (x y : BitVec n) : Bool :=
  match c with
  | .eq => x == y
  | .ne => x != y
  | .lt => x.slt y
  | .ge => y.sle x
  | .ltu => x.ult y
  | .geu => y.ule x
  | .le => x.sle y
  | .gt => y.slt x
  | .leu => x.ule y
  | .gtu => y.ult x

end Sys2Proof

namespace Sys2Proof.Machine

/-- A branch predicate (R291). -/
def Task.pred (t : Task) : Pred → Bool
  | .pos p => t.preg p
  | .neg p => !t.preg p
  | .always => true

/-- PSET's value (R312). -/
def Task.psetVal (t : Task) : PsetOp → PReg × Bool
  | .const d b => (d, b)
  | .and d a b => (d, t.preg a && t.preg b)
  | .or d a b => (d, t.preg a || t.preg b)
  | .xor d a b => (d, t.preg a != t.preg b)
  | .not d a => (d, !t.preg a)
  | .andn d a b => (d, t.preg a && !t.preg b)
  | .nz d a => (d, t.sreg a != 0)

end Sys2Proof.Machine
end

