-- ==== Sys2Proof/Machine/Engine.lean ====
section
/-! DEFINITION. The engines: issue into a queue, the start of an entry, how its performance ends, and its retirement (R181 to R184, R209 to R211, R216, R217, R360). -/

namespace Sys2Proof.Machine

/-- How a turn of an engine on an entry ends. -/
inductive POut
  /-- Every unit is performed. -/
  | done
  /-- Every unit is sent; the entry is performed when its responses have arrived (R216). -/
  | sent
  /-- The next unit cannot be performed yet. -/
  | stall
  /-- A perform trap: the entry freezes (R181). -/
  | trap (code sub : BitVec 8) (addr : Addr)
  /-- Poison consumed or a three-way MXCHECK (R202, R203). -/
  | poison (code : BitVec 8) (addr : Addr)
  /-- A page fault is queued: the entry freezes without a trap (R181). -/
  | page (asid : BitVec 16) (vpage : Nat)
deriving DecidableEq, Repr

/-- A turn of an engine: the state and the positions it leaves (R182). -/
structure PRes where
  s : State
  comm : Nat
  spec : Nat
  out : POut

/-- What an engine does with an entry of the unit at a core. -/
abbrev Perf := Nat → Entry → State → PRes

/-- The same entry: a task never has two entries of one engine with one issue number in flight. -/
def Entry.same (q x : Entry) : Bool := x.slot == q.slot && x.isn == q.isn && x.eng == q.eng

/-- Changing an entry in its queue. -/
def State.modEntry (s : State) (c : Nat) (q : Entry) (f : Entry → Entry) : State := s.modEntries c q.same f

/-- Requests of an entry without their response. -/
def State.awaiting (s : State) (c : Nat) (q : Entry) : Bool :=
  q.needResp && s.outst.any fun o => o.by c q.slot (s.task c q.slot).sweep && o.isn == q.isn

/-- Retiring performed entries of a task in an engine, in queue order: each leaves and signals (R210, R211, R216). -/
def retire (c n : Nat) (e : Eng) : Nat → State → State
  | 0, s => s
  | fuel + 1, s =>
    match (s.core c).queue.find? fun q => q.slot == n && q.eng == e with
    | none => s
    | some q =>
      if q.done && !s.awaiting c q then
        let s := (s.dropEntries c q.same).releaseEntry c q
        let s := match q.instr.sync with
          | some y => if q.mute then s else s.signal c y.ssem y.sinc.toNat
          | none => s
        retire c n e fuel s
      else s

/-- The wait of an engine command is over; the count goes on only for the task's own wait (R186). -/
def State.engWaitEnd (s : State) (c n : Nat) : State :=
  s.modTask c n fun t =>
    { t with waitAcc := 0, waitFrom := if t.st = .waiting ∨ t.st = .parked then some (s.now c) else none }

/-- The landing word of a command counts as its responses come: GET and SGET (R182, R435). -/
def Instr.landsByReply : Instr → Bool
  | .get .. | .sget .. => true
  | _ => false

/-- The positions that a turn leaves; a stall or a page fault takes none back (R182). Landing words have counted what has ever been
committed (R183). -/
def PRes.commit (r : PRes) (x : Entry) : Entry :=
  let landed := if Instr.landsByReply x.instr then x.landed else Nat.max x.landed r.comm
  match r.out with
  | .stall | .page .. => { x with comm := Nat.max x.comm r.comm, spec := Nat.max x.comm r.spec, landed := landed }
  | _ => { x with comm := r.comm, spec := r.spec, landed := landed }

/-- A perform trap of an entry: it freezes, and a register it was to write is free until a replay (R181, R361). -/
def State.freeze (s : State) (c : Nat) (q : Entry) (p : Pending) : State :=
  ((s.modEntry c q fun x => { x with frozen := true }).release c q.slot q.instr).pendTrap c q.slot q.eng p

/-- An entry that is performed and still waits for its turn to signal has written its register, which is free (R211, R361). -/
def State.freeEarly (s : State) (c : Nat) (q : Entry) : State :=
  if ((s.core c).queue.any fun x => q.same x && !x.freed) && !q.freed then
    (s.modEntry c q fun x => { x with freed := true }).release c q.slot q.instr
  else s

/-- What follows a turn of an engine on an entry; poison is consumed whatever has become of its task (R203). -/
def settle (c : Nat) (q : Entry) (r : PRes) : State :=
  let s := r.s.modEntry c q r.commit
  let live := (s.task c q.slot).st != .idle && !q.mute
  match r.out with
  | .done => (retire c q.slot q.eng (s.core c).queue.length (s.modEntry c q fun x => { x with done := true })).freeEarly c q
  | .sent => retire c q.slot q.eng (s.core c).queue.length (s.modEntry c q fun x => { x with done := true, needResp := true })
  | .stall => s
  | .page a v =>
    if live then (s.modEntry c q fun x => { x with pageHeld := some (a, v) }).modTask c q.slot fun t => t.startWait (s.now c)
    else ((s.dropEntries c q.same).silence c q).release c q.slot q.instr
  | .trap code sub addr =>
    if live then s.freeze c q { code := code, sub := sub, addr := addr, ecp := r.comm, esp := r.spec }
    else ((s.dropEntries c q.same).silence c q).release c q.slot q.instr
  | .poison code addr =>
    let s := ((s.dropEntries c q.same).silence c q).release c q.slot q.instr
    s.consume c q.slot q.rdepth code 0 addr q.eng.code r.comm r.spec

/-- Entries before an entry in its queue. -/
def before (q : Entry) : List Entry → List Entry
  | [] => []
  | x :: xs => if q.same x then [] else x :: before q xs

/-- A cluster of some member of the unit relocks: the change applies to the whole gang (R30, R32). -/
def State.relocking (s : State) (c : Nat) : Bool :=
  (List.range (s.core c).mode.size).any fun i => (s.cluster ((c + i) / 18)).relocking

/-- The unit does nothing: device fault, stopped clocks, debug halt or relock (R32, R93, R206).
R32 stops issue while the clock generator relocks and does not say whether engines go on with queued commands: here they stand as well
(DESIGN CHOICE, unsafe, log 69). -/
def State.haltedUnit (s : State) (c : Nat) : Bool :=
  s.faulted || s.stopped || !s.powered || s.relocking c ||
  (s.dbg.halt && (s.core c).slots.any fun t => t.2.st != .idle && t.2.asid == s.dbg.asid)

/-- The unit issues nothing: it does nothing, or a pre-emption of it is in progress (R190). -/
def State.frozenUnit (s : State) (c : Nat) : Bool := s.haltedUnit c || (s.core c).freeze.isSome

/-- A pre-emption in progress lets commands in flight finish, but those of FX, which stop sending (R190). -/
def State.mayFinish (s : State) (c : Nat) (q : Entry) : Bool := (s.core c).freeze.isNone || (q.started && q.eng != .fx)

/-- Bytes that a CX command reads or writes: whether it writes them, whether they lie outside the scratchpads, and their offsets there. -/
structure Span where
  w : Bool
  mem : Bool
  lo : Nat := 0
  len : Nat := 0

/-- A range of a command; every range outside the scratchpads counts as one. -/
def Span.at' (w : Bool) (a : BitVec 128) (n : Nat) : Span :=
  if vaRegion (a.setWidth 80) = .scratch then ⟨w, false, (a.extractLsb' 0 26).toNat, n⟩ else ⟨w, true, 0, 0⟩

/-- Two ranges share no byte that either writes. -/
def Span.apart (a b : Span) : Bool :=
  (!a.w && !b.w) || a.mem != b.mem || (!a.mem && (decide (a.lo + a.len ≤ b.lo) || decide (b.lo + b.len ≤ a.lo)))

/-- The landing word of a command. -/
def Entry.lwSpan (q : Entry) (lw : Option AReg) : List Span :=
  if lw.isSome then [⟨true, false, (q.o3.extractLsb' 0 26).toNat, 16⟩] else []

/-- The ranges of the CX commands that may be in flight with others of their task: CPY, FILL and RLRD (R211). -/
def Entry.spans (q : Entry) : Option (List Span) :=
  match q.instr with
  | .cpy _ _ _ _ lw =>
    let n := (q.o2.extractLsb' 0 64).toNat
    some (Span.at' true q.o0 n :: Span.at' false q.o1 n :: q.lwSpan lw)
  | .fill _ _ _ _ _ lw => some (Span.at' true q.o0 (q.o1.extractLsb' 0 64).toNat :: q.lwSpan lw)
  | .rlrd _ _ _ _ lw => some (Span.at' true q.o0 (q.o2.extractLsb' 16 11).toNat :: ⟨false, true, 0, 0⟩ :: q.lwSpan lw)
  | _ => none

/-- An RLSTAT. -/
def Instr.isRlstat : Instr → Bool
  | .rlstat .. => true
  | _ => false

/-- A CX entry may go on while an earlier one of its task is in flight: RLSTAT waits for no slot, and the others share no byte with it that
either writes (R211, R420). R211 lets an engine have several entries of one task in flight and does not say which: the other engines here
have one (DESIGN CHOICE, safe, log 73). -/
def Entry.mayPass (q x : Entry) : Bool :=
  q.eng == .cx && x.started && !x.frozen && x.pageHeld.isNone &&
  (Instr.isRlstat q.instr ||
    match q.spans, x.spans with
    | some l, some m => l.all fun a => m.all fun b => a.apart b
    | _, _ => false)

/-- An earlier entry of the task in the engine is neither performed nor sent. -/
def Entry.follows (q x : Entry) : Bool := x.slot == q.slot && x.eng == q.eng && !x.done

/-- A core of a set word of CPYM (R414). -/
def inSet (m : Word) (c : Nat) : Bool :=
  let first := (m.extractLsb' 0 9).toNat
  let step := (m.extractLsb' 18 9).toNat
  decide (first ≤ c) && decide (0 < step) && (c - first) % step == 0 && decide ((c - first) / step < (m.extractLsb' 9 9).toNat)

/-- The offset of a command's landing word in its own unit's scratchpad, when it counts bytes there (R411, R414, R431, R435). -/
def Entry.ownLw (q : Entry) (c : Nat) : Option Nat :=
  let own := fun (spa : BitVec 36) =>
    let f := (spa.extractLsb' 26 10).toNat
    if f = 1023 ∨ f = c then some (spa.extractLsb' 0 26).toNat else none
  let spa : BitVec 36 := q.o3.extractLsb' 0 36
  match q.instr with
  | .cpy _ _ _ _ (some _) => if q.o2.extractLsb' 0 64 = 0 then none else own spa
  | .fill _ _ _ _ _ (some _) => if q.o1.extractLsb' 0 64 = 0 then none else own spa
  | .cpyt _ _ _ _ _ _ (some _) | .rlrd _ _ _ _ (some _) | .streamrow _ _ _ (some _) | .sget _ _ _ _ _ _ (some _) => own spa
  | .cpym _ _ _ _ _ (some w) =>
    if q.o2.extractLsb' 0 64 = 0 ∨ !(inSet (q.o3.extractLsb' 0 64) c) then none else some w.toNat
  | .get .. => if q.o3.getLsbD 15 then own (q.o3.extractLsb' 16 36) else none
  | _ => none

/-- The landing word of a command that has not started lies in bytes that an earlier copy of its unit locks (R226). -/
def State.lwLocked (s : State) (c : Nat) (q : Entry) : Bool :=
  !q.started && (q.eng == .cx || q.eng == .fx) && match q.ownLw c with
    | some o => State.lockedBy (before q (s.core c).queue) o 16
    | none => false

/-- An entry can be worked on: every earlier entry of the task in the engine is performed or sent, or in flight beside it, no copy locks its
landing word, nothing freezes it, and no trap of the engine is pending (R181, R190, R192, R211, R226). -/
def State.startable (s : State) (c : Nat) (q : Entry) : Bool :=
  let k := s.core c
  !s.haltedUnit c && s.mayFinish c q && !q.done && !q.frozen && q.pageHeld.isNone &&
  (((s.task c q.slot).pend q.eng).isNone || q.started) && !(s.lwLocked c q) &&
  !((before q k.queue).any fun x => q.follows x && !q.mayPass x)

/-- The MX engine performs one entry at a time (R392): another one has started and is neither performed nor frozen. -/
def mxBusy (queue : List Entry) (q : Entry) : Bool :=
  queue.any fun x => x.eng == .mx && x.started && !x.done && !x.frozen && !q.same x

/-- The gating of a unit's array: every member's (R35). A gang may form of members whose arrays differ, and neither R35 nor R36 says what
its array then is: gating before gated before waking before awake (DESIGN CHOICE, unsafe, log 69). -/
def State.arrayGate (s : State) (c : Nat) : GateSt :=
  let gates := (List.range (s.core c).mode.size).map fun i => (s.core (c + i)).gate
  if gates.contains .gating then .gating
  else if gates.contains .gated then .gated
  else if gates.contains .waking then .waking
  else .awake

/-- The arrays of a unit take a gating state. -/
def State.setGate (s : State) (c : Nat) (g : GateSt) : State :=
  (List.range (s.core c).mode.size).foldl (fun s i => s.modCore (c + i) fun k => { k with gate := g }) s

/-- What holds a head of the MX queue before its start: an entry being performed, or the array's wake (R35, R392); none when it may start. -/
def State.mxHold (s : State) (c : Nat) (q : Entry) : Option State :=
  if q.eng != .mx || q.started then none
  else if mxBusy (s.core c).queue q then some s
  else
    match s.arrayGate c with
    | .awake => none
    | .gated => some (s.setGate c .waking)
    | .gating | .waking => some s

/-- A turn ends in a stop of its entry. -/
def POut.stops : POut → Bool
  | .trap .. | .poison .. | .page .. => true
  | .done | .sent | .stall => false

/-- The performance of an entry and what follows; one in flight beside an earlier one comes to its own stop only after that one (R181, R211). -/
def State.runEntry (s : State) (perf : Perf) (c : Nat) (q : Entry) : State :=
  let r := perf c q s
  if r.out.stops && (before q (s.core c).queue).any q.follows then s else settle c q r

/-- A turn of its engine on an entry: its SYNC wait once, then its performance (R211, R216, R217). -/
def State.tryEntry (perf : Perf) (c : Nat) (q : Entry) (s : State) : State :=
  if s.startable c q then
    match s.mxHold c q with
    | some s => s
    | none =>
      let y := q.instr.sync.getD Sync.none
      if q.wmet || q.started || y.wcnt == 0 then
        (s.modEntry c q fun x => { x with started := true }).runEntry perf c { q with started := true }
      else
        match s.semTake c y.wsem y.wcnt.toNat with
        | none => s.modTask c q.slot fun t => t.startWait (s.now c)
        | some s =>
          ((s.engWaitEnd c q.slot).modEntry c q fun x => { x with wmet := true, started := true }).runEntry perf c
            { q with wmet := true, started := true }
  else s

/-- Entries of an engine. -/
def engCount (queue : List Entry) (e : Eng) (p : Entry → Bool) : Nat := (queue.filter fun q => q.eng == e && p q).length

/-- A slot has no entry in an engine's queue: its reserved place takes the next one (R210). -/
def reservedFree (queue : List Entry) (e : Eng) (n : Nat) : Bool := engCount queue e (fun q => q.slot == n) == 0

/-- Room for another entry of slot n in an engine's queue: its reserved place or a shared one (R210). -/
def queueRoom (queue : List Entry) (e : Eng) (n : Nat) : Bool :=
  reservedFree queue e n || decide (engCount queue e (fun q => !q.rsvd) < Config.queueShared)

/-- What the issue of an engine instruction leaves to the instruction. -/
structure Issue where
  instr : Instr
  eng : Eng
  /-- Operand values captured, in operand-field order (R196, R360). -/
  caps : Task → List (BitVec 128)
  /-- What the front end does at issue. -/
  front : Task → Task := id
  /-- The range of the unit's scratchpad that a copy locks (R226). -/
  lock : Nat → Task → Option (Nat × Nat) := fun _ _ => none
  /-- The pattern of a swizzled destination (R413). -/
  swz : Nat := 0
  /-- RLD and SLD park their task (R185). -/
  parks : Bool := false

/-- The queue entry of an instruction issued by slot n. -/
def Issue.entry (x : Issue) (c n : Nat) (room : Bool) (t : Task) : Entry :=
  let v := x.caps t
  { instr := x.instr, eng := x.eng, slot := n, isn := t.isn, rdepth := t.regions.length,
    o0 := v.getD 0 0, o1 := v.getD 1 0, o2 := v.getD 2 0, o3 := v.getD 3 0, lock := x.lock c t, lockSwz := x.swz, rsvd := room
    back := if x.parks then some (t.pc, t.depth, t.loops) else none }

/-- The task after the issue: its number used, Continue, a reserved destination, and a park (R209, R326, R361, R185). -/
def Issue.task (x : Issue) (now : Nat) (t : Task) : Task :=
  let isn := t.isn
  let t := (x.front t).pastWait
  let t := { t with isn := t.isn + 1, st := .ready, took := none }
  let t := match x.instr.engineDest with
    | some d => if d.val = 0 then t else { t with resvd := d :: t.resvd }
    | none => t
  let t := t.cont (t.pc + 12)
  if x.parks then { t.startWait now with st := .parked, wait := .remote isn } else t

/-- An engine instruction of the current task: the ILLEGAL checks, a place in the queue, and, unless starts are deferred (DESIGN CHOICE, unsafe, log 3),
a first turn of its engine (R209, R210, R287). -/
def engine (ill : Task → Bool) (x : Issue) (perf : Perf) (s : State) : Host.Outcome State Fault Refusal :=
  match s.cur with
  | .thread t => .next (s.threadError t cILLEGAL)
  | .task c n =>
    let t := s.task c n
    if ill t then .next (s.issueTrap c n cILLEGAL 0 0)
    else if queueRoom (s.core c).queue x.eng n then
      let q := x.entry c n (reservedFree (s.core c).queue x.eng n) t
      let s := (s.modTask c n (x.task (s.now c))).modCore c fun k => { k with queue := k.queue ++ [q] }
      .next (if s.deferStart then s else s.tryEntry perf c q)
    else .next (s.holdTask c n .waiting (.queueFull x.eng))

/-! ## Memory accesses of the engines -/

/-- A pre-emption that holds an access (R191). -/
def addRedir (l : List Redir) (u : Nat) (w : BitVec 32) : List Redir :=
  if l.any fun r => r.unit == u && r.sweep == w && r.restored.isNone then l else l ++ [{ unit := u, sweep := w }]

/-- An engine's stream access. -/
def engAcc (c : Nat) (e : Eng) (asid : BitVec 16) (copy r w : Bool) : Acc :=
  { cache := .stream c e, unit := c, copy := copy, asid := asid, r := r, w := w, x := false }

/-- A speculative position of a stopped command: its committed position, or some steps on towards its end (R182; DESIGN CHOICE, safe, log 21). -/
def State.ahead (s : State) (comm total step : Nat) : Nat :=
  if step = 0 ∨ total ≤ comm then comm
  else
    let k := Config.freeAhead s.freeCtr % ((total - comm + step - 1) / step + 1)
    if k = 0 then comm else Nat.min total ((comm / step + k) * step)

/-- A row-line command: its position counts 0 or the whole access (R182). -/
def Instr.rowLine : Instr → Bool
  | .rlopen .. | .rlhold .. | .rlrel .. | .rlrd .. | .rlwr .. | .rlstat .. | .streamrow .. | .bankclose .. => true
  | _ => false

/-- Steps in which an engine may be ahead of an access that stops (R182): elements, rows, 4 KiB units of a copy whose destination stops;
a source that stops has been read that far, and what FX sends has been sent. -/
def Entry.step (q : Entry) (w : Bool) (total : Nat) : Nat :=
  match q.eng with
  | .vx | .tx | .mx => 1
  | .cx => if Instr.rowLine q.instr then total else if w then 4096 else 0
  | .fx => 0

/-- A perform trap at a position of a stream of `total` units. -/
def trapAt (s : State) (comm total step : Nat) (code sub : BitVec 8) (addr : Addr) : PRes :=
  ⟨{ s with freeCtr := s.freeCtr + 1 }, comm, s.ahead comm total step, .trap code sub addr⟩

/-- Poison of data that an engine consumes, at a position of a stream of `total` units that it has read. -/
def poisonStop (s : State) (comm total : Nat) (addr : Addr) : PRes :=
  ⟨{ s with freeCtr := s.freeCtr + 1 }, comm, Nat.min (s.ahead (comm + 1) total 1) (Nat.max comm total), .poison cPOISON addr⟩

/-- Poison of a page walk consumed at a position of a stream of `total` units, in the engine's own steps (R182, R469). -/
def walkPoison (s : State) (comm total step : Nat) (addr : Addr) : PRes :=
  ⟨{ s with freeCtr := s.freeCtr + 1 }, comm, s.ahead comm total step, .poison cPOISON addr⟩

/-- The stop of an engine's access at a position of a stream of `total` units, for its entry, at the first byte of the access or unit
that fails (R140, R141, R144, R181, R469). -/
def engStop (s : State) (c : Nat) (q : Entry) (x : Acc) (fail : Addr) (comm total : Nat) : Stop → PRes
  | .trap code sub => trapAt s comm total (q.step x.w total) code sub fail
  | .poison => walkPoison s comm total (q.step x.w total) fail
  | .absent =>
    if (s.asidEnt x.asid.toNat).nopf then trapAt s comm total (q.step x.w total) cXLATE xNOTMAPPED fail
    else
      ⟨s.pageFault x.asid fail (BitVec.ofNat 16 c) (BitVec.ofNat 8 q.slot) (BitVec.ofNat 8 q.eng.code) x.bits (.entry c q.slot q.eng),
       comm, s.ahead comm total (q.step x.w total), .page x.asid (fail.toNat / 65536)⟩
  | .xlt _ _ | .bank _ => ⟨s, comm, comm, .stall⟩
  | .frozen u =>
    ⟨match (s.core u).tenant with
     | some w => s.modEntry c q fun e => { e with redir := addRedir e.redir u w }
     | none => s, comm, comm, .stall⟩

/-- The image that a pre-emption of a unit wrote for a sweep, the latest first. -/
def State.savedAt (s : State) (u : Nat) (w : BitVec 32) : Option Image := s.images.reverse.find? fun i => i.sweep == w && i.unit == u

/-- The unit to which a pre-emption's image went holds the sweep's tasks still. -/
def State.holds (s : State) (v : Nat) (w : BitVec 32) : Bool := (s.core v).tenant == some w && !(s.core v).clearing

/-- Where a byte range of a pre-empted unit's scratchpad is now: in the image, in the unit that holds the tasks again, or in the image of
that one once it has been pre-empted in its turn; none when it is outside the LIVE chunks, or the sweep has ended (R191). -/
def State.redirected (s : State) (r : Redir) (o n : Nat) : Option Place :=
  let live := match s.sweep r.sweep with | some w => w.rec'.live | none => 0
  if (List.range ((o + n - 1) / 0x40000 - o / 0x40000 + 1)).all fun j => live.getLsbD (o / 0x40000 + j) then
    match r.restored with
    | some v => if s.holds v r.sweep then some (.spm v o) else (s.savedAt v r.sweep).map fun i => .img i.sweep i.key o
    | none => (s.savedAt r.unit r.sweep).map fun i => .img i.sweep i.key o
  else none

/-- Some piece of an access that a pre-emption held has come to a unit that is being pre-empted in its turn: it waits (R191). -/
def State.redirHeld (s : State) (redir : List Redir) (l : Pieces) : Bool :=
  l.any fun p => match p.1 with
    | .spm u _ =>
      match redir.find? fun r => r.unit == u with
      | some r => r.restored.any fun v => s.holds v r.sweep && (s.core v).freeze.isSome
      | none => false
    | _ => false

/-- The pieces of an access that a pre-emption held, taken to where its bytes are (R191). -/
def redirect (s : State) (redir : List Redir) : Pieces → Option Pieces
  | [] => some []
  | (p, n) :: l =>
    match redirect s redir l with
    | none => none
    | some l =>
      match p with
      | .spm u o =>
        match redir.find? fun r => r.unit == u with
        | some r => (s.redirected r o n).map fun p => (p, n) :: l
        | none => some ((p, n) :: l)
      | _ => some ((p, n) :: l)

/-- An access of an engine to `k` bytes: its checks, the copy locks of earlier entries, then what is done with its pieces. -/
def engAccess (s : State) (c : Nat) (q : Entry) (x : Acc) (va : Addr) (k comm total : Nat) (f : State → Pieces → PRes) : PRes :=
  match resolve s x va k with
  | (s, .error (e, fail)) => engStop s c q x fail comm total e
  | (s, .ok l) =>
    match lockHit (before q (s.core c).queue) c l with
    | some _ => ⟨s, comm, comm, .stall⟩
    | none =>
      if s.redirHeld q.redir l then ⟨s, comm, comm, .stall⟩
      else match redirect s q.redir l with
      | some l => f s l
      | none => trapAt s comm total (q.step x.w total) cSPACCESS 0 va

/-- Units of a stream one at a time from position e; the first that does not end `done` decides (R182). -/
def stream : Nat → Nat → (Nat → State → PRes) → State → PRes
  | 0, e, _, s => ⟨s, e, e, .done⟩
  | n + 1, e, f, s =>
    match (f e s).out with
    | .done => stream n (e + 1) f (f e s).s
    | _ => f e s

end Sys2Proof.Machine
end

