-- ==== Sys2Proof/Machine/Float.lean ====
section
/-! DEFINITION. Number formats, rounding and floating-point arithmetic: exact values rounded once (R260 to R276, R284, R285). -/

namespace Sys2Proof.Machine

/-! ## Formats (R260 to R264) -/

/-- A floating-point format by its codes: `t` trailing bits, bias `b`, largest finite magnitude code, infinity and NaN codes. -/
structure Fmt where
  t : Nat
  b : Nat
  /-- Weight of the sign bit; 0 for an unsigned format. -/
  sign : Nat
  maxc : Nat
  infc : Option Nat
  nan : Nat
  b8 : Bool
deriving DecidableEq, Repr

/-- A binary8 format: precision P, unsigned, finite (R261, R262). -/
def Fmt.binary8 (p : Nat) (u f : Bool) : Fmt :=
  if u then
    { t := p - 1, b := 2 ^ (8 - p), sign := 0, maxc := if f then 0xFE else 0xFD, infc := if f then none else some 0xFE,
      nan := 0xFF, b8 := true }
  else
    { t := p - 1, b := 2 ^ (7 - p), sign := 0x80, maxc := if f then 0x7F else 0x7E, infc := if f then none else some 0x7F,
      nan := 0x80, b8 := true }

def Fmt.bf16 : Fmt := ⟨7, 127, 0x8000, 0x7F7F, some 0x7F80, 0x7FC0, false⟩
def Fmt.f16 : Fmt := ⟨10, 15, 0x8000, 0x7BFF, some 0x7C00, 0x7E00, false⟩
def Fmt.f32 : Fmt := ⟨23, 127, 0x80000000, 0x7F7FFFFF, some 0x7F800000, 0x7FC00000, false⟩
def Fmt.f64 : Fmt := ⟨52, 1023, 0x8000000000000000, 0x7FEFFFFFFFFFFFFF, some 0x7FF0000000000000, 0x7FF8000000000000, false⟩

/-- The floating-point format of a code (R260). -/
def fmtOf (code : BitVec 8) : Fmt :=
  match code.toNat with
  | 0x21 => .bf16
  | 0x22 => .f16
  | 0x23 => .f32
  | n => .binary8 (n % 8) (n / 16 % 2 == 1) (n / 8 % 2 == 1)

/-- Format of a vector element type (R294). -/
def vfmt : VTy → Fmt
  | .f32 => .f32 | .bf16 => .bf16 | .f16 => .f16

/-- Format of a scalar type (R313). -/
def sfmt : FTy → Fmt
  | .f32 => .f32 | .f64 => .f64

/-! ## Values -/

/-- A value: a finite one is m × 2^e in magnitude, or strictly between that and (m + 1) × 2^e when `sticky`. -/
inductive Fl
  | nan
  | inf (neg : Bool)
  | fin (neg : Bool) (m : Nat) (e : Int) (sticky : Bool)
deriving DecidableEq, Repr

def Fl.zero (neg : Bool) : Fl := .fin neg 0 0 false

/-- The value of an integer. -/
def Fl.ofInt (x : Int) : Fl := .fin (decide (x < 0)) x.natAbs 0 false

/-- A signed exact value m × 2^e. -/
def Fl.dyadic (m : Int) (e : Int) : Fl := .fin (decide (m < 0)) m.natAbs e false

def Fl.isNaN : Fl → Bool
  | .nan => true
  | _ => false

def Fl.isZero : Fl → Bool
  | .fin _ m _ st => m == 0 && !st
  | _ => false

/-- The value of a code (R261 to R264). -/
def Fmt.decode (f : Fmt) (bits : Nat) : Fl :=
  let neg := f.sign != 0 && decide (f.sign ≤ bits)
  let c := if neg then bits - f.sign else bits
  if f.b8 && bits == f.nan then .nan
  else if f.infc == some c then .inf neg
  else if f.maxc < c then .nan
  else if c / 2 ^ f.t = 0 then .fin neg c (1 - (f.b : Int) - f.t) false
  else .fin neg (2 ^ f.t + c % 2 ^ f.t) (((c / 2 ^ f.t : Nat) : Int) - f.b - f.t) false

/-- The magnitude at a scale: its floor in units of 2^k, and the rest as (r, s), r in units of 2^(k − s). -/
def scaleAt (m : Nat) (e k : Int) : Nat × Nat × Nat :=
  if k ≤ e then (m * 2 ^ (e - k).toNat, 0, 0)
  else
    let s := (k - e).toNat
    (m / 2 ^ s, m % 2 ^ s, s)

/-- The next value away from zero is chosen (R268, R269): `odd` of the lower code, rest r / 2^s with `sticky`, draw u. -/
def roundUp (rm : Rm) (neg odd : Bool) (r s : Nat) (sticky : Bool) (u : BitVec 32) : Bool :=
  if r = 0 && !sticky then false
  else
    match rm with
    | .rne => decide (2 ^ s < 2 * r) || (decide (2 * r = 2 ^ s) && (sticky || odd))
    | .rtz => false
    | .rup => !neg
    | .rdn => neg
    | .sr =>
      if sticky then decide (u.toNat * 2 ^ s ≤ 2 ^ 32 * r) else decide (u.toNat * 2 ^ s < 2 ^ 32 * r)

/-- The magnitude code chosen for m × 2^e; a code above `maxc` is beyond the largest finite value (R268, R269). -/
def Fmt.roundCode (f : Fmt) (rm : Rm) (neg : Bool) (m : Nat) (e : Int) (sticky : Bool) (u : BitVec 32) : Nat :=
  if m = 0 && !sticky then 0
  else
    let E : Int := (Nat.log2 m : Int) + e
    let emin : Int := 1 - (f.b : Int)
    let normal := decide (m ≠ 0) && decide (emin ≤ E)
    let k : Int := (if normal then E else emin) - f.t
    let (q, r, s) := scaleAt m e k
    let code : Nat := if normal then ((E + f.b).toNat) * 2 ^ f.t + (q - 2 ^ f.t) else q
    if f.maxc < code then
      -- beyond the extension value: nearest is beyond, towards zero is the largest finite
      match rm with
      | .rtz => f.maxc
      | .rup => if neg then f.maxc else f.maxc + 1
      | .rdn => if neg then f.maxc + 1 else f.maxc
      | .rne | .sr => f.maxc + 1
    else if code = f.maxc ∧ rm = .sr then
      if roundUp .rne neg (code % 2 == 1) r s sticky u then code + 1 else code
    else if roundUp rm neg (code % 2 == 1) r s sticky u then code + 1 else code

/-- RoundToFormat: the code of an exact value (R265, R268 to R271). -/
def Fmt.encode (f : Fmt) (x : Fl) (rm : Rm) (sat : Bool) (u : BitVec 32) : Nat :=
  match x with
  | .nan => f.nan
  | .inf neg =>
    if neg && f.sign == 0 then (if sat then 0 else f.nan)
    else
      let sg := if neg then f.sign else 0
      if sat then f.maxc + sg
      else
        match f.infc with
        | some c => c + sg
        | none => f.nan
  | .fin neg m e sticky =>
    let c := f.roundCode rm neg m e sticky u
    if c = 0 then (if neg && !f.b8 then f.sign else 0)
    else if neg && f.sign == 0 then (if sat then 0 else f.nan)
    else
      let sg := if neg then f.sign else 0
      if f.maxc < c then
        (if sat then f.maxc
         else
           match f.infc with
           | some i => i
           | none => f.maxc) + sg
      else c + sg

/-! ## The stochastic draw (R270) -/

/-- One round of the generator. -/
def drawRound (h z : BitVec 64) : BitVec 64 :=
  let h := (h ^^^ z) + 0x9E3779B97F4A7C15
  let h := (h ^^^ (h >>> 30)) * 0xBF58476D1CE4E5B9
  let h := (h ^^^ (h >>> 27)) * 0x94D049BB133111EB
  h ^^^ (h >>> 31)

/-- SRDraw(e) of R270. -/
def srDraw (seed : BitVec 64) (iter : Nat) (isn : BitVec 24) (e : Nat) : BitVec 32 :=
  let z0 : BitVec 64 := BitVec.ofNat 64 (iter % 2 ^ 48)
  let z1 : BitVec 64 := (isn.setWidth 64 <<< 32) ||| BitVec.ofNat 64 (e % 2 ^ 32)
  (drawRound (drawRound seed z0) z1).extractLsb' 32 32

/-! ## Exact arithmetic (R274, IEEE 754-2019) -/

/-- Signed mantissa. -/
def sgn (neg : Bool) (m : Nat) : Int := if neg then -(m : Int) else m

/-- Sum of two signed exact values. -/
def dyAdd (m : Int) (e : Int) (m' : Int) (e' : Int) : Int × Int :=
  if e ≤ e' then (m + m' * (2 ^ (e' - e).toNat : Nat), e) else (m * (2 ^ (e - e').toNat : Nat) + m', e')

/-- Addition; an exact zero takes IEEE's sign for the mode (R268). -/
def Fl.add (rm : Rm) : Fl → Fl → Fl
  | .nan, _ => .nan
  | _, .nan => .nan
  | .inf a, .inf b => if a = b then .inf a else .nan
  | .inf a, _ => .inf a
  | _, .inf b => .inf b
  | .fin a m e _, .fin b m' e' _ =>
    let (v, k) := dyAdd (sgn a m) e (sgn b m') e'
    if v = 0 then (if m = 0 ∧ m' = 0 ∧ a = b then .zero a else .zero (rm == .rdn))
    else .dyadic v k

def Fl.neg : Fl → Fl
  | .nan => .nan
  | .inf a => .inf (!a)
  | .fin a m e s => .fin (!a) m e s

/-- Multiplication. -/
def Fl.mul : Fl → Fl → Fl
  | .nan, _ => .nan
  | _, .nan => .nan
  | .inf a, .inf b => .inf (a != b)
  | .inf a, .fin b m _ _ => if m = 0 then .nan else .inf (a != b)
  | .fin a m _ _, .inf b => if m = 0 then .nan else .inf (a != b)
  | .fin a m e _, .fin b m' e' _ => .fin (a != b) (m * m') (e + e') false

/-- Quotient of magnitudes with 160 bits and more below its first (DEDUCED, unsafe, log 11). -/
def quot (neg : Bool) (m : Nat) (e : Int) (m' : Nat) (e' : Int) : Fl :=
  let s := 160 + Nat.log2 m'
  .fin neg (m * 2 ^ s / m') (e - e' - s) (m * 2 ^ s % m' != 0)

/-- Division. -/
def Fl.div : Fl → Fl → Fl
  | .nan, _ => .nan
  | _, .nan => .nan
  | .inf _, .inf _ => .nan
  | .inf a, .fin b _ _ _ => .inf (a != b)
  | .fin a _ _ _, .inf b => .zero (a != b)
  | .fin a m e _, .fin b m' e' _ =>
    if m' = 0 then (if m = 0 then .nan else .inf (a != b))
    else if m = 0 then .zero (a != b)
    else quot (a != b) m e m' e'

/-- Integer square root, bit by bit from bit i − 1. -/
def isqrt (n : Nat) : Nat → Nat → Nat
  | 0, r => r
  | i + 1, r => if (r + 2 ^ i) * (r + 2 ^ i) ≤ n then isqrt n i (r + 2 ^ i) else isqrt n i r

/-- Floor of the square root. -/
def natSqrt (n : Nat) : Nat := isqrt n (Nat.log2 n / 2 + 1) 0

/-- Square root of a magnitude (DEDUCED, unsafe, log 11). -/
def sqrtMag (m : Nat) (e : Int) : Fl :=
  let (m, e) := if e % 2 = 0 then (m, e) else (2 * m, e - 1)
  let a := m * 2 ^ 320
  let r := natSqrt a
  .fin false r (e / 2 - 160) (r * r != a)

/-- Square root: −0 gives −0 (R314). -/
def Fl.sqrt : Fl → Fl
  | .nan => .nan
  | .inf neg => if neg then .nan else .inf false
  | .fin neg m e _ => if m = 0 then .zero neg else if neg then .nan else sqrtMag m e

/-- 1 / x (R274). -/
def Fl.rcp (x : Fl) : Fl := Fl.div (.fin false 1 0 false) x

/-- 1 / √x (R274). -/
def Fl.rsq : Fl → Fl
  | .nan => .nan
  | .inf neg => if neg then .nan else .zero false
  | .fin neg m e _ =>
    if m = 0 then .inf neg
    else if neg then .nan
    else
      let (m, e) := if e % 2 = 0 then (m, e) else (2 * m, e - 1)
      let s := 160 + Nat.log2 m
      let r := natSqrt (2 ^ (2 * s) / m)
      .fin false r (-(e / 2) - s) (r * r * m != 2 ^ (2 * s))

/-! ## 2^x and log₂ x to 320 bits (DEDUCED, unsafe, log 11) -/

/-- Bits after the point of the elementary functions. -/
def fixBits : Nat := 320

/-- Terms of a series: term n is the previous one times `x / 2^fixBits` divided by `d n`. -/
def expSum (x : Nat) : Nat → Nat → Nat → Nat → Nat
  | 0, _, _, acc => acc
  | fuel + 1, n, term, acc =>
    let term := term * x / 2 ^ fixBits / n
    expSum x fuel (n + 1) term (acc + term)

/-- Sum of s^(2k+1) / (2k+1) from a power of s. -/
def atanhSum (s2 : Nat) : Nat → Nat → Nat → Nat → Nat
  | 0, _, _, acc => acc
  | fuel + 1, k, pow, acc => atanhSum s2 fuel (k + 1) (pow * s2 / 2 ^ fixBits) (acc + pow / (2 * k + 1))

/-- ln z in units of 2^−fixBits for z = a / b, 1 ≤ z ≤ 2. -/
def lnRatio (a b : Nat) : Nat :=
  let s := (a - b) * 2 ^ fixBits / (a + b)
  2 * atanhSum (s * s / 2 ^ fixBits) 110 0 s 0

/-- ln 2 in units of 2^−fixBits. -/
def ln2 : Nat := lnRatio 2 1

/-- 2^x (R274). -/
def Fl.exp2 : Fl → Fl
  | .nan => .nan
  | .inf neg => if neg then .zero false else .inf false
  | .fin neg m e _ =>
    -- x = n + r / 2^fixBits
    let v : Int := sgn neg m * (2 ^ (e + fixBits).toNat : Nat)
    let n : Int := v / (2 ^ fixBits : Nat)
    let r : Nat := (v % (2 ^ fixBits : Nat)).toNat
    if m = 0 then .fin false 1 0 false
    else if 4096 < n then .fin false 1 4096 true
    else if n < -4096 then .fin false 1 (-4096) true
    else if r = 0 then .fin false 1 n false
    else
      let y := r * ln2 / 2 ^ fixBits
      .fin false (expSum y 80 1 (2 ^ fixBits) (2 ^ fixBits) / 2 ^ 32) (n - (fixBits - 32 : Nat)) true

/-- log₂ x (R274). -/
def Fl.log2 : Fl → Fl
  | .nan => .nan
  | .inf neg => if neg then .nan else .inf false
  | .fin neg m e _ =>
    if m = 0 then .inf true
    else if neg then .nan
    else
      let k := Nat.log2 m
      let E : Int := e + k
      if m = 2 ^ k then (if E = 0 then .zero false else .ofInt E)
      else
        let l : Nat := lnRatio m (2 ^ k) * 2 ^ fixBits / ln2 / 2 ^ 32
        let v : Int := E * (2 ^ (fixBits - 32) : Nat) + (l : Int)
        if 0 ≤ v then .fin false v.toNat (-(fixBits - 32 : Nat)) true
        else .fin true ((-v).toNat - 1) (-(fixBits - 32 : Nat)) true

/-! ## Order (R274, R314) -/

/-- x < y, x = y on finite and infinite values; false on NaN. -/
def Fl.lt : Fl → Fl → Bool
  | .inf a, .inf b => a && !b
  | .inf a, .fin _ _ _ _ => a
  | .fin _ _ _ _, .inf b => !b
  | .fin a m e _, .fin b m' e' _ => decide ((dyAdd (sgn a m) e (-(sgn b m')) e').1 < 0)
  | _, _ => false

def Fl.eq : Fl → Fl → Bool
  | .inf a, .inf b => a == b
  | .fin a m e _, .fin b m' e' _ => decide ((dyAdd (sgn a m) e (-(sgn b m')) e').1 = 0)
  | _, _ => false

/-- A floating-point condition (R314). -/
def fcond (c : FCond) (x y : Fl) : Bool :=
  let un := x.isNaN || y.isNaN
  match c with
  | .eq => x.eq y
  | .ne => un || !x.eq y
  | .lt => x.lt y
  | .le => x.lt y || x.eq y
  | .gt => y.lt x
  | .ge => y.lt x || x.eq y
  | .un => un
  | .or => !un

/-- The lesser of two codes by IEEE 754-2019 minimum: NaN canonical, −0 below +0 (R274). -/
def Fmt.minimum (f : Fmt) (a b : Nat) : Nat :=
  let x := f.decode a
  let y := f.decode b
  if x.isNaN || y.isNaN then f.nan
  else if x.lt y then a
  else if y.lt x then b
  else if f.sign ≤ a then a else b

/-- The greater (R274). -/
def Fmt.maximum (f : Fmt) (a b : Nat) : Nat :=
  let x := f.decode a
  let y := f.decode b
  if x.isNaN || y.isNaN then f.nan
  else if x.lt y then b
  else if y.lt x then a
  else if f.sign ≤ a then b else a

/-! ## Integers (R272, R273) -/

/-- The integer a value rounds to, exactly; NaN and infinities aside (R272). -/
def roundInt (rm : Rm) (neg : Bool) (m : Nat) (e : Int) (sticky : Bool) (u : BitVec 32) : Int :=
  let (q, r, s) := scaleAt m e 0
  let q := if roundUp rm neg (q % 2 == 1) r s sticky u then q + 1 else q
  sgn neg q

/-- Floating point to an integer type: the w-bit pattern (R272). -/
def toInteger (t : IntTy) (x : Fl) (rm : Rm) (sat : Bool) (u : BitVec 32) : Nat :=
  match x with
  | .nan => 0
  | .inf neg => if sat then ((if neg then t.minVal else t.maxVal) % (2 ^ t.w.bits : Nat)).toNat else 0
  | .fin neg m e sticky =>
    let n := roundInt rm neg m e sticky u
    ((if sat then t.clamp n else n) % (2 ^ t.w.bits : Nat)).toNat

/-- An integer to a narrower or wider type (R273). -/
def narrowInt (t : IntTy) (x : Int) (sat : Bool) : Nat := ((if sat then t.clamp x else x) % (2 ^ t.w.bits : Nat)).toNat

/-- The type of an integer format code (R266). -/
def intFmt (code : BitVec 8) : IntTy := if code = 0x20 then ⟨.w8, true⟩ else ⟨.w32, true⟩

/-- A conversion between two format codes (R271 to R273). -/
def convert (dst src : BitVec 8) (bits : Nat) (rm : Rm) (sat : Bool) (u : BitVec 32) : Nat :=
  if isIntFormat src then
    let x := (intFmt src).int bits
    if isIntFormat dst then narrowInt (intFmt dst) x sat else (fmtOf dst).encode (.ofInt x) rm sat u
  else
    let x := (fmtOf src).decode bits
    if isIntFormat dst then toInteger (intFmt dst) x rm sat u else (fmtOf dst).encode x rm sat u

/-! ## Table interpolation (R284, R285) -/

/-- The index of R284 for x on a table of n entries: clamped floor of (x − x0) × invstep; a NaN has none. -/
def interpIndex (x x0 invstep : Fl) (n : Nat) : Nat :=
  match x, x0, invstep with
  | .inf neg, _, _ => if neg then 0 else n - 1
  | .fin a m e _, .fin b m' e' _, .fin _ k f _ =>
    let (d, g) := dyAdd (sgn a m) e (-(sgn b m')) e'
    let p := d * k
    let q : Int := g + f
    let i : Int := if 0 ≤ q then p * (2 ^ q.toNat : Nat) else p / (2 ^ (-q).toNat : Nat)
    (min (max i 0) ((n : Int) - 1)).toNat
  | _, _, _ => 0

/-- v[i] + s[i] × (x − xi), exact, before its rounding (R284, R285). -/
def interpValue (x x0 h v s : Fl) (i : Nat) : Fl :=
  let xi := Fl.add .rne x0 (Fl.mul h (.ofInt i))
  Fl.add .rne v (Fl.mul s (Fl.add .rne x xi.neg))

end Sys2Proof.Machine
end

