-- ==== Sys2Proof/Machine/ScFloat.lean ====
section
/-! DEFINITION. Class SC, scalar floating point (R313, R314). -/

namespace Sys2Proof.Machine

/-- A scalar operand at a type: s[n][31:0] for binary32 (R313). -/
def Task.fbits (t : Task) (ty : FTy) (r : SReg) : Nat :=
  match ty with
  | .f32 => (t.sreg r).toNat % 2 ^ 32
  | .f64 => (t.sreg r).toNat

/-- A scalar operand's value. -/
def Task.fval (t : Task) (ty : FTy) (r : SReg) : Fl := (sfmt ty).decode (t.fbits ty r)

/-- SRDraw(0) of a task's next instruction (R270, R313). -/
def Task.draw (t : Task) (e : Nat) : BitVec 32 := srDraw t.seed t.iter t.isn e

/-- Writing a rounded result, zero-extended (R313). -/
def Task.setF (t : Task) (ty : FTy) (r : RMod) (d : SReg) (x : Fl) : Task :=
  t.setS d (BitVec.ofNat 64 ((sfmt ty).encode x r.rm r.sat (t.draw 0)))


/-- FADD: A + B (R314). -/
def execFadd (y : Sync) (t : FTy) (r : RMod) (d a b : SReg) (s : State) : Host.Outcome State Fault Refusal :=
  regOp y (fun k => k.setF t r d (Fl.add r.rm (k.fval t a) (k.fval t b))) s

/-- FSUB: A − B (R314). -/
def execFsub (y : Sync) (t : FTy) (r : RMod) (d a b : SReg) (s : State) : Host.Outcome State Fault Refusal :=
  regOp y (fun k => k.setF t r d (Fl.add r.rm (k.fval t a) (k.fval t b).neg)) s

/-- FMUL: A × B (R314). -/
def execFmul (y : Sync) (t : FTy) (r : RMod) (d a b : SReg) (s : State) : Host.Outcome State Fault Refusal :=
  regOp y (fun k => k.setF t r d (Fl.mul (k.fval t a) (k.fval t b))) s

/-- FFMA: A × B + C, one rounding (R314). -/
def execFfma (y : Sync) (t : FTy) (r : RMod) (d a b c : SReg) (s : State) : Host.Outcome State Fault Refusal :=
  regOp y (fun k => k.setF t r d (Fl.add r.rm (Fl.mul (k.fval t a) (k.fval t b)) (k.fval t c))) s

/-- FDIV: A / B (R314). -/
def execFdiv (y : Sync) (t : FTy) (r : RMod) (d a b : SReg) (s : State) : Host.Outcome State Fault Refusal :=
  regOp y (fun k => k.setF t r d (Fl.div (k.fval t a) (k.fval t b))) s

/-- FSQRT (R314). -/
def execFsqrt (y : Sync) (t : FTy) (r : RMod) (d a : SReg) (s : State) : Host.Outcome State Fault Refusal :=
  regOp y (fun k => k.setF t r d (k.fval t a).sqrt) s

/-- FMIN (R274, R314). -/
def execFmin (y : Sync) (t : FTy) (d a b : SReg) (s : State) : Host.Outcome State Fault Refusal :=
  regOp y (fun k => k.setS d (BitVec.ofNat 64 ((sfmt t).minimum (k.fbits t a) (k.fbits t b)))) s

/-- FMAX (R274, R314). -/
def execFmax (y : Sync) (t : FTy) (d a b : SReg) (s : State) : Host.Outcome State Fault Refusal :=
  regOp y (fun k => k.setS d (BitVec.ofNat 64 ((sfmt t).maximum (k.fbits t a) (k.fbits t b)))) s

/-- FCMP (R314). -/
def execFcmp (y : Sync) (t : FTy) (c : FCond) (d : PReg) (a b : SReg) (s : State) : Host.Outcome State Fault Refusal :=
  regOp y (fun k => k.setP d (fcond c (k.fval t a) (k.fval t b))) s

/-- FCVT: A at the source type to the destination type; between equal types every value but a NaN is unchanged (R271, R314). -/
def execFcvt (y : Sync) (dst src : FTy) (r : RMod) (d a : SReg) (s : State) : Host.Outcome State Fault Refusal :=
  regOp y (fun k => k.setF dst (if dst = src then { r with sat := false } else r) d (k.fval src a)) s

/-- ICVTF: the integer in s[A][w−1:0] (R273, R314). -/
def execIcvtf (y : Sync) (t : FTy) (it : IntTy) (r : RMod) (d a : SReg) (s : State) : Host.Outcome State Fault Refusal :=
  regOp y (fun k => k.setF t r d (.ofInt (it.int (k.sreg a).toNat))) s

/-- FCVTI: to the integer type, then extended (R272, R314). -/
def execFcvti (y : Sync) (it : IntTy) (t : FTy) (r : RMod) (d a : SReg) (s : State) : Host.Outcome State Fault Refusal :=
  regOp y (fun k => k.setS d (it.ext (BitVec.ofNat 64 (toInteger it (k.fval t a) r.rm r.sat (k.draw 0))))) s

end Sys2Proof.Machine
end

