-- ==== Sys2Proof/Machine/VxOps.lean ====
section
/-! DEFINITION. What the instructions of class VX share: lane operations under width and mask, reductions, and element accesses (R357 to R363, R372 to R375). -/

namespace Sys2Proof.Machine

/-- An entry of the VX engine: captured scalars in operand-field order, then the width (R360). -/
def vx (i : Instr) (caps : Task → List (BitVec 128)) : Issue :=
  { instr := i, eng := .vx, caps := fun t => caps t ++ [BitVec.ofNat 128 t.width] }

/-- A capture of a scalar and of an address register. -/
def capS (t : Task) (r : SReg) : BitVec 128 := (t.sreg r).setWidth 128
def capA (t : Task) (r : AReg) : BitVec 128 := (t.areg r).setWidth 128

/-- The offset in a scratchpad that an address names. -/
def spaOffset (a : Addr) : Nat := (a.extractLsb' 0 26).toNat

/-- No scalar operand. -/
def noCaps (_ : Task) : List (BitVec 128) := []

/-- An entry that only changes registers of its task, performed at once (R363). -/
def regPerf (f : Entry → Task → Task) : Perf := fun c q s => ⟨s.modTask c q.slot (f q), 0, 0, .done⟩

/-- The width an entry took at issue, when no scalar precedes it. -/
def Entry.width (q : Entry) : Nat := q.o0.toNat

/-- The stochastic draw for element e of an entry (R270). -/
def Task.drawOf (t : Task) (q : Entry) (e : Nat) : BitVec 32 := srDraw t.seed t.iter q.isn e

/-- Writing the active elements within a width (R357, R358). -/
def Task.lanes (t : Task) (w W : Nat) (m : Option MReg) (d : VReg) (f : Nat → Nat) : Task :=
  t.setV d (mapElems w (t.vreg d) fun e => if decide (e < inWidth w W) && t.active w m e then some (f e) else none)

/-! ## Floating-point lanes (R364) -/

/-- Element e of a register as a value. -/
def Task.vval (t : Task) (ty : VTy) (r : VReg) (e : Nat) : Fl := (vfmt ty).decode (elem ty.bits (t.vreg r) e)

/-- A rounding member on one source. -/
def fp1 (ty : VTy) (m : Mod) (d a : VReg) (F : Fl → Fl) : Perf :=
  regPerf fun q t => t.lanes ty.bits q.width m.mask d fun e =>
    (vfmt ty).encode (F (t.vval ty a e)) m.rm m.sat (t.drawOf q e)

/-- A rounding member on two sources. -/
def fp2 (ty : VTy) (m : Mod) (d a b : VReg) (F : Fl → Fl → Fl) : Perf :=
  regPerf fun q t => t.lanes ty.bits q.width m.mask d fun e =>
    (vfmt ty).encode (F (t.vval ty a e) (t.vval ty b e)) m.rm m.sat (t.drawOf q e)

/-- A rounding member on three sources. -/
def fp3 (ty : VTy) (m : Mod) (d a b k : VReg) (F : Fl → Fl → Fl → Fl) : Perf :=
  regPerf fun q t => t.lanes ty.bits q.width m.mask d fun e =>
    (vfmt ty).encode (F (t.vval ty a e) (t.vval ty b e) (t.vval ty k e)) m.rm m.sat (t.drawOf q e)

/-! ## Lanes as bit patterns -/

/-- A member on the bits of one source. -/
def lane1 (w : Nat) (m : Option MReg) (d a : VReg) (F : Nat → Nat) : Perf :=
  regPerf fun q t => t.lanes w q.width m d fun e => F (elem w (t.vreg a) e)

/-- A member on the bits of two sources. -/
def lane2 (w : Nat) (m : Option MReg) (d a b : VReg) (F : Nat → Nat → Nat) : Perf :=
  regPerf fun q t => t.lanes w q.width m d fun e => F (elem w (t.vreg a) e) (elem w (t.vreg b) e)

/-- The w-bit pattern of an exact result, clamped first under SAT (R366). -/
def intRes (t : IntTy) (sat : Bool) (x : Int) : Nat := narrowInt t x sat

/-- An integer member on two sources (R366). -/
def int2 (ty : IntTy) (m : Option MReg) (sat : Bool) (d a b : VReg) (G : Int → Int → Int) : Perf :=
  lane2 ty.w.bits m d a b fun x y => intRes ty sat (G (ty.int x) (ty.int y))

/-- A compare: the governing bit is the condition on active elements, 0 on the others (R365, R367). -/
def compare (w : Nat) (m : Option MReg) (d : MReg) (a b : VReg) (F : Nat → Nat → Bool) : Perf :=
  regPerf fun q t => t.setMask w d (inWidth w q.width) fun e =>
    t.active w m e && F (elem w (t.vreg a) e) (elem w (t.vreg b) e)

/-- The operands of a condition at a width: signed and unsigned reads come from one 64-bit pattern (R311, R367). -/
def condAt (w : Width) (c : Cond) (x y : Nat) : Bool :=
  let sg := fun v : Nat => (IntTy.ext ⟨w, true⟩ (BitVec.ofNat 64 v))
  match c with
  | .ltu | .geu | .leu | .gtu => c.eval (BitVec.ofNat 64 x) (BitVec.ofNat 64 y)
  | _ => c.eval (sg x) (sg y)

/-- The carry-less product of two 64-bit elements (R368). -/
def clmul (x y : Nat) : Nat → Nat
  | 0 => 0
  | i + 1 => (clmul x y i) ^^^ (if y.testBit i then x * 2 ^ i else 0)

/-! ## Reductions and scans (R275, R276, R372) -/

/-- One level of the tree: neighbours combined, an unpaired last element passing up. -/
def pairUp {α : Type} (f : α → α → α) : List α → List α
  | a :: b :: l => f a b :: pairUp f l
  | l => l

/-- The tree, level by level. -/
def treeReduce {α : Type} (f : α → α → α) (d : α) : Nat → List α → α
  | 0, l => l.headD d
  | n + 1, l => treeReduce f d n (pairUp f l)

/-- One step of the scan at distance k. -/
def scanStep {α : Type} (f : α → α → α) (k : Nat) (l : List α) : List α := l.take k ++ List.zipWith f l (l.drop k)

/-- The scan, steps s, s + 1, …. -/
def scanAll {α : Type} (f : α → α → α) : Nat → Nat → List α → List α
  | 0, _, l => l
  | n + 1, s, l => if 2 ^ s < l.length then scanAll f n (s + 1) (scanStep f (2 ^ s) l) else l

/-- A reduction's floating-point type. -/
inductive RedKind
  | fl (t : VTy)
  | int (t : IntTy)
deriving DecidableEq, Repr

/-- The kind of an operation's elements. -/
def redKind : RedOp → RedKind
  | .fadd t | .fmin t | .fmax t => .fl t
  | .iadd t | .imin t | .imax t | .iand t | .ior t | .ixor t => .int t

/-- The identity as a binary32 code, or as an integer pattern (R275). -/
def redIdent : RedOp → Nat
  | .fadd _ => 0x80000000
  | .fmin _ => 0x7F800000
  | .fmax _ => 0xFF800000
  | .iadd _ | .ior _ | .ixor _ => 0
  | .iand t => 2 ^ t.w.bits - 1
  | .imin t => narrowInt t t.maxVal false
  | .imax t => narrowInt t t.minVal false

/-- One combination: binary32 codes for floating point, patterns for integers (R275, R372). -/
def redNode (op : RedOp) (m : Mod) (x y : Nat) : Nat :=
  match op with
  | .fadd _ => Fmt.f32.encode (Fl.add m.rm (Fmt.f32.decode x) (Fmt.f32.decode y)) m.rm false 0
  | .fmin _ => Fmt.f32.minimum x y
  | .fmax _ => Fmt.f32.maximum x y
  | .iadd t => intRes t m.sat (t.int x + t.int y)
  | .imin t => intRes t false (min (t.int x) (t.int y))
  | .imax t => intRes t false (max (t.int x) (t.int y))
  | .iand _ => x &&& y
  | .ior _ => x ||| y
  | .ixor _ => x ^^^ y

/-- A leaf from an element's bits: binary32 for floating point (R275). -/
def redLeaf (op : RedOp) (x : Nat) : Nat :=
  match redKind op with
  | .fl t => Fmt.f32.encode ((vfmt t).decode x) .rne false 0
  | .int _ => x

/-- The value written from a node (R275, R372). -/
def redOut (op : RedOp) (m : Mod) (x : Nat) : Nat :=
  match redKind op with
  | .fl t => (vfmt t).encode (Fmt.f32.decode x) m.rm false 0
  | .int _ => x

/-- A lane product of VDOT: rounded to the element format, wrapped or clamped (R275, R372). -/
def dotProd (op : RedOp) (m : Mod) (x y : Nat) : Nat :=
  match redKind op with
  | .fl t => (vfmt t).encode (Fl.mul ((vfmt t).decode x) ((vfmt t).decode y)) m.rm false 0
  | .int t => intRes t m.sat (t.int x * t.int y)

/-- The leaves: identities where masked off (R275; DEDUCED, unsafe, log 55). -/
def Task.leaves (t : Task) (op : RedOp) (m : Mod) (W : Nat) (x : Nat → Nat) : List Nat :=
  (List.range (inWidth op.bits W)).map fun e => if t.active op.bits m.mask e then redLeaf op (x e) else redIdent op

/-- Element 0 of the destination from the tree (R372). -/
def Task.reduce (t : Task) (op : RedOp) (m : Mod) (W : Nat) (d : VReg) (x : Nat → Nat) : Task :=
  let r := redOut op m (treeReduce (redNode op m) (redIdent op) 9 (t.leaves op m W x))
  t.setV d (mapElems op.bits (t.vreg d) fun e => if e = 0 then some r else none)

/-! ## Vector memory (R373 to R375) -/

/-- An element's address from the entry and the task. -/
abbrev ElemAddr := Entry → Task → Nat → Addr

/-- The task as its sources were when the entry read them (R360). -/
def Entry.seen (q : Entry) (t : Task) : Task :=
  match q.srcs with
  | some (v, m) => { t with v := v, m := m }
  | none => t

/-- An engine's turn that leaves a command unfinished after some of its elements: its sources have been read (R360). -/
def keepSrcs (perf : Perf) : Perf := fun c q s =>
  let r := perf c q s
  match r.out with
  | .stall | .page .. =>
    if q.srcs.isNone && decide (q.comm < r.comm) then
      { r with s := r.s.modEntry c q fun e => { e with srcs := some ((s.task c q.slot).v, (s.task c q.slot).m) } }
    else r
  | _ => r

/-- One element of a load. -/
def loadElem (w : Width) (d : VReg) (addr : ElemAddr) (W : Nat) (c : Nat) (q : Entry) (e : Nat) (s : State) : PRes :=
  let t := q.seen (s.task c q.slot)
  let total := inWidth w.bits W
  let va := addr q t e
  if !t.active w.bits (some 0) e then ⟨s, e, e, .done⟩
  else if va.toNat % w.bytes ≠ 0 then trapAt s e total 1 cALIGN 0 va
  else
    engAccess s c q (engAcc c .vx t.asid false true false) va w.bytes e total fun s l =>
      if (s.firstPoisonAll l).isSome then poisonStop s e total va
      else
        let x := ofBytes (s.readAll l)
        ⟨s.modTask c q.slot fun t => t.setV d (mapElems w.bits (t.vreg d) fun i => if i = e then some x else none), e, e, .done⟩

/-- One element of a store. -/
def storeElem (w : Width) (d : VReg) (addr : ElemAddr) (W : Nat) (c : Nat) (q : Entry) (e : Nat) (s : State) : PRes :=
  let t := q.seen (s.task c q.slot)
  let total := inWidth w.bits W
  let va := addr q t e
  if !t.active w.bits (some 0) e then ⟨s, e, e, .done⟩
  else if va.toNat % w.bytes ≠ 0 then trapAt s e total 1 cALIGN 0 va
  else
    engAccess s c q (engAcc c .vx t.asid false false true) va w.bytes e total fun s l =>
      ⟨s.writeAll l (toBytes (elem w.bits (t.vreg d) e) w.bytes), e, e, .done⟩

/-- The first of the elements, counted down from e, that lie with it in one aligned 16-byte granule (R232). -/
def granuleStart (addr : Nat → Addr) (e : Nat) : Nat → Nat
  | 0 => e
  | k + 1 => if 0 < e ∧ (addr (e - 1)).toNat / 16 = (addr e).toNat / 16 then granuleStart addr (e - 1) k else e

/-- A state from which the elements of a granule are taken back keeps what their translation has asked for and found (R83, R141). -/
def State.keepAsks (s r : State) : State :=
  { s with
    xlts := r.xlts, xltAns := r.xltAns, hostLog := r.hostLog, zclWait := r.zclWait, tlb := r.tlb, freeCtr := r.freeCtr
    faults := r.faults, pfring := r.pfring, pftail := r.pftail }

/-- Elements up to `total` from a position, at addresses: a stream that stops before its end has begun no granule that it has not finished
(R232). -/
def granular (addr : Nat → Addr) (total pos : Nat) (one : Nat → State → PRes) (s : State) : PRes :=
  let r := stream (total - pos) pos one s
  match r.out with
  | .stall | .page .. =>
    let e := Nat.max pos (granuleStart addr r.comm 16)
    if e < r.comm then { r with s := (stream (e - pos) pos one s).s.keepAsks r.s, comm := e, spec := Nat.max e r.spec } else r
  | _ => r

/-- A vector memory instruction from its committed position (R232). -/
def vecMem (one : Nat → Entry → Nat → State → PRes) (w : Width) (addr : ElemAddr) (W : Entry → Nat) : Perf := keepSrcs fun c q s =>
  granular (addr q (q.seen (s.task c q.slot))) (inWidth w.bits (W q)) q.comm (one c q) s

/-- Addresses of VLD and VST: a base and an index captured (R373). -/
def unitAddr (w : Width) (m : MemOp) : ElemAddr := fun q _ e =>
  q.o0.setWidth 80 + ((q.o1.setWidth 64).signExtend 80 <<< m.scale.toNat) + m.disp.signExtend 80 + BitVec.ofNat 80 (e * w.bytes)

/-- Addresses of VLDS and VSTS (R373). -/
def strideAddr (m : MemOp) : ElemAddr := fun q _ e =>
  q.o0.setWidth 80 + m.disp.signExtend 80 + BitVec.ofNat 80 e * ((q.o1.setWidth 64).signExtend 80 <<< m.scale.toNat)

/-- Addresses of VGATH and VSCAT (R373). -/
def gatherAddr (w : Width) (g : GatherOp) : ElemAddr := fun q t e =>
  q.o0.setWidth 80 + ((BitVec.ofNat w.bits (elem w.bits (t.vreg g.index) e)).signExtend 80 <<< g.scale.toNat) + g.disp.signExtend 80

/-- Captures of a memory operand and of a gather operand. -/
def memCaps (m : MemOp) (t : Task) : List (BitVec 128) := [capA t m.base, capS t m.index]
def gatherCaps (g : GatherOp) (t : Task) : List (BitVec 128) := [capA t g.base]

end Sys2Proof.Machine
end

