-- ==== Sys2Proof/Machine/CxOps.lean ====
section
/-! DEFINITION. What the copies and row-line instructions share: whole-command checks, landing words, units of a copy, waits on a slot (R409 to R411, R417 to R419). -/

namespace Sys2Proof.Machine

/-- A CX entry: captures by encoding field (R409). -/
def cx (i : Instr) (caps : Task → List (BitVec 128)) : Issue := { instr := i, eng := .cx, caps := caps }

/-- A copy-class access of the CX engine for an entry. -/
def cxAcc (s : State) (c : Nat) (q : Entry) (w : Bool) : Acc := engAcc c .cx (s.task c q.slot).asid true (!w) w

/-- The window address of an SPA. -/
def spw (spa : BitVec 36) : Addr := BitVec.allOnes 44 ++ spa

/-- The window address of an offset of a core. -/
def spwAt (core o : Nat) : Addr := spw (BitVec.ofNat 36 (core * 2 ^ 26 + o))

/-! ## Checks on a whole command (R410) -/

/-- A condition that a command fails: whether it fails, its cause and its address. -/
abbrev Check := Bool × BitVec 8 × Addr

/-- The failing condition of lowest rank, the first of equals (R176, R410). -/
def firstTrap : List Check → Option (BitVec 8 × Addr)
  | [] => none
  | (b, code, addr) :: l =>
    match b, firstTrap l with
    | false, r => r
    | true, none => some (code, addr)
    | true, some r => if trapRank r.1 < trapRank code then some r else some (code, addr)

/-- Whole-command checks: the first failure by rank freezes the entry with ECP 0 (R410). -/
def whole (l : List Check) (s : State) (f : PRes) : PRes :=
  match firstTrap l with
  | some (code, addr) => ⟨s, 0, 0, .trap code 0 addr⟩
  | none => f

/-- A scratchpad operand of `n` bytes breaks R125. (DEDUCED, unsafe, log 53) -/
def spBad (s : State) (x : Acc) (a : Addr) (n : Nat) : Bool :=
  vaRegion a == .scratch &&
  match spaPlace s x (a.extractLsb' 0 36) n with
  | .error (.trap _ _) => true
  | _ => false

/-- The unit that a destination names: its scratchpad's, or the issuing unit (R411). -/
def destUnit (s : State) (x : Acc) (a : Addr) : Option Nat :=
  if vaRegion a = .scratch then spaCore s x (a.extractLsb' 0 36) else some x.unit

/-- The checks of a landing word that must lie in a unit (R411). -/
def lwChecks (s : State) (x : Acc) (spa : BitVec 36) (unit : Option Nat) : List Check :=
  let o := (spa.extractLsb' 0 26).toNat
  [(o % 16 != 0, cALIGN, spw spa),
   (unit.isNone || spaCore s x spa != unit || decide (s.spSize (unit.getD 0) < o + 16), cSPACCESS, spw spa)]

/-- Counting the bytes from pos to pos + n of a committed unit in a landing word of a unit (R182, R411): bytes that a run before a replay
has counted count no more (R183), and a muted entry counts nothing (R202). -/
def countLw (s : State) (c : Nat) (q : Entry) (u o pos n : Nat) : State :=
  if q.mute then s
  else
    match redirect s q.redir [(.spm u o, 16)] with
    | some ((p, _) :: _) => s.landAt p (pos + n - Nat.max pos q.landed) (u != c)
    | _ => s

/-- The optional landing word of a copy counts bytes: its SPA names the unit of the destination, checked before. -/
def countOpt (s : State) (c : Nat) (q : Entry) (x : Acc) (lw : Option (BitVec 36)) (pos n : Nat) : State :=
  match lw with
  | none => s
  | some spa => countLw s c q ((spaCore s x spa).getD c) (spa.extractLsb' 0 26).toNat pos n

/-! ## Units (R410) -/

/-- Bytes to the next 4 KiB boundary. -/
def toBoundary (a : Addr) : Nat := 4096 - a.toNat % 4096

/-- Bytes of a chunk of a copy that a pre-emption lets finish (R190). -/
def chunkBytes : Nat := 0x40000

/-- Units of a command of the unit at a core from a position: `size` gives a unit's length, `f` performs it (R182). During a pre-emption
of the unit a copy stops at the end of the 256 KiB chunk in progress (R190). -/
def units (c n : Nat) (size : Nat → Nat) (f : Nat → Nat → State → PRes) : Nat → Nat → State → PRes
  | 0, pos, s => ⟨s, pos, pos, .stall⟩
  | fuel + 1, pos, s =>
    let stop := (s.core c).freeze.isSome
    if n ≤ pos then ⟨s, pos, pos, .done⟩
    else if stop && decide (0 < pos) && pos % chunkBytes == 0 then ⟨s, pos, pos, .stall⟩
    else
      let k := Nat.max 1 (if stop then Nat.min (size pos) (chunkBytes - pos % chunkBytes) else size pos)
      let r := f pos k s
      match r.out with
      | .done => units c n size f fuel (pos + k) r.s
      | _ => r

/-- Enough fuel for a command of `n` bytes cut at two sets of boundaries. -/
def unitFuel (n : Nat) : Nat := n / 2048 + n / chunkBytes + 4

/-- An optional address register as a capture. -/
def lwCap (t : Task) : Option AReg → BitVec 128
  | none => 0
  | some a => capA t a

/-- The SPA of a captured landing word, when named. -/
def lwOf (l : Option AReg) (v : BitVec 128) : Option (BitVec 36) := l.map fun _ => v.setWidth 36

/-- The checks of an optional landing word. -/
def lwOptChecks (s : State) (x : Acc) (lw : Option (BitVec 36)) (unit : Option Nat) : List Check :=
  match lw with
  | none => []
  | some spa => lwChecks s x spa unit

/-- A destination in the issuing unit's own scratchpad locks its bytes (R226). (DEDUCED, unsafe, log 54) -/
def ownLock (c : Nat) (a : Addr) (n : Nat) : Option (Nat × Nat) :=
  let f := (a.extractLsb' 26 10).toNat
  if vaRegion a = .scratch ∧ (f = 1023 ∨ f = c) ∧ n ≠ 0 then some ((a.extractLsb' 0 26).toNat, n) else none

/-! ## Row-line slots (R417 to R419) -/

/-- A row-line slot that a queued command names. -/
def Instr.rowSlot : Instr → Option KReg
  | .rlopen _ k _ | .rlhold _ k | .rlrel _ k | .rlrd _ _ k _ _ | .rlwr _ k _ _ => some k
  | _ => none

/-- A slot number at or beyond the task's grant (R103, R417). -/
def overQuota (s : State) (c : Nat) (q : Entry) (k : KReg) : Bool := decide ((s.task c q.slot).rowq ≤ k.val)

/-- The latch of a slot cannot be accessed now: a refresh, an RFM, self-refresh, or another unit's reservation (R109, R112, R113). -/
def latchBusy (s : State) (c dpa : Nat) : Bool := (s.enterBank c (bankOf dpa)).isNone

/-- A command of a unit on a latch: it waits while the bank takes none (R109, R112, R113). -/
def onLatch (s : State) (c dpa : Nat) (wait : PRes) (f : State → PRes) : PRes :=
  match s.enterBank c (bankOf dpa) with
  | none => wait
  | some s => f s

/-- A row-line entry stalls on its slot; an OPENING slot counts towards WAITLIMIT (R186). -/
def rowStall (s : State) (c : Nat) (q : Entry) (opening : Bool) (spec : Nat) : PRes :=
  ⟨if opening then s.modTask c q.slot fun t => t.startWait (s.now c) else s, 0, spec, .stall⟩

/-- An access to a slot's latch: ROWLOST on EMPTY and LOST, a wait on OPENING and YIELDED, then the access (R106, R419). -/
def onHeld (s : State) (c : Nat) (q : Entry) (k : KReg) (f : State → RowSlot → PRes) : PRes :=
  let r := s.row c q.slot k
  match r.st with
  | .empty | .lost | .saved => ⟨s, 0, 0, .trap cROWLOST 0 (BitVec.ofNat 80 k.val)⟩
  | .opening => rowStall s c q true 0
  | .yieldedRfm | .yieldedTherm => rowStall s c q false 0
  | .held => onLatch s c r.dpa (rowStall s c q false 0) fun s => f s r

/-- An access of a row-line or bank command: it only translates (R418, R421). -/
def rowAcc (s : State) (c : Nat) (q : Entry) : Acc := { cxAcc s c q false with raw := true }

/-- Span word fields (R417). -/
def spanOff (p : Word) : Nat := (p.extractLsb' 0 10).toNat
def spanCnt (p : Word) : Nat := (p.extractLsb' 16 11).toNat
def spanBad (p : Word) : Bool :=
  p.extractLsb' 27 37 != 0 || p.extractLsb' 10 6 != 0 || decide (1024 < spanOff p + spanCnt p)

end Sys2Proof.Machine
end

