-- ==== Sys2Proof/Machine/Copy.lean ====
section
/-! DEFINITION. Class CX, copies: CPY, CPYT, CPYM, FILL (R412 to R416). -/

namespace Sys2Proof.Machine

/-- Two virtual ranges of `n` bytes overlap (R412). -/
def overlap (a d : Addr) (n : Nat) : Bool := decide (a.toNat < d.toNat + n) && decide (d.toNat < a.toNat + n)

/-- One unit moved from a to d with its poison, then counted (R116, R412). -/
def moveUnit (c : Nat) (q : Entry) (a d : Addr) (total : Nat) (lw : Option (BitVec 36)) (pos k : Nat) (s : State) : PRes :=
  engAccess s c q (cxAcc s c q false) (a + BitVec.ofNat 80 pos) k pos total fun s l =>
    engAccess s c q (cxAcc s c q true) (d + BitVec.ofNat 80 pos) k pos total fun s m =>
      let s := s.writeAllTag (s.readAll l) (s.poisonAt l) 0 m
      ⟨countOpt s c q (cxAcc s c q true) lw pos k, pos, pos, .done⟩

/-- CPY on the CX engine (R412). -/
def runCpy (_d _s : AReg) (_n : SReg) (lw : Option AReg) : Perf := fun c q s =>
  let d : Addr := q.o0.setWidth 80
  let a : Addr := q.o1.setWidth 80
  let n := (q.o2.setWidth 64).toNat
  let x := cxAcc s c q true
  let w := lwOf lw q.o3
  if n = 0 then ⟨s, 0, 0, .done⟩
  else
    whole ([(spBad s x a n, cSPACCESS, a), (spBad s x d n, cSPACCESS, d),
            (decide (2 ^ 40 ≤ n) || overlap a d n, cOPFORMAT, d)] ++ lwOptChecks s x w (destUnit s x d)) s
      (units c n (fun pos => Nat.min (n - pos) (Nat.min (toBoundary (a + BitVec.ofNat 80 pos)) (toBoundary (d + BitVec.ofNat 80 pos))))
        (moveUnit c q a d n w) (unitFuel n) q.comm s)

/-- CPY: its issue into the CX queue. -/
def execCpy (y : Sync) (d s' : AReg) (n : SReg) (lw : Option AReg) (s : State) : Host.Outcome State Fault Refusal :=
  engine legal
    { cx (.cpy y d s' n lw) (fun t => [capA t d, capA t s', capS t n, lwCap t lw]) with
      lock := fun c t => ownLock c (t.areg d) (t.sreg n).toNat }
    (runCpy d s' n lw) s

/-! ## CPYT (R413) -/

def tileStride (t : Word) : Nat := (t.extractLsb' 28 36).toNat
def tileRows (t : Word) : Nat := (t.extractLsb' 12 16).toNat
/-- Row length in bytes. -/
def tileLen (t : Word) : Nat := 16 * (t.extractLsb' 0 12).toNat

/-- One unit of CPYT: source row and destination row at the same position, placed under the pattern (R413). -/
def tileUnit (c : Nat) (q : Entry) (p : Nat) (a d : Addr) (t : Word) (dstr total : Nat) (lw : Option (BitVec 36)) (pos k : Nat)
    (s : State) : PRes :=
  let r := pos / tileLen t
  let o := pos % tileLen t
  engAccess s c q (cxAcc s c q false) (a + BitVec.ofNat 80 (tileStride t * r + o)) k pos total fun s l =>
    engAccess s c q (cxAcc s c q true) (d + BitVec.ofNat 80 (16 * dstr * r + o)) k pos total fun s m =>
      let s := match m with
        | (pl, _) :: _ => s.writeSwz pl p (s.readAll l) (s.poisonAt l)
        | [] => s
      ⟨countOpt s c q (cxAcc s c q true) lw pos k, pos, pos, .done⟩

/-- CPYT on the CX engine (R413). -/
def runCpyt (p : BitVec 4) (_d _s : AReg) (_t : SReg) (dstr : BitVec 16) (lw : Option AReg) : Perf := fun c q s =>
  let d : Addr := q.o0.setWidth 80
  let a : Addr := q.o1.setWidth 80
  let t := q.o2.setWidth 64
  let x := cxAcc s c q true
  let w := lwOf lw q.o3
  let n := tileRows t * tileLen t
  let span := fun stride : Nat => stride * (tileRows t - 1) + tileLen t
  whole ([(d.toNat % 16 != 0, cALIGN, d), (vaRegion d != .scratch || spBad s x d (span (16 * dstr.toNat)), cSPACCESS, d),
          (spBad s x a (span (tileStride t)), cSPACCESS, a), (n == 0, cOPFORMAT, d)] ++ lwOptChecks s x w (destUnit s x d)) s
    (units c n
      (fun pos =>
        let r := pos / tileLen t
        let o := pos % tileLen t
        Nat.min (tileLen t - o) (Nat.min (toBoundary (a + BitVec.ofNat 80 (tileStride t * r + o)))
          (toBoundary (d + BitVec.ofNat 80 (16 * dstr.toNat * r + o)))))
      (tileUnit c q p.toNat a d t dstr.toNat n w) (unitFuel n + 3 * tileRows t) q.comm s)

/-- CPYT: its issue into the CX queue. -/
def execCpyt (y : Sync) (p : BitVec 4) (d s' : AReg) (t : SReg) (dstr : BitVec 16) (lw : Option AReg) (s : State) :
    Host.Outcome State Fault Refusal :=
  engine legal
    { cx (.cpyt y p d s' t dstr lw) (fun k => [capA k d, capA k s', capS k t, lwCap k lw]) with
      lock := fun c k => ownLock c (k.areg d) (16 * dstr.toNat * (tileRows (k.sreg t) - 1) + tileLen (k.sreg t))
      swz := p.toNat }
    (runCpyt p d s' t dstr lw) s

/-! ## CPYM (R414) -/

/-- FIRST, COUNT and STEP of a set word. -/
def setFirst (m : Word) : Nat := (m.extractLsb' 0 9).toNat
def setCount (m : Word) : Nat := (m.extractLsb' 9 9).toNat
def setStep (m : Word) : Nat := (m.extractLsb' 18 9).toNat

/-- The destination cores of a set word. -/
def setCores (m : Word) : List Nat := (List.range (setCount m)).map fun k => setFirst m + k * setStep m

/-- Writing one unit at every destination, then counting it in each destination's landing word. -/
def castUnit (c : Nat) (q : Entry) (o total pos k : Nat) (lw : Option (BitVec 26)) (bs : List Byte) (bad : Nat → Bool) :
    List Nat → State → PRes
  | [], s => ⟨s, pos, pos, .done⟩
  | u :: l, s =>
    engAccess s c q (cxAcc s c q true) (spwAt u (o + pos)) k pos total fun s m =>
      let r := castUnit c q o total pos k lw bs bad l s
      match r.out with
      | .done =>
        let s := r.s.writeAllTag bs bad 0 m
        ⟨match lw with | some w => countLw s c q u w.toNat pos k | none => s, pos, pos, .done⟩
      | _ => r

/-- CPYM on the CX engine: the source is read once and written in every unit of the set (R414). -/
def runCpym (_d _s : AReg) (_n _m : SReg) (lw : Option (BitVec 26)) : Perf := fun c q s =>
  let d : Addr := q.o0.setWidth 80
  let a : Addr := q.o1.setWidth 80
  let n := (q.o2.setWidth 64).toNat
  let m := q.o3.setWidth 64
  let x := cxAcc s c q true
  let o := (d.extractLsb' 0 26).toNat
  let bad := fun u : Nat => decide (Config.cores ≤ u) || s.leaderOf u != u
  let name := vaRegion d == .scratch && (d.extractLsb' 26 10).toNat == 1023
  if n = 0 then ⟨s, 0, 0, .done⟩
  else
    whole ((match lw with | some w => [(w.toNat % 16 != 0, cALIGN, spwAt (setFirst m) w.toNat)] | none => []) ++
      [(!name, cSPACCESS, d)] ++
      (setCores m).map (fun u => (bad u, cSPACCESS, spwAt u o)) ++
      (setCores m).map (fun u => (decide (s.spSize u < o + n), cSPACCESS, spwAt u o)) ++
      (match lw with
       | some w => (setCores m).map fun u => (decide (s.spSize u < w.toNat + 16), cSPACCESS, spwAt u w.toNat)
       | none => []) ++
      [(spBad s x a n, cSPACCESS, a),
       (m.extractLsb' 27 37 != 0 || setCount m == 0 || setStep m == 0 || decide (288 < setCount m) || decide (288 < setStep m) ||
        decide (2 ^ 40 ≤ n) || overlap a d n, cOPFORMAT, d)]) s
      (units c n (fun pos => Nat.min (n - pos) (Nat.min (toBoundary (a + BitVec.ofNat 80 pos)) (toBoundary (d + BitVec.ofNat 80 pos))))
        (fun pos k s =>
          engAccess s c q (cxAcc s c q false) (a + BitVec.ofNat 80 pos) k pos n fun s l =>
            castUnit c q o n pos k lw (s.readAll l) (s.poisonAt l) (setCores m) s)
        (unitFuel n) q.comm s)

/-- CPYM: its issue into the CX queue. -/
def execCpym (y : Sync) (d s' : AReg) (n m : SReg) (lw : Option (BitVec 26)) (s : State) : Host.Outcome State Fault Refusal :=
  engine legal
    { cx (.cpym y d s' n m lw) (fun t => [capA t d, capA t s', capS t n, capS t m]) with
      lock := fun c t =>
        if ((t.areg d).extractLsb' 26 10).toNat = 1023 ∧ c ∈ setCores (t.sreg m) then ownLock c (t.areg d) (t.sreg n).toNat else none }
    (runCpym d s' n m lw) s

/-! ## FILL (R415) -/

/-- FILL on the CX engine (R415). -/
def runFill (w : Width) (_d : AReg) (_n _v : SReg) (lw : Option AReg) : Perf := fun c q s =>
  let d : Addr := q.o0.setWidth 80
  let n := (q.o1.setWidth 64).toNat
  let pat := (lowBytes (q.o2.setWidth 64) w.bytes).toArray
  let x := cxAcc s c q true
  let l := lwOf lw q.o3
  if n = 0 then ⟨s, 0, 0, .done⟩
  else
    whole ([(d.toNat % w.bytes != 0, cALIGN, d), (spBad s x d n, cSPACCESS, d),
            (n % w.bytes != 0 || decide (2 ^ 40 ≤ n), cOPFORMAT, d)] ++ lwOptChecks s x l (destUnit s x d)) s
      (units c n (fun pos => Nat.min (n - pos) (toBoundary (d + BitVec.ofNat 80 pos)))
        (fun pos k s =>
          engAccess s c q (cxAcc s c q true) (d + BitVec.ofNat 80 pos) k pos n fun s m =>
            let s := s.writeAll m ((List.range k).map fun i => pat.getD ((pos + i) % w.bytes) 0)
            ⟨countOpt s c q x l pos k, pos, pos, .done⟩)
        (unitFuel n) q.comm s)

/-- FILL: its issue into the CX queue. -/
def execFill (y : Sync) (w : Width) (d : AReg) (n v : SReg) (lw : Option AReg) (s : State) : Host.Outcome State Fault Refusal :=
  engine legal
    { cx (.fill y w d n v lw) (fun t => [capA t d, capS t n, capS t v, lwCap t lw]) with
      lock := fun c t => ownLock c (t.areg d) (t.sreg n).toNat }
    (runFill w d n v lw) s

end Sys2Proof.Machine
end

