-- ==== Sys2Proof/Machine/Hazard.lean ====
section
/-! DEFINITION. The scalar registers that an instruction's fields name, and the reservation by which it waits at issue (R361). -/

namespace Sys2Proof

/-- Scalar registers of an operand with two forms. -/
def srcRegs : SrcB → List SReg
  | .reg r => [r]
  | .imm _ => []
def cntRegs : Cnt → List SReg
  | .reg r => [r]
  | .imm _ => []
def maskRegs : MaskSrc → List SReg
  | .reg r => [r]
  | .imm _ => []
def classRegs : ClassSrc → List SReg
  | .reg r => [r]
  | .imm _ => []
def widthRegs : WidthSrc → List SReg
  | .reg r => [r]
  | .imm _ => []
def moveRegs : SprMove → List SReg
  | .s r _ => [r]
  | .a _ _ => []
def PsetOp.regs : PsetOp → List SReg
  | .nz _ a => [a]
  | .const .. | .and .. | .or .. | .xor .. | .not .. | .andn .. => []
def AgenOp.regs : AgenOp → List SReg
  | .write _ a => [a]
  | .read d _ => [d]
def ModeOp.regs : ModeOp → List SReg
  | .read d | .clri d => [d]
  | .set d a | .setclri d a => [d, a]
def ChkOp.regs : ChkOp → List SReg
  | .read d a => [d, a]
  | .set a _ _ => [a]

/-- The scalar registers that an instruction reads or writes. -/
def Instr.sregs : Instr → List SReg
  | .add _ d a b => [d, a] ++ srcRegs b
  | .sub _ d a b => [d, a] ++ srcRegs b
  | .mul _ d a b => [d, a] ++ srcRegs b
  | .mulh _ _ d a b => [d, a] ++ srcRegs b
  | .div _ _ d a b => [d, a] ++ srcRegs b
  | .rem _ _ d a b => [d, a] ++ srcRegs b
  | .min _ _ d a b => [d, a] ++ srcRegs b
  | .max _ _ d a b => [d, a] ++ srcRegs b
  | .and _ d a b => [d, a] ++ srcRegs b
  | .or _ d a b => [d, a] ++ srcRegs b
  | .xor _ d a b => [d, a] ++ srcRegs b
  | .andn _ d a b => [d, a] ++ srcRegs b
  | .shl _ d a b => [d, a] ++ srcRegs b
  | .shr _ d a b => [d, a] ++ srcRegs b
  | .sar _ d a b => [d, a] ++ srcRegs b
  | .rotr _ d a b => [d, a] ++ srcRegs b
  | .clz _ _ d a => [d, a]
  | .ctz _ _ d a => [d, a]
  | .popc _ _ d a => [d, a]
  | .bswap _ _ d a => [d, a]
  | .ext _ _ d a _ _ => [d, a]
  | .ins _ d a _ _ => [d, a]
  | .sel _ d _ a b => [d, a, b]
  | .cmp _ _ _ a b => [a] ++ srcRegs b
  | .movi _ d _ => [d]
  | .movhi _ d _ => [d]
  | .mov _ d a => [d, a]
  | .pset _ op => op.regs
  | .sext _ _ d a => [d, a]
  | .zext _ _ d a => [d, a]
  | .fadd _ _ _ d a b => [d, a, b]
  | .fsub _ _ _ d a b => [d, a, b]
  | .fmul _ _ _ d a b => [d, a, b]
  | .ffma _ _ _ d a b c => [d, a, b, c]
  | .fdiv _ _ _ d a b => [d, a, b]
  | .fsqrt _ _ _ d a => [d, a]
  | .fmin _ _ d a b => [d, a, b]
  | .fmax _ _ d a b => [d, a, b]
  | .fcmp _ _ _ _ a b => [a, b]
  | .fcvt _ _ _ _ d a => [d, a]
  | .icvtf _ _ _ _ d a => [d, a]
  | .fcvti _ _ _ _ d a => [d, a]
  | .aadd _ _ _ b => [b]
  | .alea _ _ m => [m.index]
  | .aset _ _ a b => [a, b]
  | .aget _ _ d _ => [d]
  | .asub _ d _ _ => [d]
  | .achk _ _ _ _ b => [b]
  | .ld _ _ _ d m => [d, m.index]
  | .st _ _ _ d m => [d, m.index]
  | .lda _ _ _ m => [m.index]
  | .sta _ _ _ m => [m.index]
  | .atom _ _ _ _ d i _ _ => [d, i]
  | .cas _ _ _ d i _ _ => [d, i]
  | .pref _ _ m => [m.index]
  | .loop _ a _ => [a]
  | .srd _ x => moveRegs x
  | .swr _ x => moveRegs x
  | .mbrd _ d _ => [d]
  | .mbwr _ _ a => [a]
  | .semwait _ _ k => cntRegs k
  | .semsig _ _ k => cntRegs k
  | .semset _ _ k => cntRegs k
  | .semrd _ d _ => [d]
  | .mwait _ _ _ _ d _ b => [d, b]
  | .lwinit _ _ b c _ => [b, c]
  | .lwwait _ d _ g => [d] ++ cntRegs g
  | .lwrd _ d _ => [d]
  | .barinit _ _ m => maskRegs m
  | .bararr _ d _ => [d]
  | .barwait _ _ p => [p]
  | .spawn _ d _ => [d]
  | .setclass _ d c => [d] ++ classRegs c
  | .ecall _ d a _ => [d, a]
  | .vbcast _ _ _ _ a => [a]
  | .vextr _ _ d _ b => [d, b]
  | .vinsr _ _ _ a b => [a, b]
  | .vrot _ _ _ _ _ b => [b]
  | .vld _ _ _ m => [m.index]
  | .vst _ _ _ m => [m.index]
  | .vlds _ _ _ m => [m.index]
  | .vsts _ _ _ m => [m.index]
  | .mpopc _ d _ => [d]
  | .msetl _ _ _ a => [a]
  | .vsetw _ d x => [d] ++ widthRegs x
  | .txrun _ _ _ _ _ _ n _ => [n]
  | .txcfg _ _ a b => [a, b]
  | .txrd _ d _ a => [d, a]
  | .mxldw _ _ _ t _ _ => [t]
  | .mxldwt _ _ _ t _ _ => [t]
  | .mxpass _ _ _ _ t _ _ => [t]
  | .mxst _ _ _ _ _ _ t _ => [t]
  | .mxrdv _ _ _ _ _ _ t => [t]
  | .mxwrv _ _ _ t => [t]
  | .mxagen _ op => op.regs
  | .mxscl _ _ t _ => [t]
  | .mxmode _ op => op.regs
  | .mxchk _ op => op.regs
  | .cpy _ _ _ n _ => [n]
  | .cpyt _ _ _ _ t _ _ => [t]
  | .cpym _ _ _ n m _ => [n, m]
  | .fill _ _ _ n v _ => [n, v]
  | .rlrd _ _ _ p _ => [p]
  | .rlwr _ _ _ p => [p]
  | .rlstat _ d _ => [d]
  | .sqload _ _ d _ _ n => [d, n]
  | .sqstart _ d _ _ => [d]
  | .sqstop _ d _ => [d]
  | .sqstat _ d _ => [d]
  | .put _ _ _ _ k c _ => [k, c]
  | .get _ _ _ _ k c _ => [k, c]
  | .rld _ _ _ _ d _ k c => [d, k, c]
  | .rst _ _ _ _ v _ k c => [v, k, c]
  | .ratom _ _ _ _ _ v _ k c => [v, k, c]
  | .rcas _ _ _ _ d _ n c => [d, n, c, c + 1]
  | .sld _ _ _ _ d i _ => [d, i, i + 1]
  | .sst _ _ _ _ v i _ => [v, i, i + 1]
  | .sget _ _ _ i n _ _ => [i, i + 1, n]
  | .sput _ _ _ i n _ => [i, i + 1, n]
  | .shupd _ d _ _ => [d]
  | .grant _ d a => [d, a]
  | .revoke _ a => [a]
  | .aaddi .. | .amov .. | .acmp .. | .br .. | .brp .. | .jmp .. | .call .. | .calla .. | .ret .. | .loopi ..
  | .loopmb .. | .lpbrk .. | .nop .. | .semcfg .. | .qjoin .. | .fence .. | .yieldTask .. | .texit .. | .cropen ..
  | .crclose .. | .trap .. | .tret .. | .halt .. | .vadd .. | .vsub .. | .vmul .. | .vfma .. | .vfms .. | .vmin ..
  | .vmax .. | .vabs .. | .vneg .. | .vrcp .. | .vrsq .. | .vexp2 .. | .vlog2 .. | .vdiv .. | .vsqrt .. | .vfcmp ..
  | .viadd .. | .visub .. | .vimul .. | .vimad .. | .vimin .. | .vimax .. | .vand .. | .vor .. | .vxor .. | .vnot ..
  | .vshl .. | .vshr .. | .vsar .. | .vicmp .. | .vpopc .. | .vclmul .. | .vcvt .. | .vpack .. | .vunpack ..
  | .vperm .. | .vsel .. | .vmov .. | .vred .. | .vscan .. | .vdot .. | .vgath .. | .vscat .. | .mlog .. | .txload ..
  | .txv .. | .mxzero .. | .mxidle .. | .rlopen .. | .rlhold .. | .rlrel .. | .streamrow .. | .bankclose ..
  | .sqburst .. | .sqset .. | .sqsig .. | .sqwait .. | .sqloop .. | .sqend | .flush .. | .shfence .. | .powerOn
  | .powerOff | .attestationRequest | .devctlWarmrst | .tmcmdTruncate | .ageingSample | .clkSetstepWrite
  | .clockChangePoint | .clockRelockComplete | .thermalThrottle | .throttleStep | .thermalTrip | .matrixAutoidleGate
  | .matrixGatingDone | .matrixWakeDone | .codewordRowReceive | .laneWindowEnd | .laneProposeRepeat | .flitTransmit
  | .idleFlitReceive | .sequencedFlitReceive | .retryReceive | .retryResendTimeout | .replayTimeout
  | .laneProposeReceive | .laneCommitReceive | .laneDoneReceive | .trainingWordReceive | .trainingWordRepeat
  | .strandedBackoffExpiry | .downRetrainTimer | .lthrWrite | .lctlClrdown | .lctlClrcnt | .lctlRetrain | .lctlHold
  | .lctlPerhop | .portDegradeWindow | .packetRoute | .packetForward | .ebbtExpiry | .ebbPacketForward | .tree
  | .ebbFlip | .flipReceive | .drainSend | .drain | .ebbReportsCollected | .putreq | .getreq | .ldreq | .streq
  | .atomreq | .casreq | .ordreq | .mgmt | .ack | .data | .atomrsp | .nack | .requestResendTimeout | .ordResend
  | .ordRoundAbandon | .completionRecordExpiry | .wintWrite | .zclCfgMessage | .zclLinkDown | .hostlinkTimeout
  | .zclMemCompletion | .xltReply | .inv | .invComplete | .launchWrite | .queueToPool | .lpcfgWrite | .lpringWrite
  | .lpptrHeadWrite | .mailboxHostWrite | .registerWrite | .latchGrant | .leaseExpiry | .refreshIssue
  | .refreshComplete | .rfmIssue | .rfmComplete | .stackTempReport | .selfRefreshExit | .memcfgWrite | .scrubRead
  | .bankReservationWaitExpiry | .burstSlotGrant | .pageWalk | .streamTlbWalkAhead | .pfheadWrite | .map | .unmap
  | .modify | .flushasid | .resume | .refuse | .mappingBadop | .mappingCommandComplete | .unitPlacement
  | .unitClearComplete | .prewaitExpiry | .schedctlWrite | .sweepComplete | .pendingTrapTaken | .waittimeExpiry
  | .waitConditionMet | .preemptionImageWrite | .preempt | .exportSweep | .importSweep | .releaseSweep | .sweepCmdBadop
  | .dbgctlHalt | .dbgctlRelease | .dbgctlHaltonbrk | .instructionFetch | .engineEntryStart | .engineUnitCommit
  | .engineEntryComplete | .ecallReply | .mwaitPoll | .sqwaitPoll | .zclLinkUp | .laneLossOfLock
  | .imageRestoreComplete | .sweepCommandComplete | .sequencerWordDecodeError => []

end Sys2Proof

namespace Sys2Proof.Machine

/-- The instruction names a register that an engine entry of the task is to write: it waits at issue (R361). -/
def Task.regBusy (t : Task) (i : Instr) : Bool := (Instr.sregs i).any fun r => t.resvd.contains r

end Sys2Proof.Machine
end

