-- ==== Sys2Proof/Machine/ScMem.lean ====
section
/-! DEFINITION. Class SC, loads, stores and atomics (R317 to R321). One memory is performed in one order (DESIGN CHOICE, unsafe, log 5); an acquire beyond .core empties
the data cache, a release at .fab or .sys waits for acknowledgements (R241 to R243). -/

namespace Sys2Proof.Machine

/-- LD: the bytes, extended by the type's signedness (R317). -/
def execLd (y : Sync) (t : IntTy) (o : OrdScope) (d : SReg) (m : MemOp) (s : State) : Host.Outcome State Fault Refusal :=
  scalar legal y (fun c n s =>
    cachedLoad s c n ((s.task c n).ea m) t.w.bytes o fun s bs =>
      .done (s.modTask c n fun k => k.setS d (t.ext (BitVec.ofNat 64 (ofBytes bs))))) s

/-- ST: the low bytes of s[D] (R317). -/
def execSt (y : Sync) (t : IntTy) (o : OrdScope) (d : SReg) (m : MemOp) (s : State) : Host.Outcome State Fault Refusal :=
  scalar legal y (fun c n s =>
    scalarStore s c n ((s.task c n).ea m) o (lowBytes ((s.task c n).sreg d) t.w.bytes)) s

/-- LDA: 16 bytes, of which bits [79:0] (R317). -/
def execLda (y : Sync) (o : OrdScope) (d : AReg) (m : MemOp) (s : State) : Host.Outcome State Fault Refusal :=
  scalar legal y (fun c n s =>
    cachedLoad s c n ((s.task c n).ea m) 16 o fun s bs =>
      .done (s.modTask c n fun k => k.setA d (BitVec.ofNat 80 (ofBytes bs)))) s

/-- STA: the address zero-extended to 16 bytes (R317). -/
def execSta (y : Sync) (o : OrdScope) (d : AReg) (m : MemOp) (s : State) : Host.Outcome State Fault Refusal :=
  scalar legal y (fun c n s =>
    scalarStore s c n ((s.task c n).ea m) o (toBytes ((s.task c n).areg d).toNat 16)) s

/-- The new value of ATOM, on w-byte values (R318). -/
def atomValue (op : AtomOp) (t : IntTy) (o b : Nat) : Nat :=
  let w := 2 ^ t.w.bits
  match op with
  | .add => (o + b) % w
  | .and => o &&& b
  | .or => o ||| b
  | .xor => o ^^^ b
  | .min => if t.int o ≤ t.int b then o else b
  | .max => if t.int o ≤ t.int b then b else o
  | .xchg => b

/-- A read-modify-write: one read of memory, and one write of `f old` when it gives one; a poisoned operand is consumed and nothing written;
a release is held while it awaits acknowledgements (R242, R318). -/
def scalarRmw (s : State) (c n : Nat) (t : IntTy) (o : OrdScope) (d : SReg) (va : Addr) (f : Nat → Option Nat) : Act :=
  scalarAccess s c n va t.w.bytes t.w.bytes true true fun s l =>
    if o.awaits && !(s.acked c n) then .hold s .waiting .fence
    else if (s.firstPoisonAll l).isSome then .poison s va
    else
      let old := ofBytes (s.readAll l)
      let s := match f old with
        | some v => s.storeAll c l (toBytes v t.w.bytes)
        | none => s.refresh c l
      .done ((s.acquired c o).modTask c n fun k => k.setS d (t.ext (BitVec.ofNat 64 old)))

/-- ATOM (R318). -/
def execAtom (y : Sync) (op : AtomOp) (t : IntTy) (o : OrdScope) (d i : SReg) (base : AReg) (disp : BitVec 28) (s : State) :
    Host.Outcome State Fault Refusal :=
  scalar legal y (fun c n s =>
    let k := s.task c n
    let b := (k.sreg i).toNat % 2 ^ t.w.bits
    scalarRmw s c n t o d (k.atomAddr base disp) fun old => some (atomValue op t old b)) s

/-- CAS: s[D] holds the expected value and s[INDEX] the new one (R318). -/
def execCas (y : Sync) (t : IntTy) (o : OrdScope) (d i : SReg) (base : AReg) (disp : BitVec 28) (s : State) :
    Host.Outcome State Fault Refusal :=
  scalar legal y (fun c n s =>
    let k := s.task c n
    let e := (k.sreg d).toNat % 2 ^ t.w.bits
    let b := (k.sreg i).toNat % 2 ^ t.w.bits
    scalarRmw s c n t o d (k.atomAddr base disp) fun old => if old = e then some b else none) s

/-- Asking for the line of an address: one of the device half that translates comes into the data cache of the task's unit, unless it is
there, is poisoned, or its bank takes no read now (R319). -/
def State.prefetch (s : State) (c n : Nat) (va : Addr) : State :=
  if vaRegion va ≠ .device then s
  else
    match xlate s (scalarAcc c (s.task c n).asid true false false) va 1 false with
    | (t, .ok (.hbm d key)) =>
      if (t.dline c d key).isSome || (t.firstPoison (.hbm (d / lineBytes * lineBytes) key) lineBytes).isSome then t
      else
        match t.useRow c d with
        | some t => t.fillLine c d key
        | none => t
    | _ => s

/-- PREF changes no architectural state; it never traps, parks or waits (R319). -/
def execPref (y : Sync) (_sc : Scope) (m : MemOp) (s : State) : Host.Outcome State Fault Refusal :=
  scalar legal y (fun c n s => .done (s.prefetch c n ((s.task c n).ea m))) s

end Sys2Proof.Machine
end

