-- ==== Sys2Proof/Machine/Sweep.lean ====
section
/-! DEFINITION. Sweep records, their checks, the pool and the memory queue, the walker's orders and the start of a task (R151 to R165). -/

namespace Sys2Proof.Machine

/-! ## The record (R151) -/

/-- A field of a record: `n` bytes from an offset, little-endian. -/
def field (bs : List Byte) (off n : Nat) : Nat := ofBytes ((bs.drop off).take n)

/-- A gang code (R151); 3 is malformed and read as GANG4. -/
def gangOf : Nat → Gang
  | 0 => .single | 1 => .gang2 | _ => .gang4

/-- The fields of a record's 128 bytes (R151). -/
def SweepRec.parse (bs : List Byte) : SweepRec :=
  let flags := field bs 1 1
  let prio := field bs 2 1
  let walk := field bs 3 1
  { bytes := bs
    coresident := flags % 2 == 1
    drop := flags / 2 % 2 == 1
    gang := gangOf (flags / 4 % 4)
    priv := flags / 16 % 2 == 1
    cls := BitVec.ofNat 2 prio
    ceil := BitVec.ofNat 2 (prio / 4)
    rank := walk % 4 + 1
    order := walk / 4 % 8
    rowq := field bs 4 1 % 32
    tpc := field bs 5 1 % 16
    e0 := field bs 8 4
    e1 := field bs 12 4
    e2 := field bs 16 4
    e3 := field bs 20 4
    tb0 := field bs 24 2
    tb1 := field bs 26 2
    scroff := field bs 28 4
    entry := BitVec.ofNat 80 (field bs 32 10)
    arg := BitVec.ofNat 80 (field bs 42 10)
    notify := BitVec.ofNat 80 (field bs 52 10)
    cbase := field bs 64 2
    ccount := field bs 66 2
    live := BitVec.ofNat 128 (field bs 72 16)
    seed := BitVec.ofNat 64 (field bs 88 8) }

/-- Extents of the dimensions below RANK. -/
def SweepRec.extents (r : SweepRec) : List Nat := [r.e0, r.e1, r.e2, r.e3].take r.rank

/-- Iterations of a sweep (R152, R173). -/
def SweepRec.iterations (r : SweepRec) : Nat := r.e0 * r.e1 * r.e2 * r.e3

/-- Reserved fields of a record are zero (R12, R151). -/
def recReservedOk (bs : List Byte) : Bool :=
  field bs 1 1 / 32 == 0 && field bs 2 1 / 16 == 0 && field bs 3 1 / 32 == 0 && field bs 4 1 / 32 == 0 && field bs 5 1 / 16 == 0 &&
  field bs 6 2 == 0 && field bs 62 2 == 0 && field bs 68 4 == 0 && field bs 96 32 == 0

/-- NOTIFY keeps the rules of R152: aligned, in no scratchpad window, a child's in no host half. -/
def SweepRec.notifyBad (r : SweepRec) (child : Bool) : Bool :=
  (r.notify != 0 && vaRegion r.notify == .scratch) || r.notify.toNat % 8 != 0 ||
  (child && r.notify != 0 && vaRegion r.notify == .host)

/-- A record that R152 refuses as MALFORMED; a child's NOTIFY lies in no host half. -/
def SweepRec.malformed (r : SweepRec) (child : Bool) : Bool :=
  let bs := r.bytes
  let units := r.gang.size
  field bs 0 1 != 1 || !recReservedOk bs || field bs 1 1 / 4 % 4 == 3 ||
  r.cls.ult r.ceil ||
  decide (3 < r.order) || (r.order == 3 && r.rank == 1) || (r.order == 3 && (r.tb0 == 0 || r.tb1 == 0)) ||
  (r.order != 3 && (r.tb0 != 0 || r.tb1 != 0)) ||
  decide (16 < r.rowq) || r.tpc == 0 || decide (8 < r.tpc) ||
  (([r.e0, r.e1, r.e2, r.e3].drop r.rank).any fun e => e != 1) || decide (2 ^ 48 ≤ r.iterations) ||
  r.entry.toNat % 4 != 0 || vaRegion r.entry == .scratch || vaRegion r.arg == .scratch ||
  r.notifyBad child ||
  r.ccount == 0 || decide (Config.cores < r.cbase + r.ccount) || r.cbase % units != 0 || r.ccount % units != 0 ||
  r.scroff % 64 != 0 || decide (Config.spBytes * units ≤ r.scroff) ||
  decide (2 ^ (28 * units) ≤ r.live.toNat)

/-- Units of a core set, by their lowest cores. -/
def SweepRec.units (r : SweepRec) : List Nat :=
  (List.range (r.ccount / r.gang.size)).map fun i => r.cbase + i * r.gang.size

/-- Every core of a unit is in a cluster in service (R33, R39). -/
def State.inService (s : State) (u m : Nat) : Bool :=
  (List.range m).all fun i => !(s.cluster ((u + i) / 18)).retired

/-- The outcome of the checks of R153; none when the record is accepted. -/
def checkRec (s : State) (r : SweepRec) (child : Bool) (floor : BitVec 2) (mayPriv : Bool) : Option (BitVec 8) :=
  if r.malformed child then some 3
  else if r.ceil.ult floor then some 4
  else if r.priv && !mayPriv then some 6
  else
    let u := (r.units.filter fun u => s.inService u r.gang.size).length
    let n := r.iterations
    if n ≠ 0 ∧ (u = 0 ∨ (r.coresident ∧ u * r.tpc < n)) then some 2
    else none

/-! ## Pool and queue (R154 to R156) -/

/-- The first number of `i`, `i + 1`, … that is not in a list. -/
def firstFree (used : List Nat) : Nat → Nat → Nat
  | 0, i => i
  | fuel + 1, i => if used.contains i then firstFree used fuel (i + 1) else i

/-- The first pool entry open to a launch or a child (R155). -/
def State.poolEntry (s : State) (child : Bool) : Option Nat :=
  let used := s.sweeps.filterMap fun w => w.entry
  let i := firstFree used used.length 0
  if i < (if child then 4096 else 3840) then some i else none

/-- Records in the memory queue (R155). -/
def State.mqCount (s : State) : Nat := (s.sweeps.filter fun w => w.entry.isNone).length

/-- Neither the pool nor the queue takes a record (R156). -/
def State.poolFull (s : State) (child : Bool) : Bool := (s.poolEntry child).isNone && decide (65536 ≤ s.mqCount)

/-- A queue entry's DPA (R155). -/
def mqDpa (i : Nat) : Nat := 0xBF1B000000 + i % 65536 * 128

/-- Accepting a checked record: the next id, a pool entry or a place in the queue (R154, R155). -/
def State.accept (s : State) (r : SweepRec) (asid : BitVec 16) (src : Source) : State × BitVec 32 :=
  let id := s.nextSweep
  let child := match src with | .child _ => true | .launch _ _ => false
  let e := s.poolEntry child
  let s := if e.isNone then { s.mgmtWrite (mqDpa s.mqTail) r.bytes with mqTail := s.mqTail + 1 } else s
  let w : Sweep :=
    { id := id, rec' := r, asid := asid, src := src, entry := e, accepted := s.acceptCtr, placed := 0, done := 0, doneBefore := 0,
      prevUnit := none, held := false, ended := if r.iterations = 0 then some (0, 0) else none, firstFor := none, reported := false, renames := [] }
  let s := { s with
    sweeps := s.sweeps ++ [w], acceptCtr := s.acceptCtr + 1
    nextSweep := if id + 1 = 0xFFFFFFFF then 0 else id + 1 }
  (s.tryComplete id, id)

/-! ## Walker orders (R158) -/

/-- Mixed-radix digits of a number, most significant first. -/
def digits (es : List Nat) (n : Nat) : List Nat :=
  (es.foldr (fun e acc => (acc.2 % e :: acc.1, acc.2 / e)) (([], n) : List Nat × Nat)).1

/-- The n-th iteration in LEX order. -/
def lexIndex (es : List Nat) (n : Nat) : List Nat := digits es n

/-- SERP: the last index runs down when the LEX rank of the others is odd. -/
def serpIndex (es : List Nat) (n : Nat) : List Nat :=
  let l := es.getLastD 1
  let d := digits es n
  if n / l % 2 = 1 then d.dropLast ++ [l - 1 - d.getLastD 0] else d

/-- BLOCK: the last two dimensions by blocks of tb0 × tb1. -/
def blockIndex (es : List Nat) (tb0 tb1 n : Nat) : List Nat :=
  let outer := es.take (es.length - 2)
  let er := es.getD (es.length - 2) 1
  let ec := es.getD (es.length - 1) 1
  let m := n % (er * ec)
  let br := m / (tb0 * ec)
  let h := Nat.min tb0 (er - br * tb0)
  let m := m % (tb0 * ec)
  let bc := m / (h * tb1)
  let w := Nat.min tb1 (ec - bc * tb1)
  let m := m % (h * tb1)
  digits outer (n / (er * ec)) ++ [br * tb0 + m / w, bc * tb1 + m % w]

/-- Indices i0 to i3 of the n-th iteration in walk order (R158). -/
def SweepRec.index (r : SweepRec) (n : Nat) : List Nat :=
  let es := r.extents
  let is := match r.order with
    | 0 => lexIndex es n
    | 1 => (digits es.reverse n).reverse
    | 2 => serpIndex es n
    | _ => blockIndex es r.tb0 r.tb1 n
  (is ++ [0, 0, 0, 0]).take 4

/-- Linear iteration number (R158). -/
def SweepRec.linear (r : SweepRec) (is : List Nat) : Nat :=
  ((is.getD 0 0 * r.e1 + is.getD 1 0) * r.e2 + is.getD 2 0) * r.e3 + is.getD 3 0

/-! ## Task start (R164, R165) -/

/-- The task of one iteration at its start (R164). -/
def startTask (w : Sweep) (is : List Nat) : Task :=
  let r := w.rec'
  let lin := r.linear is
  let word := fun (x : Nat) => BitVec.ofNat 64 x
  let t : Task := { Task.idle with
    st := .ready, sweep := w.id, asid := w.asid, iter := lin, seed := r.seed, ceil := r.ceil, pc := r.entry
    m := Vector.replicate 8 (BitVec.allOnes 128), width := 128, waitlimit := 0x80000000, priv := r.priv, cls := r.cls, rowq := r.rowq }
  let t := ((t.setS 1 (word (is.getD 0 0))).setS 2 (word (is.getD 1 0))).setS 3 (word (is.getD 2 0))
  let t := ((t.setS 4 (word (is.getD 3 0))).setS 5 (word lin)).setS 6 (w.id.setWidth 64)
  (t.setA 0 r.arg).setA 1 (0xFFFFFFFFFFFFFC000000 + BitVec.ofNat 80 r.scroff)

end Sys2Proof.Machine
end

