-- ==== Sys2Proof/Machine/Sync.lean ====
section
/-! DEFINITION. Class SY, semaphores, joins, fences, monitor waits, landing words and barriers (R332 to R344). -/

namespace Sys2Proof.Machine

/-! ## Semaphores (R337, R338) -/

/-- SEMWAIT: the count is taken whole; an acquire at .dev when EXT is set (R241, R243, R336, R337). -/
def execSemwait (y : Sync) (q : BitVec 8) (k : Cnt) (s : State) : Host.Outcome State Fault Refusal :=
  scalar legal y (fun c n s =>
    let m := (s.task c n).cnt k
    match s.semTake c q m with
    | some t => .done (if (s.sem c q.toNat).ext then t.invalidate c else t)
    | none => .hold s .waiting (.sem q m)) s

/-- SEMSIG (R337). -/
def execSemsig (y : Sync) (q : BitVec 8) (k : Cnt) (s : State) : Host.Outcome State Fault Refusal :=
  scalar legal y (fun c n s => .done (s.signal c q ((s.task c n).cnt k))) s

/-- SEMSET: the count clamped, OVF set when it was (R338). -/
def execSemset (y : Sync) (q : BitVec 8) (k : Cnt) (s : State) : Host.Outcome State Fault Refusal :=
  scalar legal y (fun c n s =>
    let v := (s.task c n).cnt k
    .done (s.setSem c q.toNat
      { s.sem c q.toNat with count := BitVec.ofNat 16 (Nat.min v 65535), ovf := decide (65535 < v), dev := false })) s

/-- What the instruction's own SYNC wait has taken from a semaphore. -/
def Task.tookOf (t : Task) (q : BitVec 8) : BitVec 16 :=
  match t.took with
  | some (r, k) => if r = q then BitVec.ofNat 16 k else 0
  | none => 0

/-- SEMRD: count, OVF in [16], EXT in [17], as they were before the instruction's own wait (R338). -/
def execSemrd (y : Sync) (d : SReg) (q : BitVec 8) (s : State) : Host.Outcome State Fault Refusal :=
  scalar legal y (fun c n s =>
    let m := s.sem c q.toNat
    .done (s.modTask c n fun t => t.setS d
      ((m.count + t.tookOf q).setWidth 64 ||| (if m.ovf then 0x10000 else 0) ||| (if m.ext then 0x20000 else 0)))) s

/-- SEMCFG: setting EXT is privileged (R304, R338). -/
def execSemcfg (y : Sync) (q : BitVec 8) (e : Bool) (s : State) : Host.Outcome State Fault Refusal :=
  scalar (fun t => e && !t.priv) y (fun c _ s => .done (s.setSem c q.toNat { s.sem c q.toNat with ext := e })) s

/-! ## Joins and fences (R247, R339) -/

/-- Every entry of the task in the named engines has left its queue (R247). -/
def State.joined (s : State) (c n : Nat) (m : BitVec 5) : Bool :=
  !((s.core c).queue.any fun q => q.slot == n && m.getLsbD (q.eng.code - 1))

/-- QJOIN (R339). -/
def execQjoin (y : Sync) (m : BitVec 5) (s : State) : Host.Outcome State Fault Refusal :=
  scalar legal y (fun c n s => if s.joined c n m then .done s else .hold s .waiting (.join m)) s

/-- A stack is in self-refresh: requests to it wait (R112). -/
def State.anySref (s : State) : Bool := s.hbm.stackRegs.any fun e => e.2.sref

/-- FENCE: at .fab and .sys a release waits for acknowledgements, beyond .core for a stack in self-refresh; an acquire beyond .core empties
the data cache (R112, R241, R242, R243, R339). -/
def execFence (y : Sync) (o : FenceOrd) (sc : Scope) (s : State) : Host.Outcome State Fault Refusal :=
  scalar legal y (fun c n s =>
    if o ≠ .acq ∧ (sc = .fab ∨ sc = .sys) ∧ s.acked c n = false then .hold s .waiting .fence
    else if o ≠ .acq ∧ sc ≠ .core ∧ s.anySref then .hold s .waiting .selfRefresh
    else .done (if o ≠ .rel ∧ sc ≠ .core then s.invalidate c else s)) s

/-! ## Monitor wait (R340) -/

/-- MWAIT: every read is an acquire load that the data cache never serves; the one that meets the condition gives the value (R340). -/
def execMwait (y : Sync) (t : IntTy) (cnd : Cond) (sc : Scope) (d : SReg) (a : AReg) (b : SReg) (s : State) :
    Host.Outcome State Fault Refusal :=
  scalar legal y (fun c n s =>
    let k := s.task c n
    scalarLoad s c n (k.areg a) t.w.bytes fun s bs =>
      let x := t.ext (BitVec.ofNat 64 (ofBytes bs))
      let s := s.acquired c ⟨.acq, sc⟩
      if cnd.eval x (k.sreg b) then .done (s.modTask c n fun k => k.setS d x)
      else .hold s .waiting (.mwait (k.areg a) t cnd (k.sreg b))) s

/-! ## Landing words (R341, R342) -/

/-- Generation g has been reached for target t (R341). -/
def reached (g t : BitVec 16) : Bool := (g - t).ult 0x8000

/-- An access to the landing word at an address: ALIGN, then SPACCESS outside the unit's own window (R342). -/
def lwAccess (s : State) (c n : Nat) (va : Addr) (r w : Bool) (f : State → Pieces → Act) : Act :=
  if va.toNat % 16 ≠ 0 then .trap s cALIGN 0 va
  else if vaRegion va ≠ .scratch then .trap s cSPACCESS 0 va
  else scalarAccess s c n va 16 16 r w f

/-- Reading a landing word: poison is consumed, BAD traps OPFORMAT (R342). -/
def lwRead (s : State) (c n : Nat) (va : Addr) (f : State → LandingWord → Act) : Act :=
  lwAccess s c n va true false fun s l =>
    if (s.firstPoisonAll l).isSome then .poison s va
    else
      let w := LandingWord.ofBits (leBits 128 (s.readAll l))
      if w.flags.getLsbD 7 then .trap s cOPFORMAT 0 va else f s w

/-- LWINIT: the 16 bytes in one write; SIG also sets EXT (R342). -/
def execLwinit (y : Sync) (a : AReg) (b g : SReg) (sem : Option (BitVec 8)) (s : State) : Host.Outcome State Fault Refusal :=
  scalar legal y (fun c n s =>
    let t := s.task c n
    let w : LandingWord :=
      { target := (t.sreg b).toNat % 2 ^ 48, count := 0, gen := (t.sreg g).extractLsb' 0 16, sem := sem.getD 0,
        flags := if sem.isSome then 1 else 0 }
    lwAccess s c n (t.areg a) false true fun s l =>
      let s := (s.writeAll l w.bytes).modCore c fun k => { k with lwDev := k.lwDev.del ((t.areg a).extractLsb' 0 26).toNat }
      .done (match sem with
        | some q => s.setSem c q.toNat { s.sem c q.toNat with ext := true }
        | none => s)) s

/-- LWWAIT: an acquire at .dev (R241, R248, R336, R342). -/
def execLwwait (y : Sync) (d : SReg) (a : AReg) (g : Cnt) (s : State) : Host.Outcome State Fault Refusal :=
  scalar legal y (fun c n s =>
    let t := s.task c n
    let target := BitVec.ofNat 16 (t.cnt g)
    lwRead s c n (t.areg a) fun s w =>
      if reached w.gen target then .done ((s.invalidate c).modTask c n fun t => t.setS d (w.gen.setWidth 64))
      else .hold s .waiting (.landing (t.areg a) target)) s

/-- LWRD: COUNT in [63:16], GEN in [15:0]; an acquire at .dev (R241, R248, R336, R342). -/
def execLwrd (y : Sync) (d : SReg) (a : AReg) (s : State) : Host.Outcome State Fault Refusal :=
  scalar legal y (fun c n s =>
    lwRead s c n ((s.task c n).areg a) fun s w =>
      .done ((s.invalidate c).modTask c n fun t => t.setS d (BitVec.ofNat 64 (w.count * 65536 + w.gen.toNat)))) s

/-! ## Barriers (R168, R343) -/

/-- The slots of a unit that hold tasks of its tenant. -/
def State.slotMask (s : State) (c : Nat) : BitVec 8 :=
  (List.range 8).foldl (fun m n => if s.occupied c n then m ||| (1 <<< n) else m) 0

/-- BARINIT: members that hold tasks; arrivals cleared, phase kept (R343). -/
def execBarinit (y : Sync) (b : BarReg) (m : MaskSrc) (s : State) : Host.Outcome State Fault Refusal :=
  scalar legal y (fun c n s =>
    let mask : BitVec 8 := match m with
      | .imm x => x
      | .reg r => ((s.task c n).sreg r).extractLsb' 0 8
    .done (s.setBar c b.val { s.bar c b.val with member := mask &&& s.slotMask c, arrived := 0 })) s

/-- An arrival: a member's bit is set; the barrier completes when the arrived mask then equals the member mask (R343). -/
def Barrier.arrive (b : Barrier) (n : Nat) : Barrier :=
  let bit : BitVec 8 := 1 <<< n
  let a := if b.member &&& bit = 0 then b.arrived else b.arrived ||| bit
  if a = b.member then { b with arrived := 0, phase := !b.phase } else { b with arrived := a }

/-- BARARR: returns the phase before the arrival (R343). -/
def execBararr (y : Sync) (d : SReg) (b : BarReg) (s : State) : Host.Outcome State Fault Refusal :=
  scalar legal y (fun c n s =>
    let o := s.bar c b.val
    .done ((s.setBar c b.val (o.arrive n)).modTask c n fun t => t.setS d (if o.phase then 1 else 0))) s

/-- A BARWAIT on a phase is met (R343). -/
def Barrier.met (b : Barrier) (phase : Bool) : Bool := b.phase != phase || b.member == 0

/-- BARWAIT (R343). -/
def execBarwait (y : Sync) (b : BarReg) (p : SReg) (s : State) : Host.Outcome State Fault Refusal :=
  scalar legal y (fun c n s =>
    let phase := ((s.task c n).sreg p).getLsbD 0
    if (s.bar c b.val).met phase then .done s else .hold s .waiting (.barrier b phase)) s

end Sys2Proof.Machine
end

