-- ==== Sys2Proof/Machine/Task.lean ====
section
/-! DEFINITION. Class SY, sweeps and tasks, containment regions, traps and system calls (R345 to R356). -/

namespace Sys2Proof.Machine

/-! ## Sweeps and tasks (R345 to R349) -/

/-- SPAWN posts a child sweep (R345). -/
def execSpawn (y : Sync) (d : SReg) (a : AReg) (s : State) : Host.Outcome State Fault Refusal :=
  scalar legal y (fun c n s =>
    let t := s.task c n
    if s.poolFull true then .trap s cSPAWNFULL 0 0
    else
      scalarAccess s c n (t.areg a) 128 128 true false fun s l =>
        match s.firstPoisonAll l with
        | some i => .poison s (t.areg a + BitVec.ofNat 80 i)
        | none =>
          let r := SweepRec.parse (s.readAll l)
          let s := s.refresh c l
          let put := fun (s : State) (v : BitVec 32) => Act.done (s.modTask c n fun t => t.setS d (v.setWidth 64))
          match checkRec s r true t.ceil t.priv with
          | some status => put (s.writeWord t.asid (r.notify) status 0 0) 0xFFFFFFFF
          | none => put (s.accept r t.asid (.child t.sweep)).1 (s.accept r t.asid (.child t.sweep)).2) s

/-- YIELD: out of the choice until another task is chosen (R346). -/
def execYieldTask (y : Sync) (s : State) : Host.Outcome State Fault Refusal :=
  scalar legal y (fun c n s => .done (s.modTask c n fun t => { t with yielded := true })) s

/-- No entry of the task is in an engine and no FX request of it lacks its response (R348). -/
def State.taskQuiet (s : State) (c n : Nat) : Bool :=
  s.joined c n 0x1F && !(s.outst.any fun o => o.by c n (s.task c n).sweep)

/-- The frozen commands of a task are discarded at its end, which returns no count (R183, R217, R348). -/
def State.discardFrozen (s : State) (c n : Nat) : State :=
  ((s.core c).queue.filter fun q => q.slot == n && q.frozen).foldl
    (fun s q => (s.discardEntry c q false).modTask c n fun t => t.setPend q.eng none) s

/-- Iterations of a sweep that have completed, here and before an import (R199). -/
def Sweep.completed (w : Sweep) : Nat := w.doneBefore + w.done

/-- A unit without a task, whose sweep has nothing left to place on it, ends its tenancy (R159). -/
def State.maybeEndTenancy (s : State) (c : Nat) : State :=
  match (s.core c).tenant with
  | none => s
  | some id =>
    if (s.core c).busy then s
    else
      match s.sweep id with
      | none => s.endTenancy c
      | some w => if w.ended.isSome || w.placed == w.rec'.iterations then s.endTenancy c else s

/-- The iteration of a slot is complete: the slot is IDLE, the sweep counts it, and its last one ends it with DONE (R171, R172). -/
def State.finishIteration (s : State) (c n : Nat) : State :=
  let id := (s.task c n).sweep
  let s := s.idleTask c n
  let s := s.modSweep id fun w => { w with done := w.done + 1 }
  match s.sweep id with
  | none => s
  | some w => if w.completed = w.rec'.iterations then s.endSweep id 0 0 else s.maybeEndTenancy c

/-- TEXIT ends the task (R171, R348). -/
def execTexit (y : Sync) (s : State) : Host.Outcome State Fault Refusal :=
  scalar legal y (fun c n s =>
    let s := s.discardFrozen c n
    if s.taskQuiet c n then .fin (s.finishIteration c n) else .hold s .waiting .texit) s

/-- SETCLASS: no lower than the sweep's CEIL (R347). -/
def execSetclass (y : Sync) (d : SReg) (k : ClassSrc) (s : State) : Host.Outcome State Fault Refusal :=
  scalar legal y (fun c n s =>
    .done (s.modTask c n fun t =>
      let v := match k with
        | .imm x => x.toNat
        | .reg r => (t.sreg r).toNat
      let cls := BitVec.ofNat 2 (Nat.max (Nat.min v 3) t.ceil.toNat)
      { t with cls := cls }.setS d (cls.setWidth 64))) s

/-! ## Containment regions (R350, R351) -/

/-- CROPEN (R350). -/
def execCropen (y : Sync) (a : AReg) (id : BitVec 16) (s : State) : Host.Outcome State Fault Refusal :=
  scalar legal y (fun c n s =>
    let t := s.task c n
    if t.regions.length = 4 then .trap s cCRGN 0 (id.setWidth 80)
    else if (t.areg a).toNat % 4 ≠ 0 then .trap s cALIGN 0 (t.areg a)
    else .done (s.modTask c n fun t =>
      { t with regions := t.regions ++ [{ handler := t.areg a, id := id, mark := t.isn, inh := t.inh, depth := t.depth }] })) s

/-- Nothing of the task that was issued at a region depth of at least `depth` is still held (R351). -/
def State.regionClear (s : State) (c n depth : Nat) : Bool :=
  !((s.core c).queue.any fun q => q.slot == n && decide (depth ≤ q.rdepth)) &&
  !(s.outst.any fun o => o.by c n (s.task c n).sweep && decide (depth ≤ o.rdepth))

/-- CRCLOSE (R351). -/
def execCrclose (y : Sync) (id : BitVec 16) (s : State) : Host.Outcome State Fault Refusal :=
  scalar legal y (fun c n s =>
    let t := s.task c n
    match t.regions.getLast? with
    | none => .trap s cCRGN 0 (id.setWidth 80)
    | some r =>
      if r.id ≠ id then .trap s cCRGN 0 (id.setWidth 80)
      else if s.regionClear c n t.regions.length then
        .done (s.modTask c n fun t => { t with regions := t.regions.dropLast })
      else .hold s .waiting (.crclose t.regions.length)) s

/-! ## Traps and system calls (R352 to R356) -/

/-- Threads of a context are held at a unit boundary (R123, R206). -/
def State.holdThreads (s : State) (p : Thread → Bool) : State :=
  s.mapThreads fun t => if p t && (t.st == .running || t.st == .waiting) then { t with before := t.st, st := .held } else t

/-- Held threads go on (R123, R206). -/
def State.resumeThreads (s : State) (p : Thread → Bool) : State :=
  s.mapThreads fun t => if p t && t.st == .held then { t with st := t.before } else t

/-- A debug halt of a context (R206). -/
def State.haltContext (s : State) (asid : BitVec 16) : State :=
  { s with dbg := { s.dbg with asid := asid, halt := true, done := true } }.holdThreads fun t => t.asid == asid

/-- TRAP: SOFT or BREAK; a BREAK of the context under HALTONBRK halts it. It is not performed and adds no signal (R336, R352). -/
def execTrap (y : Sync) (brk : Bool) (code : BitVec 16) (s : State) : Host.Outcome State Fault Refusal :=
  scalar legal { y with sinc := 0 } (fun c n s =>
    let t := s.task c n
    if brk && s.dbg.haltonbrk && s.dbg.asid == t.asid then .done (s.haltContext t.asid)
    else .soft s (if brk then cBREAK else cSOFT) (code.setWidth 80)) s

/-- TRET (R179, R353). -/
def execTret (y : Sync) (s : State) : Host.Outcome State Fault Refusal :=
  scalar (fun t => !t.inh) y (fun c n s =>
    if (s.task c n).eswBad then .trap s cBADSTATUS 0 0 else .ret (s.trapReturn c n)) s

/-- HALT requests a debug halt of its own context (R354). -/
def execHalt (y : Sync) (s : State) : Host.Outcome State Fault Refusal :=
  scalar (fun t => !t.priv) y (fun c n s =>
    let t := s.task c n
    if s.dbg.halt then (if s.dbg.asid = t.asid then .done s else .hold s .waiting .halt)
    else .done (s.haltContext t.asid)) s

/-- ECALL parks the task until the management core's reply arrives (R355, R356). -/
def execEcall (y : Sync) (d a : SReg) (svc : BitVec 16) (s : State) : Host.Outcome State Fault Refusal :=
  scalar legal y (fun c n s =>
    let t := s.task c n
    .hold (s.modTask c n fun t => { t with took := some (0, 0) }) .parked (.ecall y d svc (t.sreg a))) s

end Sys2Proof.Machine
end

