-- ==== Sys2Proof/Machine/Packets.lean ====
section
/-! DEFINITION. Packets: types, checks of their fields, sealing, the sector mask of a payload, and a packet's way into the router (R61, R62, R63, R76, R432). -/

namespace Sys2Proof.Machine

/-! ## Types (R62) -/

def pPUTREQ : BitVec 8 := 0x01
def pGETREQ : BitVec 8 := 0x02
def pLDREQ : BitVec 8 := 0x03
def pSTREQ : BitVec 8 := 0x04
def pATOMREQ : BitVec 8 := 0x05
def pCASREQ : BitVec 8 := 0x06
def pORDREQ : BitVec 8 := 0x07
def pMGMT : BitVec 8 := 0x08
def pACK : BitVec 8 := 0x20
def pDATA : BitVec 8 := 0x21
def pATOMRSP : BitVec 8 := 0x22
def pNACK : BitVec 8 := 0x23
def pDRAIN : BitVec 8 := 0x30
def pTREE : BitVec 8 := 0x31

/-! ## Statuses (R72) -/

def nTOKMAC : BitVec 8 := 1
def nTOKEXP : BitVec 8 := 2
def nTOKRIGHTS : BitVec 8 := 3
def nTOKBOUNDS : BitVec 8 := 4
def nXLATE : BitVec 8 := 5
def nPOISON : BitVec 8 := 6
def nAUTH : BitVec 8 := 7
def nUNREACH : BitVec 8 := 8
def nMALFORMED : BitVec 8 := 9

end Sys2Proof.Machine

namespace Sys2Proof

/-- A request (R62). -/
def Packet.isReq (p : Packet) : Bool := decide (1 ≤ p.ptype.toNat) && decide (p.ptype.toNat ≤ 8)
/-- A response (R62). -/
def Packet.isResp (p : Packet) : Bool := decide (0x20 ≤ p.ptype.toNat) && decide (p.ptype.toNat ≤ 0x23)
/-- A link-local packet (R62). -/
def Packet.isLocal (p : Packet) : Bool := p.ptype == 0x30 || p.ptype == 0x31
/-- FLAGS.CONF. -/
def Packet.conf (p : Packet) : Bool := p.flags.getLsbD 1
/-- FLAGS.EGEN. -/
def Packet.egen (p : Packet) : Bool := p.flags.getLsbD 0
/-- Payload bytes that LEN announces: none for a get request, whose LEN is the count requested (R62). -/
def Packet.carried (p : Packet) : Nat := if p.ptype = 2 then 0 else p.len.toNat

/-- A packet that a router discards: a reserved PTYPE, a nonzero reserved field (R61, R62). -/
def Packet.reservedBad (p : Packet) : Bool :=
  !(p.isReq || p.isResp || p.isLocal) ||
  p.flags.extractLsb' 2 6 != 0 || p.dst.getLsbD 15 || p.src.getLsbD 15 || p.intm.getLsbD 15 || p.hops.extractLsb' 6 2 != 0 ||
  (p.isReq && p.status != 0) || decide (256 < p.len.toNat) ||
  p.keyslot.extractLsb' 12 4 != 0 || (!p.conf && p.keyslot != 0) || (p.ptype != 1 && p.aux != 0) ||
  p.trailer.isSome != p.conf || p.payload.length != p.carried

end Sys2Proof

namespace Sys2Proof.Machine

/-- A packet discarded at this device: IGCNT counts, saturating (R62, R68). -/
def State.countDiscard (s : State) : State :=
  { s with router := { s.router with igcnt := if s.router.igcnt = 0xFFFF then 0xFFFF else s.router.igcnt + 1 } }

/-! ## Sealing (R76) -/

/-- The authenticated header: EGEN and HOPS are zero (R61, R76). -/
def Packet.aad (p : Packet) : List Byte :=
  [p.ptype, p.flags &&& 0xFE] ++ toBytes p.dst.toNat 2 ++ toBytes p.src.toNat 2 ++ toBytes p.intm.toNat 2 ++ [0, p.status] ++
  toBytes p.len.toNat 2 ++ toBytes p.tag.toNat 2 ++ toBytes p.keyslot.toNat 2 ++ toBytes p.addr.toNat 10 ++ toBytes p.opx.toNat 2 ++
  toBytes p.cidx.toNat 2 ++ toBytes p.ccnt.toNat 2 ++ toBytes p.token.toNat 8 ++ toBytes p.aux.toNat 8

/-- The nonce 0x0000 : SRC : CTR (R76). -/
def sealNonce (src : BitVec 16) (ctr : BitVec 64) : List Byte := [0, 0] ++ (toBytes src.toNat 2).reverse ++ (toBytes ctr.toNat 8).reverse

/-- A key slot can seal another packet (R76). -/
def State.canSeal (s : State) (k : BitVec 12) : Bool := (s.keyslot k.toNat).ctr != BitVec.allOnes 64

/-- Sealing a packet under a key slot: the slot's counter counts it (R76). -/
def State.seal (s : State) (p : Packet) (k : BitVec 12) : State × Packet :=
  let x := s.keyslot k.toNat
  let p := { p with flags := p.flags ||| 2, keyslot := k.setWidth 16 }
  let (ct, tag) := gcmSeal x.fabKey (sealNonce p.src x.ctr) (Packet.aad p) p.payload
  (s.setKeyslot k.toNat { x with ctr := x.ctr + 1 }, { p with payload := ct, trailer := some (x.ctr, tag) })

/-- The tag over a header that routing has completed (R67, R76). -/
def State.reseal (s : State) (p : Packet) : Packet :=
  match p.trailer with
  | none => p
  | some (ctr, _) =>
    let key := (s.keyslot (p.keyslot.toNat % 4096)).fabKey
    { p with trailer := some (ctr, gcmTag (aesKeys (keyBytes key)) (sealNonce p.src ctr) (Packet.aad p) p.payload) }

/-- The payload as its receiver reads it; none when the tag check fails (R76). -/
def State.openPayload (s : State) (p : Packet) : Option (List Byte) :=
  match p.trailer with
  | none => some p.payload
  | some (ctr, tag) =>
    gcmOpen (s.keyslot (p.keyslot.toNat % 4096)).fabKey (sealNonce p.src ctr) (Packet.aad p) p.payload tag

/-! ## PMASK (R432) -/

/-- Number of the sector of byte i of a payload at an address, counted from the lowest touched. -/
def sectorNo (addr : Addr) (i : Nat) : Nat := (addr.toNat % 32 + i) / 32

/-- The mask of the sectors that hold a poisoned byte. -/
def pmask (addr : Addr) (n : Nat) (bad : Nat → Bool) : BitVec 16 :=
  (List.range n).foldl (fun m i => if bad i then m ||| ((1 : BitVec 16) <<< sectorNo addr i) else m) 0

/-- The sectors that a mask marks. -/
def Packet.badAt (p : Packet) (i : Nat) : Bool := p.opx.getLsbD (sectorNo p.addr i)

/-- A slot whose counter is used up can send nothing: what the pieces need to be sealed waits (R76). -/
def State.sealable (s : State) (k : Option (BitVec 12)) : Bool :=
  match k with
  | some k => s.canSeal k
  | none => true

/-! ## Into the router -/

/-- A packet at its source enters the router on the minimal channel of its class (R63). -/
def State.launchPkt (s : State) (p : Packet) : State :=
  { s with router := { s.router with
      held := s.router.held ++ [{ pkt := p, vc := if p.isReq then 0 else 3, arrived := none, inVc := 0, next := none }] } }

/-! ## Pieces of an operand -/

/-- The pieces of bytes off to off + n − 1 of an access. -/
def slicePieces : Pieces → Nat → Nat → Pieces
  | [], _, _ => []
  | (p, k) :: l, off, n =>
    if n = 0 then []
    else if k ≤ off then slicePieces l (off - k) n
    else (p.add off, Nat.min n (k - off)) :: slicePieces l 0 (n - (k - off))

/-- The key slot of the first confidential page that pieces touch; R76 does not say which slot seals a packet over pages of two slots, or over a
clear and a confidential page (R76, R118; DESIGN CHOICE, unsafe, log 71). -/
def keyOf : Pieces → Option (BitVec 12)
  | [] => none
  | (.hbm _ (some k), _) :: _ => some k
  | _ :: l => keyOf l

end Sys2Proof.Machine
end

