-- ==== Sys2Proof/Machine/Response.lean ====
section
/-! DEFINITION. The requester's side of the fabric: what a response does to its request, its entry and its task (R72, R75, R184, R185, R191, R435 to R441). -/

namespace Sys2Proof.Machine

/-! ## The requester of a request -/

/-- The image that holds the requester's task (R191). -/
def State.ownerImage (s : State) (o : Outst) : Option Image := s.image o.sweep o.core

/-- The task of a request, in its slot or in an image; none once its sweep has ended. -/
def State.ownerTask (s : State) (o : Outst) : Option Task :=
  match s.ownerImage o with
  | some i => (i.tasks.find? fun t => t.1 == o.slot).map fun t => t.2
  | none => if (s.task o.core o.slot).of o.sweep then some (s.task o.core o.slot) else none

/-- Changing the task of a request. -/
def State.modOwner (s : State) (o : Outst) (f : Task → Task) : State :=
  match s.ownerImage o with
  | some _ => s.modImage o.sweep o.core fun i => { i with tasks := i.tasks.map fun t => if t.1 = o.slot then (t.1, f t.2) else t }
  | none => if (s.task o.core o.slot).of o.sweep then s.modTask o.core o.slot f else s

/-- The entry that sent a request. -/
def Outst.sender (o : Outst) (q : Entry) : Bool := q.slot == o.slot && q.isn == o.isn && q.eng == .fx

/-- The queue entry of a request, in its unit or in an image. -/
def State.ownerEntry (s : State) (o : Outst) : Option Entry :=
  match s.ownerImage o with
  | some i => i.queue.find? o.sender
  | none => (s.core o.core).queue.find? o.sender

/-- The entry that sent a request leaves its queue, without its signal (R184). -/
def State.dropOwnerEntry (s : State) (o : Outst) : State :=
  match s.ownerEntry o with
  | none => s
  | some q =>
    let s := s.modOwner o fun t => match q.instr.engineDest with
      | some d => { t with resvd := t.resvd.erase d }
      | none => t
    match s.ownerImage o with
    | some _ => s.modImage o.sweep o.core fun i => { i with queue := i.queue.filter fun x => !o.sender x }
    | none => s.dropEntries o.core o.sender

/-! ## Positions (R182, R440) -/

/-- The record of the entry that sent a request. -/
def Xfer.of (x : Xfer) (o : Outst) : Bool := x.core == o.core && x.slot == o.slot && x.sweep == o.sweep && x.isn == o.isn

/-- The longest prefix from a position that answered ranges cover. -/
def ackedTo (ok : List (Nat × Nat)) : Nat → Nat → Nat
  | 0, pos => pos
  | fuel + 1, pos =>
    match ok.find? fun r => r.1 == pos with
    | some r => if r.2 = 0 then pos else ackedTo ok fuel (pos + r.2)
    | none => pos

/-- Bytes acknowledged OK as a prefix. -/
def Xfer.acked (x : Xfer) : Nat := ackedTo x.ok x.ok.length x.base

/-- Members whose positions count bytes. -/
def ReqKind.counts : ReqKind → Bool
  | .put | .get | .sget | .sput => true
  | _ => false

/-- ECP and ESP of a request's entry when a NACK arrives (R182, R440). -/
def State.positions (s : State) (o : Outst) : Nat × Nat :=
  if o.kind.counts then
    match s.xfers.find? fun x => x.of o with
    | some x => (x.acked, x.sent)
    | none => (0, 0)
  else (0, o.len)

/-- A request's record goes once no request of its entry is left and the entry sends no more. -/
def State.tidyXfer (s : State) (o : Outst) : State :=
  if s.outst.any (fun x => x.by o.core o.slot o.sweep && x.isn == o.isn) ||
      (match s.ownerEntry o with | some q => !q.done | none => false) then s
  else { s with xfers := s.xfers.filter fun x => !(x.of o) }

/-- A request is no longer outstanding. -/
def State.dropOutst (s : State) (o : Outst) : State :=
  { s with outst := s.outst.filter fun x => !(x.tag == o.tag && x.pkt.dst == o.pkt.dst) }

/-! ## Failures (R72, R184, R440) -/

/-- The cause that a NACK's status raises (R72). -/
def nackCause (status : BitVec 8) : BitVec 8 :=
  match status.toNat with
  | 1 | 2 | 3 | 4 => cTOKEN
  | 6 => cPOISON
  | 7 => cPROT
  | _ => cREMOTE

/-- ECAUSE.SUB of a NACK (R178). -/
def nackSub (status : BitVec 8) : BitVec 8 := if nackCause status = cPROT then 0 else status

/-- A trap joins an engine's pending one in a task of an image (R191, R192). -/
def Task.joinPend (t : Task) (e : Eng) (p : Pending) : Task :=
  match t.pend e with
  | none => t.setPend e (some p)
  | some q => t.setPend e (some (if trapRank p.code < trapRank q.code then p else q))

/-- The cause that a merged trap leaves to the strandline recorder only (R192). -/
def Task.droppedPend (t : Task) (e : Eng) (p : Pending) : Option Pending :=
  (t.pend e).map fun q => if trapRank p.code < trapRank q.code then q else p

/-- A trap of an engine becomes pending on a task of an image (R191, R192, R207). -/
def State.pendSaved (s : State) (w : BitVec 32) (key slot : Nat) (e : Eng) (p : Pending) : State :=
  match s.image w key with
  | none => s
  | some i =>
    let s := s.modImage w key fun i => { i with tasks := i.tasks.map fun t => if t.1 = slot then (t.1, t.2.joinPend e p) else t }
    match ((i.tasks.find? fun t => t.1 == slot).map fun t => t.2).bind fun t => t.droppedPend e p with
    | some d => s.trapEvent i.unit slot d.code d.sub 0 d.addr e.code
    | none => s

/-- The core that an event of the request's task names: an image's is that of the unit it was saved from (R207). -/
def State.ownerCore (s : State) (o : Outst) : Nat :=
  match s.ownerImage o with
  | some i => i.unit
  | none => o.core

/-- The trap of a NACK on a task in an image. (DEDUCED, unsafe, log 62) -/
def State.pendInImage (s : State) (o : Outst) (p : Pending) : State := s.pendSaved o.sweep o.core o.slot .fx p

/-- A park that ends with its response: the task is READY (R166, R185). -/
def Task.unpark (t : Task) (isn : BitVec 24) : Task :=
  if t.wait = .remote isn ∧ t.st = .parked then { t.endWait with st := .ready } else t

/-- Bytes of pieces take values that nothing fixes; `at'` is the first one's offset in its command. -/
def State.freePieces (s : State) (at' : Nat) : Pieces → State
  | [] => s
  | (p, n) :: l =>
    State.freePieces (s.writeRaw p ((List.range n).map fun i => Config.freeGetByte s.freeCtr (at' + i))) (at' + n) l

/-- A word of eight free bytes. -/
def State.freeWord (s : State) : Word := BitVec.ofNat 64 (ofBytes ((List.range 8).map (Config.freeGetByte s.freeCtr)))

/-- The destination bytes of a GET or SGET beyond its ECP, and of an atomic's register, are unspecified once a NACK completes it (R184; DESIGN CHOICE, safe, log 13). -/
def State.freeDest (s : State) (o : Outst) (ecp : Nat) : State :=
  match o.kind with
  | .get | .sget =>
    match s.xfers.find? fun x => x.of o with
    | some x =>
      { (x.dst.filter fun e => decide (ecp ≤ e.1)).foldl (fun s e => s.freePieces e.1 e.2) s with freeCtr := s.freeCtr + 1 }
    | none => s
  | .atom d _ false | .cas d _ => { s.modOwner o fun t => t.setS d s.freeWord with freeCtr := s.freeCtr + 1 }
  | .put | .ld _ _ | .st | .atom _ _ true | .sput | .mgmt => s

/-- A request completes with a failure: its entry completes with the trap, or only the trap is taken (R184, R185, R440). -/
def State.failRequest (s : State) (o : Outst) (status : BitVec 8) : State :=
  let (ecp, esp) := s.positions o
  let s := ((s.freeDest o ecp).dropOutst o).dropOwnerEntry o
  let s := (s.tidyXfer o).modOwner o fun t => t.unpark o.isn
  let p : Pending := { code := nackCause status, sub := nackSub status, addr := o.pkt.addr, ecp := ecp, esp := esp }
  match s.ownerTask o with
  | none => s.tryComplete o.sweep
  | some t =>
    if (s.ownerImage o).isSome then
      if p.code = cPOISON ∧ (t.regions.length = 0 ∨ o.rdepth < t.regions.length) then
        s.consume (s.ownerCore o) o.slot 0 p.code p.sub p.addr 5 ecp esp
      else s.pendInImage o p
    else if p.code = cPOISON then s.consume o.core o.slot o.rdepth p.code p.sub p.addr 5 ecp esp
    else s.pendTrap o.core o.slot .fx p

/-! ## Success -/

/-- A word from a payload, extended by its type (R434, R438). -/
def respWord (t : IntTy) (bs : List Byte) : Word := t.ext (BitVec.ofNat 64 (ofBytes bs))

/-- The landing word of a GET or SGET counts the bytes from one acknowledged prefix to the next, once over a run and its replay, unless an
unwind suppresses them (R182, R183, R202, R435). -/
def State.landResp (s : State) (o : Outst) (from' to' : Nat) : State :=
  let q := s.ownerEntry o
  match o.lw with
  | some p => if q.any fun q => q.mute then s else s.landAt p (to' - Nat.max from' ((q.map fun q => q.landed).getD 0)) false
  | none => s

/-- The write of a request's reply is an acquire at .fab or .sys, which empties the data cache of its unit (R241, R243, R250). -/
def Outst.acquires (o : Outst) : Bool :=
  (match o.kind with | .ld .. | .atom .. | .cas .. => true | _ => false) && o.pkt.opx.getLsbD 8

/-- The data cache of a request's unit after its response: a GET drops the lines it writes, an acquire all (R243). -/
def State.replyLines (s : State) (o : Outst) : State :=
  if (s.ownerImage o).isSome then s
  else if o.acquires then s.invalidate o.core
  else s.dropLines o.core o.dst

/-- What a response of the right type does; none when it does not answer such a request (R435, R438, R434, R441). -/
def State.applyResp (s : State) (o : Outst) (r : Packet) (bs : List Byte) : Option State :=
  match o.kind with
  | .put | .sput | .st | .mgmt => if r.ptype = pACK then some s else none
  | .get | .sget =>
    if r.ptype = pDATA ∧ bs.length = o.len then
      some (s.writeAllTag bs (fun i => r.opx.getLsbD (sectorNo o.pkt.addr i)) 0 o.dst)
    else none
  | .ld d t =>
    if r.ptype = pDATA ∧ bs.length = t.w.bytes then some (s.modOwner o fun k => (k.setS d (respWord t bs)).unpark o.isn) else none
  | .atom d t noret =>
    if noret then (if r.ptype = pACK then some s else none)
    else if r.ptype = pATOMRSP ∧ bs.length = t.w.bytes then some (s.modOwner o fun k => k.setS d (respWord t bs)) else none
  | .cas d t =>
    if r.ptype = pATOMRSP ∧ bs.length = t.w.bytes then some (s.modOwner o fun k => k.setS d (respWord t bs)) else none

/-- Bytes of a request's entry acknowledged OK as a prefix. -/
def State.prefixOf (s : State) (o : Outst) : Nat := ((s.xfers.find? fun x => x.of o).map fun x => x.acked).getD 0

/-- A packet answered OK: the landing word counts the bytes that join the acknowledged prefix with it (R182). -/
def State.markOk (s : State) (o : Outst) : State :=
  let t : State := { s with xfers := s.xfers.map fun (x : Xfer) => if x.of o then { x with ok := (o.off, o.len) :: x.ok } else x }
  t.landResp o (s.prefixOf o) (t.prefixOf o)

/-- Entries of the requester that the response has performed leave their queue (R216). -/
def State.retireOwner (s : State) (o : Outst) : State :=
  if (s.ownerImage o).isSome then s else retire o.core o.slot .fx (s.core o.core).queue.length s

/-- The request that a response answers (R72). -/
def State.requestOf (s : State) (r : Packet) : Option Outst := s.outst.find? fun o => o.tag == r.tag && o.pkt.dst == r.src

/-- A response at its requester (R72, R76, R440). -/
def State.response (s : State) (r : Packet) : State :=
  if r.reservedBad || !r.isResp then s.countDiscard
  else
    match s.requestOf r with
    | none => s.countDiscard
    | some o =>
      match s.openPayload r with
      | none => s.countDiscard
      | some bs =>
        if r.ptype = pNACK then
          if r.status = 0 then
            { s with outst := s.outst.map fun x => if x.tag = o.tag ∧ x.pkt.dst = o.pkt.dst then { x with deferred := true } else x }
          else s.failRequest o r.status
        else
          match s.applyResp o r bs with
          | none => s.countDiscard
          | some s =>
            let s := ((((s.replyLines o).markOk o).dropOutst o).tidyXfer o).retireOwner o
            s.tryComplete o.sweep

end Sys2Proof.Machine
end

