-- ==== Sys2Proof/Machine/Ingress.lean ====
section
/-! DEFINITION. The target's side of the fabric: ingress checks, requests performed, the ordered-reduction window, and a request's issue (R64, R75, R76, R143, R191, R206, R431 to R437). -/

namespace Sys2Proof.Machine

/-! ## Answers (R72, R75) -/

/-- A response to a request: everything but its own fields is zero. -/
def State.resp (s : State) (p : Packet) (ptype status : BitVec 8) (bs : List Byte) (opx : BitVec 16) : Packet :=
  { ptype := ptype, status := status, dst := p.src, src := s.devid.setWidth 16, len := BitVec.ofNat 16 bs.length, tag := p.tag,
    opx := opx, payload := bs }

/-- The request came through Headland's loopback (R146, R431). -/
def State.loopback (s : State) (p : Packet) : Bool := p.src == s.devid.setWidth 16

/-- Sending a response; a completion record keeps it for the resends of a remote requester (R75). -/
def State.answer (s : State) (p r : Packet) (keep : Bool) : State :=
  if s.loopback p then s.response r
  else
    let s := if keep && decide (s.tgtRecs.length < 65536) then { s with tgtRecs := s.tgtRecs ++ [{ src := p.src, tag := p.tag, resp := r }] } else s
    s.launchPkt r

/-- A NACK. -/
def State.nackReq (s : State) (p : Packet) (status : BitVec 8) : State := s.answer p (s.resp p pNACK status [] 0) true

/-- A response from a page: sealed under its slot when the page is confidential (R76). -/
def State.answerFrom (s : State) (p : Packet) (l : Pieces) (r : Packet) : State :=
  match keyOf l with
  | none => s.answer p r true
  | some k => let (s, r) := s.seal r k; s.answer p r true

/-- The response to a request carries data of the page it reaches (R62). -/
def dataBack (p : Packet) : Bool :=
  p.ptype == pGETREQ || p.ptype == pLDREQ || p.ptype == pCASREQ || ((p.ptype == pATOMREQ || p.ptype == pORDREQ) && !(p.opx.getLsbD 12))

/-- The response to a request can be sent: its page's slot, if it needs one, has a counter left (R76). -/
def State.canAnswer (s : State) (p : Packet) (l : Pieces) : Bool := !(dataBack p) || s.sealable (keyOf l)

/-! ## Checks (R75, R431, R432, R435) -/

/-- The rights a request needs: read 1, write 2, atomic 4 (R75). -/
def neededRights (ptype : BitVec 8) : BitVec 3 :=
  match ptype.toNat with
  | 2 | 3 => 1
  | 1 | 4 => 2
  | 5 | 6 | 7 => 4
  | _ => 7

/-- Operand width in bytes, from OPX (R432). -/
def opxWidth (p : Packet) : Nat := 2 ^ (p.opx.extractLsb' 4 3).toNat

/-- AccessLength (R75). -/
def accessLen (p : Packet) : Nat :=
  if p.ptype = pLDREQ ∨ p.ptype = pSTREQ ∨ p.ptype = pCASREQ then opxWidth p else p.len.toNat

/-- The window index of a token (R73). -/
def tokenWin (t : BitVec 64) : Nat := (t.extractLsb' 28 12).toNat

/-- The window's base address (R74). -/
def Window.baseAddr (w : Window) : Nat := w.base.toNat * 65536

/-- The token's MAC under the window's key (R73). -/
def State.tokenMac (s : State) (w : Nat) (m : BitVec 40) : BitVec 24 := cmac24 (s.window w).key m s.devid

/-- IngressCheck of R75: 0 when the request passes. A packet other than MGMT under window 0, which R74 forbids, fails the rights check
(DESIGN CHOICE, unsafe, log 71). -/
def State.ingressCheck (s : State) (p : Packet) : BitVec 8 :=
  let t := p.token
  let w := s.window (tokenWin t)
  let d := ((t.extractLsb' 12 13).toNat + 8192 - s.ftime / 2 ^ 20 % 8192) % 8192
  let blk := (t.extractLsb' 0 6).toNat
  let sze := (t.extractLsb' 6 6).toNat
  let lo := Nat.max w.baseAddr (w.baseAddr + blk * 2 ^ sze)
  let hi := Nat.min (w.baseAddr + 2 ^ w.sizexp.toNat) (w.baseAddr + (blk + 1) * 2 ^ sze)
  if !w.valid || s.tokenMac (tokenWin t) (t.extractLsb' 0 40) != t.extractLsb' 40 24 then nTOKMAC
  else if d = 0 ∨ 4096 ≤ d then nTOKEXP
  else if neededRights p.ptype &&& ~~~(t.extractLsb' 25 3) ≠ 0 ∨ (tokenWin t = 0 ∧ p.ptype ≠ pMGMT) then nTOKRIGHTS
  else if p.addr.toNat < lo ∨ hi < p.addr.toNat + accessLen p then nTOKBOUNDS
  else 0

/-- A MAC failure: counted, and recorded once per window and millisecond, which the model counts from that window's last event (R75; DESIGN
CHOICE, unsafe, log 71). -/
def State.macFailure (s : State) (p : Packet) (port : Option Nat) : State :=
  let s := s.countDiscard
  let w := tokenWin p.token
  let (n, last) := Tab.get (0, none) s.macFails w
  let n := if n = BitVec.allOnes 32 then n else n + 1
  let due := match last with | none => true | some t => decide (t + 15625 ≤ s.ftime)
  if due then
    ({ s with macFails := Tab.set s.macFails w (0, some s.ftime) }).strandEvent 0x0B w
      (toBytes p.src.toNat 2 ++ toBytes (port.getD 0xFF) 1 ++ [p.ptype] ++ toBytes p.token.toNat 8 ++ toBytes n.toNat 4)
  else { s with macFails := Tab.set s.macFails w (n, last) }

/-- The OPX layout of an atomic or scalar request (R432). -/
def opxOk (p : Packet) : Bool :=
  let op := (p.opx.extractLsb' 0 4).toNat
  let w := (p.opx.extractLsb' 4 3).toNat
  let float := p.opx.getLsbD 7
  let noret := p.opx.getLsbD 12
  let signed := p.opx.getLsbD 13
  p.opx.extractLsb' 14 2 == 0 && decide (w ≤ 3) &&
  (if p.ptype = pATOMREQ then
     (decide (op ≤ 6) && !float || op == 8 && float && decide (2 ≤ w)) && (!signed || op == 4 || op == 5)
   else if p.ptype = pORDREQ then op == 9 && float && decide (2 ≤ w) && !signed
   else op == 0 && !float && !noret && !signed)

/-- LEN and ADDR of an atomic or scalar request (R432). -/
def lenOk (p : Packet) : Bool :=
  let w := opxWidth p
  p.addr.toNat % w == 0 &&
  (if p.ptype = pLDREQ then p.len == 0
   else if p.ptype = pSTREQ then p.len.toNat == w
   else if p.ptype = pCASREQ then p.len.toNat == 2 * w
   else p.len != 0 && p.len.toNat % w == 0)

/-- A request that breaks R431, R432 or the alignment of R435. -/
def malformedReq (p : Packet) : Bool :=
  if p.ptype = pPUTREQ then
    p.opx.extractLsb' 9 7 != 0 || p.len == 0 ||
    (if p.aux.getLsbD 63 then p.aux.extractLsb' 36 27 != 0 || p.aux.toNat % 16 != 0 else p.aux != 0)
  else if p.ptype = pGETREQ ∨ p.ptype = pMGMT then p.opx != 0
  else !(opxOk p) || !(lenOk p)

/-! ## Performing requests (R434 to R436) -/

/-- The operation that OP 0 to 6 names (R434). -/
def opOf : Nat → AtomOp
  | 0 => .add | 1 => .and | 2 => .or | 3 => .xor | 4 => .min | 5 => .max | _ => .xchg

/-- The integer type of a width code and signedness. -/
def intTyOf (w : Nat) (signed : Bool) : IntTy :=
  { w := match w with | 0 => .w8 | 1 => .w16 | 2 => .w32 | _ => .w64, signed := signed }

/-- The new value of an element (R434); none leaves it. -/
def elemValue (p : Packet) (bs : List Byte) (e o : Nat) : Option Nat :=
  let w := opxWidth p
  let op := (p.opx.extractLsb' 0 4).toNat
  let b := ofBytes ((bs.drop (e * w)).take w)
  if p.ptype = pCASREQ then (if o = b then some (ofBytes ((bs.drop w).take w)) else none)
  else if 8 ≤ op then
    let f := if w = 4 then Fmt.f32 else Fmt.f64
    some (f.encode (Fl.add .rne (f.decode o) (f.decode b)) .rne false 0)
  else some (atomValue (opOf op) (intTyOf (p.opx.extractLsb' 4 3).toNat (p.opx.getLsbD 13)) o b)

/-- Elements of an atomic in ascending address: the old bytes, and whether a poisoned element was met, which is left unchanged (R434, R436). -/
def rmwElems (p : Packet) (bs : List Byte) (l : Pieces) : Nat → Nat → State → State × List Byte × Bool
  | 0, _, s => (s, [], false)
  | k + 1, e, s =>
    let w := opxWidth p
    let at' := slicePieces l (e * w) w
    let old := s.readAll at'
    if (s.firstPoisonAll at').isSome then
      let r := rmwElems p bs l k (e + 1) s
      (r.1, old ++ r.2.1, true)
    else
      let s := match elemValue p bs e (ofBytes old) with
        | some v => s.writeAll at' (toBytes v w)
        | none => s
      let r := rmwElems p bs l k (e + 1) s
      (r.1, old ++ r.2.1, r.2.2)

/-- An atomic, and its answer (R434, R436). -/
def State.performRmw (s : State) (p : Packet) (bs : List Byte) (l : Pieces) : State :=
  let (s, old, bad) := rmwElems p bs l (accessLen p / opxWidth p) 0 s
  if bad then s.nackReq p nPOISON
  else if p.opx.getLsbD 12 then s.answer p (s.resp p pACK 0 [] 0) true
  else s.answerFrom p l (s.resp p pATOMRSP 0 old 0)

/-! ## The ordered-reduction window (R437) -/

/-- The 64-byte line of a place. -/
def Place.line : Place → Place
  | .spm u o => .spm u (o / 64 * 64)
  | .hbm d _ => .hbm (d / 64 * 64) none
  | .host a => .host (a / 64 * 64)
  | .img w u o => .img w u (o / 64 * 64)

/-- The line of a contribution: its first byte's. -/
def OrdHeld.line (h : OrdHeld) : Option Place := h.places.head?.map fun p => p.1.line

/-- Replacing the round of a line; none removes it. -/
def setRound (rs : List OrdRound) (line : Place) : Option OrdRound → List OrdRound
  | none => rs.filter fun r => r.line != line
  | some x => if rs.any (fun r => r.line == line) then rs.map fun r => if r.line = line then x else r else rs ++ [x]

/-- One contribution: applied, held, or answered; with the contributions that become due by it. -/
def ordOne (s : State) (h : OrdHeld) (line : Place) : State × List OrdHeld :=
  let open' := s.ords.find? fun r => r.line == line
  if open'.isNone && decide (4096 ≤ s.ords.length) then (s.answer h.pkt (s.resp h.pkt pNACK 0 [] 0) false, [])
  else
    let r := open'.getD { line := line, ccnt := h.pkt.ccnt, next := 0, held := [] }
    if h.pkt.ccnt ≠ r.ccnt then (s.nackReq h.pkt nMALFORMED, [])
    else if h.pkt.cidx.toNat = r.next ∧ s.canAnswer h.pkt h.places = true then
      let s := s.performRmw h.pkt h.pkt.payload h.places
      let next := r.next + 1
      if r.ccnt.toNat ≤ next then ({ s with ords := setRound s.ords line none }, r.held)
      else
        match r.held.find? fun x => x.pkt.cidx.toNat == next with
        | none => ({ s with ords := setRound s.ords line (some { r with next := next }) }, [])
        | some x => ({ s with ords := setRound s.ords line (some { r with next := next, held := r.held.erase x }) }, [x])
    else if 64 ≤ r.held.length then
      (s.answer h.pkt (s.resp h.pkt pNACK 0 [] 0) false, [])
    else ({ s with ords := setRound s.ords line (some { r with held := r.held ++ [h] }) }, [])

/-- Contributions in order, each with those it makes due. -/
def ordRun : Nat → List OrdHeld → State → State
  | 0, _, s => s
  | _ + 1, [], s => s
  | fuel + 1, h :: rest, s =>
    match h.line with
    | none => ordRun fuel rest s
    | some line => ordRun fuel ((ordOne s h line).2 ++ rest) (ordOne s h line).1

/-- The arrival of a contribution: at most 64 stand on its line, each applied or held at most once a round. -/
def State.contribute (s : State) (h : OrdHeld) : State := ordRun 4300 [h] s

/-! ## One request past its checks -/

/-- Performing a request on its pieces, with its opened payload and landing word (R435 to R437). -/
def State.perform (s : State) (p : Packet) (bs : List Byte) (l : Pieces) (lw : Option Place) : State :=
  match p.ptype.toNat with
  | 1 =>
    let s := s.writeAllTag bs (Packet.badAt p) 0 l
    let s := match lw with | some w => s.landAt w p.len.toNat true | none => s
    s.answer p (s.resp p pACK 0 [] 0) true
  | 2 => s.answerFrom p l (s.resp p pDATA 0 (s.readAll l) (pmask p.addr p.len.toNat (s.poisonAt l)))
  | 3 => if (s.firstPoisonAll l).isSome then s.nackReq p nPOISON else s.answerFrom p l (s.resp p pDATA 0 (s.readAll l) 0)
  | 4 => let s := s.writeAll l bs; s.answer p (s.resp p pACK 0 [] 0) true
  | 7 => s.contribute { pkt := { p with payload := bs }, places := l }
  | 8 => s.answer p (s.resp p pACK 0 [] 0) true
  | _ => s.performRmw p bs l

/-- The access of a request at its target (R143). -/
def ingressAcc (asid : BitVec 16) (p : Packet) : Acc :=
  let need := neededRights p.ptype
  { cache := .ingress, unit := Config.cores, copy := true, asid := asid, r := need.getLsbD 0 || need.getLsbD 2,
    w := need.getLsbD 1 || need.getLsbD 2, x := false }

/-- A clear page takes any packet; a confidential one only packets under its slot (R76). -/
def authOk (p : Packet) : Pieces → Bool
  | [] => true
  | (.hbm _ (some k), _) :: l => p.conf && p.keyslot == k.setWidth 16 && authOk p l
  | _ :: l => authOk p l

/-- A request waits at ingress, also for a unit whose sweep is being pre-empted (R191). -/
def State.holdReq (s : State) (h : HeldReq) (u : Option Nat) : State :=
  let redir := match u.bind fun u => (s.core u).tenant.map fun w => (u, w) with
    | some x => addRedir h.redir x.1 x.2
    | none => h.redir
  { s with ingress := s.ingress ++ [{ h with redir := redir }] }

/-- The place of a PUTREQ's landing word (R125, R435). -/
def lwPlace (s : State) (x : Acc) (p : Packet) : Except Stop (Option Place) :=
  if p.ptype = pPUTREQ ∧ p.aux.getLsbD 63 then (spaPlace s x (p.aux.extractLsb' 0 36) 16).map some else .ok none

/-- A request past R75: its format, its landing word, its seal, translation, then its performance (R76, R143, R432, R435, R469). -/
def State.takeIn (s : State) (h : HeldReq) : State :=
  let p := h.pkt
  let x := ingressAcc (s.window (tokenWin p.token)).asid p
  if malformedReq p then s.nackReq p nMALFORMED
  else
    match lwPlace s x p with
    | .error (.frozen u) => s.holdReq h (some u)
    | .error _ => s.nackReq p nXLATE
    | .ok lw =>
      match s.openPayload p with
      | none => s.countDiscard.nackReq p nAUTH
      | some bs =>
        if p.ptype = pMGMT then s.perform p bs [] none
        else
          match resolve s x p.addr (accessLen p) with
          | (s, .error (.xlt _ _, _)) => s.holdReq h none
          | (s, .error (.bank b, _)) => (s.lineUp b (.req p.src p.tag)).holdReq h none
          | (s, .error (.frozen u, _)) => s.holdReq h (some u)
          | (s, .error (.poison, _)) => s.nackReq p nPOISON
          | (s, .error _) => s.nackReq p nXLATE
          | (s, .ok l) =>
            if !(authOk p l) then s.nackReq p nAUTH
            else if p.ptype ≠ pORDREQ ∧ s.canAnswer p l = false then s.holdReq h none
            else if s.redirHeld h.redir l || s.redirHeld h.redir (lw.toList.map fun w => (w, 16)) then s.holdReq h none
            else
              match redirect s h.redir l, redirect s h.redir (lw.toList.map fun w => (w, 16)) with
              | some l, some w => s.perform p bs l (w.head?.map fun w => w.1)
              | _, _ => s.nackReq p nXLATE

/-- Bytes of the holding buffer that requests of a halted context take (R206). -/
def State.haltBytes (s : State) : Nat :=
  s.ingress.foldl (fun n h => if h.halted then n + 48 + h.pkt.payload.length else n) 0

/-- Completion records kept or to be kept: for responses given, and for requests past their checks and contributions held (R64, R75). -/
def State.recsDue (s : State) : Nat :=
  s.tgtRecs.length + (s.ords.foldl (fun n r => n + r.held.length) 0) + (s.ingress.filter fun h => h.passed).length

/-- A request at this device: its header, its resends, R75, and a halt of its context (R62, R75, R206);
a faulted device answers UNREACH at once (R93). (DEDUCED, unsafe, log 65) -/
def State.ingressReq (s : State) (h : HeldReq) : State :=
  let p := h.pkt
  let halt := s.dbg.halt && (s.window (tokenWin p.token)).asid == s.dbg.asid
  let gate := fun (s : State) (h : HeldReq) =>
    if halt then
      if s.haltBytes + 48 + p.payload.length ≤ 4194304 then s.holdReq { h with halted := true } none else s.nackReq p nUNREACH
    else s.takeIn h
  if s.stopped then s
  else if s.faulted then s.nackReq p nUNREACH
  else if h.passed then gate s h
  else if p.reservedBad || !p.isReq then
    let s := s.countDiscard
    if p.src.getLsbD 15 then s else s.nackReq p nMALFORMED
  else if (s.ingress.any fun x => x.pkt.src == p.src && x.pkt.tag == p.tag) ||
      (s.ords.any fun r => r.held.any fun x => x.pkt.src == p.src && x.pkt.tag == p.tag) then s.countDiscard
  else
    match s.tgtRecs.find? fun r => r.src == p.src && r.tag == p.tag with
    | some r => s.launchPkt r.resp
    | none =>
      if !(s.loopback p) && decide (65536 ≤ s.recsDue) then s.holdReq h none
      else
        let st := s.ingressCheck p
        if st = nTOKMAC then (s.macFailure p h.port).nackReq p st
        else if st ≠ 0 then s.nackReq p st
        else gate s { h with passed := true }

/-- Requests that waited at ingress, in arrival order, tried again. -/
def State.retryIngress (s : State) : State :=
  s.ingress.foldl (fun s h => { s with ingress := s.ingress.erase h }.ingressReq { h with halted := false }) s

/-! ## Sending a request (R64, R75, R76) -/

/-- The first TAG from a number on that is not used; none when all are. -/
def freeTag (used : List (BitVec 16)) : Nat → BitVec 16 → Option (BitVec 16)
  | 0, _ => none
  | fuel + 1, t => if used.contains t then freeTag used fuel (t + 1) else some t

/-- FTIME ticks for which a TAG is not used again towards its target: 2 ms (R75). -/
def tagTime : Nat := 31250

/-- The TAGs that a new request to a target may not carry: those outstanding, and those of the last 2 ms (R64, R75). -/
def State.usedTags (s : State) (dst : BitVec 16) : List (BitVec 16) :=
  (s.outst.map fun o => o.tag) ++ (s.recentTags.filter fun r => r.1 == dst && decide (s.ftime < r.2.2 + tagTime)).map fun r => r.2.1

/-- The TAG, and with it the response buffer, of a new request to a target; none while there is none (R64, R75). -/
def State.tagFor (s : State) (dst : BitVec 16) : Option (BitVec 16) :=
  freeTag (s.usedTags dst) (Nat.min 65536 ((s.usedTags dst).length + 1)) s.nextTag

/-- A TAG is used towards a target now. -/
def State.noteTag (s : State) (dst tag : BitVec 16) : State :=
  { s with recentTags := (dst, tag, s.ftime) :: s.recentTags.filter fun r => decide (s.ftime < r.2.2 + tagTime) && !(r.1 == dst && r.2.1 == tag) }

/-- A packet leaves for its target: through loopback to this device's own ingress, else to the router (R146, R431). -/
def State.emit (s : State) (p : Packet) : State :=
  if p.dst = s.devid.setWidth 16 then s.ingressReq { pkt := p, port := none, passed := false, halted := false, redir := [] }
  else s.launchPkt p

/-- A request of an entry, once a TAG is free: tagged, recorded, sealed when its data is confidential, and sent. -/
def State.request (s : State) (c : Nat) (q : Entry) (p : Packet) (key : Option (BitVec 12)) (kind : ReqKind) (off len : Nat)
    (dst : Pieces) (lw : Option Place) (shard : Option (BitVec 12 × BitVec 16)) : State :=
  let tag := (s.tagFor p.dst).getD s.nextTag
  let p := { p with tag := tag, src := s.devid.setWidth 16 }
  let (s, p) := match key with | some k => s.seal p k | none => (s, p)
  let o : Outst :=
    { tag := tag, pkt := p, kind := kind, core := c, slot := q.slot, sweep := (s.task c q.slot).sweep, eng := .fx, isn := q.isn,
      rdepth := q.rdepth, off := off, len := len, dst := dst, lw := lw, resends := 0, shard := shard, deferred := false }
  let xs := s.xfers.map fun x => if x.of o then { x with sent := off + len, dst := x.dst ++ [(off, dst)] } else x
  let xs := if xs.any (fun x => x.of o) then xs
    else
      xs ++ [{ core := c, slot := q.slot, sweep := o.sweep, isn := q.isn, base := off, sent := off + len, ok := [], dst := [(off, dst)] }]
  ({ s with outst := s.outst ++ [o], xfers := xs, nextTag := tag + 1 }.noteTag p.dst tag).emit p

end Sys2Proof.Machine
end

