-- ==== Sys2Proof/Machine/FxOps.lean ====
section
/-! DEFINITION. What the fabric members share: captures, target words, packets of a transfer, single-element requests and the resolution of sharded elements (R145 to R150, R430 to R441). -/

namespace Sys2Proof.Machine

/-- An FX entry: captures by encoding field (R409). -/
def fx (i : Instr) (caps : Task → List (BitVec 128)) : Issue := { instr := i, eng := .fx, caps := caps }

/-- Two consecutive scalar registers captured together: s[R] low, s[R + 1] high (R430, R431). -/
def capPair (t : Task) (r : SReg) : BitVec 128 := t.sreg (r + 1) ++ t.sreg r

/-- The FX engine's access to a local operand: its own unit's scratchpad, HBM or the host half (R435). -/
def fxAcc (s : State) (c : Nat) (q : Entry) (w : Bool) : Acc := engAcc c .fx (s.task c q.slot).asid false (!w) w

/-- The largest payload (R430). -/
def pszBytes : Psz → Nat
  | .pk256 => 256 | .pk128 => 128 | .pk64 => 64

/-- Code of a remote scope (R430). -/
def rscopeCode : RScope → Nat
  | .fab => 2 | .sys => 3

/-- Code of an order (R297). -/
def orderCode : Order → Nat
  | .rlx => 0 | .acq => 1 | .rel => 2 | .ar => 3

/-- The OPX of a scalar or atomic request (R432). -/
def opxOf (op w : Nat) (float : Bool) (order scope : Nat) (noret signed : Bool) : BitVec 16 :=
  BitVec.ofNat 16 (op + 16 * Nat.log2 w + (if float then 128 else 0) + 256 * order + 1024 * scope + (if noret then 4096 else 0) +
    (if signed then 8192 else 0))

/-! ## Target words (R431) -/

def twDev (sc : Word) : BitVec 15 := sc.extractLsb' 0 15
def twLwen (sc : Word) : Bool := sc.getLsbD 15
def twSpa (sc : Word) : BitVec 36 := sc.extractLsb' 16 36

/-- Zero bits of the word of PUT and GET that are set. -/
def twMoveBad (sc : Word) : Bool := sc.extractLsb' 52 12 != 0 || (!(twLwen sc) && twSpa sc != 0)

/-- Zero bits of the word of RLD, RST and RCAS that are set. -/
def twOneBad (sc : Word) : Bool := sc.extractLsb' 15 49 != 0

/-! ## What a run has sent -/

/-- The entry still stands in its queue: no NACK has completed it. -/
def State.entryLive (s : State) (c : Nat) (q : Entry) : Bool := (s.core c).queue.any fun x => q.same x

/-- A packet has been sent: the next one follows unless a NACK has completed the entry (R184). -/
def afterSend (c : Nat) (q : Entry) (pos k : Nat) (s : State) : PRes :=
  if s.entryLive c q then ⟨s, pos + k, pos + k, .done⟩ else ⟨s, pos, pos + k, .sent⟩

/-- Every packet is sent: the record of a run without requests left goes. -/
def State.endSend (s : State) (c : Nat) (q : Entry) : State :=
  let id := (s.task c q.slot).sweep
  if s.outst.any fun o => o.by c q.slot id && o.isn == q.isn then s
  else { s with xfers := s.xfers.filter fun x => !(x.core == c && x.slot == q.slot && x.sweep == id && x.isn == q.isn) }

/-- Bytes of an entry acknowledged OK as a prefix, when the next packet starts at a position. -/
def State.ackedOf (s : State) (c : Nat) (q : Entry) (pos : Nat) : Nat :=
  match s.xfers.find? fun x => x.core == c && x.slot == q.slot && x.sweep == (s.task c q.slot).sweep && x.isn == q.isn with
  | some x => x.acked
  | none => pos

/-! ## Transfers (R433, R435, R436) -/

/-- Packets of a transfer in order from a position: each ends at a cut of its target address or with its segment, and has a byte or more, so that a
transfer of n bytes needs at most n of them (R433). -/
def sendAll (cut : Nat) (segs : List Seg) (f : Seg → Nat → Nat → Addr → State → PRes) : Nat → Nat → State → PRes
  | 0, pos, s => ⟨s, pos, pos, .stall⟩
  | fuel + 1, pos, s =>
    match segs.find? fun g => decide (g.start ≤ pos) && decide (pos < g.start + g.len) with
    | none => ⟨s, pos, pos, .done⟩
    | some g =>
      let a := g.addr + BitVec.ofNat 80 (pos - g.start)
      let k := Nat.min (g.start + g.len - pos) (cut - a.toNat % cut)
      let r := f g pos k a s
      match r.out with
      | .done => sendAll cut segs f fuel (pos + k) r.s
      | _ => r

/-- How a transfer ends: at once, or with its responses (R216, R435). -/
def endTransfer (c : Nat) (q : Entry) (resp : Bool) (r : PRes) : PRes :=
  match r.out with
  | .done => ⟨r.s.endSend c q, r.comm, r.spec, if resp then .sent else .done⟩
  | _ => r

/-- Two places and lengths share a byte. -/
def meets (a b : Place × Nat) : Bool :=
  match a.1, b.1 with
  | .spm u o, .spm v p => u == v && decide (o < p + b.2) && decide (p < o + a.2)
  | .hbm d _, .hbm e _ => decide (d < e + b.2) && decide (e < d + a.2)
  | .host d, .host e => decide (d < e + b.2) && decide (e < d + a.2)
  | _, _ => false

/-- DATA of an earlier entry of the task is still to be written to some of the pieces, or a landing word there to count it: the entry's own
effects and reads there follow (R211). -/
def State.awaitsData (s : State) (c : Nat) (q : Entry) (l : Pieces) : Bool :=
  s.outst.any fun o =>
    o.by c q.slot (s.task c q.slot).sweep && o.isn != q.isn &&
    (o.dst ++ (o.lw.toList.map fun p => (p, 16))).any fun a => l.any fun b => meets a b

/-- A read of the FX engine follows the writes of the task's earlier entries (R211). -/
def fxRead (s : State) (c : Nat) (q : Entry) (va : Addr) (k comm total : Nat) (f : State → Pieces → PRes) : PRes :=
  engAccess s c q (fxAcc s c q false) va k comm total fun s l => if s.awaitsData c q l then ⟨s, comm, comm, .stall⟩ else f s l

/-- One packet with bytes of the local source: PUTREQ moves poison in PMASK, an addition consumes it (R436). -/
def sendBytes (c : Nat) (q : Entry) (src : Addr) (total : Nat) (p : Packet) (kind : ReqKind) (g : Seg) (pos k : Nat) (a : Addr)
    (s : State) : PRes :=
  fxRead s c q (src + BitVec.ofNat 80 pos) k pos total fun s l =>
    if (s.tagFor (g.dev.setWidth 16)).isNone then ⟨s, pos, pos, .stall⟩
    else
    match (if p.ptype = pPUTREQ then none else s.firstPoisonAll l) with
    | some i => ⟨s, s.ackedOf c q pos, pos, .poison cPOISON (src + BitVec.ofNat 80 (pos + i))⟩
    | none =>
      if s.sealable (keyOf l) = false then ⟨s, pos, pos, .stall⟩
      else
        let p := { p with
          aux := if pos < q.landed then 0 else p.aux
          dst := g.dev.setWidth 16, token := g.token, addr := a, len := BitVec.ofNat 16 k, payload := s.readAll l
          opx := if p.ptype = pPUTREQ then pmask a k (s.poisonAt l) else p.opx }
        afterSend c q pos k (s.request c q p (keyOf l) kind pos k [] none g.shard)

/-- One GETREQ: its destination is translated before it is sent (R435). -/
def sendGet (c : Nat) (q : Entry) (dst : Addr) (total : Nat) (kind : ReqKind) (lw : Option Place) (g : Seg) (pos k : Nat) (a : Addr)
    (s : State) : PRes :=
  engAccess s c q (fxAcc s c q true) (dst + BitVec.ofNat 80 pos) k pos total fun s l =>
    if s.sealable (keyOf l) = false || (s.tagFor (g.dev.setWidth 16)).isNone || s.awaitsData c q (l ++ lw.toList.map fun p => (p, 16)) then
      ⟨s, pos, pos, .stall⟩
    else
      let p : Packet :=
        { ptype := pGETREQ, dst := g.dev.setWidth 16, token := g.token, addr := a, len := BitVec.ofNat 16 k }
      afterSend c q pos k (s.request c q p (keyOf l) kind pos k l lw g.shard)

/-- A local operand of n bytes that names another unit's scratchpad or runs past its own (R125, R435). -/
def localBad (s : State) (x : Acc) (a : Addr) (n : Nat) : Check := (decide (n ≠ 0) && spBad s x a n, cSPACCESS, a)

/-- The landing word of a GET or SGET lies in the issuing unit's scratchpad (R411, R431). -/
def getLwChecks (s : State) (c : Nat) (x : Acc) : Option (BitVec 36) → List Check
  | none => []
  | some spa => lwChecks s x spa (some c)

/-- The place of that landing word. -/
def getLwPlace (c : Nat) (lw : Option (BitVec 36)) : Option Place := lw.map fun spa => .spm c (spa.extractLsb' 0 26).toNat

/-! ## Single-element requests (R434, R438) -/

/-- Every earlier request of the task that FLUSH awaits has its response (R439). -/
def State.flushed (s : State) (c : Nat) (q : Entry) : Bool :=
  !(s.outst.any fun o => o.by c q.slot (s.task c q.slot).sweep && o.kind.remoteWrite)

/-- A command of CX, VX or TX writes the host half. -/
def Entry.writesHost (q : Entry) (t : Task) : Bool :=
  let host := fun (a : Addr) => vaRegion a == .host
  match q.instr with
  | .cpy .. | .cpyt .. | .fill .. | .rlrd .. | .streamrow .. | .txrun .. => host (q.o0.setWidth 80)
  | .vst _ w _ m => host (unitAddr w m q t 0)
  | .vsts _ _ _ m => host (strideAddr m q t 0)
  | .vscat _ w _ g => (List.range (inWidth w.bits q.o1.toNat)).any fun e => host (gatherAddr w g q t e)
  | _ => false

/-- Every earlier host-half write of the task has completed: of its entries in any engine, and of GET and SGET with their DATA (R439). -/
def State.hostWritten (s : State) (c : Nat) (q : Entry) : Bool :=
  let earlier := fun (i : BitVec 24) => i != q.isn && (q.isn - i).ult 0x800000
  !((s.core c).queue.any fun x => x.slot == q.slot && !x.done && earlier x.isn && x.writesHost (s.task c q.slot)) &&
  !(s.outst.any fun o => o.by c q.slot (s.task c q.slot).sweep && earlier o.isn &&
      o.dst.any fun p => match p.1 with | .host _ => true | _ => false)

/-- No earlier entry of the task stands in the FX queue (R242). -/
def State.firstFx (s : State) (c : Nat) (q : Entry) : Bool :=
  !((before q (s.core c).queue).any fun x => x.slot == q.slot && x.eng == .fx)

/-- One request of w bytes: its checks, the implied FLUSH of a release with the task's earlier entries in the engine, then its packet; it
completes when sent, or with its response (R242, R438, R439). -/
def single (c : Nat) (q : Entry) (checks : List Check) (rel resp : Bool) (w : Nat) (p : Packet) (kind : ReqKind)
    (shard : Option (BitVec 12 × BitVec 16)) (s : State) : PRes :=
  whole (checks ++ [(p.addr.toNat % w != 0, cALIGN, p.addr)]) s
    (if (rel && !(s.flushed c q && s.firstFx c q)) || (s.tagFor p.dst).isNone then ⟨s, 0, 0, .stall⟩
     else
       let r := afterSend c q 0 w (s.request c q p none kind 0 w [] none shard)
       match r.out with
       | .done => ⟨r.s.endSend c q, w, w, if resp then .sent else .done⟩
       | _ => r)

/-! ## Sharding handles (R145 to R148) -/

end Sys2Proof.Machine

namespace Sys2Proof.Machine.ShardEnt

def gen (t : ShardEnt) : BitVec 16 := t.extractLsb' 0 16
def rank (t : ShardEnt) : Nat := (t.extractLsb' 16 8).toNat
def esz (t : ShardEnt) : Nat := (t.extractLsb' 24 8).toNat
def asid (t : ShardEnt) : BitVec 16 := t.extractLsb' 32 16
/-- The dimension at grid position p. -/
def order (t : ShardEnt) (p : Nat) : Nat := (t.extractLsb' (48 + 2 * p) 2).toNat
def flags (t : ShardEnt) : BitVec 8 := t.extractLsb' 56 8
def valid (t : ShardEnt) : Bool := t.flags.getLsbD 0
/-- Extent of dimension d. -/
def ext (t : ShardEnt) (d : Nat) : Nat := (t.extractLsb' (64 + 32 * d) 32).toNat
/-- Shard-block extent of dimension d. -/
def blk (t : ShardEnt) (d : Nat) : Nat := (t.extractLsb' (192 + 32 * d) 32).toNat
def own (t : ShardEnt) : Addr := t.extractLsb' 320 80
def tbase (t : ShardEnt) : Addr := t.extractLsb' 400 80
def nown (t : ShardEnt) : Nat := (t.extractLsb' 480 32).toNat
/-- Blocks along dimension d. -/
def grid (t : ShardEnt) (d : Nat) : Nat := (t.ext d + t.blk d - 1) / t.blk d

/-- An image that SHUPD refuses (R148). -/
def bad (t : ShardEnt) : Bool :=
  let dims := [0, 1, 2, 3]
  let total := (dims.map fun d => t.grid d).foldl (· * ·) 1
  t.valid &&
  (t.flags.extractLsb' 1 7 != 0 || t.rank == 0 || decide (4 < t.rank) || decide (3 < t.esz) ||
   (dims.any fun d => t.ext d == 0 || t.blk d == 0) ||
   (dims.any fun d => decide (t.rank ≤ d) && (t.ext d != 1 || t.blk d != 1)) ||
   !(dims.all fun d => (dims.map fun p => t.order p).contains d) ||
   t.nown != total || decide (2 ^ 32 < total))

end Sys2Proof.Machine.ShardEnt

namespace Sys2Proof.Machine

/-- A handle's entry. -/
def State.handle (s : State) (h : BitVec 12) : ShardEnt := Tab.get 0 s.shtab h.toNat

/-- Indices of a captured pair (R430). -/
def indexAt (i : BitVec 128) (d : Nat) : Nat := (i.extractLsb' (32 * d) 32).toNat

/-- EADDR of a SHARD trap (R147). -/
def shardAddr (h : BitVec 12) (more : Nat) : Addr := h.setWidth 80 + BitVec.ofNat 80 more

/-- The SHARD condition of an access of n elements along the last dimension, of a width when one is required (R147, R441). (DEDUCED, unsafe, log 59) -/
def shardFault (s : State) (c : Nat) (q : Entry) (h : BitVec 12) (i : BitVec 128) (n : Nat) (width : Option Nat) : Option Addr :=
  let t := s.handle h
  if !t.valid || t.asid ≠ (s.task c q.slot).asid then some (shardAddr h 0)
  else if (width.map fun w => w != 2 ^ t.esz) = some true then some (shardAddr h 0x4000)
  else if n = 0 then none
  else
    let last := fun d : Nat => if d + 1 = t.rank then indexAt i d + n - 1 else indexAt i d
    ([0, 1, 2, 3].find? fun d => decide (t.ext d ≤ last d)).map fun d => shardAddr h (4096 * d)

/-- As a whole-command check; a resolved access keeps what it resolved (R149). -/
def shardCheck (s : State) (c : Nat) (q : Entry) (h : BitVec 12) (i : BitVec 128) (n : Nat) (width : Option Nat) : Check :=
  match q.segs, shardFault s c q h i n width with
  | none, some a => (true, cSHARD, a)
  | _, _ => (false, cSHARD, 0)

/-- Bytes of a sharded access of n elements (R149, R441). -/
def shardBytes (s : State) (q : Entry) (h : BitVec 12) (n : Nat) : Nat :=
  match q.segs with
  | some l => l.foldl (fun k g => k + g.len) 0
  | none => n * 2 ^ (s.handle h).esz

/-- A piece of a sharded access before its owner is known: byte range, indices of its first element. -/
structure ShardPiece where
  start : Nat
  len : Nat
  idx : List Nat

/-- Pieces of n elements from indices on, at the shard-block boundaries of the last dimension (R441). -/
def shardPieces (t : ShardEnt) (idx : List Nat) : Nat → Nat → Nat → List ShardPiece
  | 0, _, _ => []
  | fuel + 1, k, n =>
    if n ≤ k then []
    else
      let d := t.rank - 1
      let at' := idx.getD d 0 + k
      let m := Nat.min (n - k) (t.blk d - at' % t.blk d)
      { start := k * 2 ^ t.esz, len := m * 2 ^ t.esz, idx := idx.set d at' } :: shardPieces t idx fuel (k + m) n

/-- Number of the owner record of an element (R147). -/
def ownerNo (t : ShardEnt) (idx : List Nat) : Nat :=
  [0, 1, 2, 3].foldl (fun q p => q * t.grid (t.order p) + idx.getD (t.order p) 0 / t.blk (t.order p)) 0

/-- Element number within its shard block (R147). -/
def withinBlock (t : ShardEnt) (idx : List Nat) : Nat :=
  let j := fun d : Nat => idx.getD d 0 % t.blk d
  ((j 0 * t.blk 1 + j 1) * t.blk 2 + j 2) * t.blk 3 + j 3

/-- Resolving pieces in order: each owner record is read, and every one before anything is sent (R146, R147). -/
def resolvePieces (c : Nat) (q : Entry) (h : BitVec 12) (total : Nat) (f : List Seg → State → PRes) :
    List ShardPiece → List Seg → State → PRes
  | [], acc, s => f acc s
  | x :: l, acc, s =>
    let t := s.handle h
    let va := t.own + BitVec.ofNat 80 (16 * ownerNo t x.idx)
    fxRead s c q va 16 q.comm total fun s ps =>
      match s.firstPoisonAll ps with
      | some i => ⟨s, q.comm, q.comm, .poison cPOISON (va + BitVec.ofNat 80 i)⟩
      | none =>
        let o : BitVec 128 := leBits 128 (s.readAll ps)
        if o.getLsbD 79 then ⟨s, 0, 0, .trap cSHARD 0 (shardAddr h 0x8000)⟩
        else
          let a := t.tbase + (o.extractLsb' 80 48).setWidth 80 + BitVec.ofNat 80 (withinBlock t x.idx * 2 ^ t.esz)
          resolvePieces c q h total f l
            (acc ++ [{ start := x.start, len := x.len, dev := o.extractLsb' 64 15, token := o.extractLsb' 0 64, addr := a,
                       shard := some (h, t.gen) }]) s

/-- The four indices of a pair. -/
def indices (i : BitVec 128) : List Nat := [indexAt i 0, indexAt i 1, indexAt i 2, indexAt i 3]

/-- Resolving n elements from an index pair on, once for an access in flight: it completes at the owners it resolved, whatever later SHUPDs
do (R149). -/
def resolveShard (s : State) (c : Nat) (q : Entry) (h : BitVec 12) (i : BitVec 128) (n : Nat) (f : List Seg → State → PRes) : PRes :=
  match q.segs with
  | some segs => f segs s
  | none =>
    let t := s.handle h
    resolvePieces c q h (n * 2 ^ t.esz) (fun segs s => f segs (s.modEntry c q fun e => { e with segs := some segs }))
      (shardPieces t (indices i) (n + 1) 0 n) [] s

/-- An entry carries a generation of a handle. -/
def Entry.carries (q : Entry) (h : BitVec 12) (g : BitVec 16) : Bool :=
  match q.segs with
  | some l => l.any fun x => x.shard == some (h, g)
  | none => false

/-- An access in flight on this device carries a generation of a handle (R149). -/
def State.carried (s : State) (h : BitVec 12) (g : BitVec 16) : Bool :=
  (s.outst.any fun o => o.shard == some (h, g)) || (s.cores.any fun k => k.2.queue.any fun q => q.carries h g) ||
  (s.images.any fun i => i.queue.any fun q => q.carries h g)

end Sys2Proof.Machine
end

