-- ==== Sys2Proof/Machine/Fx.lean ====
section
/-! DEFINITION. Class FX: PUT to REVOKE (R430 to R444). -/

namespace Sys2Proof.Machine

/-! ## PUT, GET (R431, R435) -/

/-- PUT on the FX engine. -/
def runPut (psz : Psz) (_r _s : AReg) (_k _c : SReg) (n : BitVec 32) : Perf := fun c q s =>
  let r : Addr := q.o0.setWidth 80
  let a : Addr := q.o1.setWidth 80
  let sc : Word := q.o3.setWidth 64
  let spa := twSpa sc
  let p : Packet :=
    { ptype := pPUTREQ, aux := if twLwen sc && !q.mute then (1 : BitVec 64) <<< 63 ||| spa.setWidth 64 else 0 }
  let segs : List Seg := [⟨0, n.toNat, twDev sc, q.o2.setWidth 64, r, none⟩]
  whole [(twLwen sc && spa.extractLsb' 0 4 != 0, cALIGN, spw spa), localBad s (fxAcc s c q false) a n.toNat,
         (twMoveBad sc || (twLwen sc && spa.extractLsb' 26 10 == 1023), cOPFORMAT, r)] s
    (endTransfer c q false
      (sendAll (pszBytes psz) segs (sendBytes c q a n.toNat p .put) (n.toNat + 1) q.comm s))

/-- PUT: its issue into the FX queue. -/
def execPut (y : Sync) (psz : Psz) (r s' : AReg) (k d : SReg) (n : BitVec 32) (s : State) : Host.Outcome State Fault Refusal :=
  engine legal (fx (.put y psz r s' k d n) (fun t => [capA t r, capA t s', capS t k, capS t d])) (runPut psz r s' k d n) s

/-- GET on the FX engine. -/
def runGet (psz : Psz) (_d _r : AReg) (_k _c : SReg) (n : BitVec 32) : Perf := fun c q s =>
  let d : Addr := q.o0.setWidth 80
  let r : Addr := q.o1.setWidth 80
  let sc : Word := q.o3.setWidth 64
  let lw := if twLwen sc then some (twSpa sc) else none
  let x := fxAcc s c q true
  let segs : List Seg := [⟨0, n.toNat, twDev sc, q.o2.setWidth 64, r, none⟩]
  whole (getLwChecks s c x lw ++ [localBad s x d n.toNat, (twMoveBad sc, cOPFORMAT, d)]) s
    (endTransfer c q true
      (sendAll (pszBytes psz) segs (sendGet c q d n.toNat .get (getLwPlace c lw)) (n.toNat + 1) q.comm s))

/-- GET: its issue into the FX queue. -/
def execGet (y : Sync) (psz : Psz) (d r : AReg) (k e : SReg) (n : BitVec 32) (s : State) : Host.Outcome State Fault Refusal :=
  engine legal (fx (.get y psz d r k e n) (fun t => [capA t d, capA t r, capS t k, capS t e])) (runGet psz d r k e n) s

/-! ## RLD, RST, RATOM, RCAS (R434, R438) -/

/-- RLD on the FX engine. -/
def runRld (t : IntTy) (acq : Bool) (sc : RScope) (d : SReg) (_r : AReg) (_k _c : SReg) : Perf := fun c q s =>
  let r : Addr := q.o1.setWidth 80
  let tw : Word := q.o3.setWidth 64
  single c q [(twOneBad tw, cOPFORMAT, r)] false true t.w.bytes
    { ptype := pLDREQ, dst := (twDev tw).setWidth 16, token := q.o2.setWidth 64, addr := r
      opx := opxOf 0 t.w.bytes false (if acq then 1 else 0) (rscopeCode sc) false false }
    (.ld d t) none s

/-- RLD: its task is PARKED from its issue. -/
def execRld (y : Sync) (t : IntTy) (acq : Bool) (sc : RScope) (d : SReg) (r : AReg) (k e : SReg) (s : State) :
    Host.Outcome State Fault Refusal :=
  engine legal { fx (.rld y t acq sc d r k e) (fun x => [0, capA x r, capS x k, capS x e]) with parks := true }
    (runRld t acq sc d r k e) s

/-- RST on the FX engine. -/
def runRst (t : IntTy) (rel : Bool) (sc : RScope) (_v : SReg) (_r : AReg) (_k _c : SReg) : Perf := fun c q s =>
  let r : Addr := q.o1.setWidth 80
  let tw : Word := q.o3.setWidth 64
  single c q [(twOneBad tw, cOPFORMAT, r)] rel rel t.w.bytes
    { ptype := pSTREQ, dst := (twDev tw).setWidth 16, token := q.o2.setWidth 64, addr := r, len := BitVec.ofNat 16 t.w.bytes
      opx := opxOf 0 t.w.bytes false (if rel then 2 else 0) (rscopeCode sc) false false
      payload := lowBytes (q.o0.setWidth 64) t.w.bytes }
    .st none s

/-- RST: its issue into the FX queue. -/
def execRst (y : Sync) (t : IntTy) (rel : Bool) (sc : RScope) (v : SReg) (r : AReg) (k e : SReg) (s : State) :
    Host.Outcome State Fault Refusal :=
  engine legal (fx (.rst y t rel sc v r k e) (fun x => [capS x v, capA x r, capS x k, capS x e])) (runRst t rel sc v r k e) s

/-- Code, width, float, signedness and register type of RATOM's operation (R434). -/
def ratomCode : RatomOp → Nat × Nat × Bool × Bool × IntTy
  | .int op t =>
    let code := match op with | .add => 0 | .and => 1 | .or => 2 | .xor => 3 | .min => 4 | .max => 5 | .xchg => 6
    (code, t.w.bytes, false, t.signed && (code == 4 || code == 5), t)
  | .fadd .f32 => (8, 4, true, false, ⟨.w32, false⟩)
  | .fadd .f64 => (8, 8, true, false, ⟨.w64, false⟩)
  | .faddOrd .f32 => (9, 4, true, false, ⟨.w32, false⟩)
  | .faddOrd .f64 => (9, 8, true, false, ⟨.w64, false⟩)

/-- RATOM on the FX engine. -/
def runRatom (op : RatomOp) (o : Order) (sc : RScope) (noret : Bool) (v : SReg) (_r : AReg) (_k _c : SReg) : Perf := fun c q s =>
  let r : Addr := q.o1.setWidth 80
  let tw : Word := q.o3.setWidth 64
  let (code, w, float, signed, t) := ratomCode op
  let cidx := tw.extractLsb' 16 16
  let ccnt := tw.extractLsb' 32 16
  let bad := tw.extractLsb' 48 16 != 0 || tw.getLsbD 15 || (if code = 9 then !(cidx.ult ccnt) else cidx != 0 || ccnt != 0)
  single c q [(bad, cOPFORMAT, r)] (o == .rel || o == .ar) (!noret || o != .rlx) w
    { ptype := if code = 9 then pORDREQ else pATOMREQ, dst := (twDev tw).setWidth 16, token := q.o2.setWidth 64, addr := r
      len := BitVec.ofNat 16 w, cidx := cidx, ccnt := ccnt
      opx := opxOf code w float (orderCode o) (rscopeCode sc) noret signed
      payload := lowBytes (q.o0.setWidth 64) w }
    (.atom v t noret) none s

/-- RATOM: its issue into the FX queue. -/
def execRatom (y : Sync) (op : RatomOp) (o : Order) (sc : RScope) (noret : Bool) (v : SReg) (r : AReg) (k e : SReg) (s : State) :
    Host.Outcome State Fault Refusal :=
  engine legal (fx (.ratom y op o sc noret v r k e) (fun x => [capS x v, capA x r, capS x k, capS x e]))
    (runRatom op o sc noret v r k e) s

/-- RCAS on the FX engine: its token is s[C + 1] (R431). -/
def runRcas (t : IntTy) (o : Order) (sc : RScope) (d : SReg) (_r : AReg) (_n _c : SReg) : Perf := fun c q s =>
  let r : Addr := q.o1.setWidth 80
  let tw : Word := q.o3.setWidth 64
  single c q [(twOneBad tw, cOPFORMAT, r)] (o == .rel || o == .ar) true t.w.bytes
    { ptype := pCASREQ, dst := (twDev tw).setWidth 16, token := q.o3.extractLsb' 64 64, addr := r
      len := BitVec.ofNat 16 (2 * t.w.bytes)
      opx := opxOf 0 t.w.bytes false (orderCode o) (rscopeCode sc) false false
      payload := lowBytes (q.o0.setWidth 64) t.w.bytes ++ lowBytes (q.o2.setWidth 64) t.w.bytes }
    (.cas d t) none s

/-- RCAS: its issue into the FX queue. -/
def execRcas (y : Sync) (t : IntTy) (o : Order) (sc : RScope) (d : SReg) (r : AReg) (n e : SReg) (s : State) :
    Host.Outcome State Fault Refusal :=
  engine legal (fx (.rcas y t o sc d r n e) (fun x => [capS x d, capA x r, capS x n, capPair x e])) (runRcas t o sc d r n e) s

/-! ## FLUSH (R439) -/

/-- FLUSH on the FX engine. -/
def runFlush (sc : RScope) : Perf := fun c q s =>
  if s.flushed c q && (sc != .sys || s.hostWritten c q) then ⟨s, 0, 0, .done⟩ else ⟨s, 0, 0, .stall⟩

/-- FLUSH: its issue into the FX queue. -/
def execFlush (y : Sync) (sc : RScope) (s : State) : Host.Outcome State Fault Refusal :=
  engine legal (fx (.flush y sc) noCaps) (runFlush sc) s

/-! ## SLD, SST, SGET, SPUT (R441) -/

/-- A single-element sharded request. -/
def singleShard (c : Nat) (q : Entry) (t : IntTy) (i : BitVec 128) (h : BitVec 12) (rel resp : Bool) (p : Packet) (kind : ReqKind)
    (s : State) : PRes :=
  whole [shardCheck s c q h i 1 (some t.w.bytes)] s
    (resolveShard s c q h i 1 fun segs s =>
      match segs with
      | g :: _ => single c q [] rel resp t.w.bytes { p with dst := g.dev.setWidth 16, token := g.token, addr := g.addr } kind g.shard s
      | [] => ⟨s, 0, 0, .done⟩)

/-- SLD on the FX engine. -/
def runSld (t : IntTy) (acq : Bool) (sc : RScope) (d _i : SReg) (h : BitVec 12) : Perf := fun c q s =>
  singleShard c q t q.o1 h false true
    { ptype := pLDREQ, opx := opxOf 0 t.w.bytes false (if acq then 1 else 0) (rscopeCode sc) false false } (.ld d t) s

/-- SLD: its task is PARKED from its issue. -/
def execSld (y : Sync) (t : IntTy) (acq : Bool) (sc : RScope) (d i : SReg) (h : BitVec 12) (s : State) :
    Host.Outcome State Fault Refusal :=
  engine legal { fx (.sld y t acq sc d i h) (fun x => [0, capPair x i]) with parks := true } (runSld t acq sc d i h) s

/-- SST on the FX engine. -/
def runSst (t : IntTy) (rel : Bool) (sc : RScope) (_v _i : SReg) (h : BitVec 12) : Perf := fun c q s =>
  singleShard c q t q.o1 h rel rel
    { ptype := pSTREQ, len := BitVec.ofNat 16 t.w.bytes, payload := lowBytes (q.o0.setWidth 64) t.w.bytes
      opx := opxOf 0 t.w.bytes false (if rel then 2 else 0) (rscopeCode sc) false false } .st s

/-- SST: its issue into the FX queue. -/
def execSst (y : Sync) (t : IntTy) (rel : Bool) (sc : RScope) (v i : SReg) (h : BitVec 12) (s : State) :
    Host.Outcome State Fault Refusal :=
  engine legal (fx (.sst y t rel sc v i h) (fun x => [capS x v, capPair x i])) (runSst t rel sc v i h) s

/-- SGET on the FX engine. -/
def runSget (psz : Psz) (_d : AReg) (_i _n : SReg) (h : BitVec 12) (lw : Option AReg) : Perf := fun c q s =>
  let d : Addr := q.o0.setWidth 80
  let n := (q.o2.extractLsb' 0 32).toNat
  let w := lwOf lw q.o3
  let x := fxAcc s c q true
  let bytes := shardBytes s q h n
  whole (getLwChecks s c x w ++ [localBad s x d bytes, shardCheck s c q h q.o1 n none]) s
    (resolveShard s c q h q.o1 n fun segs s =>
      endTransfer c q true
        (sendAll (pszBytes psz) segs (sendGet c q d bytes .sget (getLwPlace c w)) (bytes + 1) q.comm s))

/-- SGET: its issue into the FX queue. -/
def execSget (y : Sync) (psz : Psz) (d : AReg) (i n : SReg) (h : BitVec 12) (lw : Option AReg) (s : State) :
    Host.Outcome State Fault Refusal :=
  engine legal (fx (.sget y psz d i n h lw) (fun x => [capA x d, capPair x i, capS x n, lwCap x lw])) (runSget psz d i n h lw) s

/-- The packets of SPUT's forms and the cut of their targets (R432, R441). -/
def sputForm (n : Word) : SputOp → Packet × Nat
  | .plain p => ({ ptype := pPUTREQ }, pszBytes p)
  | .fadd p => ({ ptype := pATOMREQ, opx := opxOf 8 4 true 0 2 true false }, pszBytes p)
  | .faddOrd =>
    ({ ptype := pORDREQ, opx := opxOf 9 4 true 0 2 true false, cidx := n.extractLsb' 32 16, ccnt := n.extractLsb' 48 16 }, 64)

/-- SPUT on the FX engine. -/
def runSput (op : SputOp) (_s : AReg) (_i _n : SReg) (h : BitVec 12) : Perf := fun c q s =>
  let a : Addr := q.o0.setWidth 80
  let sn : Word := q.o2.setWidth 64
  let n := (sn.extractLsb' 0 32).toNat
  let bytes := shardBytes s q h n
  let (p, cut) := sputForm sn op
  let (bad, width) := match op with
    | .plain _ => (sn.extractLsb' 32 32 != 0, none)
    | .fadd _ => (sn.extractLsb' 32 32 != 0, some 4)
    | .faddOrd => (!((sn.extractLsb' 32 16).ult (sn.extractLsb' 48 16)), some 4)
  whole [localBad s (fxAcc s c q false) a bytes, shardCheck s c q h q.o1 n width, (bad, cOPFORMAT, a)] s
    (resolveShard s c q h q.o1 n fun segs s =>
      endTransfer c q false (sendAll cut segs (sendBytes c q a bytes p .sput) (bytes + 1) q.comm s))

/-- SPUT: its issue into the FX queue. -/
def execSput (y : Sync) (op : SputOp) (s' : AReg) (i n : SReg) (h : BitVec 12) (s : State) : Host.Outcome State Fault Refusal :=
  engine legal (fx (.sput y op s' i n h) (fun x => [capA x s', capPair x i, capS x n])) (runSput op s' i n h) s

/-! ## SHFENCE, SHUPD (R148 to R150, R442) -/

/-- SHFENCE on the FX engine. -/
def runShfence : Perf := fun c q s =>
  let stale := s.outst.any fun o =>
    o.by c q.slot (s.task c q.slot).sweep &&
    (match o.shard with | some (h, g) => g != (s.handle h).gen | none => false)
  if stale then ⟨s, 0, 0, .stall⟩ else ⟨s, 0, 0, .done⟩

/-- SHFENCE: its issue into the FX queue. -/
def execShfence (y : Sync) (s : State) : Host.Outcome State Fault Refusal := engine legal (fx (.shfence y) noCaps) runShfence s

/-- SHUPD on the FX engine: the image checked, the wait of R149, then entry and GEN in one step. -/
def runShupd (d : SReg) (_a : AReg) (h : BitVec 12) : Perf := fun c q s =>
  let a : Addr := q.o1.setWidth 80
  let x := fxAcc s c q false
  whole [(a.toNat % 64 != 0, cALIGN, a), (spBad s x a 64, cSPACCESS, a)] s
    (fxRead s c q a 64 0 64 fun s l =>
      match s.firstPoisonAll l with
      | some i => ⟨s, 0, 0, .poison cPOISON (a + BitVec.ofNat 80 i)⟩
      | none =>
        let t : ShardEnt := leBits 512 (s.readAll l)
        if t.bad then ⟨s, 0, 0, .trap cSHARD 0 (shardAddr h 0x10000)⟩
        else
          let g := (s.handle h).gen + 1
          if s.carried h g then ⟨s, 0, 0, .stall⟩
          else
            let s := { s with shtab := Tab.set s.shtab h.toNat (t.extractLsb' 16 496 ++ g) }
            ⟨s.modTask c q.slot fun k => k.setS d (g.setWidth 64), 64, 64, .done⟩)

/-- SHUPD: its issue into the FX queue; privileged (R304). -/
def execShupd (y : Sync) (d : SReg) (a : AReg) (h : BitVec 12) (s : State) : Host.Outcome State Fault Refusal :=
  engine (fun t => !t.priv) (fx (.shupd y d a h) (fun x => [0, capA x a])) (runShupd d a h) s

/-! ## GRANT, REVOKE (R443, R444) -/

/-- A window takes a fresh grant key (R74). -/
def State.drawKey (s : State) (w : Nat) : State :=
  { s with nextKey := s.nextKey + 1 }.setWindow w
    { s.window w with key := Config.freeKey s.nextKey, keyep := (s.window w).keyep + 1 }

/-- The token that GRANT mints from a request word (R443). -/
def State.mint (s : State) (a : Word) : Word :=
  let exp : BitVec 13 := BitVec.ofNat 13 (s.ftime / 2 ^ 20) + a.extractLsb' 12 13
  let t : BitVec 40 := a.extractLsb' 25 15 ++ exp ++ a.extractLsb' 0 12
  s.tokenMac (tokenWin a) t ++ t

/-- GRANT's limits (R443). -/
def grantBad (s : State) (a : Word) : Bool :=
  let dur := (a.extractLsb' 12 13).toNat
  a.extractLsb' 40 24 != 0 || tokenWin a == 0 || dur == 0 || decide (4095 < dur) || decide (52 < (a.extractLsb' 6 6).toNat) ||
  !(s.window (tokenWin a)).valid

/-- GRANT on the FX engine. -/
def runGrant (d _a : SReg) : Perf := fun c q s =>
  let a : Word := q.o1.setWidth 64
  whole [(grantBad s a, cOPFORMAT, Config.freeEaddr s.freeCtr)] s
    ⟨s.modTask c q.slot fun t => t.setS d (s.mint a), 0, 0, .done⟩

/-- GRANT: its issue into the FX queue; privileged (R304). -/
def execGrant (y : Sync) (d a : SReg) (s : State) : Host.Outcome State Fault Refusal :=
  engine (fun t => !t.priv) (fx (.grant y d a) (fun x => [0, capS x a])) (runGrant d a) s

/-- REVOKE on the FX engine. -/
def runRevoke (_a : SReg) : Perf := fun _ q s =>
  let a : Word := q.o0.setWidth 64
  whole [(a.extractLsb' 12 52 != 0 || a == 0, cOPFORMAT, Config.freeEaddr s.freeCtr)] s ⟨s.drawKey a.toNat, 0, 0, .done⟩

/-- REVOKE: its issue into the FX queue; privileged (R304). -/
def execRevoke (y : Sync) (a : SReg) (s : State) : Host.Outcome State Fault Refusal :=
  engine (fun t => !t.priv) (fx (.revoke y a) (fun x => [capS x a])) (runRevoke a) s

end Sys2Proof.Machine
end

