-- ==== Sys2Proof/Machine/RowLine.lean ====
section
/-! DEFINITION. Class CX, row lines and bank streaming: RLOPEN to RLSTAT, STREAMROW, BANKCLOSE (R417 to R421). -/

namespace Sys2Proof.Machine

/-! ## RLOPEN (R103, R105, R106, R418) -/

/-- Another slot of the same task owns the latch of a row (R103). -/
def ownsGroup (s : State) (c n : Nat) (k : KReg) (dpa : Nat) : Bool :=
  match s.latchAt (latchIdx dpa) with
  | some l => l.core == c && l.slot == n && l.k != k
  | none => false

/-- The page of a row grants write permission (R418). -/
def grantsW (s : State) (x : Acc) (va : Addr) : Bool :=
  match (xlate s { x with w := true } va 1 false).2 with
  | .ok _ => true
  | .error _ => false

/-- A slot opens a row: its old row is released, and it joins the order of its latch, to be granted at once when it can be (R105, R106). -/
def State.openRow (s : State) (c n : Nat) (k : KReg) (addr : Addr) (dpa : Nat) (key : Option (BitVec 12)) (wr : Bool) : State :=
  let s := s.releaseRow c n k
  let s := s.setRow c n k { st := .opening, addr := addr, dpa := dpa, wr := wr, key := key }
  let s := { s with hbm := { s.hbm with waiters := s.hbm.waiters ++ [(latchIdx dpa, c, n, k)] } }
  s.grantLatch (latchIdx dpa)

/-- How an RLOPEN stands once its slot is in the order: performed when HELD. -/
def openEnd (c : Nat) (q : Entry) (k : KReg) (s : State) : PRes :=
  match (s.row c q.slot k).st with
  | .held => ⟨s.engWaitEnd c q.slot, 0, 0, .done⟩
  | _ => rowStall s c q true 1

/-- RLOPEN on the CX engine (R418). -/
def runRlopen (k : KReg) (_r : AReg) : Perf := fun c q s =>
  let a : Addr := q.o1.setWidth 80
  let row := a &&& ~~~(1023 : Addr)
  if q.spec = 1 then
    if (s.row c q.slot k).st = .opening then
      openEnd c q k (s.grantLatch (latchIdx (s.row c q.slot k).dpa))
    else openEnd c q k s
  else if vaRegion a ≠ .device then ⟨s, 0, 0, .trap cXLATE xFORM a⟩
  else
    engAccess s c q (rowAcc s c q) row 1 0 0 fun s l =>
      match l with
      | (.hbm dpa key, _) :: _ =>
        if overQuota s c q k || ownsGroup s c q.slot k dpa then ⟨s, 0, 0, .trap cROWQUOTA 0 0⟩
        else openEnd c q k (s.openRow c q.slot k row dpa key (grantsW s (rowAcc s c q) row))
      | _ => ⟨s, 0, 0, .trap cXLATE xFORM a⟩

/-- RLOPEN: its issue into the CX queue. -/
def execRlopen (y : Sync) (k : KReg) (r : AReg) (s : State) : Host.Outcome State Fault Refusal :=
  engine legal (cx (.rlopen y k r) fun t => [0, capA t r]) (runRlopen k r) s

/-! ## RLHOLD, RLREL, RLRD, RLWR, RLSTAT (R106, R418 to R420) -/

/-- RLHOLD on the CX engine: the row is written back and its lease restarts (R100, R106). -/
def runRlhold (k : KReg) : Perf := fun c q s =>
  if overQuota s c q k then ⟨s, 0, 0, .trap cROWQUOTA 0 0⟩
  else onHeld s c q k fun s r => ⟨(s.rowBack r.dpa).engWaitEnd c q.slot, 0, 0, .done⟩

/-- RLHOLD: its issue into the CX queue. -/
def execRlhold (y : Sync) (k : KReg) (s : State) : Host.Outcome State Fault Refusal :=
  engine legal (cx (.rlhold y k) noCaps) (runRlhold k) s

/-- RLREL on the CX engine (R106). -/
def runRlrel (k : KReg) : Perf := fun c q s =>
  if overQuota s c q k then ⟨s, 0, 0, .trap cROWQUOTA 0 0⟩
  else if (s.row c q.slot k).st = .held then
    onLatch s c (s.row c q.slot k).dpa (rowStall s c q false 0) fun s => ⟨s.releaseRow c q.slot k, 0, 0, .done⟩
  else ⟨s.releaseRow c q.slot k, 0, 0, .done⟩

/-- RLREL: its issue into the CX queue. -/
def execRlrel (y : Sync) (k : KReg) (s : State) : Host.Outcome State Fault Refusal :=
  engine legal (cx (.rlrel y k) noCaps) (runRlrel k) s

/-- RLRD on the CX engine: bytes of the latch to a scratchpad (R419). -/
def runRlrd (_d : AReg) (k : KReg) (_p : SReg) (lw : Option AReg) : Perf := fun c q s =>
  let d : Addr := q.o0.setWidth 80
  let p : Word := q.o2.setWidth 64
  let x := cxAcc s c q true
  let w := lwOf lw q.o3
  let n := spanCnt p
  let st := (s.row c q.slot k).st
  whole ([(vaRegion d != .scratch || spBad s x d n, cSPACCESS, d), (overQuota s c q k, cROWQUOTA, 0),
          (st == .empty || st == .lost, cROWLOST, BitVec.ofNat 80 k.val), (spanBad p, cOPFORMAT, d)] ++
         lwOptChecks s x w (destUnit s x d)) s <|
    onHeld s c q k fun s r =>
      if n = 0 then ⟨s.engWaitEnd c q.slot, 0, 0, .done⟩
      else
        engAccess s c q x d n 0 n fun s m =>
          let src : Pieces := [(.hbm (r.dpa + spanOff p) r.key, n)]
          let s := s.readSectors 4 c src
          let s := s.writeAllTag (s.readAll src) (s.poisonAt src) 0 m
          ⟨(countOpt s c q x w 0 n).engWaitEnd c q.slot, n, n, .done⟩

/-- RLRD: its issue into the CX queue. -/
def execRlrd (y : Sync) (d : AReg) (k : KReg) (p : SReg) (lw : Option AReg) (s : State) : Host.Outcome State Fault Refusal :=
  engine legal
    { cx (.rlrd y d k p lw) (fun t => [capA t d, 0, capS t p, lwCap t lw]) with
      lock := fun c t => ownLock c (t.areg d) (spanCnt (t.sreg p)) }
    (runRlrd d k p lw) s

/-- RLWR on the CX engine: bytes of a scratchpad into the latch (R419). -/
def runRlwr (k : KReg) (_s : AReg) (_p : SReg) : Perf := fun c q s =>
  let a : Addr := q.o1.setWidth 80
  let p : Word := q.o2.setWidth 64
  let x := cxAcc s c q false
  let n := spanCnt p
  let r := s.row c q.slot k
  let held := r.st == .held || r.st == .opening || r.st == .yieldedRfm || r.st == .yieldedTherm
  whole [(vaRegion a != .scratch || spBad s x a n, cSPACCESS, a),
         (held && !r.wr, cPROT, r.addr + BitVec.ofNat 80 (spanOff p)), (overQuota s c q k, cROWQUOTA, 0),
         (!held, cROWLOST, BitVec.ofNat 80 k.val), (spanBad p, cOPFORMAT, r.addr)] s <|
    onHeld s c q k fun s r =>
      if n = 0 then ⟨s.engWaitEnd c q.slot, 0, 0, .done⟩
      else
        engAccess s c q x a n 0 n fun s l =>
          let s := (s.mergeRead [(.hbm (r.dpa + spanOff p) r.key, n)]).dropLines c [(.hbm (r.dpa + spanOff p) r.key, n)]
          ⟨(s.writeTag (.hbm (r.dpa + spanOff p) r.key) (s.readAll l) (s.poisonAt l) 0).engWaitEnd c q.slot, n, n, .done⟩

/-- RLWR: its issue into the CX queue. -/
def execRlwr (y : Sync) (k : KReg) (s' : AReg) (p : SReg) (s : State) : Host.Outcome State Fault Refusal :=
  engine legal (cx (.rlwr y k s' p) fun t => [0, capA t s', capS t p]) (runRlwr k s' p) s

/-- The code of a slot's state as RLSTAT reports it (R106). -/
def RowSt.code : RowSt → Nat
  | .empty => 0 | .opening => 1 | .held => 2 | .yieldedRfm | .yieldedTherm => 3 | .lost => 4 | .saved => 5

/-- RLSTAT on the CX engine (R420). -/
def runRlstat (d : SReg) (k : KReg) : Perf := fun c q s =>
  if overQuota s c q k then ⟨s, 0, 0, .trap cROWQUOTA 0 0⟩
  else
    let r := s.row c q.slot k
    ⟨s.modTask c q.slot fun t =>
        t.setS d (BitVec.ofNat 64 (t.acts.toNat * 2 ^ 32 + (r.wr && r.st == .held).toNat * 8 + r.st.code)),
      0, 0, .done⟩

/-- RLSTAT: its issue into the CX queue. -/
def execRlstat (y : Sync) (d : SReg) (k : KReg) (s : State) : Host.Outcome State Fault Refusal :=
  engine legal (cx (.rlstat y d k) noCaps) (runRlstat d k) s

/-! ## STREAMROW and BANKCLOSE (R113, R114, R421) -/

/-- A unit that is to reserve a bank finds it precharged: each STREAMROW counts its activate but one of a row that the unit's reservation
has left open (R113, R448). (DESIGN CHOICE, unsafe, log 27) -/
def State.streamBank (s : State) (c dpa : Nat) : State := if s.reserved c (bankOf dpa) then s else s.prechargeBank (bankOf dpa)

/-- What holds a STREAMROW of a row: another unit's reservation, until its BANKCLOSE, or a bank that cannot be accessed (R113). -/
def streamBlocked (s : State) (c dpa : Nat) : Bool :=
  s.reservedByOther c (bankOf dpa) || ((s.streamBank c dpa).useRow c dpa).isNone

/-- The reservation of a row's bank stands and its row is open; a row that a latch holds is read there (R113). -/
def State.streamOpen (s : State) (c n dpa : Nat) : State :=
  let b := bankOf dpa
  let s := ((s.streamBank c dpa).useRow c dpa).getD s
  if s.reserved c b then s else s.modCore c fun k => { k with resv := k.resv ++ [(b, n)] }

/-- STREAMROW on the CX engine: a row copied into the unit's scratchpad (R421). -/
def runStreamrow (_d _r : AReg) (lw : Option AReg) : Perf := fun c q s =>
  let d : Addr := q.o0.setWidth 80
  let a : Addr := q.o1.setWidth 80
  let x := cxAcc s c q true
  let w := lwOf lw q.o3
  if (firstTrap ([(a.toNat % 1024 != 0, cALIGN, a), (d.toNat % 16 != 0, cALIGN, d),
      (vaRegion d != .scratch || spBad s x d 1024 || destUnit s x d != some c, cSPACCESS, d)] ++
      lwOptChecks s x w (some c))).isNone ∧ vaRegion a ≠ .device then ⟨s, 0, 0, .trap cXLATE xFORM a⟩
  else
    whole ([(a.toNat % 1024 != 0, cALIGN, a), (d.toNat % 16 != 0, cALIGN, d),
            (vaRegion d != .scratch || spBad s x d 1024 || destUnit s x d != some c, cSPACCESS, d)] ++ lwOptChecks s x w (some c)) s <|
      engAccess s c q (rowAcc s c q) a 1024 0 1024 fun s l =>
        match l with
        | (.hbm dpa _, _) :: _ =>
          if !(s.reserved c (bankOf dpa)) && decide (8 ≤ (s.core c).resv.length) then ⟨s, 0, 0, .trap cROWQUOTA 0 0⟩
          else if streamBlocked s c dpa then ⟨s, 0, 0, .stall⟩
          else
            engAccess (s.streamOpen c q.slot dpa) c q x d 1024 0 1024 fun s m =>
              let s := s.readSectors 4 c l
              let s := s.writeAllTag (s.readAll l) (s.poisonAt l) 0 m
              ⟨countOpt s c q x w 0 1024, 1024, 1024, .done⟩
        | _ => ⟨s, 0, 0, .trap cXLATE xFORM a⟩

/-- STREAMROW: its issue into the CX queue. -/
def execStreamrow (y : Sync) (d r : AReg) (lw : Option AReg) (s : State) : Host.Outcome State Fault Refusal :=
  engine legal
    { cx (.streamrow y d r lw) (fun t => [capA t d, capA t r, 0, lwCap t lw]) with lock := fun c t => ownLock c (t.areg d) 1024 }
    (runStreamrow d r lw) s

/-- BANKCLOSE on the CX engine: the unit's reservation of a row's bank ends (R114, R421). -/
def runBankclose (_r : AReg) : Perf := fun c q s =>
  let a : Addr := q.o0.setWidth 80
  if vaRegion a ≠ .device then ⟨s, 0, 0, .trap cXLATE xFORM a⟩
  else
    engAccess s c q (rowAcc s c q) a 1 0 0 fun s l =>
      match l with
      | (.hbm dpa _, _) :: _ => ⟨if s.reserved c (bankOf dpa) then s.closeBank c (bankOf dpa) else s, 0, 0, .done⟩
      | _ => ⟨s, 0, 0, .trap cXLATE xFORM a⟩

/-- BANKCLOSE: its issue into the CX queue. -/
def execBankclose (y : Sync) (r : AReg) (s : State) : Host.Outcome State Fault Refusal :=
  engine legal (cx (.bankclose y r) fun t => [capA t r]) (runBankclose r) s

end Sys2Proof.Machine
end

