-- ==== Sys2Proof/Machine/Preempt.lean ====
section
/-! DEFINITION. Pre-emption: the pre-emption area, the start of a pre-emption, writing the image of a unit, and restoring it (R123, R189 to R197, R200). -/

namespace Sys2Proof.Machine

/-! ## The pre-emption area (R193, R194) -/

/-- The area's first byte, the reserve for retirement, and the end. -/
def areaBase : Nat := 0xBF1B800000
def areaReserve : Nat := 0xBFF6000000
def areaEnd : Nat := 0xC000000000

/-- A size rounded up to 64 KiB. -/
def up64k (n : Nat) : Nat := (n + 0xFFFF) / 0x10000 * 0x10000

/-- LIVE chunks of a mask. -/
def liveChunks (live : BitVec 128) : List Nat := (List.range 112).filter fun k => live.getLsbD k

/-- Offset T of the first task section (R194). -/
def taskSections (m : Nat) : Nat := 0x400 + 0x88000 * m

/-- SIZE of an image with `m` members, `n` tasks and `q` queue records (R194). -/
def imageSize (m n q : Nat) (live : BitVec 128) : Nat :=
  let k := (liveChunks live).length
  up64k (taskSections m + 0x5000 * n + 96 * q + 64 * k) + 0x40000 * k

/-- Ranges of the area that are taken. -/
def State.areaUsed (s : State) : List (Nat × Nat) :=
  s.images.map (fun i => (i.dpa, i.size)) ++ s.cores.filterMap fun e => e.2.imgAt

/-- A range meets none of some ranges. -/
def rangeFree (used : List (Nat × Nat)) (lo n : Nat) : Bool := used.all fun r => decide (lo + n ≤ r.1) || decide (r.1 + r.2 ≤ lo)

/-- The lowest free range of a size below a bound (R193; DESIGN CHOICE, unsafe, log 23). -/
def allocRange (used : List (Nat × Nat)) (top n : Nat) : Option Nat :=
  let starts := areaBase :: used.map fun r => up64k (r.1 + r.2)
  (starts.filter fun lo => decide (areaBase ≤ lo) && decide (lo + n ≤ top) && rangeFree used lo n).min?

/-! ## The start of a pre-emption (R190) -/

/-- Where a pre-emption's image may lie: the reserve serves retirement only (R193). -/
def areaTop (cause : BitVec 8) : Nat := if cause = 1 then areaEnd else areaReserve

/-- Tasks of a unit. -/
def State.slotsIn (s : State) (c : Nat) : List Nat := (List.range 8).filter fun n => s.occupied c n

/-- A unit whose tasks can be pre-empted. -/
def Core.preemptible (k : Core) : Bool := k.tenant.isSome && k.busy && k.freeze.isNone && !k.clearing

/-- The size of the image that a unit's state would take, with a number of queue records. -/
def State.imageNeed (s : State) (c q : Nat) : Nat :=
  let k := s.core c
  let live := match k.tenant.bind s.sweep with | some w => w.rec'.live | none => 0
  imageSize k.mode.size (s.slotsIn c).length q live

/-- A tenant with no task on its unit leaves it: an image that the unit was being restored from waits again (R162, R163). -/
def State.vacate (s : State) (c : Nat) : State :=
  { s with images := s.images.map fun (i : Image) => if i.target = some c then { i with target := none } else i }.endTenancy c

/-- Issue stops on a unit, its image's range is taken, and the threads of its sweep are held (R123, R190, R193); none when no range is free. -/
def State.startPreempt (s : State) (c : Nat) (cause : BitVec 8) (q : Nat) : Option State :=
  let k := s.core c
  match k.tenant with
  | none => some s
  | some id =>
    if k.preemptible then
      (allocRange s.areaUsed (areaTop cause) (s.imageNeed c q)).map fun d =>
        (s.modCore c fun k => { k with freeze := some cause, imgAt := some (d, s.imageNeed c q) }).holdThreads fun t => t.sweep == id
    else if k.busy || k.clearing then some s
    else some (s.vacate c)

/-- Pre-empting several units, all or none. -/
def preemptUnits (cause : BitVec 8) (most : Option Nat) : List Nat → State → Option State
  | [], s => some s
  | c :: cs, s =>
    (s.startPreempt c cause (most.getD (s.core c).queue.length)).bind fun s => preemptUnits cause most cs s

/-- Units that hold tasks of a sweep. -/
def State.unitsHolding (s : State) (id : BitVec 32) : List Nat :=
  (s.cores.filter fun e => e.2.tenant == some id && e.2.busy && !e.2.clearing).map fun e => e.1

/-! ## Writing the image (R190, R194 to R196, R200) -/

/-- A row-line slot as the image records it (R200). -/
def RowSlot.saved (r : RowSlot) (drop : Bool) : RowSlot :=
  match r.st with
  | .held | .yieldedRfm | .yieldedTherm => { r with st := if drop then .lost else .saved }
  | .opening | .empty => {}
  | .lost | .saved => r

/-- A slot's row is written back, its latch freed, or its RLOPEN withdrawn; the slot is as the image records it (R106, R200). -/
def State.saveRow (s : State) (c n : Nat) (drop : Bool) (k : KReg) : State :=
  let r := s.row c n k
  (s.releaseRow c n k).setRow c n k (r.saved drop)

/-- The rows of a task. -/
def State.saveRows (s : State) (c n : Nat) (drop : Bool) : State :=
  (List.finRange 16).foldl (fun s k => s.saveRow c n drop k) s

/-- A task as the image holds it: the wait count is frozen (R189, R195). -/
def Task.saved (t : Task) (now : Nat) : Task :=
  { t with
    st := if t.st = .issuing then .ready else t.st
    wait := if t.st = .waiting ∨ t.st = .parked then t.wait else .none
    waitAcc := t.waitCount now, waitFrom := none }

/-- A queue entry as the image holds it: one that was in flight goes on from its position; one that has started has met its wait and copied
its sets (R190, R196, R393). -/
def Entry.saved (q : Entry) : Entry :=
  { q with wmet := q.wmet || q.started || q.mxCopied, started := false, spec := if q.done then q.spec else q.comm }

/-- Bytes, tags or sectors of a unit by number, from its members' lists with `per` numbers each, when their chunk is LIVE. -/
def gather {α : Type} (s : State) (c m per chunk : Nat) (live : BitVec 128) (f : Core → List (Nat × α)) : List (Nat × α) :=
  (List.range m).flatMap fun i =>
    ((f (s.core (c + i))).map fun e => (i * per + e.1, e.2)).filter fun e => live.getLsbD (e.1 / chunk)

/-- Words of a unit from its members' memories, in canonical form. -/
def gatherWords {w : Nat} (s : State) (c m per chunk : Nat) (live : BitVec 128) (f : Core → Sparse w) : Sparse w :=
  (gather s c m per chunk live f).foldl (fun x e => Sparse.set x e.1 e.2) []

/-- A place of a unit becomes one of its image. -/
def Place.toImage (c : Nat) (id : BitVec 32) (key : Nat) : Place → Place
  | .spm u o => if u = c then .img id key o else .spm u o
  | p => p

/-- A place of an image becomes one of the unit that holds the tasks again. -/
def Place.ofImage (c : Nat) (id : BitVec 32) (key : Nat) : Place → Place
  | .img w k o => if w = id ∧ k = key then .spm c o else .img w k o
  | p => p

/-- Requests, their records and the rounds of the ordered window follow a unit that moves (R191). -/
def State.followUnit (s : State) (id : BitVec 32) (from' to' : Nat) (f : Place → Place) : State :=
  let g := fun (l : Pieces) => l.map fun e => (f e.1, e.2)
  { s with
    outst := s.outst.map fun o =>
      { o with core := if o.core = from' ∧ o.sweep = id then to' else o.core, dst := g o.dst, lw := o.lw.map f }
    xfers := s.xfers.map fun x =>
      { x with core := if x.core = from' ∧ x.sweep = id then to' else x.core, dst := x.dst.map fun e => (e.1, g e.2) }
    ords := s.ords.map fun r => { r with line := f r.line, held := r.held.map fun h => { h with places := g h.places } } }

/-- A faulter of a unit that is pre-empted keeps its place in the record as one of the image (R141). -/
def Faulter.toImage (c : Nat) (id : BitVec 32) (key : Nat) : Faulter → Faulter
  | .task d n => if d = c then .saved id key n none else .task d n
  | .fetch d n => if d = c then .saved id key n none else .fetch d n
  | .entry d n e => if d = c then .saved id key n (some e) else .entry d n e
  | f => f

/-- A faulter of an image is one of the unit that holds its task again (R141). -/
def Faulter.ofImage (c : Nat) (id : BitVec 32) (key : Nat) : Faulter → Faulter
  | .saved w k n none => if w = id ∧ k = key then .task c n else .saved w k n none
  | .saved w k n (some e) => if w = id ∧ k = key then .entry c n e else .saved w k n (some e)
  | f => f

/-- Changing every faulter. -/
def State.mapFaulters (s : State) (f : Faulter → Faulter) : State :=
  { s with faults := s.faults.map fun (p : PageFault) => { p with who := p.who.map fun e => (f e.1, e.2) } }

/-- A command stands where a pre-emption finds it: frozen, held by a page fault or an OPENING row line, or a copy at the end of a chunk
(R190). -/
def State.stands (s : State) (c : Nat) (q : Entry) : Bool :=
  let opening := match Instr.rowSlot q.instr with
    | some k => decide ((s.row c q.slot k).st = RowSt.opening)
    | none => false
  q.frozen || q.pageHeld.isSome || opening || (q.eng == .cx && decide (0 < q.comm) && q.comm % chunkBytes == 0)

/-- A command in flight that a pre-emption lets finish before the image is written (R190): FX stops where it is; a command that another
unit's pre-emption, a copy that cannot go on, or an earlier command that stands holds stops at its position. (DEDUCED, unsafe, log 46) -/
def State.unfinished (s : State) (c : Nat) (q : Entry) : Bool :=
  let idle := fun (x : Entry) => !x.started || x.frozen || x.pageHeld.isSome
  q.started && !q.done && q.eng != .fx && q.redir.isEmpty && !(s.stands c q) &&
  !((before q (s.core c).queue).any fun x => (x.lock.isSome && idle x) || (q.follows x && s.stands c x))

/-- Writing the image of a unit whose issue has stopped; the unit then begins to clear (R190). -/
def State.writeImage (s : State) (c : Nat) : State :=
  let k := s.core c
  match k.freeze, k.tenant, k.imgAt with
  | some cause, some id, some (dpa, _) =>
    match s.sweep id with
    | none => s
    | some w =>
      let drop := w.rec'.drop
      let slots := s.slotsIn c
      let now := s.now c
      let s := slots.foldl (fun s n => (s.saveRows c n drop).closeBanks c n) s
      let key := firstFree (s.images.map fun i => i.key) s.images.length 288
      let live := w.rec'.live
      let m := k.mode.size
      let moved := w.renames.find? fun r => r.2 == c
      let img : Image :=
        { sweep := id, key := key, mode := k.mode, asid := w.asid, unit := c, origin := (moved.map fun r => r.1).getD c, target := none,
          ftime := s.ftime, dpa := dpa, size := imageSize m slots.length k.queue.length live, drop := drop, live := live
          tasks := slots.map fun n => (n, (s.task c n).saved now)
          queue := k.queue.map Entry.saved
          sems := k.sems, latch := k.latch, latchFmt := k.latchFmt, latchFill := k.latchFill, acc := k.acc, ags := k.ags
          mxmode := k.mxmode, isat := k.isat
          spm := gatherWords s c m Config.spBytes 0x40000 live fun k => k.spm
          tags := gatherWords s c m (Config.spBytes / 4096) 64 live fun k => k.tags
          spPoison := (gather s c m (Config.spBytes / 32) 8192 live fun k => k.spPoison.map fun a => (a, ())).map fun e => e.1
          poisoned := false }
      let s := { s with images := s.images ++ [img] }
      let s := s.followUnit id c key (Place.toImage c id key)
      let s := s.modSweep id fun w => { w with renames := w.renames.filter fun r => r.2 != c }
      let s := s.mapFaulters (Faulter.toImage c id key)
      let s := s.modCore c fun k => { k with
        queue := [], resv := [], freeze := none, imgAt := none, clearing := true
        slots := k.slots.map fun (t : Nat × Task) => (t.1, { t.2 with st := .idle, wait := .none, waitFrom := none, regions := [] }) }
      let s := s.strandEvent 0x07 c
        (toBytes id.toNat 4 ++ [BitVec.ofNat 8 slots.length, cause, 0, 0] ++ toBytes dpa 8)
      s.retryIngress
  | _, _, _ => s

/-! ## Restoring (R160, R189, R197, R200) -/

/-- The mode of a unit, and its members' leader (R28). -/
def State.formUnit (s : State) (u : Nat) (g : Gang) : State :=
  (List.range g.size).foldl
    (fun s i => s.modCore (u + i) fun k => { k with mode := if i = 0 then g else k.mode, leader := if g = .single then none else some u }) s

/-- A part of an image's list that belongs to one member. -/
def scatter {α : Type} (i per chunk : Nat) (live : BitVec 128) (l : List (Nat × α)) : List (Nat × α) :=
  (l.filter fun e => decide (i * per ≤ e.1) && decide (e.1 < (i + 1) * per) && live.getLsbD (e.1 / chunk)).map fun e => (e.1 - i * per, e.2)

/-- A task that resumes is in the state it was pre-empted in, its wait's count going on (R166, R189, R197). (DEDUCED, unsafe, log 46) -/
def Task.resumed (t : Task) (now : Nat) : Task :=
  let t := { t with starve := 0, inherited := 3, yielded := false }
  match t.st with
  | .waiting | .parked => { t with waitFrom := some now }
  | _ => { t with st := .ready, wait := .none }

/-- A task whose access was refused while it was pre-empted takes its trap (R141, R191). -/
def State.takeRefusal (s : State) (c n : Nat) : State :=
  match (s.task c n).wait with
  | .refused va => s.issueTrap c n cXLATE xREFUSED va
  | _ => s

/-- A pre-emption's accesses that wait for a sweep's unit, or have come to one that is pre-empted in its turn, reach the unit that holds its
tasks again (R191). -/
def Redir.onUnit (from' to' : Nat) (id : BitVec 32) (r : Redir) : Redir :=
  if r.restored.getD r.unit = from' ∧ r.sweep = id then { r with restored := some to' } else r

/-- Accesses held by a pre-emption follow its image to a unit. -/
def State.restoreRedirs (s : State) (from' to' : Nat) (id : BitVec 32) : State :=
  let f := fun (q : Entry) => { q with redir := q.redir.map (Redir.onUnit from' to' id) }
  { s with
    cores := s.cores.map fun (e : Nat × Core) => (e.1, { e.2 with queue := e.2.queue.map f })
    images := s.images.map fun (i : Image) => { i with queue := i.queue.map f }
    ingress := s.ingress.map fun h => { h with redir := h.redir.map (Redir.onUnit from' to' id) } }

/-- A SAVED row is opened again; one whose address no longer translates is LOST (R200). -/
def State.reopenRow (s : State) (c n : Nat) (k : KReg) : State :=
  let r := s.row c n k
  if r.st = .saved then
    let x := engAcc c .cx (s.task c n).asid false true false
    match xlate s x r.addr 1 with
    | (s, .ok (.hbm dpa key)) => s.openRow c n k r.addr (dpa / 1024 * 1024) key (grantsW s x r.addr)
    | (s, _) => s.setRow c n k { r with st := .lost }
  else s

/-- The rows of a task. -/
def State.reopenRows (s : State) (c n : Nat) : State := (List.finRange 16).foldl (fun s k => s.reopenRow c n k) s

/-- A set with every bit that names a unit's old core naming its new one (R123). -/
def renameSet (rs : List (Nat × Nat)) (b : BitVec 288) : BitVec 288 :=
  let kept := rs.foldl (fun b r => b &&& ~~~((1 : BitVec 288) <<< r.1)) b
  rs.foldl (fun x r => if b.getLsbD r.1 then x ||| ((1 : BitVec 288) <<< r.2) else x) kept

/-- A sweep no part of which is pre-empted: its set bits are renamed and its threads go on (R123). -/
def State.resumeSweepThreads (s : State) (id : BitVec 32) : State :=
  if s.images.any (fun i => i.sweep == id) || s.cores.any (fun e => e.2.tenant == some id && e.2.freeze.isSome) then s
  else
    match s.sweep id with
    | none => s
    | some w =>
      let f := renameSet w.renames
      let s := s.mapThreads fun t => if t.sweep = id then { t with units := t.units.map fun u => { u with set := f u.set } } else t
      let s := { s with flood := { s.flood with
        sets := s.flood.sets.map fun (e : Nat × McSet) => (e.1, if e.2.sweep = some id then { e.2 with bits := f e.2.bits } else e.2) } }
      let s := s.modSweep id fun w => { w with renames := [] }
      s.resumeThreads fun t => t.sweep == id && !(s.dbg.halt && s.dbg.asid == t.asid)

/-- Restoring an image on its unit (R190, R197). -/
def State.restoreImage (s : State) (i : Image) (u : Nat) : State :=
  let s := { s with images := s.images.filter fun j => !(j.sweep == i.sweep && j.key == i.key) }
  if i.poisoned then s.endSweep i.sweep 1 fPOISON
  else
    let s := (s.formUnit u i.mode).followUnit i.sweep i.key u (Place.ofImage u i.sweep i.key)
    let s := (s.restoreRedirs i.unit u i.sweep).mapFaulters (Faulter.ofImage u i.sweep i.key)
    let s := (List.range i.mode.size).foldl (fun s m => s.modCore (u + m) fun k => { k with
      spm := scatter m Config.spBytes 0x40000 i.live i.spm
      tags := scatter m (Config.spBytes / 4096) 64 i.live i.tags
      spPoison := (scatter m (Config.spBytes / 32) 8192 i.live (i.spPoison.map fun a => (a, ()))).map fun e => e.1 }) s
    let now := s.now u
    let s := s.modCore u fun k => { k with
      tenant := some i.sweep, sems := i.sems, latch := i.latch, latchFmt := i.latchFmt, latchFill := i.latchFill, acc := i.acc
      ags := i.ags, mxmode := i.mxmode, isat := i.isat
      queue := i.queue, dcache := [], lwDev := []
      slots := i.tasks.foldl (fun l t => Tab.set l t.1 (t.2.resumed now)) k.slots }
    let s := s.modSweep i.sweep fun w => { w with renames := w.renames ++ [(i.origin, u)] }
    let s := i.tasks.foldl (fun s t => s.reopenRows u t.1) s
    let s := i.tasks.foldl (fun s t => retire u t.1 .fx (s.core u).queue.length s) s
    let s := i.tasks.foldl (fun s t => s.takeRefusal u t.1) s
    (s.resumeSweepThreads i.sweep).retryIngress

end Sys2Proof.Machine
end

