-- ==== Sys2Proof/Machine/ImageBytes.lean ====
section
/-! DEFINITION. Context images and export bundles as bytes: written out and read back (R194 to R196, R199, R200, R335, R385). -/

namespace Sys2Proof.Machine

/-- `n` zero bytes. -/
def zeros (n : Nat) : List Byte := List.replicate n 0

/-! ## Task sections (R195) -/

/-- The holds that the wait-in-force record or the state WAITING tells (R335). -/
def Wait.recorded : Wait → Bool
  | .sync .. | .sem .. | .landing .. | .mwait .. | .barrier .. | .join _ | .fence | .selfRefresh | .crclose _ | .texit | .halt |
    .word _ => true
  | _ => false

/-- The park of a fetch: its task has not reached the SYNC wait of the instruction (R141). -/
def Wait.fetchPark : Wait → Bool
  | .page _ _ fetch => fetch
  | _ => false

/-- The state byte: 1 READY, 2 WAITING, 3 PARKED. A task past the met SYNC wait of the instruction at PC is WAITING or PARKED, so that it does
not test that wait again (R195, R335; DEDUCED, unsafe, log 46). -/
def Task.stateByte (t : Task) : Byte :=
  if t.st = .parked ∧ !t.wait.fetchPark then 3
  else if (t.st = .waiting ∧ t.wait.recorded) ∨ t.took.isSome ∨ t.pastSync then 2
  else 1

/-- The wait in force: kind and object (R335). -/
def Wait.bytes : Wait → List Byte
  | .sync n cnt => [1, n] ++ toBytes cnt 2 ++ [0]
  | .sem n cnt => [1, n] ++ toBytes (Nat.min cnt 65535) 2 ++ [1]
  | .landing a g => [2] ++ toBytes a.toNat 10 ++ toBytes g.toNat 2
  | .mwait a _ _ _ | .word (some a) => [3] ++ toBytes a.toNat 10
  | .barrier b ph => [4, BitVec.ofNat 8 b.val, if ph then 1 else 0]
  | .ecall _ _ svc _ => [5] ++ toBytes svc.toNat 2
  | .remote _ | .page _ _ false | .refused _ => [5]
  | _ => [0]

/-- A pending-trap record (R192). -/
def pendingBytes : Option Pending → List Byte
  | none => zeros 32
  | some p => [p.code, p.sub, 0, 0, 0, 0] ++ toBytes p.addr.toNat 10 ++ toBytes p.ecp 8 ++ toBytes p.esp 8

/-- A row-line slot record (R200). -/
def RowSlot.bytes (r : RowSlot) : List Byte :=
  match r.st with
  | .lost => [4, 0, 0, 0, 0, 0] ++ toBytes r.addr.toNat 10
  | .saved => [5, 0, 0, 0, 0, 0] ++ toBytes r.addr.toNat 10
  | _ => zeros 16

/-- A hardware-loop record. -/
def Loop.bytes (l : Loop) : List Byte := toBytes l.cnt.toNat 8 ++ toBytes l.start.toNat 16 ++ toBytes l.len.toNat 2 ++ zeros 6

/-- A containment region record. -/
def Region.bytes (r : Region) : List Byte :=
  toBytes r.handler.toNat 10 ++ toBytes r.id.toNat 2 ++ toBytes r.mark.toNat 3 ++ toBytes (r.inh.toNat + 2 * r.depth) 1

/-- The 0x5000 bytes of a task section. -/
def Task.section (t : Task) : List Byte :=
  let w := fun (x : BitVec 64) => toBytes x.toNat 8
  let a := fun (x : Addr) => toBytes x.toNat 16
  let preds := (List.range 8).foldl (fun n i => n + (if i = 7 ∨ t.p.toArray.getD i false then 2 ^ i else 0)) 0
  [t.stateByte, t.cls.setWidth 8] ++ toBytes (t.inh.toNat + 2 * t.priv.toNat) 1 ++ toBytes t.regions.length 1 ++
  toBytes t.depth 1 ++ zeros 3 ++ toBytes t.waitAcc 8 ++ a t.pc ++ w t.esw ++ a t.epc ++ w t.ecause ++ a t.eaddr ++ w t.ecp ++
  w t.esp ++ a t.hbase ++ w t.waitlimit ++ toBytes t.isn.toNat 4 ++ zeros 36 ++
  toBytes preds 2 ++ toBytes t.width 2 ++ toBytes t.acts.toNat 4 ++ zeros 24 ++
  t.loops.toList.flatMap Loop.bytes ++ padTo 64 (t.regions.flatMap Region.bytes) ++
  t.m.toList.flatMap (fun m => toBytes m.toNat 16) ++ t.s.toList.flatMap (fun s => toBytes s.toNat 8) ++
  t.a.toList.flatMap a ++ t.rows.toList.flatMap RowSlot.bytes ++ padTo 64 t.wait.bytes ++
  Eng.all.flatMap (fun e => pendingBytes (t.pend e)) ++ zeros 2080 ++
  t.v.toList.flatMap fun v => toBytes v.toNat 512

/-! ## Queue records (R196) -/

/-- Queue records run engine by engine. -/
def byEngine (q : List Entry) : List Entry := Eng.all.flatMap fun e => q.filter fun x => x.eng == e

/-- The committed position that a record holds: FX commands by their acknowledged bytes (R182, R440). -/
def State.committed (s : State) (i : Image) (q : Entry) : Nat :=
  match s.xfers.find? fun x => q.eng == .fx && x.core == i.key && x.slot == q.slot && x.sweep == i.sweep && x.isn == q.isn with
  | some x => x.acked
  | none => q.comm

/-- Index of a slot's section. -/
def Image.sectionOf (i : Image) (slot : Nat) : Nat := (i.tasks.map fun t => t.1).idxOf slot

/-- The 96 bytes of a queue record. -/
def queueBytes (s : State) (i : Image) (q : Entry) : List Byte :=
  bytesOfWord ((encode q.instr).getD 0) ++ toBytes (i.sectionOf q.slot) 1 ++ toBytes q.eng.code 1 ++
  toBytes (q.frozen.toNat + 2 * q.wmet.toNat) 1 ++ toBytes q.rdepth 1 ++ toBytes q.isn.toNat 3 ++ zeros 5 ++
  toBytes (s.committed i q) 8 ++ toBytes q.o0.toNat 16 ++ toBytes q.o1.toNat 16 ++ toBytes q.o2.toNat 16 ++ toBytes q.o3.toNat 16

/-! ## Images (R194) -/

/-- MODE (R194). -/
def Gang.code : Gang → Nat
  | .single => 0 | .gang2 => 1 | .gang4 => 2

/-- A mask of 256 attributes. -/
def semMask (sems : Tab Sem) (f : Sem → Bool) : Nat :=
  (List.range 256).foldl (fun n i => n + (if f (Tab.get {} sems i) then 2 ^ i else 0)) 0

/-- The matrix state: format, ISAT, MXMODE and the sets (R385). -/
def Image.mxBytes (i : Image) : List Byte :=
  [i.latchFmt] ++ toBytes i.isat.toNat 1 ++ toBytes i.mxmode.toNat 8 ++
  toBytes ((List.range 4).foldl (fun n g => n + (Tab.get (0 : BitVec 44) i.ags g).toNat * 2 ^ (44 * g)) 0) 22

/-- Rows and columns of an image's arrays. -/
def Image.cells (i : Image) : List (Nat × Nat) :=
  (List.range 128).flatMap fun r => (List.range (128 * i.mode.size)).map fun c => (r, c)

/-- The bytes of an image before its live chunks, to a 64 KiB boundary. -/
def Image.header (s : State) (i : Image) : List Byte :=
  let q := byEngine i.queue
  let live := liveChunks i.live
  let bs := [1] ++ toBytes i.mode.code 1 ++ toBytes i.tasks.length 1 ++ toBytes i.drop.toNat 1 ++ toBytes i.sweep.toNat 4 ++
    toBytes i.asid.toNat 2 ++ toBytes i.unit 2 ++ toBytes q.length 4 ++ toBytes i.live.toNat 16 ++ toBytes i.size 8 ++
    toBytes i.ftime 8 ++ zeros 208 ++
    (List.range 256).flatMap (fun n => toBytes (Tab.get ({} : Sem) i.sems n).count.toNat 2) ++
    toBytes (semMask i.sems fun x => x.ext) 32 ++ i.mxBytes ++ toBytes (semMask i.sems fun x => x.ovf) 32 ++ zeros 160 ++
    i.cells.flatMap (fun e => toBytes (Sparse.get i.latch (e.1 * 512 + e.2) ^^^ i.latchFill).toNat 2) ++
    (List.range 8).flatMap (fun n => i.cells.flatMap fun e => toBytes (Sparse.get i.acc (n * 65536 + e.1 * 512 + e.2)).toNat 4) ++
    i.tasks.flatMap (fun t => t.2.section) ++ q.flatMap (queueBytes s i) ++
    live.flatMap (fun k => i.tags.bytes (64 * k) 64)
  bs ++ zeros (up64k bs.length - bs.length)

/-- The bytes of an image. -/
def Image.bytes (s : State) (i : Image) : List Byte :=
  i.header s ++ (liveChunks i.live).flatMap fun k => i.spm.bytes (0x40000 * k) 0x40000

/-- Poison of the byte at an offset of an image's bytes. -/
def Image.poisonAt (s : State) (i : Image) (o : Nat) : Bool :=
  let h := (i.header s).length
  if o < h then i.poisoned
  else
    let k := (liveChunks i.live).getD ((o - h) / 0x40000) 0
    i.spPoison.has ((0x40000 * k + (o - h) % 0x40000) / 32)

/-! ## Bundles (R199) -/

/-- Offsets of images laid one after another. -/
def imageOffsets : Nat → List Nat → List Nat
  | _, [] => []
  | at', n :: ns => up64k at' :: imageOffsets (up64k at' + n) ns

/-- The parts of a bundle: offset, bytes and their poison. -/
def bundleParts (s : State) (w : Sweep) : List (Nat × List Byte × (Nat → Bool)) :=
  let is := s.images.filter fun i => i.sweep == w.id
  let offs := imageOffsets (0x100 + 8 * is.length) (is.map fun i => (i.bytes s).length)
  let size := (List.zip offs is).foldl (fun _ x => x.1 + (x.2.bytes s).length) (0x100 + 8 * is.length)
  let head := [1, 0] ++ toBytes is.length 2 ++ zeros 4 ++ toBytes size 8 ++ toBytes (w.doneBefore + w.done) 8 ++ toBytes w.placed 8 ++
    zeros 96 ++ w.rec'.bytes ++ offs.flatMap fun o => toBytes o 8
  (0, head, fun _ => false) :: (List.zip offs is).map fun x => (x.1, x.2.bytes s, x.2.poisonAt s)

/-- The size of a sweep's bundle. -/
def bundleSize (s : State) (w : Sweep) : Nat := (bundleParts s w).foldl (fun n p => Nat.max n (p.1 + p.2.1.length)) 0

/-! ## Reading a bundle back (R197 to R199) -/

/-- Bytes as a bit vector from an offset. -/
def bits (n : Nat) (bs : List Byte) (off k : Nat) : BitVec n := BitVec.ofNat n (field bs off k)

/-- A range of bytes is zero. -/
def zeroAt (bs : List Byte) (off n : Nat) : Bool := ((bs.drop off).take n).all fun b => b == 0

/-- A pending-trap record. -/
def pendingOf (bs : List Byte) : Option Pending :=
  if field bs 0 1 = 0 then none
  else some { code := bits 8 bs 0 1, sub := bits 8 bs 1 1, addr := bits 80 bs 6 10, ecp := field bs 16 8, esp := field bs 24 8 }

/-- A row-line slot record. -/
def rowOf' (bs : List Byte) : RowSlot :=
  { st := match field bs 0 1 with | 4 => .lost | 5 => .saved | _ => .empty, addr := bits 80 bs 6 10 }

/-- The wait that a WAITING task's section records; what it does not record of a hold without an object, and of MWAIT, stands in the word at
PC and the registers (R335). -/
def waitOf (bs : List Byte) : Wait :=
  match field bs 0 1 with
  | 1 => if field bs 4 1 = 0 then .sync (bits 8 bs 1 1) (field bs 2 2) else .sem (bits 8 bs 1 1) (field bs 2 2)
  | 2 => .landing (bits 80 bs 1 10) (bits 16 bs 11 2)
  | 4 => .barrier (BitVec.ofNat 4 (field bs 1 1)).toFin (field bs 2 1 % 2 == 1)
  | 3 => .word (some (bits 80 bs 1 10))
  | _ => .word none

/-- A task of an imported sweep, from its section. -/
def taskOf (w : Sweep) (bs : List Byte) (nth : Nat) : Task :=
  let r := w.rec'
  let stat := field bs 2 1
  let esw : BitVec 64 := bits 64 bs 0x20 8
  let wait := if field bs 0 1 = 2 then waitOf (bs.drop 0x700) else .none
  let own := match wait with | .sync .. => true | _ => false
  let t : Task := { Task.idle with
    st := if wait = .none then .ready else .waiting
    wait := wait
    sweep := w.id, asid := w.asid, iter := Config.freeIter nth, seed := r.seed, ceil := r.ceil, rowq := r.rowq
    cls := bits 2 bs 1 1, inh := stat % 2 == 1, priv := r.priv && stat / 2 % 2 == 1, depth := field bs 4 1
    waitAcc := field bs 8 8, pc := bits 80 bs 0x10 10, esw := esw, epc := bits 80 bs 0x28 10
    ecause := bits 64 bs 0x38 8, eaddr := bits 80 bs 0x40 10, ecp := bits 64 bs 0x50 8, esp := bits 64 bs 0x58 8
    hbase := bits 80 bs 0x60 10, waitlimit := bits 64 bs 0x70 8, isn := bits 24 bs 0x78 3
    p := Vector.ofFn fun (i : Fin 8) => decide (field bs 0xA0 1 / 2 ^ i.val % 2 = 1)
    width := field bs 0xA2 2, acts := bits 32 bs 0xA4 4
    loops := Vector.ofFn fun (i : Fin 4) =>
      let o := 0xC0 + 32 * i.val
      { cnt := bits 32 bs o 8, start := bits 80 bs (o + 8) 10, len := bits 12 bs (o + 24) 2 }
    regions := (List.range (field bs 3 1)).map fun i =>
      let o := 0x140 + 16 * i
      let b := field bs (o + 15) 1
      { handler := bits 80 bs o 10, id := bits 16 bs (o + 10) 2, mark := bits 24 bs (o + 12) 3, inh := b % 2 == 1, depth := b / 2 % 8 }
    m := Vector.ofFn fun (i : Fin 8) => bits 128 bs (0x180 + 16 * i.val) 16
    s := Vector.ofFn fun (i : Fin 64) => bits 64 bs (0x200 + 8 * i.val) 8
    a := Vector.ofFn fun (i : Fin 32) => bits 80 bs (0x400 + 16 * i.val) 10
    rows := Vector.ofFn fun (i : Fin 16) => rowOf' (bs.drop (0x600 + 16 * i.val))
    v := Vector.ofFn fun (i : Fin 32) => bits 4096 bs (0x1000 + 512 * i.val) 512
    pastSync := (field bs 0 1 == 2 || field bs 0 1 == 3) && !own
    frozenEng := if esw.getLsbD 39 then Eng.all.find? fun e => e.code == (esw.extractLsb' 40 3).toNat else none }
  (List.zip Eng.all (List.range 5)).foldl (fun t e => t.setPend e.1 (pendingOf (bs.drop (0x740 + 32 * e.2)))) t

/-- The range a copy locks, from its captured operands (R226). -/
def Entry.ownRange (q : Entry) (c : Nat) : Option (Nat × Nat) :=
  let d : Addr := q.o0.setWidth 80
  match q.instr with
  | .cpy .. => ownLock c d (q.o2.setWidth 64).toNat
  | .cpyt _ _ _ _ _ dstr _ => ownLock c d (16 * dstr.toNat * (tileRows (q.o2.setWidth 64) - 1) + tileLen (q.o2.setWidth 64))
  | .cpym .. =>
    if (d.extractLsb' 26 10).toNat = 1023 ∧ c ∈ setCores (q.o3.setWidth 64) then ownLock c d (q.o2.setWidth 64).toNat else none
  | .fill .. => ownLock c d (q.o1.setWidth 64).toNat
  | .rlrd .. => ownLock c d (spanCnt (q.o2.setWidth 64))
  | .streamrow .. => ownLock c d 1024
  | _ => none

/-- A queue record; none when it holds no instruction of an engine. -/
def entryOf (bs : List Byte) : Option Entry :=
  match decode (wordOfBytes (bs.take 12)), Eng.all.find? fun e => e.code == field bs 13 1 with
  | .ok i, some e =>
    let frozen := field bs 14 1 % 2 == 1
    some { instr := i, eng := e, slot := field bs 12 1, isn := bits 24 bs 16 3, rdepth := field bs 15 1 % 8,
           o0 := bits 128 bs 32 16, o1 := bits 128 bs 48 16, o2 := bits 128 bs 64 16, o3 := bits 128 bs 80 16
           wmet := field bs 14 1 / 2 % 2 == 1, frozen := frozen, comm := field bs 24 8, spec := field bs 24 8
           landed := field bs 24 8, mxCopied := e == .mx && field bs 14 1 / 2 % 2 == 1 }
  | _, _ => none

/-- Reserved bits of a queue record are zero, and it names a task section (R12, R196, R199). -/
def entryReservedOk (n : Nat) (bs : List Byte) : Bool :=
  field bs 14 1 / 4 == 0 && field bs 15 1 / 8 == 0 && zeroAt bs 19 5 && decide (field bs 12 1 < n)

/-- Reserved bits of a task section are zero (R12, R178, R192, R195, R199, R200). -/
def taskReservedOk (bs : List Byte) : Bool :=
  let addr := fun (o : Nat) => zeroAt bs (o + 10) 6
  field bs 2 1 / 4 == 0 && zeroAt bs 5 3 && zeroAt bs 0x26 2 && zeroAt bs 0x3A 6 && zeroAt bs 0xA1 1 && addr 0x10 && addr 0x28 && addr 0x40 && addr 0x60 && zeroAt bs 0x7B 37 && zeroAt bs 0xA8 24 &&
  ((List.range 4).all fun i => addr (0xC8 + 32 * i) && zeroAt bs (0xDA + 32 * i) 6 && field bs (0x14F + 16 * i) 1 / 16 == 0) &&
  ((List.range 32).all fun i => addr (0x400 + 16 * i)) && ((List.range 16).all fun i => zeroAt bs (0x601 + 16 * i) 5) &&
  zeroAt bs 0x710 48 && ((List.range 5).all fun i => zeroAt bs (0x742 + 32 * i) 4) && zeroAt bs 0x7E0 2080

/-- Reserved bits of the matrix state are zero (R12, R385, R386, R387). -/
def mxReservedOk (bs : List Byte) : Bool :=
  decide (field bs 0x321 1 < 2) && decide (field bs 0x322 8 < 2) &&
  (List.range 4).all fun g => (bits 176 bs 0x32A 22).extractLsb' (44 * g) 5 == 0

/-- Entries of a list of records; none when one is bad. -/
def entriesOf' : Nat → List Byte → Option (List Entry)
  | 0, _ => some []
  | n + 1, bs => (entryOf (bs.take 96)).bind fun q => (entriesOf' n (bs.drop 96)).map fun l => q :: l

/-- Nonzero words of `k` bytes, numbered. -/
def sparseOf (n k : Nat) (bs : List Byte) (at' : List Nat) : Sparse n :=
  (at'.zip (List.range at'.length)).foldl (fun m e => Sparse.set m e.1 (bits n bs (k * e.2) k)) []

/-- The entries of an imported unit stand in their reserved places, oldest of each task and engine first (R210). -/
def markReserved : List Entry → List Entry → List Entry
  | _, [] => []
  | done, q :: l => { q with rsvd := !(done.any fun x => x.slot == q.slot && x.eng == q.eng) } :: markReserved (q :: done) l

/-- An imported task with its entries: registers they are to write are reserved, and one whose remote load is queued is parked for it
(R185, R361, R394; DEDUCED, unsafe, log 46). -/
def Task.withQueue (t : Task) (n : Nat) (parked : Bool) (es : List Entry) : Task :=
  let mine := es.filter fun q => q.slot == n && !q.frozen
  let t := { t with resvd := mine.filterMap fun q => (Instr.engineDest q.instr).filter fun d => d.val != 0 }
  match mine.find? fun q => parks q.instr with
  | some q => if parked then { t with st := .parked, wait := .remote q.isn, pastSync := false } else t
  | none => t

/-- Where an imported remote load was issued (R185; DEDUCED, unsafe, log 46). -/
def Entry.issuedBy (q : Entry) (t : Task) : Entry :=
  if parks q.instr then { q with back := some (t.pc - 12, t.depth, t.loops) } else q

/-- An imported image, from its bytes; `bad` tells poison by offset. None breaks R199. -/
def imageOf (w : Sweep) (key dpa nth : Nat) (bs : List Byte) (bad : Nat → Bool) : Option Image :=
  let mode := gangOf (field bs 1 1)
  let n := field bs 2 1
  let live : BitVec 128 := bits 128 bs 0x10 16
  let m := mode.size
  let t := taskSections m
  let nq := field bs 0xC 4
  let q := t + 0x5000 * n
  let tg := q + 96 * nq
  let ks := liveChunks live
  let h := up64k (tg + 64 * ks.length)
  if field bs 0 1 ≠ 1 ∨ 2 < field bs 1 1 ∨ n = 0 ∨ 8 < n ∨ 1 < field bs 3 1 ∨ !zeroAt bs 0x30 208 ∨ !zeroAt bs 0x360 160 ∨ !mxReservedOk bs ∨
      mode ≠ w.rec'.gang ∨ 2 ^ (28 * m) ≤ live.toNat ∨ 1280 < nq ∨
      !((List.range n).all fun i => taskReservedOk (bs.drop (t + 0x5000 * i))) ∨
      !((List.range nq).all fun i => entryReservedOk n (bs.drop (q + 96 * i))) then none
  else
    (entriesOf' nq (bs.drop q)).map fun es =>
      let sect := fun (i : Nat) => bs.drop (t + 0x5000 * i)
      let tasks := (List.range n).map fun i => (i, (taskOf w (sect i) (nth + i)).withQueue i (field (sect i) 0 1 == 3) es)
      let cells := (List.range 128).flatMap fun r => (List.range (128 * m)).map fun c => r * 512 + c
      { sweep := w.id, key := key, mode := mode, asid := w.asid, unit := field bs 0xA 2, origin := field bs 0xA 2, target := none
        ftime := field bs 0x28 8, dpa := dpa, size := imageSize m n nq live, drop := field bs 3 1 == 1, live := live
        tasks := tasks
        queue := markReserved [] (es.map fun q => q.issuedBy (taskOf w (sect q.slot) nth))
        sems := (List.range 256).map fun i =>
          (i, { count := bits 16 bs (0x100 + 2 * i) 2, ext := (field bs (0x300 + i / 8) 1).testBit (i % 8)
                ovf := (field bs (0x340 + i / 8) 1).testBit (i % 8) })
        latch := sparseOf 16 2 (bs.drop 0x400) cells, latchFmt := bits 8 bs 0x320 1, latchFill := 0
        acc := sparseOf 32 4 (bs.drop (0x400 + 0x8000 * m)) ((List.range 8).flatMap fun a => cells.map fun x => a * 65536 + x)
        ags := (List.range 4).map fun g => (g, (bits 176 bs 0x32A 22).extractLsb' (44 * g) 44)
        mxmode := bits 64 bs 0x322 8, isat := field bs 0x321 1 % 2 == 1
        spm := (List.zip ks (List.range ks.length)).foldl
          (fun mem e => mem.write (0x40000 * e.1) ((bs.drop (h + 0x40000 * e.2)).take 0x40000)) ([] : Memory)
        tags := (List.zip ks (List.range ks.length)).foldl
          (fun mem e => mem.write (64 * e.1) ((bs.drop (tg + 64 * e.2)).take 64)) ([] : Memory)
        spPoison := (List.zip ks (List.range ks.length)).flatMap fun e =>
          ((List.range 8192).filter fun j => bad (h + 0x40000 * e.2 + 32 * j)).map fun j => 8192 * e.1 + j
        poisoned := (List.range (h / 32)).any fun j => bad (32 * j) }

/-- Two ranges in a list overlap. -/
def anyOverlap : List (Nat × Nat) → Bool
  | [] => false
  | r :: rs => !(rangeFree rs r.1 r.2) || anyOverlap rs

/-- The size of the image at an offset, from its header. -/
def imageSizeOf (bs : List Byte) : Nat :=
  imageSize (gangOf (field bs 1 1)).size (field bs 2 1) (field bs 0xC 4) (bits 128 bs 0x10 16)

/-- A bundle's header and offsets that break R199. -/
def bundleBad (bs : List Byte) (r : SweepRec) : Bool :=
  let n := field bs 2 2
  let size := field bs 8 8
  let offs := (List.range n).map fun i => field bs (0x100 + 8 * i) 8
  let rs := offs.map fun o => (o, imageSizeOf (bs.drop o))
  field bs 0 1 != 1 || !zeroAt bs 1 1 || !zeroAt bs 4 4 || !zeroAt bs 0x20 96 || decide (bs.length < size) ||
  offs.any (fun o => o % 0x10000 != 0) || anyOverlap ((0, 0x100 + 8 * n) :: rs) ||
  rs.any (fun x => decide (size < x.1 + x.2)) ||
  decide (field bs 0x18 8 < field bs 0x10 8) || decide (r.iterations < field bs 0x18 8)

end Sys2Proof.Machine
end

