-- ==== Sys2Proof/Machine/MxOps.lean ====
section
/-! DEFINITION. What the instructions of class MX share: matrix state, operands and their checks, swizzled scratchpad bytes, the arithmetic of a pass and the skerry check (R204, R205, R277 to R283, R385 to R394). -/

namespace Sys2Proof.Machine

/-! ## Matrix state (R385) -/

/-- Latch entry of row k, column j. -/
def Core.latchEntry (k : Core) (row col : Nat) : BitVec 16 := Sparse.get k.latch (row * 512 + col) ^^^ k.latchFill
def Core.setLatchEntry (k : Core) (row col : Nat) (x : BitVec 16) : Core :=
  { k with latch := Sparse.set k.latch (row * 512 + col) (x ^^^ k.latchFill) }
/-- Element (i, j) of accumulator n. -/
def Core.accElem (k : Core) (n : AccReg) (i j : Nat) : BitVec 32 := Sparse.get k.acc (n.val * 65536 + i * 512 + j)
def Core.setAccElem (k : Core) (n : AccReg) (i j : Nat) (x : BitVec 32) : Core :=
  { k with acc := Sparse.set k.acc (n.val * 65536 + i * 512 + j) x }
/-- Writing a row of accumulator n from column j upward. -/
def Core.setAccRow (k : Core) (n : AccReg) (i : Nat) : Nat → List (BitVec 32) → Core
  | _, [] => k
  | j, x :: l => Core.setAccRow (k.setAccElem n i j x) n i (j + 1) l
/-- An address-generator set. -/
abbrev AgSet := BitVec 44
def Core.agSet (k : Core) (g : GReg) : AgSet := Tab.get 0 k.ags g.val

def AgSet.rstr (x : AgSet) : Nat := (x.extractLsb' 28 16).toNat
def AgSet.swz (x : AgSet) : Nat := (x.extractLsb' 24 4).toNat
def AgSet.sstr (x : AgSet) : Nat := (x.extractLsb' 5 16).toNat
/-- Geometry h × w (R386). -/
def AgSet.geo (x : AgSet) : Nat × Nat :=
  match (x.extractLsb' 21 3).toNat with
  | 1 => (2, 16) | 2 => (4, 8) | 3 => (8, 4) | 4 => (16, 2) | 5 => (32, 1) | _ => (1, 32)

/-- Element size in bytes of a format (R396). -/
def esz (fmt : BitVec 8) : Nat := fmtBits fmt / 8

/-- Columns of the unit's array (R407). -/
def State.columns (s : State) (c : Nat) : Nat := 128 * (s.core c).mode.size

/-! ## The copy of the sets (R393) -/

/-- The sets an entry names and IMODE, as its queue record keeps them. -/
def mxCopy (k : Core) (x y : GReg) : BitVec 128 :=
  (k.mxmode.extractLsb' 0 1).setWidth 128 <<< 88 ||| (k.agSet y).setWidth 128 <<< 44 ||| (k.agSet x).setWidth 128

/-- First set, second set and IMODE of a copy. -/
def copySets (v : BitVec 128) : AgSet × AgSet × Bool := (v.extractLsb' 0 44, v.extractLsb' 44 44, v.getLsbD 88)

/-- The copy is made at the first start, into the operand value of E0 or of E3. -/
def withCopy (e3 : Bool) (x y : GReg) (f : AgSet × AgSet × Bool → Perf) : Perf := fun c q s =>
  if q.mxCopied then f (copySets (if e3 then q.o3 else q.o0)) c q s
  else
    let v := mxCopy (s.core c) x y
    f (copySets v) c q (s.modEntry c q fun e => if e3 then { e with o3 := v, mxCopied := true } else { e with o0 := v, mxCopied := true })

/-! ## Operands in the scratchpad (R389, R391) -/

/-- A scratchpad operand: `rows` rows of `len` bytes, `stride` bytes apart. -/
structure MxArg where
  base : Addr
  stride : Nat
  rows : Nat
  len : Nat
  swz : Nat
  /-- A data operand's base is a multiple of 16. -/
  data : Bool
deriving DecidableEq, Repr

/-- The base lies in the scratchpad window under core 1023 or the unit's own number (R389). -/
def MxArg.named (x : MxArg) (c : Nat) : Bool :=
  vaRegion x.base == .scratch && ((x.base.extractLsb' 26 10).toNat == 1023 || (x.base.extractLsb' 26 10).toNat == c)

/-- Offset of a row's first byte. -/
def MxArg.row (x : MxArg) (r : Nat) : Nat := spaOffset x.base + x.stride * r

/-- Address of an offset as the operand's base names it. -/
def MxArg.addr (x : MxArg) (o : Nat) : Addr := x.base + BitVec.ofNat 80 o - BitVec.ofNat 80 (x.row 0)

/-- The lowest byte of an operand outside the populated scratchpad (R391). -/
def MxArg.outside (x : MxArg) (c size : Nat) : Option Addr :=
  if x.len = 0 ∨ x.rows = 0 then none
  else if !x.named c then some x.base
  else ((List.range x.rows).find? fun r => decide (size < x.row r + x.len)).map fun r => x.addr (Nat.max (x.row r) size)

/-- The lower of two addresses. -/
def lower (a b : Option Addr) : Option Addr :=
  match a, b with
  | none, b => b
  | a, none => a
  | some a, some b => some (if a.toNat ≤ b.toNat then a else b)

/-- The lowest frame of an operand whose layout tag differs from its set's SWZ (R391). (DEDUCED, unsafe, log 57) -/
def MxArg.badTag (x : MxArg) (s : State) (c : Nat) : Option Addr :=
  if x.len = 0 then none
  else
    (List.range x.rows).foldl (fun best r =>
      let o := x.row r
      (List.range ((o + x.len - 1) / 4096 - o / 4096 + 1)).foldl (fun best i =>
        let f := (o / 4096 + i) * 4096
        if (s.spTag c f).toNat ≠ x.swz then lower best (some (x.addr f)) else best) best) none

/-- A physical byte of an operand is locked by a copy before the entry (R225, R226). -/
def MxArg.locked (x : MxArg) (earlier : List Entry) : Bool :=
  x.len != 0 && (List.range x.rows).any fun r =>
    if x.swz = 0 then State.lockedBy earlier (x.row r) x.len
    else (granules (x.row r) x.len).any fun g => State.lockedBy earlier (swizzle x.swz g.1) g.2

/-- The checks of R391 before any effect, in their order; `code` is the lowest operand-value code, 0 for none. -/
def mxCheck (args : List MxArg) (code : Nat) (tags : Bool) (c : Nat) (q : Entry) (s : State) (f : PRes) : PRes :=
  match args.find? fun x => x.data && x.base.toNat % 16 != 0 with
  | some x => ⟨s, 0, 0, .trap cALIGN 0 x.base⟩
  | none =>
    match args.foldl (fun b x => lower b (x.outside c (s.spSize c))) none with
    | some a => ⟨s, 0, 0, .trap cSPACCESS 0 a⟩
    | none =>
      if args.any fun x => x.locked (before q (s.core c).queue) then ⟨s, q.comm, q.comm, .stall⟩
      else if code ≠ 0 then ⟨s, 0, 0, .trap cOPFORMAT 0 (BitVec.ofNat 80 code)⟩
      else
        match if tags then args.foldl (fun b x => lower b (x.badTag s c)) none else none with
        | some a => ⟨s, 0, 0, .trap cOPFORMAT 0 a⟩
        | none => f

/-- `n` logical bytes under a pattern. -/
def State.swzBytes (s : State) (c p o : Nat) : Nat → List Byte
  | 0 => []
  | n + 1 => s.spByte c (swizzle p o) :: State.swzBytes s c p (o + 1) n

/-- Distance of the first poisoned logical byte. -/
def State.swzPoison (s : State) (c p o n : Nat) : Option Nat :=
  (List.range n).find? fun i => (i == 0 || (o + i) % 16 == 0) && s.poisoned (.spm c (swizzle p (o + i)))

/-! ## Tile words (R390) -/

/-- A field of eight bits of a tile word. -/
def tw (t : Word) (i : Nat) : Nat := (t.extractLsb' i 8).toNat

def ldTileBad (t : Word) : Bool :=
  t.extractLsb' 16 48 != 0 || tw t 8 == 0 || decide (128 < tw t 8) || decide (128 < tw t 0 + tw t 8)

def pTileBad (t : Word) : Bool :=
  t.extractLsb' 32 32 != 0 || tw t 8 == 0 || decide (128 < tw t 8) || decide (128 < tw t 0 + tw t 8) ||
  tw t 24 == 0 || decide (128 < tw t 24) || decide (128 < tw t 16 + tw t 24)

/-- COL0 and NCOL of an STILE. -/
def col0 (t : Word) : Nat := (t.extractLsb' 16 10).toNat
def ncol (t : Word) : Nat := (t.extractLsb' 26 10).toNat

def sTileBad (t : Word) (columns : Nat) (vec : Bool) : Bool :=
  t.extractLsb' 36 28 != 0 || tw t 8 == 0 || decide (128 < tw t 8) || decide (128 < tw t 0 + tw t 8) ||
  ncol t == 0 || decide (columns < col0 t + ncol t) || (vec && (tw t 8 != 1 || decide (128 < ncol t)))

/-- The first condition that holds, by its code (R391). -/
def firstCode : List (Bool × Nat) → Nat
  | [] => 0
  | (b, n) :: l => if b then n else firstCode l

/-! ## The latch (R396, R397) -/

/-- A latch entry from a weight and its scale byte (R396). -/
def latchWord (fmt : BitVec 8) (x : Nat) (sc : Byte) : BitVec 16 :=
  if isBinary8 fmt then sc ++ BitVec.ofNat 8 x else BitVec.ofNat 16 x

/-- The latch holds no format: it is empty, or an imported image gave it a reserved code (R260; DESIGN CHOICE, unsafe, log 72). -/
def Core.noFormat (k : Core) : Bool := k.latchFmt == 0xFF || !(isMxFormat k.latchFmt)

/-- The latch takes a format: when it differs, every entry is a zero weight (R397). -/
def Core.latchFormat (k : Core) (fmt : BitVec 8) : Core :=
  if k.latchFmt = fmt then k else { k with latch := [], latchFill := if isBinary8 fmt then 0x7F00 else 0, latchFmt := fmt }

/-- An E8M0 scale (R267). -/
def e8m0 (b : Byte) : Fl := if b = 0xFF then .nan else .fin false 1 ((b.toNat : Int) - 127) false

/-- The weight of a latch entry with its scale (R396, R399). -/
def latchVal (fmt : BitVec 8) (x : BitVec 16) : Fl :=
  if isBinary8 fmt then Fl.mul (e8m0 (x.extractLsb' 8 8)) ((fmtOf fmt).decode (x.extractLsb' 0 8).toNat)
  else (fmtOf fmt).decode x.toNat

/-! ## The arithmetic of a pass (R279, R280, R282) -/

/-- sigma of a segment: the exact sum of its products, an exact zero being +0; a wrong increment of a defective cell enters it (DESIGN CHOICE, unsafe, log 17). -/
def sigma : List (Fl × Fl × Int) → Fl → Fl
  | [], acc => if acc.isZero then .zero false else acc
  | (a, w, d) :: l, acc =>
    let acc := Fl.add .rne acc (Fl.mul a w)
    sigma l (if d = 0 then acc else Fl.add .rne acc (.ofInt d))

/-- Segments of 32 in increasing k, each added with one rounding (R279). -/
def floatElem : Nat → List (Fl × Fl × Int) → BitVec 32 → BitVec 32
  | 0, _, acc => acc
  | fuel + 1, l, acc =>
    if l.isEmpty then acc
    else
      let x := Fl.add .rne (Fmt.f32.decode acc.toNat) (sigma (l.take 32) (.zero false))
      floatElem fuel (l.drop 32) (BitVec.ofNat 32 (Fmt.f32.encode x .rne false 0))

/-- An integer pass on one element: the new value and whether it saturated (R282). -/
def intElem (saturate : Bool) (l : List (Int × Int × Int)) (acc : BitVec 32) : BitVec 32 × Bool :=
  let v := l.foldl (fun v (a, w, d) => v + a * w + d) acc.toInt
  if saturate then
    if v > 2 ^ 31 - 1 then (0x7FFFFFFF, true)
    else if v < -2 ^ 31 then (0x80000000, true)
    else (BitVec.ofInt 32 v, false)
  else (BitVec.ofInt 32 v, false)

/-! ## Physical halves and the skerry check (R23, R26, R204, R205) -/

/-- The site that a core is bound to. -/
def State.siteOf (s : State) (core : Nat) : Nat :=
  ((List.range 320).find? fun n => (s.bindOf n).en && (s.bindOf n).core == core).getD 0

/-- The physical half that supplies a logical half of a core, and its UNCHK bit. -/
def State.physHalf (s : State) (core : Nat) (h : Bool) : Nat × Bool :=
  let n := s.siteOf core
  let b := s.bindOf n
  let (slab, half, un) := if h then (b.l1slab, b.l1half, b.unchk1) else (b.l0slab, b.l0half, b.unchk0)
  ((n / 80 * 82 + n % 80 + slab.toNat) * 2 + half.toNat, un)

/-- What a cell of a physical half adds to each of its increments (DESIGN CHOICE, unsafe, log 17). -/
def State.defectAt (s : State) (half row col : Nat) : Int :=
  s.defects.foldl (fun x d => if d.half = half ∧ d.row = row ∧ d.col = col then x + d.delta else x) 0

/-- The outcome of the check of one column: none when it does not differ (R204). -/
def skerryOutcome (dL dS dT : Int) : Option Nat :=
  if dL = dS then none else if dT = dL then some 1 else if dT = dS then some 0 else some 2

/-- A cell's 20-bit code (R205). -/
def cellCode (member : Nat) (h : Bool) (row col : Nat) : BitVec 20 :=
  BitVec.ofNat 20 (member * 2 ^ 18 + h.toNat * 2 ^ 17 + row * 2 ^ 10 + col)

/-- The check of a half in a pass: recorded outcomes, and an MXCHECK's address when a column has outcome 2 (R204, R205). -/
def State.skerryHalf (s : State) (c member : Nat) (h : Bool) (k0 kp : Nat) (first : Option Addr) : State × Option Addr :=
  let core := c + member
  let (p, un) := s.physHalf core h
  let x := s.half p
  let n := x.pass
  let r := n % 64
  let k := 64 * h.toNat + r
  let s := s.setHalf p { x with pass := n + 1 }
  if un || x.chkoff || decide (k < k0) || decide (k0 + kp ≤ k) then (s, first)
  else
    (List.range 128).foldl (fun (s, first) col =>
      match skerryOutcome (s.defectAt p r col) (s.defectAt p 64 col) (s.defectAt p 64 ((col + 1) % 128)) with
      | none => (s, first)
      | some o =>
        let live := cellCode member h r col
        let sk := cellCode member h 64 col
        let a := if o = 1 then sk else live
        let b : BitVec 20 := if o = 2 then sk else 0
        let det := [BitVec.ofNat 8 o] ++ toBytes a.toNat 3 ++ toBytes b.toNat 3 ++ [0] ++ toBytes n 8
        let s := (s.strandEvent 0x09 core det).tideEvent 0x09 core det
        let y := s.half p
        let s := s.setHalf p { y with
          last := BitVec.ofNat 2 o, cell := a
          corr := if o = 2 ∨ y.corr = 0xFFFF then y.corr else y.corr + 1 }
        let s := if o = 2 then s else { s with faultyCells := s.faultyCells ++ [(a, core)] }
        let e : Addr := BitVec.ofNat 80 (n % 65536 * 2 ^ 40 + sk.toNat * 2 ^ 20 + live.toNat)
        (s, if o = 2 ∧ first.isNone then some e else first)) (s, first)

/-- The check of every half of a unit in a pass (R399). -/
def State.skerry (s : State) (c k0 kp : Nat) : State × Option Addr :=
  (List.range (s.core c).mode.size).foldl (fun (s, f) m =>
    let (s, f) := s.skerryHalf c m false k0 kp f
    s.skerryHalf c m true k0 kp f) (s, none)

/-- What row k of the array adds wrongly to column j of a pass whose half counted `pass` passes (R204; DESIGN CHOICE, unsafe, log 17). -/
def State.wrongAt (s : State) (c k j : Nat) : Int :=
  if s.defects.isEmpty then 0
  else
    let h := decide (64 ≤ k)
    let (p, un) := s.physHalf (c + j / 128) h
    let x := s.half p
    let dL := s.defectAt p (k % 64) (j % 128)
    if un || x.chkoff || x.pass % 64 ≠ k % 64 then dL
    else
      let dS := s.defectAt p 64 (j % 128)
      match skerryOutcome dL dS (s.defectAt p 64 ((j % 128 + 1) % 128)) with
      | some 0 => dS
      | _ => dL

end Sys2Proof.Machine
end

