-- ==== Sys2Proof/Machine/Mx.lean ====
section
/-! DEFINITION. Class MX: for each instruction what its engine does and its issue (R395 to R407). -/

namespace Sys2Proof.Machine

/-- An MX entry: captures by encoding field E0 to E3 (R393, R395). -/
def mx (i : Instr) (caps : Task → List (BitVec 128)) : Issue := { instr := i, eng := .mx, caps := caps }

/-! ## Loading the latch (R397, R398) -/

/-- Ceiling of a quotient. -/
def ceilDiv (a b : Nat) : Nat := (a + b - 1) / b

/-- The data operand of a load of NK latch rows. -/
def ldData (trans : Bool) (fmt : BitVec 8) (base : Addr) (x : AgSet) (nk cols : Nat) : MxArg :=
  { base := base, stride := 16 * x.rstr, rows := if trans then cols else nk, len := esz fmt * (if trans then nk else cols),
    swz := x.swz, data := true }

/-- The scale operand of a load of NK latch rows. -/
def ldScale (base : Addr) (y : AgSet) (nk cols : Nat) : MxArg :=
  { base := base, stride := y.sstr, rows := ceilDiv cols y.geo.1, len := ceilDiv nk y.geo.2, swz := y.swz, data := false }

/-- The scale byte of latch row r, column j. -/
def State.scaleByte (s : State) (c : Nat) (a : MxArg) (geo : Nat × Nat) (r j : Nat) : Byte :=
  s.spByte c (swizzle a.swz (a.row (j / geo.1) + r / geo.2))

/-- The first poisoned scale byte that latch row r, or column j, reads. -/
def State.scalePoison (s : State) (c : Nat) (a : MxArg) (geo : Nat × Nat) (trans : Bool) (p : Nat) : Option Addr :=
  if trans then (s.swzPoison c a.swz (a.row (p / geo.1)) a.len).map fun i => a.addr (a.row (p / geo.1) + i)
  else
    ((List.range a.rows).find? fun u => s.poisoned (.spm c (swizzle a.swz (a.row u + p / geo.2)))).map fun u =>
      a.addr (a.row u + p / geo.2)

/-- One memory row of a load into the latch (R391, R397). -/
def ldRow (trans : Bool) (fmt : BitVec 8) (x : MxArg) (y : Option (MxArg × (Nat × Nat))) (kb nk cols total c p : Nat) (s : State) : PRes :=
  match s.swzPoison c x.swz (x.row p) x.len with
  | some i => poisonStop s p total (x.addr (x.row p + i))
  | none =>
    match y.bind fun (a, geo) => s.scalePoison c a geo trans p with
    | some a => poisonStop s p total a
    | none =>
      let bytes := (s.swzBytes c x.swz (x.row p) x.len).toArray
      let k := (List.range (if trans then nk else cols)).foldl (fun (k : Core) e =>
        let (r, j) := if trans then (e, p) else (p, e)
        let w := ofBytes ((List.range (esz fmt)).map fun b => bytes.getD (esz fmt * e + b) 0)
        let sc := match y with
          | some (a, geo) => s.scaleByte c a geo r j
          | none => 0x7F
        k.setLatchEntry (kb + r) j (latchWord fmt w sc)) ((s.core c).latchFormat fmt)
      ⟨s.setCore c k, p, p, .done⟩

/-- MXLDW and MXLDWT past the copy of their sets (R391, R397). -/
def mxLoad (trans : Bool) (fmt : BitVec 8) (scl : Bool) (v : AgSet × AgSet × Bool) : Perf := fun c q s =>
  let t := q.o1.setWidth 64
  let nk := tw t 8
  let cols := s.columns c
  let x := ldData trans fmt (q.o0.setWidth 80) v.1 nk cols
  let y := ldScale (q.o2.setWidth 80) v.2.1 nk cols
  let total := if trans then cols else nk
  mxCheck (x :: if scl then [y] else []) (firstCode [(ldTileBad t, 1), (scl && !isBinary8 fmt, 4)]) true c q s
    (stream (total - q.comm) q.comm (ldRow trans fmt x (if scl then some (y, v.2.1.geo) else none) (tw t 0) nk cols total c) s)

/-- The sets that an optional scale operand names. -/
def sclSet : ScaleOp → GReg
  | none => 0
  | some (_, g) => g

/-- Captures of an optional scale operand. -/
def sclCap (t : Task) : ScaleOp → BitVec 128
  | none => 0
  | some (a, _) => capA t a

/-- MXLDW on the MX engine: memory rows become latch rows (R397). -/
def runMxldw (fmt : BitVec 8) (_w : AReg) (_t : SReg) (x : GReg) (sc : ScaleOp) : Perf :=
  withCopy true x (sclSet sc) (mxLoad false fmt sc.isSome)

/-- MXLDW: its issue into the MX queue. -/
def execMxldw (y : Sync) (fmt : BitVec 8) (w : AReg) (t : SReg) (x : GReg) (sc : ScaleOp) (s : State) :
    Host.Outcome State Fault Refusal :=
  engine legal (mx (.mxldw y fmt w t x sc) fun k => [capA k w, capS k t, sclCap k sc]) (runMxldw fmt w t x sc) s

/-- MXLDWT on the MX engine: memory rows become latch columns (R397). -/
def runMxldwt (fmt : BitVec 8) (_w : AReg) (_t : SReg) (x : GReg) (sc : ScaleOp) : Perf :=
  withCopy true x (sclSet sc) (mxLoad true fmt sc.isSome)

/-- MXLDWT: its issue into the MX queue. -/
def execMxldwt (y : Sync) (fmt : BitVec 8) (w : AReg) (t : SReg) (x : GReg) (sc : ScaleOp) (s : State) :
    Host.Outcome State Fault Refusal :=
  engine legal (mx (.mxldwt y fmt w t x sc) fun k => [capA k w, capS k t, sclCap k sc]) (runMxldwt fmt w t x sc) s

/-- One latch row of MXSCL (R398). -/
def sclRow (a : MxArg) (geo : Nat × Nat) (kb cols total c r : Nat) (s : State) : PRes :=
  match s.scalePoison c a geo false r with
  | some va => poisonStop s r total va
  | none =>
    let k := (List.range cols).foldl (fun (k : Core) j =>
      k.setLatchEntry (kb + r) j (s.scaleByte c a geo r j ++ (k.latchEntry (kb + r) j).extractLsb' 0 8)) (s.core c)
    ⟨s.setCore c k, r, r, .done⟩

/-- MXSCL on the MX engine: the scale bytes of latch rows (R398). -/
def runMxscl (_s : AReg) (_t : SReg) (g : GReg) : Perf :=
  withCopy true g 0 fun v c q s =>
    let t := q.o1.setWidth 64
    let nk := tw t 8
    let cols := s.columns c
    let a := ldScale (q.o0.setWidth 80) v.1 nk cols
    let fmt := (s.core c).latchFmt
    mxCheck [a] (firstCode [(ldTileBad t, 1), ((s.core c).noFormat, 2), (!isBinary8 fmt, 4)]) true c q s
      (stream (nk - q.comm) q.comm (sclRow a v.1.geo (tw t 0) cols nk c) s)

/-- MXSCL: its issue into the MX queue. -/
def execMxscl (y : Sync) (s' : AReg) (t : SReg) (g : GReg) (s : State) : Host.Outcome State Fault Refusal :=
  engine legal (mx (.mxscl y s' t g) fun k => [capA k s', capS k t]) (runMxscl s' t g) s

/-! ## Passes (R399) -/

/-- What a pass needs of its operands. -/
structure Pass where
  fmt : BitVec 8
  n : AccReg
  row0 : Nat
  nrow : Nat
  kp : Nat
  x : MxArg
  y : Option (MxArg × (Nat × Nat))
  saturate : Bool
  /-- An MXCHECK of this pass (R204). -/
  check : Option Addr
  /-- Weights by column, with what their cells add wrongly (R396; DESIGN CHOICE, unsafe, log 17). -/
  weights : List (List (BitVec 16 × Int))
  latchFmt : BitVec 8

/-- An activation row with its scales (R399). -/
def Pass.row (p : Pass) (s : State) (c r : Nat) : List (Nat × Byte) :=
  let bytes := (s.swzBytes c p.x.swz (p.x.row r) p.x.len).toArray
  (List.range p.kp).map fun k =>
    (ofBytes ((List.range (esz p.fmt)).map fun b => bytes.getD (esz p.fmt * k + b) 0),
     match p.y with
     | some (a, geo) => s.spByte c (swizzle a.swz (a.row (r / geo.1) + k / geo.2))
     | none => 0x7F)

/-- One activation row of MXPASS (R391, R399). -/
def passRow (p : Pass) (c r : Nat) (s : State) : PRes :=
  match s.swzPoison c p.x.swz (p.x.row r) p.x.len with
  | some i => poisonStop s r p.nrow (p.x.addr (p.x.row r + i))
  | none =>
    match p.y.bind fun (a, geo) => (s.swzPoison c a.swz (a.row (r / geo.1)) a.len).map fun i => a.addr (a.row (r / geo.1) + i) with
    | some va => poisonStop s r p.nrow va
    | none =>
      match p.check with
      | some e => ⟨{ s with freeCtr := s.freeCtr + 1 }, r, Nat.min (s.ahead (r + 1) p.nrow 1) p.nrow, .poison cMXCHECK e⟩
      | none =>
        let k := s.core c
        let row := p.row s c r
        let i := p.row0 + r
        if p.latchFmt = 0x20 then
          let acts := row.map fun a => (BitVec.ofNat 8 a.1).toInt
          let out := p.weights.zipIdx.map fun (w, j) =>
            intElem p.saturate (List.zipWith (fun (a : Int) (w : BitVec 16 × Int) => (a, (w.1.setWidth 8).toInt, w.2)) acts w) (k.accElem p.n i j)
          let k := k.setAccRow p.n i 0 (out.map fun o => o.1)
          ⟨s.setCore c { k with isat := k.isat || out.any fun o => o.2 }, r, r, .done⟩
        else
          let acts := row.map fun a => Fl.mul (e8m0 a.2) ((fmtOf p.fmt).decode a.1)
          let out := p.weights.zipIdx.map fun (w, j) =>
            floatElem 4 (List.zipWith (fun (a : Fl) (w : BitVec 16 × Int) => (a, latchVal p.latchFmt w.1, w.2)) acts w) (k.accElem p.n i j)
          ⟨s.setCore c (k.setAccRow p.n i 0 out), r, r, .done⟩

/-- MXPASS on the MX engine: activations times weights into an accumulator (R399). -/
def runMxpass (fmt : BitVec 8) (acc : AccReg) (_a : AReg) (_t : SReg) (x : GReg) (sc : ScaleOp) : Perf :=
  withCopy false x (sclSet sc) fun v c q s =>
    let t := q.o2.setWidth 64
    let k := s.core c
    let kp := tw t 24
    let k0 := tw t 16
    let data : MxArg :=
      { base := q.o1.setWidth 80, stride := 16 * v.1.rstr, rows := tw t 8, len := esz fmt * kp, swz := v.1.swz, data := true }
    let geo := v.2.1.geo
    let scale : MxArg :=
      { base := q.o3.setWidth 80, stride := v.2.1.sstr, rows := ceilDiv (tw t 8) geo.1, len := ceilDiv kp geo.2, swz := v.2.1.swz,
        data := false }
    mxCheck (data :: if sc.isSome then [scale] else [])
      (firstCode [(pTileBad t, 1), (k.noFormat, 2), ((fmt == 0x20) != (k.latchFmt == 0x20), 3), (sc.isSome && fmt == 0x20, 4)])
      true c q s
      (let weights := (List.range (s.columns c)).map fun j =>
         (List.range kp).map fun i => (k.latchEntry (k0 + i) j, s.wrongAt c (k0 + i) j)
       let (s, check) := s.skerry c k0 kp
       stream (tw t 8 - q.comm) q.comm
         (passRow
           { fmt := fmt, n := acc, row0 := tw t 0, nrow := tw t 8, kp := kp, x := data,
             y := if sc.isSome then some (scale, geo) else none, saturate := v.2.2, check := check, weights := weights,
             latchFmt := k.latchFmt } c) s)

/-- MXPASS: its issue into the MX queue. -/
def execMxpass (y : Sync) (fmt : BitVec 8) (acc : AccReg) (a : AReg) (t : SReg) (x : GReg) (sc : ScaleOp) (s : State) :
    Host.Outcome State Fault Refusal :=
  engine legal (mx (.mxpass y fmt acc a t x sc) fun k => [0, capA k a, capS k t, sclCap k sc]) (runMxpass fmt acc a t x sc) s

/-! ## Zeroing and results (R400 to R402) -/

/-- MXZERO on the MX engine: the named accumulators become zero (R400). -/
def runMxzero (mask : BitVec 8) : Perf := fun c _ s =>
  ⟨s.modCore c fun k => { k with acc := k.acc.filter fun e => !(mask.getLsbD (e.1 / 65536)) }, 0, 0, .done⟩

/-- MXZERO: its issue into the MX queue. -/
def execMxzero (y : Sync) (mask : BitVec 8) (s : State) : Host.Outcome State Fault Refusal :=
  engine legal (mx (.mxzero y mask) noCaps) (runMxzero mask) s

/-- An accumulator element converted (R283, R401). -/
def accOut (kind : AccKindM) (dst : BitVec 8) (r : RMod) (u : BitVec 32) (x : BitVec 32) : Nat :=
  let src : BitVec 8 := match kind with | .fa => 0x23 | .ia => 0x24
  if dst = src then x.toNat else convert dst src x.toNat r.rm r.sat u

/-- One row of MXST (R401). -/
def stRow (kind : AccKindM) (dst : BitVec 8) (r : RMod) (acc : AccReg) (x : MxArg) (t : Word) (c : Nat) (q : Entry) (p : Nat) (s : State) :
    PRes :=
  let k := s.core c
  let task := s.task c q.slot
  let bytes := (List.range (ncol t)).flatMap fun j =>
    toBytes (accOut kind dst r (task.drawOf q (p * ncol t + j)) (k.accElem acc (tw t 0 + p) (col0 t + j))) (esz dst)
  ⟨s.writeSwz (.spm c (x.row p)) x.swz bytes (fun _ => false), p, p, .done⟩

/-- MXST on the MX engine: a tile converted and written (R401). -/
def runMxst (kind : AccKindM) (dst : BitVec 8) (r : RMod) (acc : AccReg) (_d : AReg) (_t : SReg) (x : GReg) : Perf :=
  withCopy false x 0 fun v c q s =>
    let t := q.o2.setWidth 64
    let a : MxArg :=
      { base := q.o1.setWidth 80, stride := 16 * v.1.rstr, rows := tw t 8, len := esz dst * ncol t, swz := v.1.swz, data := true }
    mxCheck [a] (firstCode [(sTileBad t (s.columns c) false, 1)]) false c q s
      (stream (tw t 8 - q.comm) q.comm (stRow kind dst r acc a t c q) s)

/-- MXST: its issue into the MX queue. -/
def execMxst (y : Sync) (kind : AccKindM) (dst : BitVec 8) (r : RMod) (acc : AccReg) (d : AReg) (t : SReg) (x : GReg) (s : State) :
    Host.Outcome State Fault Refusal :=
  engine legal (mx (.mxst y kind dst r acc d t x) fun k => [0, capA k d, capS k t]) (runMxst kind dst r acc d t x) s

/-- MXRDV on the MX engine: part of an accumulator row to a vector register (R402). -/
def runMxrdv (kind : AccKindM) (dst : BitVec 8) (r : RMod) (d : VReg) (acc : AccReg) (_t : SReg) : Perf := fun c q s =>
  let t := q.o2.setWidth 64
  let k := s.core c
  mxCheck [] (firstCode [(sTileBad t (s.columns c) true, 1)]) false c q s
    ⟨s.modTask c q.slot fun task =>
        task.setV d (mapElems (fmtBits dst) (task.vreg d) fun e =>
          if e < ncol t then some (accOut kind dst r (task.drawOf q e) (k.accElem acc (tw t 0) (col0 t + e))) else none),
      0, 0, .done⟩

/-- MXRDV: its issue into the MX queue. -/
def execMxrdv (y : Sync) (kind : AccKindM) (dst : BitVec 8) (r : RMod) (d : VReg) (acc : AccReg) (t : SReg) (s : State) :
    Host.Outcome State Fault Refusal :=
  engine legal (mx (.mxrdv y kind dst r d acc t) fun k => [0, 0, capS k t]) (runMxrdv kind dst r d acc t) s

/-- MXWRV on the MX engine: lanes of a vector register to part of an accumulator row (R402). -/
def runMxwrv (acc : AccReg) (a : VReg) (_t : SReg) : Perf := fun c q s =>
  let t := q.o2.setWidth 64
  let v := (s.task c q.slot).vreg a
  mxCheck [] (firstCode [(sTileBad t (s.columns c) true, 1)]) false c q s
    ⟨s.modCore c fun k => k.setAccRow acc (tw t 0) (col0 t) ((List.range (ncol t)).map fun e => BitVec.ofNat 32 (elem 32 v e)),
      0, 0, .done⟩

/-- MXWRV: its issue into the MX queue. -/
def execMxwrv (y : Sync) (acc : AccReg) (a : VReg) (t : SReg) (s : State) : Host.Outcome State Fault Refusal :=
  engine legal (mx (.mxwrv y acc a t) fun k => [0, 0, capS k t]) (runMxwrv acc a t) s

/-! ## Sets, modes, checking and gating (R403 to R406) -/

/-- A reserved value of an operand: OPFORMAT with code 5 (R391). -/
def opFormat5 (s : State) : PRes := ⟨s, 0, 0, .trap cOPFORMAT 0 5⟩

/-- MXAGEN on the MX engine (R403). -/
def runMxagen (op : AgenOp) : Perf := fun c q s =>
  match op with
  | .write g _ =>
    let v : Word := q.o1.setWidth 64
    if v.extractLsb' 44 20 ≠ 0 ∨ v.extractLsb' 0 5 ≠ 0 ∨ 6 ≤ (v.extractLsb' 21 3).toNat then opFormat5 s
    else ⟨s.modCore c fun k => { k with ags := Tab.set k.ags g.val (v.setWidth 44) }, 0, 0, .done⟩
  | .read d g => ⟨s.modTask c q.slot fun t => t.setS d (((s.core c).agSet g).setWidth 64), 0, 0, .done⟩

/-- MXAGEN: its issue into the MX queue. -/
def execMxagen (y : Sync) (op : AgenOp) (s : State) : Host.Outcome State Fault Refusal :=
  engine legal (mx (.mxagen y op) fun k => match op with | .write _ a => [0, capS k a] | .read _ _ => []) (runMxagen op) s

/-- The value MXMODE reads: ISAT in bit 32, IMODE in bit 0 (R404). -/
def Core.modeWord (k : Core) : Word := (k.mxmode &&& 1) ||| (if k.isat then 0x100000000 else 0)

/-- MXMODE on the MX engine: the old values read, then a mode set and ISAT cleared as its form says (R404). -/
def runMxmode (op : ModeOp) : Perf := fun c q s =>
  let v : Word := q.o1.setWidth 64
  let old := (s.core c).modeWord
  let (d, set, clr) : SReg × Bool × Bool := match op with
    | .read d => (d, false, false)
    | .set d _ => (d, true, false)
    | .clri d => (d, false, true)
    | .setclri d _ => (d, true, true)
  if set && v.extractLsb' 1 63 != 0 then opFormat5 s
  else
    let s := s.modCore c fun k => { k with mxmode := if set then v else k.mxmode, isat := k.isat && !clr }
    ⟨s.modTask c q.slot fun t => t.setS d old, 0, 0, .done⟩

/-- MXMODE: its issue into the MX queue. -/
def execMxmode (y : Sync) (op : ModeOp) (s : State) : Host.Outcome State Fault Refusal :=
  engine legal (mx (.mxmode y op) fun k => match op with | .set _ a | .setclri _ a => [0, capS k a] | .read _ | .clri _ => [])
    (runMxmode op) s

/-- The diagnostic word of a half (R405). -/
def Half.word (x : Half) (unchk : Bool) : Word :=
  BitVec.ofNat 64 (x.corr.toNat * 2 ^ 48 + x.pass % 65536 * 2 ^ 32 + x.cell.toNat * 2 ^ 12 + x.last.toNat * 2 ^ 10 +
    unchk.toNat * 2 ^ 9 + x.chkoff.toNat * 2 ^ 8)

/-- MXCHK on the MX engine: the physical half bound as the selected logical half (R405). -/
def runMxchk (op : ChkOp) : Perf := fun c q s =>
  let v : Word := q.o1.setWidth 64
  let m := (v.extractLsb' 0 2).toNat
  if v.extractLsb' 3 61 ≠ 0 ∨ (s.core c).mode.size ≤ m then opFormat5 s
  else
    let (p, un) := s.physHalf (c + m) (v.getLsbD 2)
    match op with
    | .read d _ => ⟨s.modTask c q.slot fun t => t.setS d ((s.half p).word un), 0, 0, .done⟩
    | .set _ off clr =>
      ⟨s.setHalf p { s.half p with chkoff := off, corr := if clr then 0 else (s.half p).corr }, 0, 0, .done⟩

/-- The writing form of MXCHK is privileged (R304, R395). -/
def chkIllegal (op : ChkOp) (t : Task) : Bool :=
  match op with
  | .read _ _ => false
  | .set _ _ _ => !t.priv

/-- MXCHK: its issue into the MX queue. -/
def execMxchk (y : Sync) (op : ChkOp) (s : State) : Host.Outcome State Fault Refusal :=
  engine (chkIllegal op) (mx (.mxchk y op) fun k => match op with | .read _ a | .set a _ _ => [0, capS k a]) (runMxchk op) s

/-- MXIDLE on the MX engine: performed when the array has been gated (R35, R406). -/
def runMxidle : Perf := fun c _ s =>
  match s.arrayGate c with
  | .gated => ⟨s, 0, 0, .done⟩
  | .awake => ⟨s.setGate c .gating, 0, 0, .stall⟩
  | .gating | .waking => ⟨s, 0, 0, .stall⟩

/-- MXIDLE: its issue into the MX queue. -/
def execMxidle (y : Sync) (s : State) : Host.Outcome State Fault Refusal :=
  engine legal (mx (.mxidle y) noCaps) runMxidle s

end Sys2Proof.Machine
end

