-- ==== Sys2Proof/Machine/Power.lean ====
section
/-! DEFINITION. Power, boot, reset, the tidemark log's commands, ageing, clocks, temperature and matrix gating: the operations and events (R23 to R40, R92 to R97). -/

namespace Sys2Proof.Machine

/-- An event of the device: always a next state. (DESIGN CHOICE, unsafe, log 12) -/
def event (f : State → State) (s : State) : Host.Outcome State Fault Refusal := .next (f s)

/-! ## Binding repair (R40) -/

/-- Index of half `h` of physical slab `x` of a bay; `x` and the index of slab 0 are shifted by one. -/
def halfIdx (bay x1 : Nat) (h : Bool) : Nat := (bay * 82 + x1) * 2 + h.toNat

/-- The two physical halves of an enabled site. -/
def State.siteHalves (s : State) (n : Nat) : List Nat :=
  let b := s.bindOf n
  if b.en then [halfIdx (n / 80) (n % 80 + b.l0slab.toNat) b.l0half, halfIdx (n / 80) (n % 80 + b.l1slab.toNat) b.l1half] else []

/-- A half of a site's window that is good and bound to no site: slab code and half, the first in chain order (DESIGN CHOICE, unsafe, log 17). -/
def State.spareHalf (s : State) (n : Nat) : Option (BitVec 2 × Bool) :=
  let bay := n / 80
  let i := n % 80
  [((0 : BitVec 2), false), (0, true), (1, false), (1, true), (2, false), (2, true)].find? fun x =>
    let x1 := i + x.1.toNat
    decide (1 ≤ x1) && decide (x1 ≤ 80) && !(s.badHalves.contains (bay, x1 - 1, x.2)) &&
    !((List.range 80).any fun j => (s.siteHalves (bay * 80 + j)).contains (halfIdx bay x1 x.2))

/-- Order on the chain of a window's halves. -/
def chainRank (x : BitVec 2 × Bool) : Nat := 2 * x.1.toNat + x.2.toNat

/-- A binding with a half kept, with its UNCHK bit, and a spare: logical half 0 is the earlier on the chain (R23). -/
def Bind.rebind (b : Bind) (keep : BitVec 2 × Bool) (un : Bool) (spare : BitVec 2 × Bool) : Bind :=
  let lo := if chainRank keep < chainRank spare then (keep, un) else (spare, false)
  let hi := if chainRank keep < chainRank spare then (spare, false) else (keep, un)
  { b with l0slab := lo.1.1, l0half := lo.1.2, unchk0 := lo.2, l1slab := hi.1.1, l1half := hi.1.2, unchk1 := hi.2 }

/-- The skerry row of a half takes the place of a row: its cells' defects become the row's (R40; DESIGN CHOICE, unsafe, log 17). -/
def steerDefects (p row : Nat) (ds : List Defect) : List Defect :=
  if row = 64 then ds
  else
    (ds.filter fun d => !(d.half == p && d.row == row)).map fun d => if d.half = p ∧ d.row = 64 then { d with row := row } else d

/-- Acting on one faulty row of a physical half at a site (R40). With no spare half, a faulty cell in the skerry row itself sets UNCHK and
steers no row, and a second faulty row of a half whose skerry row is already steered in is left as it is; R40 does not say what happens
in either case (DESIGN CHOICE, unsafe, log 69). -/
def State.repairRow (s : State) (n p row : Nat) : State :=
  let b := s.bindOf n
  match s.siteHalves n with
  | [h0, h1] =>
    if p ≠ h0 ∧ p ≠ h1 then s
    else
      let first := decide (p = h0)
      match s.spareHalf n with
      | some sp =>
        let old := if first then (b.l0slab, b.l0half) else (b.l1slab, b.l1half)
        let b' := if first then b.rebind (b.l1slab, b.l1half) b.unchk1 sp else b.rebind (b.l0slab, b.l0half) b.unchk0 sp
        { s with binds := Tab.set s.binds n b', badHalves := s.badHalves ++ [(n / 80, n % 80 + old.1.toNat - 1, old.2)] }
      | none =>
        if (if first then b.unchk0 else b.unchk1) then s
        else
          { s with
            binds := Tab.set s.binds n (if first then { b with unchk0 := true } else { b with unchk1 := true })
            defects := steerDefects p row s.defects }
  | _ => s

/-- The rows that have been found faulty: site, physical half and row (R204, R205). -/
def State.faultyRows (s : State) : List (Nat × Nat × Nat) :=
  (s.faultyCells.map fun e =>
    (s.siteOf e.2, (s.physHalf e.2 (e.1.getLsbD 17)).1, (e.1.extractLsb' 10 7).toNat)).eraseDups

/-- Boot firmware acts on every faulty row (R40). -/
def State.repair (s : State) : State :=
  { s.faultyRows.foldl (fun s r => s.repairRow r.1 r.2.1 r.2.2) s with faultyCells := [] }

/-! ## Boot (R92) -/

/-- Every fabric port is DOWN. -/
def State.portsDown (s : State) : State :=
  { s with ports := (List.range Config.ports).map fun p => (p, { s.port p with st := .down }) }

/-- The bytes of an image: its stages, one after the other (DESIGN CHOICE, unsafe, log 10). -/
def fwImage (f : Firmware) : List Byte := f.stages.flatten

/-- The checks of step 2. -/
def fwAccepted (f : Firmware) (fused : Nat) : Bool :=
  ((List.range 4).any fun i => !(Config.keyRevoked i) && Config.fusedKeyHash i == sha256 (toBytes f.pubKey.toNat 64)) &&
  Config.ecdsaVerify f.pubKey (sha256 (fwImage f)) f.sig && decide (fused ≤ f.secVer)

/-- A cluster at reset: the derating record stands, and the steps are its MAXSTEP (R31, R34). A retirement under way goes on after warm reset
and power-off, of which R33 says nothing: the mark stands, and the cluster is retired at a clock-change point (DESIGN CHOICE, unsafe, log 69). -/
def Cluster.booted (k : Cluster) : Cluster :=
  { maxStep := k.maxStep, setStep := k.maxStep, curStep := k.maxStep, dcount := k.dcount, retired := k.retired, retiring := k.retiring,
    refs := k.refs }

/-- The DEVID that management assigns; none when its group is above 544, which the device refuses (R58). -/
def givenId (devid : BitVec 15) : Option (BitVec 15) := if 544 < devid.toNat / 32 then none else some devid

/-- Steps 3 to 5, with the DEVID that the device is given; without one its ports stay DOWN (R58, R60, R92; DESIGN CHOICE, unsafe, log 10). -/
def State.boot (s : State) (id : Option (BitVec 15)) : State :=
  let s := { s.repair with bootst := 2, clusters := s.clusters.map fun (e : Nat × Cluster) => (e.1, e.2.booted) }
  match id with
  | none => { s.portsDown with idRefused := true }
  | some devid => { s with devid := devid, idRefused := false }

/-- POWER_ON: power is applied and the device boots (R92). -/
def execPowerOn (s : State) : Host.Outcome State Fault Refusal :=
  event (fun s =>
    if s.powered && s.bootst != 0 then s
    else
      let f := s.inp.fw
      let s := { s with powered := true }
      if fwAccepted f s.secVer then
        { s.boot (givenId (s.inp.src.setWidth 15)) with secVer := Nat.max s.secVer f.secVer, measurements := f.stages.map sha256 }
      else { s.portsDown with bootst := 15 }) s

/-- POWER_OFF: what is not fused or kept by the host is lost; the tidemark log is kept since manufacture (R6, R31, R92, R96; DESIGN CHOICE, unsafe, log 10). -/
def execPowerOff (s : State) : Host.Outcome State Fault Refusal :=
  event (fun s =>
    { State.reset with
      powered := false, cur := s.cur, agenda := s.agenda, focus := s.focus, inp := s.inp, deferStart := s.deferStart
      freeCtr := s.freeCtr, nextKey := s.nextKey, host := s.host, hostLog := s.hostLog
      hbm := { bytes := s.hbm.bytes.filter fun e => decide (0xBF1A000000 ≤ e.1) && decide (e.1 < 0xBF1B000000) }
      tide := s.tide, secVer := s.secVer, binds := s.binds, badHalves := s.badHalves, faultyCells := s.faultyCells
      defects := s.defects, clusters := s.clusters.map fun (e : Nat × Cluster) => (e.1, e.2.booted) }) s

/-- ATTESTATION_REQUEST: the signed reply to a host nonce (R92). -/
def execAttestationRequest (s : State) : Host.Outcome State Fault Refusal :=
  event (fun s =>
    if s.powered && s.bootst == 2 then
      let n := s.inp.nonce
      let d := sha256 (toBytes n.toNat 32 ++ toBytes s.devid.toNat 2 ++ s.measurements.flatMap digestBytes ++
        digestBytes Config.fuseMapHash ++ toBytes s.secVer 4)
      { s with hostLog := s.hostLog ++
          [.attestation n s.devid s.measurements Config.fuseMapHash s.secVer (Config.identitySign d)] }
    else s) s

/-! ## Warm reset (R94) -/

/-- A port after warm reset: it trains again; its per-hop key with the counts of its nonces, and LCTL.PERHOP stand (R77, R94). -/
def Port.warm (p : Port) : Port := {
  hopKey := p.hopKey, perhop := p.perhop, lanesTx := p.lanesTx, seqEpoch := p.seqEpoch, rxEpoch := p.rxEpoch, unseqTx := p.unseqTx
  unseqRx := p.unseqRx }

/-- Every register and table at its reset value, but for those that warm reset keeps. (DESIGN CHOICE, unsafe, log 35) -/
def State.warm (s : State) : State :=
  { State.reset with
    cur := s.cur, agenda := s.agenda, focus := s.focus, inp := s.inp, deferStart := s.deferStart, freeCtr := s.freeCtr
    nextKey := s.nextKey, host := s.host, hostLog := s.hostLog, ftime := s.ftime
    zcl0 := s.zcl0, zcl1 := s.zcl1, winMgmt := s.winMgmt, winLaunch := s.winLaunch, winLog := s.winLog
    hbm := { bytes := s.hbm.bytes, poison := s.hbm.poison, latent := s.hbm.latent }
    tide := s.tide, strand := s.strand, strcount := s.strcount, secVer := s.secVer, measurements := s.measurements
    keyslots := s.keyslots, staging := s.staging, ports := s.ports.map fun (e : Nat × Port) => (e.1, e.2.warm)
    binds := s.binds, badHalves := s.badHalves, faultyCells := s.faultyCells, defects := s.defects
    clusters := s.clusters.map fun (e : Nat × Cluster) => (e.1, e.2.booted) }

/-- A sweep is accepted and incomplete: it stands until its record is written (R89, R94). -/
def State.workInFlight (s : State) : Bool := !s.sweeps.isEmpty

/-- DEVCTL as written: WARMRST = 1 is a warm reset. Boot restarts at step 3, with the same DEVID or, where it was refused, none; a device in
step 1 waits there for its firmware, and one in recovery stays in recovery (R58, R92, R94). (DESIGN CHOICE, unsafe, log 35) -/
def State.writeDevctl (s : State) (v : BitVec 64) : State :=
  if s.powered && v.getLsbD 0 then
    let s := if s.workInFlight then s.deviceFault fHOSTRESET else s
    if s.bootst = 15 then { s.warm.portsDown with bootst := 15 }
    else if s.bootst = 0 then s.warm
    else s.warm.boot (if s.idRefused then none else some s.devid)
  else s

/-- DEVCTL_WARMRST: a write with WARMRST = 1 (R94). -/
def execDevctlWarmrst (s : State) : Host.Outcome State Fault Refusal := event (fun s => s.writeDevctl (s.inp.v.setWidth 64)) s

/-! ## The tidemark log's command (R97) -/

/-- The checks of a command of 128 bytes. -/
def State.truncateOk (s : State) (bs : List Byte) : Bool :=
  let newHead := field bs 8 8
  bs.length == 128 && field bs 0 4 == 1 && field bs 4 4 == 0 && field bs 16 8 == s.tide.nonce.toNat && field bs 24 40 == 0 &&
  Config.ecdsaVerify Config.operatorKey (sha256 (bs.take 64)) (leBits 512 (bs.drop 64)) &&
  decide (s.tide.head ≤ newHead) && decide (newHead ≤ s.tide.tail)

/-- The value that TMNONCE takes after a command: another one (R96; DESIGN CHOICE, safe, log 9). -/
def nextNonce (old : BitVec 64) (n : Nat) : BitVec 64 :=
  if Config.freeNonce n = old then old + 1 else Config.freeNonce n

/-- A command of some bytes written to TMCMD (R97). -/
def State.writeTmcmd (s : State) (bs : List Byte) : State :=
  if s.powered && s.bootst != 15 then
    let nonce := nextNonce s.tide.nonce s.freeCtr
    let s' :=
      if s.truncateOk bs then
        let h := field bs 8 8
        let old := s.tide.head
        let base : BitVec 256 := leBits 256 (s.tideChain h).reverse
        { s with tide := { s.tide with basehash := base, head := h } }.tideUpTo 262144 0x0101 0 (toBytes old 6 ++ toBytes h 6)
      else s
    { s' with tide := { s'.tide with nonce := nonce }, freeCtr := s.freeCtr + 1 }
  else s

/-- TMCMD_TRUNCATE (R97). -/
def execTmcmdTruncate (s : State) : Host.Outcome State Fault Refusal := event (fun s => s.writeTmcmd s.inp.bytes) s

/-! ## Ageing (R31, R33) -/

/-- The references of a cluster's eight monitors. -/
def Cluster.references (k : Cluster) (c : Nat) : List Nat :=
  if k.refs.isEmpty then (List.range 8).map (Config.birthCount c) else k.refs

/-- A sample is past the limit: for some monitor the count falls short of the reference by more than DLIM. -/
def driftPast (refs counts : List Nat) : Bool :=
  (List.zip counts refs).any fun e => decide (e.1 * 1000000 < e.2 * (1000000 - Config.driftLimit))

/-- A unit has a core in a cluster. -/
def State.unitIn (s : State) (u c : Nat) : Bool := (List.range (s.core u).mode.size).any fun i => (u + i) / 18 == c

/-- Units with a tenant on a cluster. -/
def State.tenantsOn (s : State) (c : Nat) : List Nat :=
  (s.cores.filter fun e => e.2.tenant.isSome && !e.2.clearing && s.unitIn e.1 c).map fun e => e.1

/-- Units that hold tasks on a cluster. -/
def State.unitsOn (s : State) (c : Nat) : List Nat :=
  (s.cores.filter fun e => e.2.busy && !e.2.clearing && s.unitIn e.1 c).map fun e => e.1

/-- Units that a sweep's images are being restored on. -/
def State.restoring (s : State) (id : BitVec 32) : List Nat := s.images.filterMap fun i => if i.sweep = id then i.target else none

/-- A unit that is pre-empted takes a CORESIDENT sweep's other units with it, also those being restored (R163). -/
def State.wholeSweep (s : State) (u : Nat) : List Nat :=
  match (s.core u).tenant.bind s.sweep with
  | some w => if w.rec'.coresident then (u :: (s.unitsHolding w.id ++ s.restoring w.id)).eraseDups else [u]
  | none => [u]

/-- Placement on a cluster stops, claims on it lapse, and its tasks are pre-empted for retirement (R33, R163). A unit for whose image no range
of the area is free, of which R193 does not speak, runs on and is not tried again; the cluster is retired once its tasks have ended
(DESIGN CHOICE, unsafe, log 69). -/
def State.retireCluster (s : State) (c : Nat) : State :=
  let s := s.setCluster c { s.cluster c with retiring := true }
  let s := { s with cores := s.cores.map fun (e : Nat × Core) => (e.1, if e.1 / 18 = c then { e.2 with claim := none } else e.2) }
  ((s.tenantsOn c).flatMap s.wholeSweep).eraseDups.foldl
    (fun s u => (s.startPreempt u 1 (s.core u).queue.length).getD s) s

/-- AGEING_SAMPLE (R31, R33). -/
def execAgeingSample (s : State) : Host.Outcome State Fault Refusal :=
  event (fun s =>
    let c := s.inp.cluster
    let k := s.cluster c
    if s.powered && !s.stopped && decide (c < Config.clusters) && s.inp.counts.length == 8 && !k.retired && !k.retiring &&
        driftPast (k.references c) s.inp.counts then
      if k.maxStep = 0 then s.retireCluster c
      else
        (s.setCluster c { k with maxStep := k.maxStep - 1, dcount := k.dcount + 1, refs := s.inp.counts }).strandEvent 0x04 c
          (toBytes (k.maxStep - 1) 1)
    else s) s

/-! ## Clocks (R30, R32, R34, R38) -/

/-- CLK of a cluster as written: a SETSTEP above MAXSTEP stores MAXSTEP (R34). -/
def State.writeClk (s : State) (c : Nat) (v : BitVec 64) : State :=
  let k := s.cluster c
  if s.powered && s.bootst != 15 && decide (c < Config.clusters) then
    s.setCluster c { k with setStep := Nat.min (v.extractLsb' 8 6).toNat k.maxStep }
  else s

/-- CLK_SETSTEP_WRITE (R34). -/
def execClkSetstepWrite (s : State) : Host.Outcome State Fault Refusal :=
  event (fun s => s.writeClk s.inp.cluster (s.inp.v.setWidth 64)) s

/-- The least of SETSTEP, MAXSTEP and any throttle limit (R34). -/
def Cluster.target (k : Cluster) : Nat := Nat.min (Nat.min k.setStep k.maxStep) (k.limit.getD k.maxStep)

/-- SETSTEP and CURSTEP at a clock-change point; a change of step relocks the generator (R32, R34). -/
def Cluster.changed (k : Cluster) : Cluster :=
  let k := { k with setStep := Nat.min k.setStep k.maxStep }
  if k.target = k.curStep then k else { k with curStep := k.target, relocking := true }

/-- A cluster whose tasks are all saved is retired (R33). -/
def State.finishRetire (s : State) (c : Nat) : State :=
  let k := s.cluster c
  if k.retiring && !k.retired && (s.unitsOn c).isEmpty then
    (s.setCluster c { k with retired := true }).strandEvent 0x05 c []
  else s

/-- CLOCK_CHANGE_POINT (R32, R33, R34). -/
def execClockChangePoint (s : State) : Host.Outcome State Fault Refusal :=
  event (fun s =>
    let c := s.inp.cluster
    if s.powered && !s.stopped && decide (c < Config.clusters) && !(s.cluster c).relocking then
      (s.setCluster c (s.cluster c).changed).finishRetire c
    else s) s

/-- CLOCK_RELOCK_COMPLETE: issue goes on (R32). -/
def execClockRelockComplete (s : State) : Host.Outcome State Fault Refusal :=
  event (fun s =>
    if (s.cluster s.inp.cluster).relocking then s.setCluster s.inp.cluster { s.cluster s.inp.cluster with relocking := false } else s) s

/-- THERMAL_THROTTLE: a cluster's junction is at 105 °C or more; the input holds the temperature (R38). -/
def execThermalThrottle (s : State) : Host.Outcome State Fault Refusal :=
  event (fun s =>
    let c := s.inp.cluster
    let k := s.cluster c
    if s.powered && !s.stopped && decide (c < Config.clusters) && decide (105 ≤ s.inp.v.toNat) then
      s.setCluster c { k with throt := true, climb := false, limit := some (k.limit.getD k.curStep) }
    else s) s

/-- One step of a throttled cluster: down until the junction is below 100 °C, then up to SETSTEP (R38). (DESIGN CHOICE, unsafe, log 34) -/
def Cluster.throttle (k : Cluster) (temp : Nat) : Cluster :=
  match k.limit with
  | none => k
  | some l =>
    if k.climb || decide (temp < 100) then
      if k.setStep ≤ l + 1 then { k with throt := false, climb := false, limit := none }
      else { k with climb := true, limit := some (l + 1) }
    else { k with limit := some (Nat.min l k.curStep - 1) }

/-- THROTTLE_STEP: one 100 µs clock-change point of a throttled cluster; the input holds the temperature (R38). -/
def execThrottleStep (s : State) : Host.Outcome State Fault Refusal :=
  event (fun s =>
    let c := s.inp.cluster
    let k := s.cluster c
    if s.powered && !s.stopped && k.throt then s.setCluster c (k.throttle s.inp.v.toNat).changed else s) s

/-- THERMAL_TRIP: every clock stops, with a device-level fault; the ports are DOWN (R38, R93, R108). -/
def execThermalTrip (s : State) : Host.Outcome State Fault Refusal :=
  event (fun s => if s.powered && !s.stopped then { (s.deviceFault fTHERMAL).portsDown with stopped := true } else s) s

/-! ## Matrix gating (R35) -/

/-- A unit's array, or a member's of a gang, is awake, and no member's is being gated or woken: there is something to gate (R35). -/
def State.mayGate (s : State) (c : Nat) : Bool :=
  let gates := (List.range (s.core c).mode.size).map fun i => (s.core (c + i)).gate
  gates.contains .awake && !gates.contains .gating && !gates.contains .waking

/-- MATRIX_AUTOIDLE_GATE: the MX queue of the unit that a core stands in has been empty and its array idle for AUTOIDLE cycles; every
member's array is gated (R35). -/
def execMatrixAutoidleGate (s : State) : Host.Outcome State Fault Refusal :=
  event (fun s =>
    let c := s.leaderOf s.inp.core
    let k := s.core c
    if k.autoIdle ≠ 0 ∧ s.mayGate c ∧ !(k.queue.any fun q => q.eng == .mx) then s.setGate c .gating else s) s

/-- MATRIX_GATING_DONE, of the unit that a core stands in (R35, R406). -/
def execMatrixGatingDone (s : State) : Host.Outcome State Fault Refusal :=
  event (fun s =>
    let c := s.leaderOf s.inp.core
    if s.arrayGate c = .gating then s.setGate c .gated else s) s

/-- MATRIX_WAKE_DONE: WAKE cycles of the unit that a core stands in have passed (R35). -/
def execMatrixWakeDone (s : State) : Host.Outcome State Fault Refusal :=
  event (fun s =>
    let c := s.leaderOf s.inp.core
    if s.arrayGate c = .waking then s.setGate c .awake else s) s

end Sys2Proof.Machine
end

