-- ==== Sys2Proof/Machine/Ebb.lean ====
section
/-! DEFINITION. The ebb tree and its generation switch: the tree of the live links, the switch, its drain markers and its end (R58, R69, R71). -/

namespace Sys2Proof.Machine

/-- Group and position of a DEVID. -/
def groupId (d : Nat) : Nat := d / 32
def posOf (d : Nat) : Nat := d % 32

/-- This device's DEVID. -/
def State.here (s : State) : Nat := s.devid.toNat

/-! ## The generation switch (R69, R71) -/

/-- Both directions of each live link: from a device and port to a device and port. -/
def linkEnds (ls : List LinkRec) : List (Nat × Nat × Nat × Nat) := ls.flatMap fun l => [(l.d1, l.p1, l.d2, l.p2), (l.d2, l.p2, l.d1, l.p1)]

/-- One layer of the tree: each device next to the last layer joins through its lowest neighbour there and that neighbour's lowest port. -/
def treeLayer (ends : List (Nat × Nat × Nat × Nat)) (seen layer : List Nat) : List (Nat × Nat × Nat × Nat) :=
  let cand := ends.filter fun e => layer.contains e.1 && !(seen.contains e.2.2.1)
  (cand.map fun e => e.2.2.1).eraseDups.filterMap fun d =>
    (cand.filter fun e => e.2.2.1 == d).foldl (fun best e =>
      match best with
      | none => some e
      | some b => if e.1 < b.1 ∨ (e.1 = b.1 ∧ e.2.1 < b.2.1) then some e else best) none

/-- The tree: for each device but the root, the link by which it joined. -/
def growTree (ends : List (Nat × Nat × Nat × Nat)) : Nat → List Nat → List Nat → List (Nat × Nat × Nat × Nat)
  | 0, _, _ => []
  | fuel + 1, seen, layer =>
    let new := treeLayer ends seen layer
    if new.isEmpty then []
    else
      let ds := new.map fun e => e.2.2.1
      new ++ growTree ends fuel (seen ++ ds) ds

/-- The root: the lowest live DEVID (R69). -/
def treeRoot (here : Nat) (ls : List LinkRec) : Nat := (linkEnds ls).foldl (fun m e => Nat.min m e.1) here

/-- The child of a device on the way down to another one, with the port to it. -/
def childTo (tree : List (Nat × Nat × Nat × Nat)) (here : Nat) : Nat → Nat → Option Nat
  | 0, _ => none
  | fuel + 1, d =>
    match tree.find? fun e => e.2.2.1 == d with
    | none => none
    | some e => if e.1 = here then some e.2.1 else childTo tree here fuel e.1

/-- A device's ebb entries for every live destination (R69). -/
def ebbTable (here : Nat) (ls : List LinkRec) : List (Nat × Byte) :=
  let root := treeRoot here ls
  let ends := linkEnds ls
  let tree := growTree ends (ends.length + 1) [root] [root]
  let up := (tree.find? fun e => e.2.2.1 == here).map fun e => e.2.2.2
  (here, 0x80) :: ((root :: tree.map fun e => e.2.2.1).filter fun d => d != here).filterMap fun d =>
    match childTo tree here (tree.length + 1) d with
    | some n => some (d, 0xC0 ||| BitVec.ofNat 8 n)
    | none => up.map fun n => (d, 0x80 ||| BitVec.ofNat 8 n)

/-- Step 1 of a switch: the new tree goes into the idle bank (R71). -/
def State.startSwitch (s : State) : State :=
  let lo := (!s.router.egen).toNat * 32768
  let m := (ebbTable s.here s.router.links).foldl (fun m e => Sparse.set m (lo + e.1) e.2) (Sparse.clear s.router.ebb lo 32768)
  { s with router := { s.router with ebb := m, switchOpen := true, again := false } }

/-- Two link-state maps hold the same links, whichever end each record names first. -/
def sameLinks (a b : List LinkRec) : Bool :=
  let sub := fun (a b : List LinkRec) => a.all fun l => b.contains l || b.contains ⟨l.d2, l.p2, l.d1, l.p1⟩
  sub a b && sub b a

/-- A change of the live links: a switch starts, or waits for the open one to close (R71). -/
def State.linksChanged (s : State) (ls : List LinkRec) : State :=
  if sameLinks ls s.router.links then s
  else
    let s := { s with router := { s.router with links := ls } }
    if s.router.switchOpen then { s with router := { s.router with again := true } } else s.startSwitch

/-- When every port has sent and received its marker, DRAINING clears, the markers count no more, and the root is told (R71). -/
def State.drainDone (s : State) : State :=
  if s.router.draining && (List.range Config.ports).all fun n => (s.port n).drainSent && (s.port n).drainRecv then
    { s with
      router := { s.router with draining := false, reported := true }
      ports := s.ports.map fun (e : Nat × Port) => (e.1, { e.2 with drainSent := false, drainRecv := false }) }
  else s

/-- While the old generation drains, a port that is not ACTIVE counts as having sent and received its marker; draining may end by it (R71). -/
def State.settleDrain (s : State) : State :=
  if s.router.draining then
    ((List.range Config.ports).foldl (fun (t : State) (n : Nat) =>
      if (t.port n).st = PortSt.active then t else t.setPort n { t.port n with drainSent := true, drainRecv := true }) s).drainDone
  else s

/-- Ports of the old tree: up to the parent, down to children (R69, R71). -/
def State.oldPorts (s : State) (down : Bool) : List Nat :=
  let lo := (!s.router.egen).toNat * 32768
  ((s.router.ebb.filter fun e => decide (lo ≤ e.1) && decide (e.1 < lo + 32768) && e.2.getLsbD 7 && e.2.getLsbD 6 == down &&
      e.1 - lo != s.here).map fun e => (e.2.extractLsb' 0 6).toNat).eraseDups

/-- The conditions of DRAIN(g) on a port: no packet of the old generation is held for it, in the router or cut into flits (R71). -/
def State.mayDrain (s : State) (n : Nat) : Bool :=
  let old := !s.router.egen
  let mine := !(s.router.held.any fun h => decide (6 ≤ h.vc.toNat) && h.pkt.egen == old && (h.next == some n || h.next.isNone)) &&
    !((s.port n).pend.any fun e => decide (6 ≤ e.2.1.toNat))
  let up := s.oldPorts false
  let down := s.oldPorts true
  s.router.draining && mine &&
  (if up.contains n then down.all fun m => (s.port m).drainRecv
   else if down.contains n then (up ++ down.filter fun m => m != n).all fun m => (s.port m).drainRecv
   else true)

/-- FLIP: EGEN names the new bank and the old generation drains; a marker that came before this device's own flip counts (R71). -/
def State.flip (s : State) : State :=
  if s.router.switchOpen && !s.router.draining && !s.router.reported then
    { s with router := { s.router with egen := !s.router.egen, draining := true } }.settleDrain
  else s

/-- This device's own live links, as its neighbours' training words named them (R58, R69). -/
def State.ownLinks (s : State) : List LinkRec :=
  ((List.range Config.ports).filter fun n => (s.port n).st == .active).map fun n =>
    ⟨s.here, n, (s.port n).peerId.toNat, (s.port n).peerPort.toNat⟩

/-- The state of a port has changed: a change of this device's own live links opens a switch or waits for the open one (R71). -/
def State.portChanged (s : State) : State :=
  (s.linksChanged ((s.router.links.filter fun l => l.d1 != s.here && l.d2 != s.here) ++ s.ownLinks)).settleDrain

end Sys2Proof.Machine
end

