-- ==== Sys2Proof/Machine/Link.lean ====
section
/-! DEFINITION. The fabric link: flits, codeword rows, credits, retry, lane-map changes, training and the port registers (R41 to R57, R77). -/

namespace Sys2Proof

/-- A lane marker: LANE, MAP, PROP and ODD (R43). -/
def laneMarker (lane : Nat) (map prop : BitVec 8) (odd : Bool) : BitVec 20 :=
  BitVec.ofNat 3 lane ++ (map ++ (prop ++ BitVec.ofBool odd))

/-- The fields of a received marker (R43). -/
def LaneWord.map (w : LaneWord) : BitVec 8 := w.marker.extractLsb' 9 8
def LaneWord.prop (w : LaneWord) : BitVec 8 := w.marker.extractLsb' 1 8
def LaneWord.odd (w : LaneWord) : Bool := w.marker.getLsbD 0

end Sys2Proof

namespace Sys2Proof.Machine

/-! ## Packets as bytes (R61) -/

/-- The 48 bytes of a header. -/
def Packet.header (p : Packet) : List Byte :=
  [p.ptype, p.flags] ++ toBytes p.dst.toNat 2 ++ toBytes p.src.toNat 2 ++ toBytes p.intm.toNat 2 ++ [p.hops, p.status] ++
  toBytes p.len.toNat 2 ++ toBytes p.tag.toNat 2 ++ toBytes p.keyslot.toNat 2 ++ toBytes p.addr.toNat 10 ++ toBytes p.opx.toNat 2 ++
  toBytes p.cidx.toNat 2 ++ toBytes p.ccnt.toNat 2 ++ toBytes p.token.toNat 8 ++ toBytes p.aux.toNat 8

/-- A packet's bytes: header, payload, and the trailer of a confidential one. -/
def Packet.bytes (p : Packet) : List Byte :=
  Packet.header p ++ p.payload ++
  (match p.trailer with
   | some (ctr, tag) => toBytes ctr.toNat 8 ++ (toBytes tag.toNat 16).reverse
   | none => [])

/-- A packet from the bytes of its flits. -/
def packetOf (bs : List Byte) : Packet :=
  let p : Packet :=
    { ptype := bits 8 bs 0 1, flags := bits 8 bs 1 1, dst := bits 16 bs 2 2, src := bits 16 bs 4 2, intm := bits 16 bs 6 2
      hops := bits 8 bs 8 1, status := bits 8 bs 9 1, len := bits 16 bs 10 2, tag := bits 16 bs 12 2, keyslot := bits 16 bs 14 2
      addr := bits 80 bs 16 10, opx := bits 16 bs 26 2, cidx := bits 16 bs 28 2, ccnt := bits 16 bs 30 2, token := bits 64 bs 32 8
      aux := bits 64 bs 40 8 }
  let n := p.carried
  let pay := (bs.drop 48).take n
  let rest := bs.drop (48 + n)
  { p with
    payload := pay
    trailer := if p.conf then some (bits 64 rest 0 8, bits 128 ((rest.drop 8).take 16).reverse 0 16) else none }

/-- Flits of a packet: type and body (R45). -/
def bodies : Nat → Bool → List Byte → List (BitVec 3 × BitVec 512)
  | 0, _, _ => []
  | fuel + 1, first, bs =>
    if bs.length ≤ 64 then [(if first then 4 else 3, leBits 512 bs)]
    else (if first then 1 else 2, leBits 512 (bs.take 64)) :: bodies fuel false (bs.drop 64)

/-- Flits of a packet. -/
def Packet.flits (p : Packet) : List (BitVec 3 × BitVec 512) := bodies 8 true (Packet.bytes p)

/-! ## Flits (R44, R77) -/

def Flit.ftype (f : Flit) : BitVec 3 := f.extractLsb' 29 3
def Flit.vc (f : Flit) : BitVec 3 := f.extractLsb' 26 3
def Flit.seq (f : Flit) : BitVec 12 := f.extractLsb' 14 12
def Flit.ack (f : Flit) : BitVec 12 := f.extractLsb' 2 12
def Flit.crd (f : Flit) : BitVec 2 := f.extractLsb' 0 2
def Flit.body (f : Flit) : BitVec 512 := f.extractLsb' 32 512

/-- The first `n` bytes of a flit. -/
def Flit.bytes (f : Flit) (n : Nat) : List Byte := toBytes f.toNat n

/-- The nonce of a direction and counter: sender's identity and port, then the counter (R77; DESIGN CHOICE, unsafe, log 10). -/
def hopNonce (devid : BitVec 15) (port ctr : Nat) : List Byte :=
  toBytes devid.toNat 2 ++ toBytes port 2 ++ (toBytes ctr 8).reverse

/-- The first 32 bits of a GCM tag as a flit's last bytes (R77). -/
def hopTag (tag : BitVec 128) : BitVec 32 := leBits 32 ((toBytes tag.toNat 16).reverse.take 4)

/-- A flit: header, body and CRC; under per-hop encryption the body is sealed and the tag takes the place of the CRC (R44, R77). -/
def mkFlit (key : Option (BitVec 256 × List Byte)) (ty : BitVec 3) (vc : BitVec 3) (seq ack : BitVec 12) (crd : BitVec 2)
    (body : BitVec 512) : Flit :=
  let h : BitVec 32 := ty ++ (vc ++ (seq ++ (ack ++ crd)))
  let hb := toBytes h.toNat 4
  let bb := toBytes body.toNat 64
  match key with
  | none => crc32c (hb ++ bb) ++ (body ++ h)
  | some (k, nonce) =>
    let (ct, tag) := gcmSeal k nonce hb bb
    hopTag tag ++ (leBits 512 ct ++ h)

/-- A received flit with its body in clear; none when its CRC or tag fails or its TYPE is 7 (R44, R45, R77). -/
def openFlit (key : Option (BitVec 256 × List Byte)) (f : Flit) : Option Flit :=
  if f.ftype = 7 then none
  else
    match key with
    | none => if crc32c (f.bytes 68) = f.extractLsb' 544 32 then some f else none
    | some (k, nonce) =>
      let ks := aesKeys (keyBytes k)
      let ct := (f.bytes 68).drop 4
      if hopTag (gcmTag ks nonce (f.bytes 4) ct) = f.extractLsb' 544 32 then
        let pt : BitVec 512 := leBits 512 (gcmCrypt ks nonce 2 (blocks16 ct))
        some (f.extractLsb' 544 32 ++ (pt ++ f.extractLsb' 0 32))
      else none

/-! ## Training starts (R54) -/

/-- Ports may train: the device runs, has booted, and has an identity (R58, R92). -/
def State.canTrain (s : State) : Bool := s.powered && !s.stopped && s.bootst == 2 && !s.idRefused

/-- A port starts training; `keep` keeps the sequence state and the retry buffer (R54). A fresh training also empties what has not yet been
sent for the first time, since a packet may have begun, and LSTAT shows the last maps until new ones are computed. The window begins anew, under
the thresholds in force: R57 does not say whether that is a window boundary (DESIGN CHOICE, unsafe, log 67). -/
def Port.train (p : Port) (keep : Bool) : Port :=
  let p := { p with
    st := .training, phase := .speed, keepSeq := keep, gotReady := false, sentReady := false, backoff := false, idBad := false
    txchg := false, rxchg := false, txNew := none, txHeld := none, rxProp := none, propSeen := none, lanesRx := 0
    rxBytes := [], txBytes := [], ctl := [], awaiting := false, winCnt := [], winRows := 0, winLive := 0, consec := [], clean := []
    lockLost := []
    sameReplay := 0 }
  if keep then p
  else { p with
    txSeq := 0, retry := [], ackRecv := 0xFFF, pend := [], rxExpect := 0, rxLast := 0xFFF, credDue := [], asm := [] }

/-- A port trains, when ports may (R54, R71). -/
def State.trainPort (s : State) (n : Nat) (keep : Bool) : State :=
  if s.canTrain then (s.setPort n ((s.port n).train keep)).portChanged else s

/-- Lanes of a mask. -/
def lanesOf (m : BitVec 8) : List Nat := (List.range 8).filter fun i => m.getLsbD i

/-- Width of a mask. -/
def width (m : BitVec 8) : Nat := (lanesOf m).length

/-! ## Codeword rows that go out (R42, R43, R46) -/

/-- Every w-th byte of a list, from the first on. -/
def everyNth (w : Nat) : Nat → List Byte → List Byte
  | 0, _ => []
  | fuel + 1, l =>
    match l with
    | [] => []
    | b :: _ => b :: everyNth w fuel (l.drop w)

/-- A row of 640 × W stream bytes: byte k on the (k mod W)-th active lane behind its marker; a shed lane sends the training sequence
(R42, R43, R46, R52). -/
def Port.rowOf (p : Port) (bs : List Byte) : List (Nat × LaneOut) :=
  let act := lanesOf p.txmap
  let prop := match p.rxProp with | some (m, _) => m | none => p.rxmap
  (lanesOf p.lanesTx).map fun i =>
    (i, if p.txmap.getLsbD i then
          .codeword (laneMarker i p.txmap prop p.txOdd) (everyNth act.length 640 (bs.drop (act.findIdx fun j => j == i)))
        else .training)

/-- The rows that the stream fills. -/
def cutRows : Nat → Port → Port
  | 0, p => p
  | fuel + 1, p =>
    let n := 640 * width p.txmap
    if n = 0 ∨ p.txBytes.length < n then p
    else
      cutRows fuel
        { p with rows := p.rows ++ [p.rowOf (p.txBytes.take n)], txBytes := p.txBytes.drop n, txOdd := !p.txOdd }

/-- The rest of a row that has begun is zero bytes (R51). -/
def Port.fillRow (p : Port) : Port :=
  if p.txBytes.isEmpty then p
  else cutRows 1 { p with txBytes := p.txBytes ++ zeros (640 * width p.txmap - p.txBytes.length) }

/-- Flits go out: the stream is continuous across them (R46). -/
def Port.emit (p : Port) (fs : List Flit) : Port :=
  cutRows (fs.length + 1)
    { p with sent := p.sent ++ fs, txBytes := p.txBytes ++ fs.flatMap fun f => toBytes (BitVec.toNat f) 72 }

/-! ## Sending (R47 to R49) -/

/-- The key and nonce of an outgoing flit (R77). -/
def State.txKey (s : State) (n : Nat) (ctr : Nat) : Option (BitVec 256 × List Byte) :=
  let p := s.port n
  if p.perhopOn then some (p.hopKey, hopNonce s.devid n ctr) else none

/-- Sending one unsequenced flit. -/
def State.sendCtl (s : State) (n : Nat) (ty : BitVec 3) (body : BitVec 512) : State :=
  let p := s.port n
  let f := mkFlit (s.txKey n (2 ^ 63 + p.unseqTx)) ty 0 p.txSeq p.rxLast 0 body
  s.setPort n { p.emit [f] with unseqTx := if p.perhopOn then p.unseqTx + 1 else p.unseqTx }

/-- A LANE flit's body: OP and mask (R45). -/
def laneBody (op : Nat) (m : BitVec 8) : BitVec 512 := leBits 512 (toBytes op 1 ++ [m])

/-- An unsequenced flit waits to be sent. -/
def State.queueCtl (s : State) (n : Nat) (ty : BitVec 3) (body : BitVec 512) : State :=
  s.setPort n { s.port n with ctl := (s.port n).ctl ++ [(ty, body)] }

/-- Credits of a channel after training (R47). -/
def vcCapacity (vc : Nat) : Nat := if vc < 6 then 128 else 192

/-- Credits that the transmitter holds. -/
def Port.credit (p : Port) (vc : BitVec 3) : Nat := Tab.get 0 p.cred vc.toNat

/-- Buffers that this receiver has freed and not yet returned. -/
def Port.due (p : Port) (vc : Nat) : Nat := Tab.get 0 p.credDue vc

/-- A packet's flits wait for their first transmission on a channel. -/
def State.queuePacket (s : State) (n : Nat) (vc : BitVec 3) (p : Packet) : State :=
  s.setPort n { s.port n with pend := (s.port n).pend ++ (Packet.flits p).map fun f => (f.1, vc, f.2) }

/-- Sending a sequenced flit for the first time (R47, R49). -/
def State.sendSeq (s : State) (n : Nat) (ty vc : BitVec 3) (body : BitVec 512) : State :=
  let p := s.port n
  let rv := p.txSeq.toNat % 8
  let crd := Nat.min 3 (p.due rv)
  let f := mkFlit (s.txKey n (p.seqEpoch * 4096 + p.txSeq.toNat)) ty vc p.txSeq p.rxLast (BitVec.ofNat 2 crd) body
  s.setPort n { p.emit [f] with
    retry := p.retry ++ [(p.txSeq, f)], txSeq := p.txSeq + 1
    seqEpoch := if p.txSeq = 0xFFF then p.seqEpoch + 1 else p.seqEpoch
    cred := Tab.set p.cred vc.toNat (p.credit vc - 1)
    credDue := Tab.set p.credDue rv (p.due rv - crd)
    pend := p.pend.erase (ty, vc, body) }

/-- An IDLE flit returns every credit that is due (R45, R47). -/
def State.sendIdle (s : State) (n : Nat) : State :=
  let p := s.port n
  let body := leBits 512 ((List.range 8).flatMap fun v => toBytes (p.due v) 2)
  (s.setPort n { p with credDue := [] }).sendCtl n 0 body

/-- FLIT_TRANSMIT: a control flit; else the first waiting flit whose channel holds a credit, unless 512 are unacknowledged; else IDLE (R45, R47, R49). -/
def execFlitTransmit (s : State) : Host.Outcome State Fault Refusal :=
  event (fun s =>
    let n := s.inp.port
    let p := s.port n
    if p.st ≠ .active ∨ s.stopped then s
    else
      match p.ctl with
      | (ty, body) :: rest => (s.setPort n { p with ctl := rest }).sendCtl n ty body
      | [] =>
        match (if p.retry.length < 512 then p.pend.find? fun e => p.credit e.2.1 != 0 else none) with
        | some (ty, vc, body) => s.sendSeq n ty vc body
        | none => s.sendIdle n) s

/-- A replay starts: REPLAYS counts it, and every buffered flit is sent again, byte for byte (R49, R57); nothing buffered, nothing replayed. -/
def Port.resendAll (p : Port) : Port :=
  if p.retry.isEmpty then p
  else
    { p with replays := if p.replays = BitVec.allOnes 32 then p.replays else p.replays + 1 }.emit (p.retry.map fun (e : BitVec 12 × Flit) => e.2)

/-- A replay: the eighth that starts at the same flit retrains the port (R49, R54). -/
def State.replay (s : State) (n : Nat) : State :=
  let p := s.port n
  match p.retry with
  | [] => s
  | (q, _) :: _ =>
    let same := if p.sameReplay ≠ 0 ∧ p.replayAt = q then p.sameReplay + 1 else 1
    let s := s.setPort n { p.resendAll with sameReplay := same, replayAt := q }
    if 8 ≤ same then s.trainPort n true else s

/-- REPLAY_TIMEOUT: ACK has not advanced for 2 µs while flits are buffered (R49). -/
def execReplayTimeout (s : State) : Host.Outcome State Fault Refusal :=
  event (fun s => if (s.port s.inp.port).st = .active ∧ !s.stopped then s.replay s.inp.port else s) s

/-- RETRY_RESEND_TIMEOUT: another RETRY (R48). -/
def execRetryResendTimeout (s : State) : Host.Outcome State Fault Refusal :=
  event (fun s =>
    let p := s.port s.inp.port
    if p.st = .active ∧ p.awaiting then s.queueCtl s.inp.port 5 0 else s) s

/-! ## Lane-map changes (R50 to R53) -/

/-- A lane-map change event: direction (0 transmit, 1 receive), old and new map (R95; DESIGN CHOICE, unsafe, log 25). -/
def State.mapEvent (s : State) (n : Nat) (dir : Byte) (old new : BitVec 8) : State := s.strandEvent 0x02 n [dir, old, new]

/-- This end proposes a mask for its receive direction; fewer than two lanes retrain the port (R51). -/
def State.proposeRx (s : State) (n : Nat) (m : BitVec 8) (adm : Bool) : State :=
  let p := s.port n
  if width m < 2 then s.trainPort n false
  else if p.rxProp = some (m, adm) ∨ m = p.rxmap then s
  else (s.setPort n { p with rxProp := some (m, adm), rxchg := true }).queueCtl n 6 (laneBody (if adm then 4 else 1) m)

/-- The transmitter switches to a proposed mask: zeros fill the row; the next row carries the new MAP, COMMIT first, then the replay from the
first unacknowledged flit, which counts towards no limit (R51). -/
def State.switchTx (s : State) (n : Nat) (m : BitVec 8) : State :=
  let p := s.port n
  let s := (s.setPort n { p.fillRow with txmap := m, txchg := true, txNew := some m }).mapEvent n 0 p.txmap m
  let s := s.sendCtl n 6 (laneBody 2 m)
  s.setPort n (s.port n).resendAll

/-- A proposal is accepted, or held until DONE while a change is open (R51). -/
def State.acceptTx (s : State) (n : Nat) (m : BitVec 8) (adm : Bool) : State :=
  let p := s.port n
  if width m < 2 then s
  else
    match p.txNew with
    | some x => if x = m then s else s.setPort n { p with txHeld := some (m, adm) }
    | none => if m = p.txmap then s else s.switchTx n m

/-- DONE closes the change; a held proposal then starts a new one (R51). -/
def State.closeTx (s : State) (n : Nat) : State :=
  let p := s.port n
  let s := s.setPort n { p with txchg := false, txNew := none, txHeld := none }
  match p.txHeld with
  | some (m, a) => s.acceptTx n m a
  | none => s

/-- The receiver adopts a map: what is left of the rows before goes, DONE is sent, and PROP is the map again (R51). The counts of the window
go on; a lane that was active in it has no clean window (R50, R52). -/
def State.adoptRx (s : State) (n : Nat) (m : BitVec 8) : State :=
  let p := s.port n
  if m = p.rxmap then s
  else
    let open' := match p.rxProp with | some (x, _) => x != m | none => false
    let s := (s.setPort n { p with
      rxmap := m, rxBytes := [], rxProp := if open' then p.rxProp else none, rxchg := open'
      winLive := p.winLive ||| m, clean := p.clean.filter fun e => !(m.getLsbD e.1) }).mapEvent n 1 p.rxmap m
    s.queueCtl n 6 (laneBody 3 m)

/-! ## Receiving flits (R44 to R49) -/

/-- The sender's key and nonce of a received flit (R77). -/
def State.rxKey (s : State) (n : Nat) (f : Flit) : Option (BitVec 256 × List Byte) :=
  let p := s.port n
  if p.perhopOn then
    let ctr :=
      if 1 ≤ f.ftype.toNat ∧ f.ftype.toNat ≤ 4 then
        let behind := (p.rxExpect - f.seq).toNat
        let at' := p.rxEpoch * 4096 + p.rxExpect.toNat
        if behind ≤ 512 then at' - behind else at' + (4096 - behind)
      else 2 ^ 63 + p.unseqRx
    some (p.hopKey, hopNonce p.peerId p.peerPort.toNat ctr)
  else none

/-- An ACK that covers more than the last one received (R48, R49). -/
def Port.takeAck (p : Port) (a : BitVec 12) : Port :=
  let d := (a - p.ackRecv).toNat
  if 1 ≤ d ∧ d ≤ p.retry.length then { p with ackRecv := a, retry := p.retry.drop d, sameReplay := 0 } else p

/-- A failure: one RETRY until the expected flit arrives (R48). -/
def State.linkFailure (s : State) (n : Nat) : State :=
  let p := s.port n
  if p.awaiting then s else (s.setPort n { p with awaiting := true }).queueCtl n 5 0

/-- A packet that has arrived whole waits in the router; one that R62 discards is counted, and answered when it is a request to this device
whose SRC is readable, which the model takes to mean that its reserved bit is zero (R61, R62; DESIGN CHOICE, unsafe, log 71). -/
def State.packetArrives (s : State) (n : Nat) (vc : BitVec 3) (p : Packet) : State :=
  let h : Held := { pkt := p, vc := vc, arrived := some n, inVc := vc, next := none }
  let isReqVc := decide (vc.toNat < 3) || vc == 6
  let wrong := (p.isReq && !isReqVc) || (p.isResp && isReqVc)
  if p.reservedBad || wrong then
    let s := s.countDiscard
    let s := s.setPort n { s.port n with
      credDue := Tab.set (s.port n).credDue vc.toNat ((s.port n).due vc.toNat + (Packet.flits p).length) }
    if p.isReq && p.dst == s.devid.setWidth 16 && !(p.src.getLsbD 15) then s.nackReq p (if s.faulted then nUNREACH else nMALFORMED) else s
  else { s with router := { s.router with held := s.router.held ++ [h] } }

/-- An accepted flit's body joins its channel's packet (R45). -/
def State.acceptBody (s : State) (n : Nat) (ty vc : BitVec 3) (body : BitVec 512) : State :=
  let p := s.port n
  let bs := toBytes body.toNat 64
  let have' := if ty = 1 ∨ ty = 4 then [] else Tab.get [] p.asm vc.toNat
  if ty = 3 ∨ ty = 4 then
    (s.setPort n { p with asm := Tab.del p.asm vc.toNat }).packetArrives n vc (packetOf (have' ++ bs))
  else s.setPort n { p with asm := Tab.set p.asm vc.toNat (have' ++ bs) }

/-- A sequenced flit with a good CRC: in order, a duplicate, or a failure (R48). -/
def State.sequenced (s : State) (n : Nat) (f : Flit) : State :=
  let p := s.port n
  if f.seq = p.rxExpect then
    let p := { p with
      rxLast := f.seq, rxExpect := f.seq + 1, awaiting := false
      rxEpoch := if f.seq = 0xFFF then p.rxEpoch + 1 else p.rxEpoch
      cred := Tab.set p.cred (f.seq.toNat % 8) (p.credit (f.seq.extractLsb' 0 3) + f.crd.toNat) }
    (s.setPort n p).acceptBody n f.ftype f.vc f.body
  else if (p.rxExpect - f.seq).toNat ≤ 512 then s
  else s.linkFailure n

/-- An IDLE flit returns credits (R45, R47). -/
def Port.takeCredits (p : Port) (body : BitVec 512) : Port :=
  (List.range 8).foldl (fun p v => { p with cred := Tab.set p.cred v (Tab.get 0 p.cred v + (body.extractLsb' (16 * v) 16).toNat) }) p

/-- A LANE flit, by its OP (R45, R51). -/
def State.laneFlit (s : State) (n : Nat) (body : BitVec 512) : State :=
  let m : BitVec 8 := body.extractLsb' 8 8
  match (body.extractLsb' 0 8).toNat with
  | 1 => s.acceptTx n m false
  | 2 => if (s.port n).rxProp.isSome then s.adoptRx n m else s
  | 3 => s.closeTx n
  | 4 => s.acceptTx n m true
  | _ => s

/-- A flit as it arrives on an ACTIVE port (R44, R45, R48, R49). Under per-hop encryption the receiver's unsequenced counter advances with
each unsequenced flit whose tag is good (R77; DESIGN CHOICE, unsafe, log 67). -/
def State.receiveFlit (s : State) (n : Nat) (f : Flit) : State :=
  let p := s.port n
  match openFlit (s.rxKey n f) f with
  | none =>
    (s.setPort n { p with crcerr := if p.crcerr = BitVec.allOnes 32 then p.crcerr else p.crcerr + 1 }).linkFailure n
  | some g =>
    let seqd := decide (1 ≤ g.ftype.toNat) && decide (g.ftype.toNat ≤ 4)
    let s := s.setPort n { p.takeAck g.ack with unseqRx := if p.perhopOn && !seqd then p.unseqRx + 1 else p.unseqRx }
    match g.ftype.toNat with
    | 0 => s.setPort n ((s.port n).takeCredits g.body)
    | 5 => s.replay n
    | 6 => s.laneFlit n g.body
    | _ => s.sequenced n g

/-- A flit event: the flit, when its TYPE is one of those and the port is ACTIVE. -/
def flitEvent (p : Flit → Bool) (s : State) : State :=
  let f := s.inp.flit
  if (s.port s.inp.port).st = .active ∧ !s.stopped ∧ p f then s.receiveFlit s.inp.port f else s

/-- The OP of a LANE flit in clear. -/
def State.laneOp (s : State) (f : Flit) : Nat :=
  match openFlit (s.rxKey s.inp.port f) f with
  | some g => if g.ftype = 6 then (g.body.extractLsb' 0 8).toNat else 0
  | none => 0

/-- IDLE_FLIT_RECEIVE (R45). -/
def execIdleFlitReceive (s : State) : Host.Outcome State Fault Refusal := event (flitEvent fun f => f.ftype == 0) s
/-- SEQUENCED_FLIT_RECEIVE: HEAD, BODY, TAIL or ONLY, and TYPE 7, which is a CRC failure (R45, R48). -/
def execSequencedFlitReceive (s : State) : Host.Outcome State Fault Refusal :=
  event (flitEvent fun f => f.ftype == 7 || (f.ftype != 0 && f.ftype.ult 5)) s
/-- RETRY_RECEIVE (R49). -/
def execRetryReceive (s : State) : Host.Outcome State Fault Refusal := event (flitEvent fun f => f.ftype == 5) s
/-- LANE_PROPOSE_RECEIVE: PROPOSE or ADMIT (R51). -/
def execLaneProposeReceive (s : State) : Host.Outcome State Fault Refusal :=
  event (fun s => flitEvent (fun f => s.laneOp f == 1 || s.laneOp f == 4) s) s
/-- LANE_COMMIT_RECEIVE (R51). -/
def execLaneCommitReceive (s : State) : Host.Outcome State Fault Refusal :=
  event (fun s => flitEvent (fun f => s.laneOp f == 2) s) s
/-- LANE_DONE_RECEIVE (R51). -/
def execLaneDoneReceive (s : State) : Host.Outcome State Fault Refusal :=
  event (fun s => flitEvent (fun f => s.laneOp f == 3) s) s

/-- LANE_PROPOSE_REPEAT: the flit of an open proposal again (R51). -/
def execLaneProposeRepeat (s : State) : Host.Outcome State Fault Refusal :=
  event (fun s =>
    match (s.port s.inp.port).st, (s.port s.inp.port).rxProp with
    | .active, some (m, adm) => s.queueCtl s.inp.port 6 (laneBody (if adm then 4 else 1) m)
    | _, _ => s) s

/-! ## Codeword rows (R42, R43, R46, R50, R51) -/

/-- The value that more than half of a list holds. -/
def majority {α : Type} [BEq α] (l : List α) : Option α := l.find? fun x => decide (l.length < 2 * (l.filter fun y => y == x).length)

/-- The codeword of a lane in a row counts (R50). -/
def LaneWord.counts (w : LaneWord) (odd : Option Bool) : Bool :=
  w.uncorrectable || w.lost || (match odd with | some o => w.odd != o | none => false)

/-- One codeword of a lane: its window's count and its consecutive count (R50). -/
def Port.countLane (p : Port) (lane : Nat) (bad : Bool) : Port :=
  if bad then { p with winCnt := Tab.set p.winCnt lane (Tab.get 0 p.winCnt lane + 1), consec := Tab.set p.consec lane (Tab.get 0 p.consec lane + 1) }
  else { p with consec := Tab.set p.consec lane 0 }

/-- A row's codewords are counted in the window. A lane that lost its lock since the last row counts, and so does one without a codeword or
sequence in the row, whatever has kept it away: every codeword time counts (R50, R52). -/
def Port.countRow (p : Port) (row : List LaneWord) (odd : Option Bool) : Port :=
  (List.range 8).foldl (fun p i =>
    match row.find? fun w => w.lane == i with
    | some w =>
      { p with lockLost := if w.lost then p.lockLost.add i else p.lockLost.del i }.countLane i (LaneWord.counts w odd || p.lockLost.has i)
    | none => p.countLane i true) { p with winRows := p.winRows + 1 }

/-- Active lanes that have reached SHEDUC or BURST (R50). -/
def Port.failing (p : Port) : List Nat :=
  (lanesOf p.rxmap).filter fun i =>
    decide (p.sheduc.toNat ≤ Tab.get 0 p.winCnt i) || decide (p.burst.toNat ≤ Tab.get 0 p.consec i)

/-- A mask without lanes. -/
def dropLanes (m : BitVec 8) (l : List Nat) : BitVec 8 := l.foldl (fun m i => m &&& ~~~((1 : BitVec 8) <<< i)) m

/-- Lanes that have failed are proposed together; a proposal drops them from an open one too (R50, R51). -/
def State.shedFailing (s : State) (n : Nat) : State :=
  let p := s.port n
  if p.failing.isEmpty then s
  else
    let base := match p.rxProp with | some (m, false) => m | _ => p.rxmap
    s.proposeRx n (dropLanes base p.failing) false

/-- Stream bytes of a row over the active lanes (R46). -/
def destripe (row : List LaneWord) (m : BitVec 8) : List Byte :=
  let ls := (lanesOf m).map fun i => ((row.find? fun w => w.lane == i).map fun w => w.bytes).getD (zeros 640)
  (List.range 640).flatMap fun k => ls.map fun l => l.getD k 0

/-- Whole flits of the stream, in order; `hold` stops before 72 zero bytes, which may be the fill before a new MAP (R51). -/
def takeFlits (hold : Bool) (n : Nat) : Nat → State → State
  | 0, s => s
  | fuel + 1, s =>
    let p := s.port n
    let f := p.rxBytes.take 72
    if p.st ≠ .active ∨ p.rxBytes.length < 72 ∨ (hold && f.all fun b => b == 0) then s
    else takeFlits hold n fuel ((s.setPort n { p with rxBytes := p.rxBytes.drop 72 }).receiveFlit n (leBits 576 f))

/-- PROP of two consecutive rows on a majority of their lanes is a proposal (R51). -/
def State.rowProp (s : State) (n : Nat) (prop : Option (BitVec 8)) : State :=
  let p := s.port n
  let s := s.setPort n { p with propSeen := prop }
  match prop with
  | some m => if p.propSeen = some m ∧ m ≠ p.txmap ∧ p.txNew ≠ some m then s.acceptTx n m false else s
  | none => s

/-- The thresholds that LTHR holds (R57). -/
def Port.setLthr (p : Port) (v : BitVec 40) : Port :=
  let f := fun (o : Nat) => v.extractLsb' o 8
  let one := fun (x : BitVec 8) => if x = 0 then 1 else x
  { p with
    winexp := if 10 ≤ (f 32).toNat ∧ (f 32).toNat ≤ 30 then f 32 else 20
    sheduc := one (f 24), burst := one (f 16), admuc := f 8, admwin := one (f 0) }

/-- Codewords of a window (R50). -/
def Port.window (p : Port) : Nat := 2 ^ p.winexp.toNat

/-- The counts of a window that closes: LANECNT, and the clean windows of each lane that was shed for all of it (R50, R52, R57). -/
def Port.closeWindow (p : Port) : Port :=
  let p := { p with
    lanecnt := (List.range 8).map fun i => (i, BitVec.ofNat 8 (Nat.min 255 (Tab.get 0 p.winCnt i)))
    clean := ((List.range 8).filter fun i => !(p.winLive.getLsbD i)).map fun i =>
      (i, if Tab.get 0 p.winCnt i ≤ p.admuc.toNat then Tab.get 0 p.clean i + 1 else 0)
    winCnt := [], winRows := 0, winLive := p.rxmap }
  match p.lthrNext with
  | some v => { p.setLthr v with lthrNext := none }
  | none => p

/-- The end of a window: a shed lane with ADMWIN clean windows is proposed for re-admission (R50, R52). -/
def State.endWindow (s : State) (n : Nat) : State :=
  let p := s.port n
  let q := p.closeWindow
  let back := (q.clean.filter fun e => decide (p.admwin.toNat ≤ e.2)).map fun e => e.1
  let s := s.setPort n q
  if back.isEmpty || q.rxProp.isSome then s
  else s.proposeRx n (back.foldl (fun m i => m ||| ((1 : BitVec 8) <<< i)) q.rxmap) true

/-- A row of codewords on an ACTIVE port: counted; its MAP adopted, or else what the last row left is read; then its own bytes (R43, R46, R50, R51). -/
def State.receiveRow (s : State) (n : Nat) (row : List LaneWord) : State :=
  let p := s.port n
  let act := row.filter fun w => p.rxmap.getLsbD w.lane
  let odd := majority (act.map fun w => w.odd)
  let s := s.setPort n (p.countRow row odd)
  let s := match majority (act.map fun w => w.map) with
    | some m => if m ≠ p.rxmap ∧ 2 ≤ width m then s.adoptRx n m else takeFlits false n 80 s
    | none => takeFlits false n 80 s
  let s := s.rowProp n (majority (act.map fun w => w.prop))
  let q := s.port n
  let s := s.setPort n { q with rxBytes := q.rxBytes ++ destripe row q.rxmap, rowOdd := odd.getD q.rowOdd }
  (takeFlits true n 80 s).shedFailing n

/-- CODEWORD_ROW_RECEIVE: a window that is full ends before the row (R43, R46, R50, R51). -/
def execCodewordRowReceive (s : State) : Host.Outcome State Fault Refusal :=
  event (fun s =>
    let n := s.inp.port
    if (s.port n).st ≠ .active ∨ s.stopped then s
    else (if (s.port n).window ≤ (s.port n).winRows then s.endWindow n else s).receiveRow n s.inp.row) s

/-- LANE_LOSS_OF_LOCK: the lane counts every codeword time until it carries codewords again; in training, a lane that is lost before its map
is computed is no longer received, and a later loss counts from the first row on (R50, R55; DEDUCED, unsafe, log 39). -/
def execLaneLossOfLock (s : State) : Host.Outcome State Fault Refusal :=
  event (fun s =>
    let p := s.port s.inp.port
    if 8 ≤ s.inp.lane then s
    else if p.st = .training ∧ (p.phase = .speed ∨ p.phase = .map) then
      s.setPort s.inp.port { p with lanesRx := dropLanes p.lanesRx [s.inp.lane] }
    else if p.st = .active ∨ p.st = .training then s.setPort s.inp.port { p with lockLost := p.lockLost.add s.inp.lane }
    else s) s

/-- LANE_WINDOW_END: the window holds its 2^WINEXP codewords (R50, R52). -/
def execLaneWindowEnd (s : State) : Host.Outcome State Fault Refusal :=
  event (fun s =>
    let p := s.port s.inp.port
    if p.st = .active ∧ !s.stopped ∧ p.window ≤ p.winRows then s.endWindow s.inp.port else s) s

/-! ## Training (R55, R56) -/

/-- The number of a phase. -/
def TrainPhase.code : TrainPhase → Nat
  | .speed => 0 | .map => 1 | .confirm => 2 | .ready => 3

/-- The maps that a port's words carry: what it can do, and from CONFIRM on what it has computed. -/
def Port.wordMaps (p : Port) : BitVec 8 × BitVec 8 :=
  match p.phase with
  | .speed | .map => (p.lanesTx, p.lanesRx)
  | .confirm | .ready => (p.lanesTx &&& p.peerRx, p.peerTx &&& p.lanesRx)

/-- A training word without its CRC. -/
def Port.wordBits (p : Port) (devid : BitVec 15) (n : Nat) : BitVec 96 :=
  let m := p.wordMaps
  BitVec.ofNat 4 p.phase.code ++ ((1 : BitVec 4) ++ (m.1 ++ (m.2 ++ (BitVec.ofNat 4 (width m.1) ++ (BitVec.ofNat 4 (width m.2) ++
    (devid ++ (BitVec.ofNat 6 n ++ (p.strcnt ++ (0 : BitVec 40)))))))))

/-- Sending a port's current training word (R55). (DESIGN CHOICE, unsafe, log 40) -/
def State.sendWord (s : State) (n : Nat) : State :=
  let b := (s.port n).wordBits s.devid n
  s.setPort n { s.port n with words := (s.port n).words ++ [b ++ crc32c (toBytes b.toNat 12)] }

/-- A Stranded outcome: the third marks the port down (R56). -/
def State.strandPort (s : State) (n : Nat) (d : BitVec 4) : State :=
  let p := s.port n
  let k := p.strcnt + 1
  (s.setPort n { p with st := if k.toNat < 3 then .stranded else .markedDown, disag := d, strcnt := k, backoff := decide (k.toNat < 3) }).strandEvent
    0x03 n [k.setWidth 8, d.setWidth 8]

/-- The counters of per-hop nonces after a fresh training: SEQ starts again at 0 under the same key, so the extended counts go on in a block
that no flit has used (R77; DEDUCED, unsafe, log 67). -/
def Port.nextBlock (p : Port) : Port :=
  let up := fun (n k : Nat) => (n / 2 ^ k + 1) * 2 ^ k
  { p with seqEpoch := up p.seqEpoch 28, rxEpoch := up p.rxEpoch 28, unseqTx := up p.unseqTx 40, unseqRx := up p.unseqRx 40 }

/-- Training ends: ACTIVE with at least two lanes each way, else DOWN (R55, R56); a kept retry buffer is sent again, with the credits that the
transmitter held (R47, R54; DESIGN CHOICE, unsafe, log 67). -/
def State.finishTraining (s : State) (n : Nat) : State :=
  let p := s.port n
  let tx := p.lanesTx &&& p.peerRx
  let rx := p.peerTx &&& p.lanesRx
  if width tx < 2 ∨ width rx < 2 then (s.setPort n { p with st := .down, txmap := tx, rxmap := rx }).portChanged
  else
    let p := { p with st := .active, txmap := tx, rxmap := rx, winLive := rx, strcnt := 0, perhopOn := p.perhop }
    (s.setPort n (if p.keepSeq then p.resendAll
      else { p.nextBlock with cred := (List.range 8).map fun v => (v, vcCapacity v) })).portChanged

/-- READY sent and received at both ends ends training. -/
def State.tryFinish (s : State) (n : Nat) : State :=
  if (s.port n).sentReady && (s.port n).gotReady then s.finishTraining n else s

/-- What differs between a CONFIRM word and this end's own computation: SPEED, width, transmit map, receive map (R57). -/
def disagreement (speed txw rxw : Nat) (peerTx peerRx tx rx : BitVec 8) : BitVec 4 :=
  (if speed = 1 then 0 else 1) ||| (if txw = width rx ∧ rxw = width tx then 0 else 2) ||| (if peerRx = tx then 0 else 4) |||
  (if peerTx = rx then 0 else 8)

/-- A CONFIRM word at an end that has computed its maps. -/
def State.confirmWord (s : State) (n : Nat) (speed txw rxw : Nat) (tx rx : BitVec 8) : State :=
  let p := s.port n
  let d := disagreement speed txw rxw tx rx (p.lanesTx &&& p.peerRx) (p.peerTx &&& p.lanesRx)
  if d ≠ 0 then s.strandPort n d
  else ((s.setPort n { p with phase := .ready, sentReady := true }).sendWord n).tryFinish n

/-- A good training word. In the SPEED phase it shows on which lanes this end receives; a MAP word there serves as a SPEED word too, and
its SPEED field is not tested; a CONFIRM word in the MAP phase serves as both (R55; DEDUCED, unsafe, log 39).
A neighbour whose group is above 544 is refused: the port stays DOWN (R58). -/
def State.trainWord (s : State) (n : Nat) (w : BitVec 128) : State :=
  let speed := (w.extractLsb' 120 4).toNat
  let tx := w.extractLsb' 112 8
  let rx := w.extractLsb' 104 8
  let id := w.extractLsb' 81 15
  let p := s.port n
  if 544 < id.toNat / 32 then s.setPort n { p with st := .down, idBad := true }
  else
    let p := { p with peerId := id, peerPort := w.extractLsb' 75 6, lanesRx := if p.phase = TrainPhase.speed then s.inp.map else p.lanesRx }
    match (w.extractLsb' 124 4).toNat, p.phase with
    | 0, .speed => if speed = 1 then (s.setPort n { p with phase := .map }).sendWord n else s.setPort n p
    | 1, .speed | 1, .map => (s.setPort n { p with phase := .confirm, peerTx := tx, peerRx := rx }).sendWord n
    | 2, .map =>
      (((s.setPort n { p with phase := .confirm, peerTx := tx, peerRx := rx }).sendWord n)).confirmWord n speed
        (w.extractLsb' 100 4).toNat (w.extractLsb' 96 4).toNat tx rx
    | 2, .confirm => (s.setPort n p).confirmWord n speed (w.extractLsb' 100 4).toNat (w.extractLsb' 96 4).toNat tx rx
    | 3, .confirm | 3, .ready => (s.setPort n { p with gotReady := true }).tryFinish n
    | _, _ => s.setPort n p

/-- TRAINING_WORD_RECEIVE: a word with a bad CRC or a nonzero reserved field is ignored (R55). -/
def execTrainingWordReceive (s : State) : Host.Outcome State Fault Refusal :=
  event (fun s =>
    let w := s.inp.v
    if (s.port s.inp.port).st = .training ∧ s.canTrain ∧ w.extractLsb' 32 40 = 0 ∧
        crc32c (toBytes (w.extractLsb' 32 96).toNat 12) = w.extractLsb' 0 32 then s.trainWord s.inp.port w
    else s) s

/-- TRAINING_WORD_REPEAT (R55). -/
def execTrainingWordRepeat (s : State) : Host.Outcome State Fault Refusal :=
  event (fun s => if (s.port s.inp.port).st = .training ∧ s.canTrain then s.sendWord s.inp.port else s) s

/-- STRANDED_BACKOFF_EXPIRY (R56). -/
def execStrandedBackoffExpiry (s : State) : Host.Outcome State Fault Refusal :=
  event (fun s => if (s.port s.inp.port).st = .stranded ∧ (s.port s.inp.port).backoff then s.trainPort s.inp.port false else s) s

/-- DOWN_RETRAIN_TIMER: a port that is down for lack of lanes trains again; one whose neighbour was refused stays DOWN (R56, R58). -/
def execDownRetrainTimer (s : State) : Host.Outcome State Fault Refusal :=
  event (fun s =>
    let p := s.port s.inp.port
    if p.st = .down ∧ !p.hold ∧ !p.idBad then s.trainPort s.inp.port false else s) s

/-! ## Port registers (R57, R66) -/

/-- LTHR of a port as written: in force from the next window (R57). -/
def State.writeLthr (s : State) (n : Nat) (v : BitVec 64) : State :=
  if s.powered && s.bootst != 15 && decide (n < Config.ports) then s.setPort n { s.port n with lthrNext := some (v.setWidth 40) } else s

/-- LTHR_WRITE (R57). -/
def execLthrWrite (s : State) : Host.Outcome State Fault Refusal := event (fun s => s.writeLthr s.inp.port (s.inp.v.setWidth 64)) s

/-- A write of LCTL (R54, R56, R57, R77): a port that is MARKED DOWN stays so until CLRDOWN. A port whose HOLD is released starts a fresh
training at once, where R57 says only that it is released (DESIGN CHOICE, unsafe, log 67). -/
def State.writeLctl (s : State) (n : Nat) (v : BitVec 64) : State :=
  let p := s.port n
  let hold := v.getLsbD 4
  let marked := p.st == .markedDown
  let s := s.setPort n { p with hold := hold, perhop := v.getLsbD 3 }
  let s := if v.getLsbD 6 then s.setPort n { s.port n with replays := 0, crcerr := 0, lanecnt := [], replayBase := 0 } else s
  let s :=
    if marked then s
    else if hold && !p.hold then (s.setPort n { s.port n with st := .down }).portChanged
    else if !hold && p.hold then s.trainPort n false
    else s
  if v.getLsbD 7 then
    let s := s.setPort n { s.port n with strcnt := 0, st := if marked then .down else (s.port n).st }
    if hold then s else s.trainPort n false
  else if v.getLsbD 5 && !hold && !marked then s.trainPort n (p.st == .active)
  else s

/-- A write of LCTL that meets a condition. -/
def lctlEvent (f : BitVec 64 → Port → Bool) (s : State) : State :=
  let v := s.inp.v.setWidth 64
  if s.powered && s.bootst != 15 && decide (s.inp.port < Config.ports) && f v (s.port s.inp.port) then s.writeLctl s.inp.port v else s

/-- LCTL_CLRDOWN: a write with CLRDOWN = 1 (R57). -/
def execLctlClrdown (s : State) : Host.Outcome State Fault Refusal := event (lctlEvent fun v _ => v.getLsbD 7) s
/-- LCTL_CLRCNT: a write with CLRCNT = 1 (R57). -/
def execLctlClrcnt (s : State) : Host.Outcome State Fault Refusal := event (lctlEvent fun v _ => v.getLsbD 6) s
/-- LCTL_RETRAIN: a write with RETRAIN = 1 (R54, R57). -/
def execLctlRetrain (s : State) : Host.Outcome State Fault Refusal := event (lctlEvent fun v _ => v.getLsbD 5) s
/-- LCTL_HOLD: a write that changes HOLD (R57). -/
def execLctlHold (s : State) : Host.Outcome State Fault Refusal := event (lctlEvent fun v p => v.getLsbD 4 != p.hold) s
/-- LCTL_PERHOP: a write that changes PERHOP, which is in force from the next training (R77). -/
def execLctlPerhop (s : State) : Host.Outcome State Fault Refusal := event (lctlEvent fun v p => v.getLsbD 3 != p.perhop) s

/-- PORT_DEGRADE_WINDOW: a millisecond of a port ends (R66). -/
def execPortDegradeWindow (s : State) : Host.Outcome State Fault Refusal :=
  event (fun s =>
    let p := s.port s.inp.port
    if s.inp.port < Config.ports then
      s.setPort s.inp.port
        { p with degraded := decide (p.replayBase.toNat + s.router.rplim.toNat < p.replays.toNat), replayBase := p.replays }
    else s) s

end Sys2Proof.Machine
end

