-- ==== Sys2Proof/Machine/Route.lean ====
section
/-! DEFINITION. Routing: port costs, route choice, forwarding, the ebb tree and its generation switch (R58 to R71). -/

namespace Sys2Proof.Machine

/-! ## Identities and ports (R58, R60, R66) -/

/-- The local port whose neighbour is at a position of this group, as learnt in training (R58). -/
def State.localPort (s : State) (pos : Nat) : Option Nat :=
  (List.range 31).find? fun n => (s.port n).st == .active && (s.port n).peerId.toNat == groupId s.here * 32 + pos

/-- A port carries traffic: ACTIVE with a transmit width of at least 2 (R66). -/
def State.eligible (s : State) (n : Nat) : Bool := (s.port n).st == .active && decide (2 ≤ width (s.port n).txmap)

/-- PortCost, times 840, which every width divides (R66). -/
def State.portCost (s : State) (n vc : Nat) : Nat :=
  let p := s.port n
  let used := vcCapacity vc - Tab.get 0 p.cred vc
  let c := used * 8 * (840 / Nat.max 1 (width p.txmap))
  if p.degraded then 2 * c else c

/-- The cheapest of some eligible ports; ties go to the lower number (R67). -/
def State.cheapest (s : State) (vc : Nat) (ps : List Nat) : Option (Nat × Nat) :=
  (ps.filter s.eligible).foldl (fun best n =>
    let c := s.portCost n vc
    match best with
    | none => some (n, c)
    | some (m, d) => if c < d ∨ (c = d ∧ n < m) then some (n, c) else best) none

/-- Gateways of a GTAB entry: position and global port index (R60). -/
def gateways (e : BitVec 64) : List (Nat × Nat) :=
  if e.getLsbD 42 then
    ((List.range ((e.extractLsb' 40 2).toNat + 1)).map fun i =>
      ((e.extractLsb' (10 * i + 5) 5).toNat, (e.extractLsb' (10 * i) 5).toNat)).filter fun g => decide (g.2 ≤ 16)
  else []

/-- First ports towards a group through its gateways. -/
def State.gatewayPorts (s : State) (g : Nat) : List Nat :=
  (gateways (Sparse.get s.router.gtab g)).filterMap fun w => if w.1 = posOf s.here then some (31 + w.2) else s.localPort w.1

/-- BestGateway (R67). -/
def State.bestGateway (s : State) (g vc : Nat) : Option (Nat × Nat) := s.cheapest vc (s.gatewayPorts g)

/-- Global ports of this device that lead to a group. -/
def State.ownGateways (s : State) (g : Nat) : List Nat :=
  (gateways (Sparse.get s.router.gtab g)).filterMap fun w => if w.1 = posOf s.here then some (31 + w.2) else none

/-! ## Draw() (R67; DESIGN CHOICE, unsafe, log 14) -/

/-- One step of the 32-bit maximal-length register. -/
def lfsrStep (x : BitVec 32) : BitVec 32 := if x.getLsbD 0 then (x >>> 1) ^^^ 0x80200003 else x >>> 1

/-- Draw(). -/
def State.drawRoute (s : State) : State × Nat :=
  let x := lfsrStep s.router.lfsr
  ({ s with router := { s.router with lfsr := x } }, x.toNat)

/-- NthOther(a, b, i) as a position (R67). -/
def nthOther (a b i : Nat) : Nat :=
  ((List.range 32).filter fun p => p != posOf a && p != posOf b).getD (i % 30) 0

/-! ## The packets a router holds -/

/-- VCof(pkt, k). -/
def vcOf (p : Packet) (k : Nat) : Nat := if p.isReq then k else 3 + k

/-- A held packet leaves its input buffer: its credits are due to the peer (R47). This is so also when the packet arrived before a fresh training,
which gave the peer every credit; R47 does not say what becomes of such a buffer (DESIGN CHOICE, unsafe, log 67). -/
def State.freeBuffers (s : State) (h : Held) : State :=
  match h.arrived with
  | none => s
  | some n =>
    let p := s.port n
    s.setPort n { p with credDue := Tab.set p.credDue h.inVc.toNat (p.due h.inVc.toNat + (Packet.flits h.pkt).length) }

/-- Removing the held packet of a number. -/
def State.dropHeld (s : State) (i : Nat) (h : Held) : State :=
  { s.freeBuffers h with router := { s.router with held := s.router.held.eraseIdx i } }

/-- Replacing the held packet of a number. -/
def State.setHeld (s : State) (i : Nat) (h : Held) : State :=
  { s with router := { s.router with held := listSet s.router.held i h } }

/-- A packet is discarded and counted (R62, R68, R70). -/
def State.discardHeld (s : State) (i : Nat) (h : Held) : State := (s.dropHeld i h).countDiscard

/-- A packet for this device: a request to its ingress, a response to its requester. -/
def State.deliver (s : State) (p : Packet) (port : Option Nat) : State :=
  if p.isReq then s.ingressReq { pkt := p, port := port, passed := false, halted := false, redir := [] } else s.response p

/-- EJECT. -/
def State.eject (s : State) (i : Nat) (h : Held) : State := (s.dropHeld i h).deliver h.pkt h.arrived

/-! ## The ebb channel (R69, R70) -/

/-- The ebb table's byte for a destination in a bank. -/
def State.ebbEntry (s : State) (bank : Bool) (d : Nat) : Byte := Sparse.get s.router.ebb (bank.toNat * 32768 + d)

/-- EbbPort: eject, a tree port, or a discard (R70). -/
def State.ebbRoute (s : State) (i : Nat) (h : Held) : State :=
  let e := s.ebbEntry h.pkt.egen h.pkt.dst.toNat
  let n := (e.extractLsb' 0 6).toNat
  if h.pkt.dst.toNat = s.here then s.eject i h
  else if !(e.getLsbD 7) || !(s.eligible n) then s.discardHeld i h
  else s.setHeld i { h with next := some n }

/-- A packet enters the ebb channel of its class with this device's EGEN (R63, R70). -/
def State.enterEbb (s : State) (i : Nat) (h : Held) : State :=
  let p := { h.pkt with flags := (h.pkt.flags &&& 0xFE) ||| (if s.router.egen then 1 else 0) }
  s.ebbRoute i { h with pkt := p, vc := if p.isReq then 6 else 7 }

/-! ## Route choice (R65, R67) -/

/-- A held packet takes a port and a channel. -/
def State.takePort (s : State) (i : Nat) (h : Held) (n : Nat) (vc : Nat) : State :=
  s.setHeld i { h with vc := BitVec.ofNat 3 vc, next := some n }

/-- A non-minimal choice at the source: INTM is set, and a confidential packet is sealed with it (R67, R76). -/
def State.takeDetour (s : State) (i : Nat) (h : Held) (n intm : Nat) : State :=
  s.takePort i { h with pkt := s.reseal { h.pkt with intm := BitVec.ofNat 16 intm } } n (vcOf h.pkt 1)

/-- ChooseRoute inside the destination's group (R67). (DEDUCED, unsafe, log 38) -/
def State.chooseLocal (s : State) (i : Nat) (h : Held) : State :=
  let here := s.here
  let dst := h.pkt.dst.toNat
  let vc := if h.vc.toNat % 3 = 1 ∧ h.pkt.intm.toNat = here then h.vc.toNat + 1 else h.vc.toNat
  let m := s.localPort (posOf dst)
  let direct := fun (s : State) =>
    match m with
    | some n => if s.eligible n then s.takePort i h n vc else s.enterEbb i h
    | none => s.enterEbb i h
  if h.arrived.isSome then direct s
  else
    let (s, x) := s.drawRoute
    let pos := nthOther here dst (posOf here ^^^ (1 + x % 30))
    match s.localPort pos with
    | none => direct s
    | some n =>
      let worse := match m with
        | none => true
        | some k => !(s.eligible k) || decide (2 * s.portCost n (vcOf h.pkt 1) + 840 * s.router.nmbias.toNat < s.portCost k (vcOf h.pkt 0))
      if s.eligible n && worse then s.takeDetour i h n (groupId here * 32 + pos) else direct s

/-- ChooseRoute towards another group (R67). -/
def State.chooseGlobal (s : State) (i : Nat) (h : Held) : State :=
  let g := groupId s.here
  let gi := groupId h.pkt.intm.toNat
  let gd := groupId h.pkt.dst.toNat
  let first := decide (h.vc.toNat % 3 = 1)
  let target := if first && g != gi then gi else gd
  let vc := if first && g == gi then h.vc.toNat + 1 else h.vc.toNat
  let bm := s.bestGateway target vc
  let direct := fun (s : State) =>
    match bm with
    | some (n, _) => s.takePort i h n vc
    | none => s.enterEbb i h
  if h.arrived.isSome then direct s
  else
    let (s, x1) := s.drawRoute
    let (s, x2) := s.drawRoute
    let v1 := vcOf h.pkt 1
    let cands := [x1 % 545, x2 % 545].filter fun k => k != g && k != gd && (Sparse.get s.router.gtab k).getLsbD 42
    let best := cands.foldl (fun (b : Option (Nat × Nat × Nat)) k =>
      match s.bestGateway k v1, b with
      | none, b => b
      | some (n, c), none => some (k, n, c)
      | some (n, c), some (k', n', c') => if c < c' ∨ (c = c' ∧ n < n') then some (k, n, c) else some (k', n', c')) none
    match best with
    | none => direct s
    | some (k, n, c) =>
      let worse := match bm with | none => true | some (_, cm) => decide (2 * c + 840 * s.router.nmbias.toNat < cm)
      if worse then s.takeDetour i h n (k * 32) else direct s

/-- A decision point: the source, an entry over a global port, the intermediate device of the group (R65). -/
def State.decides (s : State) (h : Held) : Bool :=
  match h.arrived with
  | none => true
  | some n => decide (31 ≤ n) || (h.vc.toNat % 3 == 1 && h.pkt.intm.toNat == s.here)

/-- The path chosen before: the direct port to the target, or this device's own port to the next group (R65). Of several ports of its own to
that group, which GTAB names and the packet does not tell apart, the model takes the cheapest eligible one (DESIGN CHOICE, unsafe, log 38). -/
def State.followPath (s : State) (i : Nat) (h : Held) : State :=
  let g := groupId s.here
  if g = groupId h.pkt.dst.toNat then
    match s.localPort (posOf h.pkt.dst.toNat) with
    | some n => if s.eligible n then s.takePort i h n h.vc.toNat else s.enterEbb i h
    | none => s.enterEbb i h
  else
    let target := if h.vc.toNat % 3 = 1 ∧ g ≠ groupId h.pkt.intm.toNat then groupId h.pkt.intm.toNat else groupId h.pkt.dst.toNat
    match s.cheapest h.vc.toNat (s.ownGateways target) with
    | some (n, _) => s.takePort i h n h.vc.toNat
    | none => s.enterEbb i h

/-- The route of a held packet. -/
def State.routeHeld (s : State) (i : Nat) (h : Held) : State :=
  if 6 ≤ h.vc.toNat then s.ebbRoute i h
  else if h.pkt.dst.toNat = s.here then s.eject i h
  else if s.decides h then
    (if groupId s.here = groupId h.pkt.dst.toNat then s.chooseLocal i h else s.chooseGlobal i h)
  else s.followPath i h

/-! ## The generation switch: its events (R69, R71) -/

/-- TREE: a flood record; the input holds the live links as it leaves them known (R69, R71; DESIGN CHOICE, unsafe, log 26). -/
def execTree (s : State) : Host.Outcome State Fault Refusal :=
  event (fun s => if s.canTrain then s.linksChanged s.inp.links else s) s

/-- EBB_FLIP: the root has every acknowledgement and floods FLIP, which it performs itself (R71). -/
def execEbbFlip (s : State) : Host.Outcome State Fault Refusal :=
  event (fun s => if treeRoot s.here s.router.links = s.here then s.flip else s) s

/-- FLIP_RECEIVE (R71). -/
def execFlipReceive (s : State) : Host.Outcome State Fault Refusal := event State.flip s

/-- DRAIN_SEND: DRAIN(g) on a port, on VC 6, a channel that R71 does not name (DESIGN CHOICE, unsafe, log 71). -/
def execDrainSend (s : State) : Host.Outcome State Fault Refusal :=
  event (fun s =>
    let n := s.inp.port
    if (s.port n).st = .active ∧ !(s.port n).drainSent ∧ s.mayDrain n then
      let p : Packet := { ptype := pDRAIN, flags := if s.router.egen then 0 else 1, src := s.devid.setWidth 16, dst := (s.port n).peerId.setWidth 16 }
      ((s.setPort n { s.port n with drainSent := true }).queuePacket n 6 p).drainDone
    else s) s

/-- A marker that a port received (R71). -/
def State.drainArrives (s : State) (n : Nat) : State :=
  (s.setPort n { s.port n with drainRecv := true }).drainDone

/-- DRAIN: the marker arrives on a port (R71). -/
def execDrain (s : State) : Host.Outcome State Fault Refusal :=
  event (fun s => if (s.port s.inp.port).st = .active then s.drainArrives s.inp.port else s) s

/-- EBB_REPORTS_COLLECTED: the switch closes, and one that waits starts (R71). -/
def execEbbReportsCollected (s : State) : Host.Outcome State Fault Refusal :=
  event (fun s =>
    if s.router.switchOpen && s.router.reported then
      let s := { s with router := { s.router with switchOpen := false, reported := false } }
      if s.router.again then s.startSwitch else s
    else s) s

/-! ## Events of packets (R62, R65, R67, R68, R70) -/

/-- The routers forward: the device has power and its clocks run (R93). -/
def State.routing (s : State) : Bool := s.powered && !s.stopped

/-- PACKET_ROUTE: a held packet gets its port; a link-local one ends here. -/
def execPacketRoute (s : State) : Host.Outcome State Fault Refusal :=
  event (fun s =>
    match s.router.held[s.inp.index]? with
    | none => s
    | some h =>
      if !s.routing || h.next.isSome then s
      else if h.pkt.isLocal then
        let s := s.dropHeld s.inp.index h
        match h.arrived with
        | some n => if h.pkt.ptype = pDRAIN then s.drainArrives n else s
        | none => s
      else s.routeHeld s.inp.index h) s

/-- A packet goes out on its port: HOPS counts, and a packet whose HOPS reaches 63 is discarded (R61, R67). -/
def State.sendHeld (s : State) (i : Nat) (h : Held) (n : Nat) : State :=
  let p := { h.pkt with hops := h.pkt.hops + 1 }
  if p.hops = 63 then s.discardHeld i h else (s.dropHeld i h).queuePacket n h.vc p

/-- PACKET_FORWARD: a packet on an adaptive channel moves on once a credit is held; one whose port is no longer eligible takes the ebb channel (R65). -/
def execPacketForward (s : State) : Host.Outcome State Fault Refusal :=
  event (fun s =>
    match s.router.held[s.inp.index]? with
    | none => s
    | some h =>
      match h.next with
      | none => s
      | some n =>
        if !s.routing || decide (6 ≤ h.vc.toNat) then s
        else if !(s.eligible n) then s.enterEbb s.inp.index { h with next := none }
        else if (s.port n).credit h.vc = 0 then s
        else s.sendHeld s.inp.index h n) s

/-- A packet of the new generation goes out on a port only after the marker, which a device sends once it has flipped (R71). -/
def State.behindDrain (s : State) (h : Held) (n : Nat) : Bool :=
  if s.router.draining then h.pkt.egen == s.router.egen && !(s.port n).drainSent
  else s.router.switchOpen && !s.router.reported && h.pkt.egen != s.router.egen

/-- EBB_PACKET_FORWARD: by the bank of its EGEN; a packet of the new generation follows DRAIN (R70, R71). -/
def execEbbPacketForward (s : State) : Host.Outcome State Fault Refusal :=
  event (fun s =>
    match s.router.held[s.inp.index]? with
    | none => s
    | some h =>
      if !s.routing || decide (h.vc.toNat < 6) || h.pkt.isLocal then s
      else
        match h.next with
        | none => s.ebbRoute s.inp.index h
        | some n =>
          if !(s.eligible n) then s.discardHeld s.inp.index h
          else if (s.port n).credit h.vc = 0 then s
          else if s.behindDrain h n then s
          else s.sendHeld s.inp.index h n) s

/-- The eligible candidates of a packet's phase at a decision point (R67, R68). -/
def State.candidates (s : State) (h : Held) : List Nat :=
  if !s.decides h then []
  else if groupId s.here = groupId h.pkt.dst.toNat then
    let goal := if h.vc.toNat % 3 = 1 ∧ h.pkt.intm.toNat ≠ s.here then h.pkt.intm.toNat else h.pkt.dst.toNat
    (s.localPort (posOf goal)).toList.filter s.eligible
  else
    let gi := groupId h.pkt.intm.toNat
    let target := if h.vc.toNat % 3 = 1 ∧ groupId s.here ≠ gi then gi else groupId h.pkt.dst.toNat
    (s.gatewayPorts target).filter s.eligible

/-- A packet is blocked: neither its port nor, at a decision point, any candidate holds a credit for its channel (R68). -/
def State.blocked (s : State) (h : Held) : Bool :=
  (h.next.toList ++ s.candidates h).all fun n => (s.port n).credit h.vc == 0

/-- A packet stands at the head of its input buffer (R68). -/
def State.atHead (s : State) (i : Nat) (h : Held) : Bool :=
  (s.router.held.take i).all fun x => x.arrived != h.arrived || x.inVc != h.inVc || x.pkt.isReq != h.pkt.isReq

/-- EBBT_EXPIRY: a packet blocked at the head of its buffer for EBBT moves to the ebb channel of its class (R63, R68). -/
def execEbbtExpiry (s : State) : Host.Outcome State Fault Refusal :=
  event (fun s =>
    match s.router.held[s.inp.index]? with
    | none => s
    | some h =>
      if s.routing && decide (h.vc.toNat < 6) && h.next.isSome && s.atHead s.inp.index h && s.blocked h && !h.pkt.isLocal then
        s.enterEbb s.inp.index { h with next := none }
      else s) s

end Sys2Proof.Machine
end

