-- ==== Sys2Proof/Machine/Requests.lean ====
section
/-! DEFINITION. The events of the fabric's end points: requests at their target, responses at their requester, and the recovery of both (R72, R74, R75, R434 to R441). -/

namespace Sys2Proof.Machine

/-- Registers and tables of the management window respond: power is on and boot is not in recovery (R92). -/
def State.mgmtOn (s : State) : Bool := s.powered && s.bootst != 15

/-- A packet addressed to this device is presented at its ingress, when it is of the event's type. -/
def State.arrive (s : State) (ptype : BitVec 8) : State :=
  let p := s.inp.pkt
  if s.mgmtOn && !s.stopped && p.ptype == ptype && p.dst == s.devid.setWidth 16 then s.deliver p (some s.inp.port) else s

/-- PUTREQ (R435). -/
def execPutreq (s : State) : Host.Outcome State Fault Refusal := event (fun s => s.arrive pPUTREQ) s

/-- GETREQ (R75, R435). -/
def execGetreq (s : State) : Host.Outcome State Fault Refusal := event (fun s => s.arrive pGETREQ) s

/-- LDREQ (R438). -/
def execLdreq (s : State) : Host.Outcome State Fault Refusal := event (fun s => s.arrive pLDREQ) s

/-- STREQ (R438). -/
def execStreq (s : State) : Host.Outcome State Fault Refusal := event (fun s => s.arrive pSTREQ) s

/-- ATOMREQ (R434). -/
def execAtomreq (s : State) : Host.Outcome State Fault Refusal := event (fun s => s.arrive pATOMREQ) s

/-- CASREQ (R434). -/
def execCasreq (s : State) : Host.Outcome State Fault Refusal := event (fun s => s.arrive pCASREQ) s

/-- ORDREQ (R437). -/
def execOrdreq (s : State) : Host.Outcome State Fault Refusal := event (fun s => s.arrive pORDREQ) s

/-- MGMT: checked as every request; the management core takes its bytes, which no rule of this device reads (R62, R75). -/
def execMgmt (s : State) : Host.Outcome State Fault Refusal := event (fun s => s.arrive pMGMT) s

/-- ACK (R72). -/
def execAck (s : State) : Host.Outcome State Fault Refusal := event (fun s => s.arrive pACK) s

/-- DATA (R435, R438). -/
def execData (s : State) : Host.Outcome State Fault Refusal := event (fun s => s.arrive pDATA) s

/-- ATOMRSP (R434). -/
def execAtomrsp (s : State) : Host.Outcome State Fault Refusal := event (fun s => s.arrive pATOMRSP) s

/-- NACK (R437, R440). -/
def execNack (s : State) : Host.Outcome State Fault Refusal := event (fun s => s.arrive pNACK) s

/-- The request without its response that an event names by its TAG. -/
def State.outstAt (s : State) : Option Outst := s.outst.find? fun o => o.tag == s.inp.tag

/-- Changing a request without its response. -/
def State.modOutst (s : State) (o : Outst) (f : Outst → Outst) : State :=
  { s with outst := s.outst.map fun x => if x.tag = o.tag ∧ x.pkt.dst = o.pkt.dst then f x else x }

/-- REQUEST_RESEND_TIMEOUT: 200 µs without a response; the fifth time the request completes as UNREACH (R75). A confidential request is
sent again as it was sealed, with its counter and nonce, and sealed anew over its header only where routing changes INTM, which R76 leaves
open (DESIGN CHOICE, unsafe, log 71). -/
def execRequestResendTimeout (s : State) : Host.Outcome State Fault Refusal :=
  event (fun s =>
    match s.outstAt with
    | none => s
    | some o =>
      if s.stopped || !s.powered || o.deferred then s
      else if o.resends < 4 then ((s.modOutst o fun x => { x with resends := x.resends + 1 }).noteTag o.pkt.dst o.tag).emit o.pkt
      else s.failRequest o nUNREACH) s

/-- ORD_RESEND: 1 µs after a full window returned the contribution (R437). -/
def execOrdResend (s : State) : Host.Outcome State Fault Refusal :=
  event (fun s =>
    match s.outstAt with
    | none => s
    | some o => if o.deferred && !s.stopped && s.powered then ((s.modOutst o fun x => { x with deferred := false }).noteTag o.pkt.dst o.tag).emit o.pkt
      else s) s

/-- ORD_ROUND_ABANDON: 16 ms without an application; the held contributions are discarded and counted (R437). -/
def execOrdRoundAbandon (s : State) : Host.Outcome State Fault Refusal :=
  event (fun s =>
    match s.ords[s.inp.index]? with
    | none => s
    | some r => r.held.foldl (fun s _ => s.countDiscard) { s with ords := s.ords.eraseIdx s.inp.index }) s

/-- COMPLETION_RECORD_EXPIRY: 1 ms after the response; waiting requests are tried again (R75). -/
def execCompletionRecordExpiry (s : State) : Host.Outcome State Fault Refusal :=
  event (fun s =>
    { s with tgtRecs := s.tgtRecs.filter fun r => !(r.src == s.inp.src && r.tag == s.inp.tag) }.retryIngress) s

/-- A grant window as written by 128 bits: KEYEP and the key stay, a SIZEXP outside 16 to 52 stores 16 (R74). -/
def Window.written (w : Window) (v : BitVec 128) : Window :=
  let e := v.extractLsb' 48 8
  { w with
    base := v.extractLsb' 64 64, valid := v.getLsbD 63, asid := v.extractLsb' 32 16
    sizexp := if 16 ≤ e.toNat ∧ e.toNat ≤ 52 then e else 16 }

/-- WINT of a window as written: VALID from 0 to 1 draws a new key (R74). -/
def State.writeWint (s : State) (w : Nat) (v : BitVec 128) : State :=
  if s.mgmtOn && decide (w < 4096) then
    let old := s.window w
    let s := s.setWindow w (old.written v)
    if !old.valid && v.getLsbD 63 then s.drawKey w else s
  else s

/-- WINT_WRITE (R74). -/
def execWintWrite (s : State) : Host.Outcome State Fault Refusal := event (fun s => s.writeWint s.inp.index s.inp.v) s

end Sys2Proof.Machine
end

