-- ==== Sys2Proof/Machine/SeqTask.lean ====
section
/-! DEFINITION. Class SQ, the members that tasks issue: SQLOAD, SQSTART, SQSTOP, SQSTAT (R422 to R424). -/

namespace Sys2Proof.Machine

/-- The state code of a thread (R120). -/
def ThreadSt.code : ThreadSt → Nat
  | .idle => 0 | .loaded => 1 | .running => 2 | .waiting => 3 | .held => 4 | .error => 5

/-- The status word of a thread (R120). -/
def Thread.word (t : Thread) : BitVec 64 :=
  BitVec.ofNat 64 (t.sweep.toNat % 65536 * 2 ^ 48 + (if t.st = .error then t.cause.toNat else 0) * 2 ^ 32 + t.pc % 16384 * 65536 + t.st.code)

/-- Words of program memory from `base` on belong to a thread that is not IDLE (R119, R423). -/
def rangeUsed (s : State) (base n : Nat) : Bool :=
  s.flood.threads.any fun e => e.2.st != .idle && decide (base < e.2.base + e.2.len) && decide (e.2.base < base + n)

/-- The free ranges of n words (R423). -/
def freeRanges (s : State) (n : Nat) : List Nat := (List.range (16385 - n)).filter fun b => !rangeUsed s b n

/-- Loading words of 12 bytes into program memory. -/
def loadWords (prog : Tab InstrWord) (base : Nat) (bs : List Byte) : Nat → Tab InstrWord
  | 0 => prog
  | n + 1 => loadWords (Tab.set prog base (leBits 96 (bs.take 12))) (base + 1) (bs.drop 12) n

/-- An SQ result in s[D]. -/
def sqResult (s : State) (c : Nat) (q : Entry) (d : SReg) (v : Nat) : PRes :=
  ⟨s.modTask c q.slot fun t => t.setS d (BitVec.ofNat 64 v), 0, 0, .done⟩

/-- SQLOAD on the CX engine: words read into a free range, the thread LOADED and bound (R423). (DEDUCED, unsafe, log 58) -/
def runSqload (sys : Bool) (d : SReg) (t : ThreadId) (_p : AReg) (_n : SReg) : Perf := fun c q s =>
  let a : Addr := q.o1.setWidth 80
  let n := (q.o2.setWidth 64).toNat
  let k := s.task c q.slot
  let x := engAcc c .cx k.asid false true false
  let len := if n ≤ 16384 then 12 * n else 12
  if a.toNat % 4 ≠ 0 then ⟨s, 0, 0, .trap cALIGN 0 a⟩
  else if spBad s x a len then ⟨s, 0, 0, .trap cSPACCESS 0 a⟩
  else if vaRegion a = .host then ⟨s, 0, 0, .trap cXLATE xFORM a⟩
  else if (s.thread t).st ≠ .idle then sqResult s c q d 1
  else if n = 0 ∨ 16384 < n then sqResult s c q d 3
  else
    let free := freeRanges s n
    if free.isEmpty then sqResult s c q d 2
    else
      let base := free.getD (Config.freeRange s.freeCtr % free.length) 0
      engAccess s c q x a (12 * n) 0 0 fun s l =>
        match s.firstPoisonAll l with
        | some i => ⟨s, 0, 0, .poison cPOISON (a + BitVec.ofNat 80 i)⟩
        | none =>
          let s := { s with freeCtr := s.freeCtr + 1, flood := { s.flood with prog := loadWords s.flood.prog base (s.readAll l) n } }
          let s := s.setThread t
            { st := .loaded, cause := 0, pc := base, sweep := k.sweep, asid := k.asid, base := base, len := n, sys := sys }
          sqResult s c q d (base * 65536)

/-- sqload.sys is privileged (R422). -/
def sqloadIllegal (sys : Bool) (t : Task) : Bool := sys && !t.priv

/-- SQLOAD: its issue into the CX queue. -/
def execSqload (y : Sync) (sys : Bool) (d : SReg) (t : ThreadId) (p : AReg) (n : SReg) (s : State) :
    Host.Outcome State Fault Refusal :=
  engine (sqloadIllegal sys) (cx (.sqload y sys d t p n) fun k => [0, capA k p, capS k n]) (runSqload sys d t p n) s

/-- SQSTART on the CX engine (R424). -/
def runSqstart (d : SReg) (t : ThreadId) (_a : AReg) : Perf := fun c q s =>
  let h := s.thread t
  if h.st ≠ .loaded then sqResult s c q d 1
  else if h.sweep ≠ (s.task c q.slot).sweep then sqResult s c q d 2
  else
    sqResult (s.setThread t { h with st := .running, pc := h.base, w := (Vector.replicate 16 0).set 0 (q.o1.setWidth 80) }) c q d 0

/-- SQSTART: its issue into the CX queue. -/
def execSqstart (y : Sync) (d : SReg) (t : ThreadId) (a : AReg) (s : State) : Host.Outcome State Fault Refusal :=
  engine legal (cx (.sqstart y d t a) fun k => [0, capA k a]) (runSqstart d t a) s

/-- SQSTOP on the CX engine (R424). -/
def runSqstop (d : SReg) (t : ThreadId) : Perf := fun c q s =>
  let h := s.thread t
  if h.st = .idle then sqResult s c q d 3
  else if h.sweep ≠ (s.task c q.slot).sweep then sqResult s c q d 2
  else sqResult (s.setThread t { h with st := .idle, units := [], cause := 0 }) c q d 0

/-- SQSTOP: its issue into the CX queue. -/
def execSqstop (y : Sync) (d : SReg) (t : ThreadId) (s : State) : Host.Outcome State Fault Refusal :=
  engine legal (cx (.sqstop y d t) noCaps) (runSqstop d t) s

/-- SQSTAT on the CX engine: another sweep's thread shows its state alone (R424). -/
def runSqstat (d : SReg) (t : ThreadId) : Perf := fun c q s =>
  let h := s.thread t
  sqResult s c q d (if h.sweep = (s.task c q.slot).sweep then h.word.toNat else h.st.code)

/-- SQSTAT: its issue into the CX queue. -/
def execSqstat (y : Sync) (d : SReg) (t : ThreadId) (s : State) : Host.Outcome State Fault Refusal :=
  engine legal (cx (.sqstat y d t) noCaps) (runSqstat d t) s

end Sys2Proof.Machine
end

