-- ==== Sys2Proof/Machine/Regs.lean ====
section
/-! DEFINITION. The management window: what a host read of each register returns, and the write of a register without behaviour of its own (R11, R26, R34, R57, R60, R68, R69, R74, R81, R86, R91, R94 to R96, R111, R120, R133, R134, R142, R145, R174, R198, R206). -/

namespace Sys2Proof.Machine

/-! ## Register words -/

/-- BIND of a site (R26). -/
def Bind.word (b : Bind) : BitVec 32 :=
  if b.en then
    BitVec.ofNat 32 (2 ^ 31 + b.unchk1.toNat * 2 ^ 30 + b.unchk0.toNat * 2 ^ 29 + b.core % 512 * 65536 + b.l1slab.toNat * 32 +
      b.l1half.toNat * 16 + b.l0slab.toNat * 2 + b.l0half.toNat)
  else 0x01FF0066

/-- CLK of a cluster (R34). -/
def Cluster.word (k : Cluster) : BitVec 64 :=
  BitVec.ofNat 64 (k.dcount.toNat * 2 ^ 32 + k.retired.toNat * 2 ^ 31 + k.throt.toNat * 2 ^ 30 + k.curStep % 64 * 65536 +
    k.setStep % 64 * 256 + k.maxStep % 64)

/-- STATE of LSTAT (R57). -/
def PortSt.code : PortSt → Nat
  | .down => 0 | .training => 1 | .active => 2 | .stranded => 3 | .markedDown => 4

/-- LSTAT (R57). -/
def Port.lstat (p : Port) : BitVec 64 :=
  BitVec.ofNat 64 (p.txmap.toNat * 2 ^ 56 + p.rxmap.toNat * 2 ^ 48 + width p.txmap * 2 ^ 44 + width p.rxmap * 2 ^ 40 +
    p.strcnt.toNat * 2 ^ 37 + p.st.code * 2 ^ 32 + p.txchg.toNat * 2 ^ 31 + p.rxchg.toNat * 2 ^ 30 + p.disag.toNat * 2 ^ 16)

/-- LTHR: the value last written, with its stores (R57). -/
def Port.lthr (p : Port) : BitVec 64 :=
  let p := match p.lthrNext with | some v => p.setLthr v | none => p
  BitVec.ofNat 64 (p.winexp.toNat * 2 ^ 32 + p.sheduc.toNat * 2 ^ 24 + p.burst.toNat * 65536 + p.admuc.toNat * 256 + p.admwin.toNat)

/-- Eight bytes of numbers, the first lowest. -/
def packBytes (f : Nat → Nat) : BitVec 64 :=
  BitVec.ofNat 64 ((List.range 8).foldl (fun n i => n + f i % 256 * 256 ^ i) 0)

/-- A register of a port (R57). -/
def Port.reg (p : Port) : Nat → BitVec 64
  | 0x00 => p.lstat
  | 0x08 => p.lthr
  | 0x10 => BitVec.ofNat 64 (p.hold.toNat * 16 + p.perhop.toNat * 8)
  | 0x18 => p.replays ++ p.crcerr
  | 0x20 => packBytes fun i => (Tab.get (0 : BitVec 8) p.lanecnt i).toNat
  | 0x28 => packBytes fun i => Tab.get 0 p.cred i
  | _ => 0

/-- ROUTECTL (R68). -/
def Router.ctl (r : Router) : BitVec 64 :=
  BitVec.ofNat 64 (r.ebbt.toNat * 2 ^ 48 + r.nmbias.toNat * 2 ^ 40 + r.rplim.toNat * 2 ^ 32 + r.igcnt.toNat * 65536 +
    r.egen.toNat * 2 ^ 15 + r.draining.toNat * 2 ^ 14)

/-- A window entry (R74). -/
def Window.word (w : Window) : BitVec 128 :=
  BitVec.ofNat 128 (w.base.toNat * 2 ^ 64 + w.valid.toNat * 2 ^ 63 + w.sizexp.toNat * 2 ^ 48 + w.asid.toNat * 2 ^ 32 + w.keyep.toNat)

/-- Counts of a stack as a millisecond begins (R111). -/
def Stack.roll (k : Stack) (ms : Nat) : Stack :=
  if k.ms = ms then k
  else { k with rfmcnt := if ms = k.ms + 1 then BitVec.ofNat 16 (Nat.min k.rfmNow 65535) else 0, rfmNow := 0, ms := ms }

/-- The millisecond of SI time (R73). -/
def State.millisecond (s : State) : Nat := s.ftime / 15625

/-- A register of a stack (R111). -/
def Stack.reg (k : Stack) (ms : Nat) : Nat → BitVec 64
  | 0x00 =>
    BitVec.ofNat 64 (k.storm.toNat * 2 ^ 40 + k.raamax.toNat * 2 ^ 32 + k.raalevel.toNat * 2 ^ 24 + k.raadec.toNat * 65536 +
      k.tcrit.toNat * 256 + k.texit.toNat)
  | 0x08 =>
    BitVec.ofNat 64 (k.cecnt.toNat * 2 ^ 48 + k.uecnt.toNat * 2 ^ 32 + k.temp.toNat * 2 ^ 24 + k.sref.toNat * 2 ^ 23 +
      (k.roll ms).rfmcnt.toNat)
  | 0x10 => k.period.setWidth 64
  | _ => 0

/-- A register of a launch page (R86). -/
def LPage.reg (p : LPage) : Nat → BitVec 64
  | 0x00 =>
    BitVec.ofNat 64 (p.en.toNat * 2 ^ 63 + p.asid.toNat * 2 ^ 32 + p.vec.toNat * 256 + p.irq.toNat * 128 + p.priv.toNat * 64 +
      p.clfloor.toNat * 16)
  | 0x08 => BitVec.ofNat 64 (p.base.toNat * 4096 + p.sz.toNat)
  | 0x10 => BitVec.ofNat 64 (p.dropcnt.toNat * 2 ^ 48 + p.seq.toNat * 2 ^ 32 + p.tail.toNat * 65536 + p.head.toNat)
  | _ => 0

/-- DEVSTAT (R94). -/
def State.devstat (s : State) : BitVec 64 :=
  BitVec.ofNat 64 (s.freason.toNat * 2 ^ 56 + s.bootst.toNat * 16 + s.faulted.toNat * 8 + s.dbg.halt.toNat * 4)

/-- A register of the tidemark log (R96). -/
def Tide.reg (t : Tide) : Nat → BitVec 64
  | 0x00 => BitVec.ofNat 64 t.head
  | 0x08 => BitVec.ofNat 64 t.tail
  | 0x10 => t.lost
  | 0x18 => t.nonce
  | o => if 0x20 ≤ o ∧ o < 0x40 then leBits 64 ((digestBytes t.basehash).drop (o - 0x20)) else 0

/-- An entry of the ASID table (R133). -/
def AsidEnt.word (e : AsidEnt) : BitVec 64 :=
  BitVec.ofNat 64 (e.valid.toNat * 2 ^ 63 + e.hosten.toNat * 2 ^ 62 + e.nopf.toNat * 2 ^ 61 + e.pasid.toNat * 2 ^ 32)

/-- A register of the mapping command block (R134). -/
def MapCmd.reg (m : MapCmd) : Nat → BitVec 64
  | 0x00 => m.cmd0
  | 0x08 => m.cmd1
  | 0x10 => m.cmd2
  | 0x18 => m.cmd3
  | 0x20 => m.cmd4
  | 0x28 => m.cmd5
  | 0x30 => m.cmd6
  | 0x38 => m.cmd7
  | 0x40 => BitVec.ofNat 64 (m.busy.toNat * 256 + m.status.toNat)
  | _ => 0

/-- XLCTL (R142). -/
def XlCtl.word (x : XlCtl) : BitVec 64 :=
  BitVec.ofNat 64 (x.pnvec.toNat * 2 ^ 32 + x.pfvec.toNat * 2 ^ 20 + x.pnen.toNat * 2 + x.pfen.toNat)

/-- A register of the sweep command block (R198). -/
def SweepCmd.reg (m : SweepCmd) : Nat → BitVec 64
  | 0x00 => m.scmd
  | 0x08 => m.saddrlo
  | 0x10 => m.saddrhi
  | 0x18 => m.scores
  | 0x20 => m.sgo
  | 0x28 => BitVec.ofNat 64 (m.size.toNat * 2 ^ 32 + m.busy.toNat * 256 + m.status.toNat)
  | _ => 0

/-- DBGCTL (R206). -/
def DbgCtl.word (d : DbgCtl) : BitVec 64 :=
  BitVec.ofNat 64 (d.asid.toNat * 2 ^ 48 + d.done.toNat * 4 + d.haltonbrk.toNat * 2 + d.halt.toNat)

/-- SCHEDSTAT (R174). -/
def State.schedstat (s : State) : BitVec 64 :=
  BitVec.ofNat 64 (s.mqCount * 2 ^ 32 + (s.sweeps.filter fun w => w.entry.isSome).length)

/-- Eight bytes of a wide word. -/
def slice64 {n : Nat} (x : BitVec n) (off : Nat) : BitVec 64 := x.extractLsb' (8 * off) 64

/-! ## A host read (R81) -/

/-- The firmware-staging buffer responds at an offset: in recovery (R92; its place is the model's choice: DESIGN CHOICE, unsafe, log 10). -/
def State.stages (s : State) (off : Nat) : Bool :=
  s.bootst == 15 && decide (Config.stagingBase ≤ off) && decide (off < Config.stagingBase + Config.stagingSize) && off / 8 != 0x18000 &&
  off / 8 != 0x18001

/-- The eight bytes at an offset of the management window that is a multiple of 8. In recovery only DEVSTAT, DEVCTL and the staging buffer
respond (R92). -/
def State.mgmtRead (s : State) (off : Nat) : BitVec 64 :=
  if !s.powered then 0
  else if off = 0xC0000 then s.devstat
  else if s.bootst = 15 then
    leBits 64 ((List.range 8).map fun i => if s.stages (off + i) then Sparse.get s.staging (off + i - Config.stagingBase) else 0)
  else
    let i := fun (base size : Nat) => (off - base) / size
    let o := fun (base size : Nat) => (off - base) % size
    let within := fun (base size : Nat) => decide (base ≤ off) && decide (off < base + size)
    if within 0x40000 0x800 then
      let b := fun k => let x := o 0x40000 0x200 / 4 + k; if x < 80 then (s.bindOf (80 * i 0x40000 0x200 + x)).word else 0
      b 1 ++ b 0
    else if within 0x41000 0x80 then (s.cluster (i 0x41000 8)).word
    else if within 0x50000 0xC00 then (s.port (i 0x50000 0x40)).reg (o 0x50000 0x40)
    else if off = 0x50C00 then s.router.ctl
    else if within 0x60000 0x2000 then Sparse.get s.router.gtab (i 0x60000 8)
    else if within 0x70000 0x10000 then slice64 (s.window (i 0x70000 16)).word (o 0x70000 16)
    else if within 0x80000 0x10000 then leBits 64 (s.router.ebb.bytes (off - 0x80000) 8)
    else if within 0x90000 0x300 then (s.stack (i 0x90000 0x40)).reg s.millisecond (o 0x90000 0x40)
    else if within 0x91000 0x100 then
      if o 0x91000 16 = 0 then (Tab.get ({} : Thread) s.flood.threads (i 0x91000 16)).word else 0
    else if within 0xA0000 (288 * 0x40) then
      let m := fun k => Tab.get (0 : BitVec 32) (s.core (i 0xA0000 0x40)).mbox (o 0xA0000 0x40 / 4 + k)
      m 1 ++ m 0
    else if within 0xB0000 0x8000 then (s.lpage (i 0xB0000 0x20)).reg (o 0xB0000 0x20)
    else if off = 0xC0010 then BitVec.ofNat 64 s.strcount
    else if within 0xC0100 0x40 then s.tide.reg (off - 0xC0100)
    else if off = 0xD0000 then s.xlctl.word
    else if within 0xD0100 0x48 then s.mapcmd.reg (off - 0xD0100)
    else if off = 0xD0180 then s.pfhead.setWidth 64
    else if off = 0xD0188 then s.pftail.setWidth 64
    else if within 0xD1000 0x2000 then slice64 (Tab.get 0 s.pfring (i 0xD1000 32)) (o 0xD1000 32)
    else if off = 0xE0000 then BitVec.ofNat 64 (s.prewait.toNat * 65536)
    else if off = 0xE0008 then s.schedstat
    else if off = 0xE0100 then s.dbg.word
    else if within 0xE0200 0x30 then s.scmd.reg (off - 0xE0200)
    else if within 0x100000 0x40000 then slice64 (Tab.get 0 s.strand (i 0x100000 32)) (o 0x100000 32)
    else if within 0x180000 0x80000 then (s.asidEnt (i 0x180000 8)).word
    else if within 0x200000 0x40000 then slice64 (Tab.get (0 : ShardEnt) s.shtab (i 0x200000 64)) (o 0x200000 64)
    else 0

/-- The 64 bytes of a tidemark entry in the log window; one that is not yet appended reads what stands there. In recovery nothing
responds there (R81, R92, R96). -/
def State.logRead (s : State) (t : Nat) : List Byte :=
  if s.powered && s.bootst != 15 then s.mgmtBytes (tideDpa t) 64 else List.replicate 64 0

/-- What a host physical address names (R81). -/
inductive HostTarget
  | mgmt (off : Nat)
  | launch (page off : Nat)
  | log (off : Nat)
  | none
deriving DecidableEq, Repr

/-- The window of a host physical address (R81). -/
def State.hostTarget (s : State) (pa : Nat) : HostTarget :=
  let within := fun (base size : Nat) => decide (base ≤ pa) && decide (pa < base + size)
  if within s.winMgmt 0x1000000 then .mgmt (pa - s.winMgmt)
  else if within s.winLaunch 0x400000 then .launch ((pa - s.winLaunch) / 4096) ((pa - s.winLaunch) % 4096)
  else if within s.winLog 0x1000000 then .log (pa - s.winLog)
  else .none

/-- A host read of `n` bytes within one register, one launch page or one log entry: launch pages read zero (R81). -/
def State.hostRead (s : State) (pa n : Nat) : List Byte :=
  match s.hostTarget pa with
  | .mgmt off => ((toBytes (s.mgmtRead (off / 8 * 8)).toNat 8).drop (off % 8)).take n
  | .log off => ((s.logRead (off / 64)).drop (off % 64)).take n
  | .launch _ _ | .none => List.replicate n 0

/-! ## A host write of a register without behaviour of its own (R11, R12) -/

/-- CMD0 to CMD6 as written (R134). -/
def MapCmd.store (m : MapCmd) (o : Nat) (v : BitVec 64) : MapCmd :=
  match o with
  | 0x00 => { m with cmd0 := v }
  | 0x08 => { m with cmd1 := v }
  | 0x10 => { m with cmd2 := v }
  | 0x18 => { m with cmd3 := v }
  | 0x20 => { m with cmd4 := v &&& 0xF000000FFFFFFFFF }
  | 0x28 => { m with cmd5 := v }
  | 0x30 => { m with cmd6 := v &&& 0xFFFF }
  | _ => m

/-- SCMD, SADDRLO, SADDRHI and SCORES as written (R198). -/
def SweepCmd.store (m : SweepCmd) (o : Nat) (v : BitVec 64) : SweepCmd :=
  match o with
  | 0x00 => { m with scmd := v }
  | 0x08 => { m with saddrlo := v }
  | 0x10 => { m with saddrhi := v }
  | 0x18 => { m with scores := v }
  | _ => m

/-- The RW fields of a register at an offset take a value; a read-only register ignores it. -/
def State.storeReg (s : State) (off : Nat) (v : BitVec 64) : State :=
  let i := fun (base size : Nat) => (off - base) / size
  let within := fun (base size : Nat) => decide (base ≤ off) && decide (off < base + size)
  if off = 0x50C00 then
    let e := v.extractLsb' 48 16
    { s with router := { s.router with
        ebbt := (if e = 0 then 1 else e), nmbias := v.extractLsb' 40 8, rplim := v.extractLsb' 32 8 } }
  else if within 0x60000 0x2000 ∧ off % 8 = 0 then
    { s with router := { s.router with gtab := Sparse.set s.router.gtab (i 0x60000 8) ((v.extractLsb' 0 43).setWidth 64) } }
  else if within 0x80000 0x10000 then
    { s with router := { s.router with ebb := Sparse.set s.router.ebb (off - 0x80000) (v.extractLsb' 0 8) } }
  else if within 0x90000 0x300 ∧ (off - 0x90000) % 0x40 = 0x10 then
    let k := i 0x90000 0x40
    s.setStack k { s.stack k with period := v.extractLsb' 0 8 }
  else if off = 0xD0000 then
    { s with xlctl := { pnvec := v.extractLsb' 32 12, pfvec := v.extractLsb' 20 12, pnen := v.getLsbD 1, pfen := v.getLsbD 0 } }
  else if within 0xD0100 0x38 then { s with mapcmd := s.mapcmd.store (off - 0xD0100) v }
  else if off = 0xE0100 then
    if s.dbg.halt then s else { s with dbg := { s.dbg with asid := v.extractLsb' 48 16 } }
  else if within 0xE0200 0x20 then { s with scmd := s.scmd.store (off - 0xE0200) v }
  else if within 0x180000 0x80000 ∧ off % 8 = 0 then
    let e : AsidEnt := { valid := v.getLsbD 63, hosten := v.getLsbD 62, nopf := v.getLsbD 61, pasid := v.extractLsb' 32 20 }
    { s with asids := Tab.set s.asids (i 0x180000 8) e }
  else s

end Sys2Proof.Machine
end

