-- ==== Sys2Proof/Machine/HostEvents.lean ====
section
/-! DEFINITION. The events of the host link, the launch pages, the mailboxes and the memory queue (R78 to R91, R155). -/

namespace Sys2Proof.Machine

/-! ## The ZCL ports (R80, R81, R85) -/

/-- Completion records that were held while no port was up are written. -/
def State.flushRings (s : State) : State :=
  (s.lpages.map fun (e : Nat × LPage) => e.1).foldl (fun s k => flushRing k ((s.lpage k).held.length + 1) s) s

/-- A ZCL port is up or down, as a CFG message to the host says; what waited for a port goes on (R79, R80). -/
def State.setZcl (s : State) (p : Nat) (up : Bool) : State :=
  let s := if p = 0 then { s with zcl0 := up } else if p = 1 then { s with zcl1 := up } else s
  let s := if p < 2 then { s with hostLog := s.hostLog ++ [.cfg p up (s.zclLow.contains p)] } else s
  if up then ({ s with zclWait := false }.flushRings.retryWords).retryIngress else s

/-- ZCL_CFG_MESSAGE: the window assignment, a port's state, or its configuration: L0 or L0p (R78, R79, R81). -/
def execZclCfgMessage (s : State) : Host.Outcome State Fault Refusal :=
  event (fun s =>
    if s.powered then
      match s.inp.cfg with
      | .windows m l g => { s with winMgmt := m, winLaunch := l, winLog := g }
      | .portState p up => s.setZcl p.val up
      | .portConfig p low =>
        { s with
          zclLow := if low then s.zclLow.add p.val else s.zclLow.del p.val
          hostLog := s.hostLog ++ [.cfg p.val (if p.val = 0 then s.zcl0 else s.zcl1) low] }
    else s) s

/-- ZCL_LINK_DOWN (R80). -/
def execZclLinkDown (s : State) : Host.Outcome State Fault Refusal := event (fun s => s.setZcl s.inp.port false) s

/-- ZCL_LINK_UP (R80). -/
def execZclLinkUp (s : State) : Host.Outcome State Fault Refusal := event (fun s => s.setZcl s.inp.port true) s

/-- HOSTLINK_TIMEOUT: no port up for 10 ms while a host-half access waits (R80). -/
def execHostlinkTimeout (s : State) : Host.Outcome State Fault Refusal :=
  event (fun s => if s.powered && s.zclWait && !s.zclUp then s.deviceFault fHOSTLINK else s) s

/-- ZCL_MEM_COMPLETION: the access was performed when it was issued (R85; DESIGN CHOICE, unsafe, log 5). -/
def execZclMemCompletion (s : State) : Host.Outcome State Fault Refusal := event (fun s => s) s

/-! ## Host translations (R83, R84) -/

/-- The address translation cache takes a page for every address space whose request the reply answers (R83, R133, R136). -/
def State.fillAtc (s : State) (q : XltReq) (pa : Nat) (r w x : Bool) : State :=
  q.asids.foldl (fun s a =>
    s.fillTlb { cache := .atc, asid := a, vbase := q.vpage * 4096, shift := 12, pbase := pa / 4096 * 4096, r := r, w := w, x := x,
                pasid := some q.pasid }) s

/-- The answer that a reply leaves for the next access of each of those address spaces. -/
def State.note (s : State) (q : XltReq) (x : XltNote) : State :=
  { s with xltAns := s.xltAns ++ q.asids.map fun a => (a, q.vpage, x) }

/-- XLT_REPLY: the answer to a request in flight; what waited for it is tried again (R83). -/
def execXltReply (s : State) : Host.Outcome State Fault Refusal :=
  event (fun s =>
    let pasid := s.inp.pasid
    let vpage := s.inp.va.toNat / 4096
    match s.xlts.find? fun q => q.pasid == pasid && q.vpage == vpage with
    | none => s
    | some q =>
      let s := { s with xlts := s.xlts.erase q }
      let s := match s.inp.xlt with
        | .translation pa r w x => (s.fillAtc q pa r w x).note q .fresh
        | .notPresent => s.note q .notPresent
        | .refused => s.note q .refused
      (s.retryWords).retryIngress) s

/-- What a cached translation reached. -/
def TlbEntry.old (e : TlbEntry) : Old := { host := e.pasid.isSome, base := e.pbase, len := 2 ^ e.shift }

/-- Cached translations go; what they reached (R84, R135). -/
def State.dropTlb (s : State) (p : TlbEntry → Bool) : State × List Old :=
  ({ s with tlb := s.tlb.filter fun e => !(p e) }, (s.tlb.filter p).map fun e => e.old)

/-- A byte range lies, in part, in what an old translation reached. -/
def Old.meets (o : Old) : Place × Nat → Bool
  | (.hbm d _, n) => !o.host && decide (d < o.base + o.len) && decide (o.base < d + n)
  | (.host a, n) => o.host && decide (a < o.base + o.len) && decide (o.base < a + n)
  | _ => false

/-- Every access translated through some old entries is performed: no response will be written there, nor the unspecified bytes that a NACK
leaves of a GET, no contribution waits (R84, R135, R184). -/
def State.performedAll (s : State) (os : List Old) : Bool :=
  os.all fun o =>
    !(s.outst.any fun r => r.dst.any o.meets || (r.lw.any fun p => o.meets (p, 16))) &&
    !(s.xfers.any fun x => (s.outst.any fun r => x.of r) && x.dst.any fun e => e.2.any o.meets) &&
    !(s.ords.any fun r => r.held.any fun h => h.places.any o.meets)

/-- INV: the covered translations of a PASID are used no more, in whichever cache and address space they stand (R84, R136, R140). -/
def execInv (s : State) : Host.Outcome State Fault Refusal :=
  event (fun s =>
    let lo := s.inp.va
    let hi := s.inp.hi
    let r := s.dropTlb fun e =>
      e.pasid == some s.inp.pasid && decide (e.vbase ≤ hi.toNat) && decide (lo.toNat < e.vbase + 2 ^ e.shift)
    { r.1 with invs := r.1.invs ++ [{ pasid := s.inp.pasid, lo := lo, hi := hi, waits := r.2 }] }) s

/-- INV_COMPLETE: the reply, once every access through the old entries is performed (R84). -/
def execInvComplete (s : State) : Host.Outcome State Fault Refusal :=
  event (fun s =>
    match s.invs[s.inp.index]? with
    | none => s
    | some i =>
      if s.performedAll i.waits then { s with invs := s.invs.eraseIdx s.inp.index, hostLog := s.hostLog ++ [.invDone] } else s) s

/-! ## Launch pages (R86 to R89, R153 to R156) -/

/-- A completion that is due at once, without a sweep id: its word, then its record (R88, R157). -/
def State.refuseLaunch (s : State) (k : Nat) (seq asid : BitVec 16) (notify : Addr) (status reason : BitVec 8) : State :=
  (s.writeWord asid notify status reason 0).pushComp k { seq := seq, status := status, reason := reason, sweep := 0xFFFFFFFF, time := BitVec.ofNat 64 s.ftime, iters := 0 }

/-- An accepted launch write takes the page's next SEQ. -/
def State.takeSeq (s : State) (k : Nat) : State :=
  let p := s.lpage k
  s.setLpage k { p with seq := p.seq + 1, openCnt := p.openCnt + 1 }

/-- The checks of a launch's record, then its acceptance, or its refusal (R153 to R157). -/
def State.launchRec (s : State) (k : Nat) (seq : BitVec 16) (bs : List Byte) : State :=
  let p := s.lpage k
  let r := SweepRec.parse bs
  match checkRec s r false p.clfloor p.priv with
  | some status => s.refuseLaunch k seq p.asid r.notify status 0
  | none => if s.poolFull false then s.refuseLaunch k seq p.asid r.notify 5 0 else (s.accept r p.asid (.launch k seq)).1

/-- A launch write of some bytes to an offset of page k (R87, R89). -/
def State.launch (s : State) (k off : Nat) (bs : List Byte) : State :=
  let p := s.lpage k
  if !p.en || bs.length != 128 || off % 128 != 0 || p.full || !p.held.isEmpty then
    s.setLpage k { p with dropcnt := if p.dropcnt = 0xFFFF then p.dropcnt else p.dropcnt + 1 }
  else
    let s := s.takeSeq k
    let notify := (SweepRec.parse bs).notify
    if s.faulted then s.refuseLaunch k p.seq p.asid notify 1 fDEVFAULT
    else if 64 ≤ p.openCnt then s.refuseLaunch k p.seq p.asid notify 5 0
    else s.launchRec k p.seq bs

/-- LAUNCH_WRITE (R87). -/
def execLaunchWrite (s : State) : Host.Outcome State Fault Refusal :=
  event (fun s =>
    if s.mgmtOn && decide (s.inp.index < 1024) && decide (s.inp.off < 4096) then s.launch s.inp.index s.inp.off s.inp.bytes else s) s

/-- The record that leaves the memory queue: the first whose kind has a free entry (R155). -/
def State.queueHead (s : State) : Option (Sweep × Nat) :=
  s.sweeps.findSome? fun w =>
    let child := match w.src with | .child _ => true | .launch _ _ => false
    if w.entry.isNone && w.ended.isNone then (s.poolEntry child).map fun e => (w, e) else none

/-- QUEUE_TO_POOL (R155). -/
def execQueueToPool (s : State) : Host.Outcome State Fault Refusal :=
  event (fun s =>
    match s.queueHead with
    | some (w, e) => s.modSweep w.id fun w => { w with entry := some e }
    | none => s) s

/-- LPCFG as written (R86). -/
def LPage.cfg (p : LPage) (v : BitVec 64) : LPage :=
  if p.en then { p with en := v.getLsbD 63 }
  else
    { p with
      en := v.getLsbD 63, asid := v.extractLsb' 32 16, vec := v.extractLsb' 8 12, irq := v.getLsbD 7, priv := v.getLsbD 6
      clfloor := v.extractLsb' 4 2 }

/-- A write of a launch page's register. -/
def State.writeLpage (s : State) (k : Nat) (v : BitVec 64) (f : LPage → BitVec 64 → LPage) : State :=
  if s.mgmtOn && decide (k < 1024) then s.setLpage k (f (s.lpage k) v) else s

/-- LPCFG_WRITE (R86). -/
def execLpcfgWrite (s : State) : Host.Outcome State Fault Refusal :=
  event (fun s => s.writeLpage s.inp.index (s.inp.v.setWidth 64) LPage.cfg) s

/-- LPRING as written (R86). -/
def LPage.ring (p : LPage) (v : BitVec 64) : LPage :=
  if p.en then p else { p with base := v.extractLsb' 12 45, sz := if 10 < (v.extractLsb' 0 4).toNat then 10 else v.extractLsb' 0 4 }

/-- LPRING_WRITE (R86). -/
def execLpringWrite (s : State) : Host.Outcome State Fault Refusal :=
  event (fun s => s.writeLpage s.inp.index (s.inp.v.setWidth 64) LPage.ring) s

/-- LPPTR of a page as written: held records follow while the ring has room (R86, R89). -/
def State.writeLpptr (s : State) (k : Nat) (v : BitVec 64) : State :=
  let s' := s.writeLpage k v fun p v => { p with head := v.extractLsb' 0 16 }
  flushRing k ((s'.lpage k).held.length + 1) s'

/-- LPPTR_HEAD_WRITE (R86, R89). -/
def execLpptrHeadWrite (s : State) : Host.Outcome State Fault Refusal :=
  event (fun s => s.writeLpptr s.inp.index (s.inp.v.setWidth 64)) s

/-- A mailbox as the host writes it: a core that does not exist ignores it (R91). -/
def State.writeMbox (s : State) (c i : Nat) (v : BitVec 32) : State :=
  if s.mgmtOn && decide (c < Config.cores) then s.modCore c fun k => { k with mbox := Tab.set k.mbox i v } else s

/-- MAILBOX_HOST_WRITE (R91). -/
def execMailboxHostWrite (s : State) : Host.Outcome State Fault Refusal :=
  event (fun s => s.writeMbox s.inp.core s.inp.mb.val (s.inp.v.setWidth 32)) s

end Sys2Proof.Machine
end

