-- ==== Sys2Proof/Machine/SeqWord.lean ====
section
/-! DEFINITION. Class SQ, the words of the Flood sequencer's threads, and the performance of a burst's units (R119 to R123, R425 to R429). -/

namespace Sys2Proof.Machine

/-- A sequencer word in a task traps ILLEGAL; in a thread it acts (R209, R425). -/
def seqWord (body : ThreadId → State → State) (s : State) : Host.Outcome State Fault Refusal :=
  match s.cur with
  | .task c n => .next (s.issueTrap c n cILLEGAL 0 0)
  | .thread t => .next (body t s)

/-- Changing a thread. -/
def State.modThread (s : State) (t : ThreadId) (f : Thread → Thread) : State := s.setThread t (f (s.thread t))

/-- The word is done: the next one follows (R425). -/
def Thread.next (h : Thread) : Thread := { h with st := .running, pc := h.pc + 1 }

/-- A register of a thread. -/
def Thread.reg (h : Thread) (w : WReg) : Addr := h.w[w.val]
def Thread.setReg (h : Thread) (w : WReg) (x : Addr) : Thread := { h with w := h.w.set w.val x }

/-- A core holds a task of a sweep. -/
def holdsTask (s : State) (c : Nat) (id : BitVec 32) : Bool := !(s.slotsOf c id).isEmpty

/-- The units that a set of a thread names: cores that hold a task of its sweep; every unit's lowest core under .sys (R119, R422). -/
def targets (s : State) (h : Thread) (set : BitVec 288) : List Nat :=
  (List.range Config.cores).filter fun c => set.getLsbD c && (if h.sys then s.leaderOf c == c else holdsTask s c h.sweep)

/-- A set bound to another sweep that still stands (R427). -/
def setForeign (s : State) (h : Thread) (m : MsReg) : Bool :=
  !h.sys &&
  match (s.mcset m.val).sweep with
  | some id => id != h.sweep && (s.sweep id).isSome
  | none => false

/-- A thread's access. -/
def seqAcc (h : Thread) : Acc :=
  { cache := .sequencer, unit := Config.cores, copy := true, asid := h.asid, r := true, w := false, x := false }

/-! ## SQBURST (R121, R426) -/

/-- The units of a burst of n bytes, cut at every 4 KiB boundary of its source. -/
def burstUnits (set : BitVec 288) (lw : Option (BitVec 26)) (pc : Nat) : Nat → Addr → Nat → Nat → List BurstUnit
  | 0, _, _, _ => []
  | fuel + 1, src, off, n =>
    if n = 0 then []
    else
      let k := Nat.min n (toBoundary src)
      { src := src, off := off, len := k, set := set, lw := lw, pageHeld := false, pc := pc } ::
        burstUnits set lw pc fuel (src + BitVec.ofNat 80 k) (off + k) (n - k)

/-- The condition that puts a thread at SQBURST in ERROR (R426). -/
def burstFault (s : State) (h : Thread) (a : Addr) (n : Nat) (o : Addr) (set : BitVec 288) (lw : Option (BitVec 26)) : Option (BitVec 8) :=
  if vaRegion a ≠ .device then some cXLATE
  else if 2 ^ 32 ≤ n then some cOPFORMAT
  else if 2 ^ 26 ≤ o.toNat then some cSPACCESS
  else if (targets s h set).any fun u => decide (s.spSize u < o.toNat + n) then some cSPACCESS
  else if (lw.getD 0).toNat % 16 ≠ 0 then some cALIGN
  else none

/-- SQBURST: its units become ready and the next word issues at once (R426). -/
def execSqburst (s' n o : WReg) (ms : MsReg) (lw : Option (BitVec 26)) (s : State) : Host.Outcome State Fault Refusal :=
  seqWord (fun t s =>
    let h := s.thread t
    let len := ((h.reg n).setWidth 64).toNat
    let set := (s.mcset ms.val).bits
    if setForeign s h ms then s.threadError t cPROT
    else
      match burstFault s h (h.reg s') len (h.reg o) set lw with
      | some cause => s.threadError t cause
      | none =>
        s.setThread t { h.next with units := h.units ++ burstUnits set lw h.pc (len / 4096 + 2) (h.reg s') (h.reg o).toNat len }) s

/-- Writing a unit's bytes in every target and counting them there (R121, R426). -/
def deliverUnit (s : State) (h : Thread) (u : BurstUnit) (bs : List Byte) (bad : Nat → Bool) : State :=
  (targets s h u.set).foldl (fun s c =>
    let s := s.writeTag (.spm c u.off) bs bad 0
    match u.lw with
    | some w => s.landCount c w.toNat u.len true
    | none => s) s

/-- A unit's fault puts its thread in ERROR at its SQBURST (R120). -/
def State.burstError (s : State) (t : ThreadId) (u : BurstUnit) (cause : BitVec 8) : State :=
  (s.modThread t fun h => { h with pc := u.pc }).threadError t cause

/-- Performing the unit at an index of a thread: its source read, or its fault (R120, R426, R469). -/
def State.burst (s : State) (t : ThreadId) (i : Nat) : State :=
  let h := s.thread t
  match h.units[i]? with
  | none => s
  | some u =>
    match resolve s (seqAcc h) u.src u.len with
    | (s, .ok l) =>
      let s := deliverUnit s h u (s.readAll l) (s.poisonAt l)
      s.modThread t fun h => { h with units := h.units.eraseIdx i }
    | (s, .error (.trap code _, _)) => s.burstError t u code
    | (s, .error (.poison, _)) => s.burstError t u cPOISON
    | (s, .error (.absent, va)) =>
      if (s.asidEnt h.asid.toNat).nopf then s.burstError t u cXLATE
      else
        let s := s.pageFault h.asid va 0xFFFF (BitVec.ofNat 8 t.val) 6 1 (.thread t)
        s.modThread t fun h =>
          { h with st := .waiting, units := h.units.set i { u with pageHeld := true } }
    | (s, .error _) => s

/-- The stack of a unit's first byte; none when it does not translate (R122). -/
def unitStack (s : State) (h : Thread) (u : BurstUnit) : Option Nat :=
  match (xlate s (seqAcc h) u.src 1 false).2 with
  | .ok (.hbm dpa _) => some (stackOf dpa)
  | _ => none

/-- The unit that a stack's slot is granted to: of the lowest-numbered thread that has one ready (R122). -/
def grantUnit (s : State) (stack : Nat) : Option (ThreadId × Nat) :=
  ((List.finRange 16).flatMap fun t =>
    let h := s.thread t
    if h.st = .running ∨ h.st = .waiting then
      (h.units.zipIdx.filter fun u => !u.1.pageHeld && (unitStack s h u.1 == some stack || (unitStack s h u.1).isNone)).map fun u => (t, u.2)
    else []).head?

/-! ## SQSET (R427) -/

/-- Bits of FIRST + k × STEP. -/
def strideBits (first count step : BitVec 9) : BitVec 288 :=
  (List.range count.toNat).foldl (fun b k => b ||| ((1 : BitVec 288) <<< (first.toNat + k * step.toNat))) 0

/-- A FIRST, COUNT, STEP that enters ERROR (R427). -/
def strideBad (first count step : BitVec 9) : Bool :=
  count == 0 || step == 0 || decide (288 ≤ first.toNat + (count.toNat - 1) * step.toNat)

/-- Changing a multicast set by a thread. -/
def setOp (t : ThreadId) (m : MsReg) (s : State) (f : McSet → McSet) : State :=
  let h := s.thread t
  if setForeign s h m then s.threadError t cPROT
  else (s.setMcset m.val (f (s.mcset m.val))).setThread t h.next

/-- SQSET (R427). (DEDUCED, unsafe, log 60) -/
def execSqset (op : SqsetOp) (s : State) : Host.Outcome State Fault Refusal :=
  seqWord (fun t s =>
    let h := s.thread t
    match op with
    | .lo d x => s.setThread t (h.next.setReg d (x.setWidth 80))
    | .mid d x => s.setThread t (h.next.setReg d ((h.reg d).extractLsb' 64 16 ++ x ++ (h.reg d).extractLsb' 0 32))
    | .hi d x => s.setThread t (h.next.setReg d (x ++ (h.reg d).extractLsb' 0 64))
    | .addi d x => s.setThread t (h.next.setReg d (h.reg d + x.signExtend 80))
    | .add d a => s.setThread t (h.next.setReg d (h.reg d + h.reg a))
    | .msclr m => setOp t m s fun _ => { bits := 0, sweep := some h.sweep }
    | .msset m f k p =>
      if strideBad f k p then s.threadError t (if setForeign s h m then cPROT else cOPFORMAT)
      else setOp t m s fun x => { x with bits := x.bits ||| strideBits f k p }
    | .msrem m f k p =>
      if strideBad f k p then s.threadError t (if setForeign s h m then cPROT else cOPFORMAT)
      else setOp t m s fun x => { x with bits := x.bits &&& ~~~(strideBits f k p) }) s

/-! ## SQSIG, SQWAIT, SQLOOP, SQEND (R428, R429) -/

/-- SQSIG: after every earlier unit, a signal at each unit of the set (R428). -/
def execSqsig (ms : MsReg) (n : BitVec 8) (k : BitVec 4) (s : State) : Host.Outcome State Fault Refusal :=
  seqWord (fun t s =>
    let h := s.thread t
    if setForeign s h ms then s.threadError t cPROT
    else if !h.units.isEmpty then s
    else
      ((targets s h (s.mcset ms.val).bits).foldl (fun s c => s.signalExt c n k.toNat) s).setThread t h.next) s

/-- The place SQWAIT may read: the device half, or the scratchpad of a core that holds a task of the sweep (R428). -/
def waitRegionOk (s : State) (h : Thread) (a : Addr) : Bool :=
  match vaRegion a with
  | .device => true
  | .host => false
  | .scratch =>
    match spaCore s (seqAcc h) (a.extractLsb' 0 36) with
    | some c => c < Config.cores && holdsTask s c h.sweep
    | none => false

/-- One test of SQWAIT: met, the next word follows; unmet, the thread is WAITING (R428). -/
def sqwaitTest (a v : WReg) (t : ThreadId) (s : State) : State :=
  let h := s.thread t
  let va := h.reg a
  if va.toNat % 8 ≠ 0 then s.threadError t cALIGN
  else if !waitRegionOk s h va then s.threadError t cSPACCESS
  else
    match resolve s (seqAcc h) va 8 with
    | (s, .ok l) =>
      if (s.firstPoisonAll l).isSome then s.threadError t cPOISON
      else if ((h.reg v).setWidth 64).toNat ≤ ofBytes (s.readAll l) then s.setThread t h.next
      else s.setThread t { h with st := .waiting }
    | (s, .error (.trap code _, _)) => s.threadError t code
    | (s, .error (.poison, _)) => s.threadError t cPOISON
    | (s, .error (.absent, fa)) =>
      if (s.asidEnt h.asid.toNat).nopf then s.threadError t cXLATE
      else (s.pageFault h.asid fa 0xFFFF (BitVec.ofNat 8 t.val) 6 1 (.thread t)).setThread t { h with st := .waiting }
    | (s, .error _) => s

/-- SQWAIT (R428). -/
def execSqwait (a v : WReg) (s : State) : Host.Outcome State Fault Refusal := seqWord (sqwaitTest a v) s

/-- SQLOOP (R429). -/
def execSqloop (c : WReg) (disp : BitVec 32) (s : State) : Host.Outcome State Fault Refusal :=
  seqWord (fun t s =>
    let h := s.thread t
    if h.reg c = 0 then s.setThread t h.next
    else
      let p : Int := (h.pc : Int) + disp.toInt
      if p < h.base ∨ (h.base + h.len : Nat) ≤ p then s.threadError t cILLEGAL
      else s.setThread t { h.setReg c (h.reg c - 1) with pc := p.toNat }) s

/-- SQEND: after every unit, the thread is IDLE and its range free (R429). -/
def execSqend (s : State) : Host.Outcome State Fault Refusal :=
  seqWord (fun t s =>
    if (s.thread t).units.isEmpty then s.setThread t { s.thread t with st := .idle, cause := 0 } else s) s

end Sys2Proof.Machine
end

