-- ==== Sys2Proof/Machine/MapEvents.lean ====
section
/-! DEFINITION. The events of translation: walks, the page-fault queue's head, and the mapping commands (R131 to R142, R418, R469). -/

namespace Sys2Proof.Machine

/-! ## Walks (R131, R137) -/

/-- A walk that serves a cache: it fills the cache, or leaves nothing. -/
def State.walkInto (s : State) (consume : Bool) (cache : CacheId) (asid : BitVec 16) (va : Addr) : State :=
  if vaRegion va = .device ∧ (s.asidEnt asid.toNat).valid then
    match walk s consume asid va with
    | (s, .ok f) => s.fillTlb (foundEntry s cache asid va f)
    | (s, .error _) => s
  else s

/-- PAGE_WALK: a walk on its own; the walk of an access that waits is part of that access (R131). -/
def execPageWalk (s : State) : Host.Outcome State Fault Refusal :=
  event (fun s => if s.powered && !s.stopped then s.walkInto true s.inp.cache s.inp.asid s.inp.va else s) s

/-- PFHEAD as written: records are consumed, and waiting ones queued (R141, R142). -/
def State.writePfhead (s : State) (v : BitVec 64) : State :=
  if s.mgmtOn then drainFaults (s.faults.length + 1) { s with pfhead := v.setWidth 16 } else s

/-- PFHEAD_WRITE (R141, R142). -/
def execPfheadWrite (s : State) : Host.Outcome State Fault Refusal := event (fun s => s.writePfhead (s.inp.v.setWidth 64)) s

/-! ## The command block (R134, R135) -/

/-- STATUS values. -/
def mBADOP : BitVec 8 := 1
def mINUSE : BitVec 8 := 2
def mDUPLICATE : BitVec 8 := 3
def mNOTMAPPED : BitVec 8 := 4
def mRESERVED : BitVec 8 := 5
def mMALFORMED : BitVec 8 := 6
def mNOFAULT : BitVec 8 := 7

/-- OP of the command block. -/
def MapCmd.op (m : MapCmd) : Nat := (m.cmd4.extractLsb' 60 4).toNat
/-- GFN. -/
def MapCmd.gfn (m : MapCmd) : Nat := (m.cmd4.extractLsb' 0 36).toNat
/-- The entry image. -/
def MapCmd.image (m : MapCmd) : IptEntry := m.cmd3 ++ m.cmd2 ++ m.cmd1 ++ m.cmd0
/-- ASID. -/
def MapCmd.asid (m : MapCmd) : BitVec 16 := m.cmd6.extractLsb' 0 16

/-- A command has ended with a status. -/
def State.mapStatus (s : State) (st : BitVec 8) : State :=
  { s with mapcmd := { s.mapcmd with status := st, busy := false, waits := [], again := false } }

/-- A command has acted and waits for accesses through what it invalidated. -/
def State.mapWait (s : State) (os : List Old) : State := { s with mapcmd := { s.mapcmd with busy := true, waits := os, again := false } }

/-- A command that reads or writes the tables is run, or waits for a bank and has done nothing (R107, R110, R112, R113). -/
def mapTry (f : State → Except Nat State) (s : State) : State :=
  match f s with
  | .ok t => t
  | .error _ => { s with mapcmd := { s.mapcmd with busy := true, again := true } }

/-- A write of CMD7, under which a command runs; ignored while a command is in progress (R134). -/
def startMap (f : State → State) (s : State) (v : BitVec 64) : State :=
  if s.mgmtOn && !s.mapcmd.busy then f { s with mapcmd := { s.mapcmd with cmd7 := v } } else s

/-- A write of CMD7 under an OP that meets a test (R134). -/
def mapEvent (p : Nat → Bool) (f : State → State) (s : State) : State :=
  if p s.mapcmd.op then startMap f s (s.inp.v.setWidth 64) else s

/-- The head's first address. -/
def IptEntry.va (e : IptEntry) : Addr := BitVec.ofNat 80 (2 ^ 79 + e.vpn.toNat * 65536)

/-- Frames of a page. -/
def IptEntry.frames (e : IptEntry) : Nat := 2 ^ (pageShift e.size.toNat - 16)

/-- Writing an entry whole. -/
def State.setIpt (s : State) (f : Nat) (e : IptEntry) : State := s.write (.hbm (iptDpa f) none) (toBytes e.toNat 32)

/-- Clearing or setting single fields of an entry. -/
def IptEntry.withV (e : IptEntry) (b : Bool) : IptEntry := (e &&& ~~~((1 : BitVec 256) <<< 63)) ||| (if b then (1 : BitVec 256) <<< 63 else 0)
def IptEntry.noCont (e : IptEntry) : IptEntry := e &&& ~~~((1 : BitVec 256) <<< 91)
def IptEntry.withNext (e : IptEntry) (n : Nat) : IptEntry :=
  (e &&& ~~~((BitVec.allOnes 36).setWidth 256 <<< 128)) ||| (BitVec.ofNat 256 (n % 2 ^ 36) <<< 128)

/-! ## MAP (R135) -/

/-- The image of a MAP is malformed. -/
def mapMalformed (e : IptEntry) (gfn : Nat) : Bool :=
  e.cont || (e.withNext chainEnd).malformed gfn || e.vpn.extractLsb' 20 43 == BitVec.allOnes 43

/-- A chain maps an address: one of its entries does, however long the chain is; a poisoned sector ends the search (R135, R469). The command
began in `begun`. -/
def chainMaps (begun : State) (asid : BitVec 16) (va : Addr) (sz : Nat) : Nat → Nat → State → State × Except WalkErr Bool
  | 0, _, s => (s, .ok false)
  | fuel + 1, f, s =>
    if Config.reservedGfn ≤ f then (s, .ok false)
    else
      match s.walkRead begun (iptDpa f) true with
      | (s, some x) => (s, .error x)
      | (s, none) =>
        let e := s.ipt f
        if e.v && e.asid == asid && e.size.toNat == sz &&
            decide (e.vpn.toNat / 2 ^ (pageShift sz - 16) = (va.extractLsb' 0 79).toNat / 2 ^ pageShift sz) then (s, .ok true)
        else chainMaps begun asid va sz fuel e.next.toNat s

/-- The first entry of a chain. -/
def State.chainHead (s : State) (anchor : Nat) : Nat :=
  let a : BitVec 64 := leBits 64 (s.hbm.bytes.bytes anchor 8)
  if a.getLsbD 63 then (a.extractLsb' 0 36).toNat else chainEnd

/-- One page of a size is mapped already. -/
def pageMapped (begun : State) (asid : BitVec 16) (s : State) (va : Addr) (sz : Nat) : State × Except WalkErr Bool :=
  let d := anchorDpa (anchorIndex asid sz va)
  match s.walkRead begun d true with
  | (s, some x) => (s, .error x)
  | (s, none) => chainMaps begun asid va sz (Config.reservedGfn + 1) (s.chainHead d) s

/-- Pages of a size that a page of another size meets, by their first addresses. -/
def IptEntry.meets (e : IptEntry) (sz : Nat) : List (Addr × Nat) :=
  (List.range (2 ^ (pageShift e.size.toNat - pageShift sz))).map fun i => (e.va + BitVec.ofNat 80 (i * 2 ^ pageShift sz), sz)

/-- Whether some page of a list is mapped; a poisoned sector ends the search. -/
def pagesMapped (begun : State) (asid : BitVec 16) : List (Addr × Nat) → State → State × Except WalkErr Bool
  | [], s => (s, .ok false)
  | (va, sz) :: l, s =>
    match pageMapped begun asid s va sz with
    | (s, .ok false) => pagesMapped begun asid l s
    | r => r

/-- Some size maps an address of the page already, or a chain is poisoned. (DEDUCED, unsafe, log 41) -/
def mapFinds (s : State) (e : IptEntry) : State × Except WalkErr Bool :=
  pagesMapped s e.asid (e.meets 0 ++ e.meets 1 ++ e.meets 2) s

/-- The first failure of a MAP whose image and chains are well; none when it may act (R135). -/
def mapFails (s : State) (e : IptEntry) (gfn : Nat) (dup : Bool) : Option (BitVec 8) :=
  if Config.reservedGfn < gfn + e.frames then some mRESERVED
  else if (List.range e.frames).any fun i => (s.ipt (gfn + i)).v || (s.ipt (gfn + i)).cont then some mINUSE
  else if dup then some mDUPLICATE
  else none

/-- The anchor of a page's chain, and the frame it names. -/
def IptEntry.anchor (e : IptEntry) : Nat := anchorDpa (anchorIndex e.asid e.size.toNat e.va)

/-- Setting an anchor: not valid when its chain is empty. -/
def State.setAnchor (s : State) (anchor f : Nat) : State :=
  s.write (.hbm anchor none) (toBytes (if f = chainEnd then 0 else 2 ^ 63 + f) 8)

/-- The rows that hold the entries of a page's frames: every twelfth frame's entry stands behind the last in one stack's part (R127). -/
def IptEntry.tableRows (e : IptEntry) (gfn : Nat) : List Nat :=
  (List.range (Nat.min 12 e.frames)).flatMap fun j => rowsOf (iptDpa (gfn + j)) (32 * ((e.frames - j + 11) / 12))

/-- Installing a page and linking it at the front of its chain. (DESIGN CHOICE, unsafe, log 43) -/
def State.installPage (s : State) (e : IptEntry) (gfn : Nat) : State :=
  let head := s.chainHead e.anchor
  let s := s.setIpt gfn ((e.withV true).withNext head)
  let s := (List.range (e.frames - 1)).foldl (fun s i => s.setIpt (gfn + i + 1) ((1 : BitVec 256) <<< 91)) s
  s.setAnchor e.anchor gfn

/-- MAP with its image and frame; one that meets a poisoned table sector fails with MALFORMED (R135, R469); the bank that makes it wait. -/
def runMap (s : State) : Except Nat State :=
  let e := s.mapcmd.image
  let gfn := s.mapcmd.gfn
  if mapMalformed e gfn then .ok (s.mapStatus mMALFORMED)
  else
    match mapFinds s e with
    | (_, .error (.bank b)) => .error b
    | (t, .error _) => .ok (t.mapStatus mMALFORMED)
    | (t, .ok dup) =>
      match mapFails t e gfn dup with
      | some st => .ok (t.mapStatus st)
      | none => (alsoRows s (e.tableRows gfn ++ rowsOf e.anchor 8) t).map fun t => (t.installPage e gfn).mapStatus 0

/-- MAP (R135). -/
def execMap (s : State) : Host.Outcome State Fault Refusal := event (mapEvent (· == 1) (mapTry runMap)) s

/-! ## UNMAP and MODIFY (R135) -/

/-- A frame heads a mapped page. -/
def State.heads (s : State) (gfn : Nat) : Bool :=
  decide (gfn < Config.reservedGfn) && (s.ipt gfn).v && !(s.ipt gfn).cont && (s.ipt gfn).size != 3

/-- UNMAP reads the entry at its frame, where its page's chain goes on (R469). -/
def State.headRead (s begun : State) (gfn : Nat) : State × Option WalkErr :=
  if gfn < Config.reservedGfn then s.walkRead begun (iptDpa gfn) true else (s, none)

/-- The entry before a frame in a chain: none at its front; an error for a poisoned sector, or where the chain does not hold it. -/
def chainBefore (begun : State) (target : Nat) : Nat → Nat → Option Nat → State → State × Except WalkErr (Option Nat)
  | 0, _, _, s => (s, .error (.reason xCHAIN))
  | fuel + 1, f, prev, s =>
    if f = target then (s, .ok prev)
    else if Config.reservedGfn ≤ f then (s, .error (.reason xMALFORMED))
    else
      match s.walkRead begun (iptDpa f) true with
      | (s, some x) => (s, .error x)
      | (s, none) => chainBefore begun target fuel (s.ipt f).next.toNat (some f) s

/-- The entry before a page in its chain, from its anchor. -/
def pageBefore (s begun : State) (gfn : Nat) (e : IptEntry) : State × Except WalkErr (Option Nat) :=
  match s.walkRead begun e.anchor true with
  | (s, some x) => (s, .error x)
  | (s, none) => chainBefore begun gfn (Config.reservedGfn + 1) (s.chainHead e.anchor) none s

/-- The pages that the cached translations of a head's page, and its frames, reach. -/
def State.dropPage (s : State) (gfn : Nat) (e : IptEntry) : State :=
  let r := s.dropTlb fun t => t.cache != .atc && t.asid == e.asid && t.vbase == e.va.toNat && t.shift == pageShift e.size.toNat
  r.1.mapWait ({ host := false, base := gfn * 65536, len := e.frames * 65536, rows := true } :: r.2)

/-- Unlinking a page and clearing its frames. -/
def State.removePage (s : State) (gfn : Nat) (e : IptEntry) (prev : Option Nat) : State :=
  let s := match prev with
    | none => s.setAnchor e.anchor e.next.toNat
    | some f => s.setIpt f ((s.ipt f).withNext e.next.toNat)
  (List.range e.frames).foldl (fun s i =>
    let x := s.ipt (gfn + i)
    s.setIpt (gfn + i) (IptEntry.withV x.noCont false)) s

/-- The rows that UNMAP writes: the entry before the page in its chain or its anchor, and the entries of its frames. -/
def IptEntry.unmapRows (e : IptEntry) (gfn : Nat) (prev : Option Nat) : List Nat :=
  (match prev with | none => rowsOf e.anchor 8 | some f => rowsOf (iptDpa f) 32) ++ e.tableRows gfn

/-- UNMAP of its frame; one that meets a poisoned table sector fails with MALFORMED (R135, R418, R469); the bank that makes it wait. -/
def runUnmap (s : State) : Except Nat State :=
  let gfn := s.mapcmd.gfn
  match s.headRead s gfn with
  | (_, some (.bank b)) => .error b
  | (t, some _) => .ok (t.mapStatus mMALFORMED)
  | (t, none) =>
    if !(t.heads gfn) then .ok (t.mapStatus mNOTMAPPED)
    else
      match pageBefore t s gfn (t.ipt gfn) with
      | (_, .error (.bank b)) => .error b
      | (t, .error _) => .ok (t.mapStatus mMALFORMED)
      | (t, .ok prev) =>
        (alsoRows s ((t.ipt gfn).unmapRows gfn prev) t).map fun t => (t.removePage gfn (t.ipt gfn) prev).dropPage gfn (t.ipt gfn)

/-- UNMAP (R135, R418). -/
def execUnmap (s : State) : Host.Outcome State Fault Refusal := event (mapEvent (· == 2) (mapTry runUnmap)) s

/-- Fields that MODIFY replaces: R, W, X, PPOL and SWDATA. -/
def modifyMask : IptEntry := ((7 : BitVec 256) <<< 107) ||| ((3 : BitVec 256) <<< 92) ||| ((BitVec.allOnes 64).setWidth 256 <<< 192)

/-- Fields that MODIFY does not compare: those it replaces, V, NEXT and CONT. -/
def modifyFree : IptEntry := modifyMask ||| ((1 : BitVec 256) <<< 63) ||| ((1 : BitVec 256) <<< 91) ||| ((BitVec.allOnes 36).setWidth 256 <<< 128)

/-- MODIFY of its frame (R135, R418): it reads no chain, and the whole entry it writes clears a poisoned sector (R116, R469); the bank that
makes it wait. (DEDUCED, unsafe, log 42) -/
def runModify (s : State) : Except Nat State :=
  let gfn := s.mapcmd.gfn
  let m := s.mapcmd.image
  let e := s.ipt gfn
  if !(s.heads gfn) then .ok (s.mapStatus mNOTMAPPED)
  else if (e ^^^ m) &&& ~~~modifyFree ≠ 0 ∨ (1 : BitVec 2).ult m.ppol then .ok (s.mapStatus mMALFORMED)
  else
    (alsoRows s (rowsOf (iptDpa gfn) 32) s).map fun t =>
      let t := (t.readSector (iptDpa gfn / 32) 12 0xFFFF).setIpt gfn ((e &&& ~~~modifyMask) ||| (m &&& modifyMask))
      if (e.r && !m.r) || (e.w && !m.w) || (e.x && !m.x) then t.dropPage gfn e else t.mapStatus 0

/-- MODIFY (R135, R418). -/
def execModify (s : State) : Host.Outcome State Fault Refusal := event (mapEvent (· == 3) (mapTry runModify)) s

/-- FLUSHASID's effect: both halves of the ASID, or one 64 KiB page of it (R135). -/
def runFlushasid (s : State) : State :=
  let lo := s.mapcmd.cmd5.toNat * 65536
  let r := s.dropTlb fun t =>
    t.asid == s.mapcmd.asid && (s.mapcmd.cmd5 == 0 || (decide (t.vbase < lo + 65536) && decide (lo < t.vbase + 2 ^ t.shift)))
  r.1.mapWait r.2

/-- FLUSHASID (R135). -/
def execFlushasid (s : State) : Host.Outcome State Fault Refusal := event (mapEvent (· == 4) runFlushasid) s

/-! ## RESUME and REFUSE (R135, R141) -/

/-- The record that stands for the command's page, taken out of the queue's records. -/
def State.takeFault (s : State) : Option (PageFault × State) :=
  let m := s.mapcmd
  match s.faults.find? fun f => f.asid == m.asid && f.vpage == m.cmd5.toNat with
  | none => none
  | some f => some (f, { s with faults := s.faults.filter fun (g : PageFault) => !(g.asid == f.asid && g.vpage == f.vpage) })

/-- A task is parked on a page. -/
def Task.onPage (t : Task) (asid : BitVec 16) (vpage : Nat) : Bool := t.st == .parked && (t.wait == .page asid vpage false || t.wait == .page asid vpage true)

/-- A thread whose units of a page are held, and which waits for it or for nothing else. -/
def Thread.pageBack (h : Thread) (vpage : Nat) : Thread :=
  let us := h.units.map fun u => if u.src.toNat / 65536 = vpage then { u with pageHeld := false } else u
  let run := fun (st : ThreadSt) => if st = .waiting ∧ (us.all fun u => !u.pageHeld) then .running else st
  { h with units := us, st := run h.st, before := run h.before }

/-- An entry of a task is held by a page fault. -/
def Entry.heldOn (q : Entry) (n : Nat) (e : Eng) (asid : BitVec 16) (vpage : Nat) : Bool :=
  q.slot == n && q.eng == e && q.pageHeld == some (asid, vpage)

/-- Changing a task of an image. -/
def State.modSavedTask (s : State) (w : BitVec 32) (key n : Nat) (f : Task → Task) : State :=
  s.modImage w key fun i => { i with tasks := i.tasks.map fun t => if t.1 = n then (t.1, f t.2) else t }

/-- Retrying the access of one faulter, in its image when it has been pre-empted (R135, R141, R181). -/
def State.retryFaulter (s : State) (asid : BitVec 16) (vpage : Nat) : Faulter → State
  | .task c n | .fetch c n => if (s.task c n).onPage asid vpage then s.readyTask c n else s
  | .entry c n e =>
    let p := fun (q : Entry) => q.heldOn n e asid vpage
    if (s.core c).queue.any p then (s.engWaitEnd c n).modEntries c p fun q => { q with pageHeld := none } else s
  | .thread t => s.setThread t ((s.thread t).pageBack vpage)
  | .saved w key n none =>
    s.modSavedTask w key n fun t => if t.onPage asid vpage then { t.endWait with st := .ready } else t
  | .saved w key n (some e) =>
    match (s.image w key).bind fun i => i.queue.find? fun q => q.heldOn n e asid vpage with
    | none => s
    | some _ =>
      (s.modSavedTask w key n fun t => { t with waitAcc := 0 }).modImage w key fun i =>
        { i with queue := i.queue.map fun q => if q.heldOn n e asid vpage then { q with pageHeld := none } else q }

/-- RESUME's effect (R135, R141). -/
def runResume (s : State) : State :=
  match s.takeFault with
  | none => s.mapStatus mNOFAULT
  | some (f, s) => (f.who.foldl (fun s w => s.retryFaulter f.asid f.vpage w.1) s).mapStatus 0

/-- RESUME (R135, R141). -/
def execResume (s : State) : Host.Outcome State Fault Refusal := event (mapEvent (· == 5) runResume) s

/-- The access of one faulter completes with XLATE REFUSED; a pre-empted task takes the trap when it is placed again, an entry's is
pending in its image (R135, R141, R181, R191). -/
def State.refuseFaulter (s : State) (asid : BitVec 16) (vpage : Nat) (va : Addr) : Faulter → State
  | .task c n | .fetch c n => if (s.task c n).onPage asid vpage then s.issueTrap c n cXLATE xREFUSED va else s
  | .entry c n e =>
    match (s.core c).queue.find? fun q => q.heldOn n e asid vpage with
    | none => s
    | some q =>
      ((s.engWaitEnd c n).modEntry c q fun x => { x with pageHeld := none, frozen := true }).pendTrap c n e
        { code := cXLATE, sub := xREFUSED, addr := va, ecp := q.comm, esp := q.spec }
  | .thread t =>
    let h := s.thread t
    if h.st = .waiting ∨ (h.st = .held ∧ h.before = .waiting) then
      match h.units.find? fun u => u.pageHeld && u.src.toNat / 65536 == vpage with
      | some u => s.burstError t u cXLATE
      | none => s.threadError t cXLATE
    else s
  | .saved w key n none => s.modSavedTask w key n fun t => if t.onPage asid vpage then { t with wait := .refused va } else t
  | .saved w key n (some e) =>
    match (s.image w key).bind fun i => i.queue.find? fun q => q.heldOn n e asid vpage with
    | none => s
    | some q =>
      ((s.modSavedTask w key n fun t => { t with waitAcc := 0 }).modImage w key fun i =>
          { i with queue := i.queue.map fun x => if q.same x then { x with pageHeld := none, frozen := true } else x }).pendSaved w key n e
        { code := cXLATE, sub := xREFUSED, addr := va, ecp := q.comm, esp := q.spec }

/-- REFUSE's effect (R135, R141). -/
def runRefuse (s : State) : State :=
  match s.takeFault with
  | none => s.mapStatus mNOFAULT
  | some (f, s) => (f.who.foldl (fun s w => s.refuseFaulter f.asid f.vpage w.2 w.1) s).mapStatus 0

/-- REFUSE (R135, R141). -/
def execRefuse (s : State) : Host.Outcome State Fault Refusal := event (mapEvent (· == 6) runRefuse) s

/-- MAPPING_BADOP (R135). -/
def execMappingBadop (s : State) : Host.Outcome State Fault Refusal :=
  event (mapEvent (fun op => op == 0 || decide (6 < op)) fun s => s.mapStatus mBADOP) s

/-- CMD7 as written: the command of OP runs (R134, R135). -/
def State.writeCmd7 (s : State) (v : BitVec 64) : State :=
  startMap (match s.mapcmd.op with
    | 1 => mapTry runMap
    | 2 => mapTry runUnmap
    | 3 => mapTry runModify
    | 4 => runFlushasid
    | 5 => runResume
    | 6 => runRefuse
    | _ => fun s => s.mapStatus mBADOP) s v

/-- A slot holds a row of some range, or is opening one (R418). -/
def State.rowsIn (s : State) (o : Old) : Bool :=
  o.rows && s.cores.any fun (e : Nat × Core) => e.2.slots.any fun t =>
    t.2.st != .idle && t.2.rows.toList.any fun r =>
      (r.st == .held || r.st == .opening || r.st == .yieldedRfm || r.st == .yieldedTherm) &&
      decide (o.base ≤ r.dpa) && decide (r.dpa < o.base + o.len)

/-- A command that a bank made wait is tried again. -/
def State.mapAgain (s : State) : State :=
  match s.mapcmd.op with
  | 1 => mapTry runMap s
  | 2 => mapTry runUnmap s
  | _ => mapTry runModify s

/-- MAPPING_COMMAND_COMPLETE: every access through the old translation is performed (R135, R418); a command that waits for a bank is tried
again. -/
def execMappingCommandComplete (s : State) : Host.Outcome State Fault Refusal :=
  event (fun s =>
    if s.mapcmd.busy && s.mapcmd.again then s.mapAgain
    else if s.mapcmd.busy && s.performedAll s.mapcmd.waits && !(s.mapcmd.waits.any fun o => s.rowsIn o) then s.mapStatus 0 else s) s

end Sys2Proof.Machine
end

