-- ==== Sys2Proof/Machine/Tx.lean ====
section
/-! DEFINITION. Class TX: table images and the instructions that read them (R284, R285, R378 to R384). -/

namespace Sys2Proof.Machine

/-- An access of the TX engine for an entry. -/
def txAcc (s : State) (c : Nat) (q : Entry) (r w : Bool) : Acc := engAcc c .tx (s.task c q.slot).asid false r w

/-- The header of an image: X0, H, INVSTEP and N (R378). -/
structure TxHead where
  x0 : Fl
  h : Fl
  inv : Fl
  n : Nat
deriving DecidableEq, Repr

def TxHead.ofBits (b : BitVec 128) : TxHead :=
  let f := fun i => Fmt.f32.decode (b.extractLsb' i 32).toNat
  ⟨f 0, f 32, f 64, (b.extractLsb' 96 32).toNat⟩

def Fl.finite : Fl → Bool
  | .fin _ _ _ _ => true
  | _ => false

def Fl.positive : Fl → Bool
  | .fin neg m _ _ => !neg && m != 0
  | _ => false

/-- A header is valid, its range aside (R378). -/
def TxHead.ok (x : TxHead) : Bool := decide (1 ≤ x.n) && decide (x.n ≤ 4096) && x.x0.finite && x.h.positive && x.inv.positive

/-- An image's bytes lie inside the unit's populated scratchpad (R378). -/
def TxHead.inside (s : State) (c : Nat) (a : Addr) (x : TxHead) : Bool := decide (spaOffset a + 16 + 8 * x.n ≤ s.spSize c)

/-- The address of an image or a destination: ALIGN, then the unit's own scratchpad or SPACCESS (R380). -/
def txOwn (s : State) (c : Nat) (q : Entry) (a : Addr) (f : PRes) : PRes :=
  if a.toNat % 16 ≠ 0 then ⟨s, 0, 0, .trap cALIGN 0 a⟩
  else if vaRegion a ≠ .scratch then ⟨s, 0, 0, .trap cSPACCESS 0 a⟩
  else
    match spaPlace s (txAcc s c q true false) (a.extractLsb' 0 36) 16 with
    | .error _ => ⟨s, 0, 0, .trap cSPACCESS 0 a⟩
    | .ok _ => f

/-- Reading a header, once when the command starts: poison is consumed at its first poisoned byte (R379, R380). -/
def txHeader (c : Nat) (q : Entry) (a : Addr) (s : State) (f : State → BitVec 128 → PRes) : PRes :=
  match q.hdr with
  | some b => f s b
  | none =>
    engAccess s c q (txAcc s c q true false) a 16 q.comm 0 fun s l =>
      match s.firstPoisonAll l with
      | some i => ⟨s, q.comm, q.comm, .poison cPOISON (a + BitVec.ofNat 80 i)⟩
      | none =>
        let b : BitVec 128 := leBits 128 (s.readAll l)
        f (s.modEntry c q fun e => { e with hdr := some b }) b

/-- The valid image at an address, or OPFORMAT (R380). -/
def txImage (c : Nat) (q : Entry) (a : Addr) (s : State) (f : State → TxHead → PRes) : PRes :=
  txOwn s c q a <| txHeader c q a s fun s b =>
    let x := TxHead.ofBits b
    if x.ok && x.inside s c a then f s x else ⟨s, 0, 0, .trap cOPFORMAT 0 a⟩

/-- Interp(x, image) at position e of `total`: the index and the binary32 code; the entry read consumes poison (R284, R379, R380). -/
def interp (c : Nat) (q : Entry) (a : Addr) (h : TxHead) (x : Fl) (e total : Nat) (s : State) (f : State → Nat → Nat → PRes) : PRes :=
  if x.isNaN then f s 0 Fmt.f32.nan
  else
    let i := interpIndex x h.x0 h.inv h.n
    let va := a + BitVec.ofNat 80 (16 + 8 * i)
    engAccess s c q (txAcc s c q true false) va 8 e total fun s l =>
      if (s.firstPoisonAll l).isSome then poisonStop s e total va
      else
        let b : BitVec 64 := leBits 64 (s.readAll l)
        let y := interpValue x h.x0 h.h (Fmt.f32.decode (b.extractLsb' 0 32).toNat) (Fmt.f32.decode (b.extractLsb' 32 32).toNat) i
        f s i (Fmt.f32.encode y .rne false 0)

/-- The second rounding to the destination (R284, R383). -/
def txRound (dst : VTy) (sat : Bool) (y : Nat) : Nat := (vfmt dst).encode (Fmt.f32.decode y) .rne sat 0

/-- A TX entry: captures and issue (R360). -/
def tx (i : Instr) (caps : Task → List (BitVec 128)) : Issue := { vx i caps with eng := .tx }

/-- TXLOAD's element j: 8 bytes moved with their poison (R381). -/
def txMove (c : Nat) (q : Entry) (d a : Addr) (total j : Nat) (s : State) : PRes :=
  engAccess s c q (txAcc s c q true false) (a + BitVec.ofNat 80 (8 * j)) 8 j total fun s l =>
    engAccess s c q (txAcc s c q false true) (d + BitVec.ofNat 80 (8 * j)) 8 j total fun s m =>
      ⟨s.writeAllTag (s.readAll l) (s.poisonAt l) 0 m, j, j, .done⟩

/-- TXLOAD on the TX engine: an image copied into the scratchpad (R381). -/
def runTxload (_d _s : AReg) : Perf := fun c q s =>
  let d : Addr := q.o0.setWidth 80
  let a : Addr := q.o1.setWidth 80
  if d.toNat % 16 ≠ 0 then ⟨s, 0, 0, .trap cALIGN 0 d⟩
  else if a.toNat % 16 ≠ 0 then ⟨s, 0, 0, .trap cALIGN 0 a⟩
  else
    txOwn s c q d <| txHeader c q a s fun s b =>
      let x := TxHead.ofBits b
      if !x.ok then ⟨s, 0, 0, .trap cOPFORMAT 0 a⟩
      else if !x.inside s c d then ⟨s, 0, 0, .trap cSPACCESS 0 d⟩
      else granular (fun j => d + BitVec.ofNat 80 (8 * j)) (x.n + 2) q.comm (txMove c q d a (x.n + 2)) s

/-- TXLOAD: its issue into the TX queue. -/
def execTxload (y : Sync) (d s' : AReg) (s : State) : Host.Outcome State Fault Refusal :=
  engine legal (tx (.txload y d s') fun t => [capA t d, capA t s']) (runTxload d s') s

/-- What stops an access, and where, when a trap does (R140, R176). -/
def accessTrap (s : State) (x : Acc) (a : Addr) (n : Nat) : Option (BitVec 8 × BitVec 8 × Addr) :=
  match (locate s x a n).2 with
  | .error (.trap code sub, fail) => some (code, sub, fail)
  | .error (.absent, fail) => if (s.asidEnt x.asid.toNat).nopf then some (cXLATE, xNOTMAPPED, fail) else none
  | _ => none

/-- A second access that fails at the same point with a lower rank decides the trap (R176, R380). -/
def PRes.orTrap (r : PRes) (o : Option (BitVec 8 × BitVec 8 × Addr)) : PRes :=
  match r.out, o with
  | .trap code _ _, some (code', sub', fail) => if trapRank code' < trapRank code then { r with out := .trap code' sub' fail } else r
  | _, _ => r

/-- TXRUN's element e: read, interpolated, written (R383). -/
def txRunElem (dst src : VTy) (sat : Bool) (c : Nat) (q : Entry) (h : TxHead) (total e : Nat) (s : State) : PRes :=
  let d : Addr := q.o0.setWidth 80 + BitVec.ofNat 80 (e * (dst.bits / 8))
  let a : Addr := q.o1.setWidth 80 + BitVec.ofNat 80 (e * (src.bits / 8))
  (engAccess s c q (txAcc s c q true false) a (src.bits / 8) e total fun s l =>
    engAccess s c q (txAcc s c q false true) d (dst.bits / 8) e total fun s m =>
      if (s.firstPoisonAll l).isSome then poisonStop s e total a
      else
        interp c q (q.o3.setWidth 80) h ((vfmt src).decode (ofBytes (s.readAll l))) e total s fun s _ y =>
          ⟨s.writeAll m (toBytes (txRound dst sat y) (dst.bits / 8)), e, e, .done⟩).orTrap
    (accessTrap s (txAcc s c q false true) d (dst.bits / 8))

/-- TXRUN on the TX engine: a table over a stream of memory (R383). (DEDUCED, unsafe, log 56) -/
def runTxrun (dst src : VTy) (sat : Bool) (_d _s : AReg) (_n : SReg) (_t : AReg) : Perf := fun c q s =>
  let d : Addr := q.o0.setWidth 80
  let a : Addr := q.o1.setWidth 80
  let n := q.o2.toNat
  let t : Addr := q.o3.setWidth 80
  if a.toNat % (src.bits / 8) ≠ 0 then ⟨s, 0, 0, .trap cALIGN 0 a⟩
  else if d.toNat % (dst.bits / 8) ≠ 0 then ⟨s, 0, 0, .trap cALIGN 0 d⟩
  else if n = 0 then txOwn s c q t ⟨s, 0, 0, .done⟩
  else
    txImage c q t s fun s h =>
      if 2 ^ 32 ≤ n then ⟨s, 0, 0, .trap cOPFORMAT 0 t⟩
      else granular (fun e => d + BitVec.ofNat 80 (e * (dst.bits / 8))) n q.comm (txRunElem dst src sat c q h n) s

/-- TXRUN: its issue into the TX queue. -/
def execTxrun (y : Sync) (dst src : VTy) (sat : Bool) (d s' : AReg) (n : SReg) (t : AReg) (s : State) :
    Host.Outcome State Fault Refusal :=
  engine legal (tx (.txrun y dst src sat d s' n t) fun k => [capA k d, capA k s', capS k n, capA k t])
    (runTxrun dst src sat d s' n t) s

/-- TXV's element e (R383). -/
def txvElem (dst src : VTy) (m : Option MReg) (sat : Bool) (d a : VReg) (c : Nat) (q : Entry) (h : TxHead) (total : Nat) (old : Task)
    (e : Nat) (s : State) : PRes :=
  if !old.active (txBits dst src) m e then ⟨s, e, e, .done⟩
  else
    interp c q (q.o0.setWidth 80) h (old.vval src a e) e total s fun s _ y =>
      ⟨s.modTask c q.slot fun t => t.setV d (mapElems dst.bits (t.vreg d) fun i => if i = e then some (txRound dst sat y) else none),
       e, e, .done⟩

/-- TXV on the TX engine: a table over the elements of a register (R383). -/
def runTxv (dst src : VTy) (m : Option MReg) (sat : Bool) (d a : VReg) (_t : AReg) : Perf := keepSrcs fun c q s =>
  txImage c q (q.o0.setWidth 80) s fun s h =>
    let total := inWidth (txBits dst src) q.o1.toNat
    stream (total - q.comm) q.comm (txvElem dst src m sat d a c q h total (q.seen (s.task c q.slot))) s

/-- TXV: its issue into the TX queue. -/
def execTxv (y : Sync) (dst src : VTy) (m : Option MReg) (sat : Bool) (d a : VReg) (t : AReg) (s : State) :
    Host.Outcome State Fault Refusal :=
  engine legal (tx (.txv y dst src m sat d a t) fun k => [capA k t]) (runTxv dst src m sat d a t) s

/-- TXCFG on the TX engine: a header written from registers, whole or not at all (R382). -/
def runTxcfg (_t : AReg) (_a _b : SReg) : Perf := fun c q s =>
  let t : Addr := q.o0.setWidth 80
  txOwn s c q t <|
    let b : BitVec 128 := (q.o2.setWidth 64).setWidth 128 <<< 64 ||| (q.o1.setWidth 64).setWidth 128
    let x := TxHead.ofBits b
    if x.ok && x.inside s c t then
      engAccess s c q (txAcc s c q false true) t 16 0 0 fun s l => ⟨s.writeAll l (toBytes b.toNat 16), 0, 0, .done⟩
    else ⟨s, 0, 0, .trap cOPFORMAT 0 t⟩

/-- TXCFG: its issue into the TX queue. -/
def execTxcfg (y : Sync) (t : AReg) (a b : SReg) (s : State) : Host.Outcome State Fault Refusal :=
  engine legal (tx (.txcfg y t a b) fun k => [capA k t, capS k a, capS k b]) (runTxcfg t a b) s

/-- TXRD on the TX engine: the index and the binary32 result for one input (R384). -/
def runTxrd (d : SReg) (_t : AReg) (_a : SReg) : Perf := fun c q s =>
  txImage c q (q.o0.setWidth 80) s fun s h =>
    interp c q (q.o0.setWidth 80) h (Fmt.f32.decode (q.o1.toNat % 2 ^ 32)) 0 0 s fun s i y =>
      ⟨s.modTask c q.slot fun t => t.setS d (BitVec.ofNat 64 (i * 2 ^ 32 + y)), 0, 0, .done⟩

/-- TXRD: its issue into the TX queue. -/
def execTxrd (y : Sync) (d : SReg) (t : AReg) (a : SReg) (s : State) : Host.Outcome State Fault Refusal :=
  engine legal (tx (.txrd y d t a) fun k => [capA k t, capS k a]) (runTxrd d t a) s

end Sys2Proof.Machine
end

