-- ==== Sys2Proof/Machine/Vx.lean ====
section
/-! DEFINITION. Class VX: for each instruction what its engine does and its issue (R357 to R377). -/

namespace Sys2Proof.Machine

/-- VADD on the VX engine: A + B (R364). -/
def runVadd (t : VTy) (m : Mod) (d a b : VReg) : Perf :=
  fp2 t m d a b fun x z => Fl.add m.rm x z

/-- VADD: its issue into the VX queue. -/
def execVadd (y : Sync) (t : VTy) (m : Mod) (d a b : VReg) (s : State) : Host.Outcome State Fault Refusal :=
  engine legal (vx (.vadd y t m d a b) noCaps) (runVadd t m d a b) s

/-- VSUB on the VX engine: A − B (R364). -/
def runVsub (t : VTy) (m : Mod) (d a b : VReg) : Perf :=
  fp2 t m d a b fun x z => Fl.add m.rm x z.neg

/-- VSUB: its issue into the VX queue. -/
def execVsub (y : Sync) (t : VTy) (m : Mod) (d a b : VReg) (s : State) : Host.Outcome State Fault Refusal :=
  engine legal (vx (.vsub y t m d a b) noCaps) (runVsub t m d a b) s

/-- VMUL on the VX engine: A × B (R364). -/
def runVmul (t : VTy) (m : Mod) (d a b : VReg) : Perf :=
  fp2 t m d a b Fl.mul

/-- VMUL: its issue into the VX queue. -/
def execVmul (y : Sync) (t : VTy) (m : Mod) (d a b : VReg) (s : State) : Host.Outcome State Fault Refusal :=
  engine legal (vx (.vmul y t m d a b) noCaps) (runVmul t m d a b) s

/-- VFMA on the VX engine: A × B + C, one rounding (R274, R364). -/
def runVfma (t : VTy) (m : Mod) (d a b c : VReg) : Perf :=
  fp3 t m d a b c fun x z k => Fl.add m.rm (Fl.mul x z) k

/-- VFMA: its issue into the VX queue. -/
def execVfma (y : Sync) (t : VTy) (m : Mod) (d a b c : VReg) (s : State) : Host.Outcome State Fault Refusal :=
  engine legal (vx (.vfma y t m d a b c) noCaps) (runVfma t m d a b c) s

/-- VFMS on the VX engine: A × B − C, one rounding (R274, R364). -/
def runVfms (t : VTy) (m : Mod) (d a b c : VReg) : Perf :=
  fp3 t m d a b c fun x z k => Fl.add m.rm (Fl.mul x z) k.neg

/-- VFMS: its issue into the VX queue. -/
def execVfms (y : Sync) (t : VTy) (m : Mod) (d a b c : VReg) (s : State) : Host.Outcome State Fault Refusal :=
  engine legal (vx (.vfms y t m d a b c) noCaps) (runVfms t m d a b c) s

/-- VMIN on the VX engine: the minimum of R274 (R364). -/
def runVmin (t : VTy) (m : Option MReg) (d a b : VReg) : Perf :=
  lane2 t.bits m d a b (vfmt t).minimum

/-- VMIN: its issue into the VX queue. -/
def execVmin (y : Sync) (t : VTy) (m : Option MReg) (d a b : VReg) (s : State) : Host.Outcome State Fault Refusal :=
  engine legal (vx (.vmin y t m d a b) noCaps) (runVmin t m d a b) s

/-- VMAX on the VX engine: the maximum of R274 (R364). -/
def runVmax (t : VTy) (m : Option MReg) (d a b : VReg) : Perf :=
  lane2 t.bits m d a b (vfmt t).maximum

/-- VMAX: its issue into the VX queue. -/
def execVmax (y : Sync) (t : VTy) (m : Option MReg) (d a b : VReg) (s : State) : Host.Outcome State Fault Refusal :=
  engine legal (vx (.vmax y t m d a b) noCaps) (runVmax t m d a b) s

/-- VABS on the VX engine: the sign bit cleared, NaN included (R364). -/
def runVabs (t : VTy) (m : Option MReg) (d a : VReg) : Perf :=
  lane1 t.bits m d a fun x => x % 2 ^ (t.bits - 1)

/-- VABS: its issue into the VX queue. -/
def execVabs (y : Sync) (t : VTy) (m : Option MReg) (d a : VReg) (s : State) : Host.Outcome State Fault Refusal :=
  engine legal (vx (.vabs y t m d a) noCaps) (runVabs t m d a) s

/-- VNEG on the VX engine: the sign bit inverted, NaN included (R364). -/
def runVneg (t : VTy) (m : Option MReg) (d a : VReg) : Perf :=
  lane1 t.bits m d a fun x => x ^^^ 2 ^ (t.bits - 1)

/-- VNEG: its issue into the VX queue. -/
def execVneg (y : Sync) (t : VTy) (m : Option MReg) (d a : VReg) (s : State) : Host.Outcome State Fault Refusal :=
  engine legal (vx (.vneg y t m d a) noCaps) (runVneg t m d a) s

/-- VRCP on the VX engine: 1 / A (R274, R364). -/
def runVrcp (t : VTy) (m : Mod) (d a : VReg) : Perf :=
  fp1 t m d a Fl.rcp

/-- VRCP: its issue into the VX queue. -/
def execVrcp (y : Sync) (t : VTy) (m : Mod) (d a : VReg) (s : State) : Host.Outcome State Fault Refusal :=
  engine legal (vx (.vrcp y t m d a) noCaps) (runVrcp t m d a) s

/-- VRSQ on the VX engine: 1 / √A (R274, R364). -/
def runVrsq (t : VTy) (m : Mod) (d a : VReg) : Perf :=
  fp1 t m d a Fl.rsq

/-- VRSQ: its issue into the VX queue. -/
def execVrsq (y : Sync) (t : VTy) (m : Mod) (d a : VReg) (s : State) : Host.Outcome State Fault Refusal :=
  engine legal (vx (.vrsq y t m d a) noCaps) (runVrsq t m d a) s

/-- VEXP2 on the VX engine: 2^A (R274, R364). -/
def runVexp2 (t : VTy) (m : Mod) (d a : VReg) : Perf :=
  fp1 t m d a Fl.exp2

/-- VEXP2: its issue into the VX queue. -/
def execVexp2 (y : Sync) (t : VTy) (m : Mod) (d a : VReg) (s : State) : Host.Outcome State Fault Refusal :=
  engine legal (vx (.vexp2 y t m d a) noCaps) (runVexp2 t m d a) s

/-- VLOG2 on the VX engine: log₂ A (R274, R364). -/
def runVlog2 (t : VTy) (m : Mod) (d a : VReg) : Perf :=
  fp1 t m d a Fl.log2

/-- VLOG2: its issue into the VX queue. -/
def execVlog2 (y : Sync) (t : VTy) (m : Mod) (d a : VReg) (s : State) : Host.Outcome State Fault Refusal :=
  engine legal (vx (.vlog2 y t m d a) noCaps) (runVlog2 t m d a) s

/-- VDIV on the VX engine: A / B (R364). -/
def runVdiv (t : VTy) (m : Mod) (d a b : VReg) : Perf :=
  fp2 t m d a b Fl.div

/-- VDIV: its issue into the VX queue. -/
def execVdiv (y : Sync) (t : VTy) (m : Mod) (d a b : VReg) (s : State) : Host.Outcome State Fault Refusal :=
  engine legal (vx (.vdiv y t m d a b) noCaps) (runVdiv t m d a b) s

/-- VSQRT on the VX engine: √A (R364). -/
def runVsqrt (t : VTy) (m : Mod) (d a : VReg) : Perf :=
  fp1 t m d a Fl.sqrt

/-- VSQRT: its issue into the VX queue. -/
def execVsqrt (y : Sync) (t : VTy) (m : Mod) (d a : VReg) (s : State) : Host.Outcome State Fault Refusal :=
  engine legal (vx (.vsqrt y t m d a) noCaps) (runVsqrt t m d a) s

/-- VFCMP on the VX engine: the condition's bit by element (R365). -/
def runVfcmp (t : VTy) (c : FCond) (m : Option MReg) (d : MReg) (a b : VReg) : Perf :=
  compare t.bits m d a b fun x z => fcond c ((vfmt t).decode x) ((vfmt t).decode z)

/-- VFCMP: its issue into the VX queue. -/
def execVfcmp (y : Sync) (t : VTy) (c : FCond) (m : Option MReg) (d : MReg) (a b : VReg) (s : State) : Host.Outcome State Fault Refusal :=
  engine legal (vx (.vfcmp y t c m d a b) noCaps) (runVfcmp t c m d a b) s

/-- VIADD on the VX engine: a + b (R366). -/
def runViadd (t : IntTy) (m : Option MReg) (sat : Bool) (d a b : VReg) : Perf :=
  int2 t m sat d a b fun x z => x + z

/-- VIADD: its issue into the VX queue. -/
def execViadd (y : Sync) (t : IntTy) (m : Option MReg) (sat : Bool) (d a b : VReg) (s : State) : Host.Outcome State Fault Refusal :=
  engine legal (vx (.viadd y t m sat d a b) noCaps) (runViadd t m sat d a b) s

/-- VISUB on the VX engine: a − b (R366). -/
def runVisub (t : IntTy) (m : Option MReg) (sat : Bool) (d a b : VReg) : Perf :=
  int2 t m sat d a b fun x z => x - z

/-- VISUB: its issue into the VX queue. -/
def execVisub (y : Sync) (t : IntTy) (m : Option MReg) (sat : Bool) (d a b : VReg) (s : State) : Host.Outcome State Fault Refusal :=
  engine legal (vx (.visub y t m sat d a b) noCaps) (runVisub t m sat d a b) s

/-- VIMUL on the VX engine: a × b (R366). -/
def runVimul (t : IntTy) (m : Option MReg) (sat : Bool) (d a b : VReg) : Perf :=
  int2 t m sat d a b fun x z => x * z

/-- VIMUL: its issue into the VX queue. -/
def execVimul (y : Sync) (t : IntTy) (m : Option MReg) (sat : Bool) (d a b : VReg) (s : State) : Host.Outcome State Fault Refusal :=
  engine legal (vx (.vimul y t m sat d a b) noCaps) (runVimul t m sat d a b) s

/-- VIMAD on the VX engine: a × b + c (R366). -/
def runVimad (t : IntTy) (m : Option MReg) (sat : Bool) (d a b c : VReg) : Perf :=
  regPerf fun q k => k.lanes t.w.bits q.width m d fun e =>
    let x := fun r => t.int (elem t.w.bits (k.vreg r) e)
    intRes t sat (x a * x b + x c)

/-- VIMAD: its issue into the VX queue. -/
def execVimad (y : Sync) (t : IntTy) (m : Option MReg) (sat : Bool) (d a b c : VReg) (s : State) : Host.Outcome State Fault Refusal :=
  engine legal (vx (.vimad y t m sat d a b c) noCaps) (runVimad t m sat d a b c) s

/-- VIMIN on the VX engine: Min(a, b) (R366). -/
def runVimin (t : IntTy) (m : Option MReg) (d a b : VReg) : Perf :=
  int2 t m false d a b min

/-- VIMIN: its issue into the VX queue. -/
def execVimin (y : Sync) (t : IntTy) (m : Option MReg) (d a b : VReg) (s : State) : Host.Outcome State Fault Refusal :=
  engine legal (vx (.vimin y t m d a b) noCaps) (runVimin t m d a b) s

/-- VIMAX on the VX engine: Max(a, b) (R366). -/
def runVimax (t : IntTy) (m : Option MReg) (d a b : VReg) : Perf :=
  int2 t m false d a b max

/-- VIMAX: its issue into the VX queue. -/
def execVimax (y : Sync) (t : IntTy) (m : Option MReg) (d a b : VReg) (s : State) : Host.Outcome State Fault Refusal :=
  engine legal (vx (.vimax y t m d a b) noCaps) (runVimax t m d a b) s

/-- VAND on the VX engine: a & b (R366). -/
def runVand (t : IntTy) (m : Option MReg) (d a b : VReg) : Perf :=
  lane2 t.w.bits m d a b fun x z => x &&& z

/-- VAND: its issue into the VX queue. -/
def execVand (y : Sync) (t : IntTy) (m : Option MReg) (d a b : VReg) (s : State) : Host.Outcome State Fault Refusal :=
  engine legal (vx (.vand y t m d a b) noCaps) (runVand t m d a b) s

/-- VOR on the VX engine: a | b (R366). -/
def runVor (t : IntTy) (m : Option MReg) (d a b : VReg) : Perf :=
  lane2 t.w.bits m d a b fun x z => x ||| z

/-- VOR: its issue into the VX queue. -/
def execVor (y : Sync) (t : IntTy) (m : Option MReg) (d a b : VReg) (s : State) : Host.Outcome State Fault Refusal :=
  engine legal (vx (.vor y t m d a b) noCaps) (runVor t m d a b) s

/-- VXOR on the VX engine: a ^ b (R366). -/
def runVxor (t : IntTy) (m : Option MReg) (d a b : VReg) : Perf :=
  lane2 t.w.bits m d a b fun x z => x ^^^ z

/-- VXOR: its issue into the VX queue. -/
def execVxor (y : Sync) (t : IntTy) (m : Option MReg) (d a b : VReg) (s : State) : Host.Outcome State Fault Refusal :=
  engine legal (vx (.vxor y t m d a b) noCaps) (runVxor t m d a b) s

/-- VNOT on the VX engine: ~a (R366). -/
def runVnot (t : IntTy) (m : Option MReg) (d a : VReg) : Perf :=
  lane1 t.w.bits m d a fun x => 2 ^ t.w.bits - 1 - x

/-- VNOT: its issue into the VX queue. -/
def execVnot (y : Sync) (t : IntTy) (m : Option MReg) (d a : VReg) (s : State) : Host.Outcome State Fault Refusal :=
  engine legal (vx (.vnot y t m d a) noCaps) (runVnot t m d a) s

/-- VSHL on the VX engine: a × 2^k, k = b mod w (R366). -/
def runVshl (t : IntTy) (m : Option MReg) (d a b : VReg) : Perf :=
  lane2 t.w.bits m d a b fun x z => x * 2 ^ (z % t.w.bits)

/-- VSHL: its issue into the VX queue. -/
def execVshl (y : Sync) (t : IntTy) (m : Option MReg) (d a b : VReg) (s : State) : Host.Outcome State Fault Refusal :=
  engine legal (vx (.vshl y t m d a b) noCaps) (runVshl t m d a b) s

/-- VSHR on the VX engine: the logical shift, k = b mod w (R366). -/
def runVshr (t : IntTy) (m : Option MReg) (d a b : VReg) : Perf :=
  lane2 t.w.bits m d a b fun x z => x / 2 ^ (z % t.w.bits)

/-- VSHR: its issue into the VX queue. -/
def execVshr (y : Sync) (t : IntTy) (m : Option MReg) (d a b : VReg) (s : State) : Host.Outcome State Fault Refusal :=
  engine legal (vx (.vshr y t m d a b) noCaps) (runVshr t m d a b) s

/-- VSAR on the VX engine: the arithmetic shift, k = b mod w (R366). -/
def runVsar (t : IntTy) (m : Option MReg) (d a b : VReg) : Perf :=
  lane2 t.w.bits m d a b fun x z => narrowInt t (IntTy.int ⟨t.w, true⟩ x / (2 ^ (z % t.w.bits) : Nat)) false

/-- VSAR: its issue into the VX queue. -/
def execVsar (y : Sync) (t : IntTy) (m : Option MReg) (d a b : VReg) (s : State) : Host.Outcome State Fault Refusal :=
  engine legal (vx (.vsar y t m d a b) noCaps) (runVsar t m d a b) s

/-- VICMP on the VX engine: the condition's bit by element (R367). -/
def runVicmp (t : IntTy) (c : Cond) (m : Option MReg) (d : MReg) (a b : VReg) : Perf :=
  compare t.w.bits m d a b (condAt t.w c)

/-- VICMP: its issue into the VX queue. -/
def execVicmp (y : Sync) (t : IntTy) (c : Cond) (m : Option MReg) (d : MReg) (a b : VReg) (s : State) : Host.Outcome State Fault Refusal :=
  engine legal (vx (.vicmp y t c m d a b) noCaps) (runVicmp t c m d a b) s

/-- VPOPC on the VX engine: the number of ones (R366). -/
def runVpopc (t : IntTy) (m : Option MReg) (d a : VReg) : Perf :=
  lane1 t.w.bits m d a fun x => ((List.range t.w.bits).filter x.testBit).length

/-- VPOPC: its issue into the VX queue. -/
def execVpopc (y : Sync) (t : IntTy) (m : Option MReg) (d a : VReg) (s : State) : Host.Outcome State Fault Refusal :=
  engine legal (vx (.vpopc y t m d a) noCaps) (runVpopc t m d a) s

/-- VCLMUL on the VX engine: half of the carry-less product (R368). -/
def runVclmul (hi : Bool) (m : Option MReg) (d a b : VReg) : Perf :=
  lane2 64 m d a b fun x z => if hi then clmul x z 64 / 2 ^ 64 else clmul x z 64

/-- VCLMUL: its issue into the VX queue. -/
def execVclmul (y : Sync) (hi : Bool) (m : Option MReg) (d a b : VReg) (s : State) : Host.Outcome State Fault Refusal :=
  engine legal (vx (.vclmul y hi m d a b) noCaps) (runVclmul hi m d a b) s

/-- VCVT on the VX engine: each element to the other format (R369). -/
def runVcvt (dst src : BitVec 8) (m : Mod) (d a : VReg) : Perf :=
  regPerf fun q t =>
    let w := cvtBits dst src
    t.setV d (mapElems (fmtBits dst) (t.vreg d) fun e =>
      if decide (e < inWidth w q.width) && t.active w m.mask e then
        some (convert dst src (elem (fmtBits src) (t.vreg a) e) m.rm m.sat (t.drawOf q e))
      else none)

/-- VCVT: its issue into the VX queue. -/
def execVcvt (y : Sync) (dst src : BitVec 8) (m : Mod) (d a : VReg) (s : State) : Host.Outcome State Fault Refusal :=
  engine legal (vx (.vcvt y dst src m d a) noCaps) (runVcvt dst src m d a) s

/-- VPACK on the VX engine: both sources narrowed, the width ignored (R370). -/
def runVpack (t : IntTy) (sat : Bool) (d a b : VReg) : Perf :=
  regPerf fun _ k =>
    let w := t.w.bits
    let h := 4096 / (2 * w)
    let x := fun e => if e < h then elem (2 * w) (k.vreg a) e else elem (2 * w) (k.vreg b) (e - h)
    let n := fun v : Nat => if t.signed then (BitVec.ofNat (2 * w) v).toInt else (v : Int)
    k.setV d (mapElems w (k.vreg d) fun e => some (narrowInt t (n (x e)) sat))

/-- VPACK: its issue into the VX queue. -/
def execVpack (y : Sync) (t : IntTy) (sat : Bool) (d a b : VReg) (s : State) : Host.Outcome State Fault Refusal :=
  engine legal (vx (.vpack y t sat d a b) noCaps) (runVpack t sat d a b) s

/-- VUNPACK on the VX engine: half of the source widened, the width ignored (R370). -/
def runVunpack (t : IntTy) (hi : Bool) (d a : VReg) : Perf :=
  regPerf fun _ k =>
    let w := t.w.bits
    let h := 4096 / (2 * w)
    let x := fun e => t.int (elem w (k.vreg a) (if hi then e + h else e))
    k.setV d (mapElems (2 * w) (k.vreg d) fun e => some (x e % (2 ^ (2 * w) : Nat)).toNat)

/-- VUNPACK: its issue into the VX queue. -/
def execVunpack (y : Sync) (t : IntTy) (hi : Bool) (d a : VReg) (s : State) : Host.Outcome State Fault Refusal :=
  engine legal (vx (.vunpack y t hi d a) noCaps) (runVunpack t hi d a) s

/-- VBCAST on the VX engine: s[A][w−1:0] to every active element (R371). -/
def runVbcast (t : IntTy) (m : Option MReg) (d : VReg) (_a : SReg) : Perf :=
  regPerf fun q k => k.lanes t.w.bits q.o1.toNat m d fun _ => q.o0.toNat

/-- VBCAST: its issue into the VX queue. -/
def execVbcast (y : Sync) (t : IntTy) (m : Option MReg) (d : VReg) (a : SReg) (s : State) : Host.Outcome State Fault Refusal :=
  engine legal (vx (.vbcast y t m d a) (fun t => [capS t a])) (runVbcast t m d a) s

/-- VEXTR on the VX engine: element s[B], extended (R371). -/
def runVextr (t : IntTy) (d : SReg) (a : VReg) (_b : SReg) : Perf :=
  regPerf fun q k =>
    k.setS d (t.ext (BitVec.ofNat 64 (elem t.w.bits (k.vreg a) (q.o0.toNat % (4096 / t.w.bits)))))

/-- VEXTR: its issue into the VX queue. -/
def execVextr (y : Sync) (t : IntTy) (d : SReg) (a : VReg) (b : SReg) (s : State) : Host.Outcome State Fault Refusal :=
  engine legal (vx (.vextr y t d a b) (fun t => [capS t b])) (runVextr t d a b) s

/-- VINSR on the VX engine: element s[B] := s[A][w−1:0] (R371). -/
def runVinsr (t : IntTy) (d : VReg) (_a _b : SReg) : Perf :=
  regPerf fun q k =>
    k.setV d (mapElems t.w.bits (k.vreg d) fun e => if e = q.o1.toNat % (4096 / t.w.bits) then some q.o0.toNat else none)

/-- VINSR: its issue into the VX queue. -/
def execVinsr (y : Sync) (t : IntTy) (d : VReg) (a b : SReg) (s : State) : Host.Outcome State Fault Refusal :=
  engine legal (vx (.vinsr y t d a b) (fun t => [capS t a, capS t b])) (runVinsr t d a b) s

/-- VPERM on the VX engine: A.(B.e mod (4096/w)) (R371). -/
def runVperm (t : IntTy) (m : Option MReg) (d a b : VReg) : Perf :=
  regPerf fun q k => k.lanes t.w.bits q.width m d fun e =>
    elem t.w.bits (k.vreg a) (elem t.w.bits (k.vreg b) e % (4096 / t.w.bits))

/-- VPERM: its issue into the VX queue. -/
def execVperm (y : Sync) (t : IntTy) (m : Option MReg) (d a b : VReg) (s : State) : Host.Outcome State Fault Refusal :=
  engine legal (vx (.vperm y t m d a b) noCaps) (runVperm t m d a b) s

/-- VROT on the VX engine: A.((e + s[B]) mod n) (R371). -/
def runVrot (t : IntTy) (m : Option MReg) (d a : VReg) (_b : SReg) : Perf :=
  regPerf fun q k => k.lanes t.w.bits q.o1.toNat m d fun e =>
    elem t.w.bits (k.vreg a) ((e + q.o0.toNat) % inWidth t.w.bits q.o1.toNat)

/-- VROT: its issue into the VX queue. -/
def execVrot (y : Sync) (t : IntTy) (m : Option MReg) (d a : VReg) (b : SReg) (s : State) : Host.Outcome State Fault Refusal :=
  engine legal (vx (.vrot y t m d a b) (fun t => [capS t b])) (runVrot t m d a b) s

/-- VSEL on the VX engine: A.e where active, else B.e (R371). -/
def runVsel (t : IntTy) (m : MReg) (d a b : VReg) : Perf :=
  regPerf fun q k => k.lanes t.w.bits q.width none d fun e =>
    elem t.w.bits (k.vreg (if k.active t.w.bits (some m) e then a else b)) e

/-- VSEL: its issue into the VX queue. -/
def execVsel (y : Sync) (t : IntTy) (m : MReg) (d a b : VReg) (s : State) : Host.Outcome State Fault Refusal :=
  engine legal (vx (.vsel y t m d a b) noCaps) (runVsel t m d a b) s

/-- VMOV on the VX engine: A.e (R371). -/
def runVmov (t : IntTy) (m : Option MReg) (d a : VReg) : Perf :=
  lane1 t.w.bits m d a id

/-- VMOV: its issue into the VX queue. -/
def execVmov (y : Sync) (t : IntTy) (m : Option MReg) (d a : VReg) (s : State) : Host.Outcome State Fault Refusal :=
  engine legal (vx (.vmov y t m d a) noCaps) (runVmov t m d a) s

/-- VRED on the VX engine: the tree over the elements within the width (R275, R372). -/
def runVred (op : RedOp) (m : Mod) (d a : VReg) : Perf :=
  regPerf fun q t => t.reduce op m q.width d (elem op.bits (t.vreg a))

/-- VRED: its issue into the VX queue. -/
def execVred (y : Sync) (op : RedOp) (m : Mod) (d a : VReg) (s : State) : Host.Outcome State Fault Refusal :=
  engine legal (vx (.vred y op m d a) noCaps) (runVred op m d a) s

/-- VSCAN on the VX engine: the inclusive scan (R276, R372). -/
def runVscan (op : RedOp) (m : Mod) (d a : VReg) : Perf :=
  regPerf fun q t =>
    let l := ((scanAll (redNode op m) 10 0 (t.leaves op m q.width (elem op.bits (t.vreg a)))).map (redOut op m)).toArray
    t.setV d (mapElems op.bits (t.vreg d) fun e => l[e]?)

/-- VSCAN: its issue into the VX queue. -/
def execVscan (y : Sync) (op : RedOp) (m : Mod) (d a : VReg) (s : State) : Host.Outcome State Fault Refusal :=
  engine legal (vx (.vscan y op m d a) noCaps) (runVscan op m d a) s

/-- VDOT on the VX engine: the tree over the lane products (R275, R372). -/
def runVdot (op : RedOp) (m : Mod) (d a b : VReg) : Perf :=
  regPerf fun q t => t.reduce op m q.width d fun e =>
    dotProd op m (elem op.bits (t.vreg a) e) (elem op.bits (t.vreg b) e)

/-- VDOT: its issue into the VX queue. -/
def execVdot (y : Sync) (op : RedOp) (m : Mod) (d a b : VReg) (s : State) : Host.Outcome State Fault Refusal :=
  engine legal (vx (.vdot y op m d a b) noCaps) (runVdot op m d a b) s

/-- VLD on the VX engine: consecutive elements loaded (R373 to R375). -/
def runVld (w : Width) (d : VReg) (m : MemOp) : Perf :=
  fun c q s => vecMem (loadElem w d (unitAddr w m) q.o2.toNat) w (unitAddr w m) (fun q => q.o2.toNat) c q s

/-- VLD: its issue into the VX queue. -/
def execVld (y : Sync) (w : Width) (d : VReg) (m : MemOp) (s : State) : Host.Outcome State Fault Refusal :=
  engine legal (vx (.vld y w d m) (memCaps m)) (runVld w d m) s

/-- VST on the VX engine: consecutive elements stored (R373 to R375). -/
def runVst (w : Width) (d : VReg) (m : MemOp) : Perf :=
  fun c q s => vecMem (storeElem w d (unitAddr w m) q.o2.toNat) w (unitAddr w m) (fun q => q.o2.toNat) c q s

/-- VST: its issue into the VX queue. -/
def execVst (y : Sync) (w : Width) (d : VReg) (m : MemOp) (s : State) : Host.Outcome State Fault Refusal :=
  engine legal (vx (.vst y w d m) (memCaps m)) (runVst w d m) s

/-- VLDS on the VX engine: strided elements loaded (R373 to R375). -/
def runVlds (w : Width) (d : VReg) (m : MemOp) : Perf :=
  fun c q s => vecMem (loadElem w d (strideAddr m) q.o2.toNat) w (strideAddr m) (fun q => q.o2.toNat) c q s

/-- VLDS: its issue into the VX queue. -/
def execVlds (y : Sync) (w : Width) (d : VReg) (m : MemOp) (s : State) : Host.Outcome State Fault Refusal :=
  engine legal (vx (.vlds y w d m) (memCaps m)) (runVlds w d m) s

/-- VSTS on the VX engine: strided elements stored (R373 to R375). -/
def runVsts (w : Width) (d : VReg) (m : MemOp) : Perf :=
  fun c q s => vecMem (storeElem w d (strideAddr m) q.o2.toNat) w (strideAddr m) (fun q => q.o2.toNat) c q s

/-- VSTS: its issue into the VX queue. -/
def execVsts (y : Sync) (w : Width) (d : VReg) (m : MemOp) (s : State) : Host.Outcome State Fault Refusal :=
  engine legal (vx (.vsts y w d m) (memCaps m)) (runVsts w d m) s

/-- VGATH on the VX engine: elements gathered (R373 to R375). -/
def runVgath (w : Width) (d : VReg) (g : GatherOp) : Perf :=
  fun c q s => vecMem (loadElem w d (gatherAddr w g) q.o1.toNat) w (gatherAddr w g) (fun q => q.o1.toNat) c q s

/-- VGATH: its issue into the VX queue. -/
def execVgath (y : Sync) (w : Width) (d : VReg) (g : GatherOp) (s : State) : Host.Outcome State Fault Refusal :=
  engine legal (vx (.vgath y w d g) (gatherCaps g)) (runVgath w d g) s

/-- VSCAT on the VX engine: elements scattered (R373 to R375). -/
def runVscat (w : Width) (d : VReg) (g : GatherOp) : Perf :=
  fun c q s => vecMem (storeElem w d (gatherAddr w g) q.o1.toNat) w (gatherAddr w g) (fun q => q.o1.toNat) c q s

/-- VSCAT: its issue into the VX queue. -/
def execVscat (y : Sync) (w : Width) (d : VReg) (g : GatherOp) (s : State) : Host.Outcome State Fault Refusal :=
  engine legal (vx (.vscat y w d g) (gatherCaps g)) (runVscat w d g) s

/-- MLOG on the VX engine: mask logic on all 128 bits (R376). -/
def runMlog (op : MlogOp) : Perf :=
  regPerf fun _ t =>
    match op with
    | .and d a b => t.setM d (t.mreg a &&& t.mreg b)
    | .or d a b => t.setM d (t.mreg a ||| t.mreg b)
    | .xor d a b => t.setM d (t.mreg a ^^^ t.mreg b)
    | .andn d a b => t.setM d (t.mreg a &&& ~~~(t.mreg b))
    | .not d a => t.setM d (~~~(t.mreg a))
    | .set d => t.setM d (BitVec.allOnes 128)
    | .clr d => t.setM d 0

/-- MLOG: its issue into the VX queue. -/
def execMlog (y : Sync) (op : MlogOp) (s : State) : Host.Outcome State Fault Refusal :=
  engine legal (vx (.mlog y op) noCaps) (runMlog op) s

/-- MPOPC on the VX engine: the ones among bits 0 to W − 1 (R376). -/
def runMpopc (d : SReg) (a : MReg) : Perf :=
  regPerf fun q t =>
    t.setS d (BitVec.ofNat 64 ((List.range q.width).filter fun i => (t.mreg a).getLsbD i).length)

/-- MPOPC: its issue into the VX queue. -/
def execMpopc (y : Sync) (d : SReg) (a : MReg) (s : State) : Host.Outcome State Fault Refusal :=
  engine legal (vx (.mpopc y d a) noCaps) (runMpopc d a) s

/-- MSETL on the VX engine: a mask of the first s[A] elements (R376). -/
def runMsetl (w : Width) (d : MReg) (_a : SReg) : Perf :=
  regPerf fun q t => t.setMask w.bits d (4096 / w.bits) fun e => decide (e < q.o0.toNat)

/-- MSETL: its issue into the VX queue. -/
def execMsetl (y : Sync) (w : Width) (d : MReg) (a : SReg) (s : State) : Host.Outcome State Fault Refusal :=
  engine legal (vx (.msetl y w d a) (fun t => [capS t a])) (runMsetl w d a) s

/-- The width VSETW sets: Min(value, 128) (R377). -/
def Task.newWidth (t : Task) : WidthSrc → Nat
  | .reg r => Nat.min (t.sreg r).toNat 128
  | .imm x => Nat.min x.toNat 128

/-- The front end's part of VSETW (R377). -/
def Task.setWidth (t : Task) (d : SReg) (x : WidthSrc) : Task :=
  { t.setS d (BitVec.ofNat 64 (t.newWidth x)) with width := t.newWidth x }

/-- VSETW on the VX engine: its entry has no further effect (R377). -/
def runVsetw (_d : SReg) (_x : WidthSrc) : Perf :=
  fun _ _ s => ⟨s, 0, 0, .done⟩

/-- What VSETW captures: its scalar operand, if it has one (R360). -/
def widthCaps (x : WidthSrc) (t : Task) : List (BitVec 128) :=
  match x with
  | .reg r => [capS t r]
  | .imm _ => []

/-- VSETW: its issue into the VX queue. -/
def execVsetw (y : Sync) (d : SReg) (x : WidthSrc) (s : State) : Host.Outcome State Fault Refusal :=
  engine legal { vx (.vsetw y d x) (widthCaps x) with front := fun t => t.setWidth d x } (runVsetw d x) s

end Sys2Proof.Machine
end

