-- ==== Sys2Proof/Machine/Perform.lean ====
section
/-! DEFINITION. What an engine does with an entry that stands in its queue, by its instruction (R211). -/

namespace Sys2Proof.Machine

/-- The performance of a queued instruction; only engine instructions stand in a queue. -/
def performEntry : Instr → Perf
  | .vadd _ t m d a b => runVadd t m d a b
  | .vsub _ t m d a b => runVsub t m d a b
  | .vmul _ t m d a b => runVmul t m d a b
  | .vfma _ t m d a b c => runVfma t m d a b c
  | .vfms _ t m d a b c => runVfms t m d a b c
  | .vmin _ t m d a b => runVmin t m d a b
  | .vmax _ t m d a b => runVmax t m d a b
  | .vabs _ t m d a => runVabs t m d a
  | .vneg _ t m d a => runVneg t m d a
  | .vrcp _ t m d a => runVrcp t m d a
  | .vrsq _ t m d a => runVrsq t m d a
  | .vexp2 _ t m d a => runVexp2 t m d a
  | .vlog2 _ t m d a => runVlog2 t m d a
  | .vdiv _ t m d a b => runVdiv t m d a b
  | .vsqrt _ t m d a => runVsqrt t m d a
  | .vfcmp _ t c m d a b => runVfcmp t c m d a b
  | .viadd _ t m sat d a b => runViadd t m sat d a b
  | .visub _ t m sat d a b => runVisub t m sat d a b
  | .vimul _ t m sat d a b => runVimul t m sat d a b
  | .vimad _ t m sat d a b c => runVimad t m sat d a b c
  | .vimin _ t m d a b => runVimin t m d a b
  | .vimax _ t m d a b => runVimax t m d a b
  | .vand _ t m d a b => runVand t m d a b
  | .vor _ t m d a b => runVor t m d a b
  | .vxor _ t m d a b => runVxor t m d a b
  | .vnot _ t m d a => runVnot t m d a
  | .vshl _ t m d a b => runVshl t m d a b
  | .vshr _ t m d a b => runVshr t m d a b
  | .vsar _ t m d a b => runVsar t m d a b
  | .vicmp _ t c m d a b => runVicmp t c m d a b
  | .vpopc _ t m d a => runVpopc t m d a
  | .vclmul _ hi m d a b => runVclmul hi m d a b
  | .vcvt _ dst src m d a => runVcvt dst src m d a
  | .vpack _ t sat d a b => runVpack t sat d a b
  | .vunpack _ t hi d a => runVunpack t hi d a
  | .vbcast _ t m d a => runVbcast t m d a
  | .vextr _ t d a b => runVextr t d a b
  | .vinsr _ t d a b => runVinsr t d a b
  | .vperm _ t m d a b => runVperm t m d a b
  | .vrot _ t m d a b => runVrot t m d a b
  | .vsel _ t m d a b => runVsel t m d a b
  | .vmov _ t m d a => runVmov t m d a
  | .vred _ op m d a => runVred op m d a
  | .vscan _ op m d a => runVscan op m d a
  | .vdot _ op m d a b => runVdot op m d a b
  | .vld _ w d m => runVld w d m
  | .vst _ w d m => runVst w d m
  | .vlds _ w d m => runVlds w d m
  | .vsts _ w d m => runVsts w d m
  | .vgath _ w d g => runVgath w d g
  | .vscat _ w d g => runVscat w d g
  | .mlog _ op => runMlog op
  | .mpopc _ d a => runMpopc d a
  | .msetl _ w d a => runMsetl w d a
  | .vsetw _ d x => runVsetw d x
  | .txload _ d s' => runTxload d s'
  | .txrun _ dst src sat d s' n t => runTxrun dst src sat d s' n t
  | .txv _ dst src m sat d a t => runTxv dst src m sat d a t
  | .txcfg _ t a b => runTxcfg t a b
  | .txrd _ d t a => runTxrd d t a
  | .mxldw _ fmt w t x sc => runMxldw fmt w t x sc
  | .mxldwt _ fmt w t x sc => runMxldwt fmt w t x sc
  | .mxpass _ fmt acc a t x sc => runMxpass fmt acc a t x sc
  | .mxzero _ mask => runMxzero mask
  | .mxst _ kind dst r acc d t x => runMxst kind dst r acc d t x
  | .mxrdv _ kind dst r d acc t => runMxrdv kind dst r d acc t
  | .mxwrv _ acc a t => runMxwrv acc a t
  | .mxagen _ op => runMxagen op
  | .mxscl _ s' t g => runMxscl s' t g
  | .mxmode _ op => runMxmode op
  | .mxchk _ op => runMxchk op
  | .mxidle _ => runMxidle
  | .cpy _ d s' n lw => runCpy d s' n lw
  | .cpyt _ p d s' t dstr lw => runCpyt p d s' t dstr lw
  | .cpym _ d s' n m lw => runCpym d s' n m lw
  | .fill _ w d n v lw => runFill w d n v lw
  | .rlopen _ k r => runRlopen k r
  | .rlhold _ k => runRlhold k
  | .rlrel _ k => runRlrel k
  | .rlrd _ d k p lw => runRlrd d k p lw
  | .rlwr _ k s' p => runRlwr k s' p
  | .rlstat _ d k => runRlstat d k
  | .streamrow _ d r lw => runStreamrow d r lw
  | .bankclose _ r => runBankclose r
  | .sqload _ sys d t p n => runSqload sys d t p n
  | .sqstart _ d t a => runSqstart d t a
  | .sqstop _ d t => runSqstop d t
  | .sqstat _ d t => runSqstat d t
  | .put _ psz r s' k c n => runPut psz r s' k c n
  | .get _ psz d r k c n => runGet psz d r k c n
  | .rld _ t acq sc d r k c => runRld t acq sc d r k c
  | .rst _ t rel sc v r k c => runRst t rel sc v r k c
  | .ratom _ op o sc noret v r k c => runRatom op o sc noret v r k c
  | .rcas _ t o sc d r n c => runRcas t o sc d r n c
  | .flush _ sc => runFlush sc
  | .sld _ t acq sc d i h => runSld t acq sc d i h
  | .sst _ t rel sc v i h => runSst t rel sc v i h
  | .sget _ psz d i n h lw => runSget psz d i n h lw
  | .sput _ op s' i n h => runSput op s' i n h
  | .shfence _ => runShfence
  | .shupd _ d a h => runShupd d a h
  | .grant _ d a => runGrant d a
  | .revoke _ a => runRevoke a
  | _ => fun _ _ s => ⟨s, 0, 0, .done⟩

/-- A turn of its engine on a queued entry. -/
def State.turnEntry (s : State) (c : Nat) (q : Entry) : State := s.tryEntry (performEntry q.instr) c q

end Sys2Proof.Machine
end

