-- ==== Sys2Proof/Machine/EngineEvents.lean ====
section
/-! DEFINITION. The events of a front end, of its engines and of the sequencer: conditions met, pending traps, WAITTIME, instruction fetch, engine starts and commits, replies and polls (R120, R166, R177, R182, R186 to R188, R192, R208, R211, R216, R306, R340, R355, R428). -/

namespace Sys2Proof.Machine

/-! ## Conditions met (R166) -/

/-- A read that a hold is tested on meets its test; one that stops is left to the instruction, which is issued again. -/
def State.peek (s : State) (c n : Nat) (va : Addr) (k : Nat) (f : List Byte → Bool) : Bool :=
  match (locate s (scalarAcc c (s.task c n).asid true false false) va k).2 with
  | .ok l => (s.firstPoisonAll l).isSome || f (s.readAll l)
  | .error _ => true

/-- A remote atomic that carries an acquire. -/
def Instr.acquires : Instr → Bool
  | .ratom _ _ .acq _ .. | .ratom _ _ .ar _ .. | .rcas _ _ .acq _ .. | .rcas _ _ .ar _ .. => true
  | _ => false

/-- The acquire of an earlier RATOM or RCAS of the task is not performed yet (R241, R250). -/
def State.acquiring (s : State) (c n : Nat) : Bool :=
  (s.core c).queue.any fun q => q.slot == n && !q.frozen && Instr.acquires q.instr

/-- The condition that a held task waits for is met; responses and commands of management end the other holds themselves. -/
def State.met (s : State) (c n : Nat) : Bool :=
  let k := s.core c
  match (s.task c n).wait with
  | .sync q m | .sem q m => decide (m ≤ (s.sem c q.toNat).count.toNat)
  | .landing a g =>
    s.peek c n a 16 fun bs =>
      let w := LandingWord.ofBits (leBits 128 bs)
      w.flags.getLsbD 7 || reached w.gen g
  | .mwait a t cnd b => vaRegion a != .host && s.peek c n a t.w.bytes fun bs => cnd.eval (t.ext (BitVec.ofNat 64 (ofBytes bs))) b
  | .barrier b phase => (s.bar c b.val).met phase
  | .join m => s.joined c n m
  | .fence => s.acked c n
  | .crclose d => s.regionClear c n d
  | .texit => s.taskQuiet c n
  | .halt => !s.dbg.halt
  | .queueFull e => queueRoom k.queue e n
  | .copyLock o m => !State.lockedBy k.queue o m
  | .regBusy rs => !(rs.any fun r => (s.task c n).resvd.contains r)
  | .xlt p v | .probe _ (.inr (p, v)) => !(s.xlts.any fun r => r.pasid == p && r.vpage == v) && s.zclUp
  | .bank b => (s.enterBank c b).isSome
  | .probe _ (.inl b) => s.bankTakes Config.cores b
  | .selfRefresh => !s.anySref
  | .acquire => !(s.acquiring c n)
  | .none | .ecall .. | .remote _ | .page .. | .refused _ | .word _ => false

/-- A condition that another task or agent may undo before the instruction is issued again: the count of its wait goes on (R186). (DEDUCED, unsafe, log 48) -/
def Wait.contended : Wait → Bool
  | .sync .. | .sem .. | .mwait .. => true
  | _ => false

/-- The task is held. -/
def TaskSt.held : TaskSt → Bool
  | .waiting | .parked | .issuing => true
  | _ => false

/-- A hold that is timing only: its task is READY (R166, R361). -/
def Wait.timing : Wait → Bool
  | .regBusy _ | .xlt .. | .bank _ | .probe .. | .acquire => true
  | _ => false

/-- What is left of a timing hold when the instruction is issued again: how far ACHK's probe has come (R316). -/
def Wait.atIssue : Wait → Wait
  | .regBusy _ | .xlt .. | .bank _ | .acquire => .none
  | w => w

/-- Timing holds the instruction of a READY task. -/
def State.timed (s : State) (c n : Nat) : Bool := (s.task c n).wait.timing && !(s.met c n)

/-- The hold at an instruction that its word and the registers give, where a section records no object of it (R166, R335). -/
def Task.waitAt (t : Task) : Instr → Option Wait
  | .qjoin _ m => some (.join m)
  | .fence _ o sc =>
    if o = .acq ∨ sc = .core then none else if sc = .fab ∨ sc = .sys then some .fence else some .selfRefresh
  | .crclose _ id => if (t.regions.getLast?.map fun r => r.id) = some id then some (.crclose t.regions.length) else none
  | .texit _ => some .texit
  | .halt _ => some .halt
  | .mwait _ ty cnd _ _ a b => some (.mwait (t.areg a) ty cnd (t.sreg b))
  | _ => none

/-- A task read in from an image enters the wait that the word at its PC gives; READY where it gives none, or cannot be read (R166, R335). -/
def State.enterWait (s : State) (c n : Nat) : State :=
  match (s.task c n).wait with
  | .word _ =>
    match (s.wordAt c n).bind fun w => (decode w).toOption.bind fun i => (s.task c n).waitAt i with
    | some w => s.modTask c n fun t => { t with wait := w }
    | none => s.readyTask c n
  | _ => s

/-- A held task whose condition is met is READY (R166). -/
def State.wake (s : State) (c n : Nat) : State :=
  let s := s.enterWait c n
  let t := s.task c n
  if t.st.held && s.met c n then
    if t.wait.contended then s.modTask c n fun t => { t with st := .ready } else s.readyTask c n
  else s

/-- WAIT_CONDITION_MET: the input names the core and the slot (R166). -/
def execWaitConditionMet (s : State) : Host.Outcome State Fault Refusal :=
  event (fun s => if s.frozenUnit s.inp.core then s else s.wake s.inp.core s.inp.slot) s

/-- MWAIT_POLL: a task that waits at MWAIT reads its location again, and is READY when the value meets its condition, or the read cannot be
made here: one of the host half is the instruction's, issued again (R166, R340). -/
def execMwaitPoll (s : State) : Host.Outcome State Fault Refusal :=
  event (fun s =>
    let t := s.task s.inp.core s.inp.slot
    match t.st, t.wait with
    | .waiting, .mwait a .. =>
      if !(s.frozenUnit s.inp.core) && (vaRegion a == .host || s.met s.inp.core s.inp.slot) then
        s.modTask s.inp.core s.inp.slot fun t => { t with st := .ready }
      else s
    | _, _ => s) s

/-! ## Pending traps (R177, R192) -/

/-- The count that an imported task's instruction took is not known yet: the word at PC cannot be read now, but its fetch ends in no trap
(R334, R335). -/
def State.countUnread (s : State) (c n : Nat) : Bool :=
  let t := s.task c n
  t.pastSync && (s.wordAt c n).isNone &&
  match (locate s (scalarAcc c t.asid false false true) t.pc 12).2 with
  | .error (.xlt _ _, _) | .error (.bank _, _) => true
  | .error (.absent, _) => !(s.asidEnt t.asid.toNat).nopf
  | _ => false

/-- Taking the pending trap of a task; poison that a response brought to its image is consumed instead (R191, R202). The trap waits for the
word whose count its entry returns (R334). -/
def State.takeTrap (s : State) (c n : Nat) : Option State :=
  if s.countUnread c n then none
  else
  match (s.task c n).firstPending with
  | none => none
  | some (e, p) =>
    if p.code = cPOISON then
      some ((s.modTask c n fun t => t.setPend e none).consume c n (s.task c n).regions.length cPOISON p.sub p.addr e.code p.ecp p.esp)
    else s.takePending c n

/-- A task that can meet an issue boundary (R177). -/
def TaskSt.atBoundary : TaskSt → Bool
  | .ready | .waiting | .parked | .issuing => true
  | .idle | .trapped | .preempted => false

/-- The issue boundary of a task: its pending trap is taken (R177); a held one whose count is not known fetches its word first (R334). -/
def State.boundary (s : State) (c n : Nat) : State :=
  if (s.task c n).st.atBoundary then
    match s.takeTrap c n with
    | some s => s
    | none => if (s.task c n).firstPending.isSome && s.countUnread c n then s.readyTask c n else s
  else s

/-- PENDING_TRAP_TAKEN: the input names the core and the slot (R177). -/
def execPendingTrapTaken (s : State) : Host.Outcome State Fault Refusal :=
  event (fun s => if s.frozenUnit s.inp.core then s else s.boundary s.inp.core s.inp.slot) s

/-! ## WAITTIME (R185 to R187) -/

/-- The wait count has reached WAITLIMIT (R187). -/
def State.expired (s : State) (c n : Nat) : Bool :=
  let t := s.task c n
  t.waitlimit != 0 && decide (t.waitlimit.toNat ≤ t.waitCount (s.now c))

/-- WAITTIME at an instruction. -/
def State.waittime (s : State) (c n : Nat) : State := s.issueTrap c n cWAITTIME 0 0

/-- A remote load is withdrawn: its request, its entry, and the count it took; the task stands at it again (R185, R217). (DEDUCED, unsafe, log 50) -/
def State.withdraw (s : State) (c n : Nat) (q : Entry) : State :=
  let id := (s.task c n).sweep
  let s := { s with
    outst := s.outst.filter fun o => !(o.by c n id && o.isn == q.isn)
    xfers := s.xfers.filter fun x => !(x.core == c && x.slot == n && x.sweep == id && x.isn == q.isn) }
  let s := s.discardEntry c q true
  match q.back with
  | some (pc, depth, loops) => s.modTask c n fun t => { t with pc := pc, depth := depth, loops := loops }
  | none => s

/-- The entry's SYNC wait is met now, or was (R217). -/
def State.waitReady (s : State) (c : Nat) (q : Entry) : Bool :=
  let y := q.instr.sync.getD Sync.none
  q.wmet || decide (y.wcnt.toNat ≤ (s.sem c y.wsem.toNat).count.toNat)

/-- An entry is held at the head of its order, the oldest that has not started, by an unmet SYNC wait, or it is held by an OPENING row line or
a queued page fault (R186). -/
def State.heldEntry (s : State) (c n : Nat) (q : Entry) : Bool :=
  let k := s.core c
  q.slot == n && !q.done && !q.frozen &&
  (q.pageHeld.isSome ||
    (!q.started && !(s.waitReady c q) && !((before q k.queue).any fun x => x.slot == n && x.eng == q.eng && !x.started && !x.done)) ||
    (q.started && match Instr.rowSlot q.instr with | some r => decide ((s.row c n r).st = RowSt.opening) | none => false))

/-- The wait count of a task runs while it is held, or an entry of it is, and returns to zero when none of those waits is in force (R186);
that of a READY task which tests a contended condition again goes on (DEDUCED, unsafe, log 48). -/
def State.recount (s : State) (c n : Nat) : State :=
  let t := s.task c n
  if t.st = .waiting ∨ t.st = .parked ∨ (s.core c).queue.any (fun q => s.heldEntry c n q) = true then
    (if t.waitFrom.isSome then s else s.modTask c n fun t => t.startWait (s.now c))
  else if t.wait.contended || (t.waitFrom.isNone && t.waitAcc == 0) then s
  else s.modTask c n fun t => { t with waitAcc := 0, waitFrom := none }

/-- An engine command's wait is abandoned: it is frozen where it stands, and a waiting RLOPEN leaves its order (R105, R187). -/
def State.abandonEntry (s : State) (c n : Nat) (q : Entry) : State :=
  let s := match q.instr with
    | .rlopen _ k _ => if (s.row c n k).st = RowSt.opening then (s.dropWaiter c n k).setRow c n k {} else s
    | _ => s
  let s := (s.modEntry c q fun x => { x with frozen := true, pageHeld := none, spec := x.comm }).release c n q.instr
  let s := s.modTask c n fun t => { t with waitAcc := 0, waitFrom := none }
  s.pendTrap c n q.eng { code := cWAITTIME, sub := 0, addr := 0, ecp := q.comm, esp := q.comm }

/-- The wait in force of a task is abandoned: its own, else that of its oldest held command (R187). (DEDUCED, unsafe, log 45) -/
def State.abandon (s : State) (c n : Nat) : State :=
  let t := s.task c n
  match t.st, t.wait with
  | .waiting, _ => s.waittime c n
  | .parked, .remote isn =>
    match (s.core c).queue.find? fun q => q.slot == n && q.isn == isn && parks q.instr with
    | some q => (s.withdraw c n q).waittime c n
    | none => s.waittime c n
  | .parked, _ => s.waittime c n
  | _, _ =>
    match (s.core c).queue.find? fun q => s.heldEntry c n q with
    | some q => s.abandonEntry c n q
    | none => s

/-- WAITTIME when the count has reached its limit. -/
def State.expire (s : State) (c n : Nat) : State := if s.expired c n then s.abandon c n else s

/-- WAITTIME_EXPIRY: the input names the core and the slot (R187). -/
def execWaittimeExpiry (s : State) : Host.Outcome State Fault Refusal :=
  event (fun s => if s.frozenUnit s.inp.core then s else s.expire s.inp.core s.inp.slot) s

/-! ## DEADWAIT (R188) -/

/-- The task waits on a semaphore without EXT, or at a barrier. -/
def State.deadTask (s : State) (c n : Nat) : Bool :=
  let t := s.task c n
  t.st == .waiting &&
  match t.wait with
  | .sync q _ | .sem q _ => !(s.sem c q.toNat).ext
  | .barrier .. => true
  | _ => false

/-- DEADWAIT on the lowest slot, when nothing on the unit can end the waits of its tenant (R188). -/
def State.deadwait (s : State) (c : Nat) : State :=
  match (s.core c).tenant with
  | none => s
  | some id =>
    match s.slotsOf c id with
    | [] => s
    | n :: ns =>
      if (n :: ns).all (fun m => s.deadTask c m) && (s.core c).queue.isEmpty then s.issueTrap c n cDEADWAIT 0 0 else s

/-! ## Instruction fetch (R208) -/

/-- The word at a task's PC, from the instruction memory or filled into it; the state where the fetch stops. (DEDUCED, unsafe, log 36) (DEDUCED, unsafe, log 52) -/
def fetch (s : State) (c n : Nat) : Except State (State × InstrWord) :=
  let t := s.task c n
  match (s.core c).imem.find? fun e => e.1 == t.pc.toNat with
  | some e => .ok (s, e.2)
  | none =>
    if vaRegion t.pc = .scratch then .error (s.issueTrap c n cPROT 0 t.pc)
    else
      let x := scalarAcc c t.asid false false true
      match resolve s x t.pc 12 with
      | (s, .error (e, fail)) => .error ((scalarStop s c n x 7 fail fail e).run Sync.none c n)
      | (s, .ok l) =>
        match s.firstPoisonAll l with
        | some i => .error (s.consume c n t.regions.length cPOISON 0 (t.pc + BitVec.ofNat 80 i) 0 0 0)
        | none =>
          let w := leBits 96 (s.readAll l)
          .ok (s.modCore c fun k => { k with imem := Tab.set k.imem t.pc.toNat w }, w)

/-- INSTRUCTION_FETCH: the input names the core and the slot of a READY task (R208). -/
def execInstructionFetch (s : State) : Host.Outcome State Fault Refusal :=
  event (fun s =>
    if s.frozenUnit s.inp.core || (s.task s.inp.core s.inp.slot).st != .ready then s
    else
      match fetch s s.inp.core s.inp.slot with
      | .ok r => r.1
      | .error s => s) s

/-! ## Engines (R182, R211, R216) -/

/-- ENGINE_ENTRY_START: the oldest task head of an engine whose SYNC wait is met (R211). -/
def execEngineEntryStart (s : State) : Host.Outcome State Fault Refusal :=
  event (fun s =>
    let c := s.inp.core
    match (s.core c).queue.find? fun q => q.eng == s.inp.eng && !q.started && s.startable c q && s.waitReady c q with
    | some q => s.turnEntry c q
    | none => s) s

/-- ENGINE_UNIT_COMMIT: an entry under way goes on; the input names core, slot and engine (R182). -/
def execEngineUnitCommit (s : State) : Host.Outcome State Fault Refusal :=
  event (fun s =>
    let c := s.inp.core
    match (s.core c).queue.find? fun q => q.slot == s.inp.slot && q.eng == s.inp.eng && q.started && s.startable c q with
    | some q => s.turnEntry c q
    | none => s) s

/-- ENGINE_ENTRY_COMPLETE: performed entries of a task leave an engine's queue and signal (R216). -/
def execEngineEntryComplete (s : State) : Host.Outcome State Fault Refusal :=
  event (fun s =>
    if s.frozenUnit s.inp.core then s else retire s.inp.core s.inp.slot s.inp.eng (s.core s.inp.core).queue.length s) s

/-! ## Stream TLBs (R137) -/

/-- A stream of a command: the address at a position, its positions, those of one contiguous run, and the bytes of one. -/
structure Stream where
  addr : Nat → Addr
  total : Nat
  run : Nat
  step : Nat

/-- `n` positions of `step` bytes from an address on. -/
def Stream.linear (a : Addr) (n step : Nat) : Stream := ⟨fun p => a + BitVec.ofNat 80 (step * p), n, n, step⟩

/-- `n` elements that an address function places. -/
def Stream.elements (f : Nat → Addr) (n : Nat) : Stream := ⟨f, n, 1, 1⟩

/-- The streams of a command under way, outside the scratchpad's own operands (R137). -/
def Entry.streams (q : Entry) (t : Task) : List Stream :=
  let a0 : Addr := q.o0.setWidth 80
  let a1 : Addr := q.o1.setWidth 80
  let n2 := (q.o2.setWidth 64).toNat
  let sharded := match q.segs with | some l => l.foldl (fun k g => k + g.len) 0 | none => 0
  match q.instr with
  | .cpy .. => [.linear a1 n2 1, .linear a0 n2 1]
  | .cpyt .. =>
    let w : Word := q.o2.setWidth 64
    [⟨fun p => a1 + BitVec.ofNat 80 (tileStride w * (p / tileLen w) + p % tileLen w), tileRows w * tileLen w, tileLen w, 1⟩]
  | .cpym .. => [.linear a1 n2 1]
  | .fill .. => [.linear a0 (q.o1.setWidth 64).toNat 1]
  | .vld _ w _ m | .vst _ w _ m => [.elements (unitAddr w m q t) (inWidth w.bits q.o2.toNat)]
  | .vlds _ w _ m | .vsts _ w _ m => [.elements (strideAddr m q t) (inWidth w.bits q.o2.toNat)]
  | .vgath _ w _ g | .vscat _ w _ g => [.elements (gatherAddr w g q t) (inWidth w.bits q.o1.toNat)]
  | .txload .. => [.linear a1 ((q.hdr.map fun b => (TxHead.ofBits b).n + 2).getD 2) 8]
  | .txrun _ dst src .. => [.linear a1 n2 (src.bits / 8), .linear a0 n2 (dst.bits / 8)]
  | .put _ _ _ _ _ _ n => [.linear a1 n.toNat 1]
  | .get _ _ _ _ _ _ n => [.linear a0 n.toNat 1]
  | .sget .. | .sput .. => [.linear a0 sharded 1]
  | _ => []

/-- The next byte of a stream beyond the page of its position, in the stream's order, when it lies within the command's range (R137). -/
def Stream.beyond (x : Stream) (pos shift : Nat) : Option Addr :=
  if x.total ≤ pos ∨ x.run = 0 then none
  else
    let page := fun (p : Nat) => (x.addr p).toNat / 2 ^ shift
    ((List.range ((x.total - 1) / x.run - pos / x.run + 1)).findSome? fun i =>
      let p0 := Nat.max pos ((pos / x.run + i) * x.run)
      let p1 := p0 + ((page p0 + 1) * 2 ^ shift - (x.addr p0).toNat + x.step - 1) / x.step
      if page p0 ≠ page pos then some p0
      else if p1 < Nat.min x.total ((pos / x.run + i + 1) * x.run) then some p1
      else none).map x.addr

/-- STREAM_TLB_WALK_AHEAD: for a command under way the input names the unit, slot, engine and stream; the walk never faults (R137). -/
def execStreamTlbWalkAhead (s : State) : Host.Outcome State Fault Refusal :=
  event (fun s =>
    let c := s.inp.core
    match (s.core c).queue.find? fun q => q.slot == s.inp.slot && q.eng == s.inp.eng && q.started && !q.done with
    | none => s
    | some q =>
      let t := s.task c q.slot
      match (q.streams t)[s.inp.index]? with
      | none => s
      | some x =>
        let cache := CacheId.stream c q.eng
        let shift := match s.cached cache t.asid (x.addr q.comm) with | some e => e.shift | none => 16
        match x.beyond q.comm shift with
        | none => s
        | some va =>
          if s.haltedUnit c || (s.cached cache t.asid va).isSome then s else s.walkInto false cache t.asid va) s

/-- The entries of a unit that are under way go on, in queue order; those that are performed add their signals (R211, R216). -/
def State.advance (s : State) (c : Nat) : State :=
  ((s.core c).queue.filter fun q => q.started && !q.done).foldl (fun s q =>
    match (s.core c).queue.find? q.same with
    | some q => s.turnEntry c q
    | none => s) s

/-- An entry starts: its SYNC wait is met; its performance follows (R211). -/
def State.beginEntry (s : State) (c : Nat) (q : Entry) : State := s.tryEntry (fun _ q s => ⟨s, q.comm, q.spec, .stall⟩) c q

/-- One engine starts the oldest head in queue order that can start (R211). -/
def startOldest (c : Nat) (e : Eng) (s : State) : State :=
  match (s.core c).queue.find? fun q => q.eng == e && !q.started && s.startable c q && s.waitReady c q with
  | some q => s.beginEntry c q
  | none => s

/-- Every engine starts what it can, in the order in which waits are tested (R218). -/
def startAll (c : Nat) : Nat → State → State
  | 0, s => s
  | n + 1, s => startAll c n (Eng.all.foldl (fun s e => startOldest c e s) s)

/-- The engines of a unit: signals are added before any wait is tested (R218); nothing starts while starts are deferred
(DESIGN CHOICE, unsafe, log 3). -/
def State.pump (s : State) (c : Nat) : State :=
  if s.deferStart then s
  else
    let s := s.advance c
    startAll c (s.core c).queue.length s

/-! ## Replies of the management core (R191, R355) -/

/-- A task past its ECALL: the reply in its register, the instruction performed. -/
def Task.replied (t : Task) (d : SReg) (svc : BitVec 16) (arg v : Word) : Task :=
  let t := { t.endWait.setS d (if svc = 0 then arg else v) with st := .ready, isn := t.isn + 1, took := none }
  t.cont (t.pc + 12)

/-- The reply reaches a task of a pre-empted unit in its image (R191). -/
def Image.replied (i : Image) (n : Nat) (v : Word) : Image :=
  match (i.tasks.find? fun t => t.1 == n).map fun t => t.2 with
  | none => i
  | some t =>
    match t.st, t.wait with
    | .parked, .ecall y d svc arg =>
      { i with
        tasks := i.tasks.map fun e => if e.1 = n then (e.1, t.replied d svc arg v) else e
        sems := if y.sinc = 0 then i.sems
                else Tab.set i.sems y.ssem.toNat ((Tab.get ({} : Sem) i.sems y.ssem.toNat).signal y.sinc.toNat) }
    | _, _ => i

/-- ECALL_REPLY: the input names the core and slot, or the sweep, the image and slot, and the reply's value; service 0 returns its argument;
an acquire at .dev, after which a restored unit's cache is empty as it is (R191, R241, R355; DESIGN CHOICE, safe, log 16). (DEDUCED, unsafe, log 49) -/
def execEcallReply (s : State) : Host.Outcome State Fault Refusal :=
  event (fun s =>
    let c := s.inp.core
    let n := s.inp.slot
    let v : Word := s.inp.v.setWidth 64
    if (s.image s.inp.sweep c).isSome then s.modImage s.inp.sweep c fun i => i.replied n v
    else
      let t := s.task c n
      match t.st, t.wait with
      | .parked, .ecall y d svc arg => ((s.invalidate c).modTask c n fun t => t.replied d svc arg v).signal c y.ssem y.sinc.toNat
      | _, _ => s) s

/-! ## The sequencer (R120, R306, R428) -/

/-- A word of a thread's program. -/
def Instr.sequencer : Instr → Bool
  | .sqburst .. | .sqset .. | .sqsig .. | .sqwait .. | .sqloop .. | .sqend => true
  | _ => false

/-- An event of the device: no instruction word names it. -/
def Instr.isEvent (i : Instr) : Bool := i.sync.isNone && !(Instr.sequencer i)

/-- The word that a thread stands at: none outside its range, or where the word is none of the sequencer's (R306, R425, R429). -/
def State.threadWord (s : State) (t : ThreadId) : Option Instr :=
  let h := s.thread t
  if h.pc < h.base ∨ h.base + h.len ≤ h.pc then none
  else
    match decode (Tab.get 0 s.flood.prog h.pc) with
    | .ok i => if Instr.sequencer i then some i else none
    | .error _ => none

/-- The sequencer runs. -/
def State.floodOn (s : State) : Bool := s.powered && !s.stopped && !s.faulted

/-- SEQUENCER_WORD_DECODE_ERROR: the input names the thread (R306). -/
def execSequencerWordDecodeError (s : State) : Host.Outcome State Fault Refusal :=
  event (fun s =>
    let t := s.inp.thread
    if s.floodOn && (s.thread t).st == .running && (s.threadWord t).isNone then s.threadError t cILLEGAL else s) s

/-- The thread waits for a page. -/
def State.threadPaged (s : State) (t : ThreadId) : Bool :=
  (s.thread t).units.any (fun u => u.pageHeld) || s.faults.any fun (f : PageFault) => f.who.any fun w => w.1 == .thread t

/-- A waiting SQWAIT is tested again. -/
def State.rewait (s : State) (t : ThreadId) : State :=
  if (s.thread t).st == .waiting && !(s.threadPaged t) then
    match s.threadWord t with
    | some (.sqwait a v) => sqwaitTest a v t s
    | _ => s
  else s

/-- SQWAIT_POLL: the input names the thread (R428). -/
def execSqwaitPoll (s : State) : Host.Outcome State Fault Refusal :=
  event (fun s => if s.floodOn then s.rewait s.inp.thread else s) s

end Sys2Proof.Machine
end

