-- ==== Sys2Proof/Machine/MemEvents.lean ====
section
/-! DEFINITION. The events of the memory island: latches and leases, refresh and RFM, temperature, scrubbing, bank reservations and burst slots (R104 to R117, R122). -/

namespace Sys2Proof.Machine

/-- The memory island runs. -/
def State.memOn (s : State) : Bool := s.powered && !s.stopped

/-! ## Latches and leases (R104, R105) -/

/-- LATCH_GRANT: to the oldest waiting opener of a free latch (R105). -/
def execLatchGrant (s : State) : Host.Outcome State Fault Refusal :=
  event (fun s => if s.memOn then s.grantLatch (s.inp.bank * 4 + s.inp.group.val) else s) s

/-- LEASE_EXPIRY: RLPRE, then RLACT, which waits while the bank takes no activate (R104, R106). -/
def execLeaseExpiry (s : State) : Host.Outcome State Fault Refusal :=
  event (fun s =>
    let r := s.row s.inp.core s.inp.slot s.inp.k
    if s.memOn && r.st == .held && s.canAct (bankOf r.dpa) then (s.rowBack r.dpa).rlact s.inp.core s.inp.slot s.inp.k else s) s

/-! ## Refresh and RFM (R107, R109, R110) -/

/-- REFRESH_ISSUE: the bank is precharged; its latches stand (R109, R113). -/
def execRefreshIssue (s : State) : Host.Outcome State Fault Refusal :=
  event (fun s =>
    let b := s.inp.bank
    let k := s.bank b
    if s.memOn && !k.refreshing && !k.rfm && !(s.stack (stackOfBank b)).sref then
      s.setBank b { k with openRow := none, refreshing := true }
    else s) s

/-- What waited for a bank outside the cores is tried again: writes of the management core, completion words, requests at ingress
(R112, R113). -/
def State.retryHeld (s : State) : State := s.retryWrites.retryWords.retryIngress

/-- A request that self-refresh made wait is tried; a unit tries its own in its turn (R112). -/
def State.retryWaiter (s : State) : Waiter → State
  | .unit _ _ => s
  | .word w => if s.words.contains w then State.storeWord { s with words := s.words.erase w } w else s
  | .req src tag =>
    match s.ingress.find? fun h => h.pkt.src == src && h.pkt.tag == tag with
    | some h => State.ingressReq { s with ingress := s.ingress.erase h } { h with halted := false }
    | none => s
  | .mgmt => s.retryWrites

/-- The unit's tasks can be issued: it has a tenant and is not being pre-empted. -/
def State.unitRuns (s : State) (c : Nat) : Bool := (s.core c).tenant.isSome && (s.core c).freeze.isNone

/-- The stack takes the requests that waited for self-refresh to end, in their order of arrival, up to one of a unit that has not had its
turn since (R112). -/
def takeArrivedStack (k : Nat) : Nat → State → State
  | 0, s => s
  | fuel + 1, s =>
    let pop := fun (s : State) => s.setStack k { s.stack k with arrived := (s.stack k).arrived.drop 1 }
    if (s.stack k).sref then s
    else
      match (s.stack k).arrived with
      | [] => s
      | .unit c called :: _ => if called || !(s.unitRuns c) then takeArrivedStack k fuel (pop s) else s
      | w :: _ => takeArrivedStack k fuel (pop (s.retryWaiter w))

/-- Every stack takes what has waited (R112). -/
def State.takeArrived (s : State) : State :=
  s.hbm.stackRegs.foldl (fun s (e : Nat × Stack) => if e.2.arrived.isEmpty then s else takeArrivedStack e.1 (e.2.arrived.length + 1) s) s

/-- A unit has its turn: its requests that stand first have been called (R112). -/
def State.callUp (s : State) (c : Nat) : State :=
  { s with hbm := { s.hbm with stackRegs := s.hbm.stackRegs.map fun (e : Nat × Stack) =>
    match e.2.sref, e.2.arrived with
    | false, .unit u _ :: l => (e.1, if u = c then { e.2 with arrived := .unit u true :: l } else e.2)
    | _, _ => e } }

/-- REFRESH_COMPLETE (R109). -/
def execRefreshComplete (s : State) : Host.Outcome State Fault Refusal :=
  event (fun s => if s.memOn then (s.setBank s.inp.bank { s.bank s.inp.bank with refreshing := false }).retryHeld else s) s

/-- The storm event of a bank: stack, pseudo-channel, bank and the RFM count (R110; DESIGN CHOICE, unsafe, log 30). -/
def State.stormEvent (s : State) (b n : Nat) : State :=
  s.strandEvent 0x06 (stackOfBank b) (toBytes (stackOfBank b) 1 ++ toBytes (b / 64 % 64) 1 ++ toBytes (b % 64) 1 ++ [0] ++ toBytes n 4)

/-- An RFM counted: by its bank and its stack, with one storm event in a millisecond in which the bank's count is STORM or more (R110, R111). -/
def State.countRfm (s : State) (b : Nat) : State :=
  let ms := s.millisecond
  let k := (s.stack (stackOfBank b)).roll ms
  let s := s.setStack (stackOfBank b) { k with rfmNow := k.rfmNow + 1 }
  let x := s.bank b
  let n := (if x.ms = ms then x.rfmMs else 0) + 1
  let storm := decide (k.storm ≠ 0) && decide (k.storm.toNat ≤ n) && x.stormMs != some ms
  let s := s.setBank b { x with ms := ms, rfmMs := n, stormMs := if storm then some ms else x.stormMs }
  if storm then s.stormEvent b n else s

/-- RFM_ISSUE (R110). -/
def execRfmIssue (s : State) : Host.Outcome State Fault Refusal :=
  event (fun s =>
    let b := s.inp.bank
    let x := s.bank b
    let k := s.stack (stackOfBank b)
    if s.memOn && !x.rfm && !x.refreshing && !k.sref && decide (k.raalevel.toNat ≤ x.raa) then
      let s := (bankLatches b).foldl (fun s l => s.yieldRow l .yieldedRfm) s
      let s := s.prechargeBank b
      (s.setBank b { s.bank b with raa := x.raa - k.raadec.toNat, rfm := true }).countRfm b
    else s) s

/-- A yielded row of a latch is latched again once its bank takes an activate; else it waits for the next RFM (R106, R110). -/
def State.relatchRow (s : State) (idx : Nat) (st : RowSt) : State :=
  if s.canAct (idx / 4) then s.relatch idx st
  else
    match s.latchAt idx with
    | some l =>
      let r := s.row l.core l.slot l.k
      if r.st = st then s.setRow l.core l.slot l.k { r with st := .yieldedRfm } else s
    | none => s

/-- RFM_COMPLETE (R106, R110). -/
def execRfmComplete (s : State) : Host.Outcome State Fault Refusal :=
  event (fun s =>
    let b := s.inp.bank
    if s.memOn && (s.bank b).rfm && !(s.stack (stackOfBank b)).sref then
      ((bankLatches b).foldl (fun s l => s.relatchRow l .yieldedRfm) (s.setBank b { s.bank b with rfm := false })).retryHeld
    else s) s

/-! ## Critical temperature (R112) -/

/-- Latches of a stack that are owned. -/
def State.stackLatches (s : State) (k : Nat) : List Nat :=
  (s.hbm.latches.filter fun (e : Nat × Latch) => stackOfBank (e.1 / 4) == k).map fun e => e.1

/-- STACK_TEMP_REPORT: the input holds the temperature (R112). -/
def execStackTempReport (s : State) : Host.Outcome State Fault Refusal :=
  event (fun s =>
    let n := s.inp.stack
    let t := s.inp.v.setWidth 8
    if s.memOn && decide (n < 12) then
      let s := s.setStack n { s.stack n with temp := t }
      let k := s.stack n
      if !k.sref && k.tcrit.ule t then
        let s := (s.stackLatches n).foldl (fun s l => s.yieldRow l .yieldedTherm) s
        (s.setStack n { s.stack n with sref := true }).strandEvent 0x0C n [1, t]
      else s
    else s) s

/-- SELF_REFRESH_EXIT: after 1 ms, and a report below TEXIT; the stack takes what has waited in its order of arrival (R112). -/
def execSelfRefreshExit (s : State) : Host.Outcome State Fault Refusal :=
  event (fun s =>
    let n := s.inp.stack
    let k := s.stack n
    if s.memOn && k.sref && k.temp.ult k.texit then
      let s := (s.setStack n { k with sref := false }).strandEvent 0x0C n [0, k.temp]
      takeArrivedStack n ((s.stack n).arrived.length + 1) ((s.stackLatches n).foldl (fun s l => s.relatchRow l .yieldedTherm) s)
    else s) s

/-- A value of MEMCFG that the controller ignores (R111). -/
def memcfgBad (v : BitVec 64) : Bool :=
  let level := v.extractLsb' 24 8
  level == 0 || level.ult (v.extractLsb' 16 8) || (v.extractLsb' 32 8).ult level || (v.extractLsb' 8 8).ule (v.extractLsb' 0 8)

/-- MEMCFG as written (R111). -/
def Stack.memcfg (k : Stack) (v : BitVec 64) : Stack :=
  if memcfgBad v then k
  else
    { k with
      storm := v.extractLsb' 40 8, raamax := v.extractLsb' 32 8, raalevel := v.extractLsb' 24 8, raadec := v.extractLsb' 16 8
      tcrit := v.extractLsb' 8 8, texit := v.extractLsb' 0 8 }

/-- MEMCFG of a stack as written (R111). -/
def State.writeMemcfg (s : State) (n : Nat) (v : BitVec 64) : State :=
  if s.mgmtOn && decide (n < 12) then s.setStack n ((s.stack n).memcfg v) else s

/-- MEMCFG_WRITE (R111). -/
def execMemcfgWrite (s : State) : Host.Outcome State Fault Refusal := event (fun s => s.writeMemcfg s.inp.stack (s.inp.v.setWidth 64)) s

/-! ## Scrubbing (R115, R117) -/

/-- Sectors of a stack. -/
def stackSectors : Nat := 2 ^ 31

/-- DPA of a stack's n-th sector in ascending order (R101). -/
def scrubDpa (stack n : Nat) : Nat := (n / 32 * 12 + stack) * 1024 + n % 32 * 32

/-- A bank is under a STREAMROW reservation. -/
def State.isReserved (s : State) (bank : Nat) : Bool := s.cores.any fun e => e.2.resv.any fun r => r.1 == bank

/-- Poison found in a range that holds an image is the image's: in a live chunk, or in the rest of it (R197). -/
def Image.poisonDpa (i : Image) (dpa : Nat) : Image :=
  if dpa < i.dpa ∨ i.dpa + i.size ≤ dpa then i
  else
    let k := (liveChunks i.live).length
    let h := up64k (taskSections i.mode.size + 0x5000 * i.tasks.length + 96 * i.queue.length + 64 * k)
    let o := dpa - i.dpa
    if o < h then { i with poisoned := true }
    else
      { i with spPoison := i.spPoison.add ((0x40000 * (liveChunks i.live).getD ((o - h) / 0x40000) 0 + (o - h) % 0x40000) / 32) }

/-- The scrubber reads a sector: what the input says chance has done to it, or an error that stood there (R115, R117). -/
def State.scrubSector (s : State) (dpa : Nat) (f : SectorFound) : State :=
  match f, s.hbm.latent.find? fun e => e.1 == dpa / 32 with
  | .uncorrectable, _ | _, some (_, true) =>
    let s := (s.freshSector (.hbm dpa none)).uncorrectable dpa 8 0xFFFF
    { s with images := s.images.map fun (i : Image) => i.poisonDpa dpa }
  | .corrected, _ | _, some (_, false) => s.corrected dpa
  | .ok, none => s

/-- The sector after one that is done or put off; a pass ends when nothing of it is put off. -/
def Stack.scrubNext (k : Stack) : Stack :=
  if k.scrubPos + 1 < stackSectors then { k with scrubPos := k.scrubPos + 1 }
  else if k.scrubSkip.isEmpty then { k with scrubPos := 0 }
  else { k with scrubPos := stackSectors }

/-- The scrubber reads a sector in its row, past which `t` stands: a latched row is skipped, a bank that takes no request makes it wait
(R107, R110, R112, R117). -/
def State.scrubRow (s t : State) (dpa : Nat) : State :=
  if s.hbm.latched dpa then t
  else
    match t.useRow Config.cores dpa with
    | some t => t.scrubSector dpa t.inp.found
    | none => s

/-- SCRUB_READ: the next sector of the stack, a latched row skipped, a reserved bank put off (R117). -/
def execScrubRead (s : State) : Host.Outcome State Fault Refusal :=
  event (fun s =>
    let n := s.inp.stack
    let k := s.stack n
    if s.memOn && decide (n < 12) && k.period != 0 then
      match k.scrubSkip.find? fun p => !(s.isReserved (bankOf (scrubDpa n p))) with
      | some p =>
        let rest := k.scrubSkip.erase p
        let t := s.setStack n { k with scrubSkip := rest, scrubPos := if rest.isEmpty ∧ k.scrubPos = stackSectors then 0 else k.scrubPos }
        s.scrubRow t (scrubDpa n p)
      | none =>
        if k.scrubPos = stackSectors then s
        else
          let d := scrubDpa n k.scrubPos
          if s.isReserved (bankOf d) then s.setStack n { k with scrubSkip := k.scrubSkip ++ [k.scrubPos] }.scrubNext
          else
            s.scrubRow (s.setStack n k.scrubNext) d
    else s) s

/-! ## Reservations and burst slots (R113, R122) -/

/-- BANK_RESERVATION_WAIT_EXPIRY: the bank takes one request of another agent, then the reservation continues (R113; DESIGN CHOICE, unsafe, log 27). -/
def execBankReservationWaitExpiry (s : State) : Host.Outcome State Fault Refusal :=
  event (fun s =>
    if s.memOn then
      let b := s.inp.bank
      (if s.isReserved b then s.setBank b { s.bank b with pass := true } else s).retryHeld
    else s) s

/-- BURST_SLOT_GRANT: the slot of a stack (R122). -/
def execBurstSlotGrant (s : State) : Host.Outcome State Fault Refusal :=
  event (fun s =>
    if s.memOn && !s.faulted && !(s.stack s.inp.stack).sref then
      match grantUnit s s.inp.stack with
      | some (t, i) => s.burst t i
      | none => s
    else s) s

end Sys2Proof.Machine
end

