-- ==== Sys2Proof/Machine/SchedEvents.lean ====
section
/-! DEFINITION. The walker and the scheduler's events: eligibility, placement, resuming, clearing, and pre-emption for placement (R158 to R164, R172, R174, R388). -/

namespace Sys2Proof.Machine

/-! ## Eligible units (R160, R163) -/

/-- Cores of a unit of a mode. -/
def unitCores (u : Nat) (g : Gang) : List Nat := (List.range g.size).map fun i => u + i

/-- Every core of a unit is in a cluster in service, none of which is being retired (R33). -/
def State.unitServes (s : State) (u : Nat) (g : Gang) : Bool :=
  (unitCores u g).all fun c => !(s.cluster (c / 18)).retired && !(s.cluster (c / 18)).retiring

/-- The unit that a core stands in has a tenant, or is being cleared. -/
def State.taken (s : State) (c : Nat) : Bool :=
  let k := s.core (s.leaderOf c)
  k.tenant.isSome || k.clearing || k.freeze.isSome

/-- A sweep that stands and may be placed. -/
def Sweep.live (w : Sweep) : Bool := w.entry.isSome && w.ended.isNone && !w.held

/-- A sweep's images that no unit restores yet. -/
def State.waitingImages (s : State) (id : BitVec 32) : List Image := s.images.filter fun i => i.sweep == id && i.target.isNone

/-- The sweep has work to place (R160). -/
def State.hasWork (s : State) (w : Sweep) : Bool := w.live && (!(s.waitingImages w.id).isEmpty || decide (w.placed < w.rec'.iterations))

/-- A core is kept for another sweep: claimed by one that stands, or its unit is first for one (R162, R163). -/
def State.keptFrom (s : State) (w : Sweep) (c : Nat) : Bool :=
  (match (s.core c).claim.bind s.sweep with
   | some o => o.live && o.id != w.id
   | none => false) ||
  s.sweeps.any fun o => s.hasWork o && o.id != w.id && (match o.firstFor with | some u => (unitCores u o.rec'.gang).contains c | none => false)

/-- Every core of a unit is free for a sweep. -/
def State.freeFor (s : State) (w : Sweep) (u : Nat) (g : Gang) : Bool :=
  (unitCores u g).all fun c => !(s.taken c) && !(s.keptFrom w c)

/-- The unit's tenant is the sweep, and another task of it fits (R160). -/
def State.roomOn (s : State) (w : Sweep) (u : Nat) : Bool :=
  let k := s.core u
  k.tenant == some w.id && k.mode == w.rec'.gang && !k.clearing && k.freeze.isNone && !(s.images.any fun i => i.target == some u) &&
  decide ((s.slotsOf u w.id).length < w.rec'.tpc) && decide ((s.slotsIn u).length < 8)

/-- A unit of the sweep's mode in its core set is eligible for it: for an image only when free (R160). -/
def State.eligibleUnit (s : State) (w : Sweep) (u : Nat) : Bool :=
  s.unitServes u w.rec'.gang &&
  (s.freeFor w u w.rec'.gang || ((s.waitingImages w.id).isEmpty && s.roomOn w u))

/-- Units that a CORESIDENT sweep needs whole: one for each image, or enough for every iteration (R163). -/
def State.unitsNeeded (s : State) (w : Sweep) : Nat :=
  let n := (s.waitingImages w.id).length
  if n ≠ 0 then n else (w.rec'.iterations + w.rec'.tpc - 1) / w.rec'.tpc

/-- Units that a sweep has claimed, whose cores are in service (R33, R163). -/
def State.claimed (s : State) (w : Sweep) : List Nat :=
  w.rec'.units.filter fun u => (s.core u).claim == some w.id && s.unitServes u w.rec'.gang

/-- A pre-emption of the sweep is in progress on some unit: it resumes only whole (R163, R190). -/
def State.leaving (s : State) (id : BitVec 32) : Bool := s.cores.any fun e => e.2.tenant == some id && e.2.freeze.isSome

/-- A CORESIDENT sweep has claimed as many units as it needs (R163). -/
def State.claimedAll (s : State) (w : Sweep) : Bool := w.rec'.coresident && decide (s.unitsNeeded w ≤ (s.claimed w).length)

/-- The units on which a sweep competes: its eligible ones; a CORESIDENT sweep's unclaimed ones until it has claimed enough, and then
its claimed ones alone, where it is placed once no unit is still being pre-empted from it (R160, R163). -/
def State.contested (s : State) (w : Sweep) : List Nat :=
  if s.hasWork w then
    w.rec'.units.filter fun u => s.eligibleUnit w u &&
      (!w.rec'.coresident || (if s.claimedAll w then (s.core u).claim == some w.id && !(s.leaving w.id) else (s.core u).claim != some w.id))
  else []

/-- Sweep `a` wins against `b`: class, pre-empted tasks to resume, acceptance (R160). -/
def State.wins (s : State) (a b : Sweep) : Bool :=
  let pre := fun (w : Sweep) => !(s.waitingImages w.id).isEmpty
  if a.rec'.cls ≠ b.rec'.cls then a.rec'.cls.ult b.rec'.cls
  else if pre a ≠ pre b then pre a
  else decide (a.accepted < b.accepted)

/-- The sweep that wins a core among those that have an eligible unit on it. -/
def State.winnerAt (s : State) (c : Nat) : Option Sweep :=
  (s.sweeps.filter fun w => (s.contested w).any fun u => (unitCores u w.rec'.gang).contains c).foldl
    (fun best w => match best with | none => some w | some b => if s.wins w b then some w else some b) none

/-- The units on which a sweep wins every core. -/
def State.wonUnits (s : State) (w : Sweep) : List Nat :=
  (s.contested w).filter fun u => (unitCores u w.rec'.gang).all fun c => (s.winnerAt c).map (fun o => o.id) == some w.id

/-- Units in the order of R161: after the previous placement's, wrapping; from the first otherwise. -/
def searchFrom (prev : Option Nat) (us : List Nat) : List Nat :=
  match prev with
  | none => us
  | some p => us.filter (fun u => decide (p < u)) ++ us.filter fun u => decide (u ≤ p)

/-! ## Placing (R159 to R164) -/

/-- A unit takes a sweep as its tenant (R159, R208). -/
def State.beginTenancy (s : State) (w : Sweep) (u : Nat) : State :=
  if (s.core u).tenant = some w.id then s
  else
    let s := s.formUnit u w.rec'.gang
    let s := (unitCores u w.rec'.gang).foldl (fun s c => s.modCore c fun k => { k with claim := none }) s
    s.modCore u fun k => { k with tenant := some w.id, imem := [], dcache := [], lwDev := [] }

/-- Units of a sweep that hold no task end their tenancy once nothing is left to place (R159). -/
def State.endIdleTenancies (s : State) (id : BitVec 32) : State :=
  (s.cores.filter fun e => e.2.tenant == some id && !e.2.busy && !e.2.clearing &&
      !(s.images.any fun i => i.target == some e.1)).foldl (fun s e => s.endTenancy e.1) s

/-- A sweep that was first for a unit has it (R162). -/
def Sweep.tookUnit (w : Sweep) (u : Nat) : Sweep := if w.firstFor = some u then { w with firstFor := none } else w

/-- The walker's next iteration starts in the lowest free slot of a unit (R161, R164). -/
def State.placeNext (s : State) (w : Sweep) (u : Nat) : State :=
  let s := s.beginTenancy w u
  match (List.range 8).find? fun n => !(s.occupied u n) with
  | none => s
  | some n =>
    let s := s.setTask u n (startTask w (w.rec'.index w.placed))
    let s := s.modSweep w.id fun w => { w.tookUnit u with placed := w.placed + 1, prevUnit := some u }
    if w.placed + 1 = w.rec'.iterations then s.endIdleTenancies w.id else s

/-- Restoring an image on a free unit begins (R160, R161). -/
def State.beginRestore (s : State) (w : Sweep) (i : Image) (u : Nat) : State :=
  let s := s.beginTenancy w u
  let s := s.modImage w.id i.key fun i => { i with target := some u }
  s.modSweep w.id fun w => { w.tookUnit u with prevUnit := none }

/-- All iterations of a CORESIDENT sweep on its claimed units (R163). -/
def placeAll (us : List Nat) (id : BitVec 32) : Nat → State → State
  | 0, s => s
  | fuel + 1, s =>
    match s.sweep id with
    | none => s
    | some w =>
      let fits := us.filter fun u => (s.core u).claim == some id || s.roomOn w u
      match (searchFrom w.prevUnit fits).head? with
      | some u => if w.placed < w.rec'.iterations then placeAll us id fuel (s.placeNext w u) else s
      | none => s

/-- A CORESIDENT sweep claims a unit, and is placed or resumed whole when it has enough (R163). -/
def State.claimUnit (s : State) (w : Sweep) (u : Nat) : State :=
  let s := (unitCores u w.rec'.gang).foldl (fun s c => s.modCore c fun k => { k with claim := some w.id }) s
  let s := s.modSweep w.id fun w => w.tookUnit u
  let us := s.claimed w
  if us.length < s.unitsNeeded w || s.leaving w.id then s
  else
    match s.waitingImages w.id with
    | [] => placeAll us w.id w.rec'.iterations s
    | is => (is.zip us).foldl (fun s x => s.beginRestore w x.1 x.2) s

/-- One placement of a sweep on a unit: an image first (R160). -/
def State.place (s : State) (w : Sweep) (u : Nat) : State :=
  if w.rec'.coresident then s.claimUnit w u
  else
    match s.waitingImages w.id with
    | i :: _ => s.beginRestore w i u
    | [] => s.placeNext w u

/-- Placement for the unit at a core: its winning sweep, on the unit that R161 chooses among those it wins (DEDUCED, unsafe, log 31). -/
def State.placement (s : State) (c : Nat) : State :=
  match s.winnerAt c with
  | none => s
  | some w =>
    match (searchFrom w.prevUnit (s.wonUnits w)).head? with
    | some u => s.place w u
    | none => s

/-- UNIT_PLACEMENT: the input names a core of the unit (R160, R161). -/
def execUnitPlacement (s : State) : Host.Outcome State Fault Refusal :=
  event (fun s => if s.powered && !s.stopped && !s.faulted then s.placement s.inp.core else s) s

/-! ## Clearing (R159, R388) -/

/-- A core cleared: what belongs to the tenancy is at its initial value. -/
def Core.cleared (k : Core) : Core :=
  { k with
    slots := [], mode := .single, leader := none, tenant := none, sems := [], bars := [], queue := [], spm := [], tags := []
    spPoison := [], latch := [], latchFmt := 0xFF, latchFill := 0, acc := [], ags := [], mxmode := 0, isat := false, resv := []
    imem := [], dcache := [], lwDev := [], clearing := false, freeze := none, imgAt := none }

/-- UNIT_CLEAR_COMPLETE: once no entry of the tenancy is in flight, the unit is free (R159, R170). -/
def execUnitClearComplete (s : State) : Host.Outcome State Fault Refusal :=
  event (fun s =>
    let u := s.inp.core
    let k := s.core u
    if k.clearing && k.queue.isEmpty && !k.busy then (unitCores u k.mode).foldl (fun s c => s.modCore c Core.cleared) s else s) s

/-! ## Pre-emption for placement (R162) -/

/-- The sweeps, with their units, that hold any core of a unit; a unit that is being cleared has no tenant any more (R159). -/
def State.victims (s : State) (u : Nat) (g : Gang) : List (Nat × Sweep) :=
  (((unitCores u g).map s.leaderOf).eraseDups.filter fun v => !(s.core v).clearing).filterMap fun v =>
    ((s.core v).tenant.bind s.sweep).map fun w => (v, w)

/-- Every sweep on a unit may be pre-empted for another one, and there is one. -/
def State.canFree (s : State) (w : Sweep) (u : Nat) : Bool :=
  s.unitServes u w.rec'.gang && !(s.victims u w.rec'.gang).isEmpty &&
  (s.victims u w.rec'.gang).all fun v => w.rec'.cls.ult v.2.rec'.cls

/-- The lowest class and the earliest acceptance among a unit's victims. -/
def State.victimRank (s : State) (u : Nat) (g : Gang) : Nat × Nat :=
  let vs := s.victims u g
  ((vs.map fun v => v.2.rec'.cls.toNat).min?.getD 0, (vs.map fun v => v.2.accepted).min?.getD 0)

/-- The unit that a sweep frees (R162). -/
def State.unitToFree (s : State) (w : Sweep) : Option Nat :=
  (w.rec'.units.filter fun u => s.canFree w u).foldl (fun best u =>
    match best with
    | none => some u
    | some b =>
      let x := s.victimRank u w.rec'.gang
      let y := s.victimRank b w.rec'.gang
      if y.1 < x.1 ∨ (x.1 = y.1 ∧ y.2 < x.2) then some u else some b) none

/-- PREWAIT_EXPIRY: the input names the sweep (R162). -/
def execPrewaitExpiry (s : State) : Host.Outcome State Fault Refusal :=
  event (fun s =>
    match s.sweep s.inp.sweep with
    | none => s
    | some w =>
      if s.powered && !s.stopped && !s.faulted && s.prewait != 0 && s.hasWork w && !(s.claimedAll w) && (s.contested w).isEmpty then
        match s.unitToFree w with
        | none => s
        | some u =>
          let vs := ((s.victims u w.rec'.gang).flatMap fun v => s.wholeSweep v.1).eraseDups
          match preemptUnits 0 none vs s with
          | none => s
          | some s => s.modSweep w.id fun w => { w with firstFor := some u }
      else s) s

/-- SCHEDCTL as written (R174). -/
def State.writeSchedctl (s : State) (v : BitVec 64) : State := if s.mgmtOn then { s with prewait := v.extractLsb' 16 16 } else s

/-- SCHEDCTL_WRITE (R174). -/
def execSchedctlWrite (s : State) : Host.Outcome State Fault Refusal := event (fun s => s.writeSchedctl (s.inp.v.setWidth 64)) s

/-- SWEEP_COMPLETE: the input names the sweep; a completion that was due and waited is written (R88, R157, R172). -/
def execSweepComplete (s : State) : Host.Outcome State Fault Refusal := event (fun s => s.tryComplete s.inp.sweep) s

end Sys2Proof.Machine
end

