-- ==== Sys2Proof/Machine/SweepCmds.lean ====
section
/-! DEFINITION. The events of pre-emption, of the sweep command block and of debug halts (R123, R190, R197 to R199, R206). -/

namespace Sys2Proof.Machine

/-! ## Images (R190, R197) -/

/-- Commands of other units whose accesses a pre-emption of a unit held go on (R191). -/
def State.wakeRedirs (s : State) (u : Nat) : State :=
  s.cores.foldl (fun s e => e.2.queue.foldl (fun s q =>
    if q.redir.any fun r => r.restored.getD r.unit == u then
      match (s.core e.1).queue.find? q.same with
      | some q => s.turnEntry e.1 q
      | none => s
    else s) s) s

/-- The rows that the image of a unit takes (R107, R190, R193). -/
def State.imageRows (s : State) (c : Nat) : List Nat :=
  match (s.core c).imgAt, (s.core c).tenant.bind s.sweep with
  | some (dpa, _), some w => rowsOf dpa (imageSize (s.core c).mode.size (s.slotsIn c).length (s.core c).queue.length w.rec'.live)
  | _, _ => []

/-- Step 4 of a pre-emption once step 2 is over: the commands in flight are finished, or at the end of their chunk, and the banks take the
image (R107, R112, R113, R190). -/
def State.finishPreempt (s : State) (c : Nat) : State :=
  if (s.core c).freeze.isSome then
    let s := s.advance c
    if (s.core c).queue.any fun q => s.unfinished c q then s
    else
      match useRows Config.cores (s.imageRows c) s with
      | .ok s => (s.writeImage c).wakeRedirs c
      | .error _ => s
  else s

/-- PREEMPTION_IMAGE_WRITE: the input names the unit (R190). -/
def execPreemptionImageWrite (s : State) : Host.Outcome State Fault Refusal :=
  event (fun s => if s.powered && !s.stopped then s.finishPreempt s.inp.core else s) s

/-- The copies of an image lock their ranges on the unit (R226). -/
def Image.relock (i : Image) (u : Nat) : Image :=
  { i with queue := i.queue.map fun q => { q with lock := match q.lock with | some l => some l | none => q.ownRange u } }

/-- IMAGE_RESTORE_COMPLETE: the input names the unit; the image's banks take its reads (R107, R112, R113, R190, R197). -/
def execImageRestoreComplete (s : State) : Host.Outcome State Fault Refusal :=
  event (fun s =>
    match s.images.find? fun i => i.target == some s.inp.core with
    | some i =>
      if s.powered && !s.stopped then
        match useRows Config.cores (rowsOf i.dpa i.size) s with
        | .ok s => s.restoreImage (i.relock s.inp.core) s.inp.core
        | .error _ => s
      else s
    | none => s) s

/-! ## The sweep command block (R198) -/

def wBADOP : BitVec 8 := 1
def wNOSWEEP : BitVec 8 := 2
def wBUSY : BitVec 8 := 3
def wNOSPACE : BitVec 8 := 4
def wXLATE : BitVec 8 := 5
def wREFUSED : BitVec 8 := 6
def wALIGN : BitVec 8 := 7

/-- OP, undefined or under a nonzero reserved field read as 0 (R198). -/
def SweepCmd.op (m : SweepCmd) : Nat :=
  if m.scmd.extractLsb' 32 18 ≠ 0 ∨ m.saddrhi.extractLsb' 16 48 ≠ 0 ∨ m.scores.extractLsb' 32 32 ≠ 0 then 0
  else if 4 < (m.scmd.extractLsb' 60 4).toNat then 0
  else (m.scmd.extractLsb' 60 4).toNat

/-- The sweep a command names. -/
def SweepCmd.id (m : SweepCmd) : BitVec 32 := m.scmd.extractLsb' 0 32

/-- The bundle address. -/
def SweepCmd.addr (m : SweepCmd) : Addr := m.saddrhi.extractLsb' 0 16 ++ m.saddrlo

/-- A command has ended with a status. -/
def State.cmdStatus (s : State) (st : BitVec 8) : State := { s with scmd := { s.scmd with status := st, busy := false } }

/-- A command is in progress, and will report a status. -/
def State.cmdBusy (s : State) (next : BitVec 8) (id : BitVec 32) : State :=
  { s with scmd := { s.scmd with busy := true, next := next, sweep := id } }

/-- The mark of a command whose bundle address waits for the host's translation or for a bank. -/
def wWAIT : BitVec 8 := 0xFF

/-- A write of SGO, under which a command runs; ignored while a command is in progress (R198). -/
def startCmd (f : State → State) (s : State) (v : BitVec 64) : State :=
  if s.mgmtOn && !s.scmd.busy then f { s with scmd := { s.scmd with sgo := v } } else s

/-- A write of SGO under an OP (R198). -/
def cmdEvent (op : Nat) (f : State → State) (s : State) : State :=
  if s.scmd.op == op then startCmd f s (s.inp.v.setWidth 64) else s

/-- A sweep that stands. -/
def State.standing (s : State) (id : BitVec 32) : Option Sweep := (s.sweep id).filter fun w => w.ended.isNone

/-- Restoring the images of a sweep is broken off: their units clear again. (DEDUCED, unsafe, log 44) -/
def State.stopRestores (s : State) (id : BitVec 32) : State := (s.restoring id).foldl (fun s u => s.vacate u) s

/-- PREEMPT's effect (R198). -/
def State.runPreempt (s : State) : State :=
  let id := s.scmd.id
  match s.standing id with
  | none => s.cmdStatus wNOSWEEP
  | some w =>
    if w.held then s.cmdStatus wBUSY
    else
      match preemptUnits 2 (some 200) (s.unitsHolding id) s with
      | none => s.cmdStatus wNOSPACE
      | some s => ((s.stopRestores id).modSweep id fun w => { w with held := true }).cmdBusy 0 id

/-- PREEMPT (R198). -/
def execPreempt (s : State) : Host.Outcome State Fault Refusal := event (cmdEvent 1 State.runPreempt) s

/-! ### EXPORT (R198, R199) -/

/-- Something of a held sweep keeps it here: a thread, a parked task with a request outstanding, a system call. -/
def State.exportBusy (s : State) (w : Sweep) : Bool :=
  !w.held || (s.flood.threads.any fun e => e.2.st != .idle && e.2.sweep == w.id) ||
  s.images.any fun i => i.sweep == w.id && i.tasks.any fun t =>
    (t.2.st == .parked && s.outst.any fun o => o.by i.key t.1 w.id) ||
    (match t.2.wait with | .ecall .. => true | _ => false)

/-- Writing the parts of a bundle over the pieces of its range. -/
def State.writeParts (s : State) (l : Pieces) (ps : List (Nat × List Byte × (Nat → Bool))) : State :=
  ps.foldl (fun s p => s.writeAllTag p.2.1 p.2.2 0 (slicePieces l p.1 p.2.1.length)) s

/-- The bundle address lies in the device half or the host half, in no scratchpad window (R198). -/
def bundleRegion (a : Addr) (n : Nat) : Bool :=
  vaRegion a != .scratch && vaRegion (a + BitVec.ofNat 80 (n - 1)) != .scratch

/-- An EXPORT past its first checks: its bundle, then the sweep's end here. -/
def State.exportTo (s : State) (w : Sweep) (a : Addr) : State :=
  let n := bundleSize s w
  if !(bundleRegion a n) then s.cmdStatus wXLATE
  else match resolve s (mgmtAcc w.asid true) a n with
  | (s, .error (.xlt _ _, _)) | (s, .error (.bank _, _)) => s.cmdBusy wWAIT w.id
  | (s, .error _) => s.cmdStatus wXLATE
  | (s, .ok l) =>
    match useRows Config.cores ((s.images.filter fun i => i.sweep == w.id).flatMap fun i => rowsOf i.dpa i.size) s with
    | .error _ => s.cmdBusy wWAIT w.id
    | .ok s =>
    let s := s.writeParts l (bundleParts s w)
    let s := s.endSweep w.id 7 0
    { s with scmd := { s.scmd with size := BitVec.ofNat 32 n } }.cmdBusy 0 w.id

/-- EXPORT's checks in their order (DESIGN CHOICE, unsafe, log 32). -/
def State.runExport (s : State) : State :=
  match s.standing s.scmd.id with
  | none => s.cmdStatus wNOSWEEP
  | some w =>
    if s.exportBusy w then s.cmdStatus wBUSY
    else if s.scmd.addr.toNat % 65536 ≠ 0 then s.cmdStatus wALIGN
    else s.exportTo w s.scmd.addr

/-- EXPORT (R198). -/
def execExportSweep (s : State) : Host.Outcome State Fault Refusal := event (cmdEvent 2 State.runExport) s

/-! ### IMPORT (R198, R199) -/

/-- The bundled record with SCORES applied. -/
def importRec (scores : BitVec 64) (bs : List Byte) : SweepRec :=
  let r := (bs.drop 0x80).take 128
  SweepRec.parse (if scores.extractLsb' 0 32 = 0 then r else
    splice r 64 (toBytes (scores.extractLsb' 16 16).toNat 2 ++ toBytes (scores.extractLsb' 0 16).toNat 2))

/-- How an IMPORT's images come out. -/
inductive ImgRes
  | ok (is : List Image)
  | malformed
  | noSpace

/-- The images of a bundle, each in a range of the area; tasks are numbered from `nth`. -/
def readImages (w : Sweep) (bs : List Byte) (bad : Nat → Bool) (used : List (Nat × Nat)) (keys : List Nat) :
    Nat → List Nat → ImgRes
  | _, [] => .ok []
  | nth, o :: os =>
    let n := imageSizeOf (bs.drop o)
    match allocRange used areaReserve n with
    | none => .noSpace
    | some d =>
      let key := firstFree keys keys.length 288
      match imageOf w key d nth ((bs.drop o).take n) (fun i => bad (o + i)) with
      | none => .malformed
      | some i =>
        match readImages w bs bad ((d, n) :: used) (key :: keys) (nth + i.tasks.length) os with
        | .ok is => .ok (i :: is)
        | r => r

/-- A refused import: its completion stands in the page's ring, after its word, as for a launch (R157, R198). -/
def State.refuseImport (s : State) (k : Nat) (notify : Addr) (status reason : BitVec 8) : State :=
  ((s.takeSeq k).refuseLaunch k (s.lpage k).seq (s.lpage k).asid notify status reason).cmdBusy wREFUSED 0xFFFFFFFF

/-- The imported sweep stands at its place of the walk, with its images (R199). -/
def State.admitImport (s : State) (id : BitVec 32) (bs : List Byte) (is : List Image) : State :=
  let s := s.modSweep id fun w => { w with placed := field bs 0x18 8, doneBefore := field bs 0x10 8 }
  let s := { s with images := s.images ++ is, freeCtr := s.freeCtr + (is.map fun (i : Image) => i.tasks.length).sum }
  match s.sweep id with
  | some w => if w.ended.isNone ∧ w.completed = w.rec'.iterations then s.endSweep id 0 0 else s
  | none => s

/-- An IMPORT whose bundle has been read; a faulted device accepts no work (R93). (DEDUCED, unsafe, log 32) -/
def State.importBundle (s : State) (k : Nat) (bs : List Byte) (bad : Nat → Bool) : State :=
  let p := s.lpage k
  let r := importRec s.scmd.scores bs
  let offs := (List.range (field bs 2 2)).map fun i => field bs (0x100 + 8 * i) 8
  if s.faulted then s.refuseImport k r.notify 1 fDEVFAULT
  else if bundleBad bs r || ((List.range (0x100 + 8 * field bs 2 2)).any bad) then s.refuseImport k r.notify 3 0
  else
    match checkRec s r false p.clfloor p.priv with
    | some st => s.refuseImport k r.notify st 0
    | none =>
      if s.poolFull false then s.refuseImport k r.notify 5 0
      else
        let id := s.nextSweep
        let w : Sweep :=
          { id := id, rec' := r, asid := p.asid, src := .launch k p.seq, entry := none, accepted := 0, placed := 0, done := 0
            doneBefore := 0, prevUnit := none, held := false, ended := none, firstFor := none, reported := false, renames := [] }
        match readImages w bs bad s.areaUsed (s.images.map fun i => i.key) s.freeCtr offs with
        | .malformed => s.refuseImport k r.notify 3 0
        | .noSpace => s.cmdStatus wNOSPACE
        | .ok is =>
          match useRows Config.cores (is.flatMap fun i => rowsOf i.dpa i.size) s with
          | .error _ => s.cmdBusy wWAIT 0xFFFFFFFF
          | .ok s => ((((s.takeSeq k).accept r p.asid (.launch k p.seq)).1).admitImport id bs is).cmdBusy 0 id

/-- IMPORT's checks in their order (DESIGN CHOICE, unsafe, log 32). -/
def State.runImport (s : State) : State :=
  let k := (s.scmd.scmd.extractLsb' 50 10).toNat
  let p := s.lpage k
  let a := s.scmd.addr
  if !p.en then s.cmdStatus wNOSWEEP
  else if a.toNat % 65536 ≠ 0 then s.cmdStatus wALIGN
  else if !(bundleRegion a 0x100) then s.cmdStatus wXLATE
  else
    match resolve s (mgmtAcc p.asid false) a 0x100 with
    | (s, .error (.xlt _ _, _)) | (s, .error (.bank _, _)) => s.cmdBusy wWAIT 0xFFFFFFFF
    | (s, .error _) => s.cmdStatus wXLATE
    | (s, .ok l) =>
      match resolve s (mgmtAcc p.asid false) a (Nat.max 0x100 (field (s.readAll l) 8 8)) with
      | (s, .error (.xlt _ _, _)) | (s, .error (.bank _, _)) => s.cmdBusy wWAIT 0xFFFFFFFF
      | (s, .error _) => s.cmdStatus wXLATE
      | (s, .ok l) => s.importBundle k (s.readAll l) (s.poisonAt l)

/-- IMPORT (R198). -/
def execImportSweep (s : State) : Host.Outcome State Fault Refusal := event (cmdEvent 3 State.runImport) s

/-- RELEASE's effect (R198). -/
def State.runRelease (s : State) : State :=
  let id := s.scmd.id
  match s.standing id with
  | none => s.cmdStatus wNOSWEEP
  | some _ => ((s.modSweep id fun w => { w with held := false }).resumeSweepThreads id).cmdStatus 0

/-- RELEASE (R198). -/
def execReleaseSweep (s : State) : Host.Outcome State Fault Refusal := event (cmdEvent 4 State.runRelease) s

/-- SWEEP_CMD_BADOP (R198). -/
def execSweepCmdBadop (s : State) : Host.Outcome State Fault Refusal := event (cmdEvent 0 fun s => s.cmdStatus wBADOP) s

/-- SGO as written: the command of OP runs (R198). -/
def State.writeSgo (s : State) (v : BitVec 64) : State :=
  startCmd (match s.scmd.op with
    | 1 => State.runPreempt
    | 2 => State.runExport
    | 3 => State.runImport
    | 4 => State.runRelease
    | _ => fun s => s.cmdStatus wBADOP) s v

/-- SWEEP_COMMAND_COMPLETE: every image is written; a command that waited for the host goes on (R198). -/
def execSweepCommandComplete (s : State) : Host.Outcome State Fault Refusal :=
  event (fun s =>
    let m := s.scmd
    if !m.busy then s
    else if m.next = wWAIT then
      let s := { s with scmd := { m with busy := false } }
      if m.op = 2 then s.runExport else if m.op = 3 then s.runImport else s
    else if s.cores.any fun e => e.2.freeze.isSome && e.2.tenant == some m.sweep then s
    else s.cmdStatus m.next) s

/-! ## Debug halts (R206) -/

/-- A thread's sweep is pre-empted, in part or whole (R123). -/
def State.sweepAway (s : State) (id : BitVec 32) : Bool :=
  s.images.any (fun i => i.sweep == id) || s.cores.any fun e => e.2.tenant == some id && e.2.freeze.isSome

/-- DBGCTL as written: HALT is set, cleared, or stays as it is (R206). -/
def State.writeDbgctl (s : State) (v : BitVec 64) : State :=
  if !s.mgmtOn then s
  else
    match v.getLsbD 0, s.dbg.halt with
    | true, false => { s with dbg := { s.dbg with haltonbrk := v.getLsbD 1 } }.haltContext (v.extractLsb' 48 16)
    | false, true =>
      let a := s.dbg.asid
      let s := { s with dbg := { s.dbg with haltonbrk := v.getLsbD 1, halt := false, done := false } }
      (s.resumeThreads fun t => t.asid == a && !(s.sweepAway t.sweep)).retryIngress
    | true, true => { s with dbg := { s.dbg with haltonbrk := v.getLsbD 1 } }
    | false, false => { s with dbg := { s.dbg with haltonbrk := v.getLsbD 1, asid := v.extractLsb' 48 16 } }

/-- DBGCTL_HALT: a write that sets HALT (R206). -/
def execDbgctlHalt (s : State) : Host.Outcome State Fault Refusal :=
  event (fun s => if s.inp.v.getLsbD 0 && !s.dbg.halt then s.writeDbgctl (s.inp.v.setWidth 64) else s) s

/-- DBGCTL_RELEASE: a write that clears HALT (R206). -/
def execDbgctlRelease (s : State) : Host.Outcome State Fault Refusal :=
  event (fun s => if !s.inp.v.getLsbD 0 && s.dbg.halt then s.writeDbgctl (s.inp.v.setWidth 64) else s) s

/-- DBGCTL_HALTONBRK: a write that leaves HALT as it is (R206). -/
def execDbgctlHaltonbrk (s : State) : Host.Outcome State Fault Refusal :=
  event (fun s => if s.inp.v.getLsbD 0 == s.dbg.halt then s.writeDbgctl (s.inp.v.setWidth 64) else s) s

end Sys2Proof.Machine
end

