-- ==== Sys2Proof/Machine/HostWrite.lean ====
section
/-! DEFINITION. A host write anywhere in its three windows: each register of the management window with the effect that its own rule gives (R11, R34, R57, R74, R81, R86, R91, R92, R94, R97, R111, R134, R142, R174, R198, R206). -/

namespace Sys2Proof.Machine

/-- Eight bytes written at an offset of the management window: the register there takes them as its own rule says (R81). The two mailboxes of
eight bytes, and a grant window's other half, keep what the write does not cover (R74, R91). -/
def State.writeReg (s : State) (off : Nat) (v : BitVec 64) : State :=
  let i := fun (base size : Nat) => (off - base) / size
  let o := fun (base size : Nat) => (off - base) % size
  let within := fun (base size : Nat) => decide (base ≤ off) && decide (off < base + size)
  if off = 0xC0008 then s.writeDevctl v
  else if !s.mgmtOn then s
  else if within 0x41000 0x80 then s.writeClk (i 0x41000 8) v
  else if within 0x50000 0xC00 then
    match o 0x50000 0x40 with
    | 0x08 => s.writeLthr (i 0x50000 0x40) v
    | 0x10 => s.writeLctl (i 0x50000 0x40) v
    | _ => s
  else if within 0x70000 0x10000 then
    let w := i 0x70000 16
    let x := (s.window w).word
    s.writeWint w (if o 0x70000 16 = 0 then slice64 x 8 ++ v else v ++ slice64 x 0)
  else if within 0x90000 0x300 ∧ o 0x90000 0x40 = 0 then s.writeMemcfg (i 0x90000 0x40) v
  else if within 0xA0000 (288 * 0x40) then
    let k := o 0xA0000 0x40 / 4
    (s.writeMbox (i 0xA0000 0x40) k (v.extractLsb' 0 32)).writeMbox (i 0xA0000 0x40) (k + 1) (v.extractLsb' 32 32)
  else if within 0xB0000 0x8000 then
    match o 0xB0000 0x20 with
    | 0x00 => s.writeLpage (i 0xB0000 0x20) v LPage.cfg
    | 0x08 => s.writeLpage (i 0xB0000 0x20) v LPage.ring
    | 0x10 => s.writeLpptr (i 0xB0000 0x20) v
    | _ => s
  else if off = 0xD0138 then s.writeCmd7 v
  else if off = 0xD0180 then s.writePfhead v
  else if off = 0xE0000 then s.writeSchedctl v
  else if off = 0xE0100 then s.writeDbgctl v
  else if off = 0xE0220 then s.writeSgo v
  else s.storeReg off v

/-- What a write of bytes brings to the k-th aligned eight bytes that it meets. -/
def chunkOf (off : Nat) (bs : List Byte) (k : Nat) : List Byte :=
  if k = 0 then bs.take (8 - off % 8) else (bs.drop (8 * k - off % 8)).take 8

/-- A write of some bytes of the management window: each eight aligned bytes in ascending order, in which the bytes not written stand as
they read. In the ebb table each byte is an entry, the 128 bytes at TMCMD are one command, and in recovery the staging buffer takes bytes
(R11, R69, R81, R92, R97). (DEDUCED, unsafe, log 74) -/
def State.writeBytes (s : State) (off : Nat) (bs : List Byte) : State :=
  if !s.powered then s
  else if s.stages off then
    bs.zipIdx.foldl (fun s b =>
      if s.stages (off + b.2) then { s with staging := Sparse.set s.staging (off + b.2 - Config.stagingBase) b.1 } else s) s
  else if s.mgmtOn ∧ 0x80000 ≤ off ∧ off < 0x90000 then
    bs.zipIdx.foldl (fun s b => s.storeReg (off + b.2) (b.1.setWidth 64)) s
  else if off = 0xC0200 ∧ bs.length = 128 then s.writeTmcmd bs
  else
    (List.range (bs.length / 8 + 2)).foldl (fun s k =>
      let c := chunkOf off bs k
      let a := off / 8 * 8 + 8 * k
      if c = [] then s
      else s.writeReg a (leBits 64 (splice (toBytes (s.mgmtRead a).toNat 8) (if k = 0 then off % 8 else 0) c))) s

/-- A host write at a host physical address: a register, a launch, or nothing in the log window (R81). -/
def State.hostWrite (s : State) (pa : Nat) (bs : List Byte) : State :=
  match s.hostTarget pa with
  | .mgmt off => s.writeBytes off bs
  | .launch k off => if s.mgmtOn then s.launch k off bs else s
  | .log _ | .none => s

/-- REGISTER_WRITE: a write of 8 bytes at an offset of the management window, or of the input's bytes at a host physical address (R11, R81). -/
def execRegisterWrite (s : State) : Host.Outcome State Fault Refusal :=
  event (fun s =>
    if s.inp.flag then s.hostWrite s.inp.va.toNat s.inp.bytes
    else if s.mgmtOn then s.storeReg s.inp.off (s.inp.v.setWidth 64) else s) s

end Sys2Proof.Machine
end

