-- ==== Sys2Proof/Machine/ScAddr.lean ====
section
/-! DEFINITION. Class SC, address registers and the access probe (R315, R316). -/

namespace Sys2Proof.Machine

/-- AADD (R315). -/
def execAadd (y : Sync) (d a : AReg) (b : SReg) (s : State) : Host.Outcome State Fault Refusal :=
  regOp y (fun t => t.setA d (t.areg a + (t.sreg b).signExtend 80)) s

/-- AADDI (R315). -/
def execAaddi (y : Sync) (d a : AReg) (x : BitVec 32) (s : State) : Host.Outcome State Fault Refusal :=
  regOp y (fun t => t.setA d (t.areg a + x.signExtend 80)) s

/-- ALEA: the effective address, without an access (R315). -/
def execAlea (y : Sync) (d : AReg) (m : MemOp) (s : State) : Host.Outcome State Fault Refusal :=
  regOp y (fun t => t.setA d (t.ea m)) s

/-- AMOV (R315). -/
def execAmov (y : Sync) (d a : AReg) (s : State) : Host.Outcome State Fault Refusal :=
  regOp y (fun t => t.setA d (t.areg a)) s

/-- ASET: s[B][15:0] : s[A] (R315). -/
def execAset (y : Sync) (d : AReg) (a b : SReg) (s : State) : Host.Outcome State Fault Refusal :=
  regOp y (fun t => t.setA d ((t.sreg b).extractLsb' 0 16 ++ t.sreg a)) s

/-- AGET: the low 64 bits, or bits [79:64] (R315). -/
def execAget (y : Sync) (hi : Bool) (d : SReg) (a : AReg) (s : State) : Host.Outcome State Fault Refusal :=
  regOp y (fun t => t.setS d (if hi then ((t.areg a).extractLsb' 64 16).setWidth 64 else (t.areg a).extractLsb' 0 64)) s

/-- ASUB: the low 64 bits of the difference (R315). -/
def execAsub (y : Sync) (d : SReg) (a b : AReg) (s : State) : Host.Outcome State Fault Refusal :=
  regOp y (fun t => t.setS d ((t.areg a - t.areg b).extractLsb' 0 64)) s

/-- ACMP: the condition on 80-bit unsigned values (R315). -/
def execAcmp (y : Sync) (c : Cond) (d : PReg) (a b : AReg) (s : State) : Host.Outcome State Fault Refusal :=
  regOp y (fun t => t.setP d (c.eval (t.areg a) (t.areg b))) s

/-- What a probe finds of a range (R316). -/
inductive Probe
  | pass
  | fail
  | wait (passed : Nat) (hold : Nat ⊕ Nat × Nat)

/-- Probing `n` bytes page by page after those that have passed: the checks of R140 and R125 for each (R316). -/
def probe (x : Acc) : Nat → State → Addr → Nat → Nat → State × Probe
  | 0, s, _, _, _ => (s, .pass)
  | fuel + 1, s, va, n, passed =>
    if n = 0 then (s, .pass)
    else
      let k := Nat.min n (4096 - va.toNat % 4096)
      if vaRegion va = .scratch && x.x then (s, .fail)
      else
        match xlate s x va k false with
        | (s, .ok _) => probe x fuel s (va + BitVec.ofNat 80 k) (n - k) (passed + k)
        | (s, .error (.xlt p v)) => (s, .wait passed (.inr (p, v)))
        | (s, .error (.bank b)) => (s, .wait passed (.inl b))
        | (s, .error _) => (s, .fail)

/-- Bytes of ACHK's range that have passed before it waited (R316). -/
def Task.probed (t : Task) : Nat :=
  match t.wait with
  | .probe k _ => k
  | _ => 0

/-- ACHK: probes access without making one; a reply of the host IOMMU or a bank is waited for, and the probe then goes on behind the pages
that have passed (R316). -/
def execAchk (y : Sync) (k : AccKind) (d : PReg) (a : AReg) (b : SReg) (s : State) : Host.Outcome State Fault Refusal :=
  scalar legal y (fun c n s =>
    let t := s.task c n
    let len := (t.sreg b).toNat
    let put := fun (s : State) (v : Bool) => Act.done (s.modTask c n fun t => { t.setP d v with wait := .none })
    if len = 0 then put s true
    else if 2 ^ 32 < len then put s false
    else
      let x := scalarAcc c t.asid (k == .read) (k == .write) (k == .exec)
      match probe x (len / 4096 + 2) s (t.areg a + BitVec.ofNat 80 t.probed) (len - t.probed) t.probed with
      | (s, .pass) => put s true
      | (s, .fail) => put s false
      | (s, .wait k h) => .hold s .ready (.probe k h)) s

end Sys2Proof.Machine
end

