-- ==== Sys2Proof/Machine/ScControl.lean ====
section
/-! DEFINITION. Class SC, control transfer, hardware loops, special registers and mailboxes (R322 to R331). -/

namespace Sys2Proof.Machine

/-! ## Control transfer (R322, R323, R326) -/

/-- The innermost level's body holds an address. -/
def Task.inBody (t : Task) (pc : Addr) : Bool :=
  if t.inh || t.depth == 0 then true
  else
    let l := t.loops.toArray.getD (t.depth - 1) {}
    decide ((pc - l.start).toNat < l.len.toNat * 12)

/-- A control transfer to a target: LOOPNEST outside the innermost body, then ALIGN (R176, R323, R326). -/
def transfer (s : State) (c n : Nat) (target : Addr) (f : Task → Task) : Act :=
  let t := s.task c n
  if !t.inBody target then .trap s cLOOPNEST 0 0
  else if target.toNat % 4 ≠ 0 then .trap s cALIGN 0 target
  else .goto (s.modTask c n f) target

/-- A + 12 × SignExtend(DISP, 32) (R291). -/
def branchTarget (pc : Addr) (disp : BitVec 32) : Addr := pc + disp.signExtend 80 * 12

/-- BR (R322). -/
def execBr (y : Sync) (disp : BitVec 32) (s : State) : Host.Outcome State Fault Refusal :=
  scalar legal y (fun c n s => transfer s c n (branchTarget (s.task c n).pc disp) id) s

/-- BRP: falls through when its predicate does not hold (R322). -/
def execBrp (y : Sync) (p : Pred) (disp : BitVec 32) (s : State) : Host.Outcome State Fault Refusal :=
  scalar legal y (fun c n s =>
    if (s.task c n).pred p then transfer s c n (branchTarget (s.task c n).pc disp) id else .done s) s

/-- CALL: a31 takes the return address (R322). -/
def execCall (y : Sync) (disp : BitVec 32) (s : State) : Host.Outcome State Fault Refusal :=
  scalar legal y (fun c n s =>
    transfer s c n (branchTarget (s.task c n).pc disp) fun t => t.setA 31 (t.pc + 12)) s

/-- JMP (R323). -/
def execJmp (y : Sync) (a : AReg) (s : State) : Host.Outcome State Fault Refusal :=
  scalar legal y (fun c n s => transfer s c n ((s.task c n).areg a) id) s

/-- CALLA reads a[A] before it writes a[D] (R323). -/
def execCalla (y : Sync) (d a : AReg) (s : State) : Host.Outcome State Fault Refusal :=
  scalar legal y (fun c n s => transfer s c n ((s.task c n).areg a) fun t => t.setA d (t.pc + 12)) s

/-- RET has the effect of JMP (R323). -/
def execRet (y : Sync) (a : AReg) (s : State) : Host.Outcome State Fault Refusal :=
  scalar legal y (fun c n s => transfer s c n ((s.task c n).areg a) id) s

/-! ## Hardware loops (R324 to R327) -/

/-- In a handler the loop instructions are ILLEGAL (R180, R324). -/
def inHandler (t : Task) : Bool := t.inh

/-- LoopEntry(t, count, n) of R325. -/
def loopEntry (s : State) (c n : Nat) (count : BitVec 32) (len : BitVec 12) : Act :=
  let t := s.task c n
  let outer := t.loops.toArray.getD (t.depth - 1) {}
  if t.depth = 4 then .trap s cLOOPNEST 0 0
  else if t.depth > 0 ∧ outer.start.toNat + outer.len.toNat * 12 < t.pc.toNat + 12 * (len.toNat + 1) then .trap s cLOOPNEST 0 0
  else if count = 0 then
    .cont (s.modTask c n fun t => { t with loops := t.loops.setIfInBounds t.depth { t.loops.toArray.getD t.depth {} with cnt := 0 } })
      (t.pc + 12 * (len.setWidth 80 + 1))
  else
    .goto (s.modTask c n fun t =>
      { t with loops := t.loops.setIfInBounds t.depth { cnt := count, start := t.pc + 12, len := len }, depth := t.depth + 1 })
      (t.pc + 12)

/-- LOOP: Min(s[A], 2^32 − 1) trips (R324). -/
def execLoop (y : Sync) (a : SReg) (len : BitVec 12) (s : State) : Host.Outcome State Fault Refusal :=
  scalar inHandler y (fun c n s =>
    loopEntry s c n (BitVec.ofNat 32 (Nat.min ((s.task c n).sreg a).toNat (2 ^ 32 - 1))) len) s

/-- LOOPI (R324). -/
def execLoopi (y : Sync) (x : BitVec 32) (len : BitVec 12) (s : State) : Host.Outcome State Fault Refusal :=
  scalar inHandler y (fun c n s => loopEntry s c n x len) s

/-- LOOPMB: the mailbox, read once at entry (R229, R324). -/
def execLoopmb (y : Sync) (a : MbReg) (len : BitVec 12) (s : State) : Host.Outcome State Fault Refusal :=
  scalar inHandler y (fun c n s => loopEntry s c n (Tab.get 0 (s.core c).mbox a.val) len) s

/-- LPBRK: ends the innermost k levels (R327). -/
def execLpbrk (y : Sync) (p : Pred) (k : BitVec 3) (s : State) : Host.Outcome State Fault Refusal :=
  scalar (fun t => t.inh || k == 0 || (4 : BitVec 3).ult k) y (fun c n s =>
    let t := s.task c n
    if t.pred p then
      if t.depth < k.toNat then .trap s cLOOPNEST 0 0
      else
        let d := t.depth - k.toNat
        .cont (s.modTask c n fun t =>
          { t with
            depth := d
            loops := (List.range k.toNat).foldl (fun l i => l.setIfInBounds (d + i) { l.toArray.getD (d + i) {} with cnt := 0 }) t.loops })
          (t.loops.toArray.getD d {}).endAddr
    else .done s) s

/-! ## Special registers (R230, R329) -/

/-- CAPCORES (R39). -/
def State.capCores (s : State) : Word :=
  let inService := (List.range 16).filter fun c => !(s.cluster c).retired
  let mask := inService.foldl (fun a c => a + 2 ^ c) 0
  BitVec.ofNat 64 (mask * 2 ^ 48 + 4 * 2 ^ 40 + 4 * 2 ^ 32 + 18 * 2 ^ 24 + 18 * inService.length)

/-- CAPGANG (R39). -/
def capGang : Word := 0x0000000007408007

/-- CAPROWQ (R39). -/
def capRowq : Word := 0x00000020200C1004

/-- MXWAKE of a unit. R36 does not say what GATED reads while the array wakes: here it reads 0 as soon as waking begins (DESIGN CHOICE,
unsafe, log 69). -/
def State.mxwake (s : State) (c : Nat) : Word :=
  let k := s.core c
  (if s.arrayGate c = .gated then 0x100000000 else 0) ||| (k.autoIdle.setWidth 64 <<< 16) ||| k.mxWake.setWidth 64

/-- The value SRD reads of a register of 64 bits or fewer (R230). -/
def State.sprS (s : State) (c n : Nat) (x : SprS) : Word :=
  let t := s.task c n
  match x with
  | .cycle => BitVec.ofNat 64 (s.now c)
  | .corenum => BitVec.ofNat 64 c
  | .devid => s.devid.setWidth 64
  | .taskid => BitVec.ofNat 64 n
  | .sweepid => t.sweep.setWidth 64
  | .cls => t.cls.setWidth 64
  | .esw => t.esw
  | .ecause => t.ecause
  | .ecp => t.ecp
  | .esp => t.esp
  | .waitlimit => t.waitlimit
  | .mxwake => s.mxwake c
  | .capcores => s.capCores
  | .capgang => capGang
  | .caprowq => capRowq

/-- The value SRD reads of an 80-bit register (R230). -/
def Task.sprA (t : Task) : SprA → Addr
  | .epc => t.epc | .eaddr => t.eaddr | .hbase => t.hbase

/-- SRD (R329). -/
def execSrd (y : Sync) (x : SprMove) (s : State) : Host.Outcome State Fault Refusal :=
  scalar legal y (fun c n s =>
    match x with
    | .s r p => .done (s.modTask c n fun t => t.setS r (s.sprS c n p))
    | .a r p => .done (s.modTask c n fun t => t.setA r (t.sprA p))) s

/-- SWR is ILLEGAL: not writable now, a misaligned HBASE, reserved bits of MXWAKE (R178, R230, R329).
Reserved bits of ESW and ECAUSE that are RO ignore what is written (R12, R178). (DEDUCED, unsafe, log 37) -/
def swrIllegal (x : SprMove) (t : Task) : Bool :=
  match x with
  | .s r p =>
    match p with
    | .esw | .ecause | .ecp | .esp => !t.inh
    | .waitlimit => false
    | .mxwake => (t.sreg r).extractLsb' 33 31 != 0
    | .cycle | .corenum | .devid | .taskid | .sweepid | .cls | .capcores | .capgang | .caprowq => true
  | .a r p =>
    match p with
    | .epc | .eaddr => !t.inh
    | .hbase => (t.areg r).toNat % 4 != 0

/-- SWR of ESW keeps its read-only fields ENG and FROZEN (R178). -/
def eswWrite (old new : BitVec 64) : BitVec 64 :=
  (old &&& 0xFFFFFF8000000000) ||| (new &&& 0x0000007FFFFFFFFF)

/-- SWR (R329). -/
def execSwr (y : Sync) (x : SprMove) (s : State) : Host.Outcome State Fault Refusal :=
  scalar (swrIllegal x) y (fun c n s =>
    let put := fun (f : Task → Task) => Act.done (s.modTask c n f)
    match x with
    | .s r p =>
      match p with
      | .esw => put fun t => { t with esw := eswWrite t.esw (t.sreg r) }
      | .ecause => put fun t => { t with ecause := t.sreg r &&& 0xFFFF }
      | .ecp => put fun t => { t with ecp := t.sreg r }
      | .esp => put fun t => { t with esp := t.sreg r }
      | .waitlimit => put fun t => { t with waitlimit := t.sreg r, waitAcc := 0, waitFrom := t.waitFrom.map fun _ => s.now c }
      | .mxwake => .done (s.modCore c fun k => { k with autoIdle := ((s.task c n).sreg r).extractLsb' 16 16 })
      | .cycle | .corenum | .devid | .taskid | .sweepid | .cls | .capcores | .capgang | .caprowq => .trap s cILLEGAL 0 0
    | .a r p =>
      match p with
      | .epc => put fun t => { t with epc := t.areg r }
      | .eaddr => put fun t => { t with eaddr := t.areg r }
      | .hbase => put fun t => { t with hbase := t.areg r }) s

/-! ## Mailboxes and NOP (R330, R331) -/

/-- MBRD (R330). -/
def execMbrd (y : Sync) (d : SReg) (a : MbReg) (s : State) : Host.Outcome State Fault Refusal :=
  scalar legal y (fun c n s =>
    .done (s.modTask c n fun t => t.setS d ((Tab.get (0 : BitVec 32) (s.core c).mbox a.val).setWidth 64))) s

/-- MBWR (R330). -/
def execMbwr (y : Sync) (d : MbReg) (a : SReg) (s : State) : Host.Outcome State Fault Refusal :=
  scalar legal y (fun c n s =>
    .done (s.modCore c fun k => { k with mbox := Tab.set k.mbox d.val (((s.task c n).sreg a).extractLsb' 0 32) })) s

/-- NOP waits and signals only (R331). -/
def execNop (y : Sync) (s : State) : Host.Outcome State Fault Refusal :=
  scalar legal y (fun _ _ s => .done s) s

end Sys2Proof.Machine
end

