-- ==== Sys2Proof/Machine/ScInt.lean ====
section
/-! DEFINITION. Class SC, integer arithmetic, bit operations, moves and compares (R309 to R312). -/

namespace Sys2Proof.Machine

/-! ## Integer arithmetic and logic (R309) -/

/-- A form of R309: both operands read, the result written to s[D]. -/
def intOp (y : Sync) (d a : SReg) (b : SrcB) (f : Word → Word → Word) (s : State) : Host.Outcome State Fault Refusal :=
  regOp y (fun t => t.setS d (f (t.sreg a) (t.srcB b))) s


/-- ADD: x + y (R309). -/
def execAdd (y : Sync) (d a : SReg) (b : SrcB) (s : State) : Host.Outcome State Fault Refusal :=
  intOp y d a b (fun x z => x + z) s

/-- SUB: x − y (R309). -/
def execSub (y : Sync) (d a : SReg) (b : SrcB) (s : State) : Host.Outcome State Fault Refusal :=
  intOp y d a b (fun x z => x - z) s

/-- MUL: x × y (R309). -/
def execMul (y : Sync) (d a : SReg) (b : SrcB) (s : State) : Host.Outcome State Fault Refusal :=
  intOp y d a b (fun x z => x * z) s

/-- MULH: the upper half of the product, by Q[1] (R309). -/
def execMulh (y : Sync) (sg : Bool) (d a : SReg) (b : SrcB) (s : State) : Host.Outcome State Fault Refusal :=
  intOp y d a b (fun x z =>
    if sg then BitVec.ofInt 64 (x.toInt * z.toInt / 2 ^ 64) else BitVec.ofNat 64 (x.toNat * z.toNat / 2 ^ 64)) s

/-- DIV: truncated quotient; all ones for a zero divisor (R309). -/
def execDiv (y : Sync) (sg : Bool) (d a : SReg) (b : SrcB) (s : State) : Host.Outcome State Fault Refusal :=
  intOp y d a b (fun x z =>
    if z = 0 then BitVec.allOnes 64 else if sg then BitVec.ofInt 64 (x.toInt.tdiv z.toInt) else x.udiv z) s

/-- REM: remainder; the dividend for a zero divisor (R309). -/
def execRem (y : Sync) (sg : Bool) (d a : SReg) (b : SrcB) (s : State) : Host.Outcome State Fault Refusal :=
  intOp y d a b (fun x z =>
    if z = 0 then x else if sg then BitVec.ofInt 64 (x.toInt - z.toInt * x.toInt.tdiv z.toInt) else x.umod z) s

/-- MIN (R309). -/
def execMin (y : Sync) (sg : Bool) (d a : SReg) (b : SrcB) (s : State) : Host.Outcome State Fault Refusal :=
  intOp y d a b (fun x z => if (if sg then x.sle z else x.ule z) then x else z) s

/-- MAX (R309). -/
def execMax (y : Sync) (sg : Bool) (d a : SReg) (b : SrcB) (s : State) : Host.Outcome State Fault Refusal :=
  intOp y d a b (fun x z => if (if sg then x.sle z else x.ule z) then z else x) s

/-- AND (R309). -/
def execAnd (y : Sync) (d a : SReg) (b : SrcB) (s : State) : Host.Outcome State Fault Refusal :=
  intOp y d a b (fun x z => x &&& z) s

/-- OR (R309). -/
def execOr (y : Sync) (d a : SReg) (b : SrcB) (s : State) : Host.Outcome State Fault Refusal :=
  intOp y d a b (fun x z => x ||| z) s

/-- XOR (R309). -/
def execXor (y : Sync) (d a : SReg) (b : SrcB) (s : State) : Host.Outcome State Fault Refusal :=
  intOp y d a b (fun x z => x ^^^ z) s

/-- ANDN (R309). -/
def execAndn (y : Sync) (d a : SReg) (b : SrcB) (s : State) : Host.Outcome State Fault Refusal :=
  intOp y d a b (fun x z => x &&& ~~~z) s

/-- SHL (R309). -/
def execShl (y : Sync) (d a : SReg) (b : SrcB) (s : State) : Host.Outcome State Fault Refusal :=
  intOp y d a b (fun x z => x <<< (z.toNat % 64)) s

/-- SHR (R309). -/
def execShr (y : Sync) (d a : SReg) (b : SrcB) (s : State) : Host.Outcome State Fault Refusal :=
  intOp y d a b (fun x z => x >>> (z.toNat % 64)) s

/-- SAR (R309). -/
def execSar (y : Sync) (d a : SReg) (b : SrcB) (s : State) : Host.Outcome State Fault Refusal :=
  intOp y d a b (fun x z => x.sshiftRight (z.toNat % 64)) s

/-- ROTR (R309). -/
def execRotr (y : Sync) (d a : SReg) (b : SrcB) (s : State) : Host.Outcome State Fault Refusal :=
  intOp y d a b (fun x z => x.rotateRight (z.toNat % 64)) s

/-! ## Bit operations (R310) -/

/-- Leading zeros of the low w bits. -/
def clzW (w : Nat) (x : Word) : Nat :=
  let v := x.toNat % 2 ^ w
  if v = 0 then w else w - 1 - Nat.log2 v

/-- Trailing zeros of the low w bits. -/
def ctzW : Nat → Nat → Nat
  | 0, _ => 0
  | w + 1, v => if v % 2 = 1 then 0 else 1 + ctzW w (v / 2)

/-- Ones among the low w bits. -/
def popcW : Nat → Nat → Nat
  | 0, _ => 0
  | w + 1, v => v % 2 + popcW w (v / 2)

/-- The low w bits as a word. -/
def lowW (w : Nat) (x : Word) : Word := BitVec.ofNat 64 (x.toNat % 2 ^ w)


/-- CLZ: w when the field is zero (R310). -/
def execClz (y : Sync) (w : Width) (d a : SReg) (s : State) : Host.Outcome State Fault Refusal :=
  regOp y (fun t => t.setS d (BitVec.ofNat 64 (clzW w.bits (t.sreg a)))) s

/-- CTZ: w when the field is zero (R310). -/
def execCtz (y : Sync) (w : Width) (d a : SReg) (s : State) : Host.Outcome State Fault Refusal :=
  regOp y (fun t => t.setS d (BitVec.ofNat 64 (ctzW w.bits (t.sreg a).toNat))) s

/-- POPC (R310). -/
def execPopc (y : Sync) (w : Width) (d a : SReg) (s : State) : Host.Outcome State Fault Refusal :=
  regOp y (fun t => t.setS d (BitVec.ofNat 64 (popcW w.bits (t.sreg a).toNat))) s

/-- BSWAP: the bytes in reverse order, zero-extended (R310). -/
def execBswap (y : Sync) (w : Width) (d a : SReg) (s : State) : Host.Outcome State Fault Refusal :=
  regOp y (fun t => t.setS d (BitVec.ofNat 64 (ofBytes (lowBytes (t.sreg a) w.bytes).reverse))) s

/-- EXT: the field, extended (R310). -/
def execExt (y : Sync) (sg : Bool) (d a : SReg) (lsb wm1 : BitVec 6) (s : State) : Host.Outcome State Fault Refusal :=
  regOp y (fun t =>
    let f := (t.sreg a).extractLsb' lsb.toNat (wm1.toNat + 1)
    t.setS d (if sg then f.signExtend 64 else f.setWidth 64)) s

/-- INS: the field replaced, the other bits kept (R310). -/
def execIns (y : Sync) (d a : SReg) (lsb wm1 : BitVec 6) (s : State) : Host.Outcome State Fault Refusal :=
  regOp y (fun t =>
    let mask := BitVec.ofNat 64 (2 ^ (wm1.toNat + 1) - 1) <<< lsb.toNat
    t.setS d ((t.sreg d &&& ~~~mask) ||| ((t.sreg a <<< lsb.toNat) &&& mask))) s

/-- SEL (R310). -/
def execSel (y : Sync) (d : SReg) (c : PReg) (a b : SReg) (s : State) : Host.Outcome State Fault Refusal :=
  regOp y (fun t => t.setS d (if t.preg c then t.sreg a else t.sreg b)) s

/-- CMP (R310, R311). -/
def execCmp (y : Sync) (c : Cond) (d : PReg) (a : SReg) (b : SrcB) (s : State) : Host.Outcome State Fault Refusal :=
  regOp y (fun t => t.setP d (c.eval (t.sreg a) (t.srcB b))) s

/-- MOVI (R310). -/
def execMovi (y : Sync) (d : SReg) (x : BitVec 32) (s : State) : Host.Outcome State Fault Refusal :=
  regOp y (fun t => t.setS d (x.signExtend 64)) s

/-- MOVHI: the upper half; the lower is kept (R310). -/
def execMovhi (y : Sync) (d : SReg) (x : BitVec 32) (s : State) : Host.Outcome State Fault Refusal :=
  regOp y (fun t => t.setS d (x ++ (t.sreg d).extractLsb' 0 32)) s

/-- MOV (R310). -/
def execMov (y : Sync) (d a : SReg) (s : State) : Host.Outcome State Fault Refusal :=
  regOp y (fun t => t.setS d (t.sreg a)) s

/-- PSET (R312). -/
def execPset (y : Sync) (op : PsetOp) (s : State) : Host.Outcome State Fault Refusal :=
  regOp y (fun t => t.setP (t.psetVal op).1 (t.psetVal op).2) s

/-- SEXT (R310). -/
def execSext (y : Sync) (w : Width) (d a : SReg) (s : State) : Host.Outcome State Fault Refusal :=
  regOp y (fun t => t.setS d (IntTy.ext ⟨w, true⟩ (t.sreg a))) s

/-- ZEXT (R310). -/
def execZext (y : Sync) (w : Width) (d a : SReg) (s : State) : Host.Outcome State Fault Refusal :=
  regOp y (fun t => t.setS d (IntTy.ext ⟨w, false⟩ (t.sreg a))) s

end Sys2Proof.Machine
end

