-- ==== Sys2Proof/Machine/Dispatch.lean ====
section
/-! DEFINITION. The one dispatch: each instruction and each event to its meaning. -/

namespace Sys2Proof.Machine

/-- What an instruction does in a state. -/
def exec (i : Instr) (s : State) : Host.Outcome State Fault Refusal :=
  match i with
  | .add y d a b => Sys2Proof.Machine.execAdd y d a b s
  | .sub y d a b => Sys2Proof.Machine.execSub y d a b s
  | .mul y d a b => Sys2Proof.Machine.execMul y d a b s
  | .mulh y sg d a b => Sys2Proof.Machine.execMulh y sg d a b s
  | .div y sg d a b => Sys2Proof.Machine.execDiv y sg d a b s
  | .rem y sg d a b => Sys2Proof.Machine.execRem y sg d a b s
  | .min y sg d a b => Sys2Proof.Machine.execMin y sg d a b s
  | .max y sg d a b => Sys2Proof.Machine.execMax y sg d a b s
  | .and y d a b => Sys2Proof.Machine.execAnd y d a b s
  | .or y d a b => Sys2Proof.Machine.execOr y d a b s
  | .xor y d a b => Sys2Proof.Machine.execXor y d a b s
  | .andn y d a b => Sys2Proof.Machine.execAndn y d a b s
  | .shl y d a b => Sys2Proof.Machine.execShl y d a b s
  | .shr y d a b => Sys2Proof.Machine.execShr y d a b s
  | .sar y d a b => Sys2Proof.Machine.execSar y d a b s
  | .rotr y d a b => Sys2Proof.Machine.execRotr y d a b s
  | .clz y w d a => Sys2Proof.Machine.execClz y w d a s
  | .ctz y w d a => Sys2Proof.Machine.execCtz y w d a s
  | .popc y w d a => Sys2Proof.Machine.execPopc y w d a s
  | .bswap y w d a => Sys2Proof.Machine.execBswap y w d a s
  | .ext y sg d a lsb wm1 => Sys2Proof.Machine.execExt y sg d a lsb wm1 s
  | .ins y d a lsb wm1 => Sys2Proof.Machine.execIns y d a lsb wm1 s
  | .sel y d c a b => Sys2Proof.Machine.execSel y d c a b s
  | .cmp y c d a b => Sys2Proof.Machine.execCmp y c d a b s
  | .movi y d x => Sys2Proof.Machine.execMovi y d x s
  | .movhi y d x => Sys2Proof.Machine.execMovhi y d x s
  | .mov y d a => Sys2Proof.Machine.execMov y d a s
  | .pset y op => Sys2Proof.Machine.execPset y op s
  | .sext y w d a => Sys2Proof.Machine.execSext y w d a s
  | .zext y w d a => Sys2Proof.Machine.execZext y w d a s
  | .fadd y t r d a b => Sys2Proof.Machine.execFadd y t r d a b s
  | .fsub y t r d a b => Sys2Proof.Machine.execFsub y t r d a b s
  | .fmul y t r d a b => Sys2Proof.Machine.execFmul y t r d a b s
  | .ffma y t r d a b c => Sys2Proof.Machine.execFfma y t r d a b c s
  | .fdiv y t r d a b => Sys2Proof.Machine.execFdiv y t r d a b s
  | .fsqrt y t r d a => Sys2Proof.Machine.execFsqrt y t r d a s
  | .fmin y t d a b => Sys2Proof.Machine.execFmin y t d a b s
  | .fmax y t d a b => Sys2Proof.Machine.execFmax y t d a b s
  | .fcmp y t c d a b => Sys2Proof.Machine.execFcmp y t c d a b s
  | .fcvt y dst src r d a => Sys2Proof.Machine.execFcvt y dst src r d a s
  | .icvtf y t it r d a => Sys2Proof.Machine.execIcvtf y t it r d a s
  | .fcvti y it t r d a => Sys2Proof.Machine.execFcvti y it t r d a s
  | .aadd y d a b => Sys2Proof.Machine.execAadd y d a b s
  | .aaddi y d a x => Sys2Proof.Machine.execAaddi y d a x s
  | .alea y d m => Sys2Proof.Machine.execAlea y d m s
  | .amov y d a => Sys2Proof.Machine.execAmov y d a s
  | .aset y d a b => Sys2Proof.Machine.execAset y d a b s
  | .aget y hi d a => Sys2Proof.Machine.execAget y hi d a s
  | .asub y d a b => Sys2Proof.Machine.execAsub y d a b s
  | .acmp y c d a b => Sys2Proof.Machine.execAcmp y c d a b s
  | .achk y k d a b => Sys2Proof.Machine.execAchk y k d a b s
  | .ld y t o d m => Sys2Proof.Machine.execLd y t o d m s
  | .st y t o d m => Sys2Proof.Machine.execSt y t o d m s
  | .lda y o d m => Sys2Proof.Machine.execLda y o d m s
  | .sta y o d m => Sys2Proof.Machine.execSta y o d m s
  | .atom y op t o d ix base disp => Sys2Proof.Machine.execAtom y op t o d ix base disp s
  | .cas y t o d ix base disp => Sys2Proof.Machine.execCas y t o d ix base disp s
  | .pref y sc m => Sys2Proof.Machine.execPref y sc m s
  | .br y disp => Sys2Proof.Machine.execBr y disp s
  | .brp y p disp => Sys2Proof.Machine.execBrp y p disp s
  | .jmp y a => Sys2Proof.Machine.execJmp y a s
  | .call y disp => Sys2Proof.Machine.execCall y disp s
  | .calla y d a => Sys2Proof.Machine.execCalla y d a s
  | .ret y a => Sys2Proof.Machine.execRet y a s
  | .loop y a n => Sys2Proof.Machine.execLoop y a n s
  | .loopi y x n => Sys2Proof.Machine.execLoopi y x n s
  | .loopmb y a n => Sys2Proof.Machine.execLoopmb y a n s
  | .lpbrk y p k => Sys2Proof.Machine.execLpbrk y p k s
  | .srd y x => Sys2Proof.Machine.execSrd y x s
  | .swr y x => Sys2Proof.Machine.execSwr y x s
  | .mbrd y d a => Sys2Proof.Machine.execMbrd y d a s
  | .mbwr y d a => Sys2Proof.Machine.execMbwr y d a s
  | .nop y => Sys2Proof.Machine.execNop y s
  | .semwait y n k => Sys2Proof.Machine.execSemwait y n k s
  | .semsig y n k => Sys2Proof.Machine.execSemsig y n k s
  | .semset y n k => Sys2Proof.Machine.execSemset y n k s
  | .semrd y d n => Sys2Proof.Machine.execSemrd y d n s
  | .semcfg y n e => Sys2Proof.Machine.execSemcfg y n e s
  | .qjoin y m => Sys2Proof.Machine.execQjoin y m s
  | .fence y o sc => Sys2Proof.Machine.execFence y o sc s
  | .mwait y t c sc d a b => Sys2Proof.Machine.execMwait y t c sc d a b s
  | .lwinit y a b c sem => Sys2Proof.Machine.execLwinit y a b c sem s
  | .lwwait y d a g => Sys2Proof.Machine.execLwwait y d a g s
  | .lwrd y d a => Sys2Proof.Machine.execLwrd y d a s
  | .barinit y b m => Sys2Proof.Machine.execBarinit y b m s
  | .bararr y d b => Sys2Proof.Machine.execBararr y d b s
  | .barwait y b p => Sys2Proof.Machine.execBarwait y b p s
  | .spawn y d a => Sys2Proof.Machine.execSpawn y d a s
  | .yieldTask y => Sys2Proof.Machine.execYieldTask y s
  | .texit y => Sys2Proof.Machine.execTexit y s
  | .setclass y d c => Sys2Proof.Machine.execSetclass y d c s
  | .cropen y a id => Sys2Proof.Machine.execCropen y a id s
  | .crclose y id => Sys2Proof.Machine.execCrclose y id s
  | .trap y brk code => Sys2Proof.Machine.execTrap y brk code s
  | .tret y => Sys2Proof.Machine.execTret y s
  | .halt y => Sys2Proof.Machine.execHalt y s
  | .ecall y d a svc => Sys2Proof.Machine.execEcall y d a svc s
  | .vadd y t m d a b => Sys2Proof.Machine.execVadd y t m d a b s
  | .vsub y t m d a b => Sys2Proof.Machine.execVsub y t m d a b s
  | .vmul y t m d a b => Sys2Proof.Machine.execVmul y t m d a b s
  | .vfma y t m d a b c => Sys2Proof.Machine.execVfma y t m d a b c s
  | .vfms y t m d a b c => Sys2Proof.Machine.execVfms y t m d a b c s
  | .vmin y t m d a b => Sys2Proof.Machine.execVmin y t m d a b s
  | .vmax y t m d a b => Sys2Proof.Machine.execVmax y t m d a b s
  | .vabs y t m d a => Sys2Proof.Machine.execVabs y t m d a s
  | .vneg y t m d a => Sys2Proof.Machine.execVneg y t m d a s
  | .vrcp y t m d a => Sys2Proof.Machine.execVrcp y t m d a s
  | .vrsq y t m d a => Sys2Proof.Machine.execVrsq y t m d a s
  | .vexp2 y t m d a => Sys2Proof.Machine.execVexp2 y t m d a s
  | .vlog2 y t m d a => Sys2Proof.Machine.execVlog2 y t m d a s
  | .vdiv y t m d a b => Sys2Proof.Machine.execVdiv y t m d a b s
  | .vsqrt y t m d a => Sys2Proof.Machine.execVsqrt y t m d a s
  | .vfcmp y t c m d a b => Sys2Proof.Machine.execVfcmp y t c m d a b s
  | .viadd y t m sat d a b => Sys2Proof.Machine.execViadd y t m sat d a b s
  | .visub y t m sat d a b => Sys2Proof.Machine.execVisub y t m sat d a b s
  | .vimul y t m sat d a b => Sys2Proof.Machine.execVimul y t m sat d a b s
  | .vimad y t m sat d a b c => Sys2Proof.Machine.execVimad y t m sat d a b c s
  | .vimin y t m d a b => Sys2Proof.Machine.execVimin y t m d a b s
  | .vimax y t m d a b => Sys2Proof.Machine.execVimax y t m d a b s
  | .vand y t m d a b => Sys2Proof.Machine.execVand y t m d a b s
  | .vor y t m d a b => Sys2Proof.Machine.execVor y t m d a b s
  | .vxor y t m d a b => Sys2Proof.Machine.execVxor y t m d a b s
  | .vnot y t m d a => Sys2Proof.Machine.execVnot y t m d a s
  | .vshl y t m d a b => Sys2Proof.Machine.execVshl y t m d a b s
  | .vshr y t m d a b => Sys2Proof.Machine.execVshr y t m d a b s
  | .vsar y t m d a b => Sys2Proof.Machine.execVsar y t m d a b s
  | .vicmp y t c m d a b => Sys2Proof.Machine.execVicmp y t c m d a b s
  | .vpopc y t m d a => Sys2Proof.Machine.execVpopc y t m d a s
  | .vclmul y hi m d a b => Sys2Proof.Machine.execVclmul y hi m d a b s
  | .vcvt y dst src m d a => Sys2Proof.Machine.execVcvt y dst src m d a s
  | .vpack y t sat d a b => Sys2Proof.Machine.execVpack y t sat d a b s
  | .vunpack y t hi d a => Sys2Proof.Machine.execVunpack y t hi d a s
  | .vbcast y t m d a => Sys2Proof.Machine.execVbcast y t m d a s
  | .vextr y t d a b => Sys2Proof.Machine.execVextr y t d a b s
  | .vinsr y t d a b => Sys2Proof.Machine.execVinsr y t d a b s
  | .vperm y t m d a b => Sys2Proof.Machine.execVperm y t m d a b s
  | .vrot y t m d a b => Sys2Proof.Machine.execVrot y t m d a b s
  | .vsel y t m d a b => Sys2Proof.Machine.execVsel y t m d a b s
  | .vmov y t m d a => Sys2Proof.Machine.execVmov y t m d a s
  | .vred y op m d a => Sys2Proof.Machine.execVred y op m d a s
  | .vscan y op m d a => Sys2Proof.Machine.execVscan y op m d a s
  | .vdot y op m d a b => Sys2Proof.Machine.execVdot y op m d a b s
  | .vld y w d m => Sys2Proof.Machine.execVld y w d m s
  | .vst y w d m => Sys2Proof.Machine.execVst y w d m s
  | .vlds y w d m => Sys2Proof.Machine.execVlds y w d m s
  | .vsts y w d m => Sys2Proof.Machine.execVsts y w d m s
  | .vgath y w d g => Sys2Proof.Machine.execVgath y w d g s
  | .vscat y w d g => Sys2Proof.Machine.execVscat y w d g s
  | .mlog y op => Sys2Proof.Machine.execMlog y op s
  | .mpopc y d a => Sys2Proof.Machine.execMpopc y d a s
  | .msetl y w d a => Sys2Proof.Machine.execMsetl y w d a s
  | .vsetw y d x => Sys2Proof.Machine.execVsetw y d x s
  | .txload y d sa => Sys2Proof.Machine.execTxload y d sa s
  | .txrun y dst src sat d sa n t => Sys2Proof.Machine.execTxrun y dst src sat d sa n t s
  | .txv y dst src m sat d a t => Sys2Proof.Machine.execTxv y dst src m sat d a t s
  | .txcfg y t a b => Sys2Proof.Machine.execTxcfg y t a b s
  | .txrd y d t a => Sys2Proof.Machine.execTxrd y d t a s
  | .mxldw y fmt w t x sc => Sys2Proof.Machine.execMxldw y fmt w t x sc s
  | .mxldwt y fmt w t x sc => Sys2Proof.Machine.execMxldwt y fmt w t x sc s
  | .mxpass y fmt acc a t x sc => Sys2Proof.Machine.execMxpass y fmt acc a t x sc s
  | .mxzero y mask => Sys2Proof.Machine.execMxzero y mask s
  | .mxst y kind dst r acc d t x => Sys2Proof.Machine.execMxst y kind dst r acc d t x s
  | .mxrdv y kind dst r d acc t => Sys2Proof.Machine.execMxrdv y kind dst r d acc t s
  | .mxwrv y acc a t => Sys2Proof.Machine.execMxwrv y acc a t s
  | .mxagen y op => Sys2Proof.Machine.execMxagen y op s
  | .mxscl y sa t g => Sys2Proof.Machine.execMxscl y sa t g s
  | .mxmode y op => Sys2Proof.Machine.execMxmode y op s
  | .mxchk y op => Sys2Proof.Machine.execMxchk y op s
  | .mxidle y => Sys2Proof.Machine.execMxidle y s
  | .cpy y d sa n lw => Sys2Proof.Machine.execCpy y d sa n lw s
  | .cpyt y p d sa t dstr lw => Sys2Proof.Machine.execCpyt y p d sa t dstr lw s
  | .cpym y d sa n m lw => Sys2Proof.Machine.execCpym y d sa n m lw s
  | .fill y w d n v lw => Sys2Proof.Machine.execFill y w d n v lw s
  | .rlopen y k r => Sys2Proof.Machine.execRlopen y k r s
  | .rlhold y k => Sys2Proof.Machine.execRlhold y k s
  | .rlrel y k => Sys2Proof.Machine.execRlrel y k s
  | .rlrd y d k p lw => Sys2Proof.Machine.execRlrd y d k p lw s
  | .rlwr y k sa p => Sys2Proof.Machine.execRlwr y k sa p s
  | .rlstat y d k => Sys2Proof.Machine.execRlstat y d k s
  | .streamrow y d r lw => Sys2Proof.Machine.execStreamrow y d r lw s
  | .bankclose y r => Sys2Proof.Machine.execBankclose y r s
  | .sqload y sys d t p n => Sys2Proof.Machine.execSqload y sys d t p n s
  | .sqstart y d t a => Sys2Proof.Machine.execSqstart y d t a s
  | .sqstop y d t => Sys2Proof.Machine.execSqstop y d t s
  | .sqstat y d t => Sys2Proof.Machine.execSqstat y d t s
  | .sqburst sa n o ms lw => Sys2Proof.Machine.execSqburst sa n o ms lw s
  | .sqset op => Sys2Proof.Machine.execSqset op s
  | .sqsig ms n c => Sys2Proof.Machine.execSqsig ms n c s
  | .sqwait a v => Sys2Proof.Machine.execSqwait a v s
  | .sqloop c disp => Sys2Proof.Machine.execSqloop c disp s
  | .sqend => Sys2Proof.Machine.execSqend s
  | .put y psz r sa k c n => Sys2Proof.Machine.execPut y psz r sa k c n s
  | .get y psz d r k c n => Sys2Proof.Machine.execGet y psz d r k c n s
  | .rld y t acq sc d r k c => Sys2Proof.Machine.execRld y t acq sc d r k c s
  | .rst y t rel sc v r k c => Sys2Proof.Machine.execRst y t rel sc v r k c s
  | .ratom y op o sc noret v r k c => Sys2Proof.Machine.execRatom y op o sc noret v r k c s
  | .rcas y t o sc d r n c => Sys2Proof.Machine.execRcas y t o sc d r n c s
  | .flush y sc => Sys2Proof.Machine.execFlush y sc s
  | .sld y t acq sc d ix h => Sys2Proof.Machine.execSld y t acq sc d ix h s
  | .sst y t rel sc v ix h => Sys2Proof.Machine.execSst y t rel sc v ix h s
  | .sget y psz d ix n h lw => Sys2Proof.Machine.execSget y psz d ix n h lw s
  | .sput y op sa ix n h => Sys2Proof.Machine.execSput y op sa ix n h s
  | .shfence y => Sys2Proof.Machine.execShfence y s
  | .shupd y d a h => Sys2Proof.Machine.execShupd y d a h s
  | .grant y d a => Sys2Proof.Machine.execGrant y d a s
  | .revoke y a => Sys2Proof.Machine.execRevoke y a s
  | .powerOn => Sys2Proof.Machine.execPowerOn s
  | .powerOff => Sys2Proof.Machine.execPowerOff s
  | .attestationRequest => Sys2Proof.Machine.execAttestationRequest s
  | .devctlWarmrst => Sys2Proof.Machine.execDevctlWarmrst s
  | .tmcmdTruncate => Sys2Proof.Machine.execTmcmdTruncate s
  | .ageingSample => Sys2Proof.Machine.execAgeingSample s
  | .clkSetstepWrite => Sys2Proof.Machine.execClkSetstepWrite s
  | .clockChangePoint => Sys2Proof.Machine.execClockChangePoint s
  | .clockRelockComplete => Sys2Proof.Machine.execClockRelockComplete s
  | .thermalThrottle => Sys2Proof.Machine.execThermalThrottle s
  | .throttleStep => Sys2Proof.Machine.execThrottleStep s
  | .thermalTrip => Sys2Proof.Machine.execThermalTrip s
  | .matrixAutoidleGate => Sys2Proof.Machine.execMatrixAutoidleGate s
  | .matrixGatingDone => Sys2Proof.Machine.execMatrixGatingDone s
  | .matrixWakeDone => Sys2Proof.Machine.execMatrixWakeDone s
  | .codewordRowReceive => Sys2Proof.Machine.execCodewordRowReceive s
  | .laneWindowEnd => Sys2Proof.Machine.execLaneWindowEnd s
  | .laneProposeRepeat => Sys2Proof.Machine.execLaneProposeRepeat s
  | .flitTransmit => Sys2Proof.Machine.execFlitTransmit s
  | .idleFlitReceive => Sys2Proof.Machine.execIdleFlitReceive s
  | .sequencedFlitReceive => Sys2Proof.Machine.execSequencedFlitReceive s
  | .retryReceive => Sys2Proof.Machine.execRetryReceive s
  | .retryResendTimeout => Sys2Proof.Machine.execRetryResendTimeout s
  | .replayTimeout => Sys2Proof.Machine.execReplayTimeout s
  | .laneProposeReceive => Sys2Proof.Machine.execLaneProposeReceive s
  | .laneCommitReceive => Sys2Proof.Machine.execLaneCommitReceive s
  | .laneDoneReceive => Sys2Proof.Machine.execLaneDoneReceive s
  | .trainingWordReceive => Sys2Proof.Machine.execTrainingWordReceive s
  | .trainingWordRepeat => Sys2Proof.Machine.execTrainingWordRepeat s
  | .strandedBackoffExpiry => Sys2Proof.Machine.execStrandedBackoffExpiry s
  | .downRetrainTimer => Sys2Proof.Machine.execDownRetrainTimer s
  | .lthrWrite => Sys2Proof.Machine.execLthrWrite s
  | .lctlClrdown => Sys2Proof.Machine.execLctlClrdown s
  | .lctlClrcnt => Sys2Proof.Machine.execLctlClrcnt s
  | .lctlRetrain => Sys2Proof.Machine.execLctlRetrain s
  | .lctlHold => Sys2Proof.Machine.execLctlHold s
  | .lctlPerhop => Sys2Proof.Machine.execLctlPerhop s
  | .portDegradeWindow => Sys2Proof.Machine.execPortDegradeWindow s
  | .packetRoute => Sys2Proof.Machine.execPacketRoute s
  | .packetForward => Sys2Proof.Machine.execPacketForward s
  | .ebbtExpiry => Sys2Proof.Machine.execEbbtExpiry s
  | .ebbPacketForward => Sys2Proof.Machine.execEbbPacketForward s
  | .tree => Sys2Proof.Machine.execTree s
  | .ebbFlip => Sys2Proof.Machine.execEbbFlip s
  | .flipReceive => Sys2Proof.Machine.execFlipReceive s
  | .drainSend => Sys2Proof.Machine.execDrainSend s
  | .drain => Sys2Proof.Machine.execDrain s
  | .ebbReportsCollected => Sys2Proof.Machine.execEbbReportsCollected s
  | .putreq => Sys2Proof.Machine.execPutreq s
  | .getreq => Sys2Proof.Machine.execGetreq s
  | .ldreq => Sys2Proof.Machine.execLdreq s
  | .streq => Sys2Proof.Machine.execStreq s
  | .atomreq => Sys2Proof.Machine.execAtomreq s
  | .casreq => Sys2Proof.Machine.execCasreq s
  | .ordreq => Sys2Proof.Machine.execOrdreq s
  | .mgmt => Sys2Proof.Machine.execMgmt s
  | .ack => Sys2Proof.Machine.execAck s
  | .data => Sys2Proof.Machine.execData s
  | .atomrsp => Sys2Proof.Machine.execAtomrsp s
  | .nack => Sys2Proof.Machine.execNack s
  | .requestResendTimeout => Sys2Proof.Machine.execRequestResendTimeout s
  | .ordResend => Sys2Proof.Machine.execOrdResend s
  | .ordRoundAbandon => Sys2Proof.Machine.execOrdRoundAbandon s
  | .completionRecordExpiry => Sys2Proof.Machine.execCompletionRecordExpiry s
  | .wintWrite => Sys2Proof.Machine.execWintWrite s
  | .zclCfgMessage => Sys2Proof.Machine.execZclCfgMessage s
  | .zclLinkDown => Sys2Proof.Machine.execZclLinkDown s
  | .hostlinkTimeout => Sys2Proof.Machine.execHostlinkTimeout s
  | .zclMemCompletion => Sys2Proof.Machine.execZclMemCompletion s
  | .xltReply => Sys2Proof.Machine.execXltReply s
  | .inv => Sys2Proof.Machine.execInv s
  | .invComplete => Sys2Proof.Machine.execInvComplete s
  | .launchWrite => Sys2Proof.Machine.execLaunchWrite s
  | .queueToPool => Sys2Proof.Machine.execQueueToPool s
  | .lpcfgWrite => Sys2Proof.Machine.execLpcfgWrite s
  | .lpringWrite => Sys2Proof.Machine.execLpringWrite s
  | .lpptrHeadWrite => Sys2Proof.Machine.execLpptrHeadWrite s
  | .mailboxHostWrite => Sys2Proof.Machine.execMailboxHostWrite s
  | .registerWrite => Sys2Proof.Machine.execRegisterWrite s
  | .latchGrant => Sys2Proof.Machine.execLatchGrant s
  | .leaseExpiry => Sys2Proof.Machine.execLeaseExpiry s
  | .refreshIssue => Sys2Proof.Machine.execRefreshIssue s
  | .refreshComplete => Sys2Proof.Machine.execRefreshComplete s
  | .rfmIssue => Sys2Proof.Machine.execRfmIssue s
  | .rfmComplete => Sys2Proof.Machine.execRfmComplete s
  | .stackTempReport => Sys2Proof.Machine.execStackTempReport s
  | .selfRefreshExit => Sys2Proof.Machine.execSelfRefreshExit s
  | .memcfgWrite => Sys2Proof.Machine.execMemcfgWrite s
  | .scrubRead => Sys2Proof.Machine.execScrubRead s
  | .bankReservationWaitExpiry => Sys2Proof.Machine.execBankReservationWaitExpiry s
  | .burstSlotGrant => Sys2Proof.Machine.execBurstSlotGrant s
  | .pageWalk => Sys2Proof.Machine.execPageWalk s
  | .streamTlbWalkAhead => Sys2Proof.Machine.execStreamTlbWalkAhead s
  | .pfheadWrite => Sys2Proof.Machine.execPfheadWrite s
  | .map => Sys2Proof.Machine.execMap s
  | .unmap => Sys2Proof.Machine.execUnmap s
  | .modify => Sys2Proof.Machine.execModify s
  | .flushasid => Sys2Proof.Machine.execFlushasid s
  | .resume => Sys2Proof.Machine.execResume s
  | .refuse => Sys2Proof.Machine.execRefuse s
  | .mappingBadop => Sys2Proof.Machine.execMappingBadop s
  | .mappingCommandComplete => Sys2Proof.Machine.execMappingCommandComplete s
  | .unitPlacement => Sys2Proof.Machine.execUnitPlacement s
  | .unitClearComplete => Sys2Proof.Machine.execUnitClearComplete s
  | .prewaitExpiry => Sys2Proof.Machine.execPrewaitExpiry s
  | .schedctlWrite => Sys2Proof.Machine.execSchedctlWrite s
  | .sweepComplete => Sys2Proof.Machine.execSweepComplete s
  | .pendingTrapTaken => Sys2Proof.Machine.execPendingTrapTaken s
  | .waittimeExpiry => Sys2Proof.Machine.execWaittimeExpiry s
  | .waitConditionMet => Sys2Proof.Machine.execWaitConditionMet s
  | .preemptionImageWrite => Sys2Proof.Machine.execPreemptionImageWrite s
  | .preempt => Sys2Proof.Machine.execPreempt s
  | .exportSweep => Sys2Proof.Machine.execExportSweep s
  | .importSweep => Sys2Proof.Machine.execImportSweep s
  | .releaseSweep => Sys2Proof.Machine.execReleaseSweep s
  | .sweepCmdBadop => Sys2Proof.Machine.execSweepCmdBadop s
  | .dbgctlHalt => Sys2Proof.Machine.execDbgctlHalt s
  | .dbgctlRelease => Sys2Proof.Machine.execDbgctlRelease s
  | .dbgctlHaltonbrk => Sys2Proof.Machine.execDbgctlHaltonbrk s
  | .instructionFetch => Sys2Proof.Machine.execInstructionFetch s
  | .engineEntryStart => Sys2Proof.Machine.execEngineEntryStart s
  | .engineUnitCommit => Sys2Proof.Machine.execEngineUnitCommit s
  | .engineEntryComplete => Sys2Proof.Machine.execEngineEntryComplete s
  | .ecallReply => Sys2Proof.Machine.execEcallReply s
  | .mwaitPoll => Sys2Proof.Machine.execMwaitPoll s
  | .sqwaitPoll => Sys2Proof.Machine.execSqwaitPoll s
  | .zclLinkUp => Sys2Proof.Machine.execZclLinkUp s
  | .laneLossOfLock => Sys2Proof.Machine.execLaneLossOfLock s
  | .imageRestoreComplete => Sys2Proof.Machine.execImageRestoreComplete s
  | .sweepCommandComplete => Sys2Proof.Machine.execSweepCommandComplete s
  | .sequencerWordDecodeError => Sys2Proof.Machine.execSequencerWordDecodeError s

end Sys2Proof.Machine
end

