-- ==== Sys2Proof/Machine/Turn.lean ====
section
/-! DEFINITION. The turns of the agents: time, the front end of a unit with its engines, and a thread of the sequencer (R120, R166, R167, R169, R189, R208, R209, R425; DESIGN CHOICE, unsafe, log 4, DESIGN CHOICE, safe, log 7). -/

namespace Sys2Proof.Machine

/-! ## Time (R30, R189) -/

/-- A core that holds a task of a halted context: its CYCLE stands (R189, R206). -/
def State.haltedCore (s : State) (k : Core) : Bool :=
  s.dbg.halt && k.slots.any fun t => t.2.st != .idle && t.2.asid == s.dbg.asid

/-- Time passes: cycles of each cluster and ticks of the fabric clock, unless the clocks are off (DESIGN CHOICE, safe, log 7). -/
def State.tick (s : State) : State :=
  if s.powered && !s.stopped then
    let cyc := fun (cl : Nat) => (Config.freeCycles (16 * s.freeCtr + cl)).toNat
    State.takeArrived { s with
      freeCtr := s.freeCtr + 1
      ftime := s.ftime + (Config.freeTicks s.freeCtr).toNat
      clusters := (List.range 16).map fun cl => (cl, { s.cluster cl with cycles := (s.cluster cl).cycles + cyc cl })
      cores := if s.dbg.halt then
          s.cores.map fun (e : Nat × Core) =>
            (e.1, if s.haltedCore e.2 then { e.2 with cycHeld := e.2.cycHeld + cyc (e.1 / 18) } else e.2)
        else s.cores }
  else { s with freeCtr := s.freeCtr + 1 }

/-! ## Priority inheritance (R169) -/

/-- EffClass of a task with an inherited class (R167). -/
def effClass (t : Task) (inh : Nat) : Nat := Nat.min t.cls.toNat inh

/-- Inherited classes by slot, from those of the step before. -/
def inheritOnce (k : Core) (inh : List Nat) : List Nat :=
  (List.range 8).map fun m =>
    (List.range 8).foldl (fun best n =>
      let t := Tab.get Task.idle k.slots n
      match t.st, t.wait with
      | .waiting, .barrier b _ =>
        let o := Tab.get ({} : Barrier) k.bars b.val
        let e := effClass t (inh.getD n 3)
        if o.member.getLsbD m && !o.arrived.getLsbD m && decide (e < (Tab.get Task.idle k.slots m).cls.toNat) then Nat.min best e
        else best
      | _, _ => best) 3

/-- Inheritance along chains of barriers. -/
def inheritAll (k : Core) : Nat → List Nat → List Nat
  | 0, inh => inh
  | fuel + 1, inh => inheritAll k fuel (inheritOnce k inh)

/-- The inherited classes of a unit's tasks (R169). -/
def State.reinherit (s : State) (c : Nat) : State :=
  let inh := inheritAll (s.core c) 8 (List.replicate 8 3)
  s.modCore c fun k => { k with
    slots := k.slots.map fun (e : Nat × Task) => (e.1, { e.2 with inherited := BitVec.ofNat 2 (inh.getD e.1 3) }) }

/-! ## The choice of a task (R167) -/

/-- The first number above another one, wrapping. -/
def nextAfter (xs : List Nat) (last : Nat) : Nat := (xs.find? fun n => decide (last < n)).getD (xs.headD 0)

/-- The set E: READY tasks that have not yielded; those that have, when there is no other (R167, R346). A task whose instruction only timing
holds is left out until it can issue (DEDUCED, unsafe, log 47). -/
def State.choosable (s : State) (c : Nat) : List Nat :=
  let ready := (List.range 8).filter fun n => (s.task c n).st == .ready && !(s.timed c n)
  let e := ready.filter fun n => !(s.task c n).yielded
  if e.isEmpty then ready else e

/-- Last slot taken of a class. -/
def Core.last (k : Core) : Nat → Nat
  | 0 => k.last0 | 1 => k.last1 | 2 => k.last2 | _ => k.last3
def Core.setLast (k : Core) (n : Nat) : Nat → Core
  | 0 => { k with last0 := n } | 1 => { k with last1 := n } | 2 => { k with last2 := n } | _ => { k with last3 := n }

/-- The task chosen among a set, and the core with its record of it (R167). -/
def Core.pick (k : Core) (e : List Nat) : Nat × Core :=
  let t := fun (n : Nat) => Tab.get Task.idle k.slots n
  let aged := e.filter fun n => decide (65536 ≤ (t n).starve)
  if aged.isEmpty then
    let cls := fun (n : Nat) => effClass (t n) (t n).inherited.toNat
    let least := (e.map cls).min?.getD 3
    let n := nextAfter (e.filter fun n => cls n == least) (k.last least)
    (n, k.setLast n least)
  else
    let n := nextAfter aged k.lastAged
    (n, { k with lastAged := n })

/-- Starve counts after a choice; no task has yielded any more. -/
def Core.chosen (k : Core) (e : List Nat) (n : Nat) : Core :=
  { k with
    slots := k.slots.map fun (x : Nat × Task) =>
      (x.1, { x.2 with
        yielded := false
        wait := if x.1 = n then x.2.wait.atIssue else x.2.wait
        starve := if x.1 = n then 0 else if e.contains x.1 then Nat.min (x.2.starve + 1) 65536 else x.2.starve }) }

/-- ChooseTask of R167; none when no task is READY. -/
def State.choose (s : State) (c : Nat) : Option (Nat × State) :=
  let e := s.choosable c
  if e.isEmpty then none
  else
    let r := (s.core c).pick e
    some (r.1, s.setCore c (r.2.chosen e r.1))

/-! ## Issue (R208, R209, R361) -/

/-- The wait of an imported task's instruction is past: its word names the count it took (R217, R335). -/
def Task.past (t : Task) (i : Instr) : Task :=
  if t.pastSync then
    { t with pastSync := false, took := (i.sync.bind fun y => if y.wcnt = 0 then none else some (y.wsem, y.wcnt.toNat)) }
  else t

/-- The conditions of an allocated word that make it ILLEGAL for a task, but for a value that is not there yet (R287). -/
def illegalIn (t : Task) : Instr → Bool
  | .loop .. | .loopi .. | .loopmb .. => inHandler t
  | .lpbrk _ _ k => t.inh || k == 0 || (4 : BitVec 3).ult k
  | .semcfg _ _ e => e && !t.priv
  | .swr _ (.s _ .mxwake) => false
  | .swr _ x => swrIllegal x t
  | .tret _ => !t.inh
  | .halt .. | .shupd .. | .grant .. | .revoke .. => !t.priv
  | .mxchk _ op => chkIllegal op t
  | .sqload _ sys .. => sqloadIllegal sys t
  | _ => false

/-- A task of a unit issues the instruction at its PC: an unallocated word traps, an acquire under way or a reserved register holds it, else it
has its meaning; a word that is ILLEGAL traps before it is held (R241, R287, R361). -/
def issue (c n : Nat) (s : State) : Host.Outcome State Fault Refusal :=
  match fetch s c n with
  | .error s => .next s
  | .ok (s, w) =>
    match decode w with
    | .error _ => .next (s.issueTrap c n cILLEGAL 0 0)
    | .ok i =>
      if s.acquiring c n then .next (s.holdTask c n .ready .acquire)
      else if (s.task c n).regBusy i && !illegalIn (s.task c n) i then .next (s.holdTask c n .ready (.regBusy (Instr.sregs i)))
      else exec i { s.modTask c n fun t => t.past i with cur := .task c n }

/-- The front end with its chosen task: a pending trap first (R177). -/
def front (c n : Nat) (s : State) : Host.Outcome State Fault Refusal :=
  match s.takeTrap c n with
  | some s => .next s
  | none => issue c n s

/-! ## The turn of a unit -/

/-- What precedes the choice: the engines, conditions met, pending traps of held tasks, WAITTIME, DEADWAIT, inheritance. -/
def State.prepare (s : State) (c : Nat) : State :=
  let s := (s.callUp c).pump c
  let s := (List.range 8).foldl (fun s n => s.wake c n) s
  let s := (List.range 8).foldl (fun s n => if (s.task c n).st.held then s.boundary c n else s) s
  let s := (List.range 8).foldl (fun s n => s.recount c n) s
  let s := (List.range 8).foldl (fun s n => if (s.task c n).st.atBoundary then s.expire c n else s) s
  (s.deadwait c).reinherit c

/-- A turn of the unit at a core (R166, R167, R209). -/
def unitTurn (c : Nat) (s : State) : Host.Outcome State Fault Refusal :=
  if s.frozenUnit c then .next s
  else
    let s := s.prepare c
    if s.frozenUnit c then .next s
    else
      match s.choose c with
      | none => .next s
      | some (n, s) => front c n s

/-! ## The turn of a thread (R120, R306, R425) -/

/-- A RUNNING thread performs the word at its PC, or enters ERROR; a WAITING one tests its SQWAIT again. -/
def threadTurn (t : ThreadId) (s : State) : Host.Outcome State Fault Refusal :=
  if s.floodOn then
    match (s.thread t).st with
    | .running =>
      match s.threadWord t with
      | some i => exec i { s with cur := .thread t }
      | none => .next (s.threadError t cILLEGAL)
    | .waiting => .next (s.rewait t)
    | .idle | .loaded | .held | .error => .next s
  else .next s

/-! ## The turn of an agent -/

/-- What one turn does: an event of the device with its inputs, a unit, a thread. (DESIGN CHOICE, safe, log 51) -/
def turn (x : Turn) (s : State) : Host.Outcome State Fault Refusal :=
  match x with
  | .event i inp => if Instr.isEvent i then exec i { s with inp := inp } else .next s
  | .unit c => unitTurn c s
  | .thread t => threadTurn t s

/-- The next turn and the state without it: the head of the agenda, or the unit in focus. -/
def State.nextTurn (s : State) : Turn × State :=
  match s.agenda with
  | [] => (.unit s.focus, s)
  | x :: xs => (x, { s with agenda := xs })

/-! ## Placing a word (DESIGN CHOICE, unsafe, log 18) -/

/-- The address at which a placed word is fetched. -/
def placePc : Addr := 0x80000000000000000000

/-- A task that issues the word at `placePc` next. -/
def Task.placed (t : Task) : Task :=
  { t with
    st := .ready, pc := placePc, wait := .none, waitAcc := 0, waitFrom := none, took := none, pastSync := false, resvd := []
    pendVx := none, pendTx := none, pendMx := none, pendCx := none, pendFx := none }

/-- A word of a task placed in HBM and at the PC of slot 0 of core 0. -/
def State.placeTask (s : State) (w : InstrWord) : State :=
  let t := (s.task 0 0).placed
  let s := { s.setHbm 0 (bytesOfWord w) with agenda := [], focus := 0, powered := true, stopped := false, faulted := false }
  let s := (s.setPoison (.hbm 0 none) false).freshSector (.hbm 0 none)
  let s := s.fillTlb
    { cache := .scalar 0, asid := t.asid, vbase := placePc.toNat, shift := 16, pbase := 0, r := true, w := true, x := true }
  let s := { s with dbg := { s.dbg with halt := false } }.setCluster 0 { s.cluster 0 with relocking := false }
  s.modCore 0 fun k => { k with slots := [(0, t)], queue := [], imem := [], dcache := [], freeze := none, clearing := false }

/-- A word of the sequencer placed in the program of thread 0. -/
def State.placeThread (s : State) (w : InstrWord) : State :=
  let s := { s with agenda := [.thread 0], powered := true, stopped := false, faulted := false }
  let s := s.setThread 0 { s.thread 0 with st := .running, pc := 0, base := 0, len := 1, units := [] }
  { s with flood := { s.flood with prog := Tab.set s.flood.prog 0 w } }

/-- A word placed where the next step runs it. -/
def State.placeWord (s : State) (w : InstrWord) : State :=
  match decode w with
  | .ok i => if Instr.sequencer i then s.placeThread w else s.placeTask w
  | .error _ => s.placeTask w

end Sys2Proof.Machine
end

