-- ==== Sys2Proof/Machine/Step.lean ====
section
/-! DEFINITION. One step of the device: time passes and one agent takes its turn; and the placing of a word where the next step runs it. -/

namespace Sys2Proof.Machine

/-- One step: time passes, then the next agent takes its turn (DESIGN CHOICE, unsafe, log 4, DESIGN CHOICE, safe, log 7). -/
def step (s : State) : Host.Outcome State Fault Refusal :=
  let s := s.tick
  turn s.nextTurn.1 s.nextTurn.2

/-- `s` with an instruction placed where the next step runs it (DESIGN CHOICE, unsafe, log 18): a word of a task at the PC of slot 0 of core 0, in HBM under a
cached translation that grants X, and that task READY, alone on its unit and in focus; a word of the sequencer in the program of thread 0,
which is RUNNING and has the next turn. -/
def State.withFetchWord (s : State) (nbits w : Nat) : State := s.placeWord (BitVec.ofNat 96 (w % 2 ^ nbits))

end Sys2Proof.Machine
end

