-- ==== Sys2Proof/Safety.lean ====
section
/-! DEFINITION. The terms of the claims: the canonical form of every memory, what an instruction of a task needs in order to run and
what its issue leaves, and what an effect keeps. -/

namespace Sys2Proof.Machine

/-! ## Memories in canonical form -/

/-- The memories of a core. -/
def Core.memWf (k : Core) : Bool := Sparse.wf k.spm && Sparse.wf k.tags && Sparse.wf k.latch && Sparse.wf k.acc

/-- The memories of an image. -/
def Image.memWf (i : Image) : Bool := Sparse.wf i.spm && Sparse.wf i.tags && Sparse.wf i.latch && Sparse.wf i.acc

/-- Every memory of the device is in its canonical form. -/
def State.memWf (s : State) : Bool :=
  Sparse.wf s.hbm.bytes && Sparse.wf s.hbm.stale && Sparse.wf s.host.bytes &&
  s.cores.all (fun e => e.2.memWf) && s.images.all Image.memWf

/-! ## A task that runs (R166, R216, R217, R308) -/

/-- The task of slot n of core c is the one that issues, it is READY, and the SYNC wait of its instruction is met or behind it. -/
def Ready (s : State) (c n : Nat) (y : Sync) : Prop :=
  s.cur = .task c n ∧ (s.task c n).st = .ready ∧
  ((s.task c n).took.isSome = true ∨ y.wcnt.toNat ≤ (s.sem c y.wsem.toNat).count.toNat)

/-- The state after the SYNC wait of an instruction that issues: what it counts is taken once. -/
def State.waited (s : State) (c n : Nat) (y : Sync) : State := (s.syncTake c n y).getD s

/-- The task after an instruction has issued: READY, its issue number used up, the wait past; the PC has yet to move. -/
def Task.gone (t : Task) : Task := { t.pastWait with st := .ready, isn := t.isn + 1, took := none }

/-- The task after an instruction has issued and the PC has gone on through Continue. -/
def Task.stepped (t : Task) : Task := t.gone.cont (t.pc + 12)

/-- A task without its wait count (R186), which no register shows. -/
def Task.noCount (t : Task) : Task := { t with waitAcc := 0, waitFrom := none }

/-- A semaphore after the wait and the signal of an instruction (R215 to R217). -/
def State.semAfter (s : State) (c n : Nat) (y : Sync) (q : Nat) : Sem :=
  let x := s.sem c q
  let x := if (s.task c n).took.isNone ∧ y.wcnt ≠ 0 ∧ q = y.wsem.toNat then
      { x with count := x.count - BitVec.ofNat 16 y.wcnt.toNat, dev := x.dev && (x.count - BitVec.ofNat 16 y.wcnt.toNat) != 0 }
    else x
  if q = y.ssem.toNat then x.signal y.sinc.toNat else x

/-! ## What an effect keeps -/

/-- Nothing of the device has changed but the task of slot n of core c and the semaphores of its unit; its data cache is kept, or emptied by an
acquire (R243, R246). -/
structure OnlyTask (s : State) (c n : Nat) (t : State) : Prop where
  /-- Every part of the device outside the cores: memory, translation, fabric, sweeps, registers. -/
  device : t = { s with cores := t.cores }
  /-- Every other core. -/
  others : ∀ d, d ≠ c → t.core d = s.core d
  /-- The core: its scratchpad, engines, barriers, mailboxes and matrix state. -/
  unit : t.core c = { s.core c with slots := (t.core c).slots, sems := (t.core c).sems, dcache := (t.core c).dcache }
  /-- The data cache. -/
  cache : (t.core c).dcache = (s.core c).dcache ∨ (t.core c).dcache = []
  /-- Every other task of the unit. -/
  tasks : ∀ m, m ≠ n → t.task c m = s.task c m

/-- `g` is all that an instruction does to its task: the wait is taken, the registers change by `g`, the PC goes on, the signal is added. -/
structure Effect (s : State) (c n : Nat) (y : Sync) (g : Task → Task) (t : State) : Prop where
  task : (t.task c n).noCount = (g (s.task c n)).stepped.noCount
  sems : ∀ q, t.sem c q = s.semAfter c n y q
  only : OnlyTask s c n t

/-- An instruction runs and `g` is all that it does to its task. -/
def Runs (s : State) (c n : Nat) (y : Sync) (i : Instr) (g : Task → Task) : Prop :=
  ∃ t, exec i s = .next t ∧ Effect s c n y g t

/-- A control transfer runs: `g` and the new PC are all that it does to its task. -/
def Jumps (s : State) (c n : Nat) (y : Sync) (i : Instr) (g : Task → Task) (pc : Addr) : Prop :=
  ∃ t, exec i s = .next t ∧ (t.task c n).noCount = { (g (s.task c n)).gone.noCount with pc := pc } ∧
    (∀ q, t.sem c q = s.semAfter c n y q) ∧ OnlyTask s c n t

/-- An instruction runs, `g` is all that it does to the rest of its task, and control goes on at `pc` through Continue (R326). -/
def Continues (s : State) (c n : Nat) (y : Sync) (i : Instr) (g : Task → Task) (pc : Addr) : Prop :=
  ∃ t, exec i s = .next t ∧ (t.task c n).noCount = ((g (s.task c n)).gone.cont pc).noCount ∧
    (∀ q, t.sem c q = s.semAfter c n y q) ∧ OnlyTask s c n t

/-- The state after an instruction whose own effect has led to `s`: the task goes on and the signal is added (R216, R326). -/
def State.retired (s : State) (c n : Nat) (y : Sync) : State := (Act.done s).run y c n

/-! ## Values of floating point -/

/-- A value that is not a NaN, as a rational number or an infinity. -/
def Fl.ext : Fl → WithBot (WithTop ℚ)
  | .nan => ⊥
  | .inf neg => if neg then ⊥ else ((⊤ : WithTop ℚ) : WithBot (WithTop ℚ))
  | .fin neg m e _ => (((((if neg then -1 else 1) * m * (2 : ℚ) ^ e : ℚ)) : WithTop ℚ) : WithBot (WithTop ℚ))

/-! ## An engine that performs at once (R210, R211, R392) -/

/-- Nothing keeps the engine `e` from performing what the task of slot n of core c issues now: the start is not deferred (DESIGN CHOICE, unsafe, log 3), the unit
is not frozen, the task has nothing queued or pending there, the matrix array is awake and free, and no copy of the unit locks a range where
a CX or FX command's landing word could lie (R226). -/
def EngineReady (s : State) (c n : Nat) (y : Sync) (e : Eng) : Prop :=
  s.cur = .task c n ∧ (s.task c n).st = .ready ∧ (s.task c n).waitAcc = 0 ∧ (s.task c n).waitFrom = none ∧
  (s.task c n).took = none ∧ y.wcnt.toNat ≤ (s.sem c y.wsem.toNat).count.toNat ∧
  s.deferStart = false ∧ s.frozenUnit c = false ∧ ((s.task c n).pend e).isNone = true ∧
  ((s.core c).queue.all fun q => !(q.slot == n && q.eng == e)) = true ∧
  (e = .mx → s.arrayGate c = .awake ∧ ((s.core c).queue.all fun q => q.eng != .mx) = true) ∧
  (e = .cx ∨ e = .fx → ((s.core c).queue.all fun q => q.lock.isNone) = true)

/-- The queue entry of an instruction whose engine starts it at its issue. -/
def Issue.started (x : Issue) (s : State) (c n : Nat) (y : Sync) : Entry :=
  { x.entry c n true (s.task c n) with wmet := decide (y.wcnt ≠ 0), started := true }

/-- The state in which an engine starts an instruction at its issue: its count is taken, its task goes on, its entry stands in the queue. -/
def Issue.begun (x : Issue) (s : State) (c n : Nat) (y : Sync) : State :=
  let u := if y.wcnt = 0 then s else s.takeSem c y.wsem.toNat y.wcnt.toNat
  (u.modTask c n (x.task (s.now c))).modCore c fun k => { k with queue := k.queue ++ [x.started s c n y] }

/-- The state after an instruction that its engine performs at its issue, by `perf`. -/
def Issue.performed (x : Issue) (perf : Perf) (s : State) (c n : Nat) (y : Sync) : State :=
  settle c (x.started s c n y) (perf c (x.started s c n y) (x.begun s c n y))

/-- A vector register written by element: `F` gives the elements within the width that the mask lets through; the others, and every other
register, keep their value (R357, R358). -/
def Task.LanesSet (k u : Task) (w : Nat) (m : Option MReg) (d : VReg) (F : Nat → Nat) : Prop :=
  u = { k with v := u.v } ∧ (∀ r, r ≠ d → u.vreg r = k.vreg r) ∧
  ∀ e, e < 4096 / w → elem w (u.vreg d) e = if e < 32 * k.width / w ∧ k.active w m e = true then F e % 2 ^ w else elem w (k.vreg d) e

/-- Mask registers written by element: `F` gives the governing bit of each element below n in the group of g, at width 64 that of both its bits;
every other bit of every mask register keeps its value (R358, R359). -/
def Task.MaskSet (k u : Task) (w : Nat) (g : MReg) (n : Nat) (F : Nat → Bool) : Prop :=
  u = { k with m := u.m } ∧
  (∀ e, e < n → (u.mreg (govern w g e).1).getLsbD (govern w g e).2 = F e ∧ (w = 64 → (u.mreg g).getLsbD (2 * e + 1) = F e)) ∧
  ∀ r i, i < 128 → (∀ e, e < n → ¬(r = (govern w g e).1 ∧ (i = (govern w g e).2 ∨ (w = 64 ∧ i = 2 * e + 1)))) →
    (u.mreg r).getLsbD i = (k.mreg r).getLsbD i

/-- An instruction of an engine runs and `P` says what it does to its task. -/
def Sets (s : State) (c n : Nat) (y : Sync) (i : Instr) (P : Task → Prop) : Prop :=
  ∃ u, P u ∧ Runs s c n y i (fun _ => u)

/-- Room in the queue of engine `e` for an instruction that the task of slot n of core c issues, whose start is deferred (R210; DESIGN CHOICE, unsafe, log 3). -/
def QueueReady (s : State) (c n : Nat) (e : Eng) : Prop :=
  s.cur = .task c n ∧ (s.task c n).st = .ready ∧ s.deferStart = true ∧ queueRoom (s.core c).queue e n = true

/-! ## Bytes of memory -/

/-- A place lies in a piece; a piece of a confidential page takes whole 32-byte sectors (R118). -/
def Place.inPiece (p : Place) : Place × Nat → Bool
  | (.spm u o, n) =>
    match p with
    | .spm v m => (List.range n).any fun i => spMember u (o + i) == spMember v m
    | _ => false
  | (.hbm d none, n) =>
    match p with
    | .hbm x _ => decide (d ≤ x) && decide (x < d + n)
    | _ => false
  | (.hbm d (some _), n) =>
    match p with
    | .hbm x _ => decide (d / 32 ≤ x / 32) && decide (x / 32 ≤ (d + n - 1) / 32) && decide (0 < n)
    | _ => false
  | (.host a, n) =>
    match p with
    | .host x => decide (a ≤ x) && decide (x < a + n)
    | _ => false
  | (.img w u o, n) =>
    match p with
    | .img v m x => v == w && m == u && decide (o ≤ x) && decide (x < o + n)
    | _ => false

/-- One raw byte: an encrypted one as it stands in HBM. -/
def State.byteAt (s : State) : Place → List Byte
  | .hbm d _ => s.read (.hbm d none) 1
  | p => s.read p 1

/-! ## Paths of an engine's units (R182, R211) -/

/-- An engine's access goes through: it translates to pieces that no copy before the entry locks, and leads to `t`. -/
def Through (s : State) (c : Nat) (q : Entry) (x : Acc) (va : Addr) (k : Nat) (t : State) (l : Pieces) : Prop :=
  resolve s x va k = (t, .ok l) ∧ lockHit (before q (t.core c).queue) c l = none

/-- An engine's read goes through and finds no poison. -/
def Reads (s : State) (c : Nat) (q : Entry) (x : Acc) (va : Addr) (k : Nat) (t : State) (l : Pieces) : Prop :=
  Through s c q x va k t l ∧ t.firstPoisonAll l = none

/-- States that `N` units lead through, in order: unit `e` from the state before it to the one after. -/
def Path (N : Nat) (first last : State) (P : Nat → State → State → Prop) : Prop :=
  ∃ σ : Nat → State, σ 0 = first ∧ σ N = last ∧ ∀ e, e < N → P e (σ e) (σ (e + 1))

/-- The state after an instruction that its engine has performed to position `p`, leading to `u`: its entry leaves and signals (R211, R216). -/
def Issue.ended (x : Issue) (s : State) (c n : Nat) (y : Sync) (u : State) (p : Nat) : State :=
  settle c (x.started s c n y) ⟨u, p, p, .done⟩

/-- The state in which an MX engine starts an instruction that names sets: the copy of the sets stands in its entry (R393). -/
def Issue.copied (x : Issue) (s : State) (c n : Nat) (y : Sync) (e3 : Bool) (g h : GReg) : State :=
  (x.begun s c n y).modEntry c (x.started s c n y) fun e =>
    if e3 then { e with o3 := mxCopy (s.core c) g h, mxCopied := true } else { e with o0 := mxCopy (s.core c) g h, mxCopied := true }

/-- A vector load of the elements of v[d] at addresses `A`: each active one is aligned, read in order, and set (R373 to R375). -/
def ElemLoads (s : State) (c n : Nat) (y : Sync) (x : Issue) (w : Width) (d : VReg) (A : Task → Nat → Addr) (u : State) : Prop :=
  Path (32 * (s.task c n).width / w.bits) (x.begun s c n y) u fun e a b =>
    if (a.task c n).active w.bits (some 0) e = true then
      (A (a.task c n) e).toNat % w.bytes = 0 ∧ ∃ t l,
        Reads a c (x.started s c n y) (engAcc c .vx (a.task c n).asid false true false) (A (a.task c n) e) w.bytes t l ∧
        b = t.modTask c n fun k => k.setV d (mapElems w.bits (k.vreg d) fun i => if i = e then some (ofBytes (t.readAll l)) else none)
    else b = a

/-- A vector store of the elements of v[d] at addresses `A`: each active one is aligned and its bytes written in order (R373 to R375). -/
def ElemStores (s : State) (c n : Nat) (y : Sync) (x : Issue) (w : Width) (d : VReg) (A : Task → Nat → Addr) (u : State) : Prop :=
  Path (32 * (s.task c n).width / w.bits) (x.begun s c n y) u fun e a b =>
    if (a.task c n).active w.bits (some 0) e = true then
      (A (a.task c n) e).toNat % w.bytes = 0 ∧ ∃ t l,
        Through a c (x.started s c n y) (engAcc c .vx (a.task c n).asid false false true) (A (a.task c n) e) w.bytes t l ∧
        b = t.writeAll l (toBytes (elem w.bits ((a.task c n).vreg d) e) w.bytes)
    else b = a

/-! ## Table images (R378 to R380) -/

/-- An address of the unit's own scratchpad, aligned to 16. -/
def OwnImage (s : State) (c : Nat) (q : Entry) (a : Addr) : Prop :=
  a.toNat % 16 = 0 ∧ vaRegion a = .scratch ∧ ∃ p, spaPlace s (txAcc s c q true false) (a.extractLsb' 0 36) 16 = .ok p

/-- A header is read, once: it is `h`, and the entry keeps it; `t` is the state after (R379). -/
def HeaderRead (s : State) (c : Nat) (q : Entry) (a : Addr) (h : TxHead) (t : State) : Prop :=
  ∃ u l b, Reads s c q (txAcc s c q true false) a 16 u l ∧ b = BitVec.ofNat 128 (ofBytes (u.readAll l)) ∧
    h = TxHead.ofBits b ∧ t = u.modEntry c q fun e => { e with hdr := some b }

/-- A valid image at an address of the unit's own scratchpad: its header is `h`, read from `s` with the state `t` after. -/
def ValidImage (s : State) (c : Nat) (q : Entry) (a : Addr) (h : TxHead) (t : State) : Prop :=
  OwnImage s c q a ∧ HeaderRead s c q a h t ∧ h.ok = true ∧ h.inside t c a = true

/-- Interp(x, image) gives index `i` and the binary32 code `v`: a NaN gives the canonical NaN, else the entry of the index is read (R284, R379). -/
def Interpolates (s : State) (c : Nat) (q : Entry) (a : Addr) (h : TxHead) (x : Fl) (t : State) (i v : Nat) : Prop :=
  (x = .nan ∧ t = s ∧ i = 0 ∧ v = Fmt.f32.nan) ∨
  (x ≠ .nan ∧ i = interpIndex x h.x0 h.inv h.n ∧ ∃ l b,
    Reads s c q (txAcc s c q true false) (a + BitVec.ofNat 80 (16 + 8 * i)) 8 t l ∧ b = leBits 64 (t.readAll l) ∧
    v = Fmt.f32.encode (interpValue x h.x0 h.h (Fmt.f32.decode (b.toNat % 2 ^ 32)) (Fmt.f32.decode (b.toNat / 2 ^ 32)) i) .rne false 0)

/-! ## Matrix operands (R389, R391) -/

/-- Operands of an MX instruction pass the checks made before any effect: aligned data, populated bytes of the unit's own scratchpad, no copy
lock of an earlier entry, and, where they are read, frames whose tags their sets name. -/
def MxFits (s : State) (c : Nat) (q : Entry) (tags : Bool) (l : List MxArg) : Prop :=
  ∀ x ∈ l, (x.data = true → x.base.toNat % 16 = 0) ∧ x.outside c (s.spSize c) = none ∧
    x.locked (before q (s.core c).queue) = false ∧ (tags = true → x.badTag s c = none)

/-- A row of an operand carries no poison. -/
def MxArg.clean (x : MxArg) (s : State) (c r : Nat) : Prop := s.swzPoison c x.swz (x.row r) x.len = none

/-- The little-endian number of `n` logical bytes of a row of an operand, from byte `o` of it. -/
def MxArg.word (x : MxArg) (s : State) (c r o n : Nat) : Nat :=
  ofBytes ((List.range n).map fun b => s.spByte c (swizzle x.swz (x.row r + o + b)))

/-- Only the latch and its format of a core change. -/
def LatchOnly (c : Nat) (a b : State) : Prop :=
  b = a.setCore c { a.core c with
    latch := (b.core c).latch, latchFill := (b.core c).latchFill, latchFmt := (b.core c).latchFmt }

/-- Only the accumulators and ISAT of a core change. -/
def AccOnly (c : Nat) (a b : State) : Prop :=
  b = a.setCore c { a.core c with acc := (b.core c).acc, isat := (b.core c).isat }

/-! ## Copies and transfers (R410, R412, R433) -/

/-- `n` bytes cut into `N` units that start at positions `p`, each as long as `size` says (R410, R433). -/
def Cut (n : Nat) (size : Nat → Nat) (N : Nat) (p : Nat → Nat) : Prop :=
  p 0 = 0 ∧ p N = n ∧ ∀ i, i < N → p i < n ∧ p (i + 1) = p i + size (p i)

/-- The bytes from an address to the next 4 KiB boundary. -/
def Addr.left (a : Addr) : Nat := 4096 - a.toNat % 4096

/-- No check of a list fails. -/
def NoCheck (l : List Check) : Prop := ∀ x ∈ l, x.1 = false

/-- One unit read at `a` and written at `d` with its poison (R116, R412). -/
def Moves (s : State) (c : Nat) (q : Entry) (a d : Addr) (k : Nat) (t : State) : Prop :=
  ∃ u l v m, Through s c q (cxAcc s c q false) a k u l ∧ Through u c q (cxAcc u c q true) d k v m ∧
    t = v.writeAllTag (v.readAll l) (v.poisonAt l) 0 m

/-- A unit of CPYM at the units of a list: every destination's access goes through before any is written; each write is then counted in its
unit's landing word (R414). -/
def Casts (c : Nat) (q : Entry) (o pos k : Nat) (lw : Option (BitVec 26)) (bs : List Byte) (bad : Nat → Bool) : List Nat → State → State → Prop
  | [], s, t => t = s
  | u :: us, s, t => ∃ v m w z, Through s c q (cxAcc s c q true) (spwAt u (o + pos)) k v m ∧ Casts c q o pos k lw bs bad us v w ∧
      z = w.writeAllTag bs bad 0 m ∧ t = match lw with | some L => countLw z c q u L.toNat pos k | none => z

/-! ## Requests (R216, R433 to R435, R441) -/

/-- How an entry stands when its one request of `w` bytes has led to `u`: performed, or sent where a response completes it. -/
def oneSent (c : Nat) (q : Entry) (resp : Bool) (w : Nat) (u : State) : PRes :=
  if u.entryLive c q then ⟨u.endSend c q, w, w, if resp then .sent else .done⟩ else ⟨u, 0, w, .sent⟩

/-- The number of the owner record and the number within its shard block that Resolve finds for an element at indices `x` (R147). -/
def Resolved (e : ShardEnt) (x : Nat → Nat) (o l : Nat) : Prop :=
  ∃ g j G : Nat → Nat, (∀ d, g d = x d / e.blk d ∧ j d = x d % e.blk d ∧ G d = (e.ext d + e.blk d - 1) / e.blk d) ∧
    o = ((g (e.order 0) * G (e.order 1) + g (e.order 1)) * G (e.order 2) + g (e.order 2)) * G (e.order 3) + g (e.order 3) ∧
    l = ((j 0 * e.blk 1 + j 1) * e.blk 2 + j 2) * e.blk 3 + j 3

/-- `n` elements from indices `i` on, along the last dimension, are cut at its shard-block boundaries; the owner record of each piece's first element
is read, in order, and gives the piece its device, its token and its address; nothing is sent before the last, and the entry keeps the segments
`segs` (R146, R147, R149, R441). -/
def Owners (s : State) (c : Nat) (q : Entry) (h : BitVec 12) (i : BitVec 128) (n : Nat) (segs : List Seg) (t : State) : Prop :=
  ∃ N p d, ∃ σ : Nat → State, d = (s.handle h).rank - 1 ∧
    Cut n (fun k => Nat.min (n - k) ((s.handle h).blk d - (indexAt i d + k) % (s.handle h).blk d)) N p ∧
    segs.length = N ∧ σ 0 = s ∧ t = (σ N).modEntry c q (fun z => { z with segs := some segs }) ∧
    ∀ k, k < N → ∃ e no within l w, e = (σ k).handle h ∧
      Resolved e (fun m => if m = d then indexAt i m + p k else indexAt i m) no within ∧
      Reads (σ k) c q (fxAcc (σ k) c q false) (e.own + BitVec.ofNat 80 (16 * no)) 16 (σ (k + 1)) l ∧
      (σ (k + 1)).awaitsData c q l = false ∧ w = leBits 128 ((σ (k + 1)).readAll l) ∧ w.getLsbD 79 = false ∧
      segs[k]? = some
        { start := p k * 2 ^ e.esz, len := (p (k + 1) - p k) * 2 ^ e.esz, dev := w.extractLsb' 64 15, token := w.extractLsb' 0 64,
          addr := e.tbase + (w.extractLsb' 80 48).setWidth 80 + BitVec.ofNat 80 (within * 2 ^ e.esz), shard := some (h, e.gen) }

/-- Packets of a transfer over segments: each lies in its segment and ends with it or at a multiple of `cut` of its target address (R433). -/
def Packets (cut n : Nat) (segs : List Seg) (first last : State) (P : Seg → Nat → Nat → Addr → State → State → Prop) : Prop :=
  ∃ N p, ∃ g : Nat → Seg,
    Cut n (fun o => ((segs.find? fun g => decide (g.start ≤ o) && decide (o < g.start + g.len)).map fun g =>
      Nat.min (g.start + g.len - o) (cut - (g.addr + BitVec.ofNat 80 (o - g.start)).toNat % cut)).getD 0) N p ∧
    (∀ i, i < N → segs.find? (fun g => decide (g.start ≤ p i) && decide (p i < g.start + g.len)) = some (g i)) ∧
    (segs.find? fun g => decide (g.start ≤ n) && decide (n < g.start + g.len)) = none ∧
    Path N first last fun i a b => P (g i) (p i) (p (i + 1) - p i) ((g i).addr + BitVec.ofNat 80 (p i - (g i).start)) a b

/-- A packet that carries local bytes, its kind PUTREQ with their poison in its mask, or an addition of clean bytes (R432, R436). -/
def SendsBytes (c : Nat) (q : Entry) (src : Addr) (p : Packet) (kind : ReqKind) (g : Seg) (pos k : Nat) (a : Addr) (s t : State) : Prop :=
  ∃ u l, Through s c q (fxAcc s c q false) (src + BitVec.ofNat 80 pos) k u l ∧ u.awaitsData c q l = false ∧
    (p.ptype ≠ pPUTREQ → u.firstPoisonAll l = none) ∧ (u.tagFor (g.dev.setWidth 16)).isSome = true ∧ u.sealable (keyOf l) = true ∧ t.entryLive c q = true ∧
    t = u.request c q { p with
        dst := g.dev.setWidth 16, token := g.token, addr := a, len := BitVec.ofNat 16 k, payload := u.readAll l
        opx := if p.ptype = pPUTREQ then pmask a k (u.poisonAt l) else p.opx } (keyOf l) kind pos k [] none g.shard

/-- A GETREQ for local bytes that have been translated (R435). -/
def SendsGet (c : Nat) (q : Entry) (dst : Addr) (kind : ReqKind) (lw : Option Place) (g : Seg) (pos k : Nat) (a : Addr) (s t : State) : Prop :=
  ∃ u l, Through s c q (fxAcc s c q true) (dst + BitVec.ofNat 80 pos) k u l ∧ (u.tagFor (g.dev.setWidth 16)).isSome = true ∧
    u.sealable (keyOf l) = true ∧ u.awaitsData c q (l ++ lw.toList.map fun p => (p, 16)) = false ∧ t.entryLive c q = true ∧
    t = u.request c q { ptype := pGETREQ, dst := g.dev.setWidth 16, token := g.token, addr := a, len := BitVec.ofNat 16 k }
      (keyOf l) kind pos k l lw g.shard

/-- The state after a transfer of `n` bytes whose packets have led to `u`: performed when sent, or with its responses (R216, R435). -/
def Issue.transferred (x : Issue) (s : State) (c n : Nat) (y : Sync) (u : State) (len : Nat) (resp : Bool) : State :=
  settle c (x.started s c n y) ⟨u.endSend c (x.started s c n y), len, len, if resp then .sent else .done⟩

end Sys2Proof.Machine
end

