-- ==== Sys2Proof/Certificates/Slice0/Obligations.lean ====
section
/-! DEFINITION. The statements about the model, from the numbered rules of the specification: what each instruction and event does and leaves
unchanged, what a step runs, what reset leaves, and what every step keeps. -/

open Sys2Proof Sys2Proof.Machine

/-! ## Steps, decoding, reset and whole-machine rules -/

/-- A step is time passing and then one turn. In a unit's turn, the task that is chosen, with no trap pending, performs exec of the
instruction that the 12 bytes at its PC decode to, its wait behind it where its image says so; it is held, READY, while an acquire of its
own is under way, or a register that the word names is reserved and the word is not ILLEGAL; bytes that decode to none trap ILLEGAL. A
RUNNING thread performs exec of the word at its PC, and an event exec of the event on its inputs. (That one agent has its turn in each step is
the model's choice, logs 4 and 7; that a held acquire or reserved register leaves the task READY is its reading of R166, log 47, and how an
image's wait stands behind the instruction its reading of R335, log 46.) -/
def Obligations.step_runs_decoded : Prop :=
  (∀ (s t u v z : State) (c n : Nat) (w : InstrWord) (i : Instr), s.tick.nextTurn = (.unit c, t) → t.frozenUnit c = false →
    (t.prepare c).frozenUnit c = false → (t.prepare c).choose c = some (n, u) → u.takeTrap c n = none → fetch u c n = .ok (v, w) →
    (decode w = .ok i → i.wf = true ∧
      (v.acquiring c n = true → step s = .next (v.holdTask c n .ready .acquire)) ∧
      (v.acquiring c n = false → (v.task c n).regBusy i = true → illegalIn (v.task c n) i = false →
        step s = .next (v.holdTask c n .ready (.regBusy (Instr.sregs i)))) ∧
      (v.acquiring c n = false → (v.task c n).regBusy i = false ∨ illegalIn (v.task c n) i = true →
        z = { v.modTask c n (fun t => t.past i) with cur := .task c n } → step s = exec i z)) ∧
    (∀ e, decode w = .error e → step s = .next (v.issueTrap c n cILLEGAL 0 0))) ∧
  (∀ (s v : State) (c n : Nat) (k : Task) (l : Pieces), k = s.task c n →
    (∀ w, (s.core c).imem.find? (fun e => e.1 == k.pc.toNat) = some (k.pc.toNat, w) → fetch s c n = .ok (s, w)) ∧
    ((∀ x ∈ (s.core c).imem, x.1 ≠ k.pc.toNat) → vaRegion k.pc ≠ .scratch →
      resolve s (scalarAcc c k.asid false false true) k.pc 12 = (v, .ok l) → v.firstPoisonAll l = none →
      ∃ u, fetch s c n = .ok (u, BitVec.ofNat 96 (ofBytes (v.readAll l))) ∧ u.task c n = v.task c n)) ∧
  (∀ (s t : State) (h : ThreadId) (i : Instr), s.tick.nextTurn = (.thread h, t) → t.floodOn = true → (t.thread h).st = .running →
    (t.threadWord h = some i → step s = exec i { t with cur := .thread h }) ∧
    (t.threadWord h = none → step s = .next (t.threadError h cILLEGAL))) ∧
  (∀ (s t : State) (i : Instr) (inp : Input), s.tick.nextTurn = (.event i inp, t) → Instr.isEvent i = true →
    step s = exec i { t with inp := inp })

/-- Words written out from the specification's encodings decode to the instructions they stand for: the word of R292's example, the vector
word of R365, the table word of R384, a conditional branch of R323 and the all-zero word of R305. -/
def Obligations.decode_words : Prop :=
  decode 0x20300000510420C400000091 = .ok (.vfma ⟨0, 0, 5, 1⟩ .f32 ⟨some 1, false, .rtz⟩ 1 2 3 4) ∧
  decode 0x304000000010214000000000 = .ok (.txrd Sync.none 4 2 5) ∧
  decode 0x0510000000280000FFFFFFFD = .ok (.brp Sync.none (.neg 2) 0xFFFFFFFD) ∧
  decode 0 = .ok (.add Sync.none 0 0 (.reg 0)) ∧
  decode 0x800000000000000000000000 = .error .cls

/-- Every well-formed member of the opcode map has an encoding, and decoding the word that encodes it gives back that instruction with every
operand; an event of the device has no word. -/
def Obligations.round_trip : Prop :=
  ∀ (i : Instr), i.wf = true → (Instr.isEvent i = false → ∃ w, encode i = some w) ∧ (Instr.isEvent i = true → encode i = none) ∧
    ∀ w, encode i = some w → decode w = .ok i

/-- Right after power-on reset the registers hold the reset values of their tables: the front ends, the matrix arrays, the clocks, the
ports, the router, the windows, the launch pages, the memory island, the translation and scheduling registers and the sequencer. -/
def Obligations.reset_values : Prop :=
  ∀ (s : State), s = State.reset →
    s.bootst = 0 ∧ s.faulted = false ∧ s.freason = 0 ∧ s.dbg.halt = false ∧ s.strcount = 0 ∧ s.prewait = 10 ∧
    (∀ c n, (s.core c).gate = .gated ∧ (s.core c).autoIdle = 0x1000 ∧ (s.core c).mxWake = 0x0400 ∧ (s.core c).latchFmt = 0xFF ∧
      (s.core c).mxmode = 0 ∧ (s.core c).isat = false ∧ (s.task c n).st = .idle ∧ s.sem c n = { count := 0, ext := false, ovf := false } ∧
      (∀ m i j, (s.core c).accElem m i j = 0) ∧ (∀ o, s.spByte c o = 0) ∧ (∀ g, (s.core c).agSet g = 0)) ∧
    (∀ c, (s.cluster c).setStep = (s.cluster c).maxStep ∧ (s.cluster c).curStep = (s.cluster c).setStep ∧ (s.cluster c).throt = false) ∧
    (∀ p, (s.port p).st = .training ∧ (s.port p).txmap = 0 ∧ (s.port p).rxmap = 0 ∧ (s.port p).strcnt = 0 ∧ (s.port p).disag = 0 ∧
      (s.port p).winexp = 20 ∧ (s.port p).sheduc = 4 ∧ (s.port p).burst = 16 ∧ (s.port p).admuc = 0 ∧ (s.port p).admwin = 2 ∧
      (s.port p).hold = false ∧ (s.port p).perhop = false ∧ (s.port p).replays = 0 ∧ (s.port p).crcerr = 0) ∧
    s.router.ebbt = 200 ∧ s.router.nmbias = 8 ∧ s.router.rplim = 16 ∧ s.router.igcnt = 0 ∧ s.router.egen = false ∧ s.router.draining = false ∧
    (∀ g, Sparse.get s.router.gtab g = 0 ∧ Sparse.get s.router.ebb g = 0) ∧
    (∀ w, (s.window w).base = 0 ∧ (s.window w).valid = false ∧ (s.window w).sizexp = 16 ∧ (s.window w).keyep = 0) ∧
    (∀ k, (s.lpage k).en = false ∧ (s.lpage k).clfloor = 3 ∧ (s.lpage k).sz = 0 ∧ (s.lpage k).dropcnt = 0 ∧ (s.lpage k).seq = 0 ∧
      (s.lpage k).tail = 0 ∧ (s.lpage k).head = 0) ∧
    (∀ k, (s.stack k).storm = 16 ∧ (s.stack k).raamax = 192 ∧ (s.stack k).raalevel = 64 ∧ (s.stack k).raadec = 32 ∧ (s.stack k).tcrit = 100 ∧
      (s.stack k).texit = 90 ∧ (s.stack k).period = 24 ∧ (s.stack k).cecnt = 0 ∧ (s.stack k).uecnt = 0 ∧ (s.stack k).sref = false) ∧
    (∀ a, (s.asidEnt a).valid = false ∧ (s.asidEnt a).hosten = false) ∧ s.mapcmd.cmd7 = 0 ∧ s.mapcmd.busy = false ∧ s.mapcmd.status = 0 ∧
    s.xlctl.pfen = false ∧ s.xlctl.pnen = false ∧ s.scmd.scmd = 0 ∧ s.scmd.busy = false ∧
    (∀ h, (s.thread h).st = .idle ∧ (s.thread h).cause = 0 ∧ (s.thread h).pc = 0) ∧ (∀ h, (s.half h).corr = 0 ∧ (s.half h).last = 3)

/-- Every memory of the device is in its canonical form right after reset: addresses strictly rising, and no entry equal to what an unlisted
address reads as. The form is the model's own. -/
def Obligations.reset_memories : Prop :=
  State.reset.memWf = true

/-- From every state whose memories are in canonical form, a step leads to such a state. The form is the model's own. -/
def Obligations.memory_invariant : Prop :=
  ∀ (s t : State), s.memWf = true → step s = .next t → t.memWf = true

/-- Every instruction, and every event of the device, answers a next state in every state: none ends in a fault or a refusal. This is a property
of the model's own outcome type, which no rule states: R176 and R305 give every trap an entry, and the model has no other stop. -/
def Obligations.every_instruction_answers_next : Prop :=
  ∀ (i : Instr) (s : State), ∃ t, exec i s = .next t

/-! ## Class SC: registers, integers, bits -/

/-- s0 reads zero and p7 true after any write; every other register reads what was written last, and no other register changes. A second
operand is s[B] or the sign-extended immediate; an effective address adds base, scaled index and displacement modulo 2^80. AADD, AADDI,
ALEA, AMOV, ASET, AGET, ASUB and ACMP complete with R315's results on 80-bit unsigned addresses, without an access. -/
def Obligations.registers_and_addresses : Prop :=
  (∀ (k : Task) (d r : SReg) (x : Word) (p q : PReg) (v : Bool) (a b : AReg) (z : Addr) (i : BitVec 32) (m : MemOp),
    (k.setS d x).sreg 0 = 0 ∧ (d ≠ 0 → (k.setS d x).sreg d = x) ∧ (r ≠ d → (k.setS d x).sreg r = k.sreg r) ∧
    (k.setP p v).preg 7 = true ∧ (p ≠ 7 → (k.setP p v).preg p = v) ∧ (q ≠ p → (k.setP p v).preg q = k.preg q) ∧
    (k.setA a z).areg a = z ∧ (b ≠ a → (k.setA a z).areg b = k.areg b) ∧
    (k.setS d x) = { k with s := (k.setS d x).s } ∧ (k.setP p v) = { k with p := (k.setP p v).p } ∧
    k.srcB (.reg r) = k.sreg r ∧ (k.srcB (.imm i)).toInt = i.toInt ∧
    k.ea m = BitVec.ofInt 80 ((k.areg m.base).toNat + (k.sreg m.index).toInt * 2 ^ m.scale.toNat + m.disp.toInt)) ∧
  (∀ (s : State) (c n : Nat) (y : Sync) (d a b : AReg) (sd sa sb : SReg) (p : PReg) (i : BitVec 32) (m : MemOp) (k : Task) (x z : Addr),
    Ready s c n y → k = s.task c n → x = k.areg a → z = k.areg b →
    Runs s c n y (.aadd y d a sb) (·.setA d (BitVec.ofInt 80 (x.toNat + (k.sreg sb).toInt))) ∧
    Runs s c n y (.aaddi y d a i) (·.setA d (BitVec.ofInt 80 (x.toNat + i.toInt))) ∧
    Runs s c n y (.alea y d m) (·.setA d (k.ea m)) ∧
    Runs s c n y (.amov y d a) (·.setA d x) ∧
    Runs s c n y (.aset y d sa sb) (·.setA d (BitVec.ofNat 80 ((k.sreg sb).toNat % 2 ^ 16 * 2 ^ 64 + (k.sreg sa).toNat))) ∧
    Runs s c n y (.aget y false sd a) (·.setS sd (BitVec.ofNat 64 x.toNat)) ∧
    Runs s c n y (.aget y true sd a) (·.setS sd (BitVec.ofNat 64 (x.toNat / 2 ^ 64))) ∧
    Runs s c n y (.asub y sd a b) (·.setS sd (BitVec.ofInt 64 ((x.toNat : Int) - z.toNat))) ∧
    Runs s c n y (.acmp y .eq p a b) (·.setP p (decide (x.toNat = z.toNat))) ∧
    Runs s c n y (.acmp y .ne p a b) (·.setP p (decide (x.toNat ≠ z.toNat))) ∧
    Runs s c n y (.acmp y .ltu p a b) (·.setP p (decide (x.toNat < z.toNat))) ∧
    Runs s c n y (.acmp y .geu p a b) (·.setP p (decide (x.toNat ≥ z.toNat))) ∧
    Runs s c n y (.acmp y .leu p a b) (·.setP p (decide (x.toNat ≤ z.toNat))) ∧
    Runs s c n y (.acmp y .gtu p a b) (·.setP p (decide (x.toNat > z.toNat))))

/-- ADD, SUB, MUL, MULH, DIV, REM, MIN and MAX complete in every ready task and write s[D] with the value of R309's table, computed exactly
and narrowed once; division by zero gives all ones and the dividend. Nothing else changes but the PC, the ISN and the semaphores of SYNC. -/
def Obligations.integer_arithmetic : Prop :=
  ∀ (s : State) (c n : Nat) (y : Sync) (d a : SReg) (b : SrcB) (x z : Word), Ready s c n y →
    x = (s.task c n).sreg a → z = (s.task c n).srcB b →
    Runs s c n y (.add y d a b) (·.setS d (BitVec.ofNat 64 (x.toNat + z.toNat))) ∧
    Runs s c n y (.sub y d a b) (·.setS d (BitVec.ofInt 64 ((x.toNat : Int) - z.toNat))) ∧
    Runs s c n y (.mul y d a b) (·.setS d (BitVec.ofNat 64 (x.toNat * z.toNat))) ∧
    Runs s c n y (.mulh y false d a b) (·.setS d (BitVec.ofNat 64 (x.toNat * z.toNat / 2 ^ 64))) ∧
    Runs s c n y (.mulh y true d a b) (·.setS d (BitVec.ofInt 64 ((x.toInt * z.toInt).fdiv (2 ^ 64)))) ∧
    Runs s c n y (.div y false d a b) (·.setS d (BitVec.ofNat 64 (if z = 0 then 2 ^ 64 - 1 else x.toNat / z.toNat))) ∧
    Runs s c n y (.div y true d a b) (·.setS d (BitVec.ofInt 64 (if z = 0 then 2 ^ 64 - 1 else x.toInt.tdiv z.toInt))) ∧
    Runs s c n y (.rem y false d a b) (·.setS d (BitVec.ofNat 64 (if z = 0 then x.toNat else x.toNat % z.toNat))) ∧
    Runs s c n y (.rem y true d a b) (·.setS d (BitVec.ofInt 64 (if z = 0 then x.toInt else x.toInt.tmod z.toInt))) ∧
    Runs s c n y (.min y false d a b) (·.setS d (BitVec.ofNat 64 (Nat.min x.toNat z.toNat))) ∧
    Runs s c n y (.min y true d a b) (·.setS d (BitVec.ofInt 64 (min x.toInt z.toInt))) ∧
    Runs s c n y (.max y false d a b) (·.setS d (BitVec.ofNat 64 (Nat.max x.toNat z.toNat))) ∧
    Runs s c n y (.max y true d a b) (·.setS d (BitVec.ofInt 64 (max x.toInt z.toInt)))

/-- AND, OR, XOR, ANDN, SHL, SHR, SAR and ROTR complete and write s[D] with R309's value; a shift amount is y mod 64. The logic is said bit
by bit, the shifts on exact integers. CLZ, CTZ, POPC, BSWAP, EXT, INS, SEXT and ZEXT complete and write s[D] with R310's value, said by what
it counts or where each bit goes. -/
def Obligations.logic_shifts_and_bits : Prop :=
  (∀ (s : State) (c n : Nat) (y : Sync) (d a : SReg) (b : SrcB) (x z : Word), Ready s c n y →
    x = (s.task c n).sreg a → z = (s.task c n).srcB b →
    (∃ r : Word, Runs s c n y (.and y d a b) (·.setS d r) ∧ ∀ i, r.getLsbD i = (x.getLsbD i && z.getLsbD i)) ∧
    (∃ r : Word, Runs s c n y (.or y d a b) (·.setS d r) ∧ ∀ i, r.getLsbD i = (x.getLsbD i || z.getLsbD i)) ∧
    (∃ r : Word, Runs s c n y (.xor y d a b) (·.setS d r) ∧ ∀ i, r.getLsbD i = (x.getLsbD i != z.getLsbD i)) ∧
    (∃ r : Word, Runs s c n y (.andn y d a b) (·.setS d r) ∧ ∀ i, r.getLsbD i = (x.getLsbD i && !z.getLsbD i)) ∧
    Runs s c n y (.shl y d a b) (·.setS d (BitVec.ofNat 64 (x.toNat * 2 ^ (z.toNat % 64)))) ∧
    Runs s c n y (.shr y d a b) (·.setS d (BitVec.ofNat 64 (x.toNat / 2 ^ (z.toNat % 64)))) ∧
    Runs s c n y (.sar y d a b) (·.setS d (BitVec.ofInt 64 (x.toInt.fdiv (2 ^ (z.toNat % 64))))) ∧
    Runs s c n y (.rotr y d a b)
      (·.setS d (BitVec.ofNat 64 (x.toNat / 2 ^ (z.toNat % 64) + x.toNat * 2 ^ (64 - z.toNat % 64) % 2 ^ 64)))) ∧
  (∀ (s : State) (c n : Nat) (y : Sync) (d a : SReg) (w : Width) (lsb wm1 : BitVec 6) (x old : Word) (v : Nat), Ready s c n y →
    x = (s.task c n).sreg a → old = (s.task c n).sreg d → v = x.toNat % 2 ^ w.bits →
    (∃ r : Nat, Runs s c n y (.clz y w d a) (·.setS d (BitVec.ofNat 64 r)) ∧
      (v = 0 → r = w.bits) ∧ (v ≠ 0 → r < w.bits ∧ 2 ^ (w.bits - 1 - r) ≤ v ∧ v < 2 ^ (w.bits - r))) ∧
    (∃ r : Nat, Runs s c n y (.ctz y w d a) (·.setS d (BitVec.ofNat 64 r)) ∧
      (v = 0 → r = w.bits) ∧ (v ≠ 0 → r < w.bits ∧ v % 2 ^ r = 0 ∧ v / 2 ^ r % 2 = 1)) ∧
    Runs s c n y (.popc y w d a) (·.setS d (BitVec.ofNat 64 ((List.range w.bits).filter v.testBit).length)) ∧
    (∃ r : Nat, Runs s c n y (.bswap y w d a) (·.setS d (BitVec.ofNat 64 r)) ∧ r < 2 ^ w.bits ∧
      ∀ i < w.bytes, r / 2 ^ (8 * i) % 256 = v / 2 ^ (8 * (w.bytes - 1 - i)) % 256) ∧
    Runs s c n y (.ext y false d a lsb wm1) (·.setS d (BitVec.ofNat 64 (x.toNat / 2 ^ lsb.toNat % 2 ^ (wm1.toNat + 1)))) ∧
    Runs s c n y (.ext y true d a lsb wm1)
      (·.setS d (BitVec.ofInt 64 (BitVec.ofNat (wm1.toNat + 1) (x.toNat / 2 ^ lsb.toNat)).toInt)) ∧
    (∃ r : Word, Runs s c n y (.ins y d a lsb wm1) (·.setS d r) ∧ ∀ i < 64, r.getLsbD i =
      if lsb.toNat ≤ i ∧ i < lsb.toNat + wm1.toNat + 1 then x.getLsbD (i - lsb.toNat) else old.getLsbD i) ∧
    Runs s c n y (.sext y w d a) (·.setS d (BitVec.ofInt 64 (BitVec.ofNat w.bits x.toNat).toInt)) ∧
    Runs s c n y (.zext y w d a) (·.setS d (BitVec.ofNat 64 v)))

/-- SEL, MOVI, MOVHI, MOV, CMP under each of the ten conditions, and PSET in each of its seven forms complete with R310's, R311's and R312's
results; a predicate written is p[D], and p7 stays true. -/
def Obligations.moves_and_compares : Prop :=
  ∀ (s : State) (c n : Nat) (y : Sync) (d a a' : SReg) (p q r : PReg) (b : SrcB) (m : BitVec 32) (bit : Bool) (k : Task) (x z : Word),
    Ready s c n y → k = s.task c n → x = k.sreg a → z = k.srcB b →
    Runs s c n y (.sel y d p a a') (·.setS d (if k.preg p = true then x else k.sreg a')) ∧
    Runs s c n y (.movi y d m) (·.setS d (BitVec.ofInt 64 m.toInt)) ∧
    Runs s c n y (.movhi y d m) (·.setS d (BitVec.ofNat 64 (m.toNat * 2 ^ 32 + (k.sreg d).toNat % 2 ^ 32))) ∧
    Runs s c n y (.mov y d a) (·.setS d x) ∧
    Runs s c n y (.cmp y .eq p a b) (·.setP p (decide (x.toNat = z.toNat))) ∧
    Runs s c n y (.cmp y .ne p a b) (·.setP p (decide (x.toNat ≠ z.toNat))) ∧
    Runs s c n y (.cmp y .lt p a b) (·.setP p (decide (x.toInt < z.toInt))) ∧
    Runs s c n y (.cmp y .ge p a b) (·.setP p (decide (x.toInt ≥ z.toInt))) ∧
    Runs s c n y (.cmp y .ltu p a b) (·.setP p (decide (x.toNat < z.toNat))) ∧
    Runs s c n y (.cmp y .geu p a b) (·.setP p (decide (x.toNat ≥ z.toNat))) ∧
    Runs s c n y (.cmp y .le p a b) (·.setP p (decide (x.toInt ≤ z.toInt))) ∧
    Runs s c n y (.cmp y .gt p a b) (·.setP p (decide (x.toInt > z.toInt))) ∧
    Runs s c n y (.cmp y .leu p a b) (·.setP p (decide (x.toNat ≤ z.toNat))) ∧
    Runs s c n y (.cmp y .gtu p a b) (·.setP p (decide (x.toNat > z.toNat))) ∧
    Runs s c n y (.pset y (.const p bit)) (·.setP p bit) ∧
    Runs s c n y (.pset y (.and p q r)) (·.setP p (k.preg q && k.preg r)) ∧
    Runs s c n y (.pset y (.or p q r)) (·.setP p (k.preg q || k.preg r)) ∧
    Runs s c n y (.pset y (.xor p q r)) (·.setP p (xor (k.preg q) (k.preg r))) ∧
    Runs s c n y (.pset y (.not p q)) (·.setP p (!k.preg q)) ∧
    Runs s c n y (.pset y (.andn p q r)) (·.setP p (k.preg q && !k.preg r)) ∧
    Runs s c n y (.pset y (.nz p a)) (·.setP p (decide (x.toNat ≠ 0)))

/-- FADD, FSUB, FMUL, FFMA, FDIV and FSQRT complete and write s[D] with one rounding, in the mode and saturation of the instruction and with
the stochastic draw SRDraw(0), of the value of the operation on the operands' values; a binary32 operand is the low half of its register.
FMIN and FMAX complete with the lesser and the greater operand, −0 below +0, and the canonical NaN when either is a NaN; FCMP with R314's
condition on the values; FCVT between unlike types with one rounding, between equal types with the value unchanged but for a NaN; ICVTF with
the integer rounded once; FCVTI with the rounded integer clamped under .sat and reduced modulo 2^w without it, a NaN giving 0 and an
infinity the range's end under .sat and 0 without it. -/
def Obligations.scalar_floating_point : Prop :=
  (∀ (s : State) (c n : Nat) (y : Sync) (t : FTy) (r : RMod) (d a b e : SReg) (k : Task) (x z w : Fl) (put : Fl → Word), Ready s c n y →
    k = s.task c n → x = (sfmt t).decode (k.fbits t a) → z = (sfmt t).decode (k.fbits t b) → w = (sfmt t).decode (k.fbits t e) →
    put = (fun v => BitVec.ofNat 64 ((sfmt t).encode v r.rm r.sat (srDraw k.seed k.iter k.isn 0))) →
    Runs s c n y (.fadd y t r d a b) (·.setS d (put (Fl.add r.rm x z))) ∧
    Runs s c n y (.fsub y t r d a b) (·.setS d (put (Fl.add r.rm x z.neg))) ∧
    Runs s c n y (.fmul y t r d a b) (·.setS d (put (Fl.mul x z))) ∧
    Runs s c n y (.ffma y t r d a b e) (·.setS d (put (Fl.add r.rm (Fl.mul x z) w))) ∧
    Runs s c n y (.fdiv y t r d a b) (·.setS d (put (Fl.div x z))) ∧
    Runs s c n y (.fsqrt y t r d a) (·.setS d (put x.sqrt))) ∧
  (∀ (s : State) (c n : Nat) (y : Sync) (t u : FTy) (it : IntTy) (r : RMod) (cc : FCond) (d a b : SReg) (p : PReg) (k : Task) (x z : Fl)
    (put : Fl → Word), Ready s c n y →
    k = s.task c n → x = (sfmt t).decode (k.fbits t a) → z = (sfmt t).decode (k.fbits t b) →
    put = (fun v => BitVec.ofNat 64 ((sfmt t).encode v r.rm r.sat (srDraw k.seed k.iter k.isn 0))) →
    (∃ v : Nat, Runs s c n y (.fmin y t d a b) (·.setS d (BitVec.ofNat 64 v)) ∧
      (x = .nan ∨ z = .nan → v = (sfmt t).nan) ∧
      (x ≠ .nan → z ≠ .nan → (x.ext < z.ext → v = k.fbits t a) ∧ (z.ext < x.ext → v = k.fbits t b) ∧
        (x.ext = z.ext → v = if (sfmt t).sign ≤ k.fbits t a then k.fbits t a else k.fbits t b))) ∧
    (∃ v : Nat, Runs s c n y (.fmax y t d a b) (·.setS d (BitVec.ofNat 64 v)) ∧
      (x = .nan ∨ z = .nan → v = (sfmt t).nan) ∧
      (x ≠ .nan → z ≠ .nan → (x.ext < z.ext → v = k.fbits t b) ∧ (z.ext < x.ext → v = k.fbits t a) ∧
        (x.ext = z.ext → v = if (sfmt t).sign ≤ k.fbits t a then k.fbits t b else k.fbits t a))) ∧
    (∃ v : Bool, Runs s c n y (.fcmp y t cc p a b) (·.setP p v) ∧ (v = true ↔ match cc with
      | .eq => x ≠ .nan ∧ z ≠ .nan ∧ x.ext = z.ext | .ne => x = .nan ∨ z = .nan ∨ x.ext ≠ z.ext
      | .lt => x ≠ .nan ∧ z ≠ .nan ∧ x.ext < z.ext | .le => x ≠ .nan ∧ z ≠ .nan ∧ x.ext ≤ z.ext
      | .gt => x ≠ .nan ∧ z ≠ .nan ∧ z.ext < x.ext | .ge => x ≠ .nan ∧ z ≠ .nan ∧ z.ext ≤ x.ext
      | .un => x = .nan ∨ z = .nan | .or => x ≠ .nan ∧ z ≠ .nan)) ∧
    (t ≠ u → Runs s c n y (.fcvt y u t r d a)
      (·.setS d (BitVec.ofNat 64 ((sfmt u).encode x r.rm r.sat (srDraw k.seed k.iter k.isn 0))))) ∧
    Runs s c n y (.fcvt y t t r d a) (·.setS d (BitVec.ofNat 64 (if x = .nan then (sfmt t).nan else k.fbits t a))) ∧
    Runs s c n y (.icvtf y t it r d a) (·.setS d (put (.ofInt (it.int ((k.sreg a).toNat % 2 ^ it.w.bits))))) ∧
    (∃ v : Int, Runs s c n y (.fcvti y it t r d a) (·.setS d (BitVec.ofInt 64 v)) ∧ it.minVal ≤ v ∧ v ≤ it.maxVal ∧
      (x = .nan → v = 0) ∧ (∀ neg, x = .inf neg → v = if r.sat then (if neg then it.minVal else it.maxVal) else 0) ∧
      (∀ neg m e st i, x = .fin neg m e st → i = roundInt r.rm neg m e st (srDraw k.seed k.iter k.isn 0) →
        (r.sat = true → v = max it.minVal (min i it.maxVal)) ∧ (r.sat = false → ((2 ^ it.w.bits : Nat) : Int) ∣ v - i))))

/-! ## Class SC: memory, control, special registers -/

/-- LD and LDA complete when the access translates to bytes that are neither locked nor poisoned: s[D] takes the little-endian bytes
extended by the type's signedness, a[D] the low 80 bits of 16 bytes. An acquire at .dev or wider empties the data cache and takes memory's
bytes (R241, R243, R320); any other load may be served by it: bytes of HBM are memory's, or those of the unit's line of them, which is 64 bytes
long and named by DPA and key slot (the model's reading of R243, log 70). PREF completes, changes no register and no byte of any core, and at
most brings the line of its address into the data cache: that of an address of the device half that translates, is not there yet and not
poisoned, and whose bank takes a read (when it asks is the model's choice, log 70). -/
def Obligations.loads : Prop :=
  (∀ (s s1 : State) (c n : Nat) (y : Sync) (t : IntTy) (o : OrdScope) (d : SReg) (da : AReg) (m : MemOp) (l : Pieces) (va : Addr)
    (x : Acc) (r : State × List Byte), Ready s c n y → va = (s.task c n).ea m →
    x = { scalarAcc c (s.task c n).asid true false false with dc := !decide ((o.ord = .acq ∨ o.ord = .ar) ∧ o.scope ≠ .core) } →
    r = (if (o.ord = .acq ∨ o.ord = .ar) ∧ o.scope ≠ .core then (s1.setCore c { s1.core c with dcache := [] }, s1.readAll l) else s1.loadAll c l) →
    (va.toNat % t.w.bytes = 0 →
      resolve (s.waited c n y) x va t.w.bytes = (s1, .ok l) →
      lockHit (s1.core c).queue c l = none → s1.firstPoisonAll l = none →
      exec (.ld y t o d m) s = .next (State.retired
        (r.1.modTask c n fun k => k.setS d (BitVec.ofInt 64 (t.int (ofBytes r.2)))) c n y)) ∧
    (va.toNat % 16 = 0 →
      resolve (s.waited c n y) x va 16 = (s1, .ok l) →
      lockHit (s1.core c).queue c l = none → s1.firstPoisonAll l = none →
      exec (.lda y o da m) s = .next (State.retired (r.1.modTask c n fun k => k.setA da (BitVec.ofNat 80 (ofBytes r.2))) c n y))) ∧
  (∀ (s : State) (c n : Nat) (y : Sync) (sc : Scope) (m : MemOp) (va : Addr), Ready s c n y → va = (s.task c n).ea m →
    ∃ t u, exec (.pref y sc m) s = .next t ∧ t = State.retired u c n y ∧ (t.task c n).noCount = (s.task c n).stepped.noCount ∧
      (∀ q, t.sem c q = s.semAfter c n y q) ∧ (∀ j, j ≠ n → t.task c j = s.task c j) ∧ (∀ d, d ≠ c → t.core d = s.core d) ∧
      t.core c = { s.core c with slots := (t.core c).slots, sems := (t.core c).sems, dcache := (t.core c).dcache } ∧
      (vaRegion va ≠ .device → u = s.waited c n y) ∧
      ∀ s1 r, xlate (s.waited c n y) (scalarAcc c (s.task c n).asid true false false) va 1 false = (s1, r) → vaRegion va = .device →
        u.hbm.bytes = s1.hbm.bytes ∧ u.host = s1.host ∧
        ((∀ d key, r ≠ .ok (.hbm d key)) → u = s1) ∧
        ∀ d key s2, r = .ok (.hbm d key) → (∀ x ∈ (s1.core c).dcache, x.line ≠ d / 64 ∨ x.key ≠ key) →
          s1.firstPoison (.hbm (d / 64 * 64) key) 64 = none → s1.useRow c d = some s2 →
          (u.core c).dcache.find? (fun x => x.line == d / 64 && x.key == key) =
            some { line := d / 64, key := key, bytes := s1.read (.hbm (d / 64 * 64) key) 64 }) ∧
  (∀ (s : State) (c d n : Nat) (key : Option (BitVec 12)) (p : Place), 0 < n → d / 64 = (d + n - 1) / 64 →
    (∀ t bs, s.loadAll c [(.hbm d key, n)] = (t, bs) →
      (bs = s.read (.hbm d key) n ∨ ∃ x, x ∈ (s.core c).dcache ∧ x.line = d / 64 ∧ x.key = key ∧ bs = (x.bytes.drop (d % 64)).take n) ∧
      ((∀ x ∈ (s.core c).dcache, x.line ≠ d / 64 ∨ x.key ≠ key) → bs = s.read (.hbm d key) n)) ∧
    ((∀ d key, p ≠ .hbm d key) → s.loadAll c [(p, n)] = (s, s.read p n)))

/-- ST and STA complete when the access translates to bytes that are not locked, a release at .fab or .sys once every acknowledgement has come,
and write the low bytes of s[D], or the 80-bit address zero-extended to 16 bytes, least significant byte first; every byte outside the
stored ones reads as before. A release that lacks an acknowledgement is held (R242, R249), in the state WAITING (the model's reading of R166,
log 47). -/
def Obligations.stores : Prop :=
  (∀ (s s1 : State) (c n : Nat) (y : Sync) (t : IntTy) (o : OrdScope) (d : SReg) (da : AReg) (m : MemOp) (l : Pieces) (va : Addr),
    Ready s c n y → s.memWf = true → va = (s.task c n).ea m → ((o.ord = .rel ∨ o.ord = .ar) → (o.scope = .fab ∨ o.scope = .sys) →
      s1.acked c n = true) →
    (va.toNat % t.w.bytes = 0 →
      resolve (s.waited c n y) (scalarAcc c (s.task c n).asid false true false) va t.w.bytes = (s1, .ok l) →
      lockHit (s1.core c).queue c l = none →
      ∃ u, exec (.st y t o d m) s = .next u ∧
        u = State.retired (s1.storeAll c l (toBytes ((s.task c n).sreg d).toNat t.w.bytes)) c n y ∧
        ∀ p : Place, (l.all fun x => !p.inPiece x) = true → u.byteAt p = s.byteAt p) ∧
    (va.toNat % 16 = 0 →
      resolve (s.waited c n y) (scalarAcc c (s.task c n).asid false true false) va 16 = (s1, .ok l) →
      lockHit (s1.core c).queue c l = none →
      ∃ u, exec (.sta y o da m) s = .next u ∧
        u = State.retired (s1.storeAll c l (toBytes ((s.task c n).areg da).toNat 16)) c n y ∧
        ∀ p : Place, (l.all fun x => !p.inPiece x) = true → u.byteAt p = s.byteAt p)) ∧
  (∀ (s s1 : State) (c n : Nat) (y : Sync) (t : IntTy) (o : OrdScope) (d : SReg) (da : AReg) (m : MemOp) (l : Pieces) (va : Addr),
    Ready s c n y → va = (s.task c n).ea m → o.ord = .rel ∨ o.ord = .ar → o.scope = .fab ∨ o.scope = .sys → s1.acked c n = false →
    lockHit (s1.core c).queue c l = none →
    (va.toNat % t.w.bytes = 0 →
      resolve (s.waited c n y) (scalarAcc c (s.task c n).asid false true false) va t.w.bytes = (s1, .ok l) →
      exec (.st y t o d m) s = .next (s1.holdTask c n .waiting .fence)) ∧
    (va.toNat % 16 = 0 →
      resolve (s.waited c n y) (scalarAcc c (s.task c n).asid false true false) va 16 = (s1, .ok l) →
      exec (.sta y o da m) s = .next (s1.holdTask c n .waiting .fence))) ∧
  (∀ (s : State) (c : Nat) (l : Pieces) (bs : List Byte), s.storeAll c l bs =
    (s.writeAll l bs).setCore c { (s.writeAll l bs).core c with dcache := ((s.storeAll c l bs).core c).dcache })

/-- ATOM and CAS complete when the access translates to bytes that are neither locked nor poisoned, a release at .fab or .sys once every
acknowledgement has come: the old value, which is memory's, goes to s[D], extended by the type's signedness, and R318's new value is
written; a CAS whose comparison fails writes nothing, and the unit's lines of those bytes take what it read, so that a later load there reads no
older write (R237, R240). The wait of a release is R242's, and an acquire at .dev or wider empties the data cache (R241, R243, R320); that the
cache holds 64-byte lines is the model's reading, log 70, and that the release waits as WAITING is log 47. -/
def Obligations.atomics : Prop :=
  ∀ (s s1 : State) (c n : Nat) (y : Sync) (t : IntTy) (o : OrdScope) (d i : SReg) (base : AReg) (disp : BitVec 28) (l : Pieces) (va : Addr)
    (old b e : Nat) (put : Option Nat → Host.Outcome State Fault Refusal) (inv : State → State), Ready s c n y →
    va = BitVec.ofInt 80 (((s.task c n).areg base).toNat + disp.toInt) → va.toNat % t.w.bytes = 0 →
    resolve (s.waited c n y) (scalarAcc c (s.task c n).asid true true false) va t.w.bytes = (s1, .ok l) →
    lockHit (s1.core c).queue c l = none → s1.firstPoisonAll l = none →
    ((o.ord = .rel ∨ o.ord = .ar) → (o.scope = .fab ∨ o.scope = .sys) → s1.acked c n = true) →
    old = ofBytes (s1.readAll l) → b = ((s.task c n).sreg i).toNat % 2 ^ t.w.bits → e = ((s.task c n).sreg d).toNat % 2 ^ t.w.bits →
    put = (fun v => .next (State.retired
      ((inv (match v with | some v => s1.storeAll c l (toBytes v t.w.bytes) | none => s1.refresh c l)).modTask c n fun k =>
        k.setS d (BitVec.ofInt 64 (t.int old))) c n y)) →
    inv = (fun u => if (o.ord = .acq ∨ o.ord = .ar) ∧ o.scope ≠ .core then u.setCore c { u.core c with dcache := [] } else u) →
    exec (.atom y .add t o d i base disp) s = put (some ((old + b) % 2 ^ t.w.bits)) ∧
    exec (.atom y .and t o d i base disp) s = put (some (old &&& b)) ∧
    exec (.atom y .or t o d i base disp) s = put (some (old ||| b)) ∧
    exec (.atom y .xor t o d i base disp) s = put (some (old ^^^ b)) ∧
    exec (.atom y .min t o d i base disp) s = put (some (if t.int old ≤ t.int b then old else b)) ∧
    exec (.atom y .max t o d i base disp) s = put (some (if t.int old ≤ t.int b then b else old)) ∧
    exec (.atom y .xchg t o d i base disp) s = put (some b) ∧
    exec (.cas y t o d i base disp) s = put (if old = e then some b else none) ∧
    (s1.refresh c l = { s1 with cores := (s1.refresh c l).cores } ∧ (∀ h, h ≠ c → (s1.refresh c l).core h = s1.core h) ∧
      (s1.refresh c l).core c = { s1.core c with dcache := ((s1.refresh c l).core c).dcache } ∧
      ∀ D key m, l = [(.hbm D key, m)] → 0 < m → D / 64 = (D + m - 1) / 64 → (∀ x ∈ (s1.core c).dcache, x.bytes.length = 64) →
        ((s1.refresh c l).loadAll c l).2 = s1.readAll l)

/-- A scalar access whose address is no multiple of its width traps ALIGN at issue with EADDR that address and EPC the instruction, before
any other check of its own. -/
def Obligations.scalar_alignment : Prop :=
  ∀ (s : State) (c n : Nat) (y : Sync) (t : IntTy) (op : AtomOp) (o : OrdScope) (d i : SReg) (da base : AReg) (m : MemOp) (disp : BitVec 28)
    (va at' : Addr), Ready s c n y → va = (s.task c n).ea m → at' = (s.task c n).areg base + disp.signExtend 80 →
    (va.toNat % t.w.bytes ≠ 0 →
      exec (.ld y t o d m) s = .next ((s.waited c n y).issueTrap c n cALIGN 0 va) ∧
      exec (.st y t o d m) s = .next ((s.waited c n y).issueTrap c n cALIGN 0 va)) ∧
    (va.toNat % 16 ≠ 0 →
      exec (.lda y o da m) s = .next ((s.waited c n y).issueTrap c n cALIGN 0 va) ∧
      exec (.sta y o da m) s = .next ((s.waited c n y).issueTrap c n cALIGN 0 va)) ∧
    (at'.toNat % t.w.bytes ≠ 0 →
      exec (.atom y op t o d i base disp) s = .next ((s.waited c n y).issueTrap c n cALIGN 0 at') ∧
      exec (.cas y t o d i base disp) s = .next ((s.waited c n y).issueTrap c n cALIGN 0 at'))

/-- BR, a BRP whose predicate holds, CALL, JMP, CALLA and RET move the PC to their target, which lies in the innermost loop's body and is a
multiple of 4; CALL and CALLA leave the return address. A target outside that body traps LOOPNEST and any other that is no multiple of 4 ALIGN,
before any effect. The body of a level is its `len` instructions from its start; a handler and a task without loops have no such limit. A BRP
whose predicate does not hold goes on. -/
def Obligations.control_transfers : Prop :=
  ∀ (s : State) (c n : Nat) (y : Sync) (x : BitVec 32) (a d : AReg) (p : Pred) (k : Task) (b r : Addr) (nest : State) (align : Addr → State),
    Ready s c n y → k = s.task c n → nest = (s.waited c n y).issueTrap c n cLOOPNEST 0 0 →
    align = (fun t => (s.waited c n y).issueTrap c n cALIGN 0 t) → b = BitVec.ofInt 80 (k.pc.toNat + 12 * x.toInt) → r = BitVec.ofNat 80 (k.pc.toNat + 12) →
    (b.toNat % 4 = 0 → k.inBody b = true →
      Jumps s c n y (.br y x) id b ∧ Jumps s c n y (.call y x) (·.setA 31 r) b ∧ (k.pred p = true → Jumps s c n y (.brp y p x) id b)) ∧
    (k.pred p = false → Runs s c n y (.brp y p x) id) ∧
    ((k.areg a).toNat % 4 = 0 → k.inBody (k.areg a) = true →
      Jumps s c n y (.jmp y a) id (k.areg a) ∧ Jumps s c n y (.ret y a) id (k.areg a) ∧ Jumps s c n y (.calla y d a) (·.setA d r) (k.areg a)) ∧
    (k.inBody b = false → exec (.br y x) s = .next nest ∧ exec (.call y x) s = .next nest ∧
      (k.pred p = true → exec (.brp y p x) s = .next nest)) ∧
    (k.inBody b = true → b.toNat % 4 ≠ 0 → exec (.br y x) s = .next (align b) ∧ exec (.call y x) s = .next (align b) ∧
      (k.pred p = true → exec (.brp y p x) s = .next (align b))) ∧
    (k.inBody (k.areg a) = false → exec (.jmp y a) s = .next nest ∧ exec (.ret y a) s = .next nest ∧ exec (.calla y d a) s = .next nest) ∧
    (k.inBody (k.areg a) = true → (k.areg a).toNat % 4 ≠ 0 → exec (.jmp y a) s = .next (align (k.areg a)) ∧
      exec (.ret y a) s = .next (align (k.areg a)) ∧ exec (.calla y d a) s = .next (align (k.areg a))) ∧
    (k.inh = true ∨ k.depth = 0 → ∀ t, k.inBody t = true) ∧
    (∀ l t, k.inh = false → k.depth ≠ 0 → l = k.loops.toArray.getD (k.depth - 1) {} →
      (k.inBody t = true ↔ (t.toNat + 2 ^ 80 - l.start.toNat) % 2 ^ 80 < 12 * l.len.toNat))

/-- LOOP, LOOPI and LOOPMB outside a handler complete below depth 4 when the body fits in the level around it: a count that is not 0 opens a
level with its count, body and start, and a count of 0 goes on past the body through Continue; else they trap LOOPNEST. LPBRK outside a
handler, of 1 to 4 levels that are open, ends its innermost levels when its predicate holds and continues at the end of the outermost of
them, and goes on when it does not hold. In a handler each is ILLEGAL. Continue at the end of an innermost body: with more than one trip left
the count falls by one and the PC returns to the body's start; on the last trip the level ends and the PC goes on, the level around it being
treated the same way; anywhere else it only sets the PC. -/
def Obligations.hardware_loops : Prop :=
  (∀ (s : State) (c n : Nat) (y : Sync) (a : SReg) (mb : MbReg) (x : BitVec 32) (len : BitVec 12) (k : Task) (i : Instr) (count : BitVec 32)
    (o : Loop) (nest : Host.Outcome State Fault Refusal), Ready s c n y → k = s.task c n → o = k.loops.toArray.getD (k.depth - 1) {} →
    nest = .next ((s.waited c n y).issueTrap c n cLOOPNEST 0 0) →
    (i = .loop y a len ∧ count.toNat = min (k.sreg a).toNat (2 ^ 32 - 1)) ∨ (i = .loopi y x len ∧ count = x) ∨
      (i = .loopmb y mb len ∧ count = Tab.get 0 (s.core c).mbox mb.val) →
    (k.inh = true → exec i s = .next (s.issueTrap c n cILLEGAL 0 0)) ∧
    (k.inh = false → k.depth = 4 → exec i s = nest) ∧
    (k.inh = false → 0 < k.depth → k.depth < 4 → o.start.toNat + 12 * o.len.toNat < k.pc.toNat + 12 * (len.toNat + 1) → exec i s = nest) ∧
    (k.inh = false → k.depth < 4 → k.depth = 0 ∨ k.pc.toNat + 12 * (len.toNat + 1) ≤ o.start.toNat + 12 * o.len.toNat →
      (count ≠ 0 → Jumps s c n y i (fun t => { t with
        depth := k.depth + 1, loops := t.loops.setIfInBounds k.depth { cnt := count, start := k.pc + 12, len := len } }) (k.pc + 12)) ∧
      (count = 0 → Continues s c n y i (fun t => { t with
        loops := t.loops.setIfInBounds k.depth { t.loops.toArray.getD k.depth {} with cnt := 0 } }) (k.pc + 12 * (len.setWidth 80 + 1))))) ∧
  (∀ (s : State) (c n : Nat) (y : Sync) (p : Pred) (j : BitVec 3) (k : Task), Ready s c n y → k = s.task c n →
    (k.inh = true ∨ j = 0 ∨ 4 < j.toNat → exec (.lpbrk y p j) s = .next (s.issueTrap c n cILLEGAL 0 0)) ∧
    (k.inh = false → j ≠ 0 → j.toNat ≤ 4 →
      (k.pred p = false → Runs s c n y (.lpbrk y p j) id) ∧
      (k.pred p = true → k.depth < j.toNat → exec (.lpbrk y p j) s = .next ((s.waited c n y).issueTrap c n cLOOPNEST 0 0)) ∧
      (∀ d, k.pred p = true → k.depth ≤ 4 → k.depth = d + j.toNat → ∃ L : Vector Loop 4,
        (∀ e, e < 4 → L.toArray.getD e {} = if d ≤ e ∧ e < k.depth then { k.loops.toArray.getD e {} with cnt := 0 }
          else k.loops.toArray.getD e {}) ∧
        Continues s c n y (.lpbrk y p j) (fun t => { t with depth := d, loops := L }) (k.loops.toArray.getD d {}).endAddr))) ∧
  (∀ (k : Task) (d : Nat) (pc : Addr), k.inh = true ∨ k.depth = 0 ∨
    (k.depth = d + 1 ∧ d < 4 ∧ pc ≠ (k.loops.toArray.getD d {}).start + 12 * (k.loops.toArray.getD d {}).len.setWidth 80) →
    k.cont pc = { k with pc := pc }) ∧
  (∀ (k : Task) (d : Nat) (l : Loop) (pc : Addr), k.inh = false → k.depth = d + 1 → d < 4 → k.loops.toArray.getD d {} = l → pc = l.endAddr →
    (l.cnt ≠ 1 → (k.cont pc).pc = l.start ∧ (k.cont pc).depth = d + 1 ∧ ((k.cont pc).loops.toArray.getD d {}).cnt = l.cnt - 1 ∧
      ∀ j, j ≠ d → (k.cont pc).loops.toArray.getD j {} = k.loops.toArray.getD j {}) ∧
    (l.cnt = 1 → k.cont pc =
      { k with depth := d, loops := k.loops.setIfInBounds d { l with cnt := 0 } }.cont pc))

/-- SRD reads every special register, MBRD a mailbox, and NOP nothing: each completes with the register's value in its destination. SWR
completes on every register that may be written: the exception registers in a handler, ESW and ECAUSE keeping their read-only bits,
WAITLIMIT, which restarts the wait count in force, and a word-aligned HBASE always, and AUTOIDLE of MXWAKE; any other SWR traps ILLEGAL
before its wait. MBWR writes a mailbox. (Which bits of ESW and ECAUSE stay, by R12 and R178, and the restart of the count are the model's reading,
log 37; GATED of a waking array, which reads 0, and of a gang whose members differ is its choice, log 69.) -/
def Obligations.special_registers : Prop :=
  (∀ (s : State) (c n : Nat) (y : Sync) (d : SReg) (a : AReg) (mb : MbReg) (k : Task) (m : Core), Ready s c n y → k = s.task c n → m = s.core c →
    Runs s c n y (.srd y (.s d .cycle)) (·.setS d (BitVec.ofNat 64 ((s.cluster (c / 18)).cycles - m.cycHeld))) ∧
    Runs s c n y (.srd y (.s d .corenum)) (·.setS d (BitVec.ofNat 64 c)) ∧
    Runs s c n y (.srd y (.s d .devid)) (·.setS d (BitVec.ofNat 64 s.devid.toNat)) ∧
    Runs s c n y (.srd y (.s d .taskid)) (·.setS d (BitVec.ofNat 64 n)) ∧
    Runs s c n y (.srd y (.s d .sweepid)) (·.setS d (BitVec.ofNat 64 k.sweep.toNat)) ∧
    Runs s c n y (.srd y (.s d .cls)) (·.setS d (BitVec.ofNat 64 k.cls.toNat)) ∧
    Runs s c n y (.srd y (.s d .esw)) (·.setS d k.esw) ∧
    Runs s c n y (.srd y (.s d .ecause)) (·.setS d k.ecause) ∧
    Runs s c n y (.srd y (.s d .ecp)) (·.setS d k.ecp) ∧
    Runs s c n y (.srd y (.s d .esp)) (·.setS d k.esp) ∧
    Runs s c n y (.srd y (.s d .waitlimit)) (·.setS d k.waitlimit) ∧
    Runs s c n y (.srd y (.s d .mxwake))
      (·.setS d (BitVec.ofNat 64 ((if s.arrayGate c = .gated then 2 ^ 32 else 0) + m.autoIdle.toNat * 2 ^ 16 + m.mxWake.toNat))) ∧
    Runs s c n y (.srd y (.s d .capcores)) (·.setS d s.capCores) ∧
    Runs s c n y (.srd y (.s d .capgang)) (·.setS d 0x0000000007408007) ∧
    Runs s c n y (.srd y (.s d .caprowq)) (·.setS d 0x00000020200C1004) ∧
    Runs s c n y (.srd y (.a a .epc)) (·.setA a k.epc) ∧
    Runs s c n y (.srd y (.a a .eaddr)) (·.setA a k.eaddr) ∧
    Runs s c n y (.srd y (.a a .hbase)) (·.setA a k.hbase) ∧
    Runs s c n y (.mbrd y d mb) (·.setS d (BitVec.ofNat 64 (Tab.get (0 : BitVec 32) m.mbox mb.val).toNat)) ∧
    Runs s c n y (.nop y) id) ∧
  (∀ (s : State) (c n : Nat) (y : Sync) (r : SReg) (a : AReg) (mb : MbReg) (k : Task) (x : SprS), Ready s c n y → k = s.task c n →
    (k.inh = true →
      Runs s c n y (.swr y (.s r .esw)) (fun t => { t with esw := (t.esw.extractLsb' 39 25) ++ (t.sreg r).extractLsb' 0 39 }) ∧
      Runs s c n y (.swr y (.s r .ecause)) (fun t => { t with ecause := BitVec.ofNat 64 ((t.sreg r).toNat % 2 ^ 16) }) ∧
      Runs s c n y (.swr y (.s r .ecp)) (fun t => { t with ecp := t.sreg r }) ∧
      Runs s c n y (.swr y (.s r .esp)) (fun t => { t with esp := t.sreg r }) ∧
      Runs s c n y (.swr y (.a a .epc)) (fun t => { t with epc := t.areg a }) ∧
      Runs s c n y (.swr y (.a a .eaddr)) (fun t => { t with eaddr := t.areg a })) ∧
    exec (.swr y (.s r .waitlimit)) s = .next (State.retired ((s.waited c n y).modTask c n fun t =>
      { t with waitlimit := k.sreg r, waitAcc := 0, waitFrom := t.waitFrom.map fun _ => s.now c }) c n y) ∧
    ((k.areg a).toNat % 4 = 0 → Runs s c n y (.swr y (.a a .hbase)) (fun t => { t with hbase := t.areg a })) ∧
    ((k.areg a).toNat % 4 ≠ 0 → exec (.swr y (.a a .hbase)) s = .next (s.issueTrap c n cILLEGAL 0 0)) ∧
    ((k.sreg r).toNat < 2 ^ 33 → exec (.swr y (.s r .mxwake)) s = .next (State.retired
      ((s.waited c n y).modCore c fun m => { m with autoIdle := BitVec.ofNat 16 ((k.sreg r).toNat / 2 ^ 16) }) c n y)) ∧
    (2 ^ 33 ≤ (k.sreg r).toNat → exec (.swr y (.s r .mxwake)) s = .next (s.issueTrap c n cILLEGAL 0 0)) ∧
    (k.inh = false → exec (.swr y (.a a .epc)) s = .next (s.issueTrap c n cILLEGAL 0 0) ∧
      exec (.swr y (.a a .eaddr)) s = .next (s.issueTrap c n cILLEGAL 0 0)) ∧
    (k.inh = false → x = .esw ∨ x = .ecause ∨ x = .ecp ∨ x = .esp → exec (.swr y (.s r x)) s = .next (s.issueTrap c n cILLEGAL 0 0)) ∧
    (x = .cycle ∨ x = .corenum ∨ x = .devid ∨ x = .taskid ∨ x = .sweepid ∨ x = .cls ∨ x = .capcores ∨ x = .capgang ∨ x = .caprowq →
      exec (.swr y (.s r x)) s = .next (s.issueTrap c n cILLEGAL 0 0)) ∧
    exec (.mbwr y mb r) s = .next (State.retired
      ((s.waited c n y).modCore c fun m => { m with mbox := Tab.set m.mbox mb.val (BitVec.ofNat 32 (k.sreg r).toNat) }) c n y))

/-- ACHK completes: an empty range passes and one above 2^32 bytes fails without a check; otherwise p[D] says whether the probe of the range
passes, page by page, none executable in the scratchpad, from where an earlier issue of the instruction has come. A reply of the host IOMMU
and a bank that takes no read are waited for, READY (the model's reading of R166, log 47), and the probe goes on behind the pages that have
passed. No register of exceptions changes and no trap is raised. -/
def Obligations.access_probe : Prop :=
  ∀ (s s1 : State) (c n : Nat) (y : Sync) (q : AccKind) (p : PReg) (a : AReg) (b : SReg) (k : Task) (len done : Nat) (A : Addr) (X : Acc),
    Ready s c n y → k = s.task c n → len = (k.sreg b).toNat → X = scalarAcc c k.asid (q == .read) (q == .write) (q == .exec) →
    done = k.probed → A = k.areg a + BitVec.ofNat 80 done →
    (len = 0 → Runs s c n y (.achk y q p a b) (·.setP p true)) ∧
    (2 ^ 32 < len → Runs s c n y (.achk y q p a b) (·.setP p false)) ∧
    (0 < len → len ≤ 2 ^ 32 →
      probe X (len / 4096 + 2) (s.waited c n y) A (len - done) done = (s1, .pass) →
      exec (.achk y q p a b) s = .next (State.retired (s1.modTask c n fun t => { t.setP p true with wait := .none }) c n y)) ∧
    (0 < len → len ≤ 2 ^ 32 →
      probe X (len / 4096 + 2) (s.waited c n y) A (len - done) done = (s1, .fail) →
      exec (.achk y q p a b) s = .next (State.retired (s1.modTask c n fun t => { t.setP p false with wait := .none }) c n y)) ∧
    (∀ passed w, 0 < len → len ≤ 2 ^ 32 →
      probe X (len / 4096 + 2) (s.waited c n y) A (len - done) done = (s1, .wait passed w) →
      exec (.achk y q p a b) s = .next (s1.holdTask c n .ready (.probe passed w))) ∧
    (∀ passed w, k.wait = .probe passed w → done = passed) ∧ ((∀ passed w, k.wait ≠ .probe passed w) → done = 0) ∧
    (∀ f u v va m j, 0 < m → (vaRegion va ≠ .scratch ∨ X.x = false) →
      (∀ l, xlate u X va (min m (4096 - va.toNat % 4096)) false = (v, .ok l) →
        probe X (f + 1) u va m j =
          probe X f v (va + BitVec.ofNat 80 (min m (4096 - va.toNat % 4096))) (m - min m (4096 - va.toNat % 4096))
            (j + min m (4096 - va.toNat % 4096))) ∧
      (∀ pasid page, xlate u X va (min m (4096 - va.toNat % 4096)) false = (v, .error (.xlt pasid page)) →
        probe X (f + 1) u va m j = (v, .wait j (.inr (pasid, page)))) ∧
      (∀ bank, xlate u X va (min m (4096 - va.toNat % 4096)) false = (v, .error (.bank bank)) →
        probe X (f + 1) u va m j = (v, .wait j (.inl bank))) ∧
      (∀ e, xlate u X va (min m (4096 - va.toNat % 4096)) false = (v, .error e) → (∀ pasid page, e ≠ .xlt pasid page) →
        (∀ bank, e ≠ .bank bank) → probe X (f + 1) u va m j = (v, .fail))) ∧
    (∀ f u va m j, 0 < m → vaRegion va = .scratch → X.x = true → probe X (f + 1) u va m j = (u, .fail)) ∧
    (∀ f u va j, probe X f u va 0 j = (u, .pass))

/-! ## Class SY -/

/-- SEMWAIT takes its whole count when it is there and holds its task WAITING when it is not, SEMSIG adds its count, SEMSET sets the count
clamped to 65,535 with OVF telling whether it was, SEMRD reads OVF, EXT and the count as it was before the instruction's own wait, SEMCFG
sets EXT in a privileged task and clears it in any; the first two take a count of 0 too. A SEMWAIT whose semaphore has EXT set is an acquire
at .dev, which empties the data cache, whatever count it takes (R241, R243, R336); so does a wait whose count includes a signal from outside
the unit (R246; that the semaphore keeps a mark of such a signal until its count is used up is the model's reading, log 70). An SC or SY
instruction whose SYNC wait is not met holds its task WAITING on that semaphore and count, and takes nothing. LandCount counts the bytes,
and each whole target reached advances the generation and takes the target off; a target of 0 only counts, and a reserved flag makes the
word BAD. LWINIT writes the word's 16 bytes, and sets EXT of its semaphore under SIG; LWRD reads count and generation; LWWAIT completes with
the generation when it has been reached, modulo 2^16, and waits when it has not. LWRD and LWWAIT are acquires at .dev and empty the data
cache (R241, R243, R248, R336). All three need the unit's own scratchpad. The model's own record of the words that have counted bytes from
outside the unit (log 70), which LWINIT clears, bears on nothing here. -/
def Obligations.semaphores_and_landing_words : Prop :=
  (∀ (s s1 : State) (c n : Nat) (y : Sync) (q : BitVec 8) (j : Cnt) (d : SReg) (v : Nat) (x : Sem) (w : BitVec 16), Ready s c n y →
    s1 = s.waited c n y → v = (s.task c n).cnt j → x = s1.sem c q.toNat → w = x.count + (s1.task c n).tookOf q →
    (v ≤ x.count.toNat → exec (.semwait y q j) s = .next (State.retired
      (if v = 0 then (if x.ext then s1.setCore c { s1.core c with dcache := [] } else s1) else s1.setCore c { s1.core c with
        sems := Tab.set (s1.core c).sems q.toNat { x with
          count := BitVec.ofNat 16 (x.count.toNat - v), dev := x.dev && decide (x.count.toNat ≠ v) },
        dcache := if x.dev || x.ext then [] else (s1.core c).dcache }) c n y)) ∧
    (x.count.toNat < v → exec (.semwait y q j) s = .next (s1.holdTask c n .waiting (.sem q v))) ∧
    exec (.semsig y q j) s = .next (State.retired
      (if v = 0 then s1 else s1.setSem c q.toNat
        { x with count := BitVec.ofNat 16 (min (x.count.toNat + v) 65535), ovf := x.ovf || decide (65535 < x.count.toNat + v) }) c n y) ∧
    exec (.semset y q j) s = .next (State.retired
      (s1.setSem c q.toNat { x with count := BitVec.ofNat 16 (min v 65535), ovf := decide (65535 < v), dev := false }) c n y) ∧
    exec (.semrd y d q) s = .next (State.retired (s1.modTask c n fun t => t.setS d
      (BitVec.ofNat 64 (w.toNat + (if x.ovf then 2 ^ 16 else 0) + (if x.ext then 2 ^ 17 else 0)))) c n y) ∧
    ((s.task c n).took = none → w = (s.sem c q.toNat).count) ∧
    ((s.task c n).priv = true → exec (.semcfg y q true) s = .next (State.retired (s1.setSem c q.toNat { x with ext := true }) c n y)) ∧
    ((s.task c n).priv = false → exec (.semcfg y q true) s = .next (s.issueTrap c n cILLEGAL 0 0)) ∧
    exec (.semcfg y q false) s = .next (State.retired (s1.setSem c q.toNat { x with ext := false }) c n y)) ∧
  (∀ (s : State) (c n : Nat) (y : Sync) (d a : SReg) (b : SrcB) (q : BitVec 8), s.cur = .task c n → (s.task c n).took = none →
    (s.sem c y.wsem.toNat).count.toNat < y.wcnt.toNat →
    ∃ u, exec (.add y d a b) s = .next u ∧ exec (.nop y) s = .next u ∧ exec (.semrd y d q) s = .next u ∧
      (u.task c n).st = .waiting ∧ (u.task c n).wait = .sync y.wsem y.wcnt.toNat ∧ (u.task c n).pc = (s.task c n).pc ∧
      (u.task c n).s = (s.task c n).s ∧ (u.task c n).isn = (s.task c n).isn ∧ (∀ r, u.sem c r = s.sem c r) ∧ OnlyTask s c n u) ∧
  (∀ (w : LandingWord) (k : Nat), w.count < 2 ^ 48 →
    (w.flags.getLsbD 7 = true → w.add k = (w, 0)) ∧
    (w.flags.getLsbD 7 = false → w.flags.extractLsb' 1 6 ≠ 0 → w.add k = ({ w with flags := w.flags ||| 0x80 }, 0)) ∧
    (w.flags.getLsbD 7 = false → w.flags.extractLsb' 1 6 = 0 → w.target = 0 →
      w.add k = ({ w with count := min (w.count + k) (2 ^ 48 - 1) }, 0)) ∧
    (w.flags.getLsbD 7 = false → w.flags.extractLsb' 1 6 = 0 → 0 < w.target → w.count + k < 2 ^ 48 →
      (w.add k).1.count + (w.add k).2 * w.target = w.count + k ∧ (w.add k).1.count < w.target ∧
      (w.add k).1.gen = w.gen + BitVec.ofNat 16 (w.add k).2 ∧ (w.add k).1.target = w.target ∧ (w.add k).1.sem = w.sem)) ∧
  (∀ (s s1 : State) (c n : Nat) (y : Sync) (d b g : SReg) (a : AReg) (q : BitVec 8) (j : Cnt) (l : Pieces) (va : Addr) (k : Task)
    (w : LandingWord) (u : State), Ready s c n y → k = s.task c n → va = k.areg a → va.toNat % 16 = 0 → vaRegion va = .scratch →
    lockHit (s1.core c).queue c l = none →
    (resolve (s.waited c n y) (scalarAcc c k.asid false true false) va 16 = (s1, .ok l) →
      exec (.lwinit y a b g none) s = .next (State.retired ((s1.writeAll l
        (toBytes ((k.sreg b).toNat % 2 ^ 48) 6 ++ toBytes 0 6 ++ toBytes ((k.sreg g).toNat % 2 ^ 16) 2 ++ [0, 0])).modCore c
          fun m => { m with lwDev := m.lwDev.del (va.toNat % 2 ^ 26) }) c n y) ∧
      ∃ s2, s2 = (s1.writeAll l
        (toBytes ((k.sreg b).toNat % 2 ^ 48) 6 ++ toBytes 0 6 ++ toBytes ((k.sreg g).toNat % 2 ^ 16) 2 ++ [q, 1])).modCore c
          (fun m => { m with lwDev := m.lwDev.del (va.toNat % 2 ^ 26) }) ∧
        exec (.lwinit y a b g (some q)) s =
          .next (State.retired (s2.setSem c q.toNat { s2.sem c q.toNat with ext := true }) c n y)) ∧
    (resolve (s.waited c n y) (scalarAcc c k.asid true false false) va 16 = (s1, .ok l) → s1.firstPoisonAll l = none →
      w = LandingWord.ofBits (BitVec.ofNat 128 (ofBytes (s1.readAll l))) → w.flags.getLsbD 7 = false →
      u = s1.setCore c { s1.core c with dcache := [] } →
      exec (.lwrd y d a) s = .next (State.retired (u.modTask c n (·.setS d (BitVec.ofNat 64 (w.count * 2 ^ 16 + w.gen.toNat)))) c n y) ∧
      ((w.gen.toNat + 2 ^ 16 - k.cnt j % 2 ^ 16) % 2 ^ 16 < 2 ^ 15 →
        exec (.lwwait y d a j) s = .next (State.retired (u.modTask c n (·.setS d (BitVec.ofNat 64 w.gen.toNat))) c n y)) ∧
      (2 ^ 15 ≤ (w.gen.toNat + 2 ^ 16 - k.cnt j % 2 ^ 16) % 2 ^ 16 →
        exec (.lwwait y d a j) s = .next (s1.holdTask c n .waiting (.landing va (BitVec.ofNat 16 (k.cnt j)))))))

/-- QJOIN completes when no entry of the task is in a named engine. FENCE completes when it needs no acknowledgement or all have come, and, for
a release beyond .core, no stack is in self-refresh; an acquire beyond .core empties the data cache. Both hold the task WAITING otherwise.
MWAIT completes when the value read, extended by its type, meets its condition against s[B], and writes that value to s[D]; when it does not,
the task waits on the address; its read is an acquire, which empties the data cache beyond .core, and the unit's lines of the bytes take what
it read (R237, R340). What a fence orders is R241 to R243; that a release beyond .core waits for any stack in self-refresh is the model's reading
of R112, log 61, and the states in which it waits are log 47. -/
def Obligations.joins_fences_and_mwait : Prop :=
  (∀ (s s1 : State) (c n : Nat) (y : Sync) (m : BitVec 5) (o : FenceOrd) (sc : Scope), Ready s c n y → s1 = s.waited c n y →
    (((s.core c).queue.all fun q => !(q.slot == n && m.getLsbD (q.eng.code - 1))) = true → Runs s c n y (.qjoin y m) id) ∧
    (((s.core c).queue.any fun q => q.slot == n && m.getLsbD (q.eng.code - 1)) = true →
      exec (.qjoin y m) s = .next (s1.holdTask c n .waiting (.join m))) ∧
    (o = .acq ∨ sc = .core ∨ ((sc = .dev ∨ s.acked c n = true) ∧ ∀ e ∈ s.hbm.stackRegs, e.2.sref = false) →
      exec (.fence y o sc) s = .next (State.retired
        (if o ≠ .rel ∧ sc ≠ .core then s1.setCore c { s1.core c with dcache := [] } else s1) c n y)) ∧
    (o ≠ .acq → sc = .fab ∨ sc = .sys → s.acked c n = false → exec (.fence y o sc) s = .next (s1.holdTask c n .waiting .fence)) ∧
    (∀ e ∈ s.hbm.stackRegs, e.2.sref = true → o ≠ .acq → sc ≠ .core → sc = .dev ∨ s.acked c n = true →
      exec (.fence y o sc) s = .next (s1.holdTask c n .waiting .selfRefresh)) ∧
    (s.acked c n = true ↔ (∀ q ∈ (s.core c).queue, q.slot = n → Instr.remoteWrite q.instr = false) ∧
      ∀ z ∈ s.outst, z.by c n (s.task c n).sweep = true → z.kind.remoteWrite = false)) ∧
  (∀ (s s1 s2 : State) (c n : Nat) (y : Sync) (t : IntTy) (cc : Cond) (sc : Scope) (d b : SReg) (a : AReg) (l : Pieces) (v : Word) (va : Addr),
    Ready s c n y → va = (s.task c n).areg a → va.toNat % t.w.bytes = 0 →
    resolve (s.waited c n y) (scalarAcc c (s.task c n).asid true false false) va t.w.bytes = (s1, .ok l) →
    lockHit (s1.core c).queue c l = none → s1.firstPoisonAll l = none → v = BitVec.ofInt 64 (t.int (ofBytes (s1.readAll l))) →
    s2 = (if sc = .core then s1.refresh c l else (s1.refresh c l).setCore c { (s1.refresh c l).core c with dcache := [] }) →
    (cc.eval v ((s.task c n).sreg b) = true →
      exec (.mwait y t cc sc d a b) s = .next (State.retired (s2.modTask c n (·.setS d v)) c n y)) ∧
    (cc.eval v ((s.task c n).sreg b) = false →
      exec (.mwait y t cc sc d a b) s = .next (s2.holdTask c n .waiting (.mwait va t cc ((s.task c n).sreg b)))))

/-- Generation g has been reached for target t when ((g − t) mod 65,536) < 32,768: a generation reaches itself, 0xFFFE does not reach 2, and
3 does. -/
def Obligations.generations_reached : Prop :=
  (∀ g t : BitVec 16, reached g t = true ↔ (g.toNat + 65536 - t.toNat) % 65536 < 32768) ∧
  (∀ g : BitVec 16, reached g g = true) ∧ reached 0xFFFE 2 = false ∧ reached 3 2 = true

/-- BARINIT makes the named slots that hold tasks the members and clears the arrivals, the phase kept; BARARR returns the phase and,
for a member, arrives; when the arrived mask then equals the member mask the phase turns and the arrivals clear; BARWAIT completes when the phase is no longer the one it names. -/
def Obligations.barriers : Prop :=
  ∀ (s s1 : State) (c n : Nat) (y : Sync) (b : BarReg) (m : BitVec 8) (r d : SReg) (o : Barrier), Ready s c n y → n < 8 →
    s1 = s.waited c n y → o = s1.bar c b.val →
    exec (.barinit y b (.imm m)) s =
      .next (State.retired (s1.setBar c b.val { member := m &&& s1.slotMask c, arrived := 0, phase := o.phase }) c n y) ∧
    exec (.barinit y b (.reg r)) s =
      .next (State.retired (s1.setBar c b.val { member := ((s.task c n).sreg r).extractLsb' 0 8 &&& s1.slotMask c, arrived := 0, phase := o.phase }) c n y) ∧
    (∃ (o' : Barrier) (m' : BitVec 8), exec (.bararr y d b) s =
        .next (State.retired ((s1.setBar c b.val o').modTask c n (·.setS d (if o.phase then 1 else 0))) c n y) ∧
      (∀ j < 8, m'.getLsbD j = (o.arrived.getLsbD j || (decide (j = n) && o.member.getLsbD n))) ∧
      o' = if m' = o.member then { o with arrived := 0, phase := !o.phase } else { o with arrived := m' }) ∧
    (o.phase ≠ ((s.task c n).sreg r).getLsbD 0 ∨ o.member = 0 → Runs s c n y (.barwait y b r) id) ∧
    (o.phase = ((s.task c n).sreg r).getLsbD 0 → o.member ≠ 0 →
      exec (.barwait y b r) s = .next (s1.holdTask c n .waiting (.barrier b o.phase)))

/-- SPAWN of a record that is readable and passes its checks accepts a child sweep and returns its number; one that fails returns all ones
in the low half and its NOTIFY word says why; the unit's lines of the record take what was read (R237). YIELD completes, SETCLASS writes a class no lower than the sweep's ceiling, and TEXIT of a
quiet task completes its iteration. -/
def Obligations.sweep_instructions : Prop :=
  ∀ (s s1 s2 : State) (c n : Nat) (y : Sync) (d r : SReg) (a : AReg) (x : BitVec 2) (l : Pieces) (k : Task) (w : SweepRec) (code : BitVec 8)
    (id : BitVec 32), Ready s c n y → k = s.task c n →
    (s.poolFull true = false → (k.areg a).toNat % 128 = 0 →
      resolve (s.waited c n y) (scalarAcc c k.asid true false false) (k.areg a) 128 = (s1, .ok l) →
      lockHit (s1.core c).queue c l = none → s1.firstPoisonAll l = none → w = SweepRec.parse (s1.readAll l) → s2 = s1.refresh c l →
      (checkRec s2 w true k.ceil k.priv = none → id = (s2.accept w k.asid (.child k.sweep)).2 →
        exec (.spawn y d a) s = .next (State.retired
          ((s2.accept w k.asid (.child k.sweep)).1.modTask c n (·.setS d (BitVec.ofNat 64 id.toNat))) c n y)) ∧
      (checkRec s2 w true k.ceil k.priv = some code →
        exec (.spawn y d a) s = .next (State.retired
          ((s2.writeWord k.asid w.notify code 0 0).modTask c n (·.setS d 0xFFFFFFFF)) c n y))) ∧
    (s.poolFull true = true → exec (.spawn y d a) s = .next ((s.waited c n y).issueTrap c n cSPAWNFULL 0 0)) ∧
    Runs s c n y (.yieldTask y) (fun t => { t with yielded := true }) ∧
    Runs s c n y (.setclass y d (.imm x)) (fun t => { t with cls := BitVec.ofNat 2 (max x.toNat t.ceil.toNat) }.setS d
      (BitVec.ofNat 64 (max x.toNat t.ceil.toNat))) ∧
    Runs s c n y (.setclass y d (.reg r)) (fun t => { t with cls := BitVec.ofNat 2 (max (min (t.sreg r).toNat 3) t.ceil.toNat) }.setS d
      (BitVec.ofNat 64 (max (min (t.sreg r).toNat 3) t.ceil.toNat))) ∧
    (s1 = (s.waited c n y).discardFrozen c n → s1.taskQuiet c n = true →
      exec (.texit y) s = .next (((s1.finishIteration c n).issued c n).signal c y.ssem y.sinc.toNat)) ∧
    (s1 = (s.waited c n y).discardFrozen c n → s1.taskQuiet c n = false →
      exec (.texit y) s = .next (s1.holdTask c n .waiting .texit))

/-- CROPEN opens a region that records its handler, ID, ISN, INH and loop depth, at most four deep; CRCLOSE of the innermost region's ID closes
it once nothing issued in it is under way. A POISON consumption or three-way MXCHECK whose command lies inside the innermost open region
unwinds the task: ECAUSE holds the sub-code and the code, EADDR the address, ECP and ESP the positions of the command, EPC the PC of the
next instruction; the PC is the region's handler, INH and the loop depth are the region's, the region is closed, no wait is in force, no
bank stays reserved for the task, and every other register keeps its value. Of the entries issued in the region those that had not started,
or were frozen or held, are gone, and those in flight are muted: they neither signal nor count. Entries outside it, and every other task,
are untouched. The trap is recorded with outcome 1 in both logs. LD and LDA consume at their address, a fetch at the first poisoned byte,
and an engine's entry at its positions (R202, R203; that a remote load's or copy's entry that was parked on a page counts as not in flight
is the model's reading, log 63). -/
def Obligations.containment_regions : Prop :=
  (∀ (s s1 : State) (c n : Nat) (y : Sync) (a : AReg) (id : BitVec 16) (k : Task) (r : Region), Ready s c n y → k = s.task c n →
    s1 = s.waited c n y →
    (k.regions.length ≠ 4 → (k.areg a).toNat % 4 = 0 → Runs s c n y (.cropen y a id) (fun t =>
      { t with regions := t.regions ++ [{ handler := t.areg a, id := id, mark := t.isn, inh := t.inh, depth := t.depth }] })) ∧
    (k.regions.length ≠ 4 → (k.areg a).toNat % 4 ≠ 0 → exec (.cropen y a id) s = .next (s1.issueTrap c n cALIGN 0 (k.areg a))) ∧
    (k.regions.length = 4 → exec (.cropen y a id) s = .next (s1.issueTrap c n cCRGN 0 (id.setWidth 80))) ∧
    (k.regions.getLast? = some r → r.id = id → s.regionClear c n k.regions.length = true →
      Runs s c n y (.crclose y id) (fun t => { t with regions := t.regions.dropLast })) ∧
    (k.regions.getLast? = some r → r.id = id → s.regionClear c n k.regions.length = false →
      exec (.crclose y id) s = .next (s1.holdTask c n .waiting (.crclose k.regions.length))) ∧
    (k.regions = [] ∨ (k.regions.getLast? = some r ∧ r.id ≠ id) →
      exec (.crclose y id) s = .next (s1.issueTrap c n cCRGN 0 (id.setWidth 80)))) ∧
  (∀ (s u v : State) (c n rdepth eng comm spec : Nat) (code sub : BitVec 8) (addr : Addr) (k t : Task) (r : Region),
    k = s.task c n → k.st ≠ .idle → k.regions.getLast? = some r → k.regions.length ≤ rdepth →
    u = s.consume c n rdepth code sub addr eng comm spec → t = u.task c n →
    v = (s.trapEvent c n code sub 1 addr eng).tideEvent 0x01 c ([code, sub] ++ toBytes n 1 ++ [1] ++ toBytes addr.toNat 8) →
    t.ecause = BitVec.ofNat 64 (sub.toNat * 256 + code.toNat) ∧ t.eaddr = addr ∧ t.ecp = BitVec.ofNat 64 comm ∧
    t.esp = BitVec.ofNat 64 spec ∧ t.epc = k.pc ∧ t.pc = r.handler ∧ t.inh = r.inh ∧ t.depth = r.depth ∧ t.regions = k.regions.dropLast ∧
    t.st = .ready ∧ t.wait = .none ∧ t.took = none ∧ t.s = k.s ∧ t.a = k.a ∧ t.p = k.p ∧ t.v = k.v ∧ t.m = k.m ∧ t.loops = k.loops ∧
    t.esw = k.esw ∧ t.priv = k.priv ∧ t.isn = k.isn ∧ t.hbase = k.hbase ∧
    (∀ q ∈ (u.core c).queue, q.slot = n → k.regions.length ≤ q.rdepth →
      q.mute = true ∧ q.started = true ∧ q.frozen = false ∧ q.pageHeld = none) ∧
    (∀ q, q.slot ≠ n ∨ q.rdepth < k.regions.length → (q ∈ (u.core c).queue ↔ q ∈ (s.core c).queue)) ∧
    (∀ b ∈ (u.core c).resv, b.2 ≠ n) ∧ (∀ d m, d ≠ c ∨ m ≠ n → u.task d m = s.task d m) ∧
    u.strand = v.strand ∧ u.tide = v.tide) ∧
  (∀ (s s1 : State) (c n i : Nat) (y : Sync) (t : IntTy) (o : OrdScope) (d : SReg) (da : AReg) (m : MemOp) (l : Pieces) (va : Addr) (x : Acc),
    Ready s c n y → va = (s.task c n).ea m →
    x = { scalarAcc c (s.task c n).asid true false false with dc := !decide ((o.ord = .acq ∨ o.ord = .ar) ∧ o.scope ≠ .core) } →
    lockHit (s1.core c).queue c l = none → s1.firstPoisonAll l = some i →
    (va.toNat % t.w.bytes = 0 → resolve (s.waited c n y) x va t.w.bytes = (s1, .ok l) →
      exec (.ld y t o d m) s = .next (s1.consume c n (s1.task c n).regions.length cPOISON 0 va 0 0 0)) ∧
    (va.toNat % 16 = 0 → resolve (s.waited c n y) x va 16 = (s1, .ok l) →
      exec (.lda y o da m) s = .next (s1.consume c n (s1.task c n).regions.length cPOISON 0 va 0 0 0))) ∧
  (∀ (s v : State) (c n i : Nat) (k : Task) (l : Pieces), k = s.task c n →
    (∀ x ∈ (s.core c).imem, x.1 ≠ k.pc.toNat) → vaRegion k.pc ≠ .scratch →
    resolve s (scalarAcc c k.asid false false true) k.pc 12 = (v, .ok l) → v.firstPoisonAll l = some i →
    fetch s c n = .error (v.consume c n k.regions.length cPOISON 0 (k.pc + BitVec.ofNat 80 i) 0 0 0)) ∧
  (∀ (s : State) (c : Nat) (q : Entry) (r : PRes) (code : BitVec 8) (addr : Addr), r.out = .poison code addr →
    s = ((((r.s.modEntry c q r.commit).dropEntries c q.same).silence c q).release c q.slot q.instr) →
    settle c q r = s.consume c q.slot q.rdepth code 0 addr q.eng.code r.comm r.spec)

/-- Taking a trap outside a handler with HBASE set: ESW holds PRIV and no frozen command, EPC the given address, ECAUSE the code and
sub-code, EADDR the address, ECP and ESP zero; INH is set, the PC is HBASE, and every other register keeps its value. A trap in a handler,
or with HBASE zero, is not delivered: the strandline records it so, the task is TRAPPED until its sweep, ended with TASKTRAP, lets its slot
go. A count that the instruction's wait had taken is returned first. -/
def Obligations.trap_entry : Prop :=
  (∀ (s : State) (c n : Nat) (code sub : BitVec 8) (addr epc : Addr) (k u : Task), k = s.task c n → k.inh = false → k.hbase ≠ 0 →
    u = (s.enterTrap c n { code := code, sub := sub, addr := addr, epc := epc }).task c n →
    u.esw = (if k.priv then 2 else 0) ∧ u.epc = epc ∧ u.ecause = BitVec.ofNat 64 (sub.toNat * 256 + code.toNat) ∧ u.eaddr = addr ∧
    u.ecp = 0 ∧ u.esp = 0 ∧ u.inh = true ∧ u.pc = k.hbase ∧ u.st = .ready ∧ u.took = none ∧
    u.s = k.s ∧ u.a = k.a ∧ u.p = k.p ∧ u.v = k.v ∧ u.m = k.m ∧ u.priv = k.priv ∧ u.loops = k.loops ∧ u.depth = k.depth ∧
    u.regions = k.regions ∧ u.isn = k.isn ∧ u.hbase = k.hbase) ∧
  (∀ (s u : State) (c n : Nat) (x : Trap) (e : Nat), u = s.returnTook c n → (s.task c n).inh = true ∨ (s.task c n).hbase = 0 →
    e = (match x.eng with | some e => e.code | none => 0) →
    s.enterTrap c n x =
      ((u.trapEvent c n x.code x.sub 2 x.addr e).modTask c n fun t => { t with st := .trapped }).endSweep (s.task c n).sweep 1 0x10) ∧
  (∀ (s u : State) (c n : Nat) (q : BitVec 8) (j : Nat), u = s.returnTook c n → (s.task c n).pastSync = false →
    ((s.task c n).took = none → u = s) ∧
    ((s.task c n).took = some (q, j) → (u.task c n) = { s.task c n with took := none } ∧
      (∀ r, u.sem c r = if r = q.toNat ∧ j ≠ 0 then { s.sem c r with
        count := BitVec.ofNat 16 (min ((s.sem c r).count.toNat + j) 65535), ovf := (s.sem c r).ovf || decide (65535 < (s.sem c r).count.toNat + j) }
        else s.sem c r) ∧ OnlyTask s c n u))

/-- TRAP enters the handler with SOFT or BREAK, EADDR the immediate and EPC where Continue leads, its number used up; a BREAK under
HALTONBRK of its context halts the context instead. ECALL parks its task with the service and argument (R355). HALT in a privileged task halts
its context (R304, R354). (That the number is used up is the model's reading, log 19, and how the task goes on after a halting BREAK or HALT is
log 49.) -/
def Obligations.system_calls : Prop :=
  ∀ (s s1 : State) (c n : Nat) (y : Sync) (code svc : BitVec 16) (d a : SReg) (k : Task), Ready s c n y → k = s.task c n →
    s1 = s.waited c n y →
    (k.inh = false → k.hbase ≠ 0 → ∃ u, exec (.trap y false code) s = .next u ∧
      (u.task c n).pc = k.hbase ∧ (u.task c n).inh = true ∧ (u.task c n).ecause = 0x18 ∧ (u.task c n).eaddr = code.setWidth 80 ∧
      (u.task c n).epc = (k.cont (k.pc + 12)).pc ∧ (u.task c n).esw = (if k.priv then 2 else 0) ∧ (u.task c n).isn = k.isn + 1 ∧
      (u.task c n).s = k.s) ∧
    (k.inh = false → k.hbase ≠ 0 → (s.dbg.haltonbrk && s.dbg.asid == k.asid) = false → ∃ u, exec (.trap y true code) s = .next u ∧
      (u.task c n).pc = k.hbase ∧ (u.task c n).inh = true ∧ (u.task c n).ecause = 0x17 ∧ (u.task c n).eaddr = code.setWidth 80 ∧
      (u.task c n).epc = (k.cont (k.pc + 12)).pc ∧ (u.task c n).esw = (if k.priv then 2 else 0) ∧ (u.task c n).isn = k.isn + 1 ∧
      (u.task c n).s = k.s) ∧
    (∀ w, w = (s1.returnTook c n).modTask c n (fun t => { t.cont (t.pc + 12) with isn := t.isn + 1 }) →
      exec (.trap y false code) s = .next (w.enterTrap c n { code := 0x18, sub := 0, addr := code.setWidth 80, epc := (w.task c n).pc }) ∧
      ((s.dbg.haltonbrk && s.dbg.asid == k.asid) = false → exec (.trap y true code) s =
        .next (w.enterTrap c n { code := 0x17, sub := 0, addr := code.setWidth 80, epc := (w.task c n).pc }))) ∧
    ((s.dbg.haltonbrk && s.dbg.asid == k.asid) = true →
      exec (.trap y true code) s = .next (State.retired (s1.haltContext k.asid) c n { y with sinc := 0 })) ∧
    exec (.ecall y d a svc) s =
      .next ((s1.modTask c n fun t => { t with took := some (0, 0) }).holdTask c n .parked (.ecall y d svc (k.sreg a))) ∧
    (k.priv = true → s.dbg.halt = false → exec (.halt y) s = .next (State.retired (s1.haltContext k.asid) c n y)) ∧
    (k.priv = true → s.dbg.halt = true → s.dbg.asid ≠ k.asid → exec (.halt y) s = .next (s1.holdTask c n .waiting .halt)) ∧
    (k.priv = true → s.dbg.halt = true → s.dbg.asid = k.asid → Runs s c n y (.halt y) id) ∧
    (k.priv = false → exec (.halt y) s = .next (s.issueTrap c n cILLEGAL 0 0))

/-- TRET in a handler whose ESW is good restores the PC from EPC and PRIV from ESW and leaves the handler; the frozen command is resumed from
ECP or discarded, as RESUME of ESW says (R177, R183), and a remote load under way parks its task again (R185). A bad ESW traps BADSTATUS, and
TRET outside a handler is ILLEGAL. (That the command is the one that was frozen at the trap's entry is the model's reading, log 19.) -/
def Obligations.trap_return : Prop :=
  ∀ (s s1 : State) (c n : Nat) (y : Sync) (k : Task) (home : State → State), Ready s c n y → k = s.task c n → s1 = s.waited c n y →
    home = (fun u => u.modTask c n fun t => { t with priv := k.esw.getLsbD 1, inh := false, frozenEng := none, pc := k.epc }) →
    (k.inh = true → k.eswBad = false →
      exec (.tret y) s = .next ((((s1.trapReturn c n).issued c n).repark c n).signal c y.ssem y.sinc.toNat)) ∧
    (k.esw.getLsbD 39 = false → s1.trapReturn c n = home s1) ∧
    (∀ e q, k.esw.getLsbD 39 = true → k.frozenEng = some e → s1.frozenEntry c n e = some q →
      (k.esw.getLsbD 38 = true → s1.trapReturn c n = home ((s1.modEntries c (fun x => x.slot == n && x.isn == q.isn && x.eng == q.eng)
        fun x => { x with frozen := false, started := false, comm := k.ecp.toNat, spec := k.ecp.toNat, hdr := none, srcs := none,
                          segs := none }).reserve c n q.instr)) ∧
      (k.esw.getLsbD 38 = false → s1.trapReturn c n = home (s1.discardEntry c q true))) ∧
    (k.inh = true → k.eswBad = false → ((s.core c).queue.all fun q => !(q.slot == n)) = true → ∃ u, exec (.tret y) s = .next u ∧
      (u.task c n).noCount = { k.gone.noCount with pc := k.epc, inh := false, priv := k.esw.getLsbD 1, frozenEng := none } ∧
      OnlyTask s c n u) ∧
    (k.inh = true → k.eswBad = true → exec (.tret y) s = .next ((s.waited c n y).issueTrap c n cBADSTATUS 0 0)) ∧
    (k.inh = false → exec (.tret y) s = .next (s.issueTrap c n cILLEGAL 0 0)) ∧
    (k.eswBad = true ↔ k.esw.toNat / 2 ^ 48 ≠ 0 ∨ k.esw.toNat / 4 % 2 ^ 36 ≠ 0 ∨ k.esw.getLsbD 0 = true ∨
      (k.esw.getLsbD 1 = true ∧ k.priv = false))

/-! ## Class VX -/

/-- VADD, VSUB, VMUL, VFMA, VFMS, VDIV and VSQRT, VRCP, VRSQ, VEXP2 and VLOG2 complete in a ready VX engine: each active element within the
width is the operation's value rounded once, with the draw of its own number under .sr; the others keep their value. (The value of VEXP2 and VLOG2, which is not rational, is computed to
320 bits before it is rounded: the model's reading, log 11.) -/
def Obligations.vector_float_arithmetic : Prop :=
  ∀ (s : State) (c n : Nat) (y : Sync) (t : VTy) (m : Mod) (d a b e : VReg) (k : Task) (x z w : Nat → Fl)
    (S : Instr → (Nat → Fl) → Prop), EngineReady s c n y .vx → k = s.task c n → k.width ≤ 128 →
    x = k.vval t a → z = k.vval t b → w = k.vval t e →
    S = (fun i F => Sets s c n y i (k.LanesSet · t.bits m.mask d
      fun j => (vfmt t).encode (F j) m.rm m.sat (srDraw k.seed k.iter k.isn j))) →
    S (.vadd y t m d a b) (fun j => Fl.add m.rm (x j) (z j)) ∧
    S (.vsub y t m d a b) (fun j => Fl.add m.rm (x j) (z j).neg) ∧
    S (.vmul y t m d a b) (fun j => Fl.mul (x j) (z j)) ∧
    S (.vfma y t m d a b e) (fun j => Fl.add m.rm (Fl.mul (x j) (z j)) (w j)) ∧
    S (.vfms y t m d a b e) (fun j => Fl.add m.rm (Fl.mul (x j) (z j)) (w j).neg) ∧
    S (.vdiv y t m d a b) (fun j => Fl.div (x j) (z j)) ∧
    S (.vsqrt y t m d a) (fun j => (x j).sqrt) ∧
    S (.vrcp y t m d a) (fun j => (x j).rcp) ∧
    S (.vrsq y t m d a) (fun j => (x j).rsq) ∧
    S (.vexp2 y t m d a) (fun j => (x j).exp2) ∧
    S (.vlog2 y t m d a) (fun j => (x j).log2)

/-- VMIN, VMAX, VABS, VNEG and the integer lanes VIADD, VISUB, VIMUL, VIMAD, VIMIN and VIMAX complete: each active element within the width
is the exact result, clamped first under .sat, and narrowed to the element. -/
def Obligations.vector_integer_arithmetic : Prop :=
  ∀ (s : State) (c n : Nat) (y : Sync) (f : VTy) (t : IntTy) (m : Option MReg) (sat : Bool) (d a b e : VReg) (k : Task) (x z w : Nat → Int)
    (S : Instr → (Nat → Int) → Prop) (V : Instr → (Nat → Nat) → Prop), EngineReady s c n y .vx → k = s.task c n → k.width ≤ 128 →
    x = (fun j => t.int (elem t.w.bits (k.vreg a) j)) → z = (fun j => t.int (elem t.w.bits (k.vreg b) j)) →
    w = (fun j => t.int (elem t.w.bits (k.vreg e) j)) →
    S = (fun i F => Sets s c n y i (k.LanesSet · t.w.bits m d
      fun j => ((if sat then max (min (F j) t.maxVal) t.minVal else F j) % (2 ^ t.w.bits : Nat)).toNat)) →
    V = (fun i F => Sets s c n y i (k.LanesSet · f.bits m d F)) →
    S (.viadd y t m sat d a b) (fun j => x j + z j) ∧
    S (.visub y t m sat d a b) (fun j => x j - z j) ∧
    S (.vimul y t m sat d a b) (fun j => x j * z j) ∧
    S (.vimad y t m sat d a b e) (fun j => x j * z j + w j) ∧
    (sat = false → S (.vimin y t m d a b) (fun j => min (x j) (z j)) ∧ S (.vimax y t m d a b) (fun j => max (x j) (z j))) ∧
    V (.vmin y f m d a b) (fun j => (vfmt f).minimum (elem f.bits (k.vreg a) j) (elem f.bits (k.vreg b) j)) ∧
    V (.vmax y f m d a b) (fun j => (vfmt f).maximum (elem f.bits (k.vreg a) j) (elem f.bits (k.vreg b) j)) ∧
    V (.vabs y f m d a) (fun j => elem f.bits (k.vreg a) j % 2 ^ (f.bits - 1)) ∧
    V (.vneg y f m d a) (fun j => (elem f.bits (k.vreg a) j + 2 ^ (f.bits - 1)) % 2 ^ f.bits)

/-- VAND, VOR, VXOR, VNOT, VSHL, VSHR, VSAR, VPOPC, VCLMUL, VBCAST, VINSR, VPERM, VROT, VSEL and VMOV complete with R366's, R368's and
R371's elements; a shift amount is the element of B modulo the width, and VCLMUL's product has no carries. -/
def Obligations.vector_bits_and_moves : Prop :=
  ∀ (s : State) (c n : Nat) (y : Sync) (t : IntTy) (m : Option MReg) (q : MReg) (hi : Bool) (d a b : VReg) (sa sb : SReg) (k : Task)
    (x z : Nat → Nat) (w : Nat) (V : Instr → (Nat → Nat) → Prop), EngineReady s c n y .vx → k = s.task c n → k.width ≤ 128 → w = t.w.bits →
    x = elem w (k.vreg a) → z = elem w (k.vreg b) →
    V = (fun i F => Sets s c n y i (k.LanesSet · w m d F)) →
    V (.vand y t m d a b) (fun j => x j &&& z j) ∧
    V (.vor y t m d a b) (fun j => x j ||| z j) ∧
    V (.vxor y t m d a b) (fun j => x j ^^^ z j) ∧
    V (.vnot y t m d a) (fun j => 2 ^ w - 1 - x j) ∧
    V (.vshl y t m d a b) (fun j => x j * 2 ^ (z j % w)) ∧
    V (.vshr y t m d a b) (fun j => x j / 2 ^ (z j % w)) ∧
    V (.vsar y t m d a b) (fun j => (((BitVec.ofNat w (x j)).toInt / (2 ^ (z j % w) : Nat)) % (2 ^ w : Nat)).toNat) ∧
    V (.vpopc y t m d a) (fun j => ((List.range w).filter fun i => (x j).testBit i).length) ∧
    V (.vbcast y t m d sa) (fun _ => (k.sreg sa).toNat) ∧
    V (.vperm y t m d a b) (fun j => x (z j % (4096 / w))) ∧
    V (.vrot y t m d a sb) (fun j => x ((j + (k.sreg sb).toNat) % (32 * k.width / w))) ∧
    V (.vmov y t m d a) x ∧
    (m = none → V (.vsel y t q d a b) (fun j => if k.active w (some q) j then x j else z j)) ∧
    Sets s c n y (.vinsr y t d sa sb) (fun u => u = { k with v := u.v } ∧ (∀ r, r ≠ d → u.vreg r = k.vreg r) ∧
      ∀ j, j < 4096 / w → elem w (u.vreg d) j =
        if j = (k.sreg sb).toNat % (4096 / w) then (k.sreg sa).toNat % 2 ^ w else elem w (k.vreg d) j) ∧
    Sets s c n y (.vclmul y hi m d a b) (k.LanesSet · 64 m d fun j =>
      if hi then clmul (elem 64 (k.vreg a) j) (elem 64 (k.vreg b) j) 64 / 2 ^ 64 else clmul (elem 64 (k.vreg a) j) (elem 64 (k.vreg b) j) 64) ∧
    (∀ u v i, (clmul u v 64).testBit i =
      (((List.range 64).filter fun j => v.testBit j && decide (j ≤ i) && u.testBit (i - j)).length % 2 == 1))

/-- VFCMP and VICMP complete: within the width the governing bit of each element is its condition where the element is active and 0 where it
is not, at width 64 in both its bits, and every other bit of every mask register keeps its value (R359). VEXTR writes s[D] with the extended element. VCVT, VPACK and VUNPACK complete: VCVT converts each active element within the width,
VPACK narrows both sources into one register and VUNPACK widens half of its source, both over the whole register. -/
def Obligations.vector_compares_and_conversions : Prop :=
  (∀ (s : State) (c n : Nat) (y : Sync) (f : VTy) (t : IntTy) (m : Option MReg) (cc : Cond) (fc : FCond) (g : MReg) (a b : VReg) (d sb : SReg)
    (k : Task), EngineReady s c n y .vx → k = s.task c n → k.width ≤ 128 →
    Sets s c n y (.vfcmp y f fc m g a b) (k.MaskSet · f.bits g (32 * k.width / f.bits)
      fun e => k.active f.bits m e && fcond fc (k.vval f a e) (k.vval f b e)) ∧
    Sets s c n y (.vicmp y t cc m g a b) (k.MaskSet · t.w.bits g (32 * k.width / t.w.bits)
      fun e => k.active t.w.bits m e && condAt t.w cc (elem t.w.bits (k.vreg a) e) (elem t.w.bits (k.vreg b) e)) ∧
    Runs s c n y (.vextr y t d a sb)
      (·.setS d (BitVec.ofInt 64 (t.int (elem t.w.bits (k.vreg a) ((k.sreg sb).toNat % (4096 / t.w.bits))))))) ∧
  (∀ (s : State) (c n : Nat) (y : Sync) (dst src : BitVec 8) (t : IntTy) (m : Mod) (sat hi : Bool) (d a b : VReg) (k : Task) (w h : Nat),
    EngineReady s c n y .vx → k = s.task c n → k.width ≤ 128 → w = t.w.bits → h = 4096 / (2 * w) →
    Sets s c n y (.vcvt y dst src m d a) (fun u => u = { k with v := u.v } ∧ (∀ r, r ≠ d → u.vreg r = k.vreg r) ∧
      ∀ e, e < 4096 / fmtBits dst → elem (fmtBits dst) (u.vreg d) e =
        if e < 32 * k.width / cvtBits dst src ∧ k.active (cvtBits dst src) m.mask e = true then
          convert dst src (elem (fmtBits src) (k.vreg a) e) m.rm m.sat (srDraw k.seed k.iter k.isn e) % 2 ^ fmtBits dst
        else elem (fmtBits dst) (k.vreg d) e) ∧
    Sets s c n y (.vpack y t sat d a b) (fun u => u = { k with v := u.v } ∧ (∀ r, r ≠ d → u.vreg r = k.vreg r) ∧
      ∀ e, e < 4096 / w → elem w (u.vreg d) e = narrowInt t
        ((fun v : Nat => if t.signed then (BitVec.ofNat (2 * w) v).toInt else (v : Int)) (if e < h then elem (2 * w) (k.vreg a) e else elem (2 * w) (k.vreg b) (e - h))) sat) ∧
    (w ≠ 64 → Sets s c n y (.vunpack y t hi d a) (fun u => u = { k with v := u.v } ∧ (∀ r, r ≠ d → u.vreg r = k.vreg r) ∧
      ∀ e, e < h → elem (2 * w) (u.vreg d) e = (t.int (elem w (k.vreg a) (if hi then e + h else e)) % (2 ^ (2 * w) : Nat)).toNat)))

/-- VRED and VDOT complete with the tree's value in element 0 of the destination, VSCAN with the inclusive scan; MLOG, MPOPC, MSETL and
VSETW complete with R376's masks and count and R377's width, at most 128; MSETL leaves every bit outside the group of its destination as it is
(R359). (That an inactive pair of VDOT is an identity leaf of the tree, whose node passes the other side on, is the model's reading, log 55.) -/
def Obligations.vector_reductions_and_masks : Prop :=
  ∀ (s : State) (c n : Nat) (y : Sync) (op : RedOp) (m : Mod) (w : Width) (v : VReg) (a b : VReg) (p q r : MReg) (d sa : SReg) (i : BitVec 32)
    (k : Task) (one : Nat → Nat → Task → Prop), EngineReady s c n y .vx → k = s.task c n → k.width ≤ 128 →
    one = (fun w' x u => u = { k with v := u.v } ∧ (∀ r, r ≠ v → u.vreg r = k.vreg r) ∧
      ∀ e, e < 4096 / w' → elem w' (u.vreg v) e = if e = 0 then x % 2 ^ w' else elem w' (k.vreg v) e) →
    Sets s c n y (.vred y op m v a) (one op.bits (redOut op m (treeReduce (redNode op m) (redIdent op) 9
      (k.leaves op m k.width (elem op.bits (k.vreg a)))))) ∧
    Sets s c n y (.vdot y op m v a b) (one op.bits (redOut op m (treeReduce (redNode op m) (redIdent op) 9
      (k.leaves op m k.width fun e => dotProd op m (elem op.bits (k.vreg a) e) (elem op.bits (k.vreg b) e))))) ∧
    Sets s c n y (.vscan y op m v a) (fun u => u = { k with v := u.v } ∧ (∀ r, r ≠ v → u.vreg r = k.vreg r) ∧
      ∀ e, e < 4096 / op.bits → elem op.bits (u.vreg v) e = if e < 32 * k.width / op.bits then
        redOut op m ((scanAll (redNode op m) 10 0 (k.leaves op m k.width (elem op.bits (k.vreg a)))).getD e 0) % 2 ^ op.bits
        else elem op.bits (k.vreg v) e) ∧
    Runs s c n y (.mlog y (.and p q r)) (fun t => t.setM p (t.mreg q &&& t.mreg r)) ∧
    Runs s c n y (.mlog y (.or p q r)) (fun t => t.setM p (t.mreg q ||| t.mreg r)) ∧
    Runs s c n y (.mlog y (.xor p q r)) (fun t => t.setM p (t.mreg q ^^^ t.mreg r)) ∧
    Runs s c n y (.mlog y (.andn p q r)) (fun t => t.setM p (t.mreg q &&& ~~~t.mreg r)) ∧
    Runs s c n y (.mlog y (.not p q)) (fun t => t.setM p (~~~t.mreg q)) ∧
    Runs s c n y (.mlog y (.set p)) (·.setM p (BitVec.allOnes 128)) ∧
    Runs s c n y (.mlog y (.clr p)) (·.setM p 0) ∧
    Runs s c n y (.mpopc y d p)
      (·.setS d (BitVec.ofNat 64 ((List.range k.width).filter fun j => (k.mreg p).getLsbD j).length)) ∧
    Sets s c n y (.msetl y w p sa) (k.MaskSet · w.bits p (4096 / w.bits) fun e => decide (e < (k.sreg sa).toNat)) ∧
    Runs s c n y (.vsetw y d (.reg sa)) (fun t => { t.setS d (BitVec.ofNat 64 (min (t.sreg sa).toNat 128)) with width := min (t.sreg sa).toNat 128 }) ∧
    Runs s c n y (.vsetw y d (.imm i)) (fun t => { t.setS d (BitVec.ofNat 64 (min i.toNat 128)) with width := min i.toNat 128 })

/-- VLD, VST, VLDS, VSTS, VGATH and VSCAT complete in a ready VX engine when each active element's access goes through: the elements go in
order, element e at R373's address, and an inactive one is not accessed. -/
def Obligations.vector_memory : Prop :=
  ∀ (s u : State) (c n : Nat) (y : Sync) (w : Width) (d : VReg) (m : MemOp) (g : GatherOp) (k : Task) (N : Nat) (x : Issue)
    (unit stride gather : Task → Nat → Addr),
    EngineReady s c n y .vx → k = s.task c n → k.width ≤ 128 → N = 32 * k.width / w.bits →
    unit = (fun _ e => k.ea m + BitVec.ofNat 80 (e * w.bytes)) →
    stride = (fun _ (e : Nat) => BitVec.ofInt 80 ((k.areg m.base).toNat + m.disp.toInt + ((e : Nat) : Int) * ((k.sreg m.index).toInt * 2 ^ m.scale.toNat))) →
    gather = (fun t e => BitVec.ofInt 80 ((k.areg g.base).toNat +
      (BitVec.ofNat w.bits (elem w.bits (t.vreg g.index) e)).toInt * 2 ^ g.scale.toNat + g.disp.toInt)) →
    (x = vx (.vld y w d m) (memCaps m) → ElemLoads s c n y x w d unit u → exec (.vld y w d m) s = .next (x.ended s c n y u N)) ∧
    (x = vx (.vst y w d m) (memCaps m) → ElemStores s c n y x w d unit u → exec (.vst y w d m) s = .next (x.ended s c n y u N)) ∧
    (x = vx (.vlds y w d m) (memCaps m) → ElemLoads s c n y x w d stride u → exec (.vlds y w d m) s = .next (x.ended s c n y u N)) ∧
    (x = vx (.vsts y w d m) (memCaps m) → ElemStores s c n y x w d stride u → exec (.vsts y w d m) s = .next (x.ended s c n y u N)) ∧
    (x = vx (.vgath y w d g) (gatherCaps g) → ElemLoads s c n y x w d gather u →
      exec (.vgath y w d g) s = .next (x.ended s c n y u N)) ∧
    (x = vx (.vscat y w d g) (gatherCaps g) → ElemStores s c n y x w d gather u → exec (.vscat y w d g) s = .next (x.ended s c n y u N))

/-! ## Classes TX and MX -/

/-- TXLOAD, TXRUN, TXV, TXCFG and TXRD complete when the image is valid and every access goes through: entries are moved 8 bytes at a time,
each element is interpolated with its roundings and written, a valid header is written whole, and TXRD gives index and value. -/
def Obligations.table_instructions : Prop :=
  ∀ (s t u : State) (c n : Nat) (y : Sync) (d a tb : AReg) (vd va : VReg) (sd sa sb : SReg) (dst src : VTy) (sat : Bool) (m : Option MReg)
    (k : Task) (h : TxHead) (x : Issue) (q : Entry) (rd wr : State → Acc),
    EngineReady s c n y .tx → k = s.task c n → k.width ≤ 128 → q = x.started s c n y →
    rd = (fun v => txAcc v c q true false) → wr = (fun v => txAcc v c q false true) →
    (x = tx (.txload y d a) (fun t => [capA t d, capA t a]) → (k.areg a).toNat % 16 = 0 → OwnImage (x.begun s c n y) c q (k.areg d) →
      HeaderRead (x.begun s c n y) c q (k.areg a) h t →
      h.ok = true → h.inside t c (k.areg d) = true →
      Path (h.n + 2) t u (fun j v z => ∃ v1 l1 v2 l2, Through v c q (rd v) (k.areg a + BitVec.ofNat 80 (8 * j)) 8 v1 l1 ∧
        Through v1 c q (wr v1) (k.areg d + BitVec.ofNat 80 (8 * j)) 8 v2 l2 ∧ z = v2.writeAllTag (v2.readAll l1) (v2.poisonAt l1) 0 l2) →
      exec (.txload y d a) s = .next (x.ended s c n y u (h.n + 2))) ∧
    (x = tx (.txrun y dst src sat d a sb tb) (fun t => [capA t d, capA t a, capS t sb, capA t tb]) →
      (k.areg a).toNat % (src.bits / 8) = 0 → (k.areg d).toNat % (dst.bits / 8) = 0 → 0 < (k.sreg sb).toNat → (k.sreg sb).toNat < 2 ^ 32 →
      ValidImage (x.begun s c n y) c q (k.areg tb) h t →
      Path (k.sreg sb).toNat t u (fun e v z => ∃ v1 l1 v2 l2 v3 i r,
        Through v c q (rd v) (k.areg a + BitVec.ofNat 80 (e * (src.bits / 8))) (src.bits / 8) v1 l1 ∧
        Through v1 c q (wr v1) (k.areg d + BitVec.ofNat 80 (e * (dst.bits / 8))) (dst.bits / 8) v2 l2 ∧ v2.firstPoisonAll l1 = none ∧
        Interpolates v2 c q (k.areg tb) h ((vfmt src).decode (ofBytes (v2.readAll l1))) v3 i r ∧
        z = v3.writeAll l2 (toBytes ((vfmt dst).encode (Fmt.f32.decode r) .rne sat 0) (dst.bits / 8))) →
      exec (.txrun y dst src sat d a sb tb) s = .next (x.ended s c n y u (k.sreg sb).toNat)) ∧
    (x = tx (.txrun y dst src sat d a sb tb) (fun t => [capA t d, capA t a, capS t sb, capA t tb]) →
      (k.areg a).toNat % (src.bits / 8) = 0 → (k.areg d).toNat % (dst.bits / 8) = 0 → (k.sreg sb).toNat = 0 →
      OwnImage (x.begun s c n y) c q (k.areg tb) →
      exec (.txrun y dst src sat d a sb tb) s = .next (x.ended s c n y (x.begun s c n y) 0)) ∧
    (x = tx (.txv y dst src m sat vd va tb) (fun t => [capA t tb]) → ValidImage (x.begun s c n y) c q (k.areg tb) h t →
      Path (32 * k.width / txBits dst src) t u (fun e v z =>
        if (t.task c n).active (txBits dst src) m e = true then ∃ v1 i r, Interpolates v c q (k.areg tb) h ((t.task c n).vval src va e) v1 i r ∧
          z = v1.modTask c n fun t => t.setV vd (mapElems dst.bits (t.vreg vd) fun i =>
            if i = e then some ((vfmt dst).encode (Fmt.f32.decode r) .rne sat 0) else none)
        else z = v) →
      exec (.txv y dst src m sat vd va tb) s = .next (x.ended s c n y u (32 * k.width / txBits dst src))) ∧
    (x = tx (.txcfg y tb sa sb) (fun t => [capA t tb, capS t sa, capS t sb]) → OwnImage (x.begun s c n y) c q (k.areg tb) →
      h = TxHead.ofBits (k.sreg sb ++ k.sreg sa) → h.ok = true → h.inside (x.begun s c n y) c (k.areg tb) = true →
      (∃ l, Through (x.begun s c n y) c q (wr (x.begun s c n y)) (k.areg tb) 16 t l ∧ u = t.writeAll l (toBytes (k.sreg sa).toNat 8 ++ toBytes (k.sreg sb).toNat 8)) →
      exec (.txcfg y tb sa sb) s = .next (x.ended s c n y u 0)) ∧
    (∀ i r, x = tx (.txrd y sd tb sa) (fun t => [capA t tb, capS t sa]) → ValidImage (x.begun s c n y) c q (k.areg tb) h t →
      Interpolates t c q (k.areg tb) h (Fmt.f32.decode ((k.sreg sa).toNat % 2 ^ 32)) u i r →
      exec (.txrd y sd tb sa) s =
        .next (x.ended s c n y (u.modTask c n fun t => t.setS sd (BitVec.ofNat 64 (i * 2 ^ 32 + r))) 0))

/-- MXLDW, MXLDWT and MXSCL complete when their operands pass the checks and carry no poison: each latch entry of the rows named takes its
weight and scale from R397's bytes, or its scale alone from R398's; every other entry keeps its value, or is a zero weight of a new format.
-/
def Obligations.matrix_latch_loads : Prop :=
  ∀ (s B : State) (c n : Nat) (y : Sync) (fmt : BitVec 8) (w : AReg) (rt : SReg) (gx : GReg) (sc : ScaleOp) (k : Task) (K : Core) (T : Word)
    (kb nk cols : Nat) (x : Issue) (z : MxArg) (geo : Nat × Nat) (scale : Nat → Nat → Byte), EngineReady s c n y .mx → s.memWf = true →
    k = s.task c n → K = s.core c → T = k.sreg rt → kb = tw T 0 → nk = tw T 8 → cols = 128 * K.mode.size → ldTileBad T = false → (sc.isSome = true → isBinary8 fmt = true) →
    scale = (fun r j => if sc.isSome then B.scaleByte c z geo r j else 0x7F) →
    (∀ d, x = mx (.mxldw y fmt w rt gx sc) (fun k => [capA k w, capS k rt, sclCap k sc]) → B = x.copied s c n y true gx (sclSet sc) →
      d = ldData false fmt (k.areg w) (K.agSet gx) nk cols →
      z = ldScale (match sc with | some (a, _) => k.areg a | none => 0) (K.agSet (sclSet sc)) nk cols → geo = (K.agSet (sclSet sc)).geo →
      MxFits B c (x.started s c n y) true (d :: if sc.isSome then [z] else []) → (∀ r, r < nk → d.clean B c r) →
      (sc.isSome = true → ∀ r, r < nk → B.scalePoison c z geo false r = none) →
      ∃ u, exec (.mxldw y fmt w rt gx sc) s = .next (x.ended s c n y u nk) ∧ LatchOnly c B u ∧ (u.core c).latchFmt = fmt ∧
        ∀ r j, j < 512 → (u.core c).latchEntry r j = if kb ≤ r ∧ r < kb + nk ∧ j < cols then
          latchWord fmt (d.word B c (r - kb) (esz fmt * j) (esz fmt)) (scale (r - kb) j) else (K.latchFormat fmt).latchEntry r j) ∧
    (∀ d, x = mx (.mxldwt y fmt w rt gx sc) (fun k => [capA k w, capS k rt, sclCap k sc]) → B = x.copied s c n y true gx (sclSet sc) →
      d = ldData true fmt (k.areg w) (K.agSet gx) nk cols →
      z = ldScale (match sc with | some (a, _) => k.areg a | none => 0) (K.agSet (sclSet sc)) nk cols → geo = (K.agSet (sclSet sc)).geo →
      MxFits B c (x.started s c n y) true (d :: if sc.isSome then [z] else []) → (∀ j, j < cols → d.clean B c j) →
      (sc.isSome = true → ∀ j, j < cols → B.scalePoison c z geo true j = none) →
      ∃ u, exec (.mxldwt y fmt w rt gx sc) s = .next (x.ended s c n y u cols) ∧ LatchOnly c B u ∧ (u.core c).latchFmt = fmt ∧
        ∀ r j, j < 512 → (u.core c).latchEntry r j = if kb ≤ r ∧ r < kb + nk ∧ j < cols then
          latchWord fmt (d.word B c j (esz fmt * (r - kb)) (esz fmt)) (scale (r - kb) j) else (K.latchFormat fmt).latchEntry r j) ∧
    (x = mx (.mxscl y w rt gx) (fun k => [capA k w, capS k rt]) → B = x.copied s c n y true gx 0 → isBinary8 K.latchFmt = true →
      z = ldScale (k.areg w) (K.agSet gx) nk cols → geo = (K.agSet gx).geo → MxFits B c (x.started s c n y) true [z] →
      (∀ r, r < nk → B.scalePoison c z geo false r = none) →
      ∃ u, exec (.mxscl y w rt gx) s = .next (x.ended s c n y u nk) ∧ LatchOnly c B u ∧ (u.core c).latchFmt = K.latchFmt ∧
        ∀ r j, j < 512 → (u.core c).latchEntry r j = if kb ≤ r ∧ r < kb + nk ∧ j < cols then
          B.scaleByte c z geo (r - kb) j ++ (K.latchEntry r j).extractLsb' 0 8 else K.latchEntry r j)

/-- MXPASS completes when its operands pass the checks, carry no poison and its skerry check finds no three-way difference: each accumulator
element of the rows named gains the sum of its integer products, clamped where IMODE says so, or its segments of 32 products rounded once each.
To each product comes what a defective cell of the array adds to it, `wrong`, which is 0 in a part without defects: the form of a defect is the
model's choice (State.wrongAt, log 17). -/
def Obligations.matrix_pass : Prop :=
  ∀ (s B S : State) (c n : Nat) (y : Sync) (fmt : BitVec 8) (acc : AccReg) (a : AReg) (rt : SReg) (gx : GReg) (sc : ScaleOp) (k : Task)
    (K : Core) (T : Word) (r0 nr k0 kp cols : Nat) (x : Issue) (d z : MxArg) (geo : Nat × Nat)
    (w : Nat → Nat → BitVec 16) (wrong : Nat → Nat → Int),
    EngineReady s c n y .mx → s.memWf = true → k = s.task c n → K = s.core c → T = k.sreg rt → pTileBad T = false →
    r0 = tw T 0 → nr = tw T 8 → k0 = tw T 16 → kp = tw T 24 → cols = 128 * K.mode.size →
    x = mx (.mxpass y fmt acc a rt gx sc) (fun k => [0, capA k a, capS k rt, sclCap k sc]) → B = x.copied s c n y false gx (sclSet sc) →
    d = { base := k.areg a, stride := 16 * (K.agSet gx).rstr, rows := nr, len := esz fmt * kp, swz := (K.agSet gx).swz, data := true } →
    geo = (K.agSet (sclSet sc)).geo →
    z = { base := (match sc with | some (a, _) => k.areg a | none => 0), stride := (K.agSet (sclSet sc)).sstr,
          rows := ceilDiv nr geo.1, len := ceilDiv kp geo.2, swz := (K.agSet (sclSet sc)).swz, data := false } →
    MxFits B c (x.started s c n y) true (d :: if sc.isSome then [z] else []) → (∀ r, r < nr → d.clean B c r) →
    (sc.isSome = true → ∀ r, r < nr → z.clean B c (r / geo.1)) → B.skerry c k0 kp = (S, none) →
    w = (fun i j => K.latchEntry (k0 + i) j) → wrong = (fun i j => B.wrongAt c (k0 + i) j) →
    (fmt = 0x20 → K.latchFmt = 0x20 → sc = none → ∃ u, exec (.mxpass y fmt acc a rt gx sc) s = .next (x.ended s c n y u nr) ∧ AccOnly c S u ∧
      ∃ v : Nat → Nat → Int,
        (∀ i j, v i j = (K.accElem acc i j).toInt + ((List.range kp).map fun e =>
          (BitVec.ofNat 8 (d.word B c (i - r0) e 1)).toInt * ((w e j).setWidth 8).toInt + wrong e j).sum) ∧
        (∀ i j, j < 512 → (u.core c).accElem acc i j = if r0 ≤ i ∧ i < r0 + nr ∧ j < cols then
          BitVec.ofInt 32 (if K.mxmode.getLsbD 0 then max (min (v i j) (2 ^ 31 - 1)) (-2 ^ 31) else v i j) else K.accElem acc i j) ∧
        (∀ m i j, m ≠ acc → i < 128 → j < 512 → (u.core c).accElem m i j = K.accElem m i j) ∧
        ((u.core c).isat = true ↔ K.isat = true ∨ (K.mxmode.getLsbD 0 = true ∧ ∃ i j, r0 ≤ i ∧ i < r0 + nr ∧ j < cols ∧
          (v i j < -2 ^ 31 ∨ 2 ^ 31 - 1 < v i j)))) ∧
    (fmt ≠ 0x20 → K.latchFmt ≠ 0x20 → isMxFormat K.latchFmt = true → ∃ u, exec (.mxpass y fmt acc a rt gx sc) s = .next (x.ended s c n y u nr) ∧
      AccOnly c S u ∧ (u.core c).isat = K.isat ∧
      (∀ i j, j < 512 → (u.core c).accElem acc i j = if r0 ≤ i ∧ i < r0 + nr ∧ j < cols then
        floatElem 4 ((List.range kp).map fun e =>
          (Fl.mul (e8m0 (if sc.isSome then B.spByte c (swizzle z.swz (z.row ((i - r0) / geo.1) + e / geo.2)) else 0x7F))
              ((fmtOf fmt).decode (d.word B c (i - r0) (esz fmt * e) (esz fmt))),
           latchVal K.latchFmt (w e j), wrong e j)) (K.accElem acc i j) else K.accElem acc i j) ∧
      (∀ m i j, m ≠ acc → i < 128 → j < 512 → (u.core c).accElem m i j = K.accElem m i j))

/-- MXST completes when its operand passes the checks: each row of the tile is converted with one rounding and written under its set's
pattern (R401; the conversions are R271, R273 and R283). MXRDV writes lanes of a vector register from an accumulator row, MXWRV an accumulator row from lanes, MXZERO clears the
accumulators named. -/
def Obligations.matrix_results : Prop :=
  ∀ (s B u : State) (c n : Nat) (y : Sync) (kind : AccKindM) (dst mask : BitVec 8) (r : RMod) (acc : AccReg) (a : AReg) (rt : SReg) (gx : GReg)
    (v : VReg) (k : Task) (K : Core) (T : Word) (cols : Nat) (x : Issue) (d : MxArg),
    EngineReady s c n y .mx → s.memWf = true → k = s.task c n → K = s.core c → T = k.sreg rt → cols = 128 * K.mode.size →
    (sTileBad T cols false = false → x = mx (.mxst y kind dst r acc a rt gx) (fun k => [0, capA k a, capS k rt]) →
      B = x.copied s c n y false gx 0 →
      d = { base := k.areg a, stride := 16 * (K.agSet gx).rstr, rows := tw T 8, len := esz dst * ncol T, swz := (K.agSet gx).swz, data := true } →
      MxFits B c (x.started s c n y) false [d] →
      Path (tw T 8) B u (fun p e f => f = e.writeSwz (.spm c (d.row p)) d.swz ((List.range (ncol T)).flatMap fun j =>
        toBytes (accOut kind dst r (srDraw k.seed k.iter k.isn (p * ncol T + j)) (K.accElem acc (tw T 0 + p) (col0 T + j))) (esz dst))
        (fun _ => false)) →
      exec (.mxst y kind dst r acc a rt gx) s = .next (x.ended s c n y u (tw T 8))) ∧
    (sTileBad T cols true = false →
      Sets s c n y (.mxrdv y kind dst r v acc rt) (fun t => t = { k with v := t.v } ∧ (∀ q, q ≠ v → t.vreg q = k.vreg q) ∧
        ∀ e, e < 4096 / fmtBits dst → elem (fmtBits dst) (t.vreg v) e = if e < ncol T then
          accOut kind dst r (srDraw k.seed k.iter k.isn e) (K.accElem acc (tw T 0) (col0 T + e)) % 2 ^ fmtBits dst
          else elem (fmtBits dst) (k.vreg v) e)) ∧
    (sTileBad T cols true = false → x = mx (.mxwrv y acc v rt) (fun k => [0, 0, capS k rt]) →
      ∃ t, exec (.mxwrv y acc v rt) s = .next (x.ended s c n y t 0) ∧ AccOnly c (x.begun s c n y) t ∧ (t.core c).isat = K.isat ∧
        ∀ m i j, i < 128 → j < 512 → (t.core c).accElem m i j = if m = acc ∧ i = tw T 0 ∧ col0 T ≤ j ∧ j < col0 T + ncol T then
          BitVec.ofNat 32 (elem 32 (k.vreg v) (j - col0 T)) else K.accElem m i j) ∧
    (x = mx (.mxzero y mask) noCaps →
      ∃ t, exec (.mxzero y mask) s = .next (x.ended s c n y t 0) ∧ AccOnly c (x.begun s c n y) t ∧ (t.core c).isat = K.isat ∧
        ∀ m i j, i < 128 → j < 512 → (t.core c).accElem m i j = if mask.getLsbD m.val then 0 else K.accElem m i j)

/-- MXAGEN reads and writes a set, MXMODE reads IMODE and ISAT and sets or clears them as its form says, MXCHK reads and sets the diagnostic
word of a physical half. MXIDLE on an awake array starts the gating and stands in the queue until the array is gated, and then completes. An MX
entry that has not started, MXIDLE too, waits for the gating to finish and then for the wake, which it asks for; one that finds the array awake
and no other entry under way starts. -/
def Obligations.matrix_state : Prop :=
  (∀ (s : State) (c n : Nat) (y : Sync) (g : GReg) (sd sa : SReg) (off clr : Bool) (k : Task) (K : Core) (v : Word) (x : Issue) (p : Nat) (un : Bool),
    EngineReady s c n y .mx → k = s.task c n → K = s.core c → v = k.sreg sa →
    (v.extractLsb' 44 20 = 0 → v.extractLsb' 0 5 = 0 → (v.extractLsb' 21 3).toNat < 6 →
      x = mx (.mxagen y (.write g sa)) (fun k => [0, capS k sa]) →
      exec (.mxagen y (.write g sa)) s = .next (x.ended s c n y
        ((x.begun s c n y).modCore c fun e => { e with ags := Tab.set e.ags g.val (v.setWidth 44) }) 0)) ∧
    Runs s c n y (.mxagen y (.read sd g)) (·.setS sd ((K.agSet g).setWidth 64)) ∧
    (∀ op set clr', (op = ModeOp.read sd ∧ set = false ∧ clr' = false) ∨ (op = .set sd sa ∧ set = true ∧ clr' = false) ∨
        (op = .clri sd ∧ set = false ∧ clr' = true) ∨ (op = .setclri sd sa ∧ set = true ∧ clr' = true) →
      x = mx (.mxmode y op) (fun k => match op with | .set _ a | .setclri _ a => [0, capS k a] | .read _ | .clri _ => []) →
      (set = true → v.toNat < 2) →
      exec (.mxmode y op) s = .next (x.ended s c n y
        (((x.begun s c n y).modCore c fun e => { e with mxmode := if set then v else e.mxmode, isat := e.isat && !clr' }).modTask c n
          fun t => t.setS sd (BitVec.ofNat 64 (K.isat.toNat * 2 ^ 32 + K.mxmode.toNat % 2))) 0)) ∧
    (v.toNat < 8 → v.toNat % 4 < K.mode.size → s.physHalf (c + v.toNat % 4) (v.getLsbD 2) = (p, un) →
      Runs s c n y (.mxchk y (.read sd sa)) (·.setS sd ((s.half p).word un)) ∧
      (k.priv = true → x = mx (.mxchk y (.set sa off clr)) (fun k => [0, capS k sa]) →
        exec (.mxchk y (.set sa off clr)) s = .next (x.ended s c n y
          ((x.begun s c n y).setHalf p { s.half p with chkoff := off, corr := if clr then 0 else (s.half p).corr }) 0)) ∧
      (k.priv = false → exec (.mxchk y (.set sa off clr)) s = .next (s.issueTrap c n cILLEGAL 0 0))) ∧
    (x = mx (.mxidle y) noCaps → exec (.mxidle y) s = .next (settle c (x.started s c n y)
      ⟨(x.begun s c n y).setGate c .gating, 0, 0, .stall⟩))) ∧
  (∀ (s : State) (c n : Nat) (y : Sync) (x : Issue), EngineReady (s.setGate c .awake) c n y .mx → s.arrayGate c = .gated →
    x = mx (.mxidle y) noCaps → exec (.mxidle y) s = .next
      (((s.modTask c n (x.task (s.now c))).modCore c fun k => { k with queue := k.queue ++ [x.entry c n true (s.task c n)] }).setGate c .waking)) ∧
  (∀ (t : State) (c : Nat) (q : Entry), q.eng = .mx → q.started = false →
    (mxBusy (t.core c).queue q = true → t.mxHold c q = some t) ∧
    (mxBusy (t.core c).queue q = false →
      (t.arrayGate c = .gated → t.mxHold c q = some (t.setGate c .waking)) ∧
      (t.arrayGate c = .gating ∨ t.arrayGate c = .waking → t.mxHold c q = some t) ∧ (t.arrayGate c = .awake → t.mxHold c q = none))) ∧
  (∀ (t : State) (c : Nat) (q : Entry), (t.arrayGate c = .gated → runMxidle c q t = ⟨t, 0, 0, .done⟩) ∧
    (t.arrayGate c = .gating ∨ t.arrayGate c = .waking → runMxidle c q t = ⟨t, 0, 0, .stall⟩))

/-! ## Classes CX and SQ -/

/-- CPY, CPYT, CPYM and FILL complete when their whole-command checks pass and every unit's accesses go through: the bytes move in units cut
at 4 KiB boundaries, each with its poison, and each unit is counted in the landing word; a copy of no bytes does nothing. -/
def Obligations.copies : Prop :=
  ∀ (s B u : State) (c n : Nat) (y : Sync) (d a : AReg) (rn rm : SReg) (lw : Option AReg) (ml : Option (BitVec 26)) (w : Width)
    (pat : BitVec 4) (dstr : BitVec 16) (k : Task) (x : Issue) (q : Entry) (D A : Addr) (len : Nat) (L : Option (BitVec 36)) (T : Word),
    EngineReady s c n y .cx → k = s.task c n → q = x.started s c n y → B = x.begun s c n y → D = k.areg d → A = k.areg a →
    len = (k.sreg rn).toNat → L = lw.map (fun r => (k.areg r).setWidth 36) → T = k.sreg rn →
    (x = { cx (.cpy y d a rn lw) (fun t => [capA t d, capA t a, capS t rn, lwCap t lw]) with
        lock := fun c t => ownLock c (t.areg d) (t.sreg rn).toNat } →
      (len = 0 → exec (.cpy y d a rn lw) s = .next (x.ended s c n y B 0)) ∧
      (0 < len → len < 2 ^ 40 → overlap A D len = false → spBad B (cxAcc B c q true) A len = false → spBad B (cxAcc B c q true) D len = false →
        NoCheck (lwOptChecks B (cxAcc B c q true) L (destUnit B (cxAcc B c q true) D)) →
        (∃ N p, Cut len (fun o => min (len - o) (min (Addr.left (A + BitVec.ofNat 80 o)) (Addr.left (D + BitVec.ofNat 80 o)))) N p ∧
          Path N B u fun i v z => ∃ t, Moves v c q (A + BitVec.ofNat 80 (p i)) (D + BitVec.ofNat 80 (p i)) (p (i + 1) - p i) t ∧
            z = countOpt t c q (cxAcc t c q true) L (p i) (p (i + 1) - p i)) →
        exec (.cpy y d a rn lw) s = .next (x.ended s c n y u len))) ∧
    (x = { cx (.cpyt y pat d a rn dstr lw) (fun k => [capA k d, capA k a, capS k rn, lwCap k lw]) with
        lock := fun c k => ownLock c (k.areg d) (16 * dstr.toNat * (tileRows (k.sreg rn) - 1) + tileLen (k.sreg rn)), swz := pat.toNat } →
      0 < tileRows T * tileLen T → D.toNat % 16 = 0 → vaRegion D = .scratch →
      spBad B (cxAcc B c q true) D (16 * dstr.toNat * (tileRows T - 1) + tileLen T) = false →
      spBad B (cxAcc B c q true) A (tileStride T * (tileRows T - 1) + tileLen T) = false →
      NoCheck (lwOptChecks B (cxAcc B c q true) L (destUnit B (cxAcc B c q true) D)) →
      (∃ N p, ∃ src dst : Nat → Addr,
        src = (fun o => A + BitVec.ofNat 80 (tileStride T * (o / tileLen T) + o % tileLen T)) ∧
        dst = (fun o => D + BitVec.ofNat 80 (16 * dstr.toNat * (o / tileLen T) + o % tileLen T)) ∧
        Cut (tileRows T * tileLen T) (fun o => min (tileLen T - o % tileLen T) (min (Addr.left (src o)) (Addr.left (dst o)))) N p ∧
        Path N B u fun i v z => ∃ v1 l1 v2 pl l2 t,
          Through v c q (cxAcc v c q false) (src (p i)) (p (i + 1) - p i) v1 l1 ∧
          Through v1 c q (cxAcc v1 c q true) (dst (p i)) (p (i + 1) - p i) v2 (pl :: l2) ∧
          t = v2.writeSwz pl.1 pat.toNat (v2.readAll l1) (v2.poisonAt l1) ∧ z = countOpt t c q (cxAcc t c q true) L (p i) (p (i + 1) - p i)) →
      exec (.cpyt y pat d a rn dstr lw) s = .next (x.ended s c n y u (tileRows T * tileLen T))) ∧
    (x = { cx (.cpym y d a rn rm ml) (fun t => [capA t d, capA t a, capS t rn, capS t rm]) with
        lock := fun c t => if ((t.areg d).extractLsb' 26 10).toNat = 1023 ∧ c ∈ setCores (t.sreg rm)
          then ownLock c (t.areg d) (t.sreg rn).toNat else none } →
      (len = 0 → exec (.cpym y d a rn rm ml) s = .next (x.ended s c n y B 0)) ∧
      (∀ M o, M = k.sreg rm → o = (D.extractLsb' 0 26).toNat → 0 < len → len < 2 ^ 40 → overlap A D len = false →
        vaRegion D = .scratch → D.extractLsb' 26 10 = 1023 → M.extractLsb' 27 37 = 0 → 0 < setCount M → setCount M ≤ 288 → 0 < setStep M →
        setStep M ≤ 288 → (∀ t, t ∈ setCores M → t < 288 ∧ B.leaderOf t = t ∧ o + len ≤ B.spSize t) →
        (∀ W, ml = some W → W.toNat % 16 = 0 ∧ ∀ t, t ∈ setCores M → W.toNat + 16 ≤ B.spSize t) →
        spBad B (cxAcc B c q true) A len = false →
        (∃ N p, Cut len (fun o => min (len - o) (min (Addr.left (A + BitVec.ofNat 80 o)) (Addr.left (D + BitVec.ofNat 80 o)))) N p ∧
          Path N B u fun i v z => ∃ t l, Through v c q (cxAcc v c q false) (A + BitVec.ofNat 80 (p i)) (p (i + 1) - p i) t l ∧
            Casts c q o (p i) (p (i + 1) - p i) ml (t.readAll l) (t.poisonAt l) (setCores M) t z) →
        exec (.cpym y d a rn rm ml) s = .next (x.ended s c n y u len))) ∧
    (x = { cx (.fill y w d rn rm lw) (fun t => [capA t d, capS t rn, capS t rm, lwCap t lw]) with
        lock := fun c t => ownLock c (t.areg d) (t.sreg rn).toNat } →
      (len = 0 → exec (.fill y w d rn rm lw) s = .next (x.ended s c n y B 0)) ∧
      (0 < len → len < 2 ^ 40 → len % w.bytes = 0 → D.toNat % w.bytes = 0 → spBad B (cxAcc B c q true) D len = false →
        NoCheck (lwOptChecks B (cxAcc B c q true) L (destUnit B (cxAcc B c q true) D)) →
        (∃ N p, Cut len (fun o => min (len - o) (Addr.left (D + BitVec.ofNat 80 o))) N p ∧
          Path N B u fun i v z => ∃ t m, Through v c q (cxAcc v c q true) (D + BitVec.ofNat 80 (p i)) (p (i + 1) - p i) t m ∧
            z = countOpt (t.writeAll m ((List.range (p (i + 1) - p i)).map fun j =>
              BitVec.ofNat 8 ((k.sreg rm).toNat / 256 ^ ((p i + j) % w.bytes)))) c q (cxAcc B c q true) L (p i) (p (i + 1) - p i)) →
        exec (.fill y w d rn rm lw) s = .next (x.ended s c n y u len)))

/-- RLOPEN of a permitted row releases the slot's old row and joins the order of the row's latch; it completes at once with the slot HELD when
the latch is free, no opener waits for it and the bank takes an activate. RLHOLD, RLREL, RLRD and RLWR complete on a HELD slot whose bank
takes a request: RLHOLD writes the row back, RLREL frees the slot, RLRD and RLWR move bytes between latch and scratchpad with their poison,
after what has gone wrong in them is found; RLWR's row is dropped from the unit's cached lines (R243). RLSTAT reports state, W and ACTS; STREAMROW copies a row under a reservation, and BANKCLOSE ends
one. -/
def Obligations.row_lines : Prop :=
  ∀ (s B B1 t u : State) (c n : Nat) (y : Sync) (rk : KReg) (d a : AReg) (rp sd : SReg) (lw : Option AReg) (k : Task) (x : Issue) (q : Entry)
    (R : RowSlot) (L : Option (BitVec 36)) (X : Acc) (D A : Addr) (P : Word) (dpa len : Nat) (key : Option (BitVec 12)),
    EngineReady s c n y .cx → k = s.task c n → q = x.started s c n y → B = x.begun s c n y → R = B.row c n rk →
    L = lw.map (fun r => (k.areg r).setWidth 36) → D = k.areg d → A = k.areg a → P = k.sreg rp → len = spanCnt P →
    (∀ z l O r, x = cx (.rlopen y rk a) (fun t => [0, capA t a]) → vaRegion A = .device →
      Through B c q (rowAcc B c q) (A &&& ~~~1023) 1 t ((.hbm dpa key, z) :: l) →
      rk.val < (t.task c n).rowq → ownsGroup t c n rk dpa = false → r = t.releaseRow c n rk →
      O = t.openRow c n rk (A &&& ~~~1023) dpa key (grantsW t (rowAcc t c q) (A &&& ~~~1023)) →
      exec (.rlopen y rk a) s = .next (settle c q (openEnd c q rk O)) ∧
      (r.latchAt (latchIdx dpa) = none → (∀ w ∈ r.hbm.waiters, w.1 ≠ latchIdx dpa) → r.canAct (latchIdx dpa / 4) = true →
        (r.enterBank c (latchIdx dpa / 4)).isSome = true →
        exec (.rlopen y rk a) s = .next (x.ended s c n y (O.engWaitEnd c n) 0) ∧ O.row c n rk =
          { st := .held, addr := A &&& ~~~1023, dpa := dpa, wr := grantsW t (rowAcc t c q) (A &&& ~~~1023), key := key })) ∧
    (x = cx (.rlhold y rk) noCaps → rk.val < (B.task c n).rowq → R.st = .held → B.enterBank c (bankOf R.dpa) = some B1 →
      exec (.rlhold y rk) s = .next (x.ended s c n y ((B1.rowBack R.dpa).engWaitEnd c n) 0)) ∧
    (x = cx (.rlrel y rk) noCaps → rk.val < (B.task c n).rowq →
      (R.st ≠ .held → exec (.rlrel y rk) s = .next (x.ended s c n y (B.releaseRow c n rk) 0)) ∧
      (R.st = .held → B.enterBank c (bankOf R.dpa) = some B1 →
        exec (.rlrel y rk) s = .next (x.ended s c n y (B1.releaseRow c n rk) 0))) ∧
    (x = { cx (.rlrd y d rk rp lw) (fun t => [capA t d, 0, capS t rp, lwCap t lw]) with
        lock := fun c t => ownLock c (t.areg d) (spanCnt (t.sreg rp)) } → X = cxAcc B c q true →
      rk.val < (B.task c n).rowq → R.st = .held → B.enterBank c (bankOf R.dpa) = some B1 → spanBad P = false → vaRegion D = .scratch →
      spBad B X D len = false → NoCheck (lwOptChecks B X L (destUnit B X D)) →
      (len = 0 → exec (.rlrd y d rk rp lw) s = .next (x.ended s c n y (B1.engWaitEnd c n) 0)) ∧
      (∀ m v src, 0 < len → Through B1 c q X D len t m → src = [(.hbm (R.dpa + spanOff P) R.key, len)] → v = t.readSectors 4 c src →
        u = v.writeAllTag (v.readAll src) (v.poisonAt src) 0 m →
        exec (.rlrd y d rk rp lw) s = .next (x.ended s c n y ((countOpt u c q X L 0 len).engWaitEnd c n) len))) ∧
    (x = cx (.rlwr y rk a rp) (fun t => [0, capA t a, capS t rp]) → X = cxAcc B c q false →
      rk.val < (B.task c n).rowq → R.st = .held → R.wr = true → B.enterBank c (bankOf R.dpa) = some B1 → spanBad P = false →
      vaRegion A = .scratch → spBad B X A len = false →
      (len = 0 → exec (.rlwr y rk a rp) s = .next (x.ended s c n y (B1.engWaitEnd c n) 0)) ∧
      (∀ l v, 0 < len → Through B1 c q X A len t l → v = (t.mergeRead [(.hbm (R.dpa + spanOff P) R.key, len)]).dropLines c [(.hbm (R.dpa + spanOff P) R.key, len)] →
        exec (.rlwr y rk a rp) s = .next (x.ended s c n y
          ((v.writeTag (.hbm (R.dpa + spanOff P) R.key) (v.readAll l) (v.poisonAt l) 0).engWaitEnd c n) len))) ∧
    (rk.val < k.rowq → Runs s c n y (.rlstat y sd rk) (·.setS sd (BitVec.ofNat 64 (k.acts.toNat * 2 ^ 32 +
      (if (s.row c n rk).wr = true ∧ (s.row c n rk).st = .held then 8 else 0) + (match (s.row c n rk).st with
        | .empty => 0 | .opening => 1 | .held => 2 | .yieldedRfm => 3 | .yieldedTherm => 3 | .lost => 4 | .saved => 5))))) ∧
    (x = { cx (.streamrow y d a lw) (fun t => [capA t d, capA t a, 0, lwCap t lw]) with lock := fun c t => ownLock c (t.areg d) 1024 } →
      X = cxAcc B c q true → A.toNat % 1024 = 0 → D.toNat % 16 = 0 → vaRegion D = .scratch → vaRegion A = .device →
      spBad B X D 1024 = false → destUnit B X D = some c → NoCheck (lwOptChecks B X L (some c)) →
      ∀ v w z l m, Through B c q (rowAcc B c q) A 1024 t ((.hbm dpa key, z) :: l) →
        (t.reserved c (bankOf dpa) = true ∨ (t.core c).resv.length < 8) → streamBlocked t c dpa = false →
        Through (t.streamOpen c n dpa) c q X D 1024 v m → w = v.readSectors 4 c ((.hbm dpa key, z) :: l) →
        u = w.writeAllTag (w.readAll ((.hbm dpa key, z) :: l)) (w.poisonAt ((.hbm dpa key, z) :: l)) 0 m →
        exec (.streamrow y d a lw) s = .next (x.ended s c n y (countOpt u c q X L 0 1024) 1024)) ∧
    (x = cx (.bankclose y a) (fun t => [capA t a]) → vaRegion A = .device →
      ∀ z l, Through B c q (rowAcc B c q) A 1 t ((.hbm dpa key, z) :: l) →
        exec (.bankclose y a) s = .next (x.ended s c n y (if t.reserved c (bankOf dpa) then
          (t.setBank (bankOf dpa) { t.bank (bankOf dpa) with openRow := none, pass := false }).modCore c
            fun e => { e with resv := e.resv.filter fun r => r.1 != bankOf dpa } else t) 0))

/-- SQLOAD with a free range reads the program into it and leaves the thread LOADED, bound to its sweep; SQSTART, SQSTOP and SQSTAT act on a
thread of their own sweep; each reports R423's and R424's codes in s[D], and sqload.sys is privileged. (The order in which the codes are tested where several apply is the
model's reading, log 58.) -/
def Obligations.sequencer_control : Prop :=
  ∀ (s B t : State) (c n : Nat) (y : Sync) (sys : Bool) (sd rn : SReg) (h : ThreadId) (a : AReg) (k : Task) (x : Issue) (q : Entry)
    (X : Acc) (A : Addr) (len : Nat) (st : ThreadSt) (mine : Prop),
    EngineReady s c n y .cx → k = s.task c n → q = x.started s c n y → B = x.begun s c n y → A = k.areg a → len = (k.sreg rn).toNat →
    X = engAcc c .cx k.asid false true false → st = (s.thread h).st → (mine ↔ (s.thread h).sweep = k.sweep) →
    (x = cx (.sqload y sys sd h a rn) (fun k => [0, capA k a, capS k rn]) → (sys = true → k.priv = true) → A.toNat % 4 = 0 →
      vaRegion A ≠ .host → spBad B X A (if len ≤ 16384 then 12 * len else 12) = false →
      (st ≠ .idle → Runs s c n y (.sqload y sys sd h a rn) (·.setS sd 1)) ∧
      (st = .idle → len = 0 ∨ 16384 < len → Runs s c n y (.sqload y sys sd h a rn) (·.setS sd 3)) ∧
      (st = .idle → 0 < len → len ≤ 16384 → freeRanges s len = [] → Runs s c n y (.sqload y sys sd h a rn) (·.setS sd 2)) ∧
      (∀ l, st = .idle → 0 < len → len ≤ 16384 → freeRanges s len ≠ [] → Reads B c q X A (12 * len) t l →
        ∃ base, base ∈ freeRanges s len ∧ exec (.sqload y sys sd h a rn) s = .next (x.ended s c n y
          ((({ t with freeCtr := t.freeCtr + 1, flood := { t.flood with prog := loadWords t.flood.prog base (t.readAll l) len } }).setThread h
            { st := .loaded, cause := 0, pc := base, sweep := k.sweep, asid := k.asid, base := base, len := len, sys := sys }).modTask c n
              fun z => z.setS sd (BitVec.ofNat 64 (base * 65536))) 0))) ∧
    (k.priv = false → exec (.sqload y true sd h a rn) s = .next (s.issueTrap c n cILLEGAL 0 0)) ∧
    (x = cx (.sqstart y sd h a) (fun k => [0, capA k a]) →
      (st ≠ .loaded → Runs s c n y (.sqstart y sd h a) (·.setS sd 1)) ∧
      (st = .loaded → ¬mine → Runs s c n y (.sqstart y sd h a) (·.setS sd 2)) ∧
      (st = .loaded → mine → exec (.sqstart y sd h a) s = .next (x.ended s c n y
        ((B.setThread h { s.thread h with
            st := .running, pc := (s.thread h).base, w := (Vector.replicate 16 0).set 0 A }).modTask c n fun z => z.setS sd 0) 0))) ∧
    (x = cx (.sqstop y sd h) noCaps →
      (st = .idle → Runs s c n y (.sqstop y sd h) (·.setS sd 3)) ∧
      (st ≠ .idle → ¬mine → Runs s c n y (.sqstop y sd h) (·.setS sd 2)) ∧
      (st ≠ .idle → mine → exec (.sqstop y sd h) s = .next (x.ended s c n y
        ((B.setThread h { s.thread h with st := .idle, units := [], cause := 0 }).modTask c n fun z => z.setS sd 0) 0))) ∧
    Runs s c n y (.sqstat y sd h) (·.setS sd (
      let code := match st with | .idle => 0 | .loaded => 1 | .running => 2 | .waiting => 3 | .held => 4 | .error => 5
      let z := s.thread h
      if z.sweep ≠ k.sweep then code
      else BitVec.ofNat 64 (z.sweep.toNat % 65536 * 2 ^ 48 + (if st = .error then z.cause.toNat else 0) * 2 ^ 32 + z.pc % 16384 * 2 ^ 16) + code))

/-- The words of a thread: SQSET changes a register or a set, SQBURST makes its units ready, SQSIG signals at its targets once every earlier
unit is performed, SQWAIT goes on when its value is reached and waits else, SQLOOP counts down and branches, SQEND frees the thread; in a
task each word is ILLEGAL. SQWAIT puts its thread in ERROR with ALIGN for a misaligned address, SPACCESS for a place it may not read, POISON for
a poisoned value, and with a translation's own code; a page that is absent is queued and waited for. A thread that runs past the end of its
range finds no word there, which puts it in ERROR with ILLEGAL. -/
def Obligations.sequencer_words : Prop :=
  ∀ (s : State) (c n : Nat) (t : ThreadId) (d a v o : WReg) (i32 : BitVec 32) (i16 : BitVec 16) (m : MsReg) (f cnt p : BitVec 9)
    (lw : Option (BitVec 26)) (sem : BitVec 8) (k : BitVec 4) (h : Thread) (go : Thread → State) (len : Nat) (set : BitVec 288),
    h = s.thread t → go = (fun z => s.setThread t { z with st := .running, pc := h.pc + 1 }) → len = (h.reg v).toNat % 2 ^ 64 →
    set = (s.mcset m.val).bits →
    (s.cur = .thread t →
      exec (.sqset (.lo d i32)) s = .next (go (h.setReg d (BitVec.ofNat 80 i32.toNat))) ∧
      exec (.sqset (.mid d i32)) s = .next (go (h.setReg d (BitVec.ofNat 80
        ((h.reg d).toNat / 2 ^ 64 * 2 ^ 64 + i32.toNat * 2 ^ 32 + (h.reg d).toNat % 2 ^ 32)))) ∧
      exec (.sqset (.hi d i16)) s = .next (go (h.setReg d (BitVec.ofNat 80 (i16.toNat * 2 ^ 64 + (h.reg d).toNat % 2 ^ 64)))) ∧
      exec (.sqset (.addi d i32)) s = .next (go (h.setReg d (BitVec.ofInt 80 ((h.reg d).toNat + i32.toInt)))) ∧
      exec (.sqset (.add d a)) s = .next (go (h.setReg d (BitVec.ofNat 80 ((h.reg d).toNat + (h.reg a).toNat)))) ∧
      (setForeign s h m = false → exec (.sqset (.msclr m)) s =
        .next ((s.setMcset m.val { bits := 0, sweep := some h.sweep }).setThread t { h with st := .running, pc := h.pc + 1 })) ∧
      (setForeign s h m = false → 0 < cnt.toNat → 0 < p.toNat → f.toNat + (cnt.toNat - 1) * p.toNat < 288 →
        ∃ up down : BitVec 288,
          exec (.sqset (.msset m f cnt p)) s =
            .next ((s.setMcset m.val { s.mcset m.val with bits := up }).setThread t { h with st := .running, pc := h.pc + 1 }) ∧
          exec (.sqset (.msrem m f cnt p)) s =
            .next ((s.setMcset m.val { s.mcset m.val with bits := down }).setThread t { h with st := .running, pc := h.pc + 1 }) ∧
          ∀ i, i < 288 →
            (up.getLsbD i = true ↔ set.getLsbD i = true ∨ ∃ j, j < cnt.toNat ∧ i = f.toNat + j * p.toNat) ∧
            (down.getLsbD i = true ↔ set.getLsbD i = true ∧ ¬∃ j, j < cnt.toNat ∧ i = f.toNat + j * p.toNat)) ∧
      (setForeign s h m = false → vaRegion (h.reg a) = .device → len < 2 ^ 32 → (h.reg o).toNat < 2 ^ 26 →
        (∀ u ∈ targets s h set, (h.reg o).toNat + len ≤ s.spSize u) → (lw.getD 0).toNat % 16 = 0 →
        ∃ N p, Cut len (fun z => min (len - z) (Addr.left (h.reg a + BitVec.ofNat 80 z))) N p ∧
          exec (.sqburst a v o m lw) s = .next (go { h with units := h.units ++ (List.range N).map fun i =>
            { src := h.reg a + BitVec.ofNat 80 (p i), off := (h.reg o).toNat + p i, len := p (i + 1) - p i, set := set, lw := lw,
              pageHeld := false, pc := h.pc } })) ∧
      (setForeign s h m = false → h.units = [] → exec (.sqsig m sem k) s =
        .next (((targets s h set).foldl (fun s c => s.signalExt c sem k.toNat) s).setThread t { h with st := .running, pc := h.pc + 1 })) ∧
      (setForeign s h m = false → h.units ≠ [] → exec (.sqsig m sem k) s = .next s) ∧
      (setForeign s h m = true → exec (.sqset (.msclr m)) s = .next (s.threadError t cPROT) ∧
        exec (.sqsig m sem k) s = .next (s.threadError t cPROT) ∧ exec (.sqburst a v o m lw) s = .next (s.threadError t cPROT)) ∧
      (∀ u l, (h.reg a).toNat % 8 = 0 → waitRegionOk s h (h.reg a) = true → resolve s (seqAcc h) (h.reg a) 8 = (u, .ok l) →
        u.firstPoisonAll l = none →
        (len ≤ ofBytes (u.readAll l) → exec (.sqwait a v) s = .next (u.setThread t { h with st := .running, pc := h.pc + 1 })) ∧
        (ofBytes (u.readAll l) < len → exec (.sqwait a v) s = .next (u.setThread t { h with st := .waiting }))) ∧
      ((h.reg a).toNat % 8 ≠ 0 → exec (.sqwait a v) s = .next (s.threadError t cALIGN)) ∧
      ((h.reg a).toNat % 8 = 0 → waitRegionOk s h (h.reg a) = false → exec (.sqwait a v) s = .next (s.threadError t cSPACCESS)) ∧
      (∀ u l i, (h.reg a).toNat % 8 = 0 → waitRegionOk s h (h.reg a) = true → resolve s (seqAcc h) (h.reg a) 8 = (u, .ok l) →
        u.firstPoisonAll l = some i → exec (.sqwait a v) s = .next (u.threadError t cPOISON)) ∧
      (∀ u code sub fa, (h.reg a).toNat % 8 = 0 → waitRegionOk s h (h.reg a) = true →
        resolve s (seqAcc h) (h.reg a) 8 = (u, .error (.trap code sub, fa)) → exec (.sqwait a v) s = .next (u.threadError t code)) ∧
      (∀ u fa, (h.reg a).toNat % 8 = 0 → waitRegionOk s h (h.reg a) = true → resolve s (seqAcc h) (h.reg a) 8 = (u, .error (.absent, fa)) →
        exec (.sqwait a v) s = .next (if (u.asidEnt h.asid.toNat).nopf then u.threadError t cXLATE
          else (u.pageFault h.asid fa 0xFFFF (BitVec.ofNat 8 t.val) 6 1 (.thread t)).setThread t { h with st := .waiting })) ∧
      ((vaRegion (h.reg a) = .device → waitRegionOk s h (h.reg a) = true) ∧
        (vaRegion (h.reg a) = .host → waitRegionOk s h (h.reg a) = false) ∧
        ∀ e, vaRegion (h.reg a) = .scratch → spaCore s (seqAcc h) ((h.reg a).extractLsb' 0 36) = some e →
          (waitRegionOk s h (h.reg a) = true ↔ e < 288 ∧ holdsTask s e h.sweep = true)) ∧
      (h.base + h.len ≤ h.pc → s.threadWord t = none) ∧
      (h.reg d = 0 → exec (.sqloop d i32) s = .next (go h)) ∧
      (∀ pc : Nat, h.reg d ≠ 0 → (pc : Int) = h.pc + i32.toInt → h.base ≤ pc → pc < h.base + h.len →
        exec (.sqloop d i32) s = .next (s.setThread t { h.setReg d (h.reg d - 1) with pc := pc })) ∧
      (h.reg d ≠ 0 → h.pc + i32.toInt < h.base ∨ (h.base + h.len : Nat) ≤ h.pc + i32.toInt →
        exec (.sqloop d i32) s = .next (s.threadError t cILLEGAL)) ∧
      (h.units = [] → exec .sqend s = .next (s.setThread t { h with st := .idle, cause := 0 })) ∧
      (h.units ≠ [] → exec .sqend s = .next s)) ∧
    (s.cur = .task c n → ∀ i, (i = .sqburst a v o m lw ∨ (∃ op, i = .sqset op) ∨ i = .sqsig m sem k ∨ i = .sqwait a v ∨ i = .sqloop d i32 ∨
      i = .sqend) → exec i s = .next (s.issueTrap c n cILLEGAL 0 0))

/-! ## Class FX -/

/-- PUT, GET, SGET and SPUT complete when their whole-command checks pass and each packet's local access goes through: the packets are cut
at the packet size of the target's addresses and carry the token, device and bytes of R431 to R436; SGET and SPUT are cut first at the shard-block
boundaries, and each piece goes to the device, under the token and at the address that its owner record and Resolve give it (R146, R147); PUT and
SPUT are performed when sent, GET and SGET with their responses. -/
def Obligations.remote_transfers : Prop :=
  ∀ (s B u : State) (c n : Nat) (y : Sync) (psz : Psz) (r a : AReg) (rk rc ri rn : SReg) (len : BitVec 32) (h : BitVec 12) (op : SputOp)
    (lw : Option AReg) (k : Task) (x : Issue) (q : Entry) (R A : Addr) (W N : Word) (segs : List Seg) (cut bytes : Nat) (P : Packet),
    EngineReady s c n y .fx → k = s.task c n → q = x.started s c n y → B = x.begun s c n y → R = k.areg r → A = k.areg a → W = k.sreg rc →
    cut = (match psz with | .pk256 => 256 | .pk128 => 128 | .pk64 => 64) →
    (x = fx (.put y psz r a rk rc len) (fun t => [capA t r, capA t a, capS t rk, capS t rc]) →
      (twLwen W = true → (twSpa W).toNat % 16 = 0 ∧ (twSpa W).extractLsb' 26 10 ≠ 1023) → (localBad B (fxAcc B c q false) A len.toNat).1 = false →
      twMoveBad W = false → segs = [⟨0, len.toNat, twDev W, k.sreg rk, R, none⟩] →
      P = { ptype := pPUTREQ, aux := if twLwen W then (1 : BitVec 64) <<< 63 ||| (twSpa W).setWidth 64 else 0 } →
      Packets cut len.toNat segs B u (SendsBytes c q A P .put) →
      exec (.put y psz r a rk rc len) s = .next (x.transferred s c n y u len.toNat false)) ∧
    (x = fx (.get y psz a r rk rc len) (fun t => [capA t a, capA t r, capS t rk, capS t rc]) →
      NoCheck (getLwChecks B c (fxAcc B c q true) (if twLwen W then some (twSpa W) else none)) →
      (localBad B (fxAcc B c q true) A len.toNat).1 = false → twMoveBad W = false → segs = [⟨0, len.toNat, twDev W, k.sreg rk, R, none⟩] →
      Packets cut len.toNat segs B u (SendsGet c q A .get (getLwPlace c (if twLwen W then some (twSpa W) else none))) →
      exec (.get y psz a r rk rc len) s = .next (x.transferred s c n y u len.toNat true)) ∧
    (x = fx (.sget y psz a ri rn h lw) (fun t => [capA t a, capPair t ri, capS t rn, lwCap t lw]) →
      bytes = (k.sreg rn).toNat % 2 ^ 32 * 2 ^ (B.handle h).esz →
      NoCheck (getLwChecks B c (fxAcc B c q true) (lw.map fun l => (k.areg l).setWidth 36)) →
      (localBad B (fxAcc B c q true) A bytes).1 = false → shardFault B c q h (capPair k ri) ((k.sreg rn).toNat % 2 ^ 32) none = none →
      ∀ t, Owners B c q h (capPair k ri) ((k.sreg rn).toNat % 2 ^ 32) segs t →
        Packets cut bytes segs t u (SendsGet c q A .sget (getLwPlace c (lw.map fun l => (k.areg l).setWidth 36))) →
        exec (.sget y psz a ri rn h lw) s = .next (x.transferred s c n y u bytes true)) ∧
    (∀ c1 c2, x = fx (.sput y op a ri rn h) (fun t => [capA t a, capPair t ri, capS t rn]) → N = k.sreg rn →
      bytes = N.toNat % 2 ^ 32 * 2 ^ (B.handle h).esz → c1 = N.extractLsb' 32 16 → c2 = N.extractLsb' 48 16 →
      (match op with
        | .plain p => P = { ptype := pPUTREQ } ∧ cut = (match p with | .pk256 => 256 | .pk128 => 128 | .pk64 => 64) ∧ c1 = 0 ∧ c2 = 0
        | .fadd p => P = { ptype := pATOMREQ, opx := 0x18A8 } ∧ cut = (match p with | .pk256 => 256 | .pk128 => 128 | .pk64 => 64) ∧
          c1 = 0 ∧ c2 = 0
        | .faddOrd => P = { ptype := pORDREQ, opx := 0x18A9, cidx := c1, ccnt := c2 } ∧ cut = 64 ∧ c1.toNat < c2.toNat) →
      (localBad B (fxAcc B c q false) A bytes).1 = false →
      shardFault B c q h (capPair k ri) (N.toNat % 2 ^ 32) (match op with | .plain _ => none | _ => some 4) = none →
      ∀ t, Owners B c q h (capPair k ri) (N.toNat % 2 ^ 32) segs t → Packets cut bytes segs t u (SendsBytes c q A P .sput) →
        exec (.sput y op a ri rn h) s = .next (x.transferred s c n y u bytes false))

/-- RLD, RST, RATOM, RCAS, SLD and SST complete with one request that carries R432's fields; RLD and SLD park their task; a release awaits
the task's earlier requests; FLUSH is performed when those have their responses and, with .sys, the task's earlier host-half writes have completed, and
waits else; SHFENCE is performed when no request carries an old GEN. The target's device, the token and the CIDX and CCNT fields are those of the target
word (R431), of an SLD or SST those of its owner record (R146, R147). -/
def Obligations.remote_elements : Prop :=
  ∀ (s B : State) (c n : Nat) (y : Sync) (t : IntTy) (b : Bool) (sc : RScope) (op : RatomOp) (o : Order) (noret : Bool) (r : AReg)
    (rv rk rc rn ri : SReg) (h : BitVec 12) (k : Task) (x : Issue) (q : Entry) (R : Addr) (W : Word) (S wl : Nat),
    EngineReady s c n y .fx → k = s.task c n → q = x.started s c n y → B = x.begun s c n y → R = k.areg r → W = k.sreg rc →
    S = (match sc with | .fab => 2 | .sys => 3) → wl = (match t.w with | .w8 => 0 | .w16 => 1 | .w32 => 2 | .w64 => 3) →
    (x = { fx (.rld y t b sc rv r rk rc) (fun z => [0, capA z r, capS z rk, capS z rc]) with parks := true } → W.toNat < 2 ^ 15 → (B.tagFor (W.setWidth 16)).isSome = true →
      R.toNat % t.w.bytes = 0 → exec (.rld y t b sc rv r rk rc) s = .next (settle c q (oneSent c q true t.w.bytes (B.request c q
        { ptype := pLDREQ, dst := W.setWidth 16, token := k.sreg rk, addr := R,
          opx := BitVec.ofNat 16 (1024 * S + 256 * (if b then 1 else 0) + 16 * wl) } none (.ld rv t) 0 t.w.bytes [] none none)))) ∧
    (x = fx (.rst y t b sc rv r rk rc) (fun z => [capS z rv, capA z r, capS z rk, capS z rc]) → W.toNat < 2 ^ 15 → (B.tagFor (W.setWidth 16)).isSome = true →
      R.toNat % t.w.bytes = 0 → (b = true → B.flushed c q = true) →
      exec (.rst y t b sc rv r rk rc) s = .next (settle c q (oneSent c q b t.w.bytes (B.request c q
        { ptype := pSTREQ, dst := W.setWidth 16, token := k.sreg rk, addr := R, len := BitVec.ofNat 16 t.w.bytes,
          opx := BitVec.ofNat 16 (1024 * S + 256 * (if b then 2 else 0) + 16 * wl),
          payload := toBytes (k.sreg rv).toNat t.w.bytes } none .st 0 t.w.bytes [] none none)))) ∧
    (∀ code w flt sg ty cidx ccnt, x = fx (.ratom y op o sc noret rv r rk rc) (fun z => [capS z rv, capA z r, capS z rk, capS z rc]) →
      cidx = W.extractLsb' 16 16 → ccnt = W.extractLsb' 32 16 → W.getLsbD 15 = false → W.toNat < 2 ^ 48 →
      (B.tagFor ((W.setWidth 15).setWidth 16)).isSome = true →
      (match op with
        | .int op ty' => code = (match op with | .add => 0 | .and => 1 | .or => 2 | .xor => 3 | .min => 4 | .max => 5 | .xchg => 6) ∧
          w = ty'.w.bytes ∧ flt = false ∧ sg = (ty'.signed && (code == 4 || code == 5)) ∧ ty = ty' ∧ cidx = 0 ∧ ccnt = 0
        | .fadd f => code = 8 ∧ w = (match f with | .f32 => 4 | .f64 => 8) ∧ flt = true ∧ sg = false ∧
          ty = (match f with | .f32 => ⟨.w32, false⟩ | .f64 => ⟨.w64, false⟩) ∧ cidx = 0 ∧ ccnt = 0
        | .faddOrd f => code = 9 ∧ w = (match f with | .f32 => 4 | .f64 => 8) ∧ flt = true ∧ sg = false ∧
          ty = (match f with | .f32 => ⟨.w32, false⟩ | .f64 => ⟨.w64, false⟩) ∧ cidx.toNat < ccnt.toNat) →
      R.toNat % w = 0 → (o = .rel ∨ o = .ar → B.flushed c q = true) →
      exec (.ratom y op o sc noret rv r rk rc) s = .next (settle c q (oneSent c q (!noret || o != .rlx) w (B.request c q
        { ptype := if code = 9 then pORDREQ else pATOMREQ, dst := (W.setWidth 15).setWidth 16, token := k.sreg rk, addr := R,
          len := BitVec.ofNat 16 w, cidx := cidx, ccnt := ccnt,
          opx := BitVec.ofNat 16 ((if sg then 8192 else 0) + (if noret then 4096 else 0) + 1024 * S +
            256 * (match o with | .rlx => 0 | .acq => 1 | .rel => 2 | .ar => 3) + (if flt then 128 else 0) + 16 * Nat.log2 w + code),
          payload := toBytes (k.sreg rv).toNat w } none (.atom rv ty noret) 0 w [] none none)))) ∧
    (x = fx (.rcas y t o sc rv r rn rc) (fun z => [capS z rv, capA z r, capS z rn, capPair z rc]) → W.toNat < 2 ^ 15 → (B.tagFor (W.setWidth 16)).isSome = true →
      R.toNat % t.w.bytes = 0 → (o = .rel ∨ o = .ar → B.flushed c q = true) →
      exec (.rcas y t o sc rv r rn rc) s = .next (settle c q (oneSent c q true t.w.bytes (B.request c q
        { ptype := pCASREQ, dst := W.setWidth 16, token := k.sreg (rc + 1), addr := R, len := BitVec.ofNat 16 (2 * t.w.bytes),
          opx := BitVec.ofNat 16 (1024 * S + 256 * (match o with | .rlx => 0 | .acq => 1 | .rel => 2 | .ar => 3) + 16 * wl),
          payload := toBytes (k.sreg rv).toNat t.w.bytes ++ toBytes (k.sreg rn).toNat t.w.bytes } none (.cas rv t) 0 t.w.bytes [] none none)))) ∧
    (x = fx (.flush y sc) noCaps → (B.flushed c q = true → (sc = .sys → B.hostWritten c q = true) → exec (.flush y sc) s = .next (x.ended s c n y B 0)) ∧
      (B.flushed c q = false ∨ sc = .sys ∧ B.hostWritten c q = false → exec (.flush y sc) s = .next (settle c q ⟨B, 0, 0, .stall⟩))) ∧
    (∀ g u, x = { fx (.sld y t b sc rv ri h) (fun z => [0, capPair z ri]) with parks := true } →
      shardFault B c q h (capPair k ri) 1 (some t.w.bytes) = none → Owners B c q h (capPair k ri) 1 [g] u →
      g.addr.toNat % t.w.bytes = 0 → (u.tagFor (g.dev.setWidth 16)).isSome = true → exec (.sld y t b sc rv ri h) s = .next (settle c q (oneSent c q true t.w.bytes (u.request c q
        { ptype := pLDREQ, dst := g.dev.setWidth 16, token := g.token, addr := g.addr,
          opx := BitVec.ofNat 16 (1024 * S + 256 * (if b then 1 else 0) + 16 * wl) } none (.ld rv t) 0 t.w.bytes [] none g.shard)))) ∧
    (∀ g u, x = fx (.sst y t b sc rv ri h) (fun z => [capS z rv, capPair z ri]) →
      shardFault B c q h (capPair k ri) 1 (some t.w.bytes) = none → Owners B c q h (capPair k ri) 1 [g] u →
      g.addr.toNat % t.w.bytes = 0 → (u.tagFor (g.dev.setWidth 16)).isSome = true → (b = true → u.flushed c q = true) →
      exec (.sst y t b sc rv ri h) s = .next (settle c q (oneSent c q b t.w.bytes (u.request c q
        { ptype := pSTREQ, dst := g.dev.setWidth 16, token := g.token, addr := g.addr, len := BitVec.ofNat 16 t.w.bytes,
          opx := BitVec.ofNat 16 (1024 * S + 256 * (if b then 2 else 0) + 16 * wl),
          payload := toBytes (k.sreg rv).toNat t.w.bytes } none .st 0 t.w.bytes [] none g.shard)))) ∧
    (∀ stale : Prop, x = fx (.shfence y) noCaps → (stale ↔ ∃ z h' g, z ∈ B.outst ∧ z.by c n (B.task c n).sweep = true ∧ z.shard = some (h', g) ∧
        g ≠ (B.handle h').gen) →
      (¬stale → exec (.shfence y) s = .next (x.ended s c n y B 0)) ∧ (stale → exec (.shfence y) s = .next (settle c q ⟨B, 0, 0, .stall⟩)))

/-- SHUPD, GRANT and REVOKE complete in privileged mode: a valid image replaces a handle's entry under its next GEN, a grant token carries
R443's fields and its MAC, a revocation changes the window's key (its new value is the model's free value Config.freeKey of a counter, DESIGN CHOICE,
log 9); in other tasks each is ILLEGAL. -/
def Obligations.privileged_fabric : Prop :=
  ∀ (s B t : State) (c n : Nat) (y : Sync) (sd sa : SReg) (a : AReg) (h : BitVec 12) (k : Task) (x : Issue) (q : Entry) (A : Addr) (G : Word)
    (l : Pieces) (e : ShardEnt), EngineReady s c n y .fx → k = s.task c n → q = x.started s c n y → B = x.begun s c n y → A = k.areg a →
    G = k.sreg sa →
    (k.priv = false → exec (.shupd y sd a h) s = .next (s.issueTrap c n cILLEGAL 0 0) ∧
      exec (.grant y sd sa) s = .next (s.issueTrap c n cILLEGAL 0 0) ∧ exec (.revoke y sa) s = .next (s.issueTrap c n cILLEGAL 0 0)) ∧
    (k.priv = true → x = fx (.shupd y sd a h) (fun z => [0, capA z a]) → A.toNat % 64 = 0 → spBad B (fxAcc B c q false) A 64 = false →
      Reads B c q (fxAcc B c q false) A 64 t l → t.awaitsData c q l = false → e = leBits 512 (t.readAll l) → e.bad = false →
      t.carried h ((t.handle h).gen + 1) = false → exec (.shupd y sd a h) s = .next (x.ended s c n y
        (({ t with shtab := Tab.set t.shtab h.toNat (BitVec.ofNat 512
          (e.toNat / 2 ^ 16 * 2 ^ 16 + ((t.handle h).gen.toNat + 1) % 2 ^ 16)) }).modTask c n
          fun z => z.setS sd (BitVec.ofNat 64 (((t.handle h).gen.toNat + 1) % 2 ^ 16))) 64)) ∧
    (∀ exp tok, k.priv = true → grantBad s G = false →
      exp = s.ftime / 2 ^ 20 % 2 ^ 13 + (G.toNat / 2 ^ 12 % 2 ^ 13) →
      tok = BitVec.ofNat 40 (G.toNat / 2 ^ 25 % 2 ^ 15 * 2 ^ 25 + exp % 2 ^ 13 * 2 ^ 12 + G.toNat % 2 ^ 12) →
      Runs s c n y (.grant y sd sa) (·.setS sd (s.tokenMac (G.toNat / 2 ^ 28 % 2 ^ 12) tok ++ tok))) ∧
    (∀ w, k.priv = true → x = fx (.revoke y sa) (fun z => [capS z sa]) → 0 < G.toNat → G.toNat < 2 ^ 12 → w = s.window G.toNat →
      exec (.revoke y sa) s = .next (x.ended s c n y
        (({ B with nextKey := B.nextKey + 1 }).setWindow G.toNat { w with key := Config.freeKey s.nextKey, keyep := w.keyep + 1 }) 0)) ∧
    (grantBad s G = false ↔ G.toNat < 2 ^ 40 ∧ G.toNat / 2 ^ 28 % 2 ^ 12 ≠ 0 ∧ 0 < G.toNat / 2 ^ 12 % 2 ^ 13 ∧ G.toNat / 2 ^ 12 % 2 ^ 13 ≤ 4095 ∧
      G.toNat / 2 ^ 6 % 2 ^ 6 ≤ 52 ∧ (s.window (G.toNat / 2 ^ 28 % 2 ^ 12)).valid = true)

/-! ## Events of the device -/

/-- POWER_ON boots a device with accepted firmware (BOOTST 2), a measurement for each stage, and refuses a DEVID of a group above 544; firmware
that is not accepted stops boot (BOOTST 15) with every port DOWN. POWER_OFF loses what is not kept; DEVCTL_WARMRST keeps memory, records,
identity and derating and boots again with the same DEVID, or with none where it was refused; before boot it waits for firmware as before; an attestation reply is signed over R92's fields; TMCMD_TRUNCATE moves HEAD when every check passes and
always changes the nonce. The values of keys and nonces and what boot takes its inputs from are the model's (DESIGN CHOICE, logs 9 and 10), and so are
which fields warm reset and power-off keep and the DEVID after warm reset (DESIGN CHOICE, log 35), the climb of a throttled cluster and the clearing of
THROT (DESIGN CHOICE, log 34), the DETAIL of the derating and retirement events (DESIGN CHOICE, log 33), and a retirement's going on over a reset
(DESIGN CHOICE, log 69).
AGEING_SAMPLE lowers MAXSTEP of a drifted cluster or starts its retirement; SETSTEP is written up to MAXSTEP; a clock-change point takes the
least of SETSTEP, MAXSTEP and the throttle's limit and relocks on a change, and ends a retirement; the throttle steps down to 100 °C and up
again; a trip stops every clock; a matrix array, which is every member's, goes through its four gating states: AUTOIDLE gates it where some member's is
awake and none's is being gated or woken, and it is awake when every member's is. -/
def Obligations.power_and_clock_events : Prop :=
  (∀ (s b t : State), s.powered = false ∨ s.bootst = 0 → b = { s with powered := true } →
    (fwAccepted s.inp.fw s.secVer = true →
      t = { b.boot (givenId (s.inp.src.setWidth 15)) with
        secVer := max s.secVer s.inp.fw.secVer, measurements := s.inp.fw.stages.map sha256 } →
      exec .powerOn s = .next t ∧ t.powered = true ∧ t.bootst = 2 ∧ t.faultyCells = [] ∧
      (s.inp.src.toNat % 2 ^ 15 / 32 ≤ 544 → t.devid = s.inp.src.setWidth 15 ∧ t.idRefused = false ∧ t.ports = s.ports) ∧
      (544 < s.inp.src.toNat % 2 ^ 15 / 32 → t.devid = s.devid ∧ t.idRefused = true ∧ ∀ p, p < 48 → (t.port p).st = .down)) ∧
    (fwAccepted s.inp.fw s.secVer = false → exec .powerOn s = .next { b.portsDown with bootst := 15 } ∧
      ∀ p, p < 48 → (b.portsDown.port p).st = .down)) ∧
  (∀ (s : State), s.powered = true → s.bootst ≠ 0 → exec .powerOn s = .next s) ∧
  (∀ (s : State), exec .powerOff s = .next { State.reset with
      powered := false, cur := s.cur, agenda := s.agenda, focus := s.focus, inp := s.inp, deferStart := s.deferStart
      freeCtr := s.freeCtr, nextKey := s.nextKey, host := s.host, hostLog := s.hostLog
      hbm := { bytes := s.hbm.bytes.filter fun e => decide (0xBF1A000000 ≤ e.1) && decide (e.1 < 0xBF1B000000) }
      tide := s.tide, secVer := s.secVer, binds := s.binds, badHalves := s.badHalves, faultyCells := s.faultyCells
      defects := s.defects, clusters := s.clusters.map fun e => (e.1,
        { maxStep := e.2.maxStep, setStep := e.2.maxStep, curStep := e.2.maxStep, dcount := e.2.dcount, retired := e.2.retired,
          retiring := e.2.retiring, refs := e.2.refs }) }) ∧
  (∀ (s u t : State), s.powered = true → u = (if s.sweeps = [] then s else s.deviceFault fHOSTRESET) →
    (s.inp.v.getLsbD 0 = false → exec .devctlWarmrst s = .next s) ∧
    (s.inp.v.getLsbD 0 = true → u.bootst = 15 → exec .devctlWarmrst s = .next { u.warm.portsDown with bootst := 15 }) ∧
    (s.inp.v.getLsbD 0 = true → u.bootst = 0 → exec .devctlWarmrst s = .next u.warm ∧ u.warm.bootst = 0 ∧ u.warm.hbm.bytes = u.hbm.bytes) ∧
    (s.inp.v.getLsbD 0 = true → u.bootst ≠ 15 → u.bootst ≠ 0 → t = u.warm.boot (if u.idRefused then none else some u.devid) → exec .devctlWarmrst s = .next t ∧ t.bootst = 2 ∧
      t.faulted = false ∧ t.freason = 0 ∧ t.cores = [] ∧ t.sweeps = [] ∧ t.outst = [] ∧ t.tlb = [] ∧ t.ftime = u.ftime ∧
      t.keyslots = u.keyslots ∧ t.secVer = u.secVer ∧ t.measurements = u.measurements ∧ t.hbm.bytes = u.hbm.bytes ∧
      t.hbm.poison = u.hbm.poison ∧ t.hbm.latches = [] ∧ t.tide = u.tide ∧ t.strand = u.strand ∧ t.host = u.host ∧
      t.staging = u.staging ∧ (u.idRefused = false → t.devid = u.devid ∧ t.idRefused = false) ∧
      (u.idRefused = true → t.idRefused = true ∧ ∀ p, p < 48 → (t.port p).st = .down))) ∧
  (∀ (s : State), s.powered = true → s.bootst = 2 → exec .attestationRequest s = .next { s with hostLog := s.hostLog ++
    [.attestation s.inp.nonce s.devid s.measurements Config.fuseMapHash s.secVer (Config.identitySign (sha256
      (toBytes s.inp.nonce.toNat 32 ++ toBytes s.devid.toNat 2 ++ s.measurements.flatMap digestBytes ++
        digestBytes Config.fuseMapHash ++ toBytes s.secVer 4)))] }) ∧
  (∀ (s : State), s.powered = true → s.bootst ≠ 15 → ∃ N, N ≠ s.tide.nonce ∧
    (s.truncateOk s.inp.bytes = false →
      exec .tmcmdTruncate s = .next { s with tide := { s.tide with nonce := N }, freeCtr := s.freeCtr + 1 }) ∧
    (∀ h t, s.truncateOk s.inp.bytes = true → h = field s.inp.bytes 8 8 →
      t = ({ s with tide := { s.tide with basehash := leBits 256 (s.tideChain h).reverse, head := h } }).tideUpTo 262144 0x0101 0
        (toBytes s.tide.head 6 ++ toBytes h 6) →
      exec .tmcmdTruncate s = .next { t with tide := { t.tide with nonce := N }, freeCtr := s.freeCtr + 1 } ∧ t.tide.head = h)) ∧
  (∀ (s : State) (c : Nat) (k : Cluster) (temp : Nat), c = s.inp.cluster → k = s.cluster c → temp = s.inp.v.toNat →
    (s.powered = true → s.stopped = false → c < 16 → s.inp.counts.length = 8 → k.retired = false → k.retiring = false →
      driftPast (k.references c) s.inp.counts = true →
      (k.maxStep ≠ 0 → exec .ageingSample s = .next ((s.setCluster c { k with
        maxStep := k.maxStep - 1, dcount := k.dcount + 1, refs := s.inp.counts }).strandEvent 0x04 c (toBytes (k.maxStep - 1) 1))) ∧
      (k.maxStep = 0 → exec .ageingSample s = .next (s.retireCluster c))) ∧
    (driftPast (k.references c) s.inp.counts = false → exec .ageingSample s = .next s) ∧
    (s.powered = true → s.bootst ≠ 15 → c < 16 →
      exec .clkSetstepWrite s = .next (s.setCluster c { k with setStep := min (s.inp.v.toNat / 256 % 64) k.maxStep })) ∧
    (∀ target u, s.powered = true → s.stopped = false → c < 16 → k.relocking = false →
      target = min (min k.setStep k.maxStep) (k.limit.getD k.maxStep) →
      u = s.setCluster c { k with setStep := min k.setStep k.maxStep, curStep := target, relocking := decide (target ≠ k.curStep) } →
      (k.retiring = false ∨ k.retired = true ∨ u.unitsOn c ≠ [] → exec .clockChangePoint s = .next u) ∧
      (k.retiring = true → k.retired = false → u.unitsOn c = [] → exec .clockChangePoint s =
        .next ((u.setCluster c { u.cluster c with retired := true }).strandEvent 0x05 c []))) ∧
    (k.relocking = true → exec .clockRelockComplete s = .next (s.setCluster c { k with relocking := false })) ∧
    (s.powered = true → s.stopped = false → c < 16 → 105 ≤ temp → exec .thermalThrottle s =
      .next (s.setCluster c { k with throt := true, climb := false, limit := some (k.limit.getD k.curStep) })) ∧
    (∀ l (z : Cluster) T, s.powered = true → s.stopped = false → k.throt = true → k.limit = some l →
      z = (if k.climb = true ∨ temp < 100 then
          (if k.setStep ≤ l + 1 then { k with throt := false, climb := false, limit := none } else { k with climb := true, limit := some (l + 1) })
        else { k with limit := some (min l k.curStep - 1) }) →
      T = min (min z.setStep z.maxStep) (z.limit.getD z.maxStep) →
      exec .throttleStep s = .next (s.setCluster c
        { z with setStep := min z.setStep z.maxStep, curStep := T, relocking := z.relocking || decide (T ≠ z.curStep) })) ∧
    (s.powered = true → s.stopped = false → exec .thermalTrip s = .next { (s.deviceFault fTHERMAL).portsDown with stopped := true } ∧
      (s.deviceFault fTHERMAL).faulted = true ∧ ∀ p, p < 48 → ((s.deviceFault fTHERMAL).portsDown.port p).st = .down) ∧
    (∀ d, d = s.leaderOf s.inp.core →
      ((s.core d).autoIdle ≠ 0 → s.mayGate d = true → ((s.core d).queue.all fun q => q.eng != .mx) = true →
        exec .matrixAutoidleGate s = .next (s.setGate d .gating)) ∧
      (s.mayGate d = false → exec .matrixAutoidleGate s = .next s) ∧
      (s.arrayGate d = .gating → exec .matrixGatingDone s = .next (s.setGate d .gated)) ∧
      (s.arrayGate d = .waking → exec .matrixWakeDone s = .next (s.setGate d .awake))) ∧
    (∀ d g i, i < 288 → ((s.setGate d g).core i).gate = if d ≤ i ∧ i < d + (s.core d).mode.size then g else (s.core i).gate) ∧
    (∀ d g, (s.setGate d g).arrayGate d = g) ∧
    (∀ d, s.mayGate d = true ↔ (∃ i, i < (s.core d).mode.size ∧ (s.core (d + i)).gate = .awake) ∧
      ∀ i, i < (s.core d).mode.size → (s.core (d + i)).gate ≠ .gating ∧ (s.core (d + i)).gate ≠ .waking) ∧
    (∀ d, s.arrayGate d = .awake ↔ ∀ i, i < (s.core d).mode.size → (s.core (d + i)).gate = .awake))

/-- A good flit's ACK frees the retry buffer it covers; IDLE returns credits, an in-order flit advances what is expected, gives its CRD and
joins its channel's packet, a flit already accepted is dropped, any other starts one RETRY, as a bad CRC or TYPE 7 does; a RETRY or an ACK that
stands still replays the buffer byte for byte, and the eighth replay of one flit retrains. A port sends control flits first, then sequenced ones
under credit while fewer than 512 are unacknowledged, else IDLE with every credit that is due. Flits fill codeword rows, byte k of a row on the
(k mod W)-th active lane behind its marker. (What an unsequenced counter does is the model's choice, log 67.) -/
def Obligations.flit_events : Prop :=
  ∀ (s : State) (n : Nat) (p : Port) (f : Flit), n = s.inp.port → p = s.port n → f = s.inp.flit → p.st = .active → s.stopped = false →
    (∀ g q, openFlit (s.rxKey n f) f = some g → q = { p.takeAck g.ack with
        unseqRx := if p.perhopOn = true ∧ ¬(1 ≤ f.ftype.toNat ∧ f.ftype.toNat ≤ 4) then p.unseqRx + 1 else p.unseqRx } →
      (f.ftype = 0 → exec .idleFlitReceive s = .next (s.setPort n (q.takeCredits g.body)) ∧ ∀ v : BitVec 3,
        (q.takeCredits g.body).credit v = q.credit v + (g.body.extractLsb' (16 * v.toNat) 16).toNat) ∧
      (f.ftype = 5 → exec .retryReceive s = .next ((s.setPort n q).replay n)) ∧
      (1 ≤ f.ftype.toNat → f.ftype.toNat ≤ 4 →
        (g.seq = q.rxExpect → exec .sequencedFlitReceive s = .next ((s.setPort n { q with
          rxLast := g.seq, rxExpect := g.seq + 1, awaiting := false, rxEpoch := if g.seq = 0xFFF then q.rxEpoch + 1 else q.rxEpoch,
          cred := Tab.set q.cred (g.seq.toNat % 8) (Tab.get 0 q.cred (g.seq.toNat % 8) + g.crd.toNat) }).acceptBody n g.ftype g.vc g.body)) ∧
        (g.seq ≠ q.rxExpect → (q.rxExpect - g.seq).toNat ≤ 512 → exec .sequencedFlitReceive s = .next (s.setPort n q)) ∧
        (512 < (q.rxExpect - g.seq).toNat → exec .sequencedFlitReceive s = .next ((s.setPort n q).linkFailure n))) ∧
      (f.ftype = 6 → (g.body.extractLsb' 0 8).toNat = 1 ∨ (g.body.extractLsb' 0 8).toNat = 4 →
        exec .laneProposeReceive s = .next ((s.setPort n q).acceptTx n (g.body.extractLsb' 8 8) (g.body.extractLsb' 0 8 == 4))) ∧
      (f.ftype = 6 → (g.body.extractLsb' 0 8).toNat = 2 →
        exec .laneCommitReceive s = .next (if q.rxProp.isSome then (s.setPort n q).adoptRx n (g.body.extractLsb' 8 8) else s.setPort n q)) ∧
      (f.ftype = 6 → (g.body.extractLsb' 0 8).toNat = 3 → exec .laneDoneReceive s = .next ((s.setPort n q).closeTx n))) ∧
    (f.ftype = 7 → openFlit (s.rxKey n f) f = none) ∧
    (openFlit (s.rxKey n f) f = none → ∀ t,
      t = (s.setPort n { p with crcerr := if p.crcerr = 0xFFFFFFFF then p.crcerr else p.crcerr + 1 }).linkFailure n →
      (f.ftype = 0 → exec .idleFlitReceive s = .next t) ∧ (f.ftype = 5 → exec .retryReceive s = .next t) ∧
      (1 ≤ f.ftype.toNat → f.ftype.toNat ≤ 4 ∨ f.ftype.toNat = 7 → exec .sequencedFlitReceive s = .next t)) ∧
    ((s.linkFailure n).port n = if p.awaiting then p else { p with awaiting := true, ctl := p.ctl ++ [(5, 0)] }) ∧
    (∀ a d, d = (a - p.ackRecv).toNat → (1 ≤ d ∧ d ≤ p.retry.length →
      p.takeAck a = { p with ackRecv := a, retry := p.retry.drop d, sameReplay := 0 }) ∧ (d = 0 ∨ p.retry.length < d → p.takeAck a = p)) ∧
    (∀ ty vc b l, l = (if ty = 1 ∨ ty = 4 then [] else Tab.get [] p.asm vc.toNat) ++ toBytes (BitVec.toNat b) 64 →
      (ty = 1 ∨ ty = 2 → s.acceptBody n ty vc b = s.setPort n { p with asm := Tab.set p.asm vc.toNat l }) ∧
      (ty = 3 ∨ ty = 4 → s.acceptBody n ty vc b =
        (s.setPort n { p with asm := Tab.del p.asm vc.toNat }).packetArrives n vc (packetOf l))) ∧
    (p.resendAll.sent = p.sent ++ p.retry.map (fun e => e.2) ∧ p.resendAll.retry = p.retry ∧ p.resendAll.txSeq = p.txSeq ∧
      (p.retry ≠ [] → p.resendAll.replays = if p.replays = 0xFFFFFFFF then p.replays else p.replays + 1)) ∧
    exec .replayTimeout s = .next (s.replay n) ∧ (p.retry = [] → s.replay n = s) ∧
    (∀ a b l k t, p.retry = (a, b) :: l → k = (if p.sameReplay ≠ 0 ∧ p.replayAt = a then p.sameReplay + 1 else 1) →
      t = s.setPort n { p.resendAll with sameReplay := k, replayAt := a } →
      (k < 8 → s.replay n = t) ∧ (8 ≤ k → s.replay n = t.trainPort n true)) ∧
    (p.awaiting = true → exec .retryResendTimeout s = .next (s.setPort n { p with ctl := p.ctl ++ [(5, 0)] })) ∧
    (∀ m adm, p.rxProp = some (m, adm) → exec .laneProposeRepeat s =
      .next (s.setPort n { p with ctl := p.ctl ++ [(6, laneBody (if adm then 4 else 1) m)] })) ∧
    (∀ ty body l, p.ctl = (ty, body) :: l → exec .flitTransmit s = .next (s.setPort n
      { { p with ctl := l }.emit [mkFlit (s.txKey n (2 ^ 63 + p.unseqTx)) ty 0 p.txSeq p.rxLast 0 body] with
        unseqTx := if p.perhopOn then p.unseqTx + 1 else p.unseqTx })) ∧
    (∀ ty vc body k d fl, p.ctl = [] → p.retry.length < 512 → p.pend.find? (fun e => p.credit e.2.1 != 0) = some (ty, vc, body) →
      k = p.txSeq.toNat % 8 → d = min 3 (p.due k) →
      fl = mkFlit (s.txKey n (p.seqEpoch * 4096 + p.txSeq.toNat)) ty vc p.txSeq p.rxLast (BitVec.ofNat 2 d) body →
      exec .flitTransmit s = .next (s.setPort n { p.emit [fl] with
        retry := p.retry ++ [(p.txSeq, fl)], txSeq := p.txSeq + 1, seqEpoch := if p.txSeq = 0xFFF then p.seqEpoch + 1 else p.seqEpoch,
        cred := Tab.set p.cred vc.toNat (p.credit vc - 1), credDue := Tab.set p.credDue k (p.due k - d),
        pend := p.pend.erase (ty, vc, body) }) ∧
      Flit.ftype fl = ty ∧ Flit.vc fl = vc ∧ Flit.seq fl = p.txSeq ∧ Flit.ack fl = p.rxLast ∧ (Flit.crd fl).toNat = d) ∧
    (p.ctl = [] → 512 ≤ p.retry.length ∨ p.pend.find? (fun e => p.credit e.2.1 != 0) = none → exec .flitTransmit s = .next (s.setPort n
      { { p with credDue := [] }.emit [mkFlit (s.txKey n (2 ^ 63 + p.unseqTx)) 0 0 p.txSeq p.rxLast 0
          (leBits 512 ((List.range 8).flatMap fun v => toBytes (p.due v) 2))] with
        unseqTx := if p.perhopOn then p.unseqTx + 1 else p.unseqTx })) ∧
    (∀ fl w l, w = width p.txmap → 2 ≤ w → l = p.txBytes ++ toBytes (BitVec.toNat fl) 72 →
      (l.length < 640 * w → p.emit [fl] = { p with sent := p.sent ++ [fl], txBytes := l }) ∧
      (640 * w ≤ l.length → l.length < 1280 * w → p.emit [fl] = { p with
        sent := p.sent ++ [fl], txBytes := l.drop (640 * w), txOdd := !p.txOdd, rows := p.rows ++ [p.rowOf (l.take (640 * w))] })) ∧
    (∀ i bs, i < 8 → p.lanesTx.getLsbD i = true →
      (p.txmap.getLsbD i = false → (i, LaneOut.training) ∈ p.rowOf bs) ∧
      (p.txmap.getLsbD i = true → bs.length = 640 * width p.txmap → ∃ m l, (i, LaneOut.codeword m l) ∈ p.rowOf bs ∧ l.length = 640 ∧
        m = laneMarker i p.txmap ((p.rxProp.map fun e => e.1).getD p.rxmap) p.txOdd ∧
        ∀ k, k < 640 → l.getD k 0 = bs.getD (k * width p.txmap + (lanesOf p.txmap).findIdx fun j => j == i) 0))

/-- A row of codewords is counted by lane in its window, a lane without a codeword in it too, closes a window that is full, is destriped over the receive map, and carries the map in
force and a proposal by majority; lanes that reach SHEDUC or BURST are proposed for shedding together; a window's end stores LANECNT, takes LTHR as
written and re-admits lanes shed for ADMWIN clean windows; a lane that loses lock counts every codeword from then on. A proposal is sent in a
PROPOSE or ADMIT flit, accepted by a switch of maps with zero fill, COMMIT and replay, and closed by DONE. -/
def Obligations.lane_events : Prop :=
  ∀ (s : State) (n : Nat) (p : Port), n = s.inp.port → p = s.port n → p.st = .active → s.stopped = false →
    (∀ (q : Port) (act : List LaneWord) (odd : Option Bool) (m : Option (BitVec 8)) (z a b c : State),
      z = (if p.window ≤ p.winRows then s.endWindow n else s) → q = z.port n →
      act = s.inp.row.filter (fun w => q.rxmap.getLsbD w.lane) → odd = majority (act.map fun w => w.odd) →
      m = majority (act.map fun w => w.map) → a = z.setPort n (q.countRow s.inp.row odd) →
      b = (match m with | some m => if m ≠ q.rxmap ∧ 2 ≤ width m then a.adoptRx n m else takeFlits false n 80 a | none => takeFlits false n 80 a) →
      c = b.rowProp n (majority (act.map fun w => w.prop)) →
      exec .codewordRowReceive s = .next ((takeFlits true n 80 (c.setPort n { c.port n with
        rxBytes := (c.port n).rxBytes ++ destripe s.inp.row (c.port n).rxmap, rowOdd := odd.getD (c.port n).rowOdd })).shedFailing n)) ∧
    (∀ hold k, (72 ≤ p.rxBytes.length → hold = false ∨ (∃ b ∈ p.rxBytes.take 72, b ≠ 0) → takeFlits hold n (k + 1) s =
        takeFlits hold n k ((s.setPort n { p with rxBytes := p.rxBytes.drop 72 }).receiveFlit n (leBits 576 (p.rxBytes.take 72)))) ∧
      (p.rxBytes.length < 72 ∨ (hold = true ∧ ∀ b ∈ p.rxBytes.take 72, b = 0) → takeFlits hold n k s = s)) ∧
    (∀ (row : List LaneWord) (m : BitVec 8) (i k : Nat) (w : LaneWord), row.find? (fun w => w.lane == i) = some w → i < 8 → m.getLsbD i = true →
      k < 640 → (destripe row m).getD (k * width m + (lanesOf m).findIdx fun j => j == i) 0 = w.bytes.getD k 0) ∧
    (∀ (row : List LaneWord) odd i (b : Bool) z, z = p.countRow row odd → i < 8 →
      b = (match row.find? (fun w => w.lane == i) with
        | some w => w.uncorrectable || w.lost || (match odd with | some o => w.odd != o | none => false) || p.lockLost.has i
        | none => true) →
      Tab.get 0 z.winCnt i = Tab.get 0 p.winCnt i + (if b then 1 else 0) ∧ Tab.get 0 z.consec i = (if b then Tab.get 0 p.consec i + 1 else 0) ∧
      z.lockLost.has i = (match row.find? (fun w => w.lane == i) with | some w => w.lost | none => p.lockLost.has i) ∧ z.winRows = p.winRows + 1) ∧
    (∀ i bad, (p.countLane i bad).consec = Tab.set p.consec i (if bad then Tab.get 0 p.consec i + 1 else 0) ∧
      Tab.get 0 (p.countLane i bad).winCnt i = Tab.get 0 p.winCnt i + (if bad then 1 else 0)) ∧
    (∀ i, i < 8 → (i ∈ p.failing ↔ p.rxmap.getLsbD i = true ∧
      (p.sheduc.toNat ≤ Tab.get 0 p.winCnt i ∨ p.burst.toNat ≤ Tab.get 0 p.consec i))) ∧
    (p.failing = [] → s.shedFailing n = s) ∧
    (∀ m, p.failing ≠ [] → m = dropLanes ((p.rxProp.bind fun e => if e.2 then none else some e.1).getD p.rxmap) p.failing →
      s.shedFailing n = s.proposeRx n m false ∧ ∀ i, i ∈ p.failing → m.getLsbD i = false) ∧
    (s.inp.lane < 8 → exec .laneLossOfLock s = .next (s.setPort n { p with lockLost := p.lockLost.add s.inp.lane })) ∧
    (p.winRows < 2 ^ p.winexp.toNat → exec .laneWindowEnd s = .next s) ∧
    (∀ w back t, 2 ^ p.winexp.toNat ≤ p.winRows → w = p.closeWindow → t = s.setPort n w →
      back = (w.clean.filter fun e => decide (p.admwin.toNat ≤ e.2)).map (fun e => e.1) →
      (back = [] ∨ w.rxProp.isSome = true → exec .laneWindowEnd s = .next t) ∧
      (back ≠ [] → w.rxProp = none → exec .laneWindowEnd s =
        .next (t.proposeRx n (back.foldl (fun m i => m ||| ((1 : BitVec 8) <<< i)) w.rxmap) true))) ∧
    (∀ i, i < 8 → Tab.get 0 p.closeWindow.lanecnt i = BitVec.ofNat 8 (min 255 (Tab.get 0 p.winCnt i)) ∧
      Tab.get 0 p.closeWindow.clean i =
        if p.winLive.getLsbD i = false ∧ Tab.get 0 p.winCnt i ≤ p.admuc.toNat then Tab.get 0 p.clean i + 1 else 0) ∧
    (p.closeWindow.winCnt = [] ∧ p.closeWindow.winRows = 0 ∧ p.closeWindow.winLive = p.rxmap ∧ p.closeWindow.lthrNext = none) ∧
    (∀ v, p.lthrNext = some v → p.closeWindow.sheduc = (if v.extractLsb' 24 8 = 0 then 1 else v.extractLsb' 24 8) ∧
      p.closeWindow.burst = (if v.extractLsb' 16 8 = 0 then 1 else v.extractLsb' 16 8) ∧ p.closeWindow.admuc = v.extractLsb' 8 8 ∧
      p.closeWindow.admwin = (if v.extractLsb' 0 8 = 0 then 1 else v.extractLsb' 0 8) ∧
      p.closeWindow.winexp = (if 10 ≤ (v.extractLsb' 32 8).toNat ∧ (v.extractLsb' 32 8).toNat ≤ 30 then v.extractLsb' 32 8 else 20)) ∧
    (s.powered = true → s.bootst ≠ 15 → n < 48 → exec .lthrWrite s = .next (s.setPort n { p with lthrNext := some (s.inp.v.setWidth 40) })) ∧
    (∀ m adm, (width m < 2 → s.proposeRx n m adm = s.trainPort n false) ∧
      (2 ≤ width m → p.rxProp ≠ some (m, adm) → m ≠ p.rxmap → s.proposeRx n m adm = s.setPort n { p with
        rxProp := some (m, adm), rxchg := true, ctl := p.ctl ++ [(6, laneBody (if adm then 4 else 1) m)] })) ∧
    (∀ m adm, 2 ≤ width m →
      (p.txNew = none → m ≠ p.txmap → s.acceptTx n m adm = s.switchTx n m) ∧
      (∀ x, p.txNew = some x → x ≠ m → s.acceptTx n m adm = s.setPort n { p with txHeld := some (m, adm) })) ∧
    (∀ m q, q = (s.switchTx n m).port n → q.txmap = m ∧ q.txchg = true ∧ q.txNew = some m ∧ q.retry = p.retry ∧ ∃ fl, q.sent = p.sent ++ fl ::
      p.retry.map (fun e => e.2)) ∧
    (p.txHeld = none → s.closeTx n = s.setPort n { p with txchg := false, txNew := none }) ∧
    (∀ m q, m ≠ p.rxmap → q = (s.adoptRx n m).port n → q.rxmap = m ∧ q.rxBytes = [] ∧ q.ctl = p.ctl ++ [(6, laneBody 3 m)] ∧
      q.winCnt = p.winCnt ∧ (p.rxProp = none ∨ (p.rxProp.map fun e => e.1) = some m → q.rxProp = none ∧ q.rxchg = false))

/-- A training word takes a port through SPEED, MAP, CONFIRM and READY to ACTIVE, DOWN or STRANDED; a neighbour of a group above 544 leaves it
DOWN; a bad CRC or reserved field changes nothing; a stranded or down port trains again when its timer says so; LCTL's bits clear, retrain, hold
and set per-hop encryption, and only CLRDOWN ends MARKED DOWN; a millisecond's end decides degradation. That a MAP word serves in the SPEED phase and
what a loss of lock does in training are the model's readings (DEDUCED, log 39); the byte order under the CRC (log 40), the kept credits, the next block
of nonces, the training that a release of HOLD starts and the thresholds of the window that a training begins (log 67), and the DETAIL of a Stranded
event (log 33) are its choices. -/
def Obligations.training_and_port_register_events : Prop :=
  ∀ (s : State) (n : Nat) (p : Port) (w : BitVec 128) (v : BitVec 64), n = s.inp.port → p = s.port n → w = s.inp.v.extractLsb' 0 128 →
    v = s.inp.v.setWidth 64 →
    (p.st = .training → s.canTrain = true →
      (w.extractLsb' 32 40 ≠ 0 ∨ crc32c (toBytes (w.extractLsb' 32 96).toNat 12) ≠ w.extractLsb' 0 32 → exec .trainingWordReceive s = .next s) ∧
      (w.extractLsb' 32 40 = 0 → crc32c (toBytes (w.extractLsb' 32 96).toNat 12) = w.extractLsb' 0 32 →
        (544 < (w.extractLsb' 81 15).toNat / 32 → exec .trainingWordReceive s = .next (s.setPort n { p with st := .down, idBad := true })) ∧
        ((w.extractLsb' 81 15).toNat / 32 ≤ 544 → ∀ t u d, t = { p with
            peerId := w.extractLsb' 81 15, peerPort := w.extractLsb' 75 6, lanesRx := if p.phase = .speed then s.inp.map else p.lanesRx } →
          u = { t with phase := .confirm, peerTx := w.extractLsb' 112 8, peerRx := w.extractLsb' 104 8 } →
          (w.extractLsb' 124 4 = 0 → w.extractLsb' 120 4 = 1 → p.phase = .speed →
            exec .trainingWordReceive s = .next ((s.setPort n { t with phase := .map }).sendWord n)) ∧
          (w.extractLsb' 124 4 = 1 → p.phase = .speed ∨ p.phase = .map →
            exec .trainingWordReceive s = .next ((s.setPort n u).sendWord n)) ∧
          (w.extractLsb' 124 4 = 2 → p.phase = .confirm →
            d = disagreement (w.extractLsb' 120 4).toNat (w.extractLsb' 100 4).toNat (w.extractLsb' 96 4).toNat (w.extractLsb' 112 8)
              (w.extractLsb' 104 8) (p.lanesTx &&& p.peerRx) (p.peerTx &&& p.lanesRx) →
            (d ≠ 0 → exec .trainingWordReceive s = .next ((s.setPort n t).strandPort n d)) ∧
            (d = 0 → exec .trainingWordReceive s =
              .next (((s.setPort n { t with phase := .ready, sentReady := true }).sendWord n).tryFinish n))) ∧
          (w.extractLsb' 124 4 = 3 → p.phase = .confirm ∨ p.phase = .ready →
            exec .trainingWordReceive s = .next ((s.setPort n { t with gotReady := true }).tryFinish n)))) ∧
      (∀ b, b = p.wordBits s.devid n → exec .trainingWordRepeat s =
        .next (s.setPort n { p with words := p.words ++ [b ++ crc32c (toBytes b.toNat 12)] }) ∧
        b.extractLsb' 92 4 = BitVec.ofNat 4 p.phase.code ∧ b.extractLsb' 88 4 = 1 ∧ b.extractLsb' 49 15 = s.devid ∧
        b.extractLsb' 43 6 = BitVec.ofNat 6 n ∧ b.extractLsb' 40 3 = p.strcnt ∧ b.extractLsb' 0 40 = 0 ∧
        (p.phase = .speed ∨ p.phase = .map → b.extractLsb' 80 8 = p.lanesTx ∧ b.extractLsb' 72 8 = p.lanesRx) ∧
        (p.phase = .confirm ∨ p.phase = .ready → b.extractLsb' 80 8 = p.lanesTx &&& p.peerRx ∧ b.extractLsb' 72 8 = p.peerTx &&& p.lanesRx))) ∧
    (p.st = .training → s.inp.lane < 8 →
      (p.phase = .speed ∨ p.phase = .map → exec .laneLossOfLock s = .next (s.setPort n { p with lanesRx := dropLanes p.lanesRx [s.inp.lane] })) ∧
      (p.phase = .confirm ∨ p.phase = .ready → exec .laneLossOfLock s = .next (s.setPort n { p with lockLost := p.lockLost.add s.inp.lane }))) ∧
    (p.sentReady = false ∨ p.gotReady = false → s.tryFinish n = s) ∧
    (∀ tx rx u, p.sentReady = true → p.gotReady = true → tx = p.lanesTx &&& p.peerRx → rx = p.peerTx &&& p.lanesRx →
      u = { p with st := .active, txmap := tx, rxmap := rx, winLive := rx, strcnt := 0, perhopOn := p.perhop } →
      (2 ≤ width tx → 2 ≤ width rx → p.keepSeq = true → s.tryFinish n = (s.setPort n u.resendAll).portChanged) ∧
      (2 ≤ width tx → 2 ≤ width rx → p.keepSeq = false → s.tryFinish n =
        (s.setPort n { u.nextBlock with cred := (List.range 8).map fun v => (v, if v < 6 then 128 else 192) }).portChanged) ∧
      (width tx < 2 ∨ width rx < 2 → s.tryFinish n = (s.setPort n { p with st := .down, txmap := tx, rxmap := rx }).portChanged)) ∧
    (∀ d k, k = p.strcnt + 1 → s.strandPort n d = (s.setPort n { p with
      st := if k.toNat < 3 then .stranded else .markedDown, disag := d, strcnt := k, backoff := decide (k.toNat < 3) }).strandEvent 3 n
      [k.setWidth 8, d.setWidth 8]) ∧
    (s.canTrain = true → ∀ keep, s.trainPort n keep = (s.setPort n (p.train keep)).portChanged ∧ (p.train keep).st = .training ∧
      (p.train keep).phase = .speed ∧ (keep = true → (p.train keep).retry = p.retry ∧ (p.train keep).txSeq = p.txSeq ∧
        (p.train keep).rxExpect = p.rxExpect) ∧ (p.train keep).winRows = 0 ∧ (p.train keep).lthrNext = p.lthrNext ∧
      (keep = false → (p.train keep).retry = [] ∧ (p.train keep).txSeq = 0 ∧ (p.train keep).rxExpect = 0 ∧ (p.train keep).rxLast = 0xFFF)) ∧
    (p.st = .stranded → p.backoff = true → exec .strandedBackoffExpiry s = .next (s.trainPort n false)) ∧
    (p.st = .down → p.hold = false → p.idBad = false → exec .downRetrainTimer s = .next (s.trainPort n false)) ∧
    (s.powered = true → s.bootst ≠ 15 → n < 48 →
      (v.getLsbD 7 = true → exec .lctlClrdown s = .next (s.writeLctl n v)) ∧
      (v.getLsbD 6 = true → exec .lctlClrcnt s = .next (s.writeLctl n v)) ∧
      (v.getLsbD 5 = true → exec .lctlRetrain s = .next (s.writeLctl n v)) ∧
      (v.getLsbD 4 ≠ p.hold → exec .lctlHold s = .next (s.writeLctl n v)) ∧
      (v.getLsbD 3 ≠ p.perhop → exec .lctlPerhop s = .next (s.writeLctl n v))) ∧
    (∀ q t, q = { p with hold := v.getLsbD 4, perhop := v.getLsbD 3 } →
      t = s.setPort n (if v.getLsbD 6 then { q with replays := 0, crcerr := 0, lanecnt := [], replayBase := 0 } else q) →
      (v.getLsbD 7 = false → v.getLsbD 5 = false → v.getLsbD 4 = p.hold ∨ p.st = .markedDown → s.writeLctl n v = t) ∧
      (v.getLsbD 7 = false → v.getLsbD 5 = true → p.st ≠ .markedDown → v.getLsbD 4 = false → p.hold = false →
        s.writeLctl n v = t.trainPort n (p.st == .active)) ∧
      (v.getLsbD 7 = false → v.getLsbD 4 = true → p.hold = false → p.st ≠ .markedDown →
        s.writeLctl n v = (t.setPort n { t.port n with st := .down }).portChanged) ∧
      (v.getLsbD 7 = false → v.getLsbD 5 = false → v.getLsbD 4 = false → p.hold = true → p.st ≠ .markedDown →
        s.writeLctl n v = t.trainPort n false) ∧
      (v.getLsbD 7 = true → v.getLsbD 4 = p.hold → ∀ u, u = t.setPort n { t.port n with
          strcnt := 0, st := if p.st = .markedDown then .down else p.st } →
        s.writeLctl n v = if p.hold then u else u.trainPort n false)) ∧
    (n < 48 → exec .portDegradeWindow s = .next (s.setPort n { p with
      degraded := decide (p.replayBase.toNat + s.router.rplim.toNat < p.replays.toNat), replayBase := p.replays }))

/-- A packet for this device is delivered, a link-local one ends here; at a decision point a packet of the group takes its direct port, one for
another group its best gateway, and at the source a detour that the drawn candidates make worth its bias; between decision points it follows its
path; where no port is eligible it takes the ebb channel of its class. It moves on when its port is eligible and holds a credit, counting HOPS up
to 63, and goes to the ebb channel when blocked at the head of its buffer for EBBT; ebb packets follow the table of their generation, one of the new
generation behind the DRAIN of its port. The position of a local detour, NthOther at the own position exclusive-or 1 + draw mod 30, the order of the
draws, and the cheapest of several own ports to a group are the model's readings (DEDUCED, log 38), the draws' register its choice (log 14). -/
def Obligations.packet_events : Prop :=
  ∀ (s : State) (i : Nat) (h : Held) (n g gd gi : Nat), i = s.inp.index → s.router.held[i]? = some h → s.powered = true → s.stopped = false →
    g = s.devid.toNat / 32 → gd = h.pkt.dst.toNat / 32 → gi = h.pkt.intm.toNat / 32 →
    (h.next = none → h.pkt.isLocal = true → exec .packetRoute s = .next
      ((if h.pkt.ptype = pDRAIN then h.arrived else none).elim (s.dropHeld i h) (fun a => (s.dropHeld i h).drainArrives a))) ∧
    (h.next = none → h.pkt.isLocal = false → h.vc.toNat < 6 → ∀ t, t = s.routeHeld i h → exec .packetRoute s = .next t ∧
      (h.pkt.dst.toNat = s.devid.toNat → t = (s.dropHeld i h).deliver h.pkt h.arrived) ∧
      (h.pkt.dst.toNat ≠ s.devid.toNat →
        (h.arrived.isSome = true → s.decides h = true → g = gd → ∀ v, v = (if h.vc.toNat % 3 = 1 ∧ h.pkt.intm.toNat = s.devid.toNat then h.vc + 1 else h.vc) →
          (s.localPort (h.pkt.dst.toNat % 32) = some n → s.eligible n = true → t = s.setHeld i { h with vc := v, next := some n }) ∧
          (s.localPort (h.pkt.dst.toNat % 32) = some n → s.eligible n = false → t = s.enterEbb i h) ∧
          (s.localPort (h.pkt.dst.toNat % 32) = none → t = s.enterEbb i h)) ∧
        (h.arrived.isSome = true → s.decides h = true → g ≠ gd → ∀ v dest, v = (if h.vc.toNat % 3 = 1 ∧ g = gi then h.vc + 1 else h.vc) →
          dest = (if h.vc.toNat % 3 = 1 ∧ g ≠ gi then gi else gd) →
          (∀ c, s.bestGateway dest v.toNat = some (n, c) → t = s.setHeld i { h with vc := v, next := some n }) ∧
          (s.bestGateway dest v.toNat = none → t = s.enterEbb i h)) ∧
        (∀ u x pos k, h.arrived = none → g = gd → h.vc.toNat % 3 ≠ 1 → s.drawRoute = (u, x) →
          pos = nthOther s.devid.toNat h.pkt.dst.toNat ((s.devid.toNat % 32) ^^^ (1 + x % 30)) →
          s.localPort pos = some k → s.localPort (h.pkt.dst.toNat % 32) = some n → s.eligible k = true → s.eligible n = true →
          t = if 2 * s.portCost k (vcOf h.pkt 1) + 840 * s.router.nmbias.toNat < s.portCost n (vcOf h.pkt 0) then
            u.takeDetour i h k (g * 32 + pos) else u.setHeld i { h with next := some n }) ∧
        (∀ u x u' x' c ks, h.arrived = none → g ≠ gd → h.vc.toNat % 3 ≠ 1 → s.drawRoute = (u, x) → u.drawRoute = (u', x') →
          s.bestGateway gd h.vc.toNat = some (n, c) →
          ks = [x % 545, x' % 545].filter (fun k => k != g && k != gd && (Sparse.get s.router.gtab k).getLsbD 42) →
          ((∀ k m e, k ∈ ks → s.bestGateway k (vcOf h.pkt 1) = some (m, e) → c ≤ 2 * e + 840 * s.router.nmbias.toNat) →
            t = u'.setHeld i { h with next := some n }) ∧
          (∀ k m e, k ∈ ks → s.bestGateway k (vcOf h.pkt 1) = some (m, e) → 2 * e + 840 * s.router.nmbias.toNat < c →
            (∀ k' m' e', k' ∈ ks → k' ≠ k → s.bestGateway k' (vcOf h.pkt 1) = some (m', e') → e < e' ∨ (e = e' ∧ m < m')) →
            t = u'.takeDetour i h m (k * 32))) ∧
        (s.decides h = false → g = gd →
          (s.localPort (h.pkt.dst.toNat % 32) = some n → s.eligible n = true → t = s.setHeld i { h with next := some n }) ∧
          (s.localPort (h.pkt.dst.toNat % 32) = none → t = s.enterEbb i h)) ∧
        (s.decides h = false → g ≠ gd → ∀ o, o = s.cheapest h.vc.toNat (s.ownGateways (if h.vc.toNat % 3 = 1 ∧ g ≠ gi then gi else gd)) →
          (∀ c, o = some (n, c) → t = s.setHeld i { h with next := some n }) ∧ (o = none → t = s.enterEbb i h)))) ∧
    (s.decides h = true ↔ h.arrived = none ∨ (∃ a, h.arrived = some a ∧
      (31 ≤ a ∨ (h.vc.toNat % 3 = 1 ∧ h.pkt.intm.toNat = s.devid.toNat)))) ∧
    (h.next = some n → h.vc.toNat < 6 →
      (s.eligible n = false → exec .packetForward s = .next (s.enterEbb i { h with next := none })) ∧
      (s.eligible n = true → (s.port n).credit h.vc = 0 → exec .packetForward s = .next s) ∧
      (s.eligible n = true → (s.port n).credit h.vc ≠ 0 → h.pkt.hops ≠ 62 →
        exec .packetForward s = .next ((s.dropHeld i h).queuePacket n h.vc { h.pkt with hops := h.pkt.hops + 1 })) ∧
      (s.eligible n = true → (s.port n).credit h.vc ≠ 0 → h.pkt.hops = 62 → exec .packetForward s = .next (s.discardHeld i h)) ∧
      (h.pkt.isLocal = false → s.atHead i h = true → (s.port n).credit h.vc = 0 → (∀ m ∈ s.candidates h, (s.port m).credit h.vc = 0) →
        exec .ebbtExpiry s = .next (s.enterEbb i { h with next := none })) ∧
      ((s.port n).credit h.vc ≠ 0 ∨ s.atHead i h = false → exec .ebbtExpiry s = .next s)) ∧
    (s.enterEbb i h = s.ebbRoute i { h with vc := if h.pkt.isReq then 6 else 7, pkt := { h.pkt with
      flags := (h.pkt.flags &&& 0xFE) ||| (if s.router.egen then 1 else 0) } }) ∧
    (6 ≤ h.vc.toNat → h.next = some n → h.pkt.isLocal = false →
      (s.eligible n = false → exec .ebbPacketForward s = .next (s.discardHeld i h)) ∧
      (∀ hold : Prop, (hold ↔ (s.router.draining = true ∧ h.pkt.egen = s.router.egen ∧ (s.port n).drainSent = false) ∨
          (s.router.draining = false ∧ s.router.switchOpen = true ∧ s.router.reported = false ∧ h.pkt.egen ≠ s.router.egen)) →
        (s.eligible n = true → hold ∨ (s.port n).credit h.vc = 0 → exec .ebbPacketForward s = .next s) ∧
        (s.eligible n = true → ¬hold → (s.port n).credit h.vc ≠ 0 → exec .ebbPacketForward s = .next
          (if h.pkt.hops = 62 then s.discardHeld i h else (s.dropHeld i h).queuePacket n h.vc { h.pkt with hops := h.pkt.hops + 1 })))) ∧
    (∀ e, 6 ≤ h.vc.toNat → h.next = none → h.pkt.isLocal = false → e = s.ebbEntry h.pkt.egen h.pkt.dst.toNat → n = e.toNat % 64 →
      (h.pkt.dst.toNat = s.devid.toNat → exec .ebbPacketForward s = .next ((s.dropHeld i h).deliver h.pkt h.arrived)) ∧
      (h.pkt.dst.toNat ≠ s.devid.toNat → e.getLsbD 7 = true → s.eligible n = true →
        exec .ebbPacketForward s = .next (s.setHeld i { h with next := some n })) ∧
      (h.pkt.dst.toNat ≠ s.devid.toNat → e.getLsbD 7 = false ∨ s.eligible n = false → exec .ebbPacketForward s = .next (s.discardHeld i h))) ∧
    (∀ p, p < 48 → (s.eligible p = true ↔ (s.port p).st = .active ∧ 2 ≤ width (s.port p).txmap))

/-- A change of the live links starts a switch of the ebb tree, whose table goes into the idle bank, or waits for the open one; the root's FLIP
changes EGEN and drains; a marker leaves a port that holds nothing of the old generation and is counted where it arrives; when every port has
sent and received, draining ends; the reports close the switch. The channel of DRAIN (DESIGN CHOICE, log 71), and that TREE takes
the live links from its input while FLIP and the reports carry no operand (DESIGN CHOICE, log 26), are the model's choices. -/
def Obligations.tree_switch_events : Prop :=
  ∀ (s : State) (n : Nat), n = s.inp.port →
    (s.canTrain = true → exec .tree s = .next (s.linksChanged s.inp.links)) ∧
    (∀ ls, (sameLinks ls s.router.links = true → s.linksChanged ls = s) ∧
      (sameLinks ls s.router.links = false → s.router.switchOpen = true →
        s.linksChanged ls = { s with router := { s.router with links := ls, again := true } }) ∧
      (sameLinks ls s.router.links = false → s.router.switchOpen = false →
        s.linksChanged ls = ({ s with router := { s.router with links := ls } }).startSwitch)) ∧
    (∀ t, t = s.startSwitch → t = { s with router := { s.router with switchOpen := true, again := false, ebb := t.router.ebb } } ∧
      (Sparse.wf s.router.ebb = true → (∀ l ∈ s.router.links, l.d1 < 32768 ∧ l.d2 < 32768) →
        (∀ d, d < 32768 → t.ebbEntry s.router.egen d = s.ebbEntry s.router.egen d) ∧ t.ebbEntry (!s.router.egen) s.devid.toNat = 0x80)) ∧
    (∀ t, t = ({ s with router := { s.router with egen := !s.router.egen, draining := true } }).settleDrain →
      s.router.switchOpen = true → s.router.draining = false → s.router.reported = false →
      exec .flipReceive s = .next t ∧ t.router.egen = (!s.router.egen) ∧
      (treeRoot s.devid.toNat s.router.links = s.devid.toNat → exec .ebbFlip s = .next t)) ∧
    (s.router.switchOpen = false ∨ s.router.draining = true ∨ s.router.reported = true → exec .flipReceive s = .next s) ∧
    (treeRoot s.devid.toNat s.router.links ≠ s.devid.toNat → exec .ebbFlip s = .next s) ∧
    (s.router.draining = false → s.settleDrain = s) ∧
    (s.router.draining = true → (∀ p, p < 48 → (s.port p).st = .active) → s.settleDrain = s.drainDone) ∧
    ((s.port n).st = .active → (s.port n).drainSent = false → s.mayDrain n = true → exec .drainSend s =
      .next ((s.setPort n { s.port n with drainSent := true }).queuePacket n 6
        { ptype := pDRAIN, flags := (if s.router.egen then 0 else 1), src := s.devid.setWidth 16, dst := (s.port n).peerId.setWidth 16 }).drainDone) ∧
    ((s.port n).drainSent = true ∨ s.mayDrain n = false → exec .drainSend s = .next s) ∧
    (s.mayDrain n = true → s.router.draining = true ∧ (∀ e ∈ (s.port n).pend, e.2.1.toNat < 6) ∧
      ∀ h ∈ s.router.held, 6 ≤ h.vc.toNat → h.pkt.egen = (!s.router.egen) → h.next ≠ none ∧ h.next ≠ some n) ∧
    ((s.port n).st = .active → exec .drain s = .next (s.setPort n { s.port n with drainRecv := true }).drainDone) ∧
    (s.router.draining = true → (∀ p, p < 48 → (s.port p).drainSent = true ∧ (s.port p).drainRecv = true) →
      s.drainDone = { s with
        router := { s.router with draining := false, reported := true }
        ports := s.ports.map fun (e : Nat × Port) => (e.1, { e.2 with drainSent := false, drainRecv := false }) }) ∧
    (∀ p, p < 48 → (s.port p).drainSent = false ∨ (s.port p).drainRecv = false → s.drainDone = s) ∧
    (s.router.switchOpen = true → s.router.reported = true → s.router.again = false → exec .ebbReportsCollected s =
      .next { s with router := { s.router with switchOpen := false, reported := false } }) ∧
    (s.router.switchOpen = true → s.router.reported = true → s.router.again = true → exec .ebbReportsCollected s =
      .next ({ s with router := { s.router with switchOpen := false, reported := false } }).startSwitch) ∧
    (s.router.switchOpen = false ∨ s.router.reported = false → exec .ebbReportsCollected s = .next s)

/-- A request for this device is answered UNREACH while it is faulted, MALFORMED when a reserved field is not zero, by its completion record when
it was performed before, and dropped while it waits; else it goes through IngressCheck, whose failures are answered in R75's order, its format,
seal and translation, and is performed and answered; a response completes its request, one without a request is counted; requests are resent four
times and then fail as UNREACH; a contribution that a full window returned is sent again; a window written VALID takes a new key. (The key's value
is free, DESIGN CHOICE, log 9. That a request whose source and TAG are those of one that waits at ingress is dropped is the model's reading,
DEDUCED, log 65.) -/
def Obligations.fabric_endpoint_events : Prop :=
  ∀ (s : State) (p : Packet) (h : HeldReq), p = s.inp.pkt → s.powered = true → s.bootst ≠ 15 → s.stopped = false → p.dst = s.devid.setWidth 16 →
    h = { pkt := p, port := some s.inp.port, passed := false, halted := false, redir := [] } →
    (p.ptype = pPUTREQ → exec .putreq s = .next (s.ingressReq h)) ∧
    (p.ptype = pGETREQ → exec .getreq s = .next (s.ingressReq h)) ∧
    (p.ptype = pLDREQ → exec .ldreq s = .next (s.ingressReq h)) ∧
    (p.ptype = pSTREQ → exec .streq s = .next (s.ingressReq h)) ∧
    (p.ptype = pATOMREQ → exec .atomreq s = .next (s.ingressReq h)) ∧
    (p.ptype = pCASREQ → exec .casreq s = .next (s.ingressReq h)) ∧
    (p.ptype = pORDREQ → exec .ordreq s = .next (s.ingressReq h)) ∧
    (p.ptype = pMGMT → exec .mgmt s = .next (s.ingressReq h)) ∧
    (p.ptype = pACK → exec .ack s = .next (s.response p)) ∧
    (p.ptype = pDATA → exec .data s = .next (s.response p)) ∧
    (p.ptype = pATOMRSP → exec .atomrsp s = .next (s.response p)) ∧
    (p.ptype = pNACK → exec .nack s = .next (s.response p)) ∧
    (s.faulted = true → s.ingressReq h = s.nackReq p nUNREACH) ∧
    (p.isReq = true → s.faulted = false →
      (p.reservedBad = true → p.src.getLsbD 15 = false → s.ingressReq h = s.countDiscard.nackReq p nMALFORMED) ∧
      (p.reservedBad = false →
        ((∃ x ∈ s.ingress, x.pkt.src = p.src ∧ x.pkt.tag = p.tag) → s.ingressReq h = s.countDiscard) ∧
        ((∀ x ∈ s.ingress, x.pkt.src ≠ p.src ∨ x.pkt.tag ≠ p.tag) → (∀ r ∈ s.ords, ∀ x ∈ r.held, x.pkt.src ≠ p.src ∨ x.pkt.tag ≠ p.tag) →
          (∀ r, s.tgtRecs.find? (fun r => r.src == p.src && r.tag == p.tag) = some r → s.ingressReq h = s.launchPkt r.resp) ∧
          (s.tgtRecs.find? (fun r => r.src == p.src && r.tag == p.tag) = none → p.src ≠ s.devid.setWidth 16 →
            (65536 ≤ s.recsDue → s.ingressReq h = { s with ingress := s.ingress ++ [h] }) ∧
            (s.recsDue < 65536 →
              (s.ingressCheck p = nTOKMAC → s.ingressReq h = (s.macFailure p (some s.inp.port)).nackReq p nTOKMAC) ∧
              (s.ingressCheck p ≠ 0 → s.ingressCheck p ≠ nTOKMAC → s.ingressReq h = s.nackReq p (s.ingressCheck p)) ∧
              (s.ingressCheck p = 0 → s.dbg.halt = false → s.ingressReq h = s.takeIn { h with passed := true })))))) ∧
    (∀ w d m lo hi blk sz, m = p.token.toNat / 2 ^ 28 % 2 ^ 12 → w = s.window m →
      d = (p.token.toNat / 2 ^ 12 % 2 ^ 13 + 8192 - s.ftime / 2 ^ 20 % 8192) % 8192 →
      blk = p.token.toNat % 64 → sz = p.token.toNat / 64 % 64 → lo = max (w.base.toNat * 65536) (w.base.toNat * 65536 + blk * 2 ^ sz) →
      hi = min (w.base.toNat * 65536 + 2 ^ w.sizexp.toNat) (w.base.toNat * 65536 + (blk + 1) * 2 ^ sz) →
      (w.valid = false → s.ingressCheck p = nTOKMAC) ∧
      (s.tokenMac m (p.token.extractLsb' 0 40) ≠ p.token.extractLsb' 40 24 → s.ingressCheck p = nTOKMAC) ∧
      (w.valid = true → s.tokenMac m (p.token.extractLsb' 0 40) = p.token.extractLsb' 40 24 →
        (d = 0 ∨ 4096 ≤ d → s.ingressCheck p = nTOKEXP) ∧
        (d ≠ 0 → d < 4096 → neededRights p.ptype &&& ~~~(p.token.extractLsb' 25 3) ≠ 0 → s.ingressCheck p = nTOKRIGHTS) ∧
        (d ≠ 0 → d < 4096 → neededRights p.ptype &&& ~~~(p.token.extractLsb' 25 3) = 0 → m ≠ 0 ∨ p.ptype = pMGMT →
          s.ingressCheck p = if p.addr.toNat < lo ∨ hi < p.addr.toNat + accessLen p then nTOKBOUNDS else 0))) ∧
    (∀ g, g.pkt = p → g.redir = [] →
      (malformedReq p = true → s.takeIn g = s.nackReq p nMALFORMED) ∧
      (malformedReq p = false → p.ptype ≠ pPUTREQ ∨ p.aux.getLsbD 63 = false →
        (s.openPayload p = none → s.takeIn g = s.countDiscard.nackReq p nAUTH) ∧
        (∀ bs, s.openPayload p = some bs →
          (p.ptype = pMGMT → s.takeIn g = s.answer p (s.resp p pACK 0 [] 0) true) ∧
          (∀ t l, p.ptype ≠ pMGMT → resolve s (ingressAcc (s.window (tokenWin p.token)).asid p) p.addr (accessLen p) = (t, .ok l) →
            (authOk p l = false → s.takeIn g = t.nackReq p nAUTH) ∧
            (authOk p l = true → p.ptype = pORDREQ ∨ t.canAnswer p l = true → s.takeIn g = t.perform p bs l none))))) ∧
    (∀ bs l n, n = accessLen p / opxWidth p →
      (p.ptype = pPUTREQ → s.perform p bs l none =
        (s.writeAllTag bs (Packet.badAt p) 0 l).answer p ((s.writeAllTag bs (Packet.badAt p) 0 l).resp p pACK 0 [] 0) true) ∧
      (p.ptype = pGETREQ → s.perform p bs l none =
        s.answerFrom p l (s.resp p pDATA 0 (s.readAll l) (pmask p.addr p.len.toNat (s.poisonAt l)))) ∧
      (p.ptype = pLDREQ → s.perform p bs l none =
        if s.firstPoisonAll l = none then s.answerFrom p l (s.resp p pDATA 0 (s.readAll l) 0) else s.nackReq p nPOISON) ∧
      (p.ptype = pSTREQ → s.perform p bs l none = (s.writeAll l bs).answer p ((s.writeAll l bs).resp p pACK 0 [] 0) true) ∧
      (p.ptype = pATOMREQ ∨ p.ptype = pCASREQ → n = 1 → ∀ old u, s.firstPoisonAll (slicePieces l 0 (opxWidth p)) = none →
        old = s.readAll (slicePieces l 0 (opxWidth p)) →
        u = (elemValue p bs 0 (ofBytes old)).elim s (fun v => s.writeAll (slicePieces l 0 (opxWidth p)) (toBytes v (opxWidth p))) →
        s.perform p bs l none = if p.opx.getLsbD 12 then u.answer p (u.resp p pACK 0 [] 0) true
          else u.answerFrom p l (u.resp p pATOMRSP 0 old 0)) ∧
      (p.ptype = pORDREQ → s.perform p bs l none = s.contribute { pkt := { p with payload := bs }, places := l })) ∧
    (∀ r, p.src ≠ s.devid.setWidth 16 → s.tgtRecs.length < 65536 →
      s.answer p r true = ({ s with tgtRecs := s.tgtRecs ++ [({ src := p.src, tag := p.tag, resp := r } : TgtRec)] }).launchPkt r) ∧
    (p.reservedBad = true → s.response p = s.countDiscard) ∧
    (p.reservedBad = false → p.isResp = true →
      (s.requestOf p = none ∨ s.openPayload p = none → s.response p = s.countDiscard) ∧
      (∀ o bs, s.requestOf p = some o → s.openPayload p = some bs →
        (p.ptype = pNACK → p.status ≠ 0 → s.response p = s.failRequest o p.status) ∧
        (p.ptype = pNACK → p.status = 0 → s.response p = { s with
          outst := s.outst.map fun x => if x.tag = o.tag ∧ x.pkt.dst = o.pkt.dst then { x with deferred := true } else x }) ∧
        (p.ptype ≠ pNACK → s.applyResp o p bs = none → s.response p = s.countDiscard) ∧
        (∀ t, p.ptype ≠ pNACK → s.applyResp o p bs = some t →
          s.response p = (((((t.replyLines o).markOk o).dropOutst o).tidyXfer o).retireOwner o).tryComplete o.sweep))) ∧
    (∀ o, s.outstAt = some o → o.deferred = false →
      (o.resends < 4 → exec .requestResendTimeout s =
        .next (((s.modOutst o fun x => { x with resends := x.resends + 1 }).noteTag o.pkt.dst o.tag).emit o.pkt)) ∧
      (4 ≤ o.resends → exec .requestResendTimeout s = .next (s.failRequest o nUNREACH))) ∧
    (∀ o, s.outstAt = some o → o.deferred = true →
      exec .ordResend s = .next (((s.modOutst o fun x => { x with deferred := false }).noteTag o.pkt.dst o.tag).emit o.pkt)) ∧
    (∀ r, s.ords[s.inp.index]? = some r →
      exec .ordRoundAbandon s = .next { s with
        ords := s.ords.eraseIdx s.inp.index
        router := { s.router with igcnt := BitVec.ofNat 16 (min 0xFFFF (s.router.igcnt.toNat + r.held.length)) } }) ∧
    exec .completionRecordExpiry s =
      .next ({ s with tgtRecs := s.tgtRecs.filter fun r => !(r.src == s.inp.src && r.tag == s.inp.tag) }).retryIngress ∧
    (∀ w v x, w = s.window s.inp.index → v = s.inp.v → s.inp.index < 4096 → x = { w with
        base := v.extractLsb' 64 64, valid := v.getLsbD 63, asid := v.extractLsb' 32 16
        sizexp := if 16 ≤ v.toNat / 2 ^ 48 % 256 ∧ v.toNat / 2 ^ 48 % 256 ≤ 52 then v.extractLsb' 48 8 else 16 } →
      (w.valid = true ∨ v.getLsbD 63 = false → exec .wintWrite s = .next (s.setWindow s.inp.index x)) ∧
      (w.valid = false → v.getLsbD 63 = true → exec .wintWrite s = .next ((s.setWindow s.inp.index x).drawKey s.inp.index)))

/-- CFG messages assign windows, port states and port configurations, and the device reports each port's state; a port that comes up lets what
waits go on, and 10 ms without one fault the device when an access waits; XLT replies and INV change the address translation cache, and INV is
answered once every access through the old entries is performed; a launch write is dropped, refused with its completion word, or accepted with
the page's next SEQ; LPCFG, LPRING, HEAD and mailbox writes change their fields. The answers kept in xltAns (DESIGN CHOICE, log 2), a
ZCL_MEM_COMPLETION that changes nothing (DESIGN CHOICE, log 5) and completion records that wait for a port (DEDUCED, log 61) are the model's. -/
def Obligations.host_events : Prop :=
  ∀ (s : State) (k : Nat) (p : LPage) (v : BitVec 64), k = s.inp.index → p = s.lpage k → v = s.inp.v.setWidth 64 →
    (s.powered = true →
      (∀ m l g, s.inp.cfg = .windows m l g → exec .zclCfgMessage s = .next { s with winMgmt := m, winLaunch := l, winLog := g }) ∧
      (∀ q up, s.inp.cfg = .portState q up → exec .zclCfgMessage s = .next (s.setZcl q.val up)) ∧
      (∀ q low, s.inp.cfg = .portConfig q low → exec .zclCfgMessage s = .next { s with
        zclLow := if low then s.zclLow.add q.val else s.zclLow.del q.val
        hostLog := s.hostLog ++ [.cfg q.val (if q.val = 0 then s.zcl0 else s.zcl1) low] })) ∧
    (∀ n up t, n < 2 → t = { s with
        zcl0 := if n = 0 then up else s.zcl0, zcl1 := if n = 1 then up else s.zcl1
        hostLog := s.hostLog ++ [.cfg n up (s.zclLow.contains n)] } →
      s.setZcl n up = if up then ((({ t with zclWait := false }).flushRings).retryWords).retryIngress else t) ∧
    exec .zclLinkDown s = .next (s.setZcl s.inp.port false) ∧ exec .zclLinkUp s = .next (s.setZcl s.inp.port true) ∧
    (s.powered = true → s.zclWait = true → s.zcl0 = false → s.zcl1 = false → exec .hostlinkTimeout s = .next (s.deviceFault fHOSTLINK)) ∧
    (s.zclWait = false ∨ s.zcl0 = true ∨ s.zcl1 = true → exec .hostlinkTimeout s = .next s) ∧
    exec .zclMemCompletion s = .next s ∧
    (∀ q t, s.xlts.find? (fun q => q.pasid == s.inp.pasid && q.vpage == s.inp.va.toNat / 4096) = some q → t = { s with xlts := s.xlts.erase q } →
      (∀ pa r w x, s.inp.xlt = .translation pa r w x → exec .xltReply s = .next (({ t.fillAtc q pa r w x with
        xltAns := s.xltAns ++ q.asids.map fun a => (a, q.vpage, XltNote.fresh) }).retryWords).retryIngress) ∧
      (s.inp.xlt = .notPresent → exec .xltReply s =
        .next (({ t with xltAns := s.xltAns ++ q.asids.map fun a => (a, q.vpage, XltNote.notPresent) }).retryWords).retryIngress) ∧
      (s.inp.xlt = .refused → exec .xltReply s =
        .next (({ t with xltAns := s.xltAns ++ q.asids.map fun a => (a, q.vpage, XltNote.refused) }).retryWords).retryIngress)) ∧
    (s.xlts.find? (fun q => q.pasid == s.inp.pasid && q.vpage == s.inp.va.toNat / 4096) = none → exec .xltReply s = .next s) ∧
    (∃ l, exec .inv s = .next { s with
        tlb := l, invs := s.invs ++ [⟨s.inp.pasid, s.inp.va, s.inp.hi, (s.tlb.filter fun e => e.pasid == some s.inp.pasid &&
          decide (e.vbase ≤ s.inp.hi.toNat) && decide (s.inp.va.toNat < e.vbase + 2 ^ e.shift)).map fun e => e.old⟩] } ∧
      ∀ e, e ∈ l ↔ e ∈ s.tlb ∧ ¬(e.pasid = some s.inp.pasid ∧ e.vbase ≤ s.inp.hi.toNat ∧ s.inp.va.toNat < e.vbase + 2 ^ e.shift)) ∧
    (∀ i, s.invs[k]? = some i →
      (s.performedAll i.waits = true → exec .invComplete s = .next { s with invs := s.invs.eraseIdx k, hostLog := s.hostLog ++ [.invDone] }) ∧
      (s.performedAll i.waits = false → exec .invComplete s = .next s) ∧
      (s.performedAll i.waits = true → ∀ o ∈ i.waits, (∀ r ∈ s.outst, (∀ x ∈ r.dst, o.meets x = false) ∧ ∀ x ∈ s.xfers, x.of r = true →
        ∀ e ∈ x.dst, ∀ z ∈ e.2, o.meets z = false) ∧ ∀ r ∈ s.ords, ∀ h ∈ r.held, ∀ x ∈ h.places, o.meets x = false)) ∧
    (s.powered = true → s.bootst ≠ 15 → k < 1024 →
      (s.inp.off < 4096 → p.en = false ∨ s.inp.bytes.length ≠ 128 ∨ s.inp.off % 128 ≠ 0 ∨ (p.tail - p.head).toNat = p.capacity ∨ p.held ≠ [] →
        exec .launchWrite s = .next (s.setLpage k { p with dropcnt := if p.dropcnt = 0xFFFF then 0xFFFF else p.dropcnt + 1 })) ∧
      (∀ t N, s.inp.off < 4096 → p.en = true → s.inp.bytes.length = 128 → s.inp.off % 128 = 0 → (p.tail - p.head).toNat ≠ p.capacity →
        p.held = [] → t = s.setLpage k { p with seq := p.seq + 1, openCnt := p.openCnt + 1 } → N = (SweepRec.parse s.inp.bytes).notify →
        (s.faulted = true → exec .launchWrite s = .next (t.refuseLaunch k p.seq p.asid N 1 fDEVFAULT)) ∧
        (s.faulted = false → 64 ≤ p.openCnt → exec .launchWrite s = .next (t.refuseLaunch k p.seq p.asid N 5 0)) ∧
        (s.faulted = false → p.openCnt < 64 →
          (∀ e, checkRec t (SweepRec.parse s.inp.bytes) false p.clfloor p.priv = some e →
            exec .launchWrite s = .next (t.refuseLaunch k p.seq p.asid N e 0)) ∧
          (checkRec t (SweepRec.parse s.inp.bytes) false p.clfloor p.priv = none →
            (t.poolFull false = true → exec .launchWrite s = .next (t.refuseLaunch k p.seq p.asid N 5 0)) ∧
            (t.poolFull false = false →
              exec .launchWrite s = .next (t.accept (SweepRec.parse s.inp.bytes) p.asid (.launch k p.seq)).1)))) ∧
      (p.en = true → exec .lpcfgWrite s = .next (s.setLpage k { p with en := v.getLsbD 63 })) ∧
      (p.en = false → exec .lpcfgWrite s = .next (s.setLpage k { p with
        en := v.getLsbD 63, asid := v.extractLsb' 32 16, vec := v.extractLsb' 8 12, irq := v.getLsbD 7, priv := v.getLsbD 6,
        clfloor := v.extractLsb' 4 2 })) ∧
      (p.en = true → exec .lpringWrite s = .next (s.setLpage k p)) ∧
      (p.en = false → exec .lpringWrite s = .next (s.setLpage k { p with
        base := v.extractLsb' 12 45, sz := if 10 < (v.extractLsb' 0 4).toNat then 10 else v.extractLsb' 0 4 })) ∧
      (∀ t, t = s.setLpage k { p with head := v.extractLsb' 0 16 } →
        exec .lpptrHeadWrite s = .next (flushRing k (p.held.length + 1) t))) ∧
    (∀ w e, s.queueHead = some (w, e) → exec .queueToPool s = .next (s.modSweep w.id fun w => { w with entry := some e })) ∧
    (s.queueHead = none → exec .queueToPool s = .next s) ∧
    (s.powered = true → s.bootst ≠ 15 → s.inp.core < 288 → exec .mailboxHostWrite s =
      .next (s.modCore s.inp.core fun c => { c with mbox := Tab.set c.mbox s.inp.mb.val (s.inp.v.setWidth 32) })) ∧
    (288 ≤ s.inp.core → exec .mailboxHostWrite s = .next s)

/-- A latch that is free goes to its first waiting opener, and a lease's end writes the row back and latches it again. A refresh and an RFM
close the bank's open row and keep requests off it until they end; an RFM takes RAADEC off the count, the bank's rows yield and are latched
again after it, and a storm is recorded once in its millisecond. A stack at TCRIT goes into self-refresh until a report below TEXIT. MEMCFG
refuses values R111 names; the scrubber reads the next sector that is not latched or reserved; a reservation lets one request of another agent
pass; a burst slot performs the granted unit. An access activates its row unless a latch or the row buffer holds it, behind those that self-refresh made
wait; which accesses leave a row open is the model's choice (DESIGN CHOICE, log 27). -/
def Obligations.memory_events : Prop :=
  ∀ (s : State) (b n : Nat) (x : Bank) (k z : Stack) (v : BitVec 64), b = s.inp.bank → n = s.inp.stack → x = s.bank b →
    k = s.stack (stackOfBank b) → z = s.stack n → v = s.inp.v.setWidth 64 → s.powered = true → s.stopped = false →
    (∀ u, s.enterBank u b = none ↔ x.rfm = true ∨ x.refreshing = true ∨ k.sref = true ∨ (s.reservedByOther u b = true ∧ x.pass = false) ∨
      (∃ w l, k.arrived = w :: l ∧ match w with | .unit c _ => c ≠ u | _ => u ≠ Config.cores)) ∧
    (∀ u d t, bankOf d = b → s.enterBank u b = some t →
      (s.hbm.latched d = true ∨ x.openRow = some (rowOf d) → s.useRow u d = some t) ∧
      (s.hbm.latched d = false → x.openRow ≠ some (rowOf d) → (s.canAct b = false → s.useRow u d = none) ∧
        (s.canAct b = true → ∃ w, s.useRow u d = some w ∧ (w.bank b).raa = x.raa + 1 ∧ (w.bank b).openRow = some (rowOf d)))) ∧
    (s.canAct b = true ↔ x.raa < k.raamax.toNat ∧ x.rfm = false ∧ x.refreshing = false ∧ k.sref = false) ∧
    (∀ i, i = b * 4 + s.inp.group.val →
      (∀ c m r t, s.latchAt i = none → s.hbm.waiters.find? (fun w => w.1 == i) = some (i, c, m, r) → s.canAct b = true →
        s.enterBank c b = some t → exec .latchGrant s = .next ((t.dropWaiter c m r).rlact c m r)) ∧
      (s.latchAt i ≠ none ∨ (∀ w ∈ s.hbm.waiters, w.1 ≠ i) ∨ s.canAct b = false → exec .latchGrant s = .next s)) ∧
    (∀ c m r d t, d = (s.row c m r).dpa → t = s.rlact c m r → t.row c m r = { s.row c m r with st := .held } ∧
      t.latchAt (latchIdx d) = some ⟨true, rowOf d, c, m, r⟩ ∧ (t.task c m).acts = (s.task c m).acts + 1 ∧
      t.bank (bankOf d) = { s.bank (bankOf d) with raa := (s.bank (bankOf d)).raa + 1, openRow := none }) ∧
    (∀ r, r = s.row s.inp.core s.inp.slot s.inp.k → r.st = .held →
      (s.canAct (bankOf r.dpa) = true → exec .leaseExpiry s = .next ((s.rowBack r.dpa).rlact s.inp.core s.inp.slot s.inp.k)) ∧
      (s.canAct (bankOf r.dpa) = false → exec .leaseExpiry s = .next s)) ∧
    (x.refreshing = false → x.rfm = false → k.sref = false →
      exec .refreshIssue s = .next (s.setBank b { x with openRow := none, refreshing := true })) ∧
    (x.refreshing = true ∨ x.rfm = true ∨ k.sref = true → exec .refreshIssue s = .next s) ∧
    exec .refreshComplete s = .next (s.setBank b { x with refreshing := false }).retryHeld ∧
    (∀ u, x.rfm = false → x.refreshing = false → k.sref = false → k.raalevel.toNat ≤ x.raa →
      u = ((bankLatches b).foldl (fun s l => s.yieldRow l .yieldedRfm) s).prechargeBank b →
      exec .rfmIssue s = .next ((u.setBank b { u.bank b with raa := x.raa - k.raadec.toNat, rfm := true }).countRfm b)) ∧
    (x.raa < k.raalevel.toNat → exec .rfmIssue s = .next s) ∧
    (∀ ms q c t, ms = s.millisecond → q = (if x.ms = ms then x.rfmMs else 0) + 1 →
      c = (decide (k.storm ≠ 0) && decide (k.storm.toNat ≤ q) && decide (x.stormMs ≠ some ms)) →
      t = (s.setStack (stackOfBank b) { k.roll ms with rfmNow := (k.roll ms).rfmNow + 1 }).setBank b
        { x with ms := ms, rfmMs := q, stormMs := if c then some ms else x.stormMs } →
      s.countRfm b = if c then t.stormEvent b q else t) ∧
    (∀ i l r st, s.latchAt i = some l → r = s.row l.core l.slot l.k →
      (r.st = .held → s.yieldRow i st = ((s.rowBack r.dpa).setLatch i { l with valid := false }).setRow l.core l.slot l.k { r with st := st }) ∧
      (r.st = st → s.canAct (i / 4) = true → s.relatchRow i st = s.rlact l.core l.slot l.k) ∧
      (r.st = st → s.canAct (i / 4) = false → s.relatchRow i st = s.setRow l.core l.slot l.k { r with st := .yieldedRfm })) ∧
    (x.rfm = true → k.sref = false → exec .rfmComplete s =
      .next ((bankLatches b).foldl (fun s l => s.relatchRow l .yieldedRfm) (s.setBank b { x with rfm := false })).retryHeld) ∧
    (x.rfm = false → exec .rfmComplete s = .next s) ∧
    (∀ t u, n < 12 → t = s.setStack n { z with temp := s.inp.v.setWidth 8 } →
      u = (t.stackLatches n).foldl (fun s l => s.yieldRow l .yieldedTherm) t →
      (z.sref = true ∨ s.inp.v.toNat % 256 < z.tcrit.toNat → exec .stackTempReport s = .next t) ∧
      (z.sref = false → z.tcrit.toNat ≤ s.inp.v.toNat % 256 →
        exec .stackTempReport s = .next ((u.setStack n { u.stack n with sref := true }).strandEvent 0x0C n [1, s.inp.v.setWidth 8]))) ∧
    (∀ t, t = (s.setStack n { z with sref := false }).strandEvent 0x0C n [0, z.temp] → z.sref = true → z.temp.toNat < z.texit.toNat →
      exec .selfRefreshExit s = .next
        (takeArrivedStack n (z.arrived.length + 1) ((t.stackLatches n).foldl (fun s l => s.relatchRow l .yieldedTherm) t))) ∧
    (z.sref = true ∨ z.arrived = [] → ∀ f, takeArrivedStack n f s = s) ∧
    (∀ w l f t, z.sref = false → z.arrived = w :: l → t = (match w with | .unit _ _ => s | _ => s.retryWaiter w) →
      ((∃ c, w = .unit c false ∧ s.unitRuns c = true) → takeArrivedStack n (f + 1) s = s) ∧
      ((∀ c, w = .unit c false → s.unitRuns c = false) → takeArrivedStack n (f + 1) s =
        takeArrivedStack n f (t.setStack n { t.stack n with arrived := (t.stack n).arrived.drop 1 }))) ∧
    (z.sref = false ∨ z.texit.toNat ≤ z.temp.toNat → exec .selfRefreshExit s = .next s) ∧
    (∀ lv dec mx tc te, s.bootst ≠ 15 → n < 12 → mx = v.extractLsb' 32 8 → lv = v.extractLsb' 24 8 → dec = v.extractLsb' 16 8 →
      tc = v.extractLsb' 8 8 → te = v.extractLsb' 0 8 →
      (lv = 0 ∨ lv.toNat < dec.toNat ∨ mx.toNat < lv.toNat ∨ tc.toNat ≤ te.toNat →
        exec .memcfgWrite s = .next (s.setStack n z)) ∧
      (lv ≠ 0 → dec.toNat ≤ lv.toNat → lv.toNat ≤ mx.toNat → te.toNat < tc.toNat → exec .memcfgWrite s = .next (s.setStack n
        { z with storm := v.extractLsb' 40 8, raamax := mx, raalevel := lv, raadec := dec, tcrit := tc, texit := te }))) ∧
    (z.period = 0 → exec .scrubRead s = .next s) ∧
    (∀ d t, n < 12 → z.period ≠ 0 → z.scrubSkip = [] → z.scrubPos < 2 ^ 31 → d = scrubDpa n z.scrubPos →
      (s.isReserved (bankOf d) = true → exec .scrubRead s =
        .next (s.setStack n { z with scrubSkip := [z.scrubPos], scrubPos := z.scrubPos + 1 })) ∧
      (s.isReserved (bankOf d) = false → t = s.setStack n { z with scrubPos := if z.scrubPos + 1 = 2 ^ 31 then 0 else z.scrubPos + 1 } →
        (s.hbm.latched d = true → exec .scrubRead s = .next t) ∧
        (s.hbm.latched d = false → (t.useRow Config.cores d = none → exec .scrubRead s = .next s) ∧
          ∀ w, t.useRow Config.cores d = some w → exec .scrubRead s = .next (w.scrubSector d s.inp.found)))) ∧
    (∀ p t, n < 12 → z.period ≠ 0 → z.scrubSkip.find? (fun p => !(s.isReserved (bankOf (scrubDpa n p)))) = some p →
      t = s.setStack n { z with scrubSkip := z.scrubSkip.erase p, scrubPos := if z.scrubSkip.erase p = [] ∧ z.scrubPos = 2 ^ 31 then 0 else z.scrubPos } →
      (s.hbm.latched (scrubDpa n p) = true → exec .scrubRead s = .next t) ∧
      (s.hbm.latched (scrubDpa n p) = false → (t.useRow Config.cores (scrubDpa n p) = none → exec .scrubRead s = .next s) ∧
        ∀ w, t.useRow Config.cores (scrubDpa n p) = some w → exec .scrubRead s = .next (w.scrubSector (scrubDpa n p) s.inp.found))) ∧
    (∀ d, s.hbm.latent.find? (fun e => e.1 == d / 32) = none →
      s.scrubSector d .ok = s ∧ s.scrubSector d .corrected = s.corrected d ∧
      (s.images = [] → s.scrubSector d .uncorrectable = (s.freshSector (.hbm d none)).uncorrectable d 8 0xFFFF)) ∧
    (s.isReserved b = true → exec .bankReservationWaitExpiry s = .next (s.setBank b { x with pass := true }).retryHeld) ∧
    (s.isReserved b = false → exec .bankReservationWaitExpiry s = .next s.retryHeld) ∧
    (∀ t i, s.faulted = false → z.sref = false → grantUnit s n = some (t, i) → exec .burstSlotGrant s = .next (s.burst t i)) ∧
    (s.faulted = true ∨ z.sref = true ∨ grantUnit s n = none → exec .burstSlotGrant s = .next s)

/-- A walk fills the cache it serves or leaves it; a stream's walk ahead does so for the next page of a command under way; PFHEAD consumes
records and lets waiting ones in. A command runs on a write of CMD7 when none is in progress: MAP installs its page at the front of its chain or
reports why not, UNMAP unlinks and MODIFY rewrites the page that GFN heads, FLUSHASID drops the ASID's translations, RESUME retries and REFUSE
traps the accesses that wait for a page; each that invalidates waits until every access through the old entries is performed, and one that meets a bank
which takes no request has done nothing and is tried again. Poison and a damaged chain as MALFORMED (DEDUCED, logs 41 and 42), a reserved PPOL as
MALFORMED (log 42), the zero fields of CONT entries (DESIGN CHOICE, log 43) and commands whole against their banks (DESIGN CHOICE, log 27) are the
model's. -/
def Obligations.translation_events : Prop :=
  ∀ (s u : State) (m : MapCmd) (e : IptEntry) (gfn : Nat) (go : Nat → Prop) (done : State → BitVec 8 → Host.Outcome State Fault Refusal)
    (drops : State → IptEntry → Host.Outcome State Fault Refusal → Prop) (waits : Host.Outcome State Fault Refusal),
    s.powered = true → s.stopped = false → s.bootst ≠ 15 → s.mapcmd.busy = false →
    m = { s.mapcmd with cmd7 := s.inp.v.setWidth 64 } → u = { s with mapcmd := m } → gfn = m.cmd4.toNat % 2 ^ 36 →
    e = m.cmd3 ++ m.cmd2 ++ m.cmd1 ++ m.cmd0 → go = (fun op => m.cmd4.toNat / 2 ^ 60 = op) →
    done = (fun t st => .next { t with mapcmd := { t.mapcmd with status := st, busy := false, waits := [], again := false } }) →
    waits = .next { u with mapcmd := { m with busy := true, again := true } } →
    drops = (fun t h r => ∃ l ws, r = .next { t with tlb := l, mapcmd := { t.mapcmd with busy := true, waits := ws, again := false } } ∧
      (∀ x, x ∈ l ↔ x ∈ t.tlb ∧ ¬(x.cache ≠ .atc ∧ x.asid = h.asid ∧ x.vbase = h.va.toNat ∧ x.shift = pageShift h.size.toNat)) ∧
      ⟨false, gfn * 65536, h.frames * 65536, true⟩ ∈ ws) →
    (∀ t r, vaRegion s.inp.va = .device → (s.asidEnt s.inp.asid.toNat).valid = true → walk s true s.inp.asid s.inp.va = (t, r) →
      (∀ f, r = .ok f → exec .pageWalk s = .next (t.fillTlb (foundEntry t s.inp.cache s.inp.asid s.inp.va f))) ∧
      (∀ x, r = .error x → exec .pageWalk s = .next t)) ∧
    (vaRegion s.inp.va ≠ .device ∨ (s.asidEnt s.inp.asid.toNat).valid = false → exec .pageWalk s = .next s) ∧
    (∀ c q x a sh va, c = s.inp.core →
      (s.core c).queue.find? (fun q => q.slot == s.inp.slot && q.eng == s.inp.eng && q.started && !q.done) = some q →
      a = (s.task c q.slot).asid → (q.streams (s.task c q.slot))[s.inp.index]? = some x →
      sh = ((s.cached (.stream c q.eng) a (x.addr q.comm)).map fun e => e.shift).getD 16 → x.beyond q.comm sh = some va →
      s.haltedUnit c = false → s.cached (.stream c q.eng) a va = none →
      exec .streamTlbWalkAhead s = .next (s.walkInto false (.stream c q.eng) a va)) ∧
    (∀ cache a va, (s.walkInto false cache a va).faults = s.faults ∧ (s.walkInto false cache a va).cores = s.cores) ∧
    ((∀ f ∈ s.faults, f.queued.isSome = true) → exec .pfheadWrite s = .next { s with pfhead := s.inp.v.setWidth 16 }) ∧
    (∀ f, s.faults.find? (fun f => f.queued.isNone) = some f → s.faults.length = 1 → s.xlctl.pfen = false →
      ((s.pftail - s.inp.v.setWidth 16).toNat < 256 → exec .pfheadWrite s = .next { s with
        pfhead := s.inp.v.setWidth 16, pftail := s.pftail + 1, pfring := Tab.set s.pfring (s.pftail.toNat % 256) f.record
        faults := [{ f with queued := some s.pftail }] }) ∧
      (256 ≤ (s.pftail - s.inp.v.setWidth 16).toNat → exec .pfheadWrite s = .next { s with pfhead := s.inp.v.setWidth 16 })) ∧
    (go 1 →
      (mapMalformed e gfn = true → exec .map s = done u 6) ∧
      (∀ t x, mapMalformed e gfn = false → mapFinds u e = (t, .error x) →
        ((∀ b, x ≠ .bank b) → exec .map s = done t 6) ∧ ((∃ b, x = .bank b) → exec .map s = waits)) ∧
      (∀ t dup, mapMalformed e gfn = false → mapFinds u e = (t, .ok dup) →
        (Config.reservedGfn < gfn + e.frames → exec .map s = done t 5) ∧
        (gfn + e.frames ≤ Config.reservedGfn →
          ((∃ i, i < e.frames ∧ ((t.ipt (gfn + i)).v = true ∨ (t.ipt (gfn + i)).cont = true)) → exec .map s = done t 2) ∧
          ((∀ i, i < e.frames → (t.ipt (gfn + i)).v = false ∧ (t.ipt (gfn + i)).cont = false) →
            (dup = true → exec .map s = done t 3) ∧
            (∀ b, dup = false → alsoRows u (e.tableRows gfn ++ rowsOf e.anchor 8) t = .error b → exec .map s = waits) ∧
            (∀ w, dup = false → alsoRows u (e.tableRows gfn ++ rowsOf e.anchor 8) t = .ok w → exec .map s =
              done (((List.range (e.frames - 1)).foldl (fun s i => s.setIpt (gfn + i + 1) ((1 : BitVec 256) <<< 91))
                (w.setIpt gfn ((e.withV true).withNext (w.chainHead e.anchor)))).setAnchor e.anchor gfn) 0))))) ∧
    (go 2 → (∀ t x, u.headRead u gfn = (t, some x) →
        ((∀ b, x ≠ .bank b) → exec .unmap s = done t 6) ∧ ((∃ b, x = .bank b) → exec .unmap s = waits)) ∧
      ∀ t, u.headRead u gfn = (t, none) →
        (t.heads gfn = false → exec .unmap s = done t 4) ∧
        (∀ w x, t.heads gfn = true → pageBefore t u gfn (t.ipt gfn) = (w, .error x) →
          ((∀ b, x ≠ .bank b) → exec .unmap s = done w 6) ∧ ((∃ b, x = .bank b) → exec .unmap s = waits)) ∧
        (∀ w prev, t.heads gfn = true → pageBefore t u gfn (t.ipt gfn) = (w, .ok prev) →
          (∀ b, alsoRows u ((w.ipt gfn).unmapRows gfn prev) w = .error b → exec .unmap s = waits) ∧
          (∀ z h, alsoRows u ((w.ipt gfn).unmapRows gfn prev) w = .ok z → h = z.ipt gfn →
            drops ((List.range h.frames).foldl (fun s i => s.setIpt (gfn + i) ((s.ipt (gfn + i)).noCont.withV false))
              (prev.elim (z.setAnchor h.anchor h.next.toNat) fun f => z.setIpt f ((z.ipt f).withNext h.next.toNat))) h (exec .unmap s)))) ∧
    (go 3 → (u.heads gfn = false → exec .modify s = done u 4) ∧
      ∀ h, u.heads gfn = true → h = u.ipt gfn →
        ((h ^^^ e) &&& ~~~modifyFree ≠ 0 ∨ 2 ≤ e.ppol.toNat → exec .modify s = done u 6) ∧
        (∀ b, (h ^^^ e) &&& ~~~modifyFree = 0 → e.ppol.toNat ≤ 1 → alsoRows u (rowsOf (iptDpa gfn) 32) u = .error b → exec .modify s = waits) ∧
        (∀ t w, (h ^^^ e) &&& ~~~modifyFree = 0 → e.ppol.toNat ≤ 1 → alsoRows u (rowsOf (iptDpa gfn) 32) u = .ok t →
          w = (t.readSector (iptDpa gfn / 32) 12 0xFFFF).setIpt gfn ((h &&& ~~~modifyMask) ||| (e &&& modifyMask)) →
          ((h.r = true ∧ e.r = false) ∨ (h.w = true ∧ e.w = false) ∨ (h.x = true ∧ e.x = false) → drops w h (exec .modify s)) ∧
          ((h.r = true → e.r = true) → (h.w = true → e.w = true) → (h.x = true → e.x = true) → exec .modify s = done w 0))) ∧
    (go 1 → exec .map s = .next u.mapAgain) ∧ (go 2 → exec .unmap s = .next u.mapAgain) ∧ (go 3 → exec .modify s = .next u.mapAgain) ∧
    (go 4 → ∃ l ws, exec .flushasid s = .next { u with tlb := l, mapcmd := { m with busy := true, waits := ws, again := false } } ∧ ∀ x, x ∈ l ↔ x ∈ s.tlb ∧
      ¬(x.asid = m.cmd6.setWidth 16 ∧ (m.cmd5 = 0 ∨ (x.vbase < m.cmd5.toNat * 65536 + 65536 ∧ m.cmd5.toNat * 65536 < x.vbase + 2 ^ x.shift)))) ∧
    (∀ f t, s.faults.find? (fun f => f.asid == m.cmd6.setWidth 16 && f.vpage == m.cmd5.toNat) = some f →
      t = { u with faults := s.faults.filter fun g => !(g.asid == f.asid && g.vpage == f.vpage) } →
      (go 5 → exec .resume s = done (f.who.foldl (fun s w => s.retryFaulter f.asid f.vpage w.1) t) 0) ∧
      (go 6 → exec .refuse s = done (f.who.foldl (fun s w => s.refuseFaulter f.asid f.vpage w.2 w.1) t) 0)) ∧
    (∀ a p c n va, (s.task c n).st = .parked → (s.task c n).wait = .page a p false →
      s.retryFaulter a p (.task c n) = s.readyTask c n ∧ s.refuseFaulter a p va (.task c n) = s.issueTrap c n cXLATE xREFUSED va) ∧
    ((∀ f ∈ s.faults, f.asid ≠ m.cmd6.setWidth 16 ∨ f.vpage ≠ m.cmd5.toNat) →
      (go 5 → exec .resume s = done u 7) ∧ (go 6 → exec .refuse s = done u 7)) ∧
    (∀ op, go op → op = 0 ∨ 6 < op → exec .mappingBadop s = done u 1) ∧
    (∀ t : State, t.mapcmd.busy = true →
      (t.mapcmd.again = true → exec .mappingCommandComplete t = .next t.mapAgain) ∧
      (t.mapcmd.again = false → t.performedAll t.mapcmd.waits = true → (∀ o ∈ t.mapcmd.waits, t.rowsIn o = false) → exec .mappingCommandComplete t = done t 0) ∧
      (t.mapcmd.again = false → t.performedAll t.mapcmd.waits = false → exec .mappingCommandComplete t = .next t) ∧
      exec .map t = .next t ∧ exec .unmap t = .next t ∧ exec .modify t = .next t ∧ exec .flushasid t = .next t ∧
      exec .resume t = .next t ∧ exec .refuse t = .next t ∧ exec .mappingBadop t = .next t)

/-- The walker places the winner on the unit R161 chooses: an image to restore first, else the next iteration in the lowest free slot with R164's
registers, a CORESIDENT sweep whole once it has claimed its units; a cleared unit is free; PREWAIT pre-empts the units R162 names; a
pre-emption's image is written once its commands in flight are over and leaves the unit clearing, and its restoring makes its tasks go on. PREEMPT,
EXPORT, IMPORT and RELEASE report R198's statuses in the order of its checks; DBGCTL halts and releases a context. The model's own are the order of
those statuses (DESIGN CHOICE, log 32), how a placement joins R160 to R163 and a CORESIDENT sweep's claims (DEDUCED, log 31), how a resumed task stands
(DEDUCED, log 46), the restores that PREEMPT breaks off (DEDUCED, log 44), and images and bundles all or none against their banks (DESIGN CHOICE,
log 27). -/
def Obligations.scheduling_events : Prop :=
  ∀ (s u : State) (c : Nat) (m : SweepCmd) (id : BitVec 32) (st : BitVec 8 → Host.Outcome State Fault Refusal), s.powered = true → s.stopped = false →
    s.bootst ≠ 15 → c = s.inp.core → m = { s.scmd with sgo := s.inp.v.setWidth 64 } → u = { s with scmd := m } →
    id = m.scmd.extractLsb' 0 32 → st = (fun x => .next { u with scmd := { m with status := x, busy := false } }) →
    (s.faulted = true ∨ s.winnerAt c = none → exec .unitPlacement s = .next s) ∧
    (∀ w v, s.faulted = false → s.winnerAt c = some w → (searchFrom w.prevUnit (s.wonUnits w)).head? = some v →
      (∀ i is, w.rec'.coresident = false → s.waitingImages w.id = i :: is → exec .unitPlacement s = .next
        (((s.beginTenancy w v).modImage w.id i.key fun i => { i with target := some v }).modSweep w.id
          fun w => { w.tookUnit v with prevUnit := none })) ∧
      (∀ n t z, w.rec'.coresident = false → s.waitingImages w.id = [] → t = s.beginTenancy w v →
        (List.range 8).find? (fun n => !(t.occupied v n)) = some n →
        z = (t.setTask v n (startTask w (w.rec'.index w.placed))).modSweep w.id
          (fun w => { w.tookUnit v with placed := w.placed + 1, prevUnit := some v }) →
        exec .unitPlacement s = .next (if w.placed + 1 = w.rec'.iterations then z.endIdleTenancies w.id else z)) ∧
      (∀ t us, w.rec'.coresident = true → t = ((unitCores v w.rec'.gang).foldl (fun s c => s.modCore c fun k => { k with claim := some w.id }) s).modSweep
          w.id (fun w => w.tookUnit v) → us = t.claimed w →
        (us.length < t.unitsNeeded w ∨ t.leaving w.id = true → exec .unitPlacement s = .next t) ∧
        (t.unitsNeeded w ≤ us.length → t.leaving w.id = false →
          (t.waitingImages w.id = [] → exec .unitPlacement s = .next (placeAll us w.id w.rec'.iterations t)) ∧
          (t.waitingImages w.id ≠ [] → exec .unitPlacement s =
            .next (((t.waitingImages w.id).zip us).foldl (fun s x => s.beginRestore w x.1 x.2) t))))) ∧
    (∀ w v, v ∈ s.contested w ↔ s.hasWork w = true ∧ v ∈ w.rec'.units ∧ s.eligibleUnit w v = true ∧ (w.rec'.coresident = true →
      if s.unitsNeeded w ≤ (s.claimed w).length then (s.core v).claim = some w.id ∧ s.leaving w.id = false else (s.core v).claim ≠ some w.id)) ∧
    ((s.core c).clearing = true → (s.core c).queue = [] → (s.core c).busy = false →
      exec .unitClearComplete s = .next ((unitCores c (s.core c).mode).foldl (fun s c => s.modCore c fun k => { k with
        slots := [], mode := .single, leader := none, tenant := none, sems := [], bars := [], queue := [], spm := [], tags := [],
        spPoison := [], latch := [], latchFmt := 0xFF, latchFill := 0, acc := [], ags := [], mxmode := 0, isat := false, resv := [],
        imem := [], dcache := [], lwDev := [], clearing := false, freeze := none, imgAt := none }) s)) ∧
    ((s.core c).clearing = false ∨ (s.core c).queue ≠ [] ∨ (s.core c).busy = true → exec .unitClearComplete s = .next s) ∧
    (∀ w v o, s.faulted = false → s.prewait ≠ 0 → s.sweep s.inp.sweep = some w → s.hasWork w = true → s.contested w = [] →
      (w.rec'.coresident = true → (s.claimed w).length < s.unitsNeeded w) →
      s.unitToFree w = some v →
      o = preemptUnits 0 none (((s.victims v w.rec'.gang).flatMap fun x => s.wholeSweep x.1).eraseDups) s →
      (∀ t, o = some t → exec .prewaitExpiry s = .next (t.modSweep w.id fun w => { w with firstFor := some v })) ∧
      (o = none → exec .prewaitExpiry s = .next s)) ∧
    (∀ w v, s.unitToFree w = some v → v ∈ w.rec'.units ∧ s.unitServes v w.rec'.gang = true ∧ s.victims v w.rec'.gang ≠ [] ∧
      ∀ x ∈ s.victims v w.rec'.gang, w.rec'.cls.toNat < x.2.rec'.cls.toNat ∧ (s.core x.1).clearing = false) ∧
    exec .schedctlWrite s = .next { s with prewait := BitVec.ofNat 16 (s.inp.v.toNat / 2 ^ 16) } ∧
    (∀ w, s.sweep s.inp.sweep = some w →
      (w.ended = none ∨ w.reported = true ∨ s.entriesOf w.id = true ∨ (∃ o ∈ s.outst, o.sweep = w.id) → exec .sweepComplete s = .next s) ∧
      (∀ code reason n t, w.ended = some (code, reason) → w.reported = false → s.entriesOf w.id = false → (∀ o ∈ s.outst, o.sweep ≠ w.id) →
        n = (if code = 7 then w.done else w.doneBefore + w.done) → t = s.modSweep w.id (fun w => { w with reported := true }) →
        (∀ page seq, w.src = .launch page seq → exec .sweepComplete s = .next ((t.writeWord w.asid w.rec'.notify code reason n).pushComp page
          { seq := seq, status := code, reason := reason, sweep := w.id, time := BitVec.ofNat 64 s.ftime, iters := BitVec.ofNat 64 n })) ∧
        (∀ p, w.src = .child p → exec .sweepComplete s = .next (t.writeWord w.asid w.rec'.notify code reason n (some w.id))))) ∧
    (∀ (x : PendWord), (x.child = none → s.wordDone x = s) ∧ ∀ i, x.child = some i → s.wordDone x = s.dropSweep i) ∧
    ((s.core c).freeze = none → exec .preemptionImageWrite s = .next s) ∧
    (∀ t, (s.core c).freeze ≠ none → t = s.advance c →
      ((∃ q ∈ (t.core c).queue, t.unfinished c q = true) → exec .preemptionImageWrite s = .next t) ∧
      ((∀ q ∈ (t.core c).queue, t.unfinished c q = false) →
        (∀ b, useRows Config.cores (t.imageRows c) t = .error b → exec .preemptionImageWrite s = .next t) ∧
        (∀ z, useRows Config.cores (t.imageRows c) t = .ok z → exec .preemptionImageWrite s = .next ((z.writeImage c).wakeRedirs c)))) ∧
    (∀ cause w d n x t, (s.core c).freeze = some cause → (s.core c).tenant = some w → (s.core c).imgAt = some (d, n) → s.sweep w = some x →
      s.ingress = [] → t = s.writeImage c → (t.core c).clearing = true ∧ (t.core c).queue = [] ∧ (t.core c).freeze = none ∧
      ∃ i, t.images = s.images ++ [i] ∧ i.sweep = w ∧ i.unit = c ∧ i.dpa = d ∧ i.mode = (s.core c).mode ∧ i.drop = x.rec'.drop ∧
        i.live = x.rec'.live ∧ i.queue = (s.core c).queue.map Entry.saved ∧ i.tasks.map (fun t => t.1) = s.slotsIn c) ∧
    (∀ i, s.images.find? (fun i => i.target == some c) = some i →
      (∀ b, useRows Config.cores (rowsOf i.dpa i.size) s = .error b → exec .imageRestoreComplete s = .next s) ∧
      (∀ z, useRows Config.cores (rowsOf i.dpa i.size) s = .ok z → exec .imageRestoreComplete s = .next (z.restoreImage (i.relock c) c))) ∧
    ((∀ i ∈ s.images, i.target ≠ some c) → exec .imageRestoreComplete s = .next s) ∧
    (∀ i v, i.poisoned = true → s.restoreImage i v =
      ({ s with images := s.images.filter fun j => !(j.sweep == i.sweep && j.key == i.key) }).endSweep i.sweep 1 fPOISON) ∧
    (∀ (t : Task) now, (t.st = .waiting ∨ t.st = .parked → (t.resumed now).st = t.st ∧ (t.resumed now).wait = t.wait) ∧
      (t.st ≠ .waiting → t.st ≠ .parked → (t.resumed now).st = .ready) ∧ (t.resumed now).pc = t.pc ∧ (t.resumed now).s = t.s) ∧
    (∀ op : Nat, s.scmd.busy = false → op = (if m.scmd.toNat / 2 ^ 32 % 2 ^ 18 ≠ 0 ∨ 2 ^ 16 ≤ m.saddrhi.toNat ∨ 2 ^ 32 ≤ m.scores.toNat then 0
        else if 4 < m.scmd.toNat / 2 ^ 60 then 0 else m.scmd.toNat / 2 ^ 60) →
      (op = 0 → exec .sweepCmdBadop s = st 1) ∧
      (u.standing id = none →
        (op = 1 → exec .preempt s = st 2) ∧ (op = 2 → exec .exportSweep s = st 2) ∧ (op = 4 → exec .releaseSweep s = st 2)) ∧
      (∀ w a, u.standing id = some w → a = m.saddrhi.extractLsb' 0 16 ++ m.saddrlo →
        (op = 1 → w.held = true → exec .preempt s = st 3) ∧
        (op = 1 → w.held = false → preemptUnits 2 (some 200) (u.unitsHolding id) u = none → exec .preempt s = st 4) ∧
        (∀ z, op = 1 → w.held = false → preemptUnits 2 (some 200) (u.unitsHolding id) u = some z →
          exec .preempt s = .next (((z.stopRestores id).modSweep id fun w => { w with held := true }).cmdBusy 0 id)) ∧
        (op = 2 → u.exportBusy w = true → exec .exportSweep s = st 3) ∧
        (op = 2 → u.exportBusy w = false → m.saddrlo.toNat % 65536 ≠ 0 → exec .exportSweep s = st 7) ∧
        (op = 2 → u.exportBusy w = false → m.saddrlo.toNat % 65536 = 0 → bundleRegion a (bundleSize u w) = false → exec .exportSweep s = st 5) ∧
        (∀ t l, op = 2 → u.exportBusy w = false → m.saddrlo.toNat % 65536 = 0 → bundleRegion a (bundleSize u w) = true →
          resolve u (mgmtAcc w.asid true) a (bundleSize u w) = (t, .ok l) →
          (∀ b, useRows Config.cores ((t.images.filter fun i => i.sweep == w.id).flatMap fun i => rowsOf i.dpa i.size) t = .error b →
            exec .exportSweep s = .next (t.cmdBusy 0xFF w.id)) ∧
          (∀ v z, useRows Config.cores ((t.images.filter fun i => i.sweep == w.id).flatMap fun i => rowsOf i.dpa i.size) t = .ok v →
            z = (v.writeParts l (bundleParts v w)).endSweep w.id 7 0 →
            exec .exportSweep s = .next ({ z with scmd := { z.scmd with size := BitVec.ofNat 32 (bundleSize u w) } }.cmdBusy 0 w.id))) ∧
        (op = 4 → exec .releaseSweep s = .next
          (((u.modSweep id fun w => { w with held := false }).resumeSweepThreads id).cmdStatus 0))) ∧
      (∀ k p a, k = m.scmd.toNat / 2 ^ 50 % 2 ^ 10 → p = s.lpage k → a = m.saddrhi.extractLsb' 0 16 ++ m.saddrlo →
        (op = 3 → p.en = false → exec .importSweep s = st 2) ∧
        (op = 3 → p.en = true → m.saddrlo.toNat % 65536 ≠ 0 → exec .importSweep s = st 7) ∧
        (op = 3 → p.en = true → m.saddrlo.toNat % 65536 = 0 → bundleRegion a 256 = false → exec .importSweep s = st 5) ∧
        (∀ z l z' l', op = 3 → p.en = true → m.saddrlo.toNat % 65536 = 0 → bundleRegion a 256 = true →
          resolve u (mgmtAcc p.asid false) a 256 = (z, .ok l) →
          resolve z (mgmtAcc p.asid false) a (max 256 (field (z.readAll l) 8 8)) = (z', .ok l') →
          exec .importSweep s = .next (z'.importBundle k (z'.readAll l') (z'.poisonAt l'))))) ∧
    (∀ (z : State) k bs bad r, r = importRec z.scmd.scores bs →
      (z.faulted = true → z.importBundle k bs bad = z.refuseImport k r.notify 1 fDEVFAULT) ∧
      (z.faulted = false → bundleBad bs r = true → z.importBundle k bs bad = z.refuseImport k r.notify 3 0)) ∧
    (s.scmd.busy = true → s.scmd.next ≠ 0xFF →
      ((∀ e ∈ s.cores, e.2.freeze.isSome = true → e.2.tenant ≠ some s.scmd.sweep) →
        exec .sweepCommandComplete s = .next { s with scmd := { s.scmd with status := s.scmd.next, busy := false } }) ∧
      (∀ e ∈ s.cores, e.2.freeze.isSome = true → e.2.tenant = some s.scmd.sweep → exec .sweepCommandComplete s = .next s)) ∧
    (s.inp.v.getLsbD 0 = true → s.dbg.halt = false → exec .dbgctlHalt s =
      .next (State.haltContext { s with dbg := { s.dbg with haltonbrk := s.inp.v.getLsbD 1 } } (s.inp.v.extractLsb' 48 16))) ∧
    (∀ z, s.inp.v.getLsbD 0 = false → s.dbg.halt = true →
      z = { s with dbg := { s.dbg with haltonbrk := s.inp.v.getLsbD 1, halt := false, done := false } } →
      exec .dbgctlRelease s = .next ((z.resumeThreads fun t => t.asid == s.dbg.asid && !(z.sweepAway t.sweep)).retryIngress)) ∧
    (s.inp.v.getLsbD 0 = s.dbg.halt → exec .dbgctlHaltonbrk s = .next
      { s with dbg := { s.dbg with haltonbrk := s.inp.v.getLsbD 1, asid := if s.dbg.halt then s.dbg.asid else s.inp.v.extractLsb' 48 16 } })

/-- A held task whose condition is met is READY again, and which conditions those are; its pending trap is taken at its boundary; WAITTIME ends a
wait that reached its limit; a fetch fills the unit's instruction memory; an engine starts, goes on with, or retires the entry the event names; a
reply ends an ECALL, as an acquire at .dev; a word that is none of the sequencer's puts its thread in ERROR; a register write stores its RW fields, and a
host write of a window's bytes writes the registers there, each as its own rule says. The order in which the waits of a task are abandoned (DEDUCED,
log 45), the wait of a task read in from an image (DEDUCED, log 46), a contended condition that goes on counting (DEDUCED, log 48), going on after a
reply (DEDUCED, log 49; DESIGN CHOICE, log 16), the withdrawal of a remote load (DEDUCED, log 50) and how a longer write is taken (DEDUCED, log 74) are
the model's readings. -/
def Obligations.unit_and_register_events : Prop :=
  ∀ (s : State) (c n : Nat) (e : Eng) (k : Task) (t : ThreadId) (v : BitVec 64), c = s.inp.core → n = s.inp.slot → e = s.inp.eng → k = s.task c n →
    t = s.inp.thread → v = s.inp.v.setWidth 64 →
    (s.frozenUnit c = false →
      (k.st = .waiting ∨ k.st = .parked ∨ k.st = .issuing → (∀ x, k.wait ≠ .word x) → s.met c n = true → exec .waitConditionMet s = .next (s.modTask c n fun t =>
        if k.wait.contended then { t with st := .ready } else { t with st := .ready, wait := .none, waitFrom := none, waitAcc := 0 })) ∧
      (s.met c n = false → (∀ x, k.wait ≠ .word x) → exec .waitConditionMet s = .next s) ∧
      (∀ x, k.wait = .word x → exec .waitConditionMet s = .next ((s.enterWait c n).wake c n) ∧
        (∀ w i h, s.wordAt c n = some w → decode w = .ok i → k.waitAt i = some h →
          s.enterWait c n = s.modTask c n fun t => { t with wait := h }) ∧
        (∀ w i, s.wordAt c n = none ∨ (s.wordAt c n = some w ∧ decode w = .ok i ∧ k.waitAt i = none) → s.enterWait c n = s.readyTask c n)) ∧
      (∀ a ty cc b, k.st = .waiting → k.wait = .mwait a ty cc b →
        exec .mwaitPoll s = .next (if vaRegion a = .host ∨ s.met c n = true then s.modTask c n fun t => { t with st := .ready } else s)) ∧
      (k.st = .ready ∨ k.st = .waiting ∨ k.st = .parked ∨ k.st = .issuing →
        (∀ z, s.takeTrap c n = some z → exec .pendingTrapTaken s = .next z) ∧
        (s.takeTrap c n = none → exec .pendingTrapTaken s =
          .next (if k.firstPending.isSome = true ∧ s.countUnread c n = true then s.readyTask c n else s))) ∧
      (k.st = .idle ∨ k.st = .trapped ∨ k.st = .preempted → exec .pendingTrapTaken s = .next s) ∧
      (k.waitlimit ≠ 0 → k.waitlimit.toNat ≤ k.waitCount (s.now c) →
        (k.st = .waiting → exec .waittimeExpiry s = .next (s.issueTrap c n cWAITTIME 0 0)) ∧
        (k.st = .parked → (∀ i, k.wait ≠ .remote i) → exec .waittimeExpiry s = .next (s.issueTrap c n cWAITTIME 0 0)) ∧
        (∀ i q, k.st = .parked → k.wait = .remote i →
          (s.core c).queue.find? (fun q => q.slot == n && q.isn == i && parks q.instr) = some q →
          exec .waittimeExpiry s = .next ((s.withdraw c n q).issueTrap c n cWAITTIME 0 0)) ∧
        (∀ q, k.st = .ready → (s.core c).queue.find? (fun q => s.heldEntry c n q) = some q →
          exec .waittimeExpiry s = .next (s.abandonEntry c n q))) ∧
      (k.waitlimit = 0 ∨ k.waitCount (s.now c) < k.waitlimit.toNat → exec .waittimeExpiry s = .next s) ∧
      (k.st = .ready →
        (∀ z l, (∀ x ∈ (s.core c).imem, x.1 ≠ k.pc.toNat) → vaRegion k.pc ≠ .scratch →
          resolve s (scalarAcc c k.asid false false true) k.pc 12 = (z, .ok l) → z.firstPoisonAll l = none →
          exec .instructionFetch s = .next (z.modCore c fun m =>
            { m with imem := Tab.set m.imem k.pc.toNat (BitVec.ofNat 96 (ofBytes (z.readAll l))) })) ∧
        ((∀ x ∈ (s.core c).imem, x.1 ≠ k.pc.toNat) → vaRegion k.pc = .scratch →
          exec .instructionFetch s = .next (s.issueTrap c n cPROT 0 k.pc)) ∧
        ((∃ x ∈ (s.core c).imem, x.1 = k.pc.toNat) → exec .instructionFetch s = .next s)) ∧
      exec .engineEntryComplete s = .next (retire c n e (s.core c).queue.length s)) ∧
    (∀ q m, k.wait = .sync q m ∨ k.wait = .sem q m → (s.met c n = true ↔ m ≤ (s.sem c q.toNat).count.toNat)) ∧
    (∀ b p, k.wait = .barrier b p → s.met c n = (s.bar c b.val).met p) ∧
    (∀ a g l, k.wait = .landing a g → (locate s (scalarAcc c k.asid true false false) a 16).2 = .ok l → s.firstPoisonAll l = none →
      ∀ w, w = LandingWord.ofBits (leBits 128 (s.readAll l)) → (s.met c n = true ↔ w.flags.getLsbD 7 = true ∨ reached w.gen g = true)) ∧
    (k.wait = .fence → s.met c n = s.acked c n) ∧ (k.wait = .texit → s.met c n = s.taskQuiet c n) ∧
    (k.wait = .halt → s.met c n = !s.dbg.halt) ∧ (∀ m, k.wait = .join m → s.met c n = s.joined c n m) ∧
    (∀ d, k.wait = .crclose d → s.met c n = s.regionClear c n d) ∧ (k.wait = .selfRefresh → s.met c n = !s.anySref) ∧
    (∀ a ty cc b l, k.wait = .mwait a ty cc b → vaRegion a ≠ .host → (locate s (scalarAcc c k.asid true false false) a ty.w.bytes).2 = .ok l →
      s.firstPoisonAll l = none → s.met c n = cc.eval (ty.ext (BitVec.ofNat 64 (ofBytes (s.readAll l)))) b) ∧
    (∀ x q, k.firstPending = some (x, q) → q.code ≠ cPOISON → k.inh = false → s.countUnread c n = false → s.takeTrap c n =
      some ((s.modTask c n fun t => t.setPend x none).enterTrap c n {
        code := q.code, sub := q.sub, addr := q.addr, epc := k.pc, eng := some x
        frozen := ((s.modTask c n fun t => t.setPend x none).frozenEntry c n x).isSome
        ecp := ((s.frozenEntry c n x).map fun z => z.comm).getD q.ecp, esp := ((s.frozenEntry c n x).map fun z => z.spec).getD q.esp })) ∧
    (k.firstPending = none ∨ s.countUnread c n = true → s.takeTrap c n = none) ∧
    (∀ q y, (s.core c).queue.find? (fun q => q.slot == n && q.eng == e) = some q → q.done = true → s.awaiting c q = false → q.mute = false → q.freed = false →
      q.instr.sync = some y → retire c n e 1 s = ((s.dropEntries c q.same).release c n q.instr).signal c y.ssem y.sinc.toNat) ∧
    (∀ q j, (s.core c).queue.find? (fun q => q.slot == n && q.eng == e) = some q → q.done = false → retire c n e j s = s) ∧
    (∀ q, (s.core c).queue.find? (fun q => q.eng == e && !q.started && s.startable c q && s.waitReady c q) = some q →
      exec .engineEntryStart s = .next (s.turnEntry c q)) ∧
    ((∀ q ∈ (s.core c).queue, q.eng = e → q.started = true ∨ s.startable c q = false ∨ s.waitReady c q = false) →
      exec .engineEntryStart s = .next s) ∧
    (∀ q y, q.instr.sync = some y →
      (s.waitReady c q = true ↔ q.wmet = true ∨ y.wcnt.toNat ≤ (s.sem c y.wsem.toNat).count.toNat)) ∧
    (∀ q, (s.core c).queue.find? (fun q => q.slot == n && q.eng == e && q.started && s.startable c q) = some q →
      exec .engineUnitCommit s = .next (s.turnEntry c q)) ∧
    ((∀ q ∈ (s.core c).queue, q.slot = n → q.eng = e → q.started = false) → exec .engineUnitCommit s = .next s) ∧
    (∀ y d svc arg, (s.image s.inp.sweep c).isSome = false → k.st = .parked → k.wait = .ecall y d svc arg →
      exec .ecallReply s = .next (((s.invalidate c).modTask c n fun t => t.replied d svc arg v).signal c y.ssem y.sinc.toNat) ∧
      (k.replied d svc arg v).st = .ready ∧ (k.replied d svc arg v).wait = .none ∧ (k.replied d svc arg v).isn = k.isn + 1 ∧
      (d ≠ 0 → (k.replied d svc arg v).sreg d = if svc = 0 then arg else v) ∧ (k.replied d svc arg v).a = k.a ∧
      (k.replied d svc arg v).p = k.p) ∧
    ((s.image s.inp.sweep c).isSome = false → k.st ≠ .parked → exec .ecallReply s = .next s) ∧
    (s.powered = true → s.stopped = false → s.faulted = false →
      ((s.thread t).st = .running →
        (s.threadWord t = none → exec .sequencerWordDecodeError s = .next (s.threadError t cILLEGAL)) ∧
        (s.threadWord t ≠ none → exec .sequencerWordDecodeError s = .next s)) ∧
      (∀ a w, (s.thread t).st = .waiting → s.threadPaged t = false → s.threadWord t = some (.sqwait a w) →
        exec .sqwaitPoll s = .next (sqwaitTest a w t s)) ∧
      ((s.thread t).st ≠ .waiting → exec .sqwaitPoll s = .next s)) ∧
    (s.inp.flag = true → ∀ pa, pa = s.inp.va.toNat →
      (s.winMgmt ≤ pa → pa < s.winMgmt + 0x1000000 → exec .registerWrite s = .next (s.writeBytes (pa - s.winMgmt) s.inp.bytes)) ∧
      (pa < s.winMgmt ∨ s.winMgmt + 0x1000000 ≤ pa →
        (s.winLaunch ≤ pa → pa < s.winLaunch + 0x400000 → s.powered = true → s.bootst ≠ 15 →
          exec .registerWrite s = .next (s.launch ((pa - s.winLaunch) / 4096) ((pa - s.winLaunch) % 4096) s.inp.bytes)) ∧
        (pa < s.winLaunch ∨ s.winLaunch + 0x400000 ≤ pa ∨ s.powered = false ∨ s.bootst = 15 → exec .registerWrite s = .next s))) ∧
    (s.powered = true → s.bootst ≠ 15 →
      (∀ off bs, off % 8 = 0 → bs.length = 8 → off < 0x80000 ∨ 0x90000 ≤ off → s.writeBytes off bs = s.writeReg off (leBits 64 bs)) ∧
      s.writeReg 0xC0008 v = s.writeDevctl v ∧ s.writeReg 0xD0138 v = s.writeCmd7 v ∧ s.writeReg 0xD0180 v = s.writePfhead v ∧
      s.writeReg 0xE0000 v = { s with prewait := v.extractLsb' 16 16 } ∧ s.writeReg 0xE0100 v = s.writeDbgctl v ∧
      s.writeReg 0xE0220 v = s.writeSgo v ∧
      (∀ i, i < 16 → s.writeReg (0x41000 + 8 * i) v =
        s.setCluster i { s.cluster i with setStep := min (v.toNat / 256 % 64) (s.cluster i).maxStep }) ∧
      (∀ i, i < 48 → s.writeReg (0x50008 + 64 * i) v = s.setPort i { s.port i with lthrNext := some (v.setWidth 40) } ∧
        s.writeReg (0x50010 + 64 * i) v = s.writeLctl i v) ∧
      (∀ i, i < 4096 → s.writeReg (0x70000 + 16 * i) v = s.writeWint i ((s.window i).word.extractLsb' 64 64 ++ v) ∧
        s.writeReg (0x70008 + 16 * i) v = s.writeWint i (v ++ (s.window i).word.extractLsb' 0 64)) ∧
      (∀ i, i < 12 → s.writeReg (0x90000 + 64 * i) v = s.setStack i ((s.stack i).memcfg v)) ∧
      (∀ i, i < 1024 → s.writeReg (0xB0000 + 32 * i) v = s.setLpage i ((s.lpage i).cfg v) ∧
        s.writeReg (0xB0008 + 32 * i) v = s.setLpage i ((s.lpage i).ring v) ∧ s.writeReg (0xB0010 + 32 * i) v = s.writeLpptr i v)) ∧
    (s.powered = true → s.bootst ≠ 15 → s.inp.flag = false →
      (s.inp.off = 0x50C00 → exec .registerWrite s = .next
        { s with router := { s.router with ebbt := (if v.toNat / 2 ^ 48 = 0 then 1 else BitVec.ofNat 16 (v.toNat / 2 ^ 48)), nmbias := v.extractLsb' 40 8, rplim := v.extractLsb' 32 8 } }) ∧
      (∀ i, i < 1024 → s.inp.off = 0x60000 + 8 * i → exec .registerWrite s = .next
        { s with router := { s.router with gtab := Sparse.set s.router.gtab i (BitVec.ofNat 64 (v.toNat % 2 ^ 43)) } }) ∧
      (∀ i, i < 65536 → s.inp.off = 0x80000 + i → exec .registerWrite s = .next
        { s with router := { s.router with ebb := Sparse.set s.router.ebb i (v.extractLsb' 0 8) } }) ∧
      (∀ i, i < 12 → s.inp.off = 0x90010 + 64 * i → exec .registerWrite s =
        .next (s.setStack i { s.stack i with period := v.extractLsb' 0 8 })) ∧
      (s.inp.off = 0xD0000 → exec .registerWrite s = .next
        { s with xlctl := { pnvec := v.extractLsb' 32 12, pfvec := v.extractLsb' 20 12, pnen := v.getLsbD 1, pfen := v.getLsbD 0 } }) ∧
      (∀ i, i < 65536 → s.inp.off = 0x180000 + 8 * i → exec .registerWrite s = .next
        { s with asids := Tab.set s.asids i { valid := v.getLsbD 63, hosten := v.getLsbD 62, nopf := v.getLsbD 61, pasid := v.extractLsb' 32 20 } }) ∧
      (s.inp.off = 0xC0000 ∨ s.inp.off = 0xE0008 → exec .registerWrite s = .next s))

/-- A POISON consumption or three-way MXCHECK that is not contained, its command lying outside the innermost open region, is a device-level
fault, even when a region is open: where the device was not faulted yet, the fault carries FREASON 0x01 for POISON and 0x02 for MXCHECK. A
task of an idle slot has no region. -/
def Obligations.uncontained_errors : Prop :=
  ∀ (s u : State) (c n rdepth eng comm spec : Nat) (code sub : BitVec 8) (addr : Addr),
    (s.task c n).st = .idle ∨ (s.task c n).regions = [] ∨ rdepth < (s.task c n).regions.length →
    u = s.consume c n rdepth code sub addr eng comm spec →
    u.faulted = true ∧ (s.faulted = false → (code = 0x0A → u.freason = 0x01) ∧ (code = 0x0C → u.freason = 0x02))
end

