-- ==== Sys2Proof/Laws/Decode.lean ====
section
/-! SUPPORT. Small lemmas of the decoder and the encoder. -/

namespace Sys2Proof

/-- Packing fields into a word and reading them back gives them. -/
theorem Fields.unpack_pack (f : Fields) : Fields.unpack f.pack = f := by
  cases f
  simp only [Fields.unpack, Fields.pack, Fields.mk.injEq]
  refine ⟨?_, ?_, ?_, ?_, ?_, ?_, ?_, ?_, ?_, ?_, ?_, ?_⟩ <;>
    (
    apply BitVec.eq_of_getLsbD_eq
    intro i hi
    simp only [BitVec.getLsbD_extractLsb', BitVec.getLsbD_append, hi, decide_true, Bool.true_and]
    repeat (first
      | rw [if_pos (by omega)]
      | rw [if_neg (by omega)])
    exact congrArg _ (by omega))

@[simp] theorem need_true (e : Reject) (k : Dec) : need e true k = k := rfl
@[simp] theorem need_false (e : Reject) (k : Dec) : need e false k = .error e := rfl

@[simp] theorem regD_reg {n : Nat} (hn : n ≤ 64) (r : Fin n) (k : Fin n → Dec) : regD n (reg r) k = k r := by
  have h : (reg r).toNat = r.val := by
    simp only [reg, BitVec.toNat_ofNat]; exact Nat.mod_eq_of_lt (by omega)
  simp [regD, h, r.isLt]

@[simp] theorem sregD_reg (r : SReg) (k : SReg → Dec) : sregD (reg r) k = k r := by
  have h : (reg r).toFin = r := by
    apply Fin.ext; simp [reg]
  simp only [sregD]; exact congrArg k h

end Sys2Proof
end

