-- ==== Sys2Proof/Laws/Tab.lean ====
section
/-! SUPPORT. Laws of the containers. -/

namespace Sys2Proof.Machine

theorem Sparse.wfFrom_mono {n : Nat} {m : Sparse n} {l l' : Nat} (h : Sparse.wfFrom (some l) m = true) (hl : l' ≤ l) :
    Sparse.wfFrom (some l') m = true := by
  cases m with
  | nil => rfl
  | cons c m =>
    obtain ⟨a, v⟩ := c
    simp only [Sparse.wfFrom, Sparse.above, Bool.and_eq_true, decide_eq_true_eq] at h ⊢
    exact ⟨⟨by omega, h.1.2⟩, h.2⟩

theorem Sparse.wfFrom_none {n : Nat} {m : Sparse n} {l : Nat} (h : Sparse.wfFrom (some l) m = true) :
    Sparse.wf m = true := by
  cases m with
  | nil => rfl
  | cons c m =>
    obtain ⟨a, v⟩ := c
    simp only [Sparse.wf, Sparse.wfFrom, Bool.and_eq_true] at h ⊢
    exact ⟨⟨rfl, h.1.2⟩, h.2⟩

theorem Sparse.wfFrom_set {n : Nat} (m : Sparse n) (lo : Option Nat) (a : Nat) (v : BitVec n)
    (h : Sparse.wfFrom lo m = true) (hlo : ∀ l, lo = some l → l < a) : Sparse.wfFrom lo (Sparse.set m a v) = true := by
  have hl : Sparse.above lo a = true := by
    cases lo with
    | none => rfl
    | some l => simpa [Sparse.above] using hlo l rfl
  induction m generalizing lo with
  | nil =>
    simp only [Sparse.set]; split
    · rfl
    · next hv => simp only [Sparse.wfFrom, Bool.and_true, Bool.and_eq_true]; exact ⟨hl, by simpa using hv⟩
  | cons c m ih =>
    obtain ⟨b, w⟩ := c
    simp only [Sparse.wfFrom, Bool.and_eq_true] at h
    obtain ⟨⟨h1, h2⟩, h3⟩ := h
    simp only [Sparse.set]
    split
    · split
      · simp only [Sparse.wfFrom, Bool.and_eq_true]; exact ⟨⟨h1, h2⟩, h3⟩
      · next hab hv =>
        simp only [Sparse.wfFrom, Sparse.above, Bool.and_eq_true, decide_eq_true_eq]
        exact ⟨⟨hl, by simpa using hv⟩, ⟨hab, h2⟩, h3⟩
    · split
      · next hab =>
        subst hab
        split
        · cases lo with
          | none => exact Sparse.wfFrom_none h3
          | some l => exact Sparse.wfFrom_mono h3 (Nat.le_of_lt (hlo l rfl))
        · next hv => simp only [Sparse.wfFrom, Bool.and_eq_true]; exact ⟨⟨hl, by simpa using hv⟩, h3⟩
      · next hn hab =>
        have hba : b < a := by omega
        simp only [Sparse.wfFrom, Bool.and_eq_true]
        exact ⟨⟨h1, h2⟩, ih (some b) h3 (fun l hl => by cases hl; exact hba) (by simpa [Sparse.above] using hba)⟩

/-- Every write keeps the canonical form. -/
theorem Sparse.wf_set {n : Nat} {m : Sparse n} (a : Nat) (v : BitVec n) (h : Sparse.wf m = true) :
    Sparse.wf (Sparse.set m a v) = true :=
  Sparse.wfFrom_set m none a v h (fun _ h => by cases h)

theorem Sparse.get_of_wfFrom {n : Nat} {m : Sparse n} {l a : Nat} (h : Sparse.wfFrom (some l) m = true) (ha : a ≤ l) :
    Sparse.get m a = 0 := by
  cases m with
  | nil => rfl
  | cons c m =>
    obtain ⟨b, w⟩ := c
    simp only [Sparse.wfFrom, Sparse.above, Bool.and_eq_true, decide_eq_true_eq] at h
    simp only [Sparse.get]
    rw [if_neg (by omega), if_pos (by omega)]

/-- A read after a write to the same place gives the value written. -/
theorem Sparse.get_set_same {n : Nat} {m : Sparse n} {lo : Option Nat} (a : Nat) (v : BitVec n)
    (h : Sparse.wfFrom lo m = true) : Sparse.get (Sparse.set m a v) a = v := by
  induction m generalizing lo with
  | nil => simp only [Sparse.set]; split <;> simp_all [Sparse.get]
  | cons c m ih =>
    obtain ⟨b, w⟩ := c
    simp only [Sparse.wfFrom, Bool.and_eq_true] at h
    simp only [Sparse.set]
    split
    · next hab => split <;> simp_all [Sparse.get]; omega
    · split
      · next hab =>
        subst hab
        split
        · next hv => rw [hv]; exact Sparse.get_of_wfFrom h.2 (Nat.le_refl _)
        · simp [Sparse.get]
      · next h1 h2 =>
        simp only [Sparse.get]
        rw [if_neg h2, if_neg h1]; exact ih h.2

/-- A write leaves every other place alone. -/
theorem Sparse.get_set_ne {n : Nat} {m : Sparse n} {lo : Option Nat} (a c : Nat) (v : BitVec n) (hne : c ≠ a)
    (h : Sparse.wfFrom lo m = true) : Sparse.get (Sparse.set m a v) c = Sparse.get m c := by
  induction m generalizing lo with
  | nil => simp only [Sparse.set]; split <;> simp [Sparse.get, hne]
  | cons e m ih =>
    obtain ⟨b, w⟩ := e
    simp only [Sparse.wfFrom, Bool.and_eq_true] at h
    simp only [Sparse.set]
    split
    · next hab =>
      split
      · rfl
      · simp only [Sparse.get, hne, if_false]
        by_cases hca : c < a
        · have h2 : c < b := by omega
          have h3 : c ≠ b := by omega
          simp [hca, h2, h3]
        · simp [hca]
    · split
      · next hab =>
        subst hab
        split
        · simp only [Sparse.get, hne, if_false]
          by_cases hca : c < a
          · rw [if_pos hca]; exact Sparse.get_of_wfFrom h.2 (Nat.le_of_lt hca)
          · rw [if_neg hca]
        · simp [Sparse.get, hne]
      · simp only [Sparse.get, ih h.2]

/-- Clearing a range keeps the canonical form. -/
theorem Sparse.wfFrom_filter {n : Nat} (m : Sparse n) (lo : Option Nat) (p : Nat × BitVec n → Bool)
    (h : Sparse.wfFrom lo m = true) : Sparse.wfFrom lo (m.filter p) = true := by
  induction m generalizing lo with
  | nil => exact h
  | cons c m ih =>
    obtain ⟨a, v⟩ := c
    simp only [Sparse.wfFrom, Bool.and_eq_true] at h
    simp only [List.filter]
    split
    · simp only [Sparse.wfFrom, Bool.and_eq_true]; exact ⟨h.1, ih _ h.2⟩
    · have h3 := ih (some a) h.2
      cases lo with
      | none => exact Sparse.wfFrom_none h3
      | some l =>
        have hl : l < a := by simpa [Sparse.above] using h.1.1
        exact Sparse.wfFrom_mono h3 (Nat.le_of_lt hl)

theorem Memory.wf_write {m : Memory} (a : Nat) (bs : List Byte) (h : Memory.wf m = true) :
    Memory.wf (Memory.write m a bs) = true := by
  induction bs generalizing m a with
  | nil => exact h
  | cons b bs ih => exact ih (a + 1) (Sparse.wf_set a b h)

theorem Sparse.wf_clear {n : Nat} {m : Sparse n} (lo len : Nat) (h : Sparse.wf m = true) :
    Sparse.wf (Sparse.clear m lo len) = true := Sparse.wfFrom_filter m none _ h

/-- A write of bytes leaves every address outside them alone. -/
theorem Memory.get_write_ne {m : Memory} (a c : Nat) (bs : List Byte) (h : Memory.wf m = true)
    (hc : c < a ∨ a + bs.length ≤ c) : Sparse.get (Memory.write m a bs) c = Sparse.get m c := by
  induction bs generalizing m a with
  | nil => rfl
  | cons b bs ih =>
    simp only [List.length_cons] at hc
    simp only [Memory.write]
    rw [ih (m := Sparse.set m a b) (a + 1) (Sparse.wf_set a b h) (by omega)]
    exact Sparse.get_set_ne (lo := none) a c b (by omega) h

@[simp] theorem Tab.get_set_same {α : Type} (d : α) (t : Tab α) (i : Nat) (v : α) : Tab.get d (Tab.set t i v) i = v := by
  induction t with
  | nil => simp [Tab.set, Tab.get]
  | cons e t ih =>
    obtain ⟨j, x⟩ := e
    simp only [Tab.set]
    split
    · simp [Tab.get]
    · split
      · simp [Tab.get]
      · next h _ => simp [Tab.get, h, ih]

@[simp] theorem Tab.get_set_ne {α : Type} (d : α) (t : Tab α) (i k : Nat) (v : α) (h : k ≠ i) :
    Tab.get d (Tab.set t i v) k = Tab.get d t k := by
  induction t with
  | nil => simp [Tab.set, Tab.get, h]
  | cons e t ih =>
    obtain ⟨j, x⟩ := e
    simp only [Tab.set]
    split
    · next hj => subst hj; simp [Tab.get, h]
    · split
      · simp [Tab.get, h]
      · simp only [Tab.get, ih]

theorem Tab.get_mem {α : Type} (d : α) (t : Tab α) (i : Nat) : Tab.get d t i = d ∨ (i, Tab.get d t i) ∈ t := by
  induction t with
  | nil => exact .inl rfl
  | cons x t ih =>
    obtain ⟨j, x⟩ := x
    simp only [Tab.get]
    split
    · next h => subst h; exact .inr (List.mem_cons_self ..)
    · exact ih.imp id (List.mem_cons_of_mem _)

end Sys2Proof.Machine
end

