-- ==== Sys2Proof/Laws/State.lean ====
section
/-! SUPPORT. Reading the state after an update: one lemma per field and update, and the parts of the state by number. -/

namespace Sys2Proof.Machine

/-! ## The device's fields after an update of a core, a task or a semaphore -/

@[simp] theorem State.setCore_cur (s : State) (c : Nat) (k : Core) : (s.setCore c k).cur = s.cur := rfl
@[simp] theorem State.setCore_agenda (s : State) (c : Nat) (k : Core) : (s.setCore c k).agenda = s.agenda := rfl
@[simp] theorem State.setCore_focus (s : State) (c : Nat) (k : Core) : (s.setCore c k).focus = s.focus := rfl
@[simp] theorem State.setCore_inp (s : State) (c : Nat) (k : Core) : (s.setCore c k).inp = s.inp := rfl
@[simp] theorem State.setCore_deferStart (s : State) (c : Nat) (k : Core) : (s.setCore c k).deferStart = s.deferStart := rfl
@[simp] theorem State.setCore_freeCtr (s : State) (c : Nat) (k : Core) : (s.setCore c k).freeCtr = s.freeCtr := rfl
@[simp] theorem State.setCore_clusters (s : State) (c : Nat) (k : Core) : (s.setCore c k).clusters = s.clusters := rfl
@[simp] theorem State.setCore_binds (s : State) (c : Nat) (k : Core) : (s.setCore c k).binds = s.binds := rfl
@[simp] theorem State.setCore_badHalves (s : State) (c : Nat) (k : Core) : (s.setCore c k).badHalves = s.badHalves := rfl
@[simp] theorem State.setCore_faultyCells (s : State) (c : Nat) (k : Core) : (s.setCore c k).faultyCells = s.faultyCells := rfl
@[simp] theorem State.setCore_defects (s : State) (c : Nat) (k : Core) : (s.setCore c k).defects = s.defects := rfl
@[simp] theorem State.setCore_halves (s : State) (c : Nat) (k : Core) : (s.setCore c k).halves = s.halves := rfl
@[simp] theorem State.setCore_hbm (s : State) (c : Nat) (k : Core) : (s.setCore c k).hbm = s.hbm := rfl
@[simp] theorem State.setCore_host (s : State) (c : Nat) (k : Core) : (s.setCore c k).host = s.host := rfl
@[simp] theorem State.setCore_xltAns (s : State) (c : Nat) (k : Core) : (s.setCore c k).xltAns = s.xltAns := rfl
@[simp] theorem State.setCore_zcl0 (s : State) (c : Nat) (k : Core) : (s.setCore c k).zcl0 = s.zcl0 := rfl
@[simp] theorem State.setCore_zcl1 (s : State) (c : Nat) (k : Core) : (s.setCore c k).zcl1 = s.zcl1 := rfl
@[simp] theorem State.setCore_zclLow (s : State) (c : Nat) (k : Core) : (s.setCore c k).zclLow = s.zclLow := rfl
@[simp] theorem State.setCore_zclWait (s : State) (c : Nat) (k : Core) : (s.setCore c k).zclWait = s.zclWait := rfl
@[simp] theorem State.setCore_recentTags (s : State) (c : Nat) (k : Core) : (s.setCore c k).recentTags = s.recentTags := rfl
@[simp] theorem State.setCore_idRefused (s : State) (c : Nat) (k : Core) : (s.setCore c k).idRefused = s.idRefused := rfl
@[simp] theorem State.setCore_winMgmt (s : State) (c : Nat) (k : Core) : (s.setCore c k).winMgmt = s.winMgmt := rfl
@[simp] theorem State.setCore_winLaunch (s : State) (c : Nat) (k : Core) : (s.setCore c k).winLaunch = s.winLaunch := rfl
@[simp] theorem State.setCore_winLog (s : State) (c : Nat) (k : Core) : (s.setCore c k).winLog = s.winLog := rfl
@[simp] theorem State.setCore_ports (s : State) (c : Nat) (k : Core) : (s.setCore c k).ports = s.ports := rfl
@[simp] theorem State.setCore_router (s : State) (c : Nat) (k : Core) : (s.setCore c k).router = s.router := rfl
@[simp] theorem State.setCore_wints (s : State) (c : Nat) (k : Core) : (s.setCore c k).wints = s.wints := rfl
@[simp] theorem State.setCore_macFails (s : State) (c : Nat) (k : Core) : (s.setCore c k).macFails = s.macFails := rfl
@[simp] theorem State.setCore_outst (s : State) (c : Nat) (k : Core) : (s.setCore c k).outst = s.outst := rfl
@[simp] theorem State.setCore_xfers (s : State) (c : Nat) (k : Core) : (s.setCore c k).xfers = s.xfers := rfl
@[simp] theorem State.setCore_nextTag (s : State) (c : Nat) (k : Core) : (s.setCore c k).nextTag = s.nextTag := rfl
@[simp] theorem State.setCore_tgtRecs (s : State) (c : Nat) (k : Core) : (s.setCore c k).tgtRecs = s.tgtRecs := rfl
@[simp] theorem State.setCore_ingress (s : State) (c : Nat) (k : Core) : (s.setCore c k).ingress = s.ingress := rfl
@[simp] theorem State.setCore_ords (s : State) (c : Nat) (k : Core) : (s.setCore c k).ords = s.ords := rfl
@[simp] theorem State.setCore_keyslots (s : State) (c : Nat) (k : Core) : (s.setCore c k).keyslots = s.keyslots := rfl
@[simp] theorem State.setCore_ftime (s : State) (c : Nat) (k : Core) : (s.setCore c k).ftime = s.ftime := rfl
@[simp] theorem State.setCore_devid (s : State) (c : Nat) (k : Core) : (s.setCore c k).devid = s.devid := rfl
@[simp] theorem State.setCore_nextKey (s : State) (c : Nat) (k : Core) : (s.setCore c k).nextKey = s.nextKey := rfl
@[simp] theorem State.setCore_lpages (s : State) (c : Nat) (k : Core) : (s.setCore c k).lpages = s.lpages := rfl
@[simp] theorem State.setCore_hostLog (s : State) (c : Nat) (k : Core) : (s.setCore c k).hostLog = s.hostLog := rfl
@[simp] theorem State.setCore_powered (s : State) (c : Nat) (k : Core) : (s.setCore c k).powered = s.powered := rfl
@[simp] theorem State.setCore_stopped (s : State) (c : Nat) (k : Core) : (s.setCore c k).stopped = s.stopped := rfl
@[simp] theorem State.setCore_bootst (s : State) (c : Nat) (k : Core) : (s.setCore c k).bootst = s.bootst := rfl
@[simp] theorem State.setCore_freason (s : State) (c : Nat) (k : Core) : (s.setCore c k).freason = s.freason := rfl
@[simp] theorem State.setCore_faulted (s : State) (c : Nat) (k : Core) : (s.setCore c k).faulted = s.faulted := rfl
@[simp] theorem State.setCore_secVer (s : State) (c : Nat) (k : Core) : (s.setCore c k).secVer = s.secVer := rfl
@[simp] theorem State.setCore_measurements (s : State) (c : Nat) (k : Core) : (s.setCore c k).measurements = s.measurements := rfl
@[simp] theorem State.setCore_strand (s : State) (c : Nat) (k : Core) : (s.setCore c k).strand = s.strand := rfl
@[simp] theorem State.setCore_strcount (s : State) (c : Nat) (k : Core) : (s.setCore c k).strcount = s.strcount := rfl
@[simp] theorem State.setCore_tide (s : State) (c : Nat) (k : Core) : (s.setCore c k).tide = s.tide := rfl
@[simp] theorem State.setCore_asids (s : State) (c : Nat) (k : Core) : (s.setCore c k).asids = s.asids := rfl
@[simp] theorem State.setCore_mapcmd (s : State) (c : Nat) (k : Core) : (s.setCore c k).mapcmd = s.mapcmd := rfl
@[simp] theorem State.setCore_faults (s : State) (c : Nat) (k : Core) : (s.setCore c k).faults = s.faults := rfl
@[simp] theorem State.setCore_pfhead (s : State) (c : Nat) (k : Core) : (s.setCore c k).pfhead = s.pfhead := rfl
@[simp] theorem State.setCore_pftail (s : State) (c : Nat) (k : Core) : (s.setCore c k).pftail = s.pftail := rfl
@[simp] theorem State.setCore_pfring (s : State) (c : Nat) (k : Core) : (s.setCore c k).pfring = s.pfring := rfl
@[simp] theorem State.setCore_xlctl (s : State) (c : Nat) (k : Core) : (s.setCore c k).xlctl = s.xlctl := rfl
@[simp] theorem State.setCore_tlb (s : State) (c : Nat) (k : Core) : (s.setCore c k).tlb = s.tlb := rfl
@[simp] theorem State.setCore_xlts (s : State) (c : Nat) (k : Core) : (s.setCore c k).xlts = s.xlts := rfl
@[simp] theorem State.setCore_invs (s : State) (c : Nat) (k : Core) : (s.setCore c k).invs = s.invs := rfl
@[simp] theorem State.setCore_shtab (s : State) (c : Nat) (k : Core) : (s.setCore c k).shtab = s.shtab := rfl
@[simp] theorem State.setCore_sweeps (s : State) (c : Nat) (k : Core) : (s.setCore c k).sweeps = s.sweeps := rfl
@[simp] theorem State.setCore_nextSweep (s : State) (c : Nat) (k : Core) : (s.setCore c k).nextSweep = s.nextSweep := rfl
@[simp] theorem State.setCore_acceptCtr (s : State) (c : Nat) (k : Core) : (s.setCore c k).acceptCtr = s.acceptCtr := rfl
@[simp] theorem State.setCore_prewait (s : State) (c : Nat) (k : Core) : (s.setCore c k).prewait = s.prewait := rfl
@[simp] theorem State.setCore_images (s : State) (c : Nat) (k : Core) : (s.setCore c k).images = s.images := rfl
@[simp] theorem State.setCore_words (s : State) (c : Nat) (k : Core) : (s.setCore c k).words = s.words := rfl
@[simp] theorem State.setCore_mqTail (s : State) (c : Nat) (k : Core) : (s.setCore c k).mqTail = s.mqTail := rfl
@[simp] theorem State.setCore_scmd (s : State) (c : Nat) (k : Core) : (s.setCore c k).scmd = s.scmd := rfl
@[simp] theorem State.setCore_dbg (s : State) (c : Nat) (k : Core) : (s.setCore c k).dbg = s.dbg := rfl
@[simp] theorem State.setCore_flood (s : State) (c : Nat) (k : Core) : (s.setCore c k).flood = s.flood := rfl

@[simp] theorem State.setTask_cur (s : State) (c n : Nat) (t : Task) : (s.setTask c n t).cur = s.cur := rfl
@[simp] theorem State.setTask_agenda (s : State) (c n : Nat) (t : Task) : (s.setTask c n t).agenda = s.agenda := rfl
@[simp] theorem State.setTask_focus (s : State) (c n : Nat) (t : Task) : (s.setTask c n t).focus = s.focus := rfl
@[simp] theorem State.setTask_inp (s : State) (c n : Nat) (t : Task) : (s.setTask c n t).inp = s.inp := rfl
@[simp] theorem State.setTask_deferStart (s : State) (c n : Nat) (t : Task) : (s.setTask c n t).deferStart = s.deferStart := rfl
@[simp] theorem State.setTask_freeCtr (s : State) (c n : Nat) (t : Task) : (s.setTask c n t).freeCtr = s.freeCtr := rfl
@[simp] theorem State.setTask_clusters (s : State) (c n : Nat) (t : Task) : (s.setTask c n t).clusters = s.clusters := rfl
@[simp] theorem State.setTask_binds (s : State) (c n : Nat) (t : Task) : (s.setTask c n t).binds = s.binds := rfl
@[simp] theorem State.setTask_badHalves (s : State) (c n : Nat) (t : Task) : (s.setTask c n t).badHalves = s.badHalves := rfl
@[simp] theorem State.setTask_faultyCells (s : State) (c n : Nat) (t : Task) : (s.setTask c n t).faultyCells = s.faultyCells := rfl
@[simp] theorem State.setTask_defects (s : State) (c n : Nat) (t : Task) : (s.setTask c n t).defects = s.defects := rfl
@[simp] theorem State.setTask_halves (s : State) (c n : Nat) (t : Task) : (s.setTask c n t).halves = s.halves := rfl
@[simp] theorem State.setTask_hbm (s : State) (c n : Nat) (t : Task) : (s.setTask c n t).hbm = s.hbm := rfl
@[simp] theorem State.setTask_host (s : State) (c n : Nat) (t : Task) : (s.setTask c n t).host = s.host := rfl
@[simp] theorem State.setTask_xltAns (s : State) (c n : Nat) (t : Task) : (s.setTask c n t).xltAns = s.xltAns := rfl
@[simp] theorem State.setTask_zcl0 (s : State) (c n : Nat) (t : Task) : (s.setTask c n t).zcl0 = s.zcl0 := rfl
@[simp] theorem State.setTask_zcl1 (s : State) (c n : Nat) (t : Task) : (s.setTask c n t).zcl1 = s.zcl1 := rfl
@[simp] theorem State.setTask_zclLow (s : State) (c n : Nat) (t : Task) : (s.setTask c n t).zclLow = s.zclLow := rfl
@[simp] theorem State.setTask_zclWait (s : State) (c n : Nat) (t : Task) : (s.setTask c n t).zclWait = s.zclWait := rfl
@[simp] theorem State.setTask_recentTags (s : State) (c n : Nat) (t : Task) : (s.setTask c n t).recentTags = s.recentTags := rfl
@[simp] theorem State.setTask_idRefused (s : State) (c n : Nat) (t : Task) : (s.setTask c n t).idRefused = s.idRefused := rfl
@[simp] theorem State.setTask_winMgmt (s : State) (c n : Nat) (t : Task) : (s.setTask c n t).winMgmt = s.winMgmt := rfl
@[simp] theorem State.setTask_winLaunch (s : State) (c n : Nat) (t : Task) : (s.setTask c n t).winLaunch = s.winLaunch := rfl
@[simp] theorem State.setTask_winLog (s : State) (c n : Nat) (t : Task) : (s.setTask c n t).winLog = s.winLog := rfl
@[simp] theorem State.setTask_ports (s : State) (c n : Nat) (t : Task) : (s.setTask c n t).ports = s.ports := rfl
@[simp] theorem State.setTask_router (s : State) (c n : Nat) (t : Task) : (s.setTask c n t).router = s.router := rfl
@[simp] theorem State.setTask_wints (s : State) (c n : Nat) (t : Task) : (s.setTask c n t).wints = s.wints := rfl
@[simp] theorem State.setTask_macFails (s : State) (c n : Nat) (t : Task) : (s.setTask c n t).macFails = s.macFails := rfl
@[simp] theorem State.setTask_outst (s : State) (c n : Nat) (t : Task) : (s.setTask c n t).outst = s.outst := rfl
@[simp] theorem State.setTask_xfers (s : State) (c n : Nat) (t : Task) : (s.setTask c n t).xfers = s.xfers := rfl
@[simp] theorem State.setTask_nextTag (s : State) (c n : Nat) (t : Task) : (s.setTask c n t).nextTag = s.nextTag := rfl
@[simp] theorem State.setTask_tgtRecs (s : State) (c n : Nat) (t : Task) : (s.setTask c n t).tgtRecs = s.tgtRecs := rfl
@[simp] theorem State.setTask_ingress (s : State) (c n : Nat) (t : Task) : (s.setTask c n t).ingress = s.ingress := rfl
@[simp] theorem State.setTask_ords (s : State) (c n : Nat) (t : Task) : (s.setTask c n t).ords = s.ords := rfl
@[simp] theorem State.setTask_keyslots (s : State) (c n : Nat) (t : Task) : (s.setTask c n t).keyslots = s.keyslots := rfl
@[simp] theorem State.setTask_ftime (s : State) (c n : Nat) (t : Task) : (s.setTask c n t).ftime = s.ftime := rfl
@[simp] theorem State.setTask_devid (s : State) (c n : Nat) (t : Task) : (s.setTask c n t).devid = s.devid := rfl
@[simp] theorem State.setTask_nextKey (s : State) (c n : Nat) (t : Task) : (s.setTask c n t).nextKey = s.nextKey := rfl
@[simp] theorem State.setTask_lpages (s : State) (c n : Nat) (t : Task) : (s.setTask c n t).lpages = s.lpages := rfl
@[simp] theorem State.setTask_hostLog (s : State) (c n : Nat) (t : Task) : (s.setTask c n t).hostLog = s.hostLog := rfl
@[simp] theorem State.setTask_powered (s : State) (c n : Nat) (t : Task) : (s.setTask c n t).powered = s.powered := rfl
@[simp] theorem State.setTask_stopped (s : State) (c n : Nat) (t : Task) : (s.setTask c n t).stopped = s.stopped := rfl
@[simp] theorem State.setTask_bootst (s : State) (c n : Nat) (t : Task) : (s.setTask c n t).bootst = s.bootst := rfl
@[simp] theorem State.setTask_freason (s : State) (c n : Nat) (t : Task) : (s.setTask c n t).freason = s.freason := rfl
@[simp] theorem State.setTask_faulted (s : State) (c n : Nat) (t : Task) : (s.setTask c n t).faulted = s.faulted := rfl
@[simp] theorem State.setTask_secVer (s : State) (c n : Nat) (t : Task) : (s.setTask c n t).secVer = s.secVer := rfl
@[simp] theorem State.setTask_measurements (s : State) (c n : Nat) (t : Task) : (s.setTask c n t).measurements = s.measurements := rfl
@[simp] theorem State.setTask_strand (s : State) (c n : Nat) (t : Task) : (s.setTask c n t).strand = s.strand := rfl
@[simp] theorem State.setTask_strcount (s : State) (c n : Nat) (t : Task) : (s.setTask c n t).strcount = s.strcount := rfl
@[simp] theorem State.setTask_tide (s : State) (c n : Nat) (t : Task) : (s.setTask c n t).tide = s.tide := rfl
@[simp] theorem State.setTask_asids (s : State) (c n : Nat) (t : Task) : (s.setTask c n t).asids = s.asids := rfl
@[simp] theorem State.setTask_mapcmd (s : State) (c n : Nat) (t : Task) : (s.setTask c n t).mapcmd = s.mapcmd := rfl
@[simp] theorem State.setTask_faults (s : State) (c n : Nat) (t : Task) : (s.setTask c n t).faults = s.faults := rfl
@[simp] theorem State.setTask_pfhead (s : State) (c n : Nat) (t : Task) : (s.setTask c n t).pfhead = s.pfhead := rfl
@[simp] theorem State.setTask_pftail (s : State) (c n : Nat) (t : Task) : (s.setTask c n t).pftail = s.pftail := rfl
@[simp] theorem State.setTask_pfring (s : State) (c n : Nat) (t : Task) : (s.setTask c n t).pfring = s.pfring := rfl
@[simp] theorem State.setTask_xlctl (s : State) (c n : Nat) (t : Task) : (s.setTask c n t).xlctl = s.xlctl := rfl
@[simp] theorem State.setTask_tlb (s : State) (c n : Nat) (t : Task) : (s.setTask c n t).tlb = s.tlb := rfl
@[simp] theorem State.setTask_xlts (s : State) (c n : Nat) (t : Task) : (s.setTask c n t).xlts = s.xlts := rfl
@[simp] theorem State.setTask_invs (s : State) (c n : Nat) (t : Task) : (s.setTask c n t).invs = s.invs := rfl
@[simp] theorem State.setTask_shtab (s : State) (c n : Nat) (t : Task) : (s.setTask c n t).shtab = s.shtab := rfl
@[simp] theorem State.setTask_sweeps (s : State) (c n : Nat) (t : Task) : (s.setTask c n t).sweeps = s.sweeps := rfl
@[simp] theorem State.setTask_nextSweep (s : State) (c n : Nat) (t : Task) : (s.setTask c n t).nextSweep = s.nextSweep := rfl
@[simp] theorem State.setTask_acceptCtr (s : State) (c n : Nat) (t : Task) : (s.setTask c n t).acceptCtr = s.acceptCtr := rfl
@[simp] theorem State.setTask_prewait (s : State) (c n : Nat) (t : Task) : (s.setTask c n t).prewait = s.prewait := rfl
@[simp] theorem State.setTask_images (s : State) (c n : Nat) (t : Task) : (s.setTask c n t).images = s.images := rfl
@[simp] theorem State.setTask_words (s : State) (c n : Nat) (t : Task) : (s.setTask c n t).words = s.words := rfl
@[simp] theorem State.setTask_mqTail (s : State) (c n : Nat) (t : Task) : (s.setTask c n t).mqTail = s.mqTail := rfl
@[simp] theorem State.setTask_scmd (s : State) (c n : Nat) (t : Task) : (s.setTask c n t).scmd = s.scmd := rfl
@[simp] theorem State.setTask_dbg (s : State) (c n : Nat) (t : Task) : (s.setTask c n t).dbg = s.dbg := rfl
@[simp] theorem State.setTask_flood (s : State) (c n : Nat) (t : Task) : (s.setTask c n t).flood = s.flood := rfl

@[simp] theorem State.modTask_cur (s : State) (c n : Nat) (f : Task → Task) : (s.modTask c n f).cur = s.cur := rfl
@[simp] theorem State.modTask_agenda (s : State) (c n : Nat) (f : Task → Task) : (s.modTask c n f).agenda = s.agenda := rfl
@[simp] theorem State.modTask_focus (s : State) (c n : Nat) (f : Task → Task) : (s.modTask c n f).focus = s.focus := rfl
@[simp] theorem State.modTask_inp (s : State) (c n : Nat) (f : Task → Task) : (s.modTask c n f).inp = s.inp := rfl
@[simp] theorem State.modTask_deferStart (s : State) (c n : Nat) (f : Task → Task) : (s.modTask c n f).deferStart = s.deferStart := rfl
@[simp] theorem State.modTask_freeCtr (s : State) (c n : Nat) (f : Task → Task) : (s.modTask c n f).freeCtr = s.freeCtr := rfl
@[simp] theorem State.modTask_clusters (s : State) (c n : Nat) (f : Task → Task) : (s.modTask c n f).clusters = s.clusters := rfl
@[simp] theorem State.modTask_binds (s : State) (c n : Nat) (f : Task → Task) : (s.modTask c n f).binds = s.binds := rfl
@[simp] theorem State.modTask_badHalves (s : State) (c n : Nat) (f : Task → Task) : (s.modTask c n f).badHalves = s.badHalves := rfl
@[simp] theorem State.modTask_faultyCells (s : State) (c n : Nat) (f : Task → Task) : (s.modTask c n f).faultyCells = s.faultyCells := rfl
@[simp] theorem State.modTask_defects (s : State) (c n : Nat) (f : Task → Task) : (s.modTask c n f).defects = s.defects := rfl
@[simp] theorem State.modTask_halves (s : State) (c n : Nat) (f : Task → Task) : (s.modTask c n f).halves = s.halves := rfl
@[simp] theorem State.modTask_hbm (s : State) (c n : Nat) (f : Task → Task) : (s.modTask c n f).hbm = s.hbm := rfl
@[simp] theorem State.modTask_host (s : State) (c n : Nat) (f : Task → Task) : (s.modTask c n f).host = s.host := rfl
@[simp] theorem State.modTask_xltAns (s : State) (c n : Nat) (f : Task → Task) : (s.modTask c n f).xltAns = s.xltAns := rfl
@[simp] theorem State.modTask_zcl0 (s : State) (c n : Nat) (f : Task → Task) : (s.modTask c n f).zcl0 = s.zcl0 := rfl
@[simp] theorem State.modTask_zcl1 (s : State) (c n : Nat) (f : Task → Task) : (s.modTask c n f).zcl1 = s.zcl1 := rfl
@[simp] theorem State.modTask_zclLow (s : State) (c n : Nat) (f : Task → Task) : (s.modTask c n f).zclLow = s.zclLow := rfl
@[simp] theorem State.modTask_zclWait (s : State) (c n : Nat) (f : Task → Task) : (s.modTask c n f).zclWait = s.zclWait := rfl
@[simp] theorem State.modTask_recentTags (s : State) (c n : Nat) (f : Task → Task) : (s.modTask c n f).recentTags = s.recentTags := rfl
@[simp] theorem State.modTask_idRefused (s : State) (c n : Nat) (f : Task → Task) : (s.modTask c n f).idRefused = s.idRefused := rfl
@[simp] theorem State.modTask_winMgmt (s : State) (c n : Nat) (f : Task → Task) : (s.modTask c n f).winMgmt = s.winMgmt := rfl
@[simp] theorem State.modTask_winLaunch (s : State) (c n : Nat) (f : Task → Task) : (s.modTask c n f).winLaunch = s.winLaunch := rfl
@[simp] theorem State.modTask_winLog (s : State) (c n : Nat) (f : Task → Task) : (s.modTask c n f).winLog = s.winLog := rfl
@[simp] theorem State.modTask_ports (s : State) (c n : Nat) (f : Task → Task) : (s.modTask c n f).ports = s.ports := rfl
@[simp] theorem State.modTask_router (s : State) (c n : Nat) (f : Task → Task) : (s.modTask c n f).router = s.router := rfl
@[simp] theorem State.modTask_wints (s : State) (c n : Nat) (f : Task → Task) : (s.modTask c n f).wints = s.wints := rfl
@[simp] theorem State.modTask_macFails (s : State) (c n : Nat) (f : Task → Task) : (s.modTask c n f).macFails = s.macFails := rfl
@[simp] theorem State.modTask_outst (s : State) (c n : Nat) (f : Task → Task) : (s.modTask c n f).outst = s.outst := rfl
@[simp] theorem State.modTask_xfers (s : State) (c n : Nat) (f : Task → Task) : (s.modTask c n f).xfers = s.xfers := rfl
@[simp] theorem State.modTask_nextTag (s : State) (c n : Nat) (f : Task → Task) : (s.modTask c n f).nextTag = s.nextTag := rfl
@[simp] theorem State.modTask_tgtRecs (s : State) (c n : Nat) (f : Task → Task) : (s.modTask c n f).tgtRecs = s.tgtRecs := rfl
@[simp] theorem State.modTask_ingress (s : State) (c n : Nat) (f : Task → Task) : (s.modTask c n f).ingress = s.ingress := rfl
@[simp] theorem State.modTask_ords (s : State) (c n : Nat) (f : Task → Task) : (s.modTask c n f).ords = s.ords := rfl
@[simp] theorem State.modTask_keyslots (s : State) (c n : Nat) (f : Task → Task) : (s.modTask c n f).keyslots = s.keyslots := rfl
@[simp] theorem State.modTask_ftime (s : State) (c n : Nat) (f : Task → Task) : (s.modTask c n f).ftime = s.ftime := rfl
@[simp] theorem State.modTask_devid (s : State) (c n : Nat) (f : Task → Task) : (s.modTask c n f).devid = s.devid := rfl
@[simp] theorem State.modTask_nextKey (s : State) (c n : Nat) (f : Task → Task) : (s.modTask c n f).nextKey = s.nextKey := rfl
@[simp] theorem State.modTask_lpages (s : State) (c n : Nat) (f : Task → Task) : (s.modTask c n f).lpages = s.lpages := rfl
@[simp] theorem State.modTask_hostLog (s : State) (c n : Nat) (f : Task → Task) : (s.modTask c n f).hostLog = s.hostLog := rfl
@[simp] theorem State.modTask_powered (s : State) (c n : Nat) (f : Task → Task) : (s.modTask c n f).powered = s.powered := rfl
@[simp] theorem State.modTask_stopped (s : State) (c n : Nat) (f : Task → Task) : (s.modTask c n f).stopped = s.stopped := rfl
@[simp] theorem State.modTask_bootst (s : State) (c n : Nat) (f : Task → Task) : (s.modTask c n f).bootst = s.bootst := rfl
@[simp] theorem State.modTask_freason (s : State) (c n : Nat) (f : Task → Task) : (s.modTask c n f).freason = s.freason := rfl
@[simp] theorem State.modTask_faulted (s : State) (c n : Nat) (f : Task → Task) : (s.modTask c n f).faulted = s.faulted := rfl
@[simp] theorem State.modTask_secVer (s : State) (c n : Nat) (f : Task → Task) : (s.modTask c n f).secVer = s.secVer := rfl
@[simp] theorem State.modTask_measurements (s : State) (c n : Nat) (f : Task → Task) : (s.modTask c n f).measurements = s.measurements := rfl
@[simp] theorem State.modTask_strand (s : State) (c n : Nat) (f : Task → Task) : (s.modTask c n f).strand = s.strand := rfl
@[simp] theorem State.modTask_strcount (s : State) (c n : Nat) (f : Task → Task) : (s.modTask c n f).strcount = s.strcount := rfl
@[simp] theorem State.modTask_tide (s : State) (c n : Nat) (f : Task → Task) : (s.modTask c n f).tide = s.tide := rfl
@[simp] theorem State.modTask_asids (s : State) (c n : Nat) (f : Task → Task) : (s.modTask c n f).asids = s.asids := rfl
@[simp] theorem State.modTask_mapcmd (s : State) (c n : Nat) (f : Task → Task) : (s.modTask c n f).mapcmd = s.mapcmd := rfl
@[simp] theorem State.modTask_faults (s : State) (c n : Nat) (f : Task → Task) : (s.modTask c n f).faults = s.faults := rfl
@[simp] theorem State.modTask_pfhead (s : State) (c n : Nat) (f : Task → Task) : (s.modTask c n f).pfhead = s.pfhead := rfl
@[simp] theorem State.modTask_pftail (s : State) (c n : Nat) (f : Task → Task) : (s.modTask c n f).pftail = s.pftail := rfl
@[simp] theorem State.modTask_pfring (s : State) (c n : Nat) (f : Task → Task) : (s.modTask c n f).pfring = s.pfring := rfl
@[simp] theorem State.modTask_xlctl (s : State) (c n : Nat) (f : Task → Task) : (s.modTask c n f).xlctl = s.xlctl := rfl
@[simp] theorem State.modTask_tlb (s : State) (c n : Nat) (f : Task → Task) : (s.modTask c n f).tlb = s.tlb := rfl
@[simp] theorem State.modTask_xlts (s : State) (c n : Nat) (f : Task → Task) : (s.modTask c n f).xlts = s.xlts := rfl
@[simp] theorem State.modTask_invs (s : State) (c n : Nat) (f : Task → Task) : (s.modTask c n f).invs = s.invs := rfl
@[simp] theorem State.modTask_shtab (s : State) (c n : Nat) (f : Task → Task) : (s.modTask c n f).shtab = s.shtab := rfl
@[simp] theorem State.modTask_sweeps (s : State) (c n : Nat) (f : Task → Task) : (s.modTask c n f).sweeps = s.sweeps := rfl
@[simp] theorem State.modTask_nextSweep (s : State) (c n : Nat) (f : Task → Task) : (s.modTask c n f).nextSweep = s.nextSweep := rfl
@[simp] theorem State.modTask_acceptCtr (s : State) (c n : Nat) (f : Task → Task) : (s.modTask c n f).acceptCtr = s.acceptCtr := rfl
@[simp] theorem State.modTask_prewait (s : State) (c n : Nat) (f : Task → Task) : (s.modTask c n f).prewait = s.prewait := rfl
@[simp] theorem State.modTask_images (s : State) (c n : Nat) (f : Task → Task) : (s.modTask c n f).images = s.images := rfl
@[simp] theorem State.modTask_words (s : State) (c n : Nat) (f : Task → Task) : (s.modTask c n f).words = s.words := rfl
@[simp] theorem State.modTask_mqTail (s : State) (c n : Nat) (f : Task → Task) : (s.modTask c n f).mqTail = s.mqTail := rfl
@[simp] theorem State.modTask_scmd (s : State) (c n : Nat) (f : Task → Task) : (s.modTask c n f).scmd = s.scmd := rfl
@[simp] theorem State.modTask_dbg (s : State) (c n : Nat) (f : Task → Task) : (s.modTask c n f).dbg = s.dbg := rfl
@[simp] theorem State.modTask_flood (s : State) (c n : Nat) (f : Task → Task) : (s.modTask c n f).flood = s.flood := rfl

@[simp] theorem State.modCore_cur (s : State) (c : Nat) (f : Core → Core) : (s.modCore c f).cur = s.cur := rfl
@[simp] theorem State.modCore_agenda (s : State) (c : Nat) (f : Core → Core) : (s.modCore c f).agenda = s.agenda := rfl
@[simp] theorem State.modCore_focus (s : State) (c : Nat) (f : Core → Core) : (s.modCore c f).focus = s.focus := rfl
@[simp] theorem State.modCore_inp (s : State) (c : Nat) (f : Core → Core) : (s.modCore c f).inp = s.inp := rfl
@[simp] theorem State.modCore_deferStart (s : State) (c : Nat) (f : Core → Core) : (s.modCore c f).deferStart = s.deferStart := rfl
@[simp] theorem State.modCore_freeCtr (s : State) (c : Nat) (f : Core → Core) : (s.modCore c f).freeCtr = s.freeCtr := rfl
@[simp] theorem State.modCore_clusters (s : State) (c : Nat) (f : Core → Core) : (s.modCore c f).clusters = s.clusters := rfl
@[simp] theorem State.modCore_binds (s : State) (c : Nat) (f : Core → Core) : (s.modCore c f).binds = s.binds := rfl
@[simp] theorem State.modCore_badHalves (s : State) (c : Nat) (f : Core → Core) : (s.modCore c f).badHalves = s.badHalves := rfl
@[simp] theorem State.modCore_faultyCells (s : State) (c : Nat) (f : Core → Core) : (s.modCore c f).faultyCells = s.faultyCells := rfl
@[simp] theorem State.modCore_defects (s : State) (c : Nat) (f : Core → Core) : (s.modCore c f).defects = s.defects := rfl
@[simp] theorem State.modCore_halves (s : State) (c : Nat) (f : Core → Core) : (s.modCore c f).halves = s.halves := rfl
@[simp] theorem State.modCore_hbm (s : State) (c : Nat) (f : Core → Core) : (s.modCore c f).hbm = s.hbm := rfl
@[simp] theorem State.modCore_host (s : State) (c : Nat) (f : Core → Core) : (s.modCore c f).host = s.host := rfl
@[simp] theorem State.modCore_xltAns (s : State) (c : Nat) (f : Core → Core) : (s.modCore c f).xltAns = s.xltAns := rfl
@[simp] theorem State.modCore_zcl0 (s : State) (c : Nat) (f : Core → Core) : (s.modCore c f).zcl0 = s.zcl0 := rfl
@[simp] theorem State.modCore_zcl1 (s : State) (c : Nat) (f : Core → Core) : (s.modCore c f).zcl1 = s.zcl1 := rfl
@[simp] theorem State.modCore_zclLow (s : State) (c : Nat) (f : Core → Core) : (s.modCore c f).zclLow = s.zclLow := rfl
@[simp] theorem State.modCore_zclWait (s : State) (c : Nat) (f : Core → Core) : (s.modCore c f).zclWait = s.zclWait := rfl
@[simp] theorem State.modCore_recentTags (s : State) (c : Nat) (f : Core → Core) : (s.modCore c f).recentTags = s.recentTags := rfl
@[simp] theorem State.modCore_idRefused (s : State) (c : Nat) (f : Core → Core) : (s.modCore c f).idRefused = s.idRefused := rfl
@[simp] theorem State.modCore_winMgmt (s : State) (c : Nat) (f : Core → Core) : (s.modCore c f).winMgmt = s.winMgmt := rfl
@[simp] theorem State.modCore_winLaunch (s : State) (c : Nat) (f : Core → Core) : (s.modCore c f).winLaunch = s.winLaunch := rfl
@[simp] theorem State.modCore_winLog (s : State) (c : Nat) (f : Core → Core) : (s.modCore c f).winLog = s.winLog := rfl
@[simp] theorem State.modCore_ports (s : State) (c : Nat) (f : Core → Core) : (s.modCore c f).ports = s.ports := rfl
@[simp] theorem State.modCore_router (s : State) (c : Nat) (f : Core → Core) : (s.modCore c f).router = s.router := rfl
@[simp] theorem State.modCore_wints (s : State) (c : Nat) (f : Core → Core) : (s.modCore c f).wints = s.wints := rfl
@[simp] theorem State.modCore_macFails (s : State) (c : Nat) (f : Core → Core) : (s.modCore c f).macFails = s.macFails := rfl
@[simp] theorem State.modCore_outst (s : State) (c : Nat) (f : Core → Core) : (s.modCore c f).outst = s.outst := rfl
@[simp] theorem State.modCore_xfers (s : State) (c : Nat) (f : Core → Core) : (s.modCore c f).xfers = s.xfers := rfl
@[simp] theorem State.modCore_nextTag (s : State) (c : Nat) (f : Core → Core) : (s.modCore c f).nextTag = s.nextTag := rfl
@[simp] theorem State.modCore_tgtRecs (s : State) (c : Nat) (f : Core → Core) : (s.modCore c f).tgtRecs = s.tgtRecs := rfl
@[simp] theorem State.modCore_ingress (s : State) (c : Nat) (f : Core → Core) : (s.modCore c f).ingress = s.ingress := rfl
@[simp] theorem State.modCore_ords (s : State) (c : Nat) (f : Core → Core) : (s.modCore c f).ords = s.ords := rfl
@[simp] theorem State.modCore_keyslots (s : State) (c : Nat) (f : Core → Core) : (s.modCore c f).keyslots = s.keyslots := rfl
@[simp] theorem State.modCore_ftime (s : State) (c : Nat) (f : Core → Core) : (s.modCore c f).ftime = s.ftime := rfl
@[simp] theorem State.modCore_devid (s : State) (c : Nat) (f : Core → Core) : (s.modCore c f).devid = s.devid := rfl
@[simp] theorem State.modCore_nextKey (s : State) (c : Nat) (f : Core → Core) : (s.modCore c f).nextKey = s.nextKey := rfl
@[simp] theorem State.modCore_lpages (s : State) (c : Nat) (f : Core → Core) : (s.modCore c f).lpages = s.lpages := rfl
@[simp] theorem State.modCore_hostLog (s : State) (c : Nat) (f : Core → Core) : (s.modCore c f).hostLog = s.hostLog := rfl
@[simp] theorem State.modCore_powered (s : State) (c : Nat) (f : Core → Core) : (s.modCore c f).powered = s.powered := rfl
@[simp] theorem State.modCore_stopped (s : State) (c : Nat) (f : Core → Core) : (s.modCore c f).stopped = s.stopped := rfl
@[simp] theorem State.modCore_bootst (s : State) (c : Nat) (f : Core → Core) : (s.modCore c f).bootst = s.bootst := rfl
@[simp] theorem State.modCore_freason (s : State) (c : Nat) (f : Core → Core) : (s.modCore c f).freason = s.freason := rfl
@[simp] theorem State.modCore_faulted (s : State) (c : Nat) (f : Core → Core) : (s.modCore c f).faulted = s.faulted := rfl
@[simp] theorem State.modCore_secVer (s : State) (c : Nat) (f : Core → Core) : (s.modCore c f).secVer = s.secVer := rfl
@[simp] theorem State.modCore_measurements (s : State) (c : Nat) (f : Core → Core) : (s.modCore c f).measurements = s.measurements := rfl
@[simp] theorem State.modCore_strand (s : State) (c : Nat) (f : Core → Core) : (s.modCore c f).strand = s.strand := rfl
@[simp] theorem State.modCore_strcount (s : State) (c : Nat) (f : Core → Core) : (s.modCore c f).strcount = s.strcount := rfl
@[simp] theorem State.modCore_tide (s : State) (c : Nat) (f : Core → Core) : (s.modCore c f).tide = s.tide := rfl
@[simp] theorem State.modCore_asids (s : State) (c : Nat) (f : Core → Core) : (s.modCore c f).asids = s.asids := rfl
@[simp] theorem State.modCore_mapcmd (s : State) (c : Nat) (f : Core → Core) : (s.modCore c f).mapcmd = s.mapcmd := rfl
@[simp] theorem State.modCore_faults (s : State) (c : Nat) (f : Core → Core) : (s.modCore c f).faults = s.faults := rfl
@[simp] theorem State.modCore_pfhead (s : State) (c : Nat) (f : Core → Core) : (s.modCore c f).pfhead = s.pfhead := rfl
@[simp] theorem State.modCore_pftail (s : State) (c : Nat) (f : Core → Core) : (s.modCore c f).pftail = s.pftail := rfl
@[simp] theorem State.modCore_pfring (s : State) (c : Nat) (f : Core → Core) : (s.modCore c f).pfring = s.pfring := rfl
@[simp] theorem State.modCore_xlctl (s : State) (c : Nat) (f : Core → Core) : (s.modCore c f).xlctl = s.xlctl := rfl
@[simp] theorem State.modCore_tlb (s : State) (c : Nat) (f : Core → Core) : (s.modCore c f).tlb = s.tlb := rfl
@[simp] theorem State.modCore_xlts (s : State) (c : Nat) (f : Core → Core) : (s.modCore c f).xlts = s.xlts := rfl
@[simp] theorem State.modCore_invs (s : State) (c : Nat) (f : Core → Core) : (s.modCore c f).invs = s.invs := rfl
@[simp] theorem State.modCore_shtab (s : State) (c : Nat) (f : Core → Core) : (s.modCore c f).shtab = s.shtab := rfl
@[simp] theorem State.modCore_sweeps (s : State) (c : Nat) (f : Core → Core) : (s.modCore c f).sweeps = s.sweeps := rfl
@[simp] theorem State.modCore_nextSweep (s : State) (c : Nat) (f : Core → Core) : (s.modCore c f).nextSweep = s.nextSweep := rfl
@[simp] theorem State.modCore_acceptCtr (s : State) (c : Nat) (f : Core → Core) : (s.modCore c f).acceptCtr = s.acceptCtr := rfl
@[simp] theorem State.modCore_prewait (s : State) (c : Nat) (f : Core → Core) : (s.modCore c f).prewait = s.prewait := rfl
@[simp] theorem State.modCore_images (s : State) (c : Nat) (f : Core → Core) : (s.modCore c f).images = s.images := rfl
@[simp] theorem State.modCore_words (s : State) (c : Nat) (f : Core → Core) : (s.modCore c f).words = s.words := rfl
@[simp] theorem State.modCore_mqTail (s : State) (c : Nat) (f : Core → Core) : (s.modCore c f).mqTail = s.mqTail := rfl
@[simp] theorem State.modCore_scmd (s : State) (c : Nat) (f : Core → Core) : (s.modCore c f).scmd = s.scmd := rfl
@[simp] theorem State.modCore_dbg (s : State) (c : Nat) (f : Core → Core) : (s.modCore c f).dbg = s.dbg := rfl
@[simp] theorem State.modCore_flood (s : State) (c : Nat) (f : Core → Core) : (s.modCore c f).flood = s.flood := rfl

@[simp] theorem State.setSem_cur (s : State) (c n : Nat) (x : Sem) : (s.setSem c n x).cur = s.cur := rfl
@[simp] theorem State.setSem_agenda (s : State) (c n : Nat) (x : Sem) : (s.setSem c n x).agenda = s.agenda := rfl
@[simp] theorem State.setSem_focus (s : State) (c n : Nat) (x : Sem) : (s.setSem c n x).focus = s.focus := rfl
@[simp] theorem State.setSem_inp (s : State) (c n : Nat) (x : Sem) : (s.setSem c n x).inp = s.inp := rfl
@[simp] theorem State.setSem_deferStart (s : State) (c n : Nat) (x : Sem) : (s.setSem c n x).deferStart = s.deferStart := rfl
@[simp] theorem State.setSem_freeCtr (s : State) (c n : Nat) (x : Sem) : (s.setSem c n x).freeCtr = s.freeCtr := rfl
@[simp] theorem State.setSem_clusters (s : State) (c n : Nat) (x : Sem) : (s.setSem c n x).clusters = s.clusters := rfl
@[simp] theorem State.setSem_binds (s : State) (c n : Nat) (x : Sem) : (s.setSem c n x).binds = s.binds := rfl
@[simp] theorem State.setSem_badHalves (s : State) (c n : Nat) (x : Sem) : (s.setSem c n x).badHalves = s.badHalves := rfl
@[simp] theorem State.setSem_faultyCells (s : State) (c n : Nat) (x : Sem) : (s.setSem c n x).faultyCells = s.faultyCells := rfl
@[simp] theorem State.setSem_defects (s : State) (c n : Nat) (x : Sem) : (s.setSem c n x).defects = s.defects := rfl
@[simp] theorem State.setSem_halves (s : State) (c n : Nat) (x : Sem) : (s.setSem c n x).halves = s.halves := rfl
@[simp] theorem State.setSem_hbm (s : State) (c n : Nat) (x : Sem) : (s.setSem c n x).hbm = s.hbm := rfl
@[simp] theorem State.setSem_host (s : State) (c n : Nat) (x : Sem) : (s.setSem c n x).host = s.host := rfl
@[simp] theorem State.setSem_xltAns (s : State) (c n : Nat) (x : Sem) : (s.setSem c n x).xltAns = s.xltAns := rfl
@[simp] theorem State.setSem_zcl0 (s : State) (c n : Nat) (x : Sem) : (s.setSem c n x).zcl0 = s.zcl0 := rfl
@[simp] theorem State.setSem_zcl1 (s : State) (c n : Nat) (x : Sem) : (s.setSem c n x).zcl1 = s.zcl1 := rfl
@[simp] theorem State.setSem_zclLow (s : State) (c n : Nat) (x : Sem) : (s.setSem c n x).zclLow = s.zclLow := rfl
@[simp] theorem State.setSem_zclWait (s : State) (c n : Nat) (x : Sem) : (s.setSem c n x).zclWait = s.zclWait := rfl
@[simp] theorem State.setSem_recentTags (s : State) (c n : Nat) (x : Sem) : (s.setSem c n x).recentTags = s.recentTags := rfl
@[simp] theorem State.setSem_idRefused (s : State) (c n : Nat) (x : Sem) : (s.setSem c n x).idRefused = s.idRefused := rfl
@[simp] theorem State.setSem_winMgmt (s : State) (c n : Nat) (x : Sem) : (s.setSem c n x).winMgmt = s.winMgmt := rfl
@[simp] theorem State.setSem_winLaunch (s : State) (c n : Nat) (x : Sem) : (s.setSem c n x).winLaunch = s.winLaunch := rfl
@[simp] theorem State.setSem_winLog (s : State) (c n : Nat) (x : Sem) : (s.setSem c n x).winLog = s.winLog := rfl
@[simp] theorem State.setSem_ports (s : State) (c n : Nat) (x : Sem) : (s.setSem c n x).ports = s.ports := rfl
@[simp] theorem State.setSem_router (s : State) (c n : Nat) (x : Sem) : (s.setSem c n x).router = s.router := rfl
@[simp] theorem State.setSem_wints (s : State) (c n : Nat) (x : Sem) : (s.setSem c n x).wints = s.wints := rfl
@[simp] theorem State.setSem_macFails (s : State) (c n : Nat) (x : Sem) : (s.setSem c n x).macFails = s.macFails := rfl
@[simp] theorem State.setSem_outst (s : State) (c n : Nat) (x : Sem) : (s.setSem c n x).outst = s.outst := rfl
@[simp] theorem State.setSem_xfers (s : State) (c n : Nat) (x : Sem) : (s.setSem c n x).xfers = s.xfers := rfl
@[simp] theorem State.setSem_nextTag (s : State) (c n : Nat) (x : Sem) : (s.setSem c n x).nextTag = s.nextTag := rfl
@[simp] theorem State.setSem_tgtRecs (s : State) (c n : Nat) (x : Sem) : (s.setSem c n x).tgtRecs = s.tgtRecs := rfl
@[simp] theorem State.setSem_ingress (s : State) (c n : Nat) (x : Sem) : (s.setSem c n x).ingress = s.ingress := rfl
@[simp] theorem State.setSem_ords (s : State) (c n : Nat) (x : Sem) : (s.setSem c n x).ords = s.ords := rfl
@[simp] theorem State.setSem_keyslots (s : State) (c n : Nat) (x : Sem) : (s.setSem c n x).keyslots = s.keyslots := rfl
@[simp] theorem State.setSem_ftime (s : State) (c n : Nat) (x : Sem) : (s.setSem c n x).ftime = s.ftime := rfl
@[simp] theorem State.setSem_devid (s : State) (c n : Nat) (x : Sem) : (s.setSem c n x).devid = s.devid := rfl
@[simp] theorem State.setSem_nextKey (s : State) (c n : Nat) (x : Sem) : (s.setSem c n x).nextKey = s.nextKey := rfl
@[simp] theorem State.setSem_lpages (s : State) (c n : Nat) (x : Sem) : (s.setSem c n x).lpages = s.lpages := rfl
@[simp] theorem State.setSem_hostLog (s : State) (c n : Nat) (x : Sem) : (s.setSem c n x).hostLog = s.hostLog := rfl
@[simp] theorem State.setSem_powered (s : State) (c n : Nat) (x : Sem) : (s.setSem c n x).powered = s.powered := rfl
@[simp] theorem State.setSem_stopped (s : State) (c n : Nat) (x : Sem) : (s.setSem c n x).stopped = s.stopped := rfl
@[simp] theorem State.setSem_bootst (s : State) (c n : Nat) (x : Sem) : (s.setSem c n x).bootst = s.bootst := rfl
@[simp] theorem State.setSem_freason (s : State) (c n : Nat) (x : Sem) : (s.setSem c n x).freason = s.freason := rfl
@[simp] theorem State.setSem_faulted (s : State) (c n : Nat) (x : Sem) : (s.setSem c n x).faulted = s.faulted := rfl
@[simp] theorem State.setSem_secVer (s : State) (c n : Nat) (x : Sem) : (s.setSem c n x).secVer = s.secVer := rfl
@[simp] theorem State.setSem_measurements (s : State) (c n : Nat) (x : Sem) : (s.setSem c n x).measurements = s.measurements := rfl
@[simp] theorem State.setSem_strand (s : State) (c n : Nat) (x : Sem) : (s.setSem c n x).strand = s.strand := rfl
@[simp] theorem State.setSem_strcount (s : State) (c n : Nat) (x : Sem) : (s.setSem c n x).strcount = s.strcount := rfl
@[simp] theorem State.setSem_tide (s : State) (c n : Nat) (x : Sem) : (s.setSem c n x).tide = s.tide := rfl
@[simp] theorem State.setSem_asids (s : State) (c n : Nat) (x : Sem) : (s.setSem c n x).asids = s.asids := rfl
@[simp] theorem State.setSem_mapcmd (s : State) (c n : Nat) (x : Sem) : (s.setSem c n x).mapcmd = s.mapcmd := rfl
@[simp] theorem State.setSem_faults (s : State) (c n : Nat) (x : Sem) : (s.setSem c n x).faults = s.faults := rfl
@[simp] theorem State.setSem_pfhead (s : State) (c n : Nat) (x : Sem) : (s.setSem c n x).pfhead = s.pfhead := rfl
@[simp] theorem State.setSem_pftail (s : State) (c n : Nat) (x : Sem) : (s.setSem c n x).pftail = s.pftail := rfl
@[simp] theorem State.setSem_pfring (s : State) (c n : Nat) (x : Sem) : (s.setSem c n x).pfring = s.pfring := rfl
@[simp] theorem State.setSem_xlctl (s : State) (c n : Nat) (x : Sem) : (s.setSem c n x).xlctl = s.xlctl := rfl
@[simp] theorem State.setSem_tlb (s : State) (c n : Nat) (x : Sem) : (s.setSem c n x).tlb = s.tlb := rfl
@[simp] theorem State.setSem_xlts (s : State) (c n : Nat) (x : Sem) : (s.setSem c n x).xlts = s.xlts := rfl
@[simp] theorem State.setSem_invs (s : State) (c n : Nat) (x : Sem) : (s.setSem c n x).invs = s.invs := rfl
@[simp] theorem State.setSem_shtab (s : State) (c n : Nat) (x : Sem) : (s.setSem c n x).shtab = s.shtab := rfl
@[simp] theorem State.setSem_sweeps (s : State) (c n : Nat) (x : Sem) : (s.setSem c n x).sweeps = s.sweeps := rfl
@[simp] theorem State.setSem_nextSweep (s : State) (c n : Nat) (x : Sem) : (s.setSem c n x).nextSweep = s.nextSweep := rfl
@[simp] theorem State.setSem_acceptCtr (s : State) (c n : Nat) (x : Sem) : (s.setSem c n x).acceptCtr = s.acceptCtr := rfl
@[simp] theorem State.setSem_prewait (s : State) (c n : Nat) (x : Sem) : (s.setSem c n x).prewait = s.prewait := rfl
@[simp] theorem State.setSem_images (s : State) (c n : Nat) (x : Sem) : (s.setSem c n x).images = s.images := rfl
@[simp] theorem State.setSem_words (s : State) (c n : Nat) (x : Sem) : (s.setSem c n x).words = s.words := rfl
@[simp] theorem State.setSem_mqTail (s : State) (c n : Nat) (x : Sem) : (s.setSem c n x).mqTail = s.mqTail := rfl
@[simp] theorem State.setSem_scmd (s : State) (c n : Nat) (x : Sem) : (s.setSem c n x).scmd = s.scmd := rfl
@[simp] theorem State.setSem_dbg (s : State) (c n : Nat) (x : Sem) : (s.setSem c n x).dbg = s.dbg := rfl
@[simp] theorem State.setSem_flood (s : State) (c n : Nat) (x : Sem) : (s.setSem c n x).flood = s.flood := rfl

/-! ## Registers of a task after a write -/

@[simp] theorem Task.setS_st (t : Task) (r : SReg) (x : Word) : (t.setS r x).st = t.st := by unfold Task.setS; split <;> rfl
@[simp] theorem Task.setS_sweep (t : Task) (r : SReg) (x : Word) : (t.setS r x).sweep = t.sweep := by unfold Task.setS; split <;> rfl
@[simp] theorem Task.setS_asid (t : Task) (r : SReg) (x : Word) : (t.setS r x).asid = t.asid := by unfold Task.setS; split <;> rfl
@[simp] theorem Task.setS_iter (t : Task) (r : SReg) (x : Word) : (t.setS r x).iter = t.iter := by unfold Task.setS; split <;> rfl
@[simp] theorem Task.setS_seed (t : Task) (r : SReg) (x : Word) : (t.setS r x).seed = t.seed := by unfold Task.setS; split <;> rfl
@[simp] theorem Task.setS_ceil (t : Task) (r : SReg) (x : Word) : (t.setS r x).ceil = t.ceil := by unfold Task.setS; split <;> rfl
@[simp] theorem Task.setS_pc (t : Task) (r : SReg) (x : Word) : (t.setS r x).pc = t.pc := by unfold Task.setS; split <;> rfl
@[simp] theorem Task.setS_a (t : Task) (r : SReg) (x : Word) : (t.setS r x).a = t.a := by unfold Task.setS; split <;> rfl
@[simp] theorem Task.setS_p (t : Task) (r : SReg) (x : Word) : (t.setS r x).p = t.p := by unfold Task.setS; split <;> rfl
@[simp] theorem Task.setS_v (t : Task) (r : SReg) (x : Word) : (t.setS r x).v = t.v := by unfold Task.setS; split <;> rfl
@[simp] theorem Task.setS_m (t : Task) (r : SReg) (x : Word) : (t.setS r x).m = t.m := by unfold Task.setS; split <;> rfl
@[simp] theorem Task.setS_width (t : Task) (r : SReg) (x : Word) : (t.setS r x).width = t.width := by unfold Task.setS; split <;> rfl
@[simp] theorem Task.setS_loops (t : Task) (r : SReg) (x : Word) : (t.setS r x).loops = t.loops := by unfold Task.setS; split <;> rfl
@[simp] theorem Task.setS_depth (t : Task) (r : SReg) (x : Word) : (t.setS r x).depth = t.depth := by unfold Task.setS; split <;> rfl
@[simp] theorem Task.setS_esw (t : Task) (r : SReg) (x : Word) : (t.setS r x).esw = t.esw := by unfold Task.setS; split <;> rfl
@[simp] theorem Task.setS_epc (t : Task) (r : SReg) (x : Word) : (t.setS r x).epc = t.epc := by unfold Task.setS; split <;> rfl
@[simp] theorem Task.setS_ecause (t : Task) (r : SReg) (x : Word) : (t.setS r x).ecause = t.ecause := by unfold Task.setS; split <;> rfl
@[simp] theorem Task.setS_eaddr (t : Task) (r : SReg) (x : Word) : (t.setS r x).eaddr = t.eaddr := by unfold Task.setS; split <;> rfl
@[simp] theorem Task.setS_ecp (t : Task) (r : SReg) (x : Word) : (t.setS r x).ecp = t.ecp := by unfold Task.setS; split <;> rfl
@[simp] theorem Task.setS_esp (t : Task) (r : SReg) (x : Word) : (t.setS r x).esp = t.esp := by unfold Task.setS; split <;> rfl
@[simp] theorem Task.setS_hbase (t : Task) (r : SReg) (x : Word) : (t.setS r x).hbase = t.hbase := by unfold Task.setS; split <;> rfl
@[simp] theorem Task.setS_waitlimit (t : Task) (r : SReg) (x : Word) : (t.setS r x).waitlimit = t.waitlimit := by unfold Task.setS; split <;> rfl
@[simp] theorem Task.setS_waitAcc (t : Task) (r : SReg) (x : Word) : (t.setS r x).waitAcc = t.waitAcc := by unfold Task.setS; split <;> rfl
@[simp] theorem Task.setS_waitFrom (t : Task) (r : SReg) (x : Word) : (t.setS r x).waitFrom = t.waitFrom := by unfold Task.setS; split <;> rfl
@[simp] theorem Task.setS_inh (t : Task) (r : SReg) (x : Word) : (t.setS r x).inh = t.inh := by unfold Task.setS; split <;> rfl
@[simp] theorem Task.setS_priv (t : Task) (r : SReg) (x : Word) : (t.setS r x).priv = t.priv := by unfold Task.setS; split <;> rfl
@[simp] theorem Task.setS_cls (t : Task) (r : SReg) (x : Word) : (t.setS r x).cls = t.cls := by unfold Task.setS; split <;> rfl
@[simp] theorem Task.setS_inherited (t : Task) (r : SReg) (x : Word) : (t.setS r x).inherited = t.inherited := by unfold Task.setS; split <;> rfl
@[simp] theorem Task.setS_regions (t : Task) (r : SReg) (x : Word) : (t.setS r x).regions = t.regions := by unfold Task.setS; split <;> rfl
@[simp] theorem Task.setS_rows (t : Task) (r : SReg) (x : Word) : (t.setS r x).rows = t.rows := by unfold Task.setS; split <;> rfl
@[simp] theorem Task.setS_rowq (t : Task) (r : SReg) (x : Word) : (t.setS r x).rowq = t.rowq := by unfold Task.setS; split <;> rfl
@[simp] theorem Task.setS_acts (t : Task) (r : SReg) (x : Word) : (t.setS r x).acts = t.acts := by unfold Task.setS; split <;> rfl
@[simp] theorem Task.setS_isn (t : Task) (r : SReg) (x : Word) : (t.setS r x).isn = t.isn := by unfold Task.setS; split <;> rfl
@[simp] theorem Task.setS_wait (t : Task) (r : SReg) (x : Word) : (t.setS r x).wait = t.wait := by unfold Task.setS; split <;> rfl
@[simp] theorem Task.setS_took (t : Task) (r : SReg) (x : Word) : (t.setS r x).took = t.took := by unfold Task.setS; split <;> rfl
@[simp] theorem Task.setS_pastSync (t : Task) (r : SReg) (x : Word) : (t.setS r x).pastSync = t.pastSync := by unfold Task.setS; split <;> rfl
@[simp] theorem Task.setS_pendVx (t : Task) (r : SReg) (x : Word) : (t.setS r x).pendVx = t.pendVx := by unfold Task.setS; split <;> rfl
@[simp] theorem Task.setS_pendTx (t : Task) (r : SReg) (x : Word) : (t.setS r x).pendTx = t.pendTx := by unfold Task.setS; split <;> rfl
@[simp] theorem Task.setS_pendMx (t : Task) (r : SReg) (x : Word) : (t.setS r x).pendMx = t.pendMx := by unfold Task.setS; split <;> rfl
@[simp] theorem Task.setS_pendCx (t : Task) (r : SReg) (x : Word) : (t.setS r x).pendCx = t.pendCx := by unfold Task.setS; split <;> rfl
@[simp] theorem Task.setS_pendFx (t : Task) (r : SReg) (x : Word) : (t.setS r x).pendFx = t.pendFx := by unfold Task.setS; split <;> rfl
@[simp] theorem Task.setS_starve (t : Task) (r : SReg) (x : Word) : (t.setS r x).starve = t.starve := by unfold Task.setS; split <;> rfl
@[simp] theorem Task.setS_yielded (t : Task) (r : SReg) (x : Word) : (t.setS r x).yielded = t.yielded := by unfold Task.setS; split <;> rfl
@[simp] theorem Task.setS_resvd (t : Task) (r : SReg) (x : Word) : (t.setS r x).resvd = t.resvd := by unfold Task.setS; split <;> rfl
@[simp] theorem Task.setS_frozenEng (t : Task) (r : SReg) (x : Word) : (t.setS r x).frozenEng = t.frozenEng := by unfold Task.setS; split <;> rfl
@[simp] theorem Task.setP_st (t : Task) (r : PReg) (x : Bool) : (t.setP r x).st = t.st := by unfold Task.setP; split <;> rfl
@[simp] theorem Task.setP_sweep (t : Task) (r : PReg) (x : Bool) : (t.setP r x).sweep = t.sweep := by unfold Task.setP; split <;> rfl
@[simp] theorem Task.setP_asid (t : Task) (r : PReg) (x : Bool) : (t.setP r x).asid = t.asid := by unfold Task.setP; split <;> rfl
@[simp] theorem Task.setP_iter (t : Task) (r : PReg) (x : Bool) : (t.setP r x).iter = t.iter := by unfold Task.setP; split <;> rfl
@[simp] theorem Task.setP_seed (t : Task) (r : PReg) (x : Bool) : (t.setP r x).seed = t.seed := by unfold Task.setP; split <;> rfl
@[simp] theorem Task.setP_ceil (t : Task) (r : PReg) (x : Bool) : (t.setP r x).ceil = t.ceil := by unfold Task.setP; split <;> rfl
@[simp] theorem Task.setP_pc (t : Task) (r : PReg) (x : Bool) : (t.setP r x).pc = t.pc := by unfold Task.setP; split <;> rfl
@[simp] theorem Task.setP_s (t : Task) (r : PReg) (x : Bool) : (t.setP r x).s = t.s := by unfold Task.setP; split <;> rfl
@[simp] theorem Task.setP_a (t : Task) (r : PReg) (x : Bool) : (t.setP r x).a = t.a := by unfold Task.setP; split <;> rfl
@[simp] theorem Task.setP_v (t : Task) (r : PReg) (x : Bool) : (t.setP r x).v = t.v := by unfold Task.setP; split <;> rfl
@[simp] theorem Task.setP_m (t : Task) (r : PReg) (x : Bool) : (t.setP r x).m = t.m := by unfold Task.setP; split <;> rfl
@[simp] theorem Task.setP_width (t : Task) (r : PReg) (x : Bool) : (t.setP r x).width = t.width := by unfold Task.setP; split <;> rfl
@[simp] theorem Task.setP_loops (t : Task) (r : PReg) (x : Bool) : (t.setP r x).loops = t.loops := by unfold Task.setP; split <;> rfl
@[simp] theorem Task.setP_depth (t : Task) (r : PReg) (x : Bool) : (t.setP r x).depth = t.depth := by unfold Task.setP; split <;> rfl
@[simp] theorem Task.setP_esw (t : Task) (r : PReg) (x : Bool) : (t.setP r x).esw = t.esw := by unfold Task.setP; split <;> rfl
@[simp] theorem Task.setP_epc (t : Task) (r : PReg) (x : Bool) : (t.setP r x).epc = t.epc := by unfold Task.setP; split <;> rfl
@[simp] theorem Task.setP_ecause (t : Task) (r : PReg) (x : Bool) : (t.setP r x).ecause = t.ecause := by unfold Task.setP; split <;> rfl
@[simp] theorem Task.setP_eaddr (t : Task) (r : PReg) (x : Bool) : (t.setP r x).eaddr = t.eaddr := by unfold Task.setP; split <;> rfl
@[simp] theorem Task.setP_ecp (t : Task) (r : PReg) (x : Bool) : (t.setP r x).ecp = t.ecp := by unfold Task.setP; split <;> rfl
@[simp] theorem Task.setP_esp (t : Task) (r : PReg) (x : Bool) : (t.setP r x).esp = t.esp := by unfold Task.setP; split <;> rfl
@[simp] theorem Task.setP_hbase (t : Task) (r : PReg) (x : Bool) : (t.setP r x).hbase = t.hbase := by unfold Task.setP; split <;> rfl
@[simp] theorem Task.setP_waitlimit (t : Task) (r : PReg) (x : Bool) : (t.setP r x).waitlimit = t.waitlimit := by unfold Task.setP; split <;> rfl
@[simp] theorem Task.setP_waitAcc (t : Task) (r : PReg) (x : Bool) : (t.setP r x).waitAcc = t.waitAcc := by unfold Task.setP; split <;> rfl
@[simp] theorem Task.setP_waitFrom (t : Task) (r : PReg) (x : Bool) : (t.setP r x).waitFrom = t.waitFrom := by unfold Task.setP; split <;> rfl
@[simp] theorem Task.setP_inh (t : Task) (r : PReg) (x : Bool) : (t.setP r x).inh = t.inh := by unfold Task.setP; split <;> rfl
@[simp] theorem Task.setP_priv (t : Task) (r : PReg) (x : Bool) : (t.setP r x).priv = t.priv := by unfold Task.setP; split <;> rfl
@[simp] theorem Task.setP_cls (t : Task) (r : PReg) (x : Bool) : (t.setP r x).cls = t.cls := by unfold Task.setP; split <;> rfl
@[simp] theorem Task.setP_inherited (t : Task) (r : PReg) (x : Bool) : (t.setP r x).inherited = t.inherited := by unfold Task.setP; split <;> rfl
@[simp] theorem Task.setP_regions (t : Task) (r : PReg) (x : Bool) : (t.setP r x).regions = t.regions := by unfold Task.setP; split <;> rfl
@[simp] theorem Task.setP_rows (t : Task) (r : PReg) (x : Bool) : (t.setP r x).rows = t.rows := by unfold Task.setP; split <;> rfl
@[simp] theorem Task.setP_rowq (t : Task) (r : PReg) (x : Bool) : (t.setP r x).rowq = t.rowq := by unfold Task.setP; split <;> rfl
@[simp] theorem Task.setP_acts (t : Task) (r : PReg) (x : Bool) : (t.setP r x).acts = t.acts := by unfold Task.setP; split <;> rfl
@[simp] theorem Task.setP_isn (t : Task) (r : PReg) (x : Bool) : (t.setP r x).isn = t.isn := by unfold Task.setP; split <;> rfl
@[simp] theorem Task.setP_wait (t : Task) (r : PReg) (x : Bool) : (t.setP r x).wait = t.wait := by unfold Task.setP; split <;> rfl
@[simp] theorem Task.setP_took (t : Task) (r : PReg) (x : Bool) : (t.setP r x).took = t.took := by unfold Task.setP; split <;> rfl
@[simp] theorem Task.setP_pastSync (t : Task) (r : PReg) (x : Bool) : (t.setP r x).pastSync = t.pastSync := by unfold Task.setP; split <;> rfl
@[simp] theorem Task.setP_pendVx (t : Task) (r : PReg) (x : Bool) : (t.setP r x).pendVx = t.pendVx := by unfold Task.setP; split <;> rfl
@[simp] theorem Task.setP_pendTx (t : Task) (r : PReg) (x : Bool) : (t.setP r x).pendTx = t.pendTx := by unfold Task.setP; split <;> rfl
@[simp] theorem Task.setP_pendMx (t : Task) (r : PReg) (x : Bool) : (t.setP r x).pendMx = t.pendMx := by unfold Task.setP; split <;> rfl
@[simp] theorem Task.setP_pendCx (t : Task) (r : PReg) (x : Bool) : (t.setP r x).pendCx = t.pendCx := by unfold Task.setP; split <;> rfl
@[simp] theorem Task.setP_pendFx (t : Task) (r : PReg) (x : Bool) : (t.setP r x).pendFx = t.pendFx := by unfold Task.setP; split <;> rfl
@[simp] theorem Task.setP_starve (t : Task) (r : PReg) (x : Bool) : (t.setP r x).starve = t.starve := by unfold Task.setP; split <;> rfl
@[simp] theorem Task.setP_yielded (t : Task) (r : PReg) (x : Bool) : (t.setP r x).yielded = t.yielded := by unfold Task.setP; split <;> rfl
@[simp] theorem Task.setP_resvd (t : Task) (r : PReg) (x : Bool) : (t.setP r x).resvd = t.resvd := by unfold Task.setP; split <;> rfl
@[simp] theorem Task.setP_frozenEng (t : Task) (r : PReg) (x : Bool) : (t.setP r x).frozenEng = t.frozenEng := by unfold Task.setP; split <;> rfl
@[simp] theorem Task.setA_st (t : Task) (r : AReg) (x : Addr) : (t.setA r x).st = t.st := rfl
@[simp] theorem Task.setA_sweep (t : Task) (r : AReg) (x : Addr) : (t.setA r x).sweep = t.sweep := rfl
@[simp] theorem Task.setA_asid (t : Task) (r : AReg) (x : Addr) : (t.setA r x).asid = t.asid := rfl
@[simp] theorem Task.setA_iter (t : Task) (r : AReg) (x : Addr) : (t.setA r x).iter = t.iter := rfl
@[simp] theorem Task.setA_seed (t : Task) (r : AReg) (x : Addr) : (t.setA r x).seed = t.seed := rfl
@[simp] theorem Task.setA_ceil (t : Task) (r : AReg) (x : Addr) : (t.setA r x).ceil = t.ceil := rfl
@[simp] theorem Task.setA_pc (t : Task) (r : AReg) (x : Addr) : (t.setA r x).pc = t.pc := rfl
@[simp] theorem Task.setA_s (t : Task) (r : AReg) (x : Addr) : (t.setA r x).s = t.s := rfl
@[simp] theorem Task.setA_p (t : Task) (r : AReg) (x : Addr) : (t.setA r x).p = t.p := rfl
@[simp] theorem Task.setA_v (t : Task) (r : AReg) (x : Addr) : (t.setA r x).v = t.v := rfl
@[simp] theorem Task.setA_m (t : Task) (r : AReg) (x : Addr) : (t.setA r x).m = t.m := rfl
@[simp] theorem Task.setA_width (t : Task) (r : AReg) (x : Addr) : (t.setA r x).width = t.width := rfl
@[simp] theorem Task.setA_loops (t : Task) (r : AReg) (x : Addr) : (t.setA r x).loops = t.loops := rfl
@[simp] theorem Task.setA_depth (t : Task) (r : AReg) (x : Addr) : (t.setA r x).depth = t.depth := rfl
@[simp] theorem Task.setA_esw (t : Task) (r : AReg) (x : Addr) : (t.setA r x).esw = t.esw := rfl
@[simp] theorem Task.setA_epc (t : Task) (r : AReg) (x : Addr) : (t.setA r x).epc = t.epc := rfl
@[simp] theorem Task.setA_ecause (t : Task) (r : AReg) (x : Addr) : (t.setA r x).ecause = t.ecause := rfl
@[simp] theorem Task.setA_eaddr (t : Task) (r : AReg) (x : Addr) : (t.setA r x).eaddr = t.eaddr := rfl
@[simp] theorem Task.setA_ecp (t : Task) (r : AReg) (x : Addr) : (t.setA r x).ecp = t.ecp := rfl
@[simp] theorem Task.setA_esp (t : Task) (r : AReg) (x : Addr) : (t.setA r x).esp = t.esp := rfl
@[simp] theorem Task.setA_hbase (t : Task) (r : AReg) (x : Addr) : (t.setA r x).hbase = t.hbase := rfl
@[simp] theorem Task.setA_waitlimit (t : Task) (r : AReg) (x : Addr) : (t.setA r x).waitlimit = t.waitlimit := rfl
@[simp] theorem Task.setA_waitAcc (t : Task) (r : AReg) (x : Addr) : (t.setA r x).waitAcc = t.waitAcc := rfl
@[simp] theorem Task.setA_waitFrom (t : Task) (r : AReg) (x : Addr) : (t.setA r x).waitFrom = t.waitFrom := rfl
@[simp] theorem Task.setA_inh (t : Task) (r : AReg) (x : Addr) : (t.setA r x).inh = t.inh := rfl
@[simp] theorem Task.setA_priv (t : Task) (r : AReg) (x : Addr) : (t.setA r x).priv = t.priv := rfl
@[simp] theorem Task.setA_cls (t : Task) (r : AReg) (x : Addr) : (t.setA r x).cls = t.cls := rfl
@[simp] theorem Task.setA_inherited (t : Task) (r : AReg) (x : Addr) : (t.setA r x).inherited = t.inherited := rfl
@[simp] theorem Task.setA_regions (t : Task) (r : AReg) (x : Addr) : (t.setA r x).regions = t.regions := rfl
@[simp] theorem Task.setA_rows (t : Task) (r : AReg) (x : Addr) : (t.setA r x).rows = t.rows := rfl
@[simp] theorem Task.setA_rowq (t : Task) (r : AReg) (x : Addr) : (t.setA r x).rowq = t.rowq := rfl
@[simp] theorem Task.setA_acts (t : Task) (r : AReg) (x : Addr) : (t.setA r x).acts = t.acts := rfl
@[simp] theorem Task.setA_isn (t : Task) (r : AReg) (x : Addr) : (t.setA r x).isn = t.isn := rfl
@[simp] theorem Task.setA_wait (t : Task) (r : AReg) (x : Addr) : (t.setA r x).wait = t.wait := rfl
@[simp] theorem Task.setA_took (t : Task) (r : AReg) (x : Addr) : (t.setA r x).took = t.took := rfl
@[simp] theorem Task.setA_pastSync (t : Task) (r : AReg) (x : Addr) : (t.setA r x).pastSync = t.pastSync := rfl
@[simp] theorem Task.setA_pendVx (t : Task) (r : AReg) (x : Addr) : (t.setA r x).pendVx = t.pendVx := rfl
@[simp] theorem Task.setA_pendTx (t : Task) (r : AReg) (x : Addr) : (t.setA r x).pendTx = t.pendTx := rfl
@[simp] theorem Task.setA_pendMx (t : Task) (r : AReg) (x : Addr) : (t.setA r x).pendMx = t.pendMx := rfl
@[simp] theorem Task.setA_pendCx (t : Task) (r : AReg) (x : Addr) : (t.setA r x).pendCx = t.pendCx := rfl
@[simp] theorem Task.setA_pendFx (t : Task) (r : AReg) (x : Addr) : (t.setA r x).pendFx = t.pendFx := rfl
@[simp] theorem Task.setA_starve (t : Task) (r : AReg) (x : Addr) : (t.setA r x).starve = t.starve := rfl
@[simp] theorem Task.setA_yielded (t : Task) (r : AReg) (x : Addr) : (t.setA r x).yielded = t.yielded := rfl
@[simp] theorem Task.setA_resvd (t : Task) (r : AReg) (x : Addr) : (t.setA r x).resvd = t.resvd := rfl
@[simp] theorem Task.setA_frozenEng (t : Task) (r : AReg) (x : Addr) : (t.setA r x).frozenEng = t.frozenEng := rfl
@[simp] theorem Task.setV_st (t : Task) (r : VReg) (x : VWord) : (t.setV r x).st = t.st := rfl
@[simp] theorem Task.setV_sweep (t : Task) (r : VReg) (x : VWord) : (t.setV r x).sweep = t.sweep := rfl
@[simp] theorem Task.setV_asid (t : Task) (r : VReg) (x : VWord) : (t.setV r x).asid = t.asid := rfl
@[simp] theorem Task.setV_iter (t : Task) (r : VReg) (x : VWord) : (t.setV r x).iter = t.iter := rfl
@[simp] theorem Task.setV_seed (t : Task) (r : VReg) (x : VWord) : (t.setV r x).seed = t.seed := rfl
@[simp] theorem Task.setV_ceil (t : Task) (r : VReg) (x : VWord) : (t.setV r x).ceil = t.ceil := rfl
@[simp] theorem Task.setV_pc (t : Task) (r : VReg) (x : VWord) : (t.setV r x).pc = t.pc := rfl
@[simp] theorem Task.setV_s (t : Task) (r : VReg) (x : VWord) : (t.setV r x).s = t.s := rfl
@[simp] theorem Task.setV_a (t : Task) (r : VReg) (x : VWord) : (t.setV r x).a = t.a := rfl
@[simp] theorem Task.setV_p (t : Task) (r : VReg) (x : VWord) : (t.setV r x).p = t.p := rfl
@[simp] theorem Task.setV_m (t : Task) (r : VReg) (x : VWord) : (t.setV r x).m = t.m := rfl
@[simp] theorem Task.setV_width (t : Task) (r : VReg) (x : VWord) : (t.setV r x).width = t.width := rfl
@[simp] theorem Task.setV_loops (t : Task) (r : VReg) (x : VWord) : (t.setV r x).loops = t.loops := rfl
@[simp] theorem Task.setV_depth (t : Task) (r : VReg) (x : VWord) : (t.setV r x).depth = t.depth := rfl
@[simp] theorem Task.setV_esw (t : Task) (r : VReg) (x : VWord) : (t.setV r x).esw = t.esw := rfl
@[simp] theorem Task.setV_epc (t : Task) (r : VReg) (x : VWord) : (t.setV r x).epc = t.epc := rfl
@[simp] theorem Task.setV_ecause (t : Task) (r : VReg) (x : VWord) : (t.setV r x).ecause = t.ecause := rfl
@[simp] theorem Task.setV_eaddr (t : Task) (r : VReg) (x : VWord) : (t.setV r x).eaddr = t.eaddr := rfl
@[simp] theorem Task.setV_ecp (t : Task) (r : VReg) (x : VWord) : (t.setV r x).ecp = t.ecp := rfl
@[simp] theorem Task.setV_esp (t : Task) (r : VReg) (x : VWord) : (t.setV r x).esp = t.esp := rfl
@[simp] theorem Task.setV_hbase (t : Task) (r : VReg) (x : VWord) : (t.setV r x).hbase = t.hbase := rfl
@[simp] theorem Task.setV_waitlimit (t : Task) (r : VReg) (x : VWord) : (t.setV r x).waitlimit = t.waitlimit := rfl
@[simp] theorem Task.setV_waitAcc (t : Task) (r : VReg) (x : VWord) : (t.setV r x).waitAcc = t.waitAcc := rfl
@[simp] theorem Task.setV_waitFrom (t : Task) (r : VReg) (x : VWord) : (t.setV r x).waitFrom = t.waitFrom := rfl
@[simp] theorem Task.setV_inh (t : Task) (r : VReg) (x : VWord) : (t.setV r x).inh = t.inh := rfl
@[simp] theorem Task.setV_priv (t : Task) (r : VReg) (x : VWord) : (t.setV r x).priv = t.priv := rfl
@[simp] theorem Task.setV_cls (t : Task) (r : VReg) (x : VWord) : (t.setV r x).cls = t.cls := rfl
@[simp] theorem Task.setV_inherited (t : Task) (r : VReg) (x : VWord) : (t.setV r x).inherited = t.inherited := rfl
@[simp] theorem Task.setV_regions (t : Task) (r : VReg) (x : VWord) : (t.setV r x).regions = t.regions := rfl
@[simp] theorem Task.setV_rows (t : Task) (r : VReg) (x : VWord) : (t.setV r x).rows = t.rows := rfl
@[simp] theorem Task.setV_rowq (t : Task) (r : VReg) (x : VWord) : (t.setV r x).rowq = t.rowq := rfl
@[simp] theorem Task.setV_acts (t : Task) (r : VReg) (x : VWord) : (t.setV r x).acts = t.acts := rfl
@[simp] theorem Task.setV_isn (t : Task) (r : VReg) (x : VWord) : (t.setV r x).isn = t.isn := rfl
@[simp] theorem Task.setV_wait (t : Task) (r : VReg) (x : VWord) : (t.setV r x).wait = t.wait := rfl
@[simp] theorem Task.setV_took (t : Task) (r : VReg) (x : VWord) : (t.setV r x).took = t.took := rfl
@[simp] theorem Task.setV_pastSync (t : Task) (r : VReg) (x : VWord) : (t.setV r x).pastSync = t.pastSync := rfl
@[simp] theorem Task.setV_pendVx (t : Task) (r : VReg) (x : VWord) : (t.setV r x).pendVx = t.pendVx := rfl
@[simp] theorem Task.setV_pendTx (t : Task) (r : VReg) (x : VWord) : (t.setV r x).pendTx = t.pendTx := rfl
@[simp] theorem Task.setV_pendMx (t : Task) (r : VReg) (x : VWord) : (t.setV r x).pendMx = t.pendMx := rfl
@[simp] theorem Task.setV_pendCx (t : Task) (r : VReg) (x : VWord) : (t.setV r x).pendCx = t.pendCx := rfl
@[simp] theorem Task.setV_pendFx (t : Task) (r : VReg) (x : VWord) : (t.setV r x).pendFx = t.pendFx := rfl
@[simp] theorem Task.setV_starve (t : Task) (r : VReg) (x : VWord) : (t.setV r x).starve = t.starve := rfl
@[simp] theorem Task.setV_yielded (t : Task) (r : VReg) (x : VWord) : (t.setV r x).yielded = t.yielded := rfl
@[simp] theorem Task.setV_resvd (t : Task) (r : VReg) (x : VWord) : (t.setV r x).resvd = t.resvd := rfl
@[simp] theorem Task.setV_frozenEng (t : Task) (r : VReg) (x : VWord) : (t.setV r x).frozenEng = t.frozenEng := rfl
@[simp] theorem Task.setM_st (t : Task) (r : MReg) (x : Mask) : (t.setM r x).st = t.st := rfl
@[simp] theorem Task.setM_sweep (t : Task) (r : MReg) (x : Mask) : (t.setM r x).sweep = t.sweep := rfl
@[simp] theorem Task.setM_asid (t : Task) (r : MReg) (x : Mask) : (t.setM r x).asid = t.asid := rfl
@[simp] theorem Task.setM_iter (t : Task) (r : MReg) (x : Mask) : (t.setM r x).iter = t.iter := rfl
@[simp] theorem Task.setM_seed (t : Task) (r : MReg) (x : Mask) : (t.setM r x).seed = t.seed := rfl
@[simp] theorem Task.setM_ceil (t : Task) (r : MReg) (x : Mask) : (t.setM r x).ceil = t.ceil := rfl
@[simp] theorem Task.setM_pc (t : Task) (r : MReg) (x : Mask) : (t.setM r x).pc = t.pc := rfl
@[simp] theorem Task.setM_s (t : Task) (r : MReg) (x : Mask) : (t.setM r x).s = t.s := rfl
@[simp] theorem Task.setM_a (t : Task) (r : MReg) (x : Mask) : (t.setM r x).a = t.a := rfl
@[simp] theorem Task.setM_p (t : Task) (r : MReg) (x : Mask) : (t.setM r x).p = t.p := rfl
@[simp] theorem Task.setM_v (t : Task) (r : MReg) (x : Mask) : (t.setM r x).v = t.v := rfl
@[simp] theorem Task.setM_width (t : Task) (r : MReg) (x : Mask) : (t.setM r x).width = t.width := rfl
@[simp] theorem Task.setM_loops (t : Task) (r : MReg) (x : Mask) : (t.setM r x).loops = t.loops := rfl
@[simp] theorem Task.setM_depth (t : Task) (r : MReg) (x : Mask) : (t.setM r x).depth = t.depth := rfl
@[simp] theorem Task.setM_esw (t : Task) (r : MReg) (x : Mask) : (t.setM r x).esw = t.esw := rfl
@[simp] theorem Task.setM_epc (t : Task) (r : MReg) (x : Mask) : (t.setM r x).epc = t.epc := rfl
@[simp] theorem Task.setM_ecause (t : Task) (r : MReg) (x : Mask) : (t.setM r x).ecause = t.ecause := rfl
@[simp] theorem Task.setM_eaddr (t : Task) (r : MReg) (x : Mask) : (t.setM r x).eaddr = t.eaddr := rfl
@[simp] theorem Task.setM_ecp (t : Task) (r : MReg) (x : Mask) : (t.setM r x).ecp = t.ecp := rfl
@[simp] theorem Task.setM_esp (t : Task) (r : MReg) (x : Mask) : (t.setM r x).esp = t.esp := rfl
@[simp] theorem Task.setM_hbase (t : Task) (r : MReg) (x : Mask) : (t.setM r x).hbase = t.hbase := rfl
@[simp] theorem Task.setM_waitlimit (t : Task) (r : MReg) (x : Mask) : (t.setM r x).waitlimit = t.waitlimit := rfl
@[simp] theorem Task.setM_waitAcc (t : Task) (r : MReg) (x : Mask) : (t.setM r x).waitAcc = t.waitAcc := rfl
@[simp] theorem Task.setM_waitFrom (t : Task) (r : MReg) (x : Mask) : (t.setM r x).waitFrom = t.waitFrom := rfl
@[simp] theorem Task.setM_inh (t : Task) (r : MReg) (x : Mask) : (t.setM r x).inh = t.inh := rfl
@[simp] theorem Task.setM_priv (t : Task) (r : MReg) (x : Mask) : (t.setM r x).priv = t.priv := rfl
@[simp] theorem Task.setM_cls (t : Task) (r : MReg) (x : Mask) : (t.setM r x).cls = t.cls := rfl
@[simp] theorem Task.setM_inherited (t : Task) (r : MReg) (x : Mask) : (t.setM r x).inherited = t.inherited := rfl
@[simp] theorem Task.setM_regions (t : Task) (r : MReg) (x : Mask) : (t.setM r x).regions = t.regions := rfl
@[simp] theorem Task.setM_rows (t : Task) (r : MReg) (x : Mask) : (t.setM r x).rows = t.rows := rfl
@[simp] theorem Task.setM_rowq (t : Task) (r : MReg) (x : Mask) : (t.setM r x).rowq = t.rowq := rfl
@[simp] theorem Task.setM_acts (t : Task) (r : MReg) (x : Mask) : (t.setM r x).acts = t.acts := rfl
@[simp] theorem Task.setM_isn (t : Task) (r : MReg) (x : Mask) : (t.setM r x).isn = t.isn := rfl
@[simp] theorem Task.setM_wait (t : Task) (r : MReg) (x : Mask) : (t.setM r x).wait = t.wait := rfl
@[simp] theorem Task.setM_took (t : Task) (r : MReg) (x : Mask) : (t.setM r x).took = t.took := rfl
@[simp] theorem Task.setM_pastSync (t : Task) (r : MReg) (x : Mask) : (t.setM r x).pastSync = t.pastSync := rfl
@[simp] theorem Task.setM_pendVx (t : Task) (r : MReg) (x : Mask) : (t.setM r x).pendVx = t.pendVx := rfl
@[simp] theorem Task.setM_pendTx (t : Task) (r : MReg) (x : Mask) : (t.setM r x).pendTx = t.pendTx := rfl
@[simp] theorem Task.setM_pendMx (t : Task) (r : MReg) (x : Mask) : (t.setM r x).pendMx = t.pendMx := rfl
@[simp] theorem Task.setM_pendCx (t : Task) (r : MReg) (x : Mask) : (t.setM r x).pendCx = t.pendCx := rfl
@[simp] theorem Task.setM_pendFx (t : Task) (r : MReg) (x : Mask) : (t.setM r x).pendFx = t.pendFx := rfl
@[simp] theorem Task.setM_starve (t : Task) (r : MReg) (x : Mask) : (t.setM r x).starve = t.starve := rfl
@[simp] theorem Task.setM_yielded (t : Task) (r : MReg) (x : Mask) : (t.setM r x).yielded = t.yielded := rfl
@[simp] theorem Task.setM_resvd (t : Task) (r : MReg) (x : Mask) : (t.setM r x).resvd = t.resvd := rfl
@[simp] theorem Task.setM_frozenEng (t : Task) (r : MReg) (x : Mask) : (t.setM r x).frozenEng = t.frozenEng := rfl

/-- s0 reads zero, whatever is written to it. -/
@[simp] theorem Task.sreg_setS (t : Task) (d r : SReg) (x : Word) :
    (t.setS d x).sreg r = if r = d ∧ d.val ≠ 0 then x else t.sreg r := by
  unfold Task.setS Task.sreg
  by_cases hd : d.val = 0
  · simp [hd]
  · by_cases h : r = d
    · subst h; simp [hd]
    · have h2 : d.val ≠ r.val := fun e => h (Fin.ext e.symm)
      simp [hd, h, Vector.getElem_set_ne, h2]

/-- p7 reads true, whatever is written to it. -/
@[simp] theorem Task.preg_setP (t : Task) (d r : PReg) (x : Bool) :
    (t.setP d x).preg r = if r = d ∧ d.val ≠ 7 then x else t.preg r := by
  unfold Task.setP Task.preg
  by_cases hd : d.val = 7
  · simp [hd]
  · by_cases h : r = d
    · subst h; simp [hd]
    · have h2 : d.val ≠ r.val := fun e => h (Fin.ext e.symm)
      simp [hd, h, Vector.getElem_set_ne, h2]

@[simp] theorem Task.areg_setA (t : Task) (d r : AReg) (x : Addr) : (t.setA d x).areg r = if r = d then x else t.areg r := by
  unfold Task.setA Task.areg
  by_cases h : r = d
  · subst h; simp
  · have h2 : d.val ≠ r.val := fun e => h (Fin.ext e.symm)
    simp [h, Vector.getElem_set_ne, h2]

@[simp] theorem Task.vreg_setV (t : Task) (d r : VReg) (x : VWord) : (t.setV d x).vreg r = if r = d then x else t.vreg r := by
  unfold Task.setV Task.vreg
  by_cases h : r = d
  · subst h; simp
  · have h2 : d.val ≠ r.val := fun e => h (Fin.ext e.symm)
    simp [h, Vector.getElem_set_ne, h2]

@[simp] theorem Task.mreg_setM (t : Task) (d r : MReg) (x : Mask) : (t.setM d x).mreg r = if r = d then x else t.mreg r := by
  unfold Task.setM Task.mreg
  by_cases h : r = d
  · subst h; simp
  · have h2 : d.val ≠ r.val := fun e => h (Fin.ext e.symm)
    simp [h, Vector.getElem_set_ne, h2]

/-! ## Cores, tasks and semaphores by number -/

@[simp] theorem State.core_setCore_same (s : State) (c : Nat) (k : Core) : (s.setCore c k).core c = k := by
  simp [State.core, State.setCore]
@[simp] theorem State.core_setCore_ne (s : State) (c d : Nat) (k : Core) (h : d ≠ c) : (s.setCore c k).core d = s.core d := by
  simp [State.core, State.setCore, h]
@[simp] theorem State.core_modCore_same (s : State) (c : Nat) (f : Core → Core) : (s.modCore c f).core c = f (s.core c) := by
  simp [State.modCore]
@[simp] theorem State.core_modCore_ne (s : State) (c d : Nat) (f : Core → Core) (h : d ≠ c) : (s.modCore c f).core d = s.core d := by
  simp [State.modCore, h]
@[simp] theorem State.task_setTask_same (s : State) (c n : Nat) (t : Task) : (s.setTask c n t).task c n = t := by
  simp [State.task, State.setTask]
@[simp] theorem State.task_setTask_slot (s : State) (c n m : Nat) (t : Task) (h : m ≠ n) :
    (s.setTask c n t).task c m = s.task c m := by simp [State.task, State.setTask, h]
@[simp] theorem State.core_setTask_ne (s : State) (c n d : Nat) (t : Task) (h : d ≠ c) : (s.setTask c n t).core d = s.core d := by
  simp [State.setTask, h]
@[simp] theorem State.task_modTask_same (s : State) (c n : Nat) (f : Task → Task) :
    (s.modTask c n f).task c n = f (s.task c n) := by simp [State.modTask]
@[simp] theorem State.task_modTask_slot (s : State) (c n m : Nat) (f : Task → Task) (h : m ≠ n) :
    (s.modTask c n f).task c m = s.task c m := by simp [State.modTask, h]
@[simp] theorem State.core_modTask_ne (s : State) (c n d : Nat) (f : Task → Task) (h : d ≠ c) :
    (s.modTask c n f).core d = s.core d := by simp [State.modTask, h]
theorem State.core_modTask (s : State) (c n : Nat) (f : Task → Task) :
    (s.modTask c n f).core c = { s.core c with slots := ((s.modTask c n f).core c).slots } := by
  simp [State.modTask, State.setTask]
@[simp] theorem State.sem_modTask (s : State) (c n d q : Nat) (f : Task → Task) : (s.modTask c n f).sem d q = s.sem d q := by
  by_cases h : d = c
  · subst h; simp [State.sem, State.modTask, State.setTask]
  · simp [State.sem, h]
@[simp] theorem State.task_setSem (s : State) (c q d n : Nat) (x : Sem) : (s.setSem c q x).task d n = s.task d n := by
  by_cases h : d = c
  · subst h; simp [State.task, State.setSem]
  · simp [State.task, State.setSem, h]
@[simp] theorem State.core_setSem_ne (s : State) (c q d : Nat) (x : Sem) (h : d ≠ c) : (s.setSem c q x).core d = s.core d := by
  simp [State.setSem, h]
/-- A subtraction of a wait is the only change that it makes to the semaphores. -/
theorem State.sem_takeSem (s : State) (c q r k : Nat) : (s.takeSem c q k).sem c r =
    if r = q then { s.sem c q with
      count := (s.sem c q).count - BitVec.ofNat 16 k, dev := (s.sem c q).dev && ((s.sem c q).count - BitVec.ofNat 16 k) != 0 }
    else s.sem c r := by
  by_cases h : r = q
  · subst h; simp [State.takeSem, State.sem]
  · simp [State.takeSem, State.sem, h]

@[simp] theorem State.task_takeSem (s : State) (c q k d n : Nat) : (s.takeSem c q k).task d n = s.task d n := by
  unfold State.task State.takeSem
  by_cases h : d = c
  · subst h; rw [State.core_modCore_same]
  · rw [State.core_modCore_ne _ _ _ _ h]

theorem State.sem_setSem (s : State) (c q r : Nat) (x : Sem) : (s.setSem c q x).sem c r = if r = q then x else s.sem c r := by
  by_cases h : r = q
  · subst h; simp [State.sem, State.setSem]
  · simp [State.sem, State.setSem, h]

end Sys2Proof.Machine
end

