-- ==== Sys2Proof/Laws/Issue.lean ====
section
/-! SUPPORT. What the issue of an instruction leaves: one lemma per shared operation. -/

namespace Sys2Proof.Machine

/-! ## Continue and the issue -/

theorem contAt_fields (d : Nat) (t : Task) (pc : Addr) :
    contAt d t pc = { t with pc := (contAt d t pc).pc, depth := (contAt d t pc).depth, loops := (contAt d t pc).loops } := by
  induction d generalizing t with
  | zero => rfl
  | succ d ih =>
    simp only [contAt]
    split
    · split
      · rfl
      · rw [ih]
    · rfl

/-- Continue changes the PC and the loop levels only. -/
theorem Task.cont_fields (t : Task) (pc : Addr) :
    t.cont pc = { t with pc := (t.cont pc).pc, depth := (t.cont pc).depth, loops := (t.cont pc).loops } := by
  unfold Task.cont
  split
  · rfl
  · exact contAt_fields _ _ _

@[simp] theorem Task.cont_st (t : Task) (pc : Addr) : (t.cont pc).st = t.st := by rw [Task.cont_fields]
@[simp] theorem Task.cont_sweep (t : Task) (pc : Addr) : (t.cont pc).sweep = t.sweep := by rw [Task.cont_fields]
@[simp] theorem Task.cont_asid (t : Task) (pc : Addr) : (t.cont pc).asid = t.asid := by rw [Task.cont_fields]
@[simp] theorem Task.cont_iter (t : Task) (pc : Addr) : (t.cont pc).iter = t.iter := by rw [Task.cont_fields]
@[simp] theorem Task.cont_seed (t : Task) (pc : Addr) : (t.cont pc).seed = t.seed := by rw [Task.cont_fields]
@[simp] theorem Task.cont_ceil (t : Task) (pc : Addr) : (t.cont pc).ceil = t.ceil := by rw [Task.cont_fields]
@[simp] theorem Task.cont_s (t : Task) (pc : Addr) : (t.cont pc).s = t.s := by rw [Task.cont_fields]
@[simp] theorem Task.cont_a (t : Task) (pc : Addr) : (t.cont pc).a = t.a := by rw [Task.cont_fields]
@[simp] theorem Task.cont_p (t : Task) (pc : Addr) : (t.cont pc).p = t.p := by rw [Task.cont_fields]
@[simp] theorem Task.cont_v (t : Task) (pc : Addr) : (t.cont pc).v = t.v := by rw [Task.cont_fields]
@[simp] theorem Task.cont_m (t : Task) (pc : Addr) : (t.cont pc).m = t.m := by rw [Task.cont_fields]
@[simp] theorem Task.cont_width (t : Task) (pc : Addr) : (t.cont pc).width = t.width := by rw [Task.cont_fields]
@[simp] theorem Task.cont_esw (t : Task) (pc : Addr) : (t.cont pc).esw = t.esw := by rw [Task.cont_fields]
@[simp] theorem Task.cont_epc (t : Task) (pc : Addr) : (t.cont pc).epc = t.epc := by rw [Task.cont_fields]
@[simp] theorem Task.cont_ecause (t : Task) (pc : Addr) : (t.cont pc).ecause = t.ecause := by rw [Task.cont_fields]
@[simp] theorem Task.cont_eaddr (t : Task) (pc : Addr) : (t.cont pc).eaddr = t.eaddr := by rw [Task.cont_fields]
@[simp] theorem Task.cont_ecp (t : Task) (pc : Addr) : (t.cont pc).ecp = t.ecp := by rw [Task.cont_fields]
@[simp] theorem Task.cont_esp (t : Task) (pc : Addr) : (t.cont pc).esp = t.esp := by rw [Task.cont_fields]
@[simp] theorem Task.cont_hbase (t : Task) (pc : Addr) : (t.cont pc).hbase = t.hbase := by rw [Task.cont_fields]
@[simp] theorem Task.cont_waitlimit (t : Task) (pc : Addr) : (t.cont pc).waitlimit = t.waitlimit := by rw [Task.cont_fields]
@[simp] theorem Task.cont_waitAcc (t : Task) (pc : Addr) : (t.cont pc).waitAcc = t.waitAcc := by rw [Task.cont_fields]
@[simp] theorem Task.cont_waitFrom (t : Task) (pc : Addr) : (t.cont pc).waitFrom = t.waitFrom := by rw [Task.cont_fields]
@[simp] theorem Task.cont_inh (t : Task) (pc : Addr) : (t.cont pc).inh = t.inh := by rw [Task.cont_fields]
@[simp] theorem Task.cont_priv (t : Task) (pc : Addr) : (t.cont pc).priv = t.priv := by rw [Task.cont_fields]
@[simp] theorem Task.cont_cls (t : Task) (pc : Addr) : (t.cont pc).cls = t.cls := by rw [Task.cont_fields]
@[simp] theorem Task.cont_inherited (t : Task) (pc : Addr) : (t.cont pc).inherited = t.inherited := by rw [Task.cont_fields]
@[simp] theorem Task.cont_regions (t : Task) (pc : Addr) : (t.cont pc).regions = t.regions := by rw [Task.cont_fields]
@[simp] theorem Task.cont_rows (t : Task) (pc : Addr) : (t.cont pc).rows = t.rows := by rw [Task.cont_fields]
@[simp] theorem Task.cont_rowq (t : Task) (pc : Addr) : (t.cont pc).rowq = t.rowq := by rw [Task.cont_fields]
@[simp] theorem Task.cont_acts (t : Task) (pc : Addr) : (t.cont pc).acts = t.acts := by rw [Task.cont_fields]
@[simp] theorem Task.cont_isn (t : Task) (pc : Addr) : (t.cont pc).isn = t.isn := by rw [Task.cont_fields]
@[simp] theorem Task.cont_wait (t : Task) (pc : Addr) : (t.cont pc).wait = t.wait := by rw [Task.cont_fields]
@[simp] theorem Task.cont_took (t : Task) (pc : Addr) : (t.cont pc).took = t.took := by rw [Task.cont_fields]
@[simp] theorem Task.cont_pastSync (t : Task) (pc : Addr) : (t.cont pc).pastSync = t.pastSync := by rw [Task.cont_fields]
@[simp] theorem Task.cont_pendVx (t : Task) (pc : Addr) : (t.cont pc).pendVx = t.pendVx := by rw [Task.cont_fields]
@[simp] theorem Task.cont_pendTx (t : Task) (pc : Addr) : (t.cont pc).pendTx = t.pendTx := by rw [Task.cont_fields]
@[simp] theorem Task.cont_pendMx (t : Task) (pc : Addr) : (t.cont pc).pendMx = t.pendMx := by rw [Task.cont_fields]
@[simp] theorem Task.cont_pendCx (t : Task) (pc : Addr) : (t.cont pc).pendCx = t.pendCx := by rw [Task.cont_fields]
@[simp] theorem Task.cont_pendFx (t : Task) (pc : Addr) : (t.cont pc).pendFx = t.pendFx := by rw [Task.cont_fields]
@[simp] theorem Task.cont_starve (t : Task) (pc : Addr) : (t.cont pc).starve = t.starve := by rw [Task.cont_fields]
@[simp] theorem Task.cont_yielded (t : Task) (pc : Addr) : (t.cont pc).yielded = t.yielded := by rw [Task.cont_fields]
@[simp] theorem Task.cont_resvd (t : Task) (pc : Addr) : (t.cont pc).resvd = t.resvd := by rw [Task.cont_fields]
@[simp] theorem Task.cont_frozenEng (t : Task) (pc : Addr) : (t.cont pc).frozenEng = t.frozenEng := by rw [Task.cont_fields]

/-- What Continue does depends on the task's PC, INH and loops only, and commutes with every other update. -/
theorem contAt_congr (d : Nat) (t u : Task) (pc : Addr) (h : t.loops = u.loops) :
    (contAt d t pc).pc = (contAt d u pc).pc ∧ (contAt d t pc).depth = (contAt d u pc).depth ∧
    (contAt d t pc).loops = (contAt d u pc).loops := by
  induction d generalizing t u with
  | zero => exact ⟨rfl, rfl, h⟩
  | succ d ih =>
    simp only [contAt, h]
    split
    · split
      · exact ⟨rfl, rfl, rfl⟩
      · exact ih _ _ rfl
    · exact ⟨rfl, rfl, rfl⟩

theorem Task.cont_congr (t u : Task) (pc : Addr) (hl : t.loops = u.loops) (hd : t.depth = u.depth) (hi : t.inh = u.inh) :
    (t.cont pc).pc = (u.cont pc).pc ∧ (t.cont pc).depth = (u.cont pc).depth ∧ (t.cont pc).loops = (u.cont pc).loops := by
  unfold Task.cont
  rw [hi, hd]
  split
  · exact ⟨rfl, rfl, hl⟩
  · exact contAt_congr _ _ _ _ hl

/-- Two tasks that differ in the wait count only do so after Continue. -/
theorem Task.cont_noCount (t : Task) (pc : Addr) : (t.cont pc).noCount = t.noCount.cont pc := by
  have h := Task.cont_congr t.noCount t pc rfl rfl rfl
  rw [Task.cont_fields t, Task.cont_fields t.noCount, h.1, h.2.1, h.2.2]; rfl

theorem Task.pastWait_noCount (t : Task) : t.pastWait.noCount = { t.noCount with wait := .none } := by
  unfold Task.pastWait
  split
  · next h => simp only [Task.noCount]; rw [h.1]
  · rfl

/-! ## The SYNC wait and signal -/

theorem State.semTake_some (s : State) (c : Nat) (q : BitVec 8) (n : Nat) (h : n ≤ (s.sem c q.toNat).count.toNat) :
    ∃ t, s.semTake c q n = some t ∧
      (n ≠ 0 → t = s.takeSem c q.toNat n) ∧ (n = 0 → t = s) := by
  by_cases hn : n = 0
  · exact ⟨s, by simp [State.semTake, hn], by simp [hn], by simp⟩
  · exact ⟨_, by simp [State.semTake, hn, h], fun _ => rfl, by simp [hn]⟩

/-- The semaphore `q` of a unit after the wait. -/
def State.semWaited (s : State) (c n : Nat) (y : Sync) (q : Nat) : Sem :=
  let x := s.sem c q
  if (s.task c n).took.isNone ∧ y.wcnt ≠ 0 ∧ q = y.wsem.toNat then
    { x with count := x.count - BitVec.ofNat 16 y.wcnt.toNat, dev := x.dev && (x.count - BitVec.ofNat 16 y.wcnt.toNat) != 0 }
  else x

theorem OnlyTask.refl (s : State) (c n : Nat) : OnlyTask s c n s := ⟨rfl, fun _ _ => rfl, rfl, .inl rfl, fun _ _ => rfl⟩

theorem OnlyTask.trans {s t u : State} {c n : Nat} (h : OnlyTask s c n t) (g : OnlyTask t c n u) : OnlyTask s c n u := by
  refine ⟨?_, fun d hd => (g.others d hd).trans (h.others d hd), ?_, ?_, fun m hm => (g.tasks m hm).trans (h.tasks m hm)⟩
  · rw [g.device, h.device]
  · rw [g.unit, h.unit]
  · rcases g.cache with e | e
    · exact h.cache.imp e.trans e.trans
    · exact .inr e

theorem OnlyTask.modTask (s : State) (c n : Nat) (f : Task → Task) : OnlyTask s c n (s.modTask c n f) :=
  ⟨rfl, fun d hd => by simp [hd], by rw [State.core_modTask], by rw [State.core_modTask]; exact .inl rfl, fun m hm => by simp [hm]⟩

theorem OnlyTask.setSem (s : State) (c n q : Nat) (x : Sem) : OnlyTask s c n (s.setSem c q x) :=
  ⟨rfl, fun d hd => by simp [hd], by simp [State.setSem], by simp [State.setSem], fun m hm => by simp⟩

theorem OnlyTask.takeSem (s : State) (c n q k : Nat) : OnlyTask s c n (s.takeSem c q k) :=
  ⟨rfl, fun d hd => by simp [State.takeSem, hd], by simp [State.takeSem],
    by simp only [State.takeSem, State.core_modCore_same]; split <;> simp, fun m hm => by simp⟩

/-- The data cache emptied by an acquire. -/
theorem OnlyTask.invalidate (s : State) (c n : Nat) : OnlyTask s c n (s.invalidate c) :=
  ⟨rfl, fun d hd => by simp [State.invalidate, hd], by simp [State.invalidate], by simp [State.invalidate],
    fun m hm => by simp [State.invalidate, State.task]⟩

/-- The state after a met SYNC wait: the count taken, and remembered until the issue. -/
theorem State.syncTake_ready {s : State} {c n : Nat} {y : Sync} (h : Ready s c n y) :
    ∃ t x, s.syncTake c n y = some t ∧ OnlyTask s c n t ∧ t.task c n = { s.task c n with took := x } ∧
      (∀ q, t.sem c q = s.semWaited c n y q) := by
  obtain ⟨-, -, hw⟩ := h
  unfold State.syncTake
  by_cases h0 : y.wcnt = 0
  · exact ⟨s, (s.task c n).took, by simp [h0], .refl .., rfl, fun q => by simp [State.semWaited, h0]⟩
  by_cases ht : (s.task c n).took.isSome
  · refine ⟨s, (s.task c n).took, by simp [ht], .refl .., rfl, fun q => ?_⟩
    cases hx : (s.task c n).took with
    | none => rw [hx] at ht; cases ht
    | some v => simp [State.semWaited, hx]
  · have hn : y.wcnt.toNat ≠ 0 := fun e => h0 (BitVec.eq_of_toNat_eq (by simpa using e))
    have hle := hw.resolve_left ht
    have hnone : (s.task c n).took.isNone = true := by simpa using ht
    refine ⟨(s.takeSem c y.wsem.toNat y.wcnt.toNat).modTask c n
      (fun t => { t with took := some (y.wsem, y.wcnt.toNat) }), some (y.wsem, y.wcnt.toNat), ?_, (OnlyTask.takeSem ..).trans (.modTask ..), ?_, ?_⟩
    · have e : decide (y.wcnt = 0) = false := by simpa using h0
      simp only [State.semTake, hn, hle, e, ht, if_false, if_true, Bool.or_false, Bool.false_eq_true, Option.map_some]
    · simp
    · intro q; simp only [State.sem_modTask, State.sem_takeSem, State.semWaited]
      by_cases hq : q = y.wsem.toNat
      · rw [if_pos hq, if_pos ⟨hnone, h0, hq⟩, hq]
      · rw [if_neg hq, if_neg fun e => hq e.2.2]

theorem OnlyTask.signal (s : State) (c n : Nat) (q : BitVec 8) (k : Nat) : OnlyTask s c n (s.signal c q k) := by
  unfold State.signal
  split
  · exact .refl ..
  · exact .setSem ..

@[simp] theorem State.task_signal (s : State) (c d n : Nat) (q : BitVec 8) (k : Nat) : (s.signal c q k).task d n = s.task d n := by
  unfold State.signal; split <;> simp

/-- Signal(q, k) (R215). -/
theorem State.sem_signal (s : State) (c r : Nat) (q : BitVec 8) (k : Nat) :
    (s.signal c q k).sem c r = if r = q.toNat then (s.sem c r).signal k else s.sem c r := by
  unfold State.signal
  split
  · next h => subst h; split <;> simp [Sem.signal]; exact fun h => absurd h (by have := (s.sem c r).count.isLt; omega)
  · rw [State.sem_setSem]; split
    · next h => rw [h]
    · rfl

/-! ## An instruction that only changes the registers of its task -/

theorem Task.issue_stepped (t : Task) (x : Option (BitVec 8 × Nat)) (h : t.st = .ready) :
    (let k : Task := { t with took := x }
     let u : Task := { k.pastWait with st := (if k.st = .idle then .idle else .ready), isn := k.isn + 1, took := none }
     u.cont (u.pc + 12)) = t.stepped := by
  simp only [Task.stepped, Task.gone, Task.pastWait, h]
  by_cases hw : t.wait = .none ∧ t.waitFrom.isSome
  · rw [if_pos hw, if_pos hw]; rfl
  · rw [if_neg hw, if_neg hw]; rfl

/-- An SC or SY instruction whose action ends with `done` and has changed the task by `g`: its effect. -/
theorem scalar_effect {s : State} {c n : Nat} {y : Sync} {ill : Task → Bool} {body : Nat → Nat → State → Act} {g : Task → Task}
    (h : Ready s c n y) (hill : ill (s.task c n) = false)
    (hbody : ∀ t : State, OnlyTask s c n t → body c n t = .done (t.modTask c n g))
    (hg : ∀ x, g { s.task c n with took := x } = { g (s.task c n) with took := x }) (hst : (g (s.task c n)).st = .ready) :
    ∃ t, scalar ill y body s = .next t ∧ Effect s c n y g t := by
  obtain ⟨u, x, hu, honly, htask, hsem⟩ := State.syncTake_ready h
  have hrun : scalar ill y body s = .next ((body c n u).run y c n) := by
    simp only [scalar, h.1, hill, hu]; rfl
  refine ⟨_, hrun, ?_, ?_, ?_⟩ <;> rw [hbody u honly] <;> simp only [Act.run, State.issued]
  · rw [State.task_signal, State.task_modTask_same, State.task_modTask_same, State.task_modTask_same, htask, hg,
      Task.issue_stepped _ x hst]
  · intro q
    rw [State.sem_signal]
    simp only [State.sem_modTask]
    rw [hsem q]; rfl
  · exact (((honly.trans (.modTask ..)).trans (.modTask ..)).trans (.modTask ..)).trans (.signal ..)

/-- A register instruction: its effect is its function on the task. -/
theorem regOp_effect {s : State} {c n : Nat} {y : Sync} {g : Task → Task} (h : Ready s c n y)
    (hg : ∀ x, g { s.task c n with took := x } = { g (s.task c n) with took := x }) (hst : (g (s.task c n)).st = (s.task c n).st) :
    ∃ t, regOp y g s = .next t ∧ Effect s c n y g t :=
  scalar_effect h rfl (fun _ _ => rfl) hg (hst.trans h.2.1)

/-- An instruction that writes s[D] with a value of its task. -/
theorem runs_s {s : State} {c n : Nat} {y : Sync} {i : Instr} {d : SReg} {F : Task → Word} {r : Word} (h : Ready s c n y)
    (hi : exec i s = regOp y (fun t => t.setS d (F t)) s) (hF : ∀ x, F { s.task c n with took := x } = F (s.task c n))
    (he : F (s.task c n) = r) : Runs s c n y i (·.setS d r) := by
  obtain ⟨t, ht, e⟩ := regOp_effect (y := y) (g := fun t => t.setS d (F t)) h (by
    intro x; simp only [hF]; unfold Task.setS; split <;> rfl) (by simp)
  refine ⟨t, hi.trans ht, ⟨?_, e.sems, e.only⟩⟩
  have := e.task; simp only [he] at this; exact this

/-- An instruction that writes p[D] with a value of its task. -/
theorem runs_p {s : State} {c n : Nat} {y : Sync} {i : Instr} {d : PReg} {F : Task → Bool} {r : Bool} (h : Ready s c n y)
    (hi : exec i s = regOp y (fun t => t.setP d (F t)) s) (hF : ∀ x, F { s.task c n with took := x } = F (s.task c n))
    (he : F (s.task c n) = r) : Runs s c n y i (·.setP d r) := by
  obtain ⟨t, ht, e⟩ := regOp_effect (y := y) (g := fun t => t.setP d (F t)) h (by
    intro x; simp only [hF]; unfold Task.setP; split <;> rfl) (by simp)
  refine ⟨t, hi.trans ht, ⟨?_, e.sems, e.only⟩⟩
  have := e.task; simp only [he] at this; exact this

/-- An instruction that writes a[D] with a value of its task. -/
theorem runs_a {s : State} {c n : Nat} {y : Sync} {i : Instr} {d : AReg} {F : Task → Addr} {r : Addr} (h : Ready s c n y)
    (hi : exec i s = regOp y (fun t => t.setA d (F t)) s) (hF : ∀ x, F { s.task c n with took := x } = F (s.task c n))
    (he : F (s.task c n) = r) : Runs s c n y i (·.setA d r) := by
  obtain ⟨t, ht, e⟩ := regOp_effect (y := y) (g := fun t => t.setA d (F t)) h (by
    intro x; simp only [hF]; rfl) (by simp)
  refine ⟨t, hi.trans ht, ⟨?_, e.sems, e.only⟩⟩
  have := e.task; simp only [he] at this; exact this

theorem Task.srcB_took (k : Task) (b : SrcB) (x) : ({ k with took := x } : Task).srcB b = k.srcB b := by cases b <;> rfl


end Sys2Proof.Machine
end

