-- ==== Sys2Proof/Laws/Engine.lean ====
section
/-! SUPPORT. What the issue of an engine instruction leaves when its engine performs it at once. -/

namespace Sys2Proof.Machine

theorem Tab.set_set {α : Type} (t : Tab α) (i : Nat) (a b : α) : Tab.set (Tab.set t i a) i b = Tab.set t i b := by
  induction t with
  | nil => simp [Tab.set]
  | cons e t ih =>
    obtain ⟨j, x⟩ := e
    simp only [Tab.set]
    split
    · simp [Tab.set]
    · split
      · simp [Tab.set]
      · next h1 h2 => simp [Tab.set, h1, h2, ih]

theorem State.setCore_setCore (s : State) (c : Nat) (a b : Core) : (s.setCore c a).setCore c b = s.setCore c b := by
  simp only [State.setCore, Tab.set_set]

theorem before_append (q : Entry) (l : List Entry) (r : List Entry) (h : l.any (q.same) = false) :
    before q (l ++ r) = l ++ before q r := by
  induction l with
  | nil => rfl
  | cons x l ih =>
    simp only [List.any_cons, Bool.or_eq_false_iff] at h
    simp [before, h.1, ih h.2]

theorem Entry.same_self (q : Entry) : q.same q = true := by simp [Entry.same]

theorem map_same (q : Entry) (f : Entry → Entry) (l : List Entry) (h : l.any (q.same) = false) :
    l.map (fun x => if q.same x then f x else x) = l := by
  induction l with
  | nil => rfl
  | cons x l ih =>
    simp only [List.any_cons, Bool.or_eq_false_iff] at h
    simp [h.1, ih h.2]

/-- No entry of the queue is the one that a slot without entries in an engine is about to place. -/
theorem same_none {l : List Entry} {q : Entry} (h : (l.all fun x => !(x.slot == q.slot && x.eng == q.eng)) = true) :
    l.any (q.same) = false := by
  rw [List.any_eq_false]
  intro x hx
  have := List.all_eq_true.mp h x hx
  simp only [Entry.same]
  revert this
  cases (x.slot == q.slot) <;> cases (x.eng == q.eng) <;> simp

theorem Tab.any_set {α : Type} (t : Tab α) (i : Nat) (v : α) (p : Nat × α → Bool) (h : (Tab.set t i v).any p = true) :
    p (i, v) = true ∨ t.any p = true := by
  induction t with
  | nil => simpa [Tab.set] using h
  | cons e t ih =>
    obtain ⟨j, x⟩ := e
    simp only [Tab.set] at h
    split at h
    · simp only [List.any_cons, Bool.or_eq_true] at h ⊢
      exact h.imp id .inr
    · split at h
      · simp only [List.any_cons, Bool.or_eq_true] at h ⊢
        exact h
      · simp only [List.any_cons, Bool.or_eq_true] at h ⊢
        rcases h with h | h
        · exact .inr (.inl h)
        · exact (ih h).imp id .inr

/-- A READY task that stays so, in its address space, does not halt its unit; nor does an entry in a queue. -/
theorem State.haltedUnit_setCore {s : State} {c n : Nat} {t : Task} {l : List Entry} {f : Tab Sem} {d : List DLine}
    (h : s.haltedUnit c = false) (hst : (s.task c n).st = .ready) (ha : t.asid = (s.task c n).asid) :
    (s.setCore c { s.core c with slots := Tab.set (s.core c).slots n t, queue := l, sems := f, dcache := d }).haltedUnit c = false := by
  unfold State.haltedUnit at h ⊢
  simp only [Bool.or_eq_false_iff] at h ⊢
  obtain ⟨⟨⟨⟨h1, h2⟩, h3⟩, h5⟩, h6⟩ := h
  refine ⟨⟨⟨⟨h1, h2⟩, h3⟩, ?_⟩, ?_⟩
  · rw [← h5]; simp [State.relocking, State.cluster]
  · simp only [State.core_setCore_same, State.setCore_dbg]
    cases hh : s.dbg.halt with
    | false => rfl
    | true =>
      rw [hh] at h6
      simp only [Bool.true_and] at h6 ⊢
      rw [Bool.eq_false_iff]
      intro hany
      rcases Tab.any_set _ _ _ _ hany with h7 | h7
      · simp only [Bool.and_eq_true, ha] at h7
        rcases Tab.get_mem Task.idle (s.core c).slots n with h8 | h8
        · have h9 : (s.task c n).st = .idle := by rw [State.task, h8]; rfl
          rw [hst] at h9; cases h9
        · have := List.any_eq_false.mp h6 _ h8
          apply this
          have hs' : (Tab.get Task.idle (s.core c).slots n).st = .ready := hst
          simp only [Bool.and_eq_true]
          exact ⟨by rw [hs']; rfl, h7.2⟩
      · rw [h6] at h7; cases h7

/-- The wait count of a task after an issue: begun only by a park. -/
theorem Issue.task_wait (x : Issue) (now : Nat) (t : Task) (hw : (x.front t).waitFrom = none) :
    let u := x.task now t
    u.waitAcc = 0 ∧ u.waitFrom = (if u.st = .waiting ∨ u.st = .parked then some now else none) ∧ (u.st = .ready ∨ u.st = .parked) := by
  have hpast : (x.front t).pastWait = (x.front t).endWait := by simp [Task.pastWait, hw]
  cases hp : x.parks <;> cases hd : x.instr.engineDest
  · simp [Issue.task, hpast, hp, hd, Task.endWait]
  · next d => by_cases h0 : d.val = 0 <;> simp [Issue.task, hpast, hp, hd, h0, Task.endWait]
  · simp [Issue.task, hpast, hp, hd, Task.endWait, Task.startWait]
  · next d => by_cases h0 : d.val = 0 <;> simp [Issue.task, hpast, hp, hd, h0, Task.endWait, Task.startWait]

theorem Issue.task_keeps (x : Issue) (now : Nat) (t : Task) :
    (∀ e, (x.task now t).pend e = (x.front t).pend e) ∧ (x.task now t).asid = (x.front t).asid := by
  have hpast : ∀ k : Task, (∀ e, k.pastWait.pend e = k.pend e) ∧ k.pastWait.asid = k.asid := by
    intro k; unfold Task.pastWait; split
    · exact ⟨fun _ => rfl, rfl⟩
    · exact ⟨fun e => by cases e <;> rfl, rfl⟩
  obtain ⟨h1, h2⟩ := hpast (x.front t)
  constructor
  · intro e
    rw [← h1 e]
    simp only [Issue.task, Task.startWait]
    split <;> (try split) <;> (try split) <;> cases e <;> simp [Task.pend]
  · rw [← h2]
    simp only [Issue.task, Task.startWait]
    split <;> (try split) <;> (try split) <;> simp

/-- A queue without copies locks no range. -/
theorem lockedBy_none {l : List Entry} (h : (l.all fun q => q.lock.isNone) = true) (o n : Nat) : State.lockedBy l o n = false := by
  unfold State.lockedBy
  rw [List.any_eq_false]
  intro q hq
  have h1 : q.lock = none := by simpa using List.all_eq_true.mp h q hq
  simp [Entry.locks, h1]

/-- Behind no unfinished entry of its task in its engine, an entry's turn is its performance and what follows. -/
theorem runEntry_first {s : State} {perf : Perf} {c : Nat} {q : Entry} (h : (before q (s.core c).queue).any q.follows = false) :
    s.runEntry perf c q = settle c q (perf c q s) := by
  simp [State.runEntry, h]

/-- A task without an entry in an engine has nothing there that a new entry follows. -/
theorem follows_none {l : List Entry} {q z : Entry} (hl : (l.all fun x => !(x.slot == z.slot && x.eng == z.eng)) = true)
    (hs : q.same = z.same) (hq : q.slot = z.slot ∧ q.eng = z.eng) : (before q (l ++ [z])).any q.follows = false := by
  have hsame : l.any q.same = false := by rw [hs]; exact same_none hl
  have hb : before q (l ++ [z]) = l := by
    rw [before_append _ _ _ hsame]; simp [before, hs, Entry.same_self]
  rw [hb, List.any_eq_false]
  intro e he
  have h1 : (e.slot == z.slot && e.eng == z.eng) = false := by simpa only [Bool.not_eq_true'] using List.all_eq_true.mp hl e he
  simp only [Entry.follows]
  rw [hq.1, hq.2, h1]; exact Bool.false_ne_true

/-- An engine instruction whose engine is ready is performed at its issue. -/
theorem engine_performed {s : State} {c n : Nat} {y : Sync} {x : Issue} {ill : Task → Bool} {perf : Perf}
    (h : EngineReady s c n y x.eng) (hy : x.instr.sync = some y) (hill : ill (s.task c n) = false)
    (hp : ((x.front (s.task c n)).pend x.eng) = (s.task c n).pend x.eng)
    (hw : (x.front (s.task c n)).waitFrom = none) (ha : (x.front (s.task c n)).asid = (s.task c n).asid) :
    engine ill x perf s = .next (x.performed perf s c n y) := by
  obtain ⟨hcur, hst, hacc, hfrom, htook, hcount, hdefer, hfrozen, hpend, hq, hmx, hlock⟩ := h
  generalize hT : x.task (s.now c) (s.task c n) = T
  generalize hQ : x.entry c n true (s.task c n) = q
  have hqs : q.slot = n := by rw [← hQ]; rfl
  have hqe : q.eng = x.eng := by rw [← hQ]; rfl
  have hqi : q.instr = x.instr := by rw [← hQ]; rfl
  have hqf : q.wmet = false ∧ q.started = false ∧ q.done = false ∧ q.frozen = false ∧ q.pageHeld = none := by
    rw [← hQ]; exact ⟨rfl, rfl, rfl, rfl, rfl⟩
  obtain ⟨hq1, hq2, hq3, hq4, hq5⟩ := hqf
  have hTw := Issue.task_wait x (s.now c) (s.task c n) hw
  simp only [hT] at hTw
  have hTk := Issue.task_keeps x (s.now c) (s.task c n)
  rw [hT] at hTk
  have hS : ∀ u : State, u.core c = s.core c → (u.modTask c n (x.task (s.now c))) =
      u.setCore c { s.core c with slots := Tab.set (s.core c).slots n T } := by
    intro u hu
    simp only [State.modTask, State.setTask, State.task, hu]
    rw [show x.task (s.now c) (Tab.get Task.idle (s.core c).slots n) = T from hT]
  have hres : reservedFree (s.core c).queue x.eng n = true := by
    have : engCount (s.core c).queue x.eng (fun q => q.slot == n) = 0 := by
      unfold engCount
      rw [List.length_eq_zero_iff, List.filter_eq_nil_iff]
      intro e he
      have h1 : (e.slot == n && e.eng == x.eng) = false := by simpa only [Bool.not_eq_true'] using List.all_eq_true.mp hq e he
      rw [Bool.and_comm, h1]; exact Bool.false_ne_true
    simp [reservedFree, this]
  have hroom : queueRoom (s.core c).queue x.eng n = true := by simp [queueRoom, hres]
  have hsame : ((s.core c).queue).any (q.same) = false := same_none (by rw [hqs, hqe]; exact hq)
  -- the state after the issue
  have hstart : ∀ l f d, (l = (s.core c).queue ++ [q]) →
      (s.setCore c { s.core c with slots := Tab.set (s.core c).slots n T, queue := l, sems := f, dcache := d }).startable c q = true := by
    intro l f d hl
    have hfz' := hfrozen
    simp only [State.frozenUnit, Bool.or_eq_false_iff] at hfz'
    have hfz := State.haltedUnit_setCore (l := l) (f := f) (d := d) hfz'.1 hst (t := T) (by rw [hTk.2, ha])
    have hnone : (s.core c).freeze.isNone = true := by simpa using hfz'.2
    have htask : (s.setCore c { s.core c with slots := Tab.set (s.core c).slots n T, queue := l, sems := f, dcache := d }).task c n = T := by
      simp [State.task]
    have hb : before q l = (s.core c).queue := by
      rw [hl, before_append _ _ _ hsame]; simp [before, Entry.same_self]
    have hany : ((s.core c).queue.any fun x => q.follows x && !q.mayPass x) = false := by
      rw [List.any_eq_false]
      intro e he
      have h1 : (e.slot == n && e.eng == x.eng) = false := by simpa only [Bool.not_eq_true'] using List.all_eq_true.mp hq e he
      simp only [Entry.follows]
      rw [hqs, hqe, h1]; exact Bool.false_ne_true
    have hlw : (s.setCore c { s.core c with slots := Tab.set (s.core c).slots n T, queue := l, sems := f, dcache := d }).lwLocked c q = false := by
      unfold State.lwLocked
      simp only [State.core_setCore_same, hb, hqe]
      by_cases he : x.eng = .cx ∨ x.eng = .fx
      · rw [Bool.and_eq_false_iff]; right
        split
        · exact lockedBy_none (hlock he) _ _
        · rfl
      · rw [not_or] at he; simp [he.1, he.2]
    simp only [State.startable, State.mayFinish, hfz, hq3, hq4, hq5, htask, State.core_setCore_same, hb, hTk.1 q.eng, hnone, hany, hlw, hqs]
    rw [hqe, hp, hpend]
    rfl
  have hhold : ∀ f d, (s.setCore c { s.core c with slots := Tab.set (s.core c).slots n T, queue := (s.core c).queue ++ [q], sems := f, dcache := d }).mxHold c q = none := by
    intro f d
    unfold State.mxHold
    by_cases he : x.eng = .mx
    · obtain ⟨hg, hall⟩ := hmx he
      have hb : mxBusy ((s.core c).queue ++ [q]) q = false := by
        unfold mxBusy
        rw [List.any_append, Bool.or_eq_false_iff]
        constructor
        · rw [List.any_eq_false]
          intro e hmem
          have h1 : (e.eng == Eng.mx) = false := by simpa using List.all_eq_true.mp hall e hmem
          simp [h1]
        · simp [hq2]
      have hgate : (s.setCore c { s.core c with slots := Tab.set (s.core c).slots n T, queue := (s.core c).queue ++ [q], sems := f, dcache := d }).arrayGate c = .awake := by
        have hk : ∀ k : Core, k.gate = (s.core c).gate → ∀ i, ((s.setCore c k).core i).gate = (s.core i).gate := by
          intro k hk i
          by_cases hi : i = c
          · rw [hi, State.core_setCore_same, hk]
          · rw [State.core_setCore_ne _ _ _ _ hi]
        rw [← hg]; simp only [State.arrayGate, State.core_setCore_same]
        rw [show (fun i => ((s.setCore c { s.core c with slots := Tab.set (s.core c).slots n T, queue := (s.core c).queue ++ [q], sems := f, dcache := d }).core (c + i)).gate) =
          fun i => (s.core (c + i)).gate from funext fun i => hk { s.core c with slots := Tab.set (s.core c).slots n T, queue := (s.core c).queue ++ [q], sems := f, dcache := d } rfl _]
      simp only [hqe, he, hq2, State.core_setCore_same, hb, hgate]
      simp
    · have : (q.eng != .mx) = true := by rw [hqe]; simpa using he
      simp [this]
  have hS1 : ((s.modTask c n (x.task (s.now c))).modCore c fun k => { k with queue := k.queue ++ [q] }) =
      s.setCore c { s.core c with slots := Tab.set (s.core c).slots n T, queue := (s.core c).queue ++ [q] } := by
    rw [hS s rfl]; simp [State.modCore, State.setCore_setCore]
  have hmap : ∀ f : Entry → Entry, ((s.core c).queue ++ [q]).map (fun z => if q.same z then f z else z) = (s.core c).queue ++ [f q] := by
    intro f; rw [List.map_append, map_same q f _ hsame]; simp [Entry.same_self]
  have hE : x.started s c n y = { q with wmet := decide (y.wcnt ≠ 0), started := true } := by rw [Issue.started, hQ]
  have hrun : engine ill x perf s = .next ((s.setCore c { s.core c with slots := Tab.set (s.core c).slots n T, queue := (s.core c).queue ++ [q] }).tryEntry perf c q) := by
    simp only [engine, hcur, hill, hroom, hres, hQ, hS1, State.setCore_deferStart, hdefer]
    rfl
  rw [hrun]
  congr 1
  have hd : q.instr.sync.getD Sync.none = y := by rw [hqi, hy]; rfl
  have hst1 := hstart _ (s.core c).sems (s.core c).dcache rfl
  have hh1 := hhold (s.core c).sems (s.core c).dcache
  simp only [State.tryEntry]
  rw [if_pos hst1, hh1]
  simp only [hd, hq1, hq2, Bool.false_or]
  by_cases h0 : y.wcnt = 0
  · have hb : (y.wcnt == 0) = true := by simpa using h0
    rw [if_pos hb]
    have hB : x.begun s c n y = (s.setCore c { s.core c with slots := Tab.set (s.core c).slots n T, queue := (s.core c).queue ++ [q] }).modEntry c q
        fun z => { z with started := true } := by
      simp only [Issue.begun, h0, if_true, hS s rfl, State.modEntry, State.modEntries, State.modCore, State.setCore_setCore,
        State.core_setCore_same, hmap, Issue.started, hQ]
      rw [show (decide ((0 : BitVec 4) ≠ 0)) = q.wmet by rw [hq1]; rfl]
    rw [← hB, runEntry_first]
    · have hE0 : x.started s c n y = { q with started := true } := by
        rw [hE, show decide (y.wcnt ≠ 0) = q.wmet by rw [hq1, h0]; rfl]
      simp only [Issue.performed, hE0, hq1]
    · rw [hB]
      simp only [State.modEntry, State.modEntries, State.modCore, State.core_setCore_same, hmap]
      exact follows_none (by rw [← hqs, ← hqe] at hq; exact hq) rfl ⟨rfl, rfl⟩
  · have hb : (y.wcnt == 0) = false := by simpa using h0
    rw [if_neg (by rw [hb]; exact Bool.false_ne_true)]
    have hn : y.wcnt.toNat ≠ 0 := fun e => h0 (BitVec.eq_of_toNat_eq (by simpa using e))
    have hsem : ∀ k l, (s.setCore c { s.core c with slots := k, queue := l }).sem c y.wsem.toNat = s.sem c y.wsem.toNat := by
      intro k l; simp [State.sem]
    rw [show decide (y.wcnt ≠ 0) = true by simpa using h0] at hE
    simp only [State.semTake, hn, if_false, hsem, hcount, if_true]
    have hT2 : ({ T with waitAcc := 0, waitFrom := if T.st = .waiting ∨ T.st = .parked then some (s.now c) else none } : Task) = T := by
      rw [← hTw.2.1, ← hTw.1]
    let x' : Sem := { s.sem c y.wsem.toNat with
      count := (s.sem c y.wsem.toNat).count - BitVec.ofNat 16 y.wcnt.toNat
      dev := (s.sem c y.wsem.toNat).dev && ((s.sem c y.wsem.toNat).count - BitVec.ofNat 16 y.wcnt.toNat) != 0 }
    let d' : List DLine := if (s.sem c y.wsem.toNat).dev then [] else (s.core c).dcache
    have hB : ∀ (f : Entry → Entry),
        (((s.setCore c { s.core c with slots := Tab.set (s.core c).slots n T, queue := (s.core c).queue ++ [q] }).takeSem c y.wsem.toNat
            y.wcnt.toNat).engWaitEnd c q.slot).modEntry c q f =
        s.setCore c { s.core c with
          slots := Tab.set (s.core c).slots n T, queue := (s.core c).queue ++ [f q], sems := Tab.set (s.core c).sems y.wsem.toNat x'
          dcache := d' } := by
      intro f
      have hnow : ∀ sl qu se dc, (s.setCore c { s.core c with slots := sl, queue := qu, sems := se, dcache := dc }).now c = s.now c := by
        intro sl qu se dc; simp [State.now, State.cluster]
      simp only [State.takeSem, hsem, State.engWaitEnd, hnow, hqs, State.modEntry, State.modEntries, State.modCore, State.modTask, State.setTask, State.task,
        State.setCore_setCore, State.core_setCore_same, hmap, Tab.get_set_same, Tab.set_set, hT2, x', d']
    have hB2 : x.begun s c n y = s.setCore c { s.core c with slots := Tab.set (s.core c).slots n T, queue := (s.core c).queue ++ [{ q with wmet := true, started := true }], sems := Tab.set (s.core c).sems y.wsem.toNat x', dcache := d' } := by
      simp only [Issue.begun, h0, if_false, State.takeSem, State.modCore, State.modTask, State.setTask, State.task, State.setCore_setCore,
        State.core_setCore_same, hE, x', d']
      rw [show x.task (s.now c) (Tab.get Task.idle (s.core c).slots n) = T from hT]
    rw [hB, ← hB2, runEntry_first]
    · simp only [Issue.performed, hE]
    · rw [hB2]
      simp only [State.core_setCore_same]
      exact follows_none (by rw [← hqs, ← hqe] at hq; exact hq) rfl ⟨rfl, rfl⟩

/-! ## The end of an entry -/

theorem filter_same (q : Entry) (l : List Entry) (h : l.any (q.same) = false) : l.filter (fun x => !(q.same x)) = l := by
  rw [List.filter_eq_self]
  intro x hx
  have := List.any_eq_false.mp h x hx
  simpa using this

theorem find_last (l : List Entry) (q : Entry) (n : Nat) (e : Eng) (h : (l.all fun x => !(x.slot == n && x.eng == e)) = true)
    (hn : q.slot = n) (he : q.eng = e) : (l ++ [q]).find? (fun x => x.slot == n && x.eng == e) = some q := by
  rw [List.find?_append]
  have : l.find? (fun x => x.slot == n && x.eng == e) = none := by
    rw [List.find?_eq_none]
    intro x hx
    have h1 : (x.slot == n && x.eng == e) = false := by simpa only [Bool.not_eq_true'] using List.all_eq_true.mp h x hx
    rw [h1]; exact Bool.false_ne_true
  rw [this]; simp [hn, he]

@[simp] theorem State.queue_modTask (s : State) (c n d : Nat) (f : Task → Task) : ((s.modTask c n f).core d).queue = (s.core d).queue := by
  by_cases h : d = c
  · subst h; rw [State.core_modTask]
  · simp [h]

@[simp] theorem State.queue_release (s : State) (c n d : Nat) (i : Instr) : ((s.release c n i).core d).queue = (s.core d).queue := by
  unfold State.release
  split
  · split <;> simp
  · rfl

@[simp] theorem State.queue_signal (s : State) (c d : Nat) (q : BitVec 8) (k : Nat) : ((s.signal c q k).core d).queue = (s.core d).queue := by
  unfold State.signal
  split
  · rfl
  · by_cases h : d = c
    · subst h; simp [State.setSem]
    · simp [h]

/-- The end of the only entry of a task in an engine: it leaves the queue, its register is released, and its signal is added. -/
theorem settle_done {s : State} {c : Nat} {q : Entry} {y : Sync} {l : List Entry} (k1 k2 : Nat)
    (hl : (s.core c).queue = l ++ [q]) (hq : (l.all fun x => !(x.slot == q.slot && x.eng == q.eng)) = true)
    (hy : q.instr.sync = some y) (hm : q.mute = false) (hr : q.needResp = false) (hf : q.freed = false) :
    settle c q ⟨s, k1, k2, .done⟩ =
      ((s.modCore c fun k => { k with queue := l }).release c q.slot q.instr).signal c y.ssem y.sinc.toNat := by
  have hs := same_none hq
  generalize hR : (⟨s, k1, k2, .done⟩ : PRes) = R
  have hRs : R.s = s ∧ R.out = .done := by rw [← hR]; exact ⟨rfl, rfl⟩
  have hk : ∀ z, R.commit z = { z with comm := k1, spec := k2, landed := (R.commit z).landed } := by intro z; rw [← hR]; rfl
  have hks : q.same (R.commit q) = true := by rw [hk]; simp [Entry.same]
  generalize hq2 : ({ R.commit q with done := true } : Entry) = q'
  have hq' : q'.slot = q.slot ∧ q'.eng = q.eng ∧ q'.isn = q.isn ∧ q'.done = true ∧ q'.mute = false ∧ q'.needResp = false ∧ q'.instr = q.instr ∧
      q'.freed = false := by
    rw [← hq2, hk]; exact ⟨rfl, rfl, rfl, rfl, hm, hr, rfl, hf⟩
  obtain ⟨h1, h2, h3, h4, h5, h6, h7, h8⟩ := hq'
  have hss : q'.same = q.same := by funext x; simp [Entry.same, h1, h2, h3]
  have hmap : ∀ (f : Entry → Entry) (r : Entry), q.same r = true →
      (l ++ [r]).map (fun z => if q.same z then f z else z) = l ++ [f r] := by
    intro f r hr; rw [List.map_append, map_same q f _ hs]; simp [hr]
  have e : ((s.modEntry c q R.commit).modEntry c q fun x => { x with done := true }) =
      s.modCore c fun k => { k with queue := l ++ [q'] } := by
    simp only [State.modEntry, State.modEntries, State.modCore, State.setCore_setCore, State.core_setCore_same, hl]
    rw [hmap _ q (Entry.same_self q), hmap _ _ hks]
    rw [hq2]
  have hlen : ∀ f : Nat, retire c q.slot q.eng (f + 1) (s.modCore c fun k => { k with queue := l ++ [q'] }) =
      ((s.modCore c fun k => { k with queue := l }).release c q.slot q.instr).signal c y.ssem y.sinc.toNat := by
    intro f
    have hfind : ∀ t : State, (t.core c).queue = l → retire c q.slot q.eng f t = t := by
      intro t ht
      cases f with
      | zero => rfl
      | succ f =>
        have : l.find? (fun x => x.slot == q.slot && x.eng == q.eng) = none := by
          rw [List.find?_eq_none]
          intro x hx
          have h1 : (x.slot == q.slot && x.eng == q.eng) = false := by
            simpa only [Bool.not_eq_true'] using List.all_eq_true.mp hq x hx
          rw [h1]; exact Bool.false_ne_true
        simp only [retire, ht, this]
    have hdrop : (s.modCore c fun k => { k with queue := l ++ [q'] }).dropEntries c q'.same = s.modCore c fun k => { k with queue := l } := by
      simp only [State.dropEntries, State.modCore, State.setCore_setCore, State.core_setCore_same, List.filter_append]
      rw [hss, filter_same q l hs]
      have : q.same q' = true := by simp [Entry.same, h1, h2, h3]
      simp [this]
    simp only [retire, State.core_modCore_same]
    rw [find_last l q' q.slot q.eng hq h1 h2]
    have hw : (s.modCore c fun k => { k with queue := l ++ [q'] }).awaiting c q' = false := by simp [State.awaiting, h6]
    simp only [h4, hw, Bool.not_false, Bool.and_true, if_true, hdrop, h5, h7, hy, if_false, Bool.false_eq_true, State.releaseEntry, h8, h1]
    exact hfind _ (by simp)
  simp only [settle, hRs.1, hRs.2]
  rw [e]
  have hlen2 : ∀ f : Entry → Entry, ((s.modEntry c q f).core c).queue.length = l.length + 1 := by
    intro f; simp [State.modEntry, State.modEntries, hl]
  rw [hlen2, hlen l.length]
  have hgone : ∀ t : State, (t.core c).queue = l → t.freeEarly c q = t := by
    intro t ht
    have : (l.any fun x => q.same x && !x.freed) = false := by
      rw [List.any_eq_false]
      intro x hx
      have := List.any_eq_false.mp hs x hx
      simp [this]
    simp [State.freeEarly, ht, this]
  exact hgone _ (by simp)

/-! ## An engine instruction that only changes the registers of its task -/

/-- The task after its reserved register is released. -/
def Task.freed (t : Task) (i : Instr) : Task :=
  match i.engineDest with
  | some d => if d.val = 0 then t else { t with resvd := t.resvd.erase d }
  | none => t

theorem OnlyTask.release (s : State) (c n : Nat) (i : Instr) : OnlyTask s c n (s.release c n i) := by
  unfold State.release
  split
  · split
    · exact .refl ..
    · exact .modTask ..
  · exact .refl ..

theorem State.task_release (s : State) (c n : Nat) (i : Instr) : (s.release c n i).task c n = (s.task c n).freed i := by
  unfold State.release Task.freed
  cases i.engineDest with
  | none => rfl
  | some d => by_cases h : d.val = 0 <;> simp [h]

@[simp] theorem State.sem_release (s : State) (c n d q : Nat) (i : Instr) : (s.release c n i).sem d q = s.sem d q := by
  unfold State.release
  split
  · split
    · rfl
    · simp
  · rfl

/-- A ready engine whose performance only changes registers of the task: what the instruction leaves. -/
theorem engine_effect {s : State} {c n : Nat} {y : Sync} {x : Issue} {ill : Task → Bool} {perf : Perf} {f : Task → Task} {k1 k2 : Nat}
    (h : EngineReady s c n y x.eng) (hy : x.instr.sync = some y) (hill : ill (s.task c n) = false)
    (hp : ((x.front (s.task c n)).pend x.eng) = (s.task c n).pend x.eng)
    (hw : (x.front (s.task c n)).waitFrom = none) (ha : (x.front (s.task c n)).asid = (s.task c n).asid)
    (hperf : ∀ t : State, perf c (x.started s c n y) t = ⟨t.modTask c n f, k1, k2, .done⟩) :
    ∃ t, engine ill x perf s = .next t ∧ t.task c n = (f (x.task (s.now c) (s.task c n))).freed x.instr ∧
      (∀ q, t.sem c q = s.semAfter c n y q) ∧ OnlyTask s c n t := by
  refine ⟨_, engine_performed h hy hill hp hw ha, ?_⟩
  obtain ⟨hcur, hst, hacc, hfrom, htook, hcount, hdefer, hfrozen, hpend, hq, -⟩ := h
  -- the state in which the engine starts
  let u : State := if y.wcnt = 0 then s
    else s.takeSem c y.wsem.toNat y.wcnt.toNat
  have hu : OnlyTask s c n u ∧ u.task c n = s.task c n ∧ (u.core c).queue = (s.core c).queue ∧
      ∀ q, u.sem c q = s.semWaited c n y q := by
    simp only [u]
    split
    · next h0 => exact ⟨.refl .., rfl, rfl, fun q => by simp [State.semWaited, h0]⟩
    · next h0 =>
      refine ⟨.takeSem .., by simp, by simp [State.takeSem], fun q => ?_⟩
      rw [State.sem_takeSem]; simp only [State.semWaited, htook]
      by_cases hqq : q = y.wsem.toNat
      · rw [if_pos hqq, if_pos ⟨rfl, h0, hqq⟩, hqq]
      · rw [if_neg hqq, if_neg fun e => hqq e.2.2]
  obtain ⟨hu1, hu2, hu3, hu4⟩ := hu
  have hbegun : x.begun s c n y = (u.modTask c n (x.task (s.now c))).modCore c fun k => { k with queue := k.queue ++ [x.started s c n y] } := rfl
  have hqueue : (((x.begun s c n y).modTask c n f).core c).queue = (s.core c).queue ++ [x.started s c n y] := by
    rw [State.queue_modTask, hbegun, State.core_modCore_same]; simp [hu3]
  have hslot : (x.started s c n y).slot = n := rfl
  have heng : (x.started s c n y).eng = x.eng := rfl
  simp only [Issue.performed, hperf]
  rw [settle_done (y := y) k1 k2 hqueue (by rw [hslot, heng]; exact hq) hy rfl rfl rfl]
  have hback : (((x.begun s c n y).modTask c n f).modCore c fun k => { k with queue := (s.core c).queue }) =
      (u.modTask c n (x.task (s.now c))).modTask c n f := by
    rw [hbegun]
    simp only [State.modTask, State.setTask, State.task, State.modCore, State.setCore_setCore, State.core_setCore_same, hu3]
  rw [hback, hslot]
  refine ⟨?_, fun q => ?_, ?_⟩
  · rw [State.task_signal, State.task_release, State.task_modTask_same, State.task_modTask_same, hu2]; rfl
  · rw [State.sem_signal]; simp only [State.sem_release, State.sem_modTask, hu4]; rfl
  · exact (((hu1.trans (.modTask ..)).trans (.modTask ..)).trans (.release ..)).trans (.signal ..)

end Sys2Proof.Machine
end

