-- ==== Sys2Proof/Laws/Memory.lean ====
section
/-! SUPPORT. Every operation on memory keeps every memory in its canonical form, and reset has it. -/

namespace Sys2Proof.Machine

/-! ## Parts -/

theorem Core.memWf_iff (k : Core) : k.memWf = true ↔
    Sparse.wf k.spm = true ∧ Sparse.wf k.tags = true ∧ Sparse.wf k.latch = true ∧ Sparse.wf k.acc = true := by
  simp only [Core.memWf, Bool.and_eq_true, and_assoc]

theorem Image.memWf_iff (i : Image) : i.memWf = true ↔
    Sparse.wf i.spm = true ∧ Sparse.wf i.tags = true ∧ Sparse.wf i.latch = true ∧ Sparse.wf i.acc = true := by
  simp only [Image.memWf, Bool.and_eq_true, and_assoc]

theorem State.memWf_iff (s : State) : s.memWf = true ↔
    Sparse.wf s.hbm.bytes = true ∧ Sparse.wf s.hbm.stale = true ∧ Sparse.wf s.host.bytes = true ∧
    (∀ e ∈ s.cores, e.2.memWf = true) ∧ (∀ i ∈ s.images, i.memWf = true) := by
  simp only [State.memWf, Bool.and_eq_true, and_assoc, List.all_eq_true]

/-- Reset's memories are in canonical form. -/
theorem State.memWf_reset : State.reset.memWf = true := by decide

/-- A state with the same memories. -/
theorem State.memWf_congr {s t : State} (h : s.memWf = true) (h1 : t.hbm.bytes = s.hbm.bytes) (h2 : t.hbm.stale = s.hbm.stale)
    (h3 : t.host.bytes = s.host.bytes) (h4 : t.cores = s.cores) (h5 : t.images = s.images) : t.memWf = true := by
  simp only [State.memWf, h1, h2, h3, h4, h5]; exact h

/-- A fold of steps that each keep a property keeps it. -/
theorem foldl_keeps {α β : Type} (P : β → Prop) (f : β → α → β) (hf : ∀ b a, P b → P (f b a)) (l : List α) (b : β) (h : P b) :
    P (l.foldl f b) := by
  induction l generalizing b with
  | nil => exact h
  | cons a l ih => exact ih _ (hf b a h)

theorem Tab.mem_set {α : Type} {t : Tab α} {i : Nat} {v : α} {e : Nat × α} (h : e ∈ Tab.set t i v) : e = (i, v) ∨ e ∈ t := by
  induction t with
  | nil => simpa [Tab.set] using h
  | cons x t ih =>
    obtain ⟨j, x⟩ := x
    simp only [Tab.set] at h
    split at h
    · rcases List.mem_cons.1 h with h | h
      · exact .inl h
      · exact .inr (List.mem_cons_of_mem _ h)
    · split at h
      · rcases List.mem_cons.1 h with h | h
        · exact .inl h
        · exact .inr h
      · rcases List.mem_cons.1 h with h | h
        · exact .inr (h ▸ List.mem_cons_self ..)
        · exact (ih h).imp id (List.mem_cons_of_mem _)

theorem State.memWf_core {s : State} (h : s.memWf = true) (c : Nat) : (s.core c).memWf = true := by
  rcases Tab.get_mem Core.reset s.cores c with hc | hc
  · simp only [State.core, hc]; decide
  · exact ((State.memWf_iff s).1 h).2.2.2.1 _ hc

theorem State.memWf_setCore {s : State} (h : s.memWf = true) (c : Nat) {k : Core} (hk : k.memWf = true) :
    (s.setCore c k).memWf = true := by
  rw [State.memWf_iff] at h ⊢
  refine ⟨h.1, h.2.1, h.2.2.1, fun e he => ?_, h.2.2.2.2⟩
  rcases Tab.mem_set he with he | he
  · subst he; exact hk
  · exact h.2.2.2.1 e he

theorem State.memWf_modCore {s : State} (h : s.memWf = true) (c : Nat) (f : Core → Core) (hf : ∀ k : Core, k.memWf = true → (f k).memWf = true) :
    (s.modCore c f).memWf = true := State.memWf_setCore h c (hf _ (State.memWf_core h c))

theorem State.memWf_mapCores {s : State} (h : s.memWf = true) (f : Core → Core) (hf : ∀ k : Core, k.memWf = true → (f k).memWf = true) :
    (s.mapCores f).memWf = true := by
  rw [State.memWf_iff] at h ⊢
  refine ⟨h.1, h.2.1, h.2.2.1, fun e he => ?_, h.2.2.2.2⟩
  obtain ⟨x, hx, rfl⟩ := List.mem_map.1 he
  exact hf _ (h.2.2.2.1 x hx)

theorem State.memWf_setTask {s : State} (h : s.memWf = true) (c n : Nat) (t : Task) : (s.setTask c n t).memWf = true :=
  State.memWf_setCore h c (State.memWf_core h c)

theorem State.memWf_modTask {s : State} (h : s.memWf = true) (c n : Nat) (f : Task → Task) : (s.modTask c n f).memWf = true :=
  State.memWf_setTask h c n _

theorem State.memWf_setSem {s : State} (h : s.memWf = true) (c n : Nat) (x : Sem) : (s.setSem c n x).memWf = true :=
  State.memWf_modCore h c _ fun _ hk => hk

theorem State.memWf_setBar {s : State} (h : s.memWf = true) (c n : Nat) (x : Barrier) : (s.setBar c n x).memWf = true :=
  State.memWf_modCore h c _ fun _ hk => hk

theorem State.memWf_modImage {s : State} (h : s.memWf = true) (w : BitVec 32) (u : Nat) (f : Image → Image)
    (hf : ∀ i : Image, i.memWf = true → (f i).memWf = true) : (s.modImage w u f).memWf = true := by
  rw [State.memWf_iff] at h ⊢
  refine ⟨h.1, h.2.1, h.2.2.1, h.2.2.2.1, fun e he => ?_⟩
  obtain ⟨x, hx, rfl⟩ := List.mem_map.1 he
  split
  · exact hf _ (h.2.2.2.2 x hx)
  · exact h.2.2.2.2 x hx

/-! ## Scratchpads -/

theorem Core.memWf_spm {k : Core} (h : k.memWf = true) (a : Nat) (b : Byte) : ({ k with spm := Sparse.set k.spm a b } : Core).memWf = true := by
  rw [Core.memWf_iff] at h ⊢; exact ⟨Sparse.wf_set a b h.1, h.2⟩

theorem Core.memWf_tags {k : Core} (h : k.memWf = true) (a : Nat) (b : BitVec 8) :
    ({ k with tags := Sparse.set k.tags a b } : Core).memWf = true := by
  rw [Core.memWf_iff] at h ⊢; exact ⟨h.1, Sparse.wf_set a b h.2.1, h.2.2⟩

theorem Core.memWf_latch {k : Core} (h : k.memWf = true) (a : Nat) (b : BitVec 16) :
    ({ k with latch := Sparse.set k.latch a b } : Core).memWf = true := by
  rw [Core.memWf_iff] at h ⊢; exact ⟨h.1, h.2.1, Sparse.wf_set a b h.2.2.1, h.2.2.2⟩

theorem Core.memWf_acc {k : Core} (h : k.memWf = true) (a : Nat) (b : BitVec 32) :
    ({ k with acc := Sparse.set k.acc a b } : Core).memWf = true := by
  rw [Core.memWf_iff] at h ⊢; exact ⟨h.1, h.2.1, h.2.2.1, Sparse.wf_set a b h.2.2.2⟩

/-- A cleared core's memories are empty. -/
theorem State.memWf_setSpByte {s : State} (h : s.memWf = true) (u o : Nat) (b : Byte) : (s.setSpByte u o b).memWf = true :=
  State.memWf_modCore h _ _ fun _ hk => Core.memWf_spm hk _ b

theorem State.memWf_setSpBytes {s : State} (h : s.memWf = true) (u o : Nat) (bs : List Byte) : (s.setSpBytes u o bs).memWf = true := by
  induction bs generalizing s o with
  | nil => exact h
  | cons b bs ih => exact ih (State.memWf_setSpByte h u o b) (o + 1)

theorem State.memWf_setSpTag {s : State} (h : s.memWf = true) (u o : Nat) (t : BitVec 8) : (s.setSpTag u o t).memWf = true :=
  State.memWf_modCore h _ _ fun _ hk => Core.memWf_tags hk _ t

theorem State.memWf_setSpTags {s : State} (h : s.memWf = true) (u o n : Nat) (t : BitVec 8) : (s.setSpTags u o n t).memWf = true := by
  simp only [State.setSpTags]
  split
  · exact h
  · exact foldl_keeps (fun s : State => s.memWf = true) _ (fun s i hs => State.memWf_setSpTag hs u _ t) _ _ h

/-! ## HBM -/

theorem Hbm.setByte_wf {h : Hbm} (h1 : Sparse.wf h.bytes = true) (h2 : Sparse.wf h.stale = true) (d : Nat) (b : Byte) :
    Sparse.wf (h.setByte d b).bytes = true ∧ Sparse.wf (h.setByte d b).stale = true := by
  simp only [Hbm.setByte]
  cases h.latched d && !(h.staleAt.has d)
  · exact ⟨Sparse.wf_set d b h1, h2⟩
  · exact ⟨Sparse.wf_set d b h1, Sparse.wf_set d _ h2⟩

theorem Hbm.setBytes_wf {h : Hbm} (h1 : Sparse.wf h.bytes = true) (h2 : Sparse.wf h.stale = true) (d : Nat) (bs : List Byte) :
    Sparse.wf (h.setBytes d bs).bytes = true ∧ Sparse.wf (h.setBytes d bs).stale = true := by
  induction bs generalizing h d with
  | nil => exact ⟨h1, h2⟩
  | cons b bs ih => exact ih (Hbm.setByte_wf h1 h2 d b).1 (Hbm.setByte_wf h1 h2 d b).2 (d + 1)

theorem State.memWf_setHbm {s : State} (h : s.memWf = true) (d : Nat) (bs : List Byte) : (s.setHbm d bs).memWf = true := by
  rw [State.memWf_iff] at h ⊢
  exact ⟨(Hbm.setBytes_wf h.1 h.2.1 d bs).1, (Hbm.setBytes_wf h.1 h.2.1 d bs).2, h.2.2⟩

/-- A row's write-back keeps the form. -/
theorem State.memWf_writeBack {s : State} (h : s.memWf = true) (d : Nat) : (s.writeBack d).memWf = true := by
  rw [State.memWf_iff] at h ⊢
  exact ⟨h.1, Sparse.wf_clear _ _ h.2.1, h.2.2⟩

/-- The loss of the latches keeps the form. -/
theorem State.memWf_loseLatches {s : State} (h : s.memWf = true) : s.loseLatches.memWf = true := by
  rw [State.memWf_iff] at h ⊢
  exact ⟨foldl_keeps (fun m : Memory => Sparse.wf m = true) _ (fun m a hm => Sparse.wf_set a _ hm) _ _ h.1, rfl, h.2.2⟩

theorem State.memWf_putHbm {s : State} (h : s.memWf = true) (d : Nat) (bs : List Byte) (k : Option (BitVec 12)) :
    (s.putHbm d bs k).memWf = true := by
  cases k with
  | none => exact State.memWf_setHbm h d bs
  | some k =>
    simp only [State.putHbm]
    split
    · exact h
    · exact foldl_keeps (fun s : State => s.memWf = true) _ (fun s i hs => State.memWf_setHbm hs _ _) _ _ h

/-! ## Poison -/

theorem State.memWf_setPoison {s : State} (h : s.memWf = true) (p : Place) (b : Bool) : (s.setPoison p b).memWf = true := by
  cases p with
  | spm u o => exact State.memWf_modCore h _ _ fun _ hk => hk
  | hbm d k => exact h
  | host a => exact h
  | img w u o => exact State.memWf_modImage h w u _ fun _ hi => hi

theorem State.memWf_freshSector {s : State} (h : s.memWf = true) (p : Place) : (s.freshSector p).memWf = true := by
  cases p <;> exact h

/-- Either of two canonical states. -/
theorem State.memWf_ite {c : Prop} [Decidable c] {a b : State} (ha : a.memWf = true) (hb : b.memWf = true) :
    (if c then a else b).memWf = true := by
  split
  · exact ha
  · exact hb

theorem State.memWf_mergePoison {s : State} (h : s.memWf = true) (via : Place → Place) (p : Place) (n : Nat) (f : Nat → Bool) :
    (s.mergePoison via p n f).memWf = true := by
  simp only [State.mergePoison]
  split
  · exact h
  · refine foldl_keeps (fun s : State => s.memWf = true) _ (fun s i hs => ?_) _ _ h
    have h1 : ∀ (w : Bool) q, (if w = true then s.freshSector q else s).memWf = true := fun w q => by
      cases w
      · exact hs
      · exact State.memWf_freshSector hs q
    refine State.memWf_ite ?_ (State.memWf_ite ?_ (h1 _ _))
    · exact State.memWf_setPoison (h1 _ _) _ _
    · exact State.memWf_setPoison (h1 _ _) _ _

/-! ## Places -/

/-- A raw write keeps the form. -/
theorem State.memWf_writeRaw {s : State} (h : s.memWf = true) (p : Place) (bs : List Byte) : (s.writeRaw p bs).memWf = true := by
  cases p with
  | spm u o => exact State.memWf_setSpBytes h u o bs
  | hbm d k => exact State.memWf_putHbm h d bs k
  | host a =>
    rw [State.memWf_iff] at h
    exact (State.memWf_iff _).2 ⟨h.1, h.2.1, Memory.wf_write a bs h.2.2.1, h.2.2.2⟩
  | img w u o =>
    refine State.memWf_modImage h w u _ fun i hi => ?_
    rw [Image.memWf_iff] at hi ⊢
    exact ⟨Memory.wf_write o bs hi.1, hi.2⟩

theorem State.memWf_tagFrames {s : State} (h : s.memWf = true) (p : Place) (n : Nat) (t : BitVec 8) : (s.tagFrames p n t).memWf = true := by
  cases p with
  | spm u o => exact State.memWf_setSpTags h u o n t
  | hbm d k => exact h
  | host a => exact h
  | img w u o =>
    simp only [State.tagFrames]
    split
    · exact h
    · refine State.memWf_modImage h w u _ fun i hi => ?_
      rw [Image.memWf_iff] at hi ⊢
      exact ⟨hi.1, foldl_keeps (fun m : Sparse 8 => Sparse.wf m = true) _ (fun m a hm => Sparse.wf_set _ _ hm) _ _ hi.2.1, hi.2.2⟩

/-- A write with its poison and tag keeps the form. -/
theorem State.memWf_writeTag {s : State} (h : s.memWf = true) (p : Place) (bs : List Byte) (f : Nat → Bool) (t : BitVec 8) :
    (s.writeTag p bs f t).memWf = true :=
  State.memWf_tagFrames (State.memWf_writeRaw (State.memWf_mergePoison h _ _ _ _) _ _) _ _ _

theorem State.memWf_write {s : State} (h : s.memWf = true) (p : Place) (bs : List Byte) : (s.write p bs).memWf = true :=
  State.memWf_writeTag h p bs _ 0

theorem State.memWf_writeSwzRaw {s : State} (h : s.memWf = true) (p : Place) (pat : Nat) (bs : List Byte) :
    (s.writeSwzRaw p pat bs).memWf = true := by
  induction bs generalizing s p with
  | nil => exact h
  | cons b bs ih => exact ih (State.memWf_writeRaw h _ _) _

/-- A write under a swizzle pattern keeps the form. -/
theorem State.memWf_writeSwz {s : State} (h : s.memWf = true) (p : Place) (pat : Nat) (bs : List Byte) (f : Nat → Bool) :
    (s.writeSwz p pat bs f).memWf = true :=
  State.memWf_tagFrames (State.memWf_writeSwzRaw (State.memWf_mergePoison h _ _ _ _) _ _ _) _ _ _

/-- A write over the pieces of a range keeps the form. -/
theorem State.memWf_writeAllTag {s : State} (h : s.memWf = true) (bs : List Byte) (f : Nat → Bool) (t : BitVec 8) (l : Pieces) :
    (s.writeAllTag bs f t l).memWf = true := by
  induction l generalizing s bs f with
  | nil => exact h
  | cons x l ih =>
    obtain ⟨p, n⟩ := x
    exact ih (State.memWf_writeTag h p _ f t) _ _

theorem State.memWf_writeAll {s : State} (h : s.memWf = true) (l : Pieces) (bs : List Byte) : (s.writeAll l bs).memWf = true :=
  State.memWf_writeAllTag h bs _ 0 l

/-- Words gathered from members are in canonical form. -/
theorem wf_gatherWords {w : Nat} (s : State) (c m per chunk : Nat) (live : BitVec 128) (f : Core → Sparse w) :
    Sparse.wf (gatherWords s c m per chunk live f) = true :=
  foldl_keeps (fun x : Sparse w => Sparse.wf x = true) _ (fun _ e hx => Sparse.wf_set e.1 e.2 hx) _ _ rfl

end Sys2Proof.Machine
end

