-- ==== Sys2Proof/Laws/PerInstr.lean ====
section
/-! SUPPORT. What is proved of every instruction as syntax: the word of a well-formed instruction decodes to that
instruction (R286 to R295), one lemma per constructor. -/

set_option linter.unusedSimpArgs false

namespace Sys2Proof

theorem xb_hi {a b : Nat} (u : BitVec a) (v : BitVec b) (lo n : Nat) (h : b ≤ lo) :
    (u ++ v).extractLsb' lo n = u.extractLsb' (lo - b) n := by
  apply BitVec.eq_of_getLsbD_eq
  intro i hi
  simp only [BitVec.getLsbD_extractLsb', hi, decide_true, Bool.true_and, BitVec.getLsbD_append]
  rw [if_neg (by omega)]
  exact congrArg _ (by omega)

theorem xb_lo {a b : Nat} (u : BitVec a) (v : BitVec b) (lo n : Nat) (h : lo + n ≤ b) :
    (u ++ v).extractLsb' lo n = v.extractLsb' lo n := by
  apply BitVec.eq_of_getLsbD_eq
  intro i hi
  simp only [BitVec.getLsbD_extractLsb', hi, decide_true, Bool.true_and, BitVec.getLsbD_append]
  rw [if_pos (by omega)]

theorem append_zero (a b : Nat) : (0#a ++ 0#b) = 0#(a + b) := by
  apply BitVec.eq_of_getLsbD_eq
  intro i hi
  simp [BitVec.getLsbD_append]

theorem xb_zero (w lo n : Nat) : (0#w).extractLsb' lo n = 0#n := by
  apply BitVec.eq_of_getLsbD_eq
  intro i hi
  simp
theorem xb_self {n : Nat} (v : BitVec n) : v.extractLsb' 0 n = v := by
  apply BitVec.eq_of_getLsbD_eq
  intro i hi
  simp [BitVec.getLsbD_extractLsb', hi]

theorem widthOf_code (w : Width) : widthOf w.code = w := by cases w <;> rfl
theorem widthD_wq (w : Width) (k : Width → Dec) : widthD (wq w) k = k w := by cases w <;> rfl
theorem widthD_wq' (w : Width) (k : Width → Dec) : widthD (0#2 ++ w.code) k = k w := by cases w <;> rfl
theorem intTyD_code (t : IntTy) (k : IntTy → Dec) : intTyD t.code k = k t := by rcases t with ⟨w, s⟩; cases w <;> cases s <;> rfl
theorem ftyD_code (t : FTy) (k : FTy → Dec) : ftyD t.code k = k t := by cases t <;> rfl
theorem vtyD_code (t : VTy) (k : VTy → Dec) : vtyD t.code k = k t := by cases t <;> rfl
theorem vty2D_code (t : VTy) (k : VTy → Dec) : vty2D t.code2 k = k t := by cases t <;> rfl
theorem condD_code (t : Cond) (k : Cond → Dec) : condD t.code k = k t := by cases t <;> rfl
theorem fcondD_code (t : FCond) (k : FCond → Dec) : fcondD t.code k = k t := by cases t <;> rfl
theorem rmD_code (t : Rm) (k : Rm → Dec) : rmD t.code k = k t := by cases t <;> rfl
theorem orderOf_code (t : Order) : orderOf t.code = t := by cases t <;> rfl
theorem scopeOf_code (t : Scope) : scopeOf t.code = t := by cases t <;> rfl
theorem rscopeD_code (t : RScope) (k : RScope → Dec) : rscopeD t.code k = k t := by cases t <;> rfl
theorem pszD_code (t : Psz) (k : Psz → Dec) : pszD t.code k = k t := by cases t <;> rfl
theorem atomD_code (t : AtomOp) (k : AtomOp → Dec) : atomD t.code k = k t := by cases t <;> rfl
theorem maskD_code (m : Option MReg) (k : Option MReg → Dec) : maskD (maskCode m) k = k m := by
  cases m with
  | none => rfl
  | some m => revert m; intro m; fin_cases m <;> rfl
theorem bit_eq (b : Bool) : (bit b == 1#1) = b := by cases b <;> rfl
theorem predD_code (p : Pred) (k : Pred → Dec) : predD p.code k = k p := by
  cases p with
  | pos p => fin_cases p <;> rfl
  | neg p => fin_cases p <;> rfl
  | always => rfl


theorem xb_span {a b : Nat} (v : BitVec b) (lo n : Nat) (h : lo < b) (_ : b < lo + n) :
    (0#a ++ v).extractLsb' lo n = (v.extractLsb' lo (b - lo)).setWidth n := by
  apply BitVec.eq_of_getLsbD_eq
  intro i hi
  simp only [BitVec.getLsbD_extractLsb', hi, decide_true, Bool.true_and, BitVec.getLsbD_append, BitVec.getLsbD_setWidth, BitVec.getLsbD_zero]
  by_cases h1 : lo + i < b
  · rw [if_pos h1]; simp [show i < b - lo by omega]
  · rw [if_neg h1]; simp [show ¬ i < b - lo by omega]
theorem modByte_rm (m : Option MReg) (s : Bool) (r : Rm) : (modByte m s r).extractLsb' 0 3 = r.code := by
  rw [modByte, xb_lo _ _ _ _ (by decide), xb_lo _ _ _ _ (by decide), xb_self]
theorem modByte_sat (m : Option MReg) (s : Bool) (r : Rm) : (modByte m s r).extractLsb' 3 1 = bit s := by
  rw [modByte, xb_lo _ _ _ _ (by decide), xb_hi _ _ _ _ (by decide)]; exact xb_self _
theorem modByte_mask (m : Option MReg) (s : Bool) (r : Rm) : (modByte m s r).extractLsb' 4 4 = maskCode m := by
  rw [modByte, xb_hi _ _ _ _ (by decide)]; exact xb_self _
theorem modByte_low3 (m : Option MReg) (s : Bool) : (modByte m s .rne).extractLsb' 0 3 = 0#3 := modByte_rm ..
theorem modByte_low4 (m : Option MReg) : (modByte m false .rne).extractLsb' 0 4 = 0#4 := by
  rw [modByte, xb_lo _ _ _ _ (by decide)]; rfl

theorem maskCode_none : maskCode none = 0#4 := rfl
theorem ofBool_eq (b : Bool) : (BitVec.ofBool b == 1#1) = b := by cases b <;> rfl
theorem ofBits_bit (b : Bool) : bit b = BitVec.ofBool b := rfl
theorem loopN_halves (n : BitVec 12) : n.extractLsb' 6 6 ++ n.extractLsb' 0 6 = n := by
  apply BitVec.eq_of_getLsbD_eq
  intro i hi
  simp only [BitVec.getLsbD_append, BitVec.getLsbD_extractLsb']
  by_cases h : i < 6
  · simp [h]
  · simp [h, show i - 6 < 6 by omega, show 6 + (i - 6) = i by omega]
theorem sprD_s (x : SprS) (k : SprS → Dec) (l : SprA → Dec) : sprD x.code k l = k x := by cases x <;> rfl
theorem sprD_a (x : SprA) (k : SprS → Dec) (l : SprA → Dec) : sprD x.code k l = l x := by cases x <;> rfl
theorem widthD_code (w : Width) (k : Width → Dec) : widthD (0#2 ++ w.code) k = k w := by cases w <;> rfl
theorem kindD_code (t : AccKindM) (k : AccKindM → Dec) : kindD t.code k = k t := by cases t <;> rfl
theorem fcondD_code4 (c : FCond) (k : FCond → Dec) : fcondD ((c.code.setWidth 4).setWidth 6) k = k c := by cases c <;> rfl
theorem toFin_reg (m : Fin 64) : (reg m).toFin = m := by
  apply Fin.ext; simp [reg]
theorem rne_code : Rm.rne.code = 0#3 := rfl
theorem bq_rest (b : Bool) : (bq b).extractLsb' 1 3 = 0#3 := by cases b <;> rfl
theorem bq_low (b : Bool) : (bq b)[0] = b := by cases b <;> rfl
theorem fcondD_code6 (c : FCond) (k : FCond → Dec) : fcondD (0#2 ++ c.code.setWidth 4) k = k c := by cases c <;> rfl
theorem scope_low (v : BitVec 2) (t : Scope) : (v ++ t.code).extractLsb' 0 2 = t.code := by rw [xb_lo _ _ _ _ (by decide)]; exact xb_self _
theorem fence_ord (v : BitVec 2) (t : Scope) : (v ++ t.code).toNat >>> 2 % 4 = v.toNat := by
  revert v; cases t <;> decide
theorem gregD_mk (g : GReg) (k : GReg → Dec) : gregD ⟨g⟩ k = k g := rfl
theorem mregD_zero (k : MReg → Dec) : mregD 0#6 k = k 0 := rfl
theorem sregD_zero (k : SReg → Dec) : sregD 0#6 k = k 0 := rfl
theorem pszD_zero (k : Psz → Dec) : pszD 0#2 k = k .pk256 := rfl
theorem pk256_self : (Psz.pk256 == Psz.pk256) = true := rfl
theorem intOp_fadd (op : AtomOp) : (op.code == 8#4) = false := by cases op <;> rfl
theorem intOp_faddOrd (op : AtomOp) : (op.code == 9#4) = false := by cases op <;> rfl
namespace Laws.RoundTrip

/-- The word of a well-formed instruction decodes to it. -/
def Statement (i : Instr) : Prop := ∀ w, i.wf = true → encode i = some w → decode w = .ok i

theorem of_fields (i : Instr) (h : ∀ f, i.fields = some f → decodeFields f = .ok i) : Statement i := by
  intro w hw he
  simp only [encode, Option.map_eq_some_iff] at he
  obtain ⟨f, hf, rfl⟩ := he
  simp [decode, Fields.unpack_pack, h f hf, hw]

theorem no_word (i : Instr) (h : i.fields = none) : Statement i := by
  intro w _ he
  simp [encode, h] at he


theorem add (y : Sync) (d : SReg) (a : SReg) (b : SrcB) : Statement (.add y d a b) := of_fields _ (by
  cases b <;> (intro f hf; cases hf; simp (disch := decide) [-Nat.reduceAdd, decodeFields, Fields.sync, Fields.xb, xb_hi, xb_lo, xb_span,
      append_zero, xb_zero, xb_self, ofBool_eq, bit_eq, maskCode_none, rne_code, bq_rest, bq_low, fcondD_code6, scope_low, fence_ord,
      gregD_mk, mregD_zero, sregD_zero, pszD_zero, pk256_self, intOp_fadd, intOp_faddOrd, decodeSc, decodeScInt, Fields.int3D,
      Fields.int3sD, Fields.srcBD, Fields.bit2D, Fields.psetD, widthOf_code, widthD_wq, condD_code, ofBits_bit]))
theorem sub (y : Sync) (d : SReg) (a : SReg) (b : SrcB) : Statement (.sub y d a b) := of_fields _ (by
  cases b <;> (intro f hf; cases hf; simp (disch := decide) [-Nat.reduceAdd, decodeFields, Fields.sync, Fields.xb, xb_hi, xb_lo, xb_span,
      append_zero, xb_zero, xb_self, ofBool_eq, bit_eq, maskCode_none, rne_code, bq_rest, bq_low, fcondD_code6, scope_low, fence_ord,
      gregD_mk, mregD_zero, sregD_zero, pszD_zero, pk256_self, intOp_fadd, intOp_faddOrd, decodeSc, decodeScInt, Fields.int3D,
      Fields.int3sD, Fields.srcBD, Fields.bit2D, Fields.psetD, widthOf_code, widthD_wq, condD_code, ofBits_bit]))
theorem mul (y : Sync) (d : SReg) (a : SReg) (b : SrcB) : Statement (.mul y d a b) := of_fields _ (by
  cases b <;> (intro f hf; cases hf; simp (disch := decide) [-Nat.reduceAdd, decodeFields, Fields.sync, Fields.xb, xb_hi, xb_lo, xb_span,
      append_zero, xb_zero, xb_self, ofBool_eq, bit_eq, maskCode_none, rne_code, bq_rest, bq_low, fcondD_code6, scope_low, fence_ord,
      gregD_mk, mregD_zero, sregD_zero, pszD_zero, pk256_self, intOp_fadd, intOp_faddOrd, decodeSc, decodeScInt, Fields.int3D,
      Fields.int3sD, Fields.srcBD, Fields.bit2D, Fields.psetD, widthOf_code, widthD_wq, condD_code, ofBits_bit]))
theorem mulh (y : Sync) (sg : Bool) (d : SReg) (a : SReg) (b : SrcB) : Statement (.mulh y sg d a b) := of_fields _ (by
  cases sg <;> (cases b <;> (intro f hf; cases hf; simp (disch := decide) [-Nat.reduceAdd, decodeFields, Fields.sync, Fields.xb, xb_hi,
      xb_lo, xb_span, append_zero, xb_zero, xb_self, ofBool_eq, bit_eq, maskCode_none, rne_code, bq_rest, bq_low, fcondD_code6, scope_low,
      fence_ord, gregD_mk, mregD_zero, sregD_zero, pszD_zero, pk256_self, intOp_fadd, intOp_faddOrd, decodeSc, decodeScInt, Fields.int3D,
      Fields.int3sD, Fields.srcBD, Fields.bit2D, Fields.psetD, widthOf_code, widthD_wq, condD_code, ofBits_bit])))
theorem div (y : Sync) (sg : Bool) (d : SReg) (a : SReg) (b : SrcB) : Statement (.div y sg d a b) := of_fields _ (by
  cases sg <;> (cases b <;> (intro f hf; cases hf; simp (disch := decide) [-Nat.reduceAdd, decodeFields, Fields.sync, Fields.xb, xb_hi,
      xb_lo, xb_span, append_zero, xb_zero, xb_self, ofBool_eq, bit_eq, maskCode_none, rne_code, bq_rest, bq_low, fcondD_code6, scope_low,
      fence_ord, gregD_mk, mregD_zero, sregD_zero, pszD_zero, pk256_self, intOp_fadd, intOp_faddOrd, decodeSc, decodeScInt, Fields.int3D,
      Fields.int3sD, Fields.srcBD, Fields.bit2D, Fields.psetD, widthOf_code, widthD_wq, condD_code, ofBits_bit])))
theorem rem (y : Sync) (sg : Bool) (d : SReg) (a : SReg) (b : SrcB) : Statement (.rem y sg d a b) := of_fields _ (by
  cases sg <;> (cases b <;> (intro f hf; cases hf; simp (disch := decide) [-Nat.reduceAdd, decodeFields, Fields.sync, Fields.xb, xb_hi,
      xb_lo, xb_span, append_zero, xb_zero, xb_self, ofBool_eq, bit_eq, maskCode_none, rne_code, bq_rest, bq_low, fcondD_code6, scope_low,
      fence_ord, gregD_mk, mregD_zero, sregD_zero, pszD_zero, pk256_self, intOp_fadd, intOp_faddOrd, decodeSc, decodeScInt, Fields.int3D,
      Fields.int3sD, Fields.srcBD, Fields.bit2D, Fields.psetD, widthOf_code, widthD_wq, condD_code, ofBits_bit])))
theorem min (y : Sync) (sg : Bool) (d : SReg) (a : SReg) (b : SrcB) : Statement (.min y sg d a b) := of_fields _ (by
  cases sg <;> (cases b <;> (intro f hf; cases hf; simp (disch := decide) [-Nat.reduceAdd, decodeFields, Fields.sync, Fields.xb, xb_hi,
      xb_lo, xb_span, append_zero, xb_zero, xb_self, ofBool_eq, bit_eq, maskCode_none, rne_code, bq_rest, bq_low, fcondD_code6, scope_low,
      fence_ord, gregD_mk, mregD_zero, sregD_zero, pszD_zero, pk256_self, intOp_fadd, intOp_faddOrd, decodeSc, decodeScInt, Fields.int3D,
      Fields.int3sD, Fields.srcBD, Fields.bit2D, Fields.psetD, widthOf_code, widthD_wq, condD_code, ofBits_bit])))
theorem max (y : Sync) (sg : Bool) (d : SReg) (a : SReg) (b : SrcB) : Statement (.max y sg d a b) := of_fields _ (by
  cases sg <;> (cases b <;> (intro f hf; cases hf; simp (disch := decide) [-Nat.reduceAdd, decodeFields, Fields.sync, Fields.xb, xb_hi,
      xb_lo, xb_span, append_zero, xb_zero, xb_self, ofBool_eq, bit_eq, maskCode_none, rne_code, bq_rest, bq_low, fcondD_code6, scope_low,
      fence_ord, gregD_mk, mregD_zero, sregD_zero, pszD_zero, pk256_self, intOp_fadd, intOp_faddOrd, decodeSc, decodeScInt, Fields.int3D,
      Fields.int3sD, Fields.srcBD, Fields.bit2D, Fields.psetD, widthOf_code, widthD_wq, condD_code, ofBits_bit])))
theorem and (y : Sync) (d : SReg) (a : SReg) (b : SrcB) : Statement (.and y d a b) := of_fields _ (by
  cases b <;> (intro f hf; cases hf; simp (disch := decide) [-Nat.reduceAdd, decodeFields, Fields.sync, Fields.xb, xb_hi, xb_lo, xb_span,
      append_zero, xb_zero, xb_self, ofBool_eq, bit_eq, maskCode_none, rne_code, bq_rest, bq_low, fcondD_code6, scope_low, fence_ord,
      gregD_mk, mregD_zero, sregD_zero, pszD_zero, pk256_self, intOp_fadd, intOp_faddOrd, decodeSc, decodeScInt, Fields.int3D,
      Fields.int3sD, Fields.srcBD, Fields.bit2D, Fields.psetD, widthOf_code, widthD_wq, condD_code, ofBits_bit]))
theorem or (y : Sync) (d : SReg) (a : SReg) (b : SrcB) : Statement (.or y d a b) := of_fields _ (by
  cases b <;> (intro f hf; cases hf; simp (disch := decide) [-Nat.reduceAdd, decodeFields, Fields.sync, Fields.xb, xb_hi, xb_lo, xb_span,
      append_zero, xb_zero, xb_self, ofBool_eq, bit_eq, maskCode_none, rne_code, bq_rest, bq_low, fcondD_code6, scope_low, fence_ord,
      gregD_mk, mregD_zero, sregD_zero, pszD_zero, pk256_self, intOp_fadd, intOp_faddOrd, decodeSc, decodeScInt, Fields.int3D,
      Fields.int3sD, Fields.srcBD, Fields.bit2D, Fields.psetD, widthOf_code, widthD_wq, condD_code, ofBits_bit]))
theorem xor (y : Sync) (d : SReg) (a : SReg) (b : SrcB) : Statement (.xor y d a b) := of_fields _ (by
  cases b <;> (intro f hf; cases hf; simp (disch := decide) [-Nat.reduceAdd, decodeFields, Fields.sync, Fields.xb, xb_hi, xb_lo, xb_span,
      append_zero, xb_zero, xb_self, ofBool_eq, bit_eq, maskCode_none, rne_code, bq_rest, bq_low, fcondD_code6, scope_low, fence_ord,
      gregD_mk, mregD_zero, sregD_zero, pszD_zero, pk256_self, intOp_fadd, intOp_faddOrd, decodeSc, decodeScInt, Fields.int3D,
      Fields.int3sD, Fields.srcBD, Fields.bit2D, Fields.psetD, widthOf_code, widthD_wq, condD_code, ofBits_bit]))
theorem andn (y : Sync) (d : SReg) (a : SReg) (b : SrcB) : Statement (.andn y d a b) := of_fields _ (by
  cases b <;> (intro f hf; cases hf; simp (disch := decide) [-Nat.reduceAdd, decodeFields, Fields.sync, Fields.xb, xb_hi, xb_lo, xb_span,
      append_zero, xb_zero, xb_self, ofBool_eq, bit_eq, maskCode_none, rne_code, bq_rest, bq_low, fcondD_code6, scope_low, fence_ord,
      gregD_mk, mregD_zero, sregD_zero, pszD_zero, pk256_self, intOp_fadd, intOp_faddOrd, decodeSc, decodeScInt, Fields.int3D,
      Fields.int3sD, Fields.srcBD, Fields.bit2D, Fields.psetD, widthOf_code, widthD_wq, condD_code, ofBits_bit]))
theorem shl (y : Sync) (d : SReg) (a : SReg) (b : SrcB) : Statement (.shl y d a b) := of_fields _ (by
  cases b <;> (intro f hf; cases hf; simp (disch := decide) [-Nat.reduceAdd, decodeFields, Fields.sync, Fields.xb, xb_hi, xb_lo, xb_span,
      append_zero, xb_zero, xb_self, ofBool_eq, bit_eq, maskCode_none, rne_code, bq_rest, bq_low, fcondD_code6, scope_low, fence_ord,
      gregD_mk, mregD_zero, sregD_zero, pszD_zero, pk256_self, intOp_fadd, intOp_faddOrd, decodeSc, decodeScInt, Fields.int3D,
      Fields.int3sD, Fields.srcBD, Fields.bit2D, Fields.psetD, widthOf_code, widthD_wq, condD_code, ofBits_bit]))
theorem shr (y : Sync) (d : SReg) (a : SReg) (b : SrcB) : Statement (.shr y d a b) := of_fields _ (by
  cases b <;> (intro f hf; cases hf; simp (disch := decide) [-Nat.reduceAdd, decodeFields, Fields.sync, Fields.xb, xb_hi, xb_lo, xb_span,
      append_zero, xb_zero, xb_self, ofBool_eq, bit_eq, maskCode_none, rne_code, bq_rest, bq_low, fcondD_code6, scope_low, fence_ord,
      gregD_mk, mregD_zero, sregD_zero, pszD_zero, pk256_self, intOp_fadd, intOp_faddOrd, decodeSc, decodeScInt, Fields.int3D,
      Fields.int3sD, Fields.srcBD, Fields.bit2D, Fields.psetD, widthOf_code, widthD_wq, condD_code, ofBits_bit]))
theorem sar (y : Sync) (d : SReg) (a : SReg) (b : SrcB) : Statement (.sar y d a b) := of_fields _ (by
  cases b <;> (intro f hf; cases hf; simp (disch := decide) [-Nat.reduceAdd, decodeFields, Fields.sync, Fields.xb, xb_hi, xb_lo, xb_span,
      append_zero, xb_zero, xb_self, ofBool_eq, bit_eq, maskCode_none, rne_code, bq_rest, bq_low, fcondD_code6, scope_low, fence_ord,
      gregD_mk, mregD_zero, sregD_zero, pszD_zero, pk256_self, intOp_fadd, intOp_faddOrd, decodeSc, decodeScInt, Fields.int3D,
      Fields.int3sD, Fields.srcBD, Fields.bit2D, Fields.psetD, widthOf_code, widthD_wq, condD_code, ofBits_bit]))
theorem rotr (y : Sync) (d : SReg) (a : SReg) (b : SrcB) : Statement (.rotr y d a b) := of_fields _ (by
  cases b <;> (intro f hf; cases hf; simp (disch := decide) [-Nat.reduceAdd, decodeFields, Fields.sync, Fields.xb, xb_hi, xb_lo, xb_span,
      append_zero, xb_zero, xb_self, ofBool_eq, bit_eq, maskCode_none, rne_code, bq_rest, bq_low, fcondD_code6, scope_low, fence_ord,
      gregD_mk, mregD_zero, sregD_zero, pszD_zero, pk256_self, intOp_fadd, intOp_faddOrd, decodeSc, decodeScInt, Fields.int3D,
      Fields.int3sD, Fields.srcBD, Fields.bit2D, Fields.psetD, widthOf_code, widthD_wq, condD_code, ofBits_bit]))
theorem clz (y : Sync) (w : Width) (d : SReg) (a : SReg) : Statement (.clz y w d a) := of_fields _ (by
  intro f hf; cases hf; simp (disch := decide) [-Nat.reduceAdd, decodeFields, Fields.sync, Fields.xb, xb_hi, xb_lo, xb_span, append_zero,
      xb_zero, xb_self, ofBool_eq, bit_eq, maskCode_none, rne_code, bq_rest, bq_low, fcondD_code6, scope_low, fence_ord, gregD_mk,
      mregD_zero, sregD_zero, pszD_zero, pk256_self, intOp_fadd, intOp_faddOrd, decodeSc, decodeScInt, Fields.int3D, Fields.int3sD,
      Fields.srcBD, Fields.bit2D, Fields.psetD, widthOf_code, widthD_wq, condD_code, ofBits_bit])
theorem ctz (y : Sync) (w : Width) (d : SReg) (a : SReg) : Statement (.ctz y w d a) := of_fields _ (by
  intro f hf; cases hf; simp (disch := decide) [-Nat.reduceAdd, decodeFields, Fields.sync, Fields.xb, xb_hi, xb_lo, xb_span, append_zero,
      xb_zero, xb_self, ofBool_eq, bit_eq, maskCode_none, rne_code, bq_rest, bq_low, fcondD_code6, scope_low, fence_ord, gregD_mk,
      mregD_zero, sregD_zero, pszD_zero, pk256_self, intOp_fadd, intOp_faddOrd, decodeSc, decodeScInt, Fields.int3D, Fields.int3sD,
      Fields.srcBD, Fields.bit2D, Fields.psetD, widthOf_code, widthD_wq, condD_code, ofBits_bit])
theorem popc (y : Sync) (w : Width) (d : SReg) (a : SReg) : Statement (.popc y w d a) := of_fields _ (by
  intro f hf; cases hf; simp (disch := decide) [-Nat.reduceAdd, decodeFields, Fields.sync, Fields.xb, xb_hi, xb_lo, xb_span, append_zero,
      xb_zero, xb_self, ofBool_eq, bit_eq, maskCode_none, rne_code, bq_rest, bq_low, fcondD_code6, scope_low, fence_ord, gregD_mk,
      mregD_zero, sregD_zero, pszD_zero, pk256_self, intOp_fadd, intOp_faddOrd, decodeSc, decodeScInt, Fields.int3D, Fields.int3sD,
      Fields.srcBD, Fields.bit2D, Fields.psetD, widthOf_code, widthD_wq, condD_code, ofBits_bit])
theorem bswap (y : Sync) (w : Width) (d : SReg) (a : SReg) : Statement (.bswap y w d a) := of_fields _ (by
  intro f hf; cases hf; simp (disch := decide) [-Nat.reduceAdd, decodeFields, Fields.sync, Fields.xb, xb_hi, xb_lo, xb_span, append_zero,
      xb_zero, xb_self, ofBool_eq, bit_eq, maskCode_none, rne_code, bq_rest, bq_low, fcondD_code6, scope_low, fence_ord, gregD_mk,
      mregD_zero, sregD_zero, pszD_zero, pk256_self, intOp_fadd, intOp_faddOrd, decodeSc, decodeScInt, Fields.int3D, Fields.int3sD,
      Fields.srcBD, Fields.bit2D, Fields.psetD, widthOf_code, widthD_wq, condD_code, ofBits_bit])
theorem ext (y : Sync) (sg : Bool) (d : SReg) (a : SReg) (lsb : BitVec 6) (wm1 : BitVec 6) : Statement (.ext y sg d a lsb wm1) := of_fields _ (by
  cases sg <;> (intro f hf; cases hf; simp (disch := decide) [-Nat.reduceAdd, decodeFields, Fields.sync, Fields.xb, xb_hi, xb_lo, xb_span,
      append_zero, xb_zero, xb_self, ofBool_eq, bit_eq, maskCode_none, rne_code, bq_rest, bq_low, fcondD_code6, scope_low, fence_ord,
      gregD_mk, mregD_zero, sregD_zero, pszD_zero, pk256_self, intOp_fadd, intOp_faddOrd, decodeSc, decodeScInt, Fields.int3D,
      Fields.int3sD, Fields.srcBD, Fields.bit2D, Fields.psetD, widthOf_code, widthD_wq, condD_code, ofBits_bit]))
theorem ins (y : Sync) (d : SReg) (a : SReg) (lsb : BitVec 6) (wm1 : BitVec 6) : Statement (.ins y d a lsb wm1) := of_fields _ (by
  intro f hf; cases hf; simp (disch := decide) [-Nat.reduceAdd, decodeFields, Fields.sync, Fields.xb, xb_hi, xb_lo, xb_span, append_zero,
      xb_zero, xb_self, ofBool_eq, bit_eq, maskCode_none, rne_code, bq_rest, bq_low, fcondD_code6, scope_low, fence_ord, gregD_mk,
      mregD_zero, sregD_zero, pszD_zero, pk256_self, intOp_fadd, intOp_faddOrd, decodeSc, decodeScInt, Fields.int3D, Fields.int3sD,
      Fields.srcBD, Fields.bit2D, Fields.psetD, widthOf_code, widthD_wq, condD_code, ofBits_bit])
theorem sel (y : Sync) (d : SReg) (c : PReg) (a : SReg) (b : SReg) : Statement (.sel y d c a b) := of_fields _ (by
  intro f hf; cases hf; simp (disch := decide) [-Nat.reduceAdd, decodeFields, Fields.sync, Fields.xb, xb_hi, xb_lo, xb_span, append_zero,
      xb_zero, xb_self, ofBool_eq, bit_eq, maskCode_none, rne_code, bq_rest, bq_low, fcondD_code6, scope_low, fence_ord, gregD_mk,
      mregD_zero, sregD_zero, pszD_zero, pk256_self, intOp_fadd, intOp_faddOrd, decodeSc, decodeScInt, Fields.int3D, Fields.int3sD,
      Fields.srcBD, Fields.bit2D, Fields.psetD, widthOf_code, widthD_wq, condD_code, ofBits_bit])
theorem cmp (y : Sync) (c : Cond) (d : PReg) (a : SReg) (b : SrcB) : Statement (.cmp y c d a b) := of_fields _ (by
  cases b <;> (intro f hf; cases hf; simp (disch := decide) [-Nat.reduceAdd, decodeFields, Fields.sync, Fields.xb, xb_hi, xb_lo, xb_span,
      append_zero, xb_zero, xb_self, ofBool_eq, bit_eq, maskCode_none, rne_code, bq_rest, bq_low, fcondD_code6, scope_low, fence_ord,
      gregD_mk, mregD_zero, sregD_zero, pszD_zero, pk256_self, intOp_fadd, intOp_faddOrd, decodeSc, decodeScInt, Fields.int3D,
      Fields.int3sD, Fields.srcBD, Fields.bit2D, Fields.psetD, widthOf_code, widthD_wq, condD_code, ofBits_bit]))
theorem movi (y : Sync) (d : SReg) (x : BitVec 32) : Statement (.movi y d x) := of_fields _ (by
  intro f hf; cases hf; simp (disch := decide) [-Nat.reduceAdd, decodeFields, Fields.sync, Fields.xb, xb_hi, xb_lo, xb_span, append_zero,
      xb_zero, xb_self, ofBool_eq, bit_eq, maskCode_none, rne_code, bq_rest, bq_low, fcondD_code6, scope_low, fence_ord, gregD_mk,
      mregD_zero, sregD_zero, pszD_zero, pk256_self, intOp_fadd, intOp_faddOrd, decodeSc, decodeScInt, Fields.int3D, Fields.int3sD,
      Fields.srcBD, Fields.bit2D, Fields.psetD, widthOf_code, widthD_wq, condD_code, ofBits_bit])
theorem movhi (y : Sync) (d : SReg) (x : BitVec 32) : Statement (.movhi y d x) := of_fields _ (by
  intro f hf; cases hf; simp (disch := decide) [-Nat.reduceAdd, decodeFields, Fields.sync, Fields.xb, xb_hi, xb_lo, xb_span, append_zero,
      xb_zero, xb_self, ofBool_eq, bit_eq, maskCode_none, rne_code, bq_rest, bq_low, fcondD_code6, scope_low, fence_ord, gregD_mk,
      mregD_zero, sregD_zero, pszD_zero, pk256_self, intOp_fadd, intOp_faddOrd, decodeSc, decodeScInt, Fields.int3D, Fields.int3sD,
      Fields.srcBD, Fields.bit2D, Fields.psetD, widthOf_code, widthD_wq, condD_code, ofBits_bit])
theorem mov (y : Sync) (d : SReg) (a : SReg) : Statement (.mov y d a) := of_fields _ (by
  intro f hf; cases hf; simp (disch := decide) [-Nat.reduceAdd, decodeFields, Fields.sync, Fields.xb, xb_hi, xb_lo, xb_span, append_zero,
      xb_zero, xb_self, ofBool_eq, bit_eq, maskCode_none, rne_code, bq_rest, bq_low, fcondD_code6, scope_low, fence_ord, gregD_mk,
      mregD_zero, sregD_zero, pszD_zero, pk256_self, intOp_fadd, intOp_faddOrd, decodeSc, decodeScInt, Fields.int3D, Fields.int3sD,
      Fields.srcBD, Fields.bit2D, Fields.psetD, widthOf_code, widthD_wq, condD_code, ofBits_bit])
theorem pset (y : Sync) (op : PsetOp) : Statement (.pset y op) := of_fields _ (by
  cases op <;> (intro f hf; cases hf; simp (disch := decide) [-Nat.reduceAdd, decodeFields, Fields.sync, Fields.xb, xb_hi, xb_lo, xb_span,
      append_zero, xb_zero, xb_self, ofBool_eq, bit_eq, maskCode_none, rne_code, bq_rest, bq_low, fcondD_code6, scope_low, fence_ord,
      gregD_mk, mregD_zero, sregD_zero, pszD_zero, pk256_self, intOp_fadd, intOp_faddOrd, decodeSc, decodeScInt, Fields.int3D,
      Fields.int3sD, Fields.srcBD, Fields.bit2D, Fields.psetD, widthOf_code, widthD_wq, condD_code, ofBits_bit]))
theorem sext (y : Sync) (w : Width) (d : SReg) (a : SReg) : Statement (.sext y w d a) := of_fields _ (by
  intro f hf; cases hf; simp (disch := decide) [-Nat.reduceAdd, decodeFields, Fields.sync, Fields.xb, xb_hi, xb_lo, xb_span, append_zero,
      xb_zero, xb_self, ofBool_eq, bit_eq, maskCode_none, rne_code, bq_rest, bq_low, fcondD_code6, scope_low, fence_ord, gregD_mk,
      mregD_zero, sregD_zero, pszD_zero, pk256_self, intOp_fadd, intOp_faddOrd, decodeSc, decodeScInt, Fields.int3D, Fields.int3sD,
      Fields.srcBD, Fields.bit2D, Fields.psetD, widthOf_code, widthD_wq, condD_code, ofBits_bit])
theorem zext (y : Sync) (w : Width) (d : SReg) (a : SReg) : Statement (.zext y w d a) := of_fields _ (by
  intro f hf; cases hf; simp (disch := decide) [-Nat.reduceAdd, decodeFields, Fields.sync, Fields.xb, xb_hi, xb_lo, xb_span, append_zero,
      xb_zero, xb_self, ofBool_eq, bit_eq, maskCode_none, rne_code, bq_rest, bq_low, fcondD_code6, scope_low, fence_ord, gregD_mk,
      mregD_zero, sregD_zero, pszD_zero, pk256_self, intOp_fadd, intOp_faddOrd, decodeSc, decodeScInt, Fields.int3D, Fields.int3sD,
      Fields.srcBD, Fields.bit2D, Fields.psetD, widthOf_code, widthD_wq, condD_code, ofBits_bit])
theorem fadd (y : Sync) (t : FTy) (r : RMod) (d : SReg) (a : SReg) (b : SReg) : Statement (.fadd y t r d a b) := of_fields _ (by
  intro f hf; cases hf; simp (disch := decide) [-Nat.reduceAdd, decodeFields, Fields.sync, Fields.xb, xb_hi, xb_lo, xb_span, append_zero,
      xb_zero, xb_self, ofBool_eq, bit_eq, maskCode_none, rne_code, bq_rest, bq_low, fcondD_code6, scope_low, fence_ord, gregD_mk,
      mregD_zero, sregD_zero, pszD_zero, pk256_self, intOp_fadd, intOp_faddOrd, decodeSc, decodeScFloat, Fields.fp3D, Fields.fp2D,
      Fields.fpxD, ftyD_code, intTyD_code, condD_code, fcondD_code, Fields.modD, Fields.rmodD, Fields.maskOnlyD, Fields.maskSatD, rmD_code,
      maskD_code, modByte_rm, modByte_sat, modByte_mask, modByte_low3, modByte_low4, fpX, modX, maskX, Fields.memD, Fields.gatherD,
      Fields.osD, OrdScope.code, orderOf_code, scopeOf_code])
theorem fsub (y : Sync) (t : FTy) (r : RMod) (d : SReg) (a : SReg) (b : SReg) : Statement (.fsub y t r d a b) := of_fields _ (by
  intro f hf; cases hf; simp (disch := decide) [-Nat.reduceAdd, decodeFields, Fields.sync, Fields.xb, xb_hi, xb_lo, xb_span, append_zero,
      xb_zero, xb_self, ofBool_eq, bit_eq, maskCode_none, rne_code, bq_rest, bq_low, fcondD_code6, scope_low, fence_ord, gregD_mk,
      mregD_zero, sregD_zero, pszD_zero, pk256_self, intOp_fadd, intOp_faddOrd, decodeSc, decodeScFloat, Fields.fp3D, Fields.fp2D,
      Fields.fpxD, ftyD_code, intTyD_code, condD_code, fcondD_code, Fields.modD, Fields.rmodD, Fields.maskOnlyD, Fields.maskSatD, rmD_code,
      maskD_code, modByte_rm, modByte_sat, modByte_mask, modByte_low3, modByte_low4, fpX, modX, maskX, Fields.memD, Fields.gatherD,
      Fields.osD, OrdScope.code, orderOf_code, scopeOf_code])
theorem fmul (y : Sync) (t : FTy) (r : RMod) (d : SReg) (a : SReg) (b : SReg) : Statement (.fmul y t r d a b) := of_fields _ (by
  intro f hf; cases hf; simp (disch := decide) [-Nat.reduceAdd, decodeFields, Fields.sync, Fields.xb, xb_hi, xb_lo, xb_span, append_zero,
      xb_zero, xb_self, ofBool_eq, bit_eq, maskCode_none, rne_code, bq_rest, bq_low, fcondD_code6, scope_low, fence_ord, gregD_mk,
      mregD_zero, sregD_zero, pszD_zero, pk256_self, intOp_fadd, intOp_faddOrd, decodeSc, decodeScFloat, Fields.fp3D, Fields.fp2D,
      Fields.fpxD, ftyD_code, intTyD_code, condD_code, fcondD_code, Fields.modD, Fields.rmodD, Fields.maskOnlyD, Fields.maskSatD, rmD_code,
      maskD_code, modByte_rm, modByte_sat, modByte_mask, modByte_low3, modByte_low4, fpX, modX, maskX, Fields.memD, Fields.gatherD,
      Fields.osD, OrdScope.code, orderOf_code, scopeOf_code])
theorem ffma (y : Sync) (t : FTy) (r : RMod) (d : SReg) (a : SReg) (b : SReg) (c : SReg) : Statement (.ffma y t r d a b c) := of_fields _ (by
  intro f hf; cases hf; simp (disch := decide) [-Nat.reduceAdd, decodeFields, Fields.sync, Fields.xb, xb_hi, xb_lo, xb_span, append_zero,
      xb_zero, xb_self, ofBool_eq, bit_eq, maskCode_none, rne_code, bq_rest, bq_low, fcondD_code6, scope_low, fence_ord, gregD_mk,
      mregD_zero, sregD_zero, pszD_zero, pk256_self, intOp_fadd, intOp_faddOrd, decodeSc, decodeScFloat, Fields.fp3D, Fields.fp2D,
      Fields.fpxD, ftyD_code, intTyD_code, condD_code, fcondD_code, Fields.modD, Fields.rmodD, Fields.maskOnlyD, Fields.maskSatD, rmD_code,
      maskD_code, modByte_rm, modByte_sat, modByte_mask, modByte_low3, modByte_low4, fpX, modX, maskX, Fields.memD, Fields.gatherD,
      Fields.osD, OrdScope.code, orderOf_code, scopeOf_code])
theorem fdiv (y : Sync) (t : FTy) (r : RMod) (d : SReg) (a : SReg) (b : SReg) : Statement (.fdiv y t r d a b) := of_fields _ (by
  intro f hf; cases hf; simp (disch := decide) [-Nat.reduceAdd, decodeFields, Fields.sync, Fields.xb, xb_hi, xb_lo, xb_span, append_zero,
      xb_zero, xb_self, ofBool_eq, bit_eq, maskCode_none, rne_code, bq_rest, bq_low, fcondD_code6, scope_low, fence_ord, gregD_mk,
      mregD_zero, sregD_zero, pszD_zero, pk256_self, intOp_fadd, intOp_faddOrd, decodeSc, decodeScFloat, Fields.fp3D, Fields.fp2D,
      Fields.fpxD, ftyD_code, intTyD_code, condD_code, fcondD_code, Fields.modD, Fields.rmodD, Fields.maskOnlyD, Fields.maskSatD, rmD_code,
      maskD_code, modByte_rm, modByte_sat, modByte_mask, modByte_low3, modByte_low4, fpX, modX, maskX, Fields.memD, Fields.gatherD,
      Fields.osD, OrdScope.code, orderOf_code, scopeOf_code])
theorem fsqrt (y : Sync) (t : FTy) (r : RMod) (d : SReg) (a : SReg) : Statement (.fsqrt y t r d a) := of_fields _ (by
  intro f hf; cases hf; simp (disch := decide) [-Nat.reduceAdd, decodeFields, Fields.sync, Fields.xb, xb_hi, xb_lo, xb_span, append_zero,
      xb_zero, xb_self, ofBool_eq, bit_eq, maskCode_none, rne_code, bq_rest, bq_low, fcondD_code6, scope_low, fence_ord, gregD_mk,
      mregD_zero, sregD_zero, pszD_zero, pk256_self, intOp_fadd, intOp_faddOrd, decodeSc, decodeScFloat, Fields.fp3D, Fields.fp2D,
      Fields.fpxD, ftyD_code, intTyD_code, condD_code, fcondD_code, Fields.modD, Fields.rmodD, Fields.maskOnlyD, Fields.maskSatD, rmD_code,
      maskD_code, modByte_rm, modByte_sat, modByte_mask, modByte_low3, modByte_low4, fpX, modX, maskX, Fields.memD, Fields.gatherD,
      Fields.osD, OrdScope.code, orderOf_code, scopeOf_code])
theorem fmin (y : Sync) (t : FTy) (d : SReg) (a : SReg) (b : SReg) : Statement (.fmin y t d a b) := of_fields _ (by
  intro f hf; cases hf; simp (disch := decide) [-Nat.reduceAdd, decodeFields, Fields.sync, Fields.xb, xb_hi, xb_lo, xb_span, append_zero,
      xb_zero, xb_self, ofBool_eq, bit_eq, maskCode_none, rne_code, bq_rest, bq_low, fcondD_code6, scope_low, fence_ord, gregD_mk,
      mregD_zero, sregD_zero, pszD_zero, pk256_self, intOp_fadd, intOp_faddOrd, decodeSc, decodeScFloat, Fields.fp3D, Fields.fp2D,
      Fields.fpxD, ftyD_code, intTyD_code, condD_code, fcondD_code, Fields.modD, Fields.rmodD, Fields.maskOnlyD, Fields.maskSatD, rmD_code,
      maskD_code, modByte_rm, modByte_sat, modByte_mask, modByte_low3, modByte_low4, fpX, modX, maskX, Fields.memD, Fields.gatherD,
      Fields.osD, OrdScope.code, orderOf_code, scopeOf_code])
theorem fmax (y : Sync) (t : FTy) (d : SReg) (a : SReg) (b : SReg) : Statement (.fmax y t d a b) := of_fields _ (by
  intro f hf; cases hf; simp (disch := decide) [-Nat.reduceAdd, decodeFields, Fields.sync, Fields.xb, xb_hi, xb_lo, xb_span, append_zero,
      xb_zero, xb_self, ofBool_eq, bit_eq, maskCode_none, rne_code, bq_rest, bq_low, fcondD_code6, scope_low, fence_ord, gregD_mk,
      mregD_zero, sregD_zero, pszD_zero, pk256_self, intOp_fadd, intOp_faddOrd, decodeSc, decodeScFloat, Fields.fp3D, Fields.fp2D,
      Fields.fpxD, ftyD_code, intTyD_code, condD_code, fcondD_code, Fields.modD, Fields.rmodD, Fields.maskOnlyD, Fields.maskSatD, rmD_code,
      maskD_code, modByte_rm, modByte_sat, modByte_mask, modByte_low3, modByte_low4, fpX, modX, maskX, Fields.memD, Fields.gatherD,
      Fields.osD, OrdScope.code, orderOf_code, scopeOf_code])
theorem fcmp (y : Sync) (t : FTy) (c : FCond) (d : PReg) (a : SReg) (b : SReg) : Statement (.fcmp y t c d a b) := of_fields _ (by
  intro f hf; cases hf; simp (disch := decide) [-Nat.reduceAdd, decodeFields, Fields.sync, Fields.xb, xb_hi, xb_lo, xb_span, append_zero,
      xb_zero, xb_self, ofBool_eq, bit_eq, maskCode_none, rne_code, bq_rest, bq_low, fcondD_code6, scope_low, fence_ord, gregD_mk,
      mregD_zero, sregD_zero, pszD_zero, pk256_self, intOp_fadd, intOp_faddOrd, decodeSc, decodeScFloat, Fields.fp3D, Fields.fp2D,
      Fields.fpxD, ftyD_code, intTyD_code, condD_code, fcondD_code, Fields.modD, Fields.rmodD, Fields.maskOnlyD, Fields.maskSatD, rmD_code,
      maskD_code, modByte_rm, modByte_sat, modByte_mask, modByte_low3, modByte_low4, fpX, modX, maskX, Fields.memD, Fields.gatherD,
      Fields.osD, OrdScope.code, orderOf_code, scopeOf_code])
theorem fcvt (y : Sync) (dst : FTy) (src : FTy) (r : RMod) (d : SReg) (a : SReg) : Statement (.fcvt y dst src r d a) := of_fields _ (by
  intro f hf; cases hf; simp (disch := decide) [-Nat.reduceAdd, decodeFields, Fields.sync, Fields.xb, xb_hi, xb_lo, xb_span, append_zero,
      xb_zero, xb_self, ofBool_eq, bit_eq, maskCode_none, rne_code, bq_rest, bq_low, fcondD_code6, scope_low, fence_ord, gregD_mk,
      mregD_zero, sregD_zero, pszD_zero, pk256_self, intOp_fadd, intOp_faddOrd, decodeSc, decodeScFloat, Fields.fp3D, Fields.fp2D,
      Fields.fpxD, ftyD_code, intTyD_code, condD_code, fcondD_code, Fields.modD, Fields.rmodD, Fields.maskOnlyD, Fields.maskSatD, rmD_code,
      maskD_code, modByte_rm, modByte_sat, modByte_mask, modByte_low3, modByte_low4, fpX, modX, maskX, Fields.memD, Fields.gatherD,
      Fields.osD, OrdScope.code, orderOf_code, scopeOf_code])
theorem icvtf (y : Sync) (t : FTy) (it : IntTy) (r : RMod) (d : SReg) (a : SReg) : Statement (.icvtf y t it r d a) := of_fields _ (by
  intro f hf; cases hf; simp (disch := decide) [-Nat.reduceAdd, decodeFields, Fields.sync, Fields.xb, xb_hi, xb_lo, xb_span, append_zero,
      xb_zero, xb_self, ofBool_eq, bit_eq, maskCode_none, rne_code, bq_rest, bq_low, fcondD_code6, scope_low, fence_ord, gregD_mk,
      mregD_zero, sregD_zero, pszD_zero, pk256_self, intOp_fadd, intOp_faddOrd, decodeSc, decodeScFloat, Fields.fp3D, Fields.fp2D,
      Fields.fpxD, ftyD_code, intTyD_code, condD_code, fcondD_code, Fields.modD, Fields.rmodD, Fields.maskOnlyD, Fields.maskSatD, rmD_code,
      maskD_code, modByte_rm, modByte_sat, modByte_mask, modByte_low3, modByte_low4, fpX, modX, maskX, Fields.memD, Fields.gatherD,
      Fields.osD, OrdScope.code, orderOf_code, scopeOf_code])
theorem fcvti (y : Sync) (it : IntTy) (t : FTy) (r : RMod) (d : SReg) (a : SReg) : Statement (.fcvti y it t r d a) := of_fields _ (by
  intro f hf; cases hf; simp (disch := decide) [-Nat.reduceAdd, decodeFields, Fields.sync, Fields.xb, xb_hi, xb_lo, xb_span, append_zero,
      xb_zero, xb_self, ofBool_eq, bit_eq, maskCode_none, rne_code, bq_rest, bq_low, fcondD_code6, scope_low, fence_ord, gregD_mk,
      mregD_zero, sregD_zero, pszD_zero, pk256_self, intOp_fadd, intOp_faddOrd, decodeSc, decodeScFloat, Fields.fp3D, Fields.fp2D,
      Fields.fpxD, ftyD_code, intTyD_code, condD_code, fcondD_code, Fields.modD, Fields.rmodD, Fields.maskOnlyD, Fields.maskSatD, rmD_code,
      maskD_code, modByte_rm, modByte_sat, modByte_mask, modByte_low3, modByte_low4, fpX, modX, maskX, Fields.memD, Fields.gatherD,
      Fields.osD, OrdScope.code, orderOf_code, scopeOf_code])
theorem aadd (y : Sync) (d : AReg) (a : AReg) (b : SReg) : Statement (.aadd y d a b) := of_fields _ (by
  intro f hf; cases hf; simp (disch := decide) [-Nat.reduceAdd, decodeFields, Fields.sync, Fields.xb, xb_hi, xb_lo, xb_span, append_zero,
      xb_zero, xb_self, ofBool_eq, bit_eq, maskCode_none, rne_code, bq_rest, bq_low, fcondD_code6, scope_low, fence_ord, gregD_mk,
      mregD_zero, sregD_zero, pszD_zero, pk256_self, intOp_fadd, intOp_faddOrd, decodeSc, decodeScFloat, Fields.fp3D, Fields.fp2D,
      Fields.fpxD, ftyD_code, intTyD_code, condD_code, fcondD_code, Fields.modD, Fields.rmodD, Fields.maskOnlyD, Fields.maskSatD, rmD_code,
      maskD_code, modByte_rm, modByte_sat, modByte_mask, modByte_low3, modByte_low4, fpX, modX, maskX, Fields.memD, Fields.gatherD,
      Fields.osD, OrdScope.code, orderOf_code, scopeOf_code])
theorem aaddi (y : Sync) (d : AReg) (a : AReg) (x : BitVec 32) : Statement (.aaddi y d a x) := of_fields _ (by
  intro f hf; cases hf; simp (disch := decide) [-Nat.reduceAdd, decodeFields, Fields.sync, Fields.xb, xb_hi, xb_lo, xb_span, append_zero,
      xb_zero, xb_self, ofBool_eq, bit_eq, maskCode_none, rne_code, bq_rest, bq_low, fcondD_code6, scope_low, fence_ord, gregD_mk,
      mregD_zero, sregD_zero, pszD_zero, pk256_self, intOp_fadd, intOp_faddOrd, decodeSc, decodeScFloat, Fields.fp3D, Fields.fp2D,
      Fields.fpxD, ftyD_code, intTyD_code, condD_code, fcondD_code, Fields.modD, Fields.rmodD, Fields.maskOnlyD, Fields.maskSatD, rmD_code,
      maskD_code, modByte_rm, modByte_sat, modByte_mask, modByte_low3, modByte_low4, fpX, modX, maskX, Fields.memD, Fields.gatherD,
      Fields.osD, OrdScope.code, orderOf_code, scopeOf_code])
theorem alea (y : Sync) (d : AReg) (m : MemOp) : Statement (.alea y d m) := of_fields _ (by
  intro f hf; cases hf; simp (disch := decide) [-Nat.reduceAdd, decodeFields, Fields.sync, Fields.xb, xb_hi, xb_lo, xb_span, append_zero,
      xb_zero, xb_self, ofBool_eq, bit_eq, maskCode_none, rne_code, bq_rest, bq_low, fcondD_code6, scope_low, fence_ord, gregD_mk,
      mregD_zero, sregD_zero, pszD_zero, pk256_self, intOp_fadd, intOp_faddOrd, decodeSc, decodeScFloat, Fields.fp3D, Fields.fp2D,
      Fields.fpxD, ftyD_code, intTyD_code, condD_code, fcondD_code, Fields.modD, Fields.rmodD, Fields.maskOnlyD, Fields.maskSatD, rmD_code,
      maskD_code, modByte_rm, modByte_sat, modByte_mask, modByte_low3, modByte_low4, fpX, modX, maskX, Fields.memD, Fields.gatherD,
      Fields.osD, OrdScope.code, orderOf_code, scopeOf_code])
theorem amov (y : Sync) (d : AReg) (a : AReg) : Statement (.amov y d a) := of_fields _ (by
  intro f hf; cases hf; simp (disch := decide) [-Nat.reduceAdd, decodeFields, Fields.sync, Fields.xb, xb_hi, xb_lo, xb_span, append_zero,
      xb_zero, xb_self, ofBool_eq, bit_eq, maskCode_none, rne_code, bq_rest, bq_low, fcondD_code6, scope_low, fence_ord, gregD_mk,
      mregD_zero, sregD_zero, pszD_zero, pk256_self, intOp_fadd, intOp_faddOrd, decodeSc, decodeScFloat, Fields.fp3D, Fields.fp2D,
      Fields.fpxD, ftyD_code, intTyD_code, condD_code, fcondD_code, Fields.modD, Fields.rmodD, Fields.maskOnlyD, Fields.maskSatD, rmD_code,
      maskD_code, modByte_rm, modByte_sat, modByte_mask, modByte_low3, modByte_low4, fpX, modX, maskX, Fields.memD, Fields.gatherD,
      Fields.osD, OrdScope.code, orderOf_code, scopeOf_code])
theorem aset (y : Sync) (d : AReg) (a : SReg) (b : SReg) : Statement (.aset y d a b) := of_fields _ (by
  intro f hf; cases hf; simp (disch := decide) [-Nat.reduceAdd, decodeFields, Fields.sync, Fields.xb, xb_hi, xb_lo, xb_span, append_zero,
      xb_zero, xb_self, ofBool_eq, bit_eq, maskCode_none, rne_code, bq_rest, bq_low, fcondD_code6, scope_low, fence_ord, gregD_mk,
      mregD_zero, sregD_zero, pszD_zero, pk256_self, intOp_fadd, intOp_faddOrd, decodeSc, decodeScFloat, Fields.fp3D, Fields.fp2D,
      Fields.fpxD, ftyD_code, intTyD_code, condD_code, fcondD_code, Fields.modD, Fields.rmodD, Fields.maskOnlyD, Fields.maskSatD, rmD_code,
      maskD_code, modByte_rm, modByte_sat, modByte_mask, modByte_low3, modByte_low4, fpX, modX, maskX, Fields.memD, Fields.gatherD,
      Fields.osD, OrdScope.code, orderOf_code, scopeOf_code])
theorem aget (y : Sync) (hi : Bool) (d : SReg) (a : AReg) : Statement (.aget y hi d a) := of_fields _ (by
  cases hi <;> (intro f hf; cases hf; simp (disch := decide) [-Nat.reduceAdd, decodeFields, Fields.sync, Fields.xb, xb_hi, xb_lo, xb_span,
      append_zero, xb_zero, xb_self, ofBool_eq, bit_eq, maskCode_none, rne_code, bq_rest, bq_low, fcondD_code6, scope_low, fence_ord,
      gregD_mk, mregD_zero, sregD_zero, pszD_zero, pk256_self, intOp_fadd, intOp_faddOrd, decodeSc, decodeScFloat, Fields.fp3D, Fields.fp2D,
      Fields.fpxD, ftyD_code, intTyD_code, condD_code, fcondD_code, Fields.modD, Fields.rmodD, Fields.maskOnlyD, Fields.maskSatD, rmD_code,
      maskD_code, modByte_rm, modByte_sat, modByte_mask, modByte_low3, modByte_low4, fpX, modX, maskX, Fields.memD, Fields.gatherD,
      Fields.osD, OrdScope.code, orderOf_code, scopeOf_code]))
theorem asub (y : Sync) (d : SReg) (a : AReg) (b : AReg) : Statement (.asub y d a b) := of_fields _ (by
  intro f hf; cases hf; simp (disch := decide) [-Nat.reduceAdd, decodeFields, Fields.sync, Fields.xb, xb_hi, xb_lo, xb_span, append_zero,
      xb_zero, xb_self, ofBool_eq, bit_eq, maskCode_none, rne_code, bq_rest, bq_low, fcondD_code6, scope_low, fence_ord, gregD_mk,
      mregD_zero, sregD_zero, pszD_zero, pk256_self, intOp_fadd, intOp_faddOrd, decodeSc, decodeScFloat, Fields.fp3D, Fields.fp2D,
      Fields.fpxD, ftyD_code, intTyD_code, condD_code, fcondD_code, Fields.modD, Fields.rmodD, Fields.maskOnlyD, Fields.maskSatD, rmD_code,
      maskD_code, modByte_rm, modByte_sat, modByte_mask, modByte_low3, modByte_low4, fpX, modX, maskX, Fields.memD, Fields.gatherD,
      Fields.osD, OrdScope.code, orderOf_code, scopeOf_code])
theorem acmp (y : Sync) (c : Cond) (d : PReg) (a : AReg) (b : AReg) : Statement (.acmp y c d a b) := of_fields _ (by
  intro f hf; cases hf; simp (disch := decide) [-Nat.reduceAdd, decodeFields, Fields.sync, Fields.xb, xb_hi, xb_lo, xb_span, append_zero,
      xb_zero, xb_self, ofBool_eq, bit_eq, maskCode_none, rne_code, bq_rest, bq_low, fcondD_code6, scope_low, fence_ord, gregD_mk,
      mregD_zero, sregD_zero, pszD_zero, pk256_self, intOp_fadd, intOp_faddOrd, decodeSc, decodeScFloat, Fields.fp3D, Fields.fp2D,
      Fields.fpxD, ftyD_code, intTyD_code, condD_code, fcondD_code, Fields.modD, Fields.rmodD, Fields.maskOnlyD, Fields.maskSatD, rmD_code,
      maskD_code, modByte_rm, modByte_sat, modByte_mask, modByte_low3, modByte_low4, fpX, modX, maskX, Fields.memD, Fields.gatherD,
      Fields.osD, OrdScope.code, orderOf_code, scopeOf_code])
theorem achk (y : Sync) (k : AccKind) (d : PReg) (a : AReg) (b : SReg) : Statement (.achk y k d a b) := of_fields _ (by
  cases k <;> (intro f hf; cases hf; simp (disch := decide) [-Nat.reduceAdd, decodeFields, Fields.sync, Fields.xb, xb_hi, xb_lo, xb_span,
      append_zero, xb_zero, xb_self, ofBool_eq, bit_eq, maskCode_none, rne_code, bq_rest, bq_low, fcondD_code6, scope_low, fence_ord,
      gregD_mk, mregD_zero, sregD_zero, pszD_zero, pk256_self, intOp_fadd, intOp_faddOrd, decodeSc, decodeScFloat, Fields.fp3D, Fields.fp2D,
      Fields.fpxD, ftyD_code, intTyD_code, condD_code, fcondD_code, Fields.modD, Fields.rmodD, Fields.maskOnlyD, Fields.maskSatD, rmD_code,
      maskD_code, modByte_rm, modByte_sat, modByte_mask, modByte_low3, modByte_low4, fpX, modX, maskX, Fields.memD, Fields.gatherD,
      Fields.osD, OrdScope.code, orderOf_code, scopeOf_code]))
theorem ld (y : Sync) (t : IntTy) (o : OrdScope) (d : SReg) (m : MemOp) : Statement (.ld y t o d m) := of_fields _ (by
  intro f hf; cases hf; simp (disch := decide) [-Nat.reduceAdd, decodeFields, Fields.sync, Fields.xb, xb_hi, xb_lo, xb_span, append_zero,
      xb_zero, xb_self, ofBool_eq, bit_eq, maskCode_none, rne_code, bq_rest, bq_low, fcondD_code6, scope_low, fence_ord, gregD_mk,
      mregD_zero, sregD_zero, pszD_zero, pk256_self, intOp_fadd, intOp_faddOrd, decodeSc, decodeScMem, intTyD_code, atomD_code,
      Fields.loopN, predD_code, Fields.sprMoveD, sprD_s, sprD_a, loopN_halves, Fields.memD, Fields.gatherD, Fields.osD, OrdScope.code,
      orderOf_code, scopeOf_code])
theorem st (y : Sync) (t : IntTy) (o : OrdScope) (d : SReg) (m : MemOp) : Statement (.st y t o d m) := of_fields _ (by
  intro f hf; cases hf; simp (disch := decide) [-Nat.reduceAdd, decodeFields, Fields.sync, Fields.xb, xb_hi, xb_lo, xb_span, append_zero,
      xb_zero, xb_self, ofBool_eq, bit_eq, maskCode_none, rne_code, bq_rest, bq_low, fcondD_code6, scope_low, fence_ord, gregD_mk,
      mregD_zero, sregD_zero, pszD_zero, pk256_self, intOp_fadd, intOp_faddOrd, decodeSc, decodeScMem, intTyD_code, atomD_code,
      Fields.loopN, predD_code, Fields.sprMoveD, sprD_s, sprD_a, loopN_halves, Fields.memD, Fields.gatherD, Fields.osD, OrdScope.code,
      orderOf_code, scopeOf_code])
theorem lda (y : Sync) (o : OrdScope) (d : AReg) (m : MemOp) : Statement (.lda y o d m) := of_fields _ (by
  intro f hf; cases hf; simp (disch := decide) [-Nat.reduceAdd, decodeFields, Fields.sync, Fields.xb, xb_hi, xb_lo, xb_span, append_zero,
      xb_zero, xb_self, ofBool_eq, bit_eq, maskCode_none, rne_code, bq_rest, bq_low, fcondD_code6, scope_low, fence_ord, gregD_mk,
      mregD_zero, sregD_zero, pszD_zero, pk256_self, intOp_fadd, intOp_faddOrd, decodeSc, decodeScMem, intTyD_code, atomD_code,
      Fields.loopN, predD_code, Fields.sprMoveD, sprD_s, sprD_a, loopN_halves, Fields.memD, Fields.gatherD, Fields.osD, OrdScope.code,
      orderOf_code, scopeOf_code])
theorem sta (y : Sync) (o : OrdScope) (d : AReg) (m : MemOp) : Statement (.sta y o d m) := of_fields _ (by
  intro f hf; cases hf; simp (disch := decide) [-Nat.reduceAdd, decodeFields, Fields.sync, Fields.xb, xb_hi, xb_lo, xb_span, append_zero,
      xb_zero, xb_self, ofBool_eq, bit_eq, maskCode_none, rne_code, bq_rest, bq_low, fcondD_code6, scope_low, fence_ord, gregD_mk,
      mregD_zero, sregD_zero, pszD_zero, pk256_self, intOp_fadd, intOp_faddOrd, decodeSc, decodeScMem, intTyD_code, atomD_code,
      Fields.loopN, predD_code, Fields.sprMoveD, sprD_s, sprD_a, loopN_halves, Fields.memD, Fields.gatherD, Fields.osD, OrdScope.code,
      orderOf_code, scopeOf_code])
theorem atom (y : Sync) (op : AtomOp) (t : IntTy) (o : OrdScope) (d : SReg) (i : SReg) (base : AReg) (disp : BitVec 28) : Statement (.atom y
    op t o d i base disp) := of_fields _ (by
  intro f hf; cases hf; simp (disch := decide) [-Nat.reduceAdd, decodeFields, Fields.sync, Fields.xb, xb_hi, xb_lo, xb_span, append_zero,
      xb_zero, xb_self, ofBool_eq, bit_eq, maskCode_none, rne_code, bq_rest, bq_low, fcondD_code6, scope_low, fence_ord, gregD_mk,
      mregD_zero, sregD_zero, pszD_zero, pk256_self, intOp_fadd, intOp_faddOrd, decodeSc, decodeScMem, intTyD_code, atomD_code,
      Fields.loopN, predD_code, Fields.sprMoveD, sprD_s, sprD_a, loopN_halves, Fields.memD, Fields.gatherD, Fields.osD, OrdScope.code,
      orderOf_code, scopeOf_code])
theorem cas (y : Sync) (t : IntTy) (o : OrdScope) (d : SReg) (i : SReg) (base : AReg) (disp : BitVec 28) : Statement (.cas y t o d i base
    disp) := of_fields _ (by
  intro f hf; cases hf; simp (disch := decide) [-Nat.reduceAdd, decodeFields, Fields.sync, Fields.xb, xb_hi, xb_lo, xb_span, append_zero,
      xb_zero, xb_self, ofBool_eq, bit_eq, maskCode_none, rne_code, bq_rest, bq_low, fcondD_code6, scope_low, fence_ord, gregD_mk,
      mregD_zero, sregD_zero, pszD_zero, pk256_self, intOp_fadd, intOp_faddOrd, decodeSc, decodeScMem, intTyD_code, atomD_code,
      Fields.loopN, predD_code, Fields.sprMoveD, sprD_s, sprD_a, loopN_halves, Fields.memD, Fields.gatherD, Fields.osD, OrdScope.code,
      orderOf_code, scopeOf_code])
theorem pref (y : Sync) (sc : Scope) (m : MemOp) : Statement (.pref y sc m) := of_fields _ (by
  intro f hf; cases hf; simp (disch := decide) [-Nat.reduceAdd, decodeFields, Fields.sync, Fields.xb, xb_hi, xb_lo, xb_span, append_zero,
      xb_zero, xb_self, ofBool_eq, bit_eq, maskCode_none, rne_code, bq_rest, bq_low, fcondD_code6, scope_low, fence_ord, gregD_mk,
      mregD_zero, sregD_zero, pszD_zero, pk256_self, intOp_fadd, intOp_faddOrd, decodeSc, decodeScMem, intTyD_code, atomD_code,
      Fields.loopN, predD_code, Fields.sprMoveD, sprD_s, sprD_a, loopN_halves, Fields.memD, Fields.gatherD, Fields.osD, OrdScope.code,
      orderOf_code, scopeOf_code])
theorem br (y : Sync) (disp : BitVec 32) : Statement (.br y disp) := of_fields _ (by
  intro f hf; cases hf; simp (disch := decide) [-Nat.reduceAdd, decodeFields, Fields.sync, Fields.xb, xb_hi, xb_lo, xb_span, append_zero,
      xb_zero, xb_self, ofBool_eq, bit_eq, maskCode_none, rne_code, bq_rest, bq_low, fcondD_code6, scope_low, fence_ord, gregD_mk,
      mregD_zero, sregD_zero, pszD_zero, pk256_self, intOp_fadd, intOp_faddOrd, decodeSc, decodeScMem, intTyD_code, atomD_code,
      Fields.loopN, predD_code, Fields.sprMoveD, sprD_s, sprD_a, loopN_halves, Fields.memD, Fields.gatherD, Fields.osD, OrdScope.code,
      orderOf_code, scopeOf_code])
theorem brp (y : Sync) (p : Pred) (disp : BitVec 32) : Statement (.brp y p disp) := of_fields _ (by
  intro f hf; cases hf; simp (disch := decide) [-Nat.reduceAdd, decodeFields, Fields.sync, Fields.xb, xb_hi, xb_lo, xb_span, append_zero,
      xb_zero, xb_self, ofBool_eq, bit_eq, maskCode_none, rne_code, bq_rest, bq_low, fcondD_code6, scope_low, fence_ord, gregD_mk,
      mregD_zero, sregD_zero, pszD_zero, pk256_self, intOp_fadd, intOp_faddOrd, decodeSc, decodeScMem, intTyD_code, atomD_code,
      Fields.loopN, predD_code, Fields.sprMoveD, sprD_s, sprD_a, loopN_halves, Fields.memD, Fields.gatherD, Fields.osD, OrdScope.code,
      orderOf_code, scopeOf_code])
theorem jmp (y : Sync) (a : AReg) : Statement (.jmp y a) := of_fields _ (by
  intro f hf; cases hf; simp (disch := decide) [-Nat.reduceAdd, decodeFields, Fields.sync, Fields.xb, xb_hi, xb_lo, xb_span, append_zero,
      xb_zero, xb_self, ofBool_eq, bit_eq, maskCode_none, rne_code, bq_rest, bq_low, fcondD_code6, scope_low, fence_ord, gregD_mk,
      mregD_zero, sregD_zero, pszD_zero, pk256_self, intOp_fadd, intOp_faddOrd, decodeSc, decodeScMem, intTyD_code, atomD_code,
      Fields.loopN, predD_code, Fields.sprMoveD, sprD_s, sprD_a, loopN_halves, Fields.memD, Fields.gatherD, Fields.osD, OrdScope.code,
      orderOf_code, scopeOf_code])
theorem call (y : Sync) (disp : BitVec 32) : Statement (.call y disp) := of_fields _ (by
  intro f hf; cases hf; simp (disch := decide) [-Nat.reduceAdd, decodeFields, Fields.sync, Fields.xb, xb_hi, xb_lo, xb_span, append_zero,
      xb_zero, xb_self, ofBool_eq, bit_eq, maskCode_none, rne_code, bq_rest, bq_low, fcondD_code6, scope_low, fence_ord, gregD_mk,
      mregD_zero, sregD_zero, pszD_zero, pk256_self, intOp_fadd, intOp_faddOrd, decodeSc, decodeScMem, intTyD_code, atomD_code,
      Fields.loopN, predD_code, Fields.sprMoveD, sprD_s, sprD_a, loopN_halves, Fields.memD, Fields.gatherD, Fields.osD, OrdScope.code,
      orderOf_code, scopeOf_code])
theorem calla (y : Sync) (d : AReg) (a : AReg) : Statement (.calla y d a) := of_fields _ (by
  intro f hf; cases hf; simp (disch := decide) [-Nat.reduceAdd, decodeFields, Fields.sync, Fields.xb, xb_hi, xb_lo, xb_span, append_zero,
      xb_zero, xb_self, ofBool_eq, bit_eq, maskCode_none, rne_code, bq_rest, bq_low, fcondD_code6, scope_low, fence_ord, gregD_mk,
      mregD_zero, sregD_zero, pszD_zero, pk256_self, intOp_fadd, intOp_faddOrd, decodeSc, decodeScMem, intTyD_code, atomD_code,
      Fields.loopN, predD_code, Fields.sprMoveD, sprD_s, sprD_a, loopN_halves, Fields.memD, Fields.gatherD, Fields.osD, OrdScope.code,
      orderOf_code, scopeOf_code])
theorem ret (y : Sync) (a : AReg) : Statement (.ret y a) := of_fields _ (by
  intro f hf; cases hf; simp (disch := decide) [-Nat.reduceAdd, decodeFields, Fields.sync, Fields.xb, xb_hi, xb_lo, xb_span, append_zero,
      xb_zero, xb_self, ofBool_eq, bit_eq, maskCode_none, rne_code, bq_rest, bq_low, fcondD_code6, scope_low, fence_ord, gregD_mk,
      mregD_zero, sregD_zero, pszD_zero, pk256_self, intOp_fadd, intOp_faddOrd, decodeSc, decodeScMem, intTyD_code, atomD_code,
      Fields.loopN, predD_code, Fields.sprMoveD, sprD_s, sprD_a, loopN_halves, Fields.memD, Fields.gatherD, Fields.osD, OrdScope.code,
      orderOf_code, scopeOf_code])
theorem loop (y : Sync) (a : SReg) (n : BitVec 12) : Statement (.loop y a n) := of_fields _ (by
  intro f hf; cases hf; simp (disch := decide) [-Nat.reduceAdd, decodeFields, Fields.sync, Fields.xb, xb_hi, xb_lo, xb_span, append_zero,
      xb_zero, xb_self, ofBool_eq, bit_eq, maskCode_none, rne_code, bq_rest, bq_low, fcondD_code6, scope_low, fence_ord, gregD_mk,
      mregD_zero, sregD_zero, pszD_zero, pk256_self, intOp_fadd, intOp_faddOrd, decodeSc, decodeScMem, intTyD_code, atomD_code,
      Fields.loopN, predD_code, Fields.sprMoveD, sprD_s, sprD_a, loopN_halves, Fields.memD, Fields.gatherD, Fields.osD, OrdScope.code,
      orderOf_code, scopeOf_code])
theorem loopi (y : Sync) (x : BitVec 32) (n : BitVec 12) : Statement (.loopi y x n) := of_fields _ (by
  intro f hf; cases hf; simp (disch := decide) [-Nat.reduceAdd, decodeFields, Fields.sync, Fields.xb, xb_hi, xb_lo, xb_span, append_zero,
      xb_zero, xb_self, ofBool_eq, bit_eq, maskCode_none, rne_code, bq_rest, bq_low, fcondD_code6, scope_low, fence_ord, gregD_mk,
      mregD_zero, sregD_zero, pszD_zero, pk256_self, intOp_fadd, intOp_faddOrd, decodeSc, decodeScMem, intTyD_code, atomD_code,
      Fields.loopN, predD_code, Fields.sprMoveD, sprD_s, sprD_a, loopN_halves, Fields.memD, Fields.gatherD, Fields.osD, OrdScope.code,
      orderOf_code, scopeOf_code])
theorem loopmb (y : Sync) (a : MbReg) (n : BitVec 12) : Statement (.loopmb y a n) := of_fields _ (by
  intro f hf; cases hf; simp (disch := decide) [-Nat.reduceAdd, decodeFields, Fields.sync, Fields.xb, xb_hi, xb_lo, xb_span, append_zero,
      xb_zero, xb_self, ofBool_eq, bit_eq, maskCode_none, rne_code, bq_rest, bq_low, fcondD_code6, scope_low, fence_ord, gregD_mk,
      mregD_zero, sregD_zero, pszD_zero, pk256_self, intOp_fadd, intOp_faddOrd, decodeSc, decodeScMem, intTyD_code, atomD_code,
      Fields.loopN, predD_code, Fields.sprMoveD, sprD_s, sprD_a, loopN_halves, Fields.memD, Fields.gatherD, Fields.osD, OrdScope.code,
      orderOf_code, scopeOf_code])
theorem lpbrk (y : Sync) (p : Pred) (k : BitVec 3) : Statement (.lpbrk y p k) := of_fields _ (by
  intro f hf; cases hf; simp (disch := decide) [-Nat.reduceAdd, decodeFields, Fields.sync, Fields.xb, xb_hi, xb_lo, xb_span, append_zero,
      xb_zero, xb_self, ofBool_eq, bit_eq, maskCode_none, rne_code, bq_rest, bq_low, fcondD_code6, scope_low, fence_ord, gregD_mk,
      mregD_zero, sregD_zero, pszD_zero, pk256_self, intOp_fadd, intOp_faddOrd, decodeSc, decodeScMem, intTyD_code, atomD_code,
      Fields.loopN, predD_code, Fields.sprMoveD, sprD_s, sprD_a, loopN_halves, Fields.memD, Fields.gatherD, Fields.osD, OrdScope.code,
      orderOf_code, scopeOf_code])
theorem srd (y : Sync) (x : SprMove) : Statement (.srd y x) := of_fields _ (by
  cases x <;> (intro f hf; cases hf; simp (disch := decide) [-Nat.reduceAdd, decodeFields, Fields.sync, Fields.xb, xb_hi, xb_lo, xb_span,
      append_zero, xb_zero, xb_self, ofBool_eq, bit_eq, maskCode_none, rne_code, bq_rest, bq_low, fcondD_code6, scope_low, fence_ord,
      gregD_mk, mregD_zero, sregD_zero, pszD_zero, pk256_self, intOp_fadd, intOp_faddOrd, decodeSc, decodeScMem, intTyD_code, atomD_code,
      Fields.loopN, predD_code, Fields.sprMoveD, sprD_s, sprD_a, loopN_halves, Fields.memD, Fields.gatherD, Fields.osD, OrdScope.code,
      orderOf_code, scopeOf_code]))
theorem swr (y : Sync) (x : SprMove) : Statement (.swr y x) := of_fields _ (by
  cases x <;> (intro f hf; cases hf; simp (disch := decide) [-Nat.reduceAdd, decodeFields, Fields.sync, Fields.xb, xb_hi, xb_lo, xb_span,
      append_zero, xb_zero, xb_self, ofBool_eq, bit_eq, maskCode_none, rne_code, bq_rest, bq_low, fcondD_code6, scope_low, fence_ord,
      gregD_mk, mregD_zero, sregD_zero, pszD_zero, pk256_self, intOp_fadd, intOp_faddOrd, decodeSc, decodeScMem, intTyD_code, atomD_code,
      Fields.loopN, predD_code, Fields.sprMoveD, sprD_s, sprD_a, loopN_halves, Fields.memD, Fields.gatherD, Fields.osD, OrdScope.code,
      orderOf_code, scopeOf_code]))
theorem mbrd (y : Sync) (d : SReg) (a : MbReg) : Statement (.mbrd y d a) := of_fields _ (by
  intro f hf; cases hf; simp (disch := decide) [-Nat.reduceAdd, decodeFields, Fields.sync, Fields.xb, xb_hi, xb_lo, xb_span, append_zero,
      xb_zero, xb_self, ofBool_eq, bit_eq, maskCode_none, rne_code, bq_rest, bq_low, fcondD_code6, scope_low, fence_ord, gregD_mk,
      mregD_zero, sregD_zero, pszD_zero, pk256_self, intOp_fadd, intOp_faddOrd, decodeSc, decodeScMem, intTyD_code, atomD_code,
      Fields.loopN, predD_code, Fields.sprMoveD, sprD_s, sprD_a, loopN_halves, Fields.memD, Fields.gatherD, Fields.osD, OrdScope.code,
      orderOf_code, scopeOf_code])
theorem mbwr (y : Sync) (d : MbReg) (a : SReg) : Statement (.mbwr y d a) := of_fields _ (by
  intro f hf; cases hf; simp (disch := decide) [-Nat.reduceAdd, decodeFields, Fields.sync, Fields.xb, xb_hi, xb_lo, xb_span, append_zero,
      xb_zero, xb_self, ofBool_eq, bit_eq, maskCode_none, rne_code, bq_rest, bq_low, fcondD_code6, scope_low, fence_ord, gregD_mk,
      mregD_zero, sregD_zero, pszD_zero, pk256_self, intOp_fadd, intOp_faddOrd, decodeSc, decodeScMem, intTyD_code, atomD_code,
      Fields.loopN, predD_code, Fields.sprMoveD, sprD_s, sprD_a, loopN_halves, Fields.memD, Fields.gatherD, Fields.osD, OrdScope.code,
      orderOf_code, scopeOf_code])
theorem nop (y : Sync) : Statement (.nop y) := of_fields _ (by
  intro f hf; cases hf; simp (disch := decide) [-Nat.reduceAdd, decodeFields, Fields.sync, Fields.xb, xb_hi, xb_lo, xb_span, append_zero,
      xb_zero, xb_self, ofBool_eq, bit_eq, maskCode_none, rne_code, bq_rest, bq_low, fcondD_code6, scope_low, fence_ord, gregD_mk,
      mregD_zero, sregD_zero, pszD_zero, pk256_self, intOp_fadd, intOp_faddOrd, decodeSc, decodeScMem, intTyD_code, atomD_code,
      Fields.loopN, predD_code, Fields.sprMoveD, sprD_s, sprD_a, loopN_halves, Fields.memD, Fields.gatherD, Fields.osD, OrdScope.code,
      orderOf_code, scopeOf_code])
theorem semwait (y : Sync) (n : BitVec 8) (k : Cnt) : Statement (.semwait y n k) := of_fields _ (by
  cases k <;> (intro f hf; cases hf; simp (disch := decide) [-Nat.reduceAdd, decodeFields, Fields.sync, Fields.xb, xb_hi, xb_lo, xb_span,
      append_zero, xb_zero, xb_self, ofBool_eq, bit_eq, maskCode_none, rne_code, bq_rest, bq_low, fcondD_code6, scope_low, fence_ord,
      gregD_mk, mregD_zero, sregD_zero, pszD_zero, pk256_self, intOp_fadd, intOp_faddOrd, decodeSy, Fields.cntD, intTyD_code, condD_code,
      scopeOf_code, widthD_wq]))
theorem semsig (y : Sync) (n : BitVec 8) (k : Cnt) : Statement (.semsig y n k) := of_fields _ (by
  cases k <;> (intro f hf; cases hf; simp (disch := decide) [-Nat.reduceAdd, decodeFields, Fields.sync, Fields.xb, xb_hi, xb_lo, xb_span,
      append_zero, xb_zero, xb_self, ofBool_eq, bit_eq, maskCode_none, rne_code, bq_rest, bq_low, fcondD_code6, scope_low, fence_ord,
      gregD_mk, mregD_zero, sregD_zero, pszD_zero, pk256_self, intOp_fadd, intOp_faddOrd, decodeSy, Fields.cntD, intTyD_code, condD_code,
      scopeOf_code, widthD_wq]))
theorem semset (y : Sync) (n : BitVec 8) (k : Cnt) : Statement (.semset y n k) := of_fields _ (by
  cases k <;> (intro f hf; cases hf; simp (disch := decide) [-Nat.reduceAdd, decodeFields, Fields.sync, Fields.xb, xb_hi, xb_lo, xb_span,
      append_zero, xb_zero, xb_self, ofBool_eq, bit_eq, maskCode_none, rne_code, bq_rest, bq_low, fcondD_code6, scope_low, fence_ord,
      gregD_mk, mregD_zero, sregD_zero, pszD_zero, pk256_self, intOp_fadd, intOp_faddOrd, decodeSy, Fields.cntD, intTyD_code, condD_code,
      scopeOf_code, widthD_wq]))
theorem semrd (y : Sync) (d : SReg) (n : BitVec 8) : Statement (.semrd y d n) := of_fields _ (by
  intro f hf; cases hf; simp (disch := decide) [-Nat.reduceAdd, decodeFields, Fields.sync, Fields.xb, xb_hi, xb_lo, xb_span, append_zero,
      xb_zero, xb_self, ofBool_eq, bit_eq, maskCode_none, rne_code, bq_rest, bq_low, fcondD_code6, scope_low, fence_ord, gregD_mk,
      mregD_zero, sregD_zero, pszD_zero, pk256_self, intOp_fadd, intOp_faddOrd, decodeSy, Fields.cntD, intTyD_code, condD_code,
      scopeOf_code, widthD_wq])
theorem semcfg (y : Sync) (n : BitVec 8) (e : Bool) : Statement (.semcfg y n e) := of_fields _ (by
  cases e <;> (intro f hf; cases hf; simp (disch := decide) [-Nat.reduceAdd, decodeFields, Fields.sync, Fields.xb, xb_hi, xb_lo, xb_span,
      append_zero, xb_zero, xb_self, ofBool_eq, bit_eq, maskCode_none, rne_code, bq_rest, bq_low, fcondD_code6, scope_low, fence_ord,
      gregD_mk, mregD_zero, sregD_zero, pszD_zero, pk256_self, intOp_fadd, intOp_faddOrd, decodeSy, Fields.cntD, intTyD_code, condD_code,
      scopeOf_code, widthD_wq]))
theorem qjoin (y : Sync) (m : BitVec 5) : Statement (.qjoin y m) := of_fields _ (by
  intro f hf; cases hf; simp (disch := decide) [-Nat.reduceAdd, decodeFields, Fields.sync, Fields.xb, xb_hi, xb_lo, xb_span, append_zero,
      xb_zero, xb_self, ofBool_eq, bit_eq, maskCode_none, rne_code, bq_rest, bq_low, fcondD_code6, scope_low, fence_ord, gregD_mk,
      mregD_zero, sregD_zero, pszD_zero, pk256_self, intOp_fadd, intOp_faddOrd, decodeSy, Fields.cntD, intTyD_code, condD_code,
      scopeOf_code, widthD_wq])
theorem fence (y : Sync) (o : FenceOrd) (sc : Scope) : Statement (.fence y o sc) := of_fields _ (by
  cases o <;> (intro f hf; cases hf; simp (disch := decide) [-Nat.reduceAdd, decodeFields, Fields.sync, Fields.xb, xb_hi, xb_lo, xb_span,
      append_zero, xb_zero, xb_self, ofBool_eq, bit_eq, maskCode_none, rne_code, bq_rest, bq_low, fcondD_code6, scope_low, fence_ord,
      gregD_mk, mregD_zero, sregD_zero, pszD_zero, pk256_self, intOp_fadd, intOp_faddOrd, decodeSy, Fields.cntD, intTyD_code, condD_code,
      scopeOf_code, widthD_wq]))
theorem mwait (y : Sync) (t : IntTy) (c : Cond) (sc : Scope) (d : SReg) (a : AReg) (b : SReg) : Statement (.mwait y t c sc d a b) := of_fields _ (by
  intro f hf; cases hf; simp (disch := decide) [-Nat.reduceAdd, decodeFields, Fields.sync, Fields.xb, xb_hi, xb_lo, xb_span, append_zero,
      xb_zero, xb_self, ofBool_eq, bit_eq, maskCode_none, rne_code, bq_rest, bq_low, fcondD_code6, scope_low, fence_ord, gregD_mk,
      mregD_zero, sregD_zero, pszD_zero, pk256_self, intOp_fadd, intOp_faddOrd, decodeSy, Fields.cntD, intTyD_code, condD_code,
      scopeOf_code, widthD_wq])
theorem lwinit (y : Sync) (a : AReg) (b : SReg) (c : SReg) (sem : Option (BitVec 8)) : Statement (.lwinit y a b c sem) := of_fields _ (by
  cases sem <;> (intro f hf; cases hf; simp (disch := decide) [-Nat.reduceAdd, decodeFields, Fields.sync, Fields.xb, xb_hi, xb_lo, xb_span,
      append_zero, xb_zero, xb_self, ofBool_eq, bit_eq, maskCode_none, rne_code, bq_rest, bq_low, fcondD_code6, scope_low, fence_ord,
      gregD_mk, mregD_zero, sregD_zero, pszD_zero, pk256_self, intOp_fadd, intOp_faddOrd, decodeSy, Fields.cntD, intTyD_code, condD_code,
      scopeOf_code, widthD_wq]))
theorem lwwait (y : Sync) (d : SReg) (a : AReg) (g : Cnt) : Statement (.lwwait y d a g) := of_fields _ (by
  cases g <;> (intro f hf; cases hf; simp (disch := decide) [-Nat.reduceAdd, decodeFields, Fields.sync, Fields.xb, xb_hi, xb_lo, xb_span,
      append_zero, xb_zero, xb_self, ofBool_eq, bit_eq, maskCode_none, rne_code, bq_rest, bq_low, fcondD_code6, scope_low, fence_ord,
      gregD_mk, mregD_zero, sregD_zero, pszD_zero, pk256_self, intOp_fadd, intOp_faddOrd, decodeSy, Fields.cntD, intTyD_code, condD_code,
      scopeOf_code, widthD_wq]))
theorem lwrd (y : Sync) (d : SReg) (a : AReg) : Statement (.lwrd y d a) := of_fields _ (by
  intro f hf; cases hf; simp (disch := decide) [-Nat.reduceAdd, decodeFields, Fields.sync, Fields.xb, xb_hi, xb_lo, xb_span, append_zero,
      xb_zero, xb_self, ofBool_eq, bit_eq, maskCode_none, rne_code, bq_rest, bq_low, fcondD_code6, scope_low, fence_ord, gregD_mk,
      mregD_zero, sregD_zero, pszD_zero, pk256_self, intOp_fadd, intOp_faddOrd, decodeSy, Fields.cntD, intTyD_code, condD_code,
      scopeOf_code, widthD_wq])
theorem barinit (y : Sync) (b : BarReg) (m : MaskSrc) : Statement (.barinit y b m) := of_fields _ (by
  cases m <;> (intro f hf; cases hf; simp (disch := decide) [-Nat.reduceAdd, decodeFields, Fields.sync, Fields.xb, xb_hi, xb_lo, xb_span,
      append_zero, xb_zero, xb_self, ofBool_eq, bit_eq, maskCode_none, rne_code, bq_rest, bq_low, fcondD_code6, scope_low, fence_ord,
      gregD_mk, mregD_zero, sregD_zero, pszD_zero, pk256_self, intOp_fadd, intOp_faddOrd, decodeSy, Fields.cntD, intTyD_code, condD_code,
      scopeOf_code, widthD_wq]))
theorem bararr (y : Sync) (d : SReg) (b : BarReg) : Statement (.bararr y d b) := of_fields _ (by
  intro f hf; cases hf; simp (disch := decide) [-Nat.reduceAdd, decodeFields, Fields.sync, Fields.xb, xb_hi, xb_lo, xb_span, append_zero,
      xb_zero, xb_self, ofBool_eq, bit_eq, maskCode_none, rne_code, bq_rest, bq_low, fcondD_code6, scope_low, fence_ord, gregD_mk,
      mregD_zero, sregD_zero, pszD_zero, pk256_self, intOp_fadd, intOp_faddOrd, decodeSy, Fields.cntD, intTyD_code, condD_code,
      scopeOf_code, widthD_wq])
theorem barwait (y : Sync) (b : BarReg) (p : SReg) : Statement (.barwait y b p) := of_fields _ (by
  intro f hf; cases hf; simp (disch := decide) [-Nat.reduceAdd, decodeFields, Fields.sync, Fields.xb, xb_hi, xb_lo, xb_span, append_zero,
      xb_zero, xb_self, ofBool_eq, bit_eq, maskCode_none, rne_code, bq_rest, bq_low, fcondD_code6, scope_low, fence_ord, gregD_mk,
      mregD_zero, sregD_zero, pszD_zero, pk256_self, intOp_fadd, intOp_faddOrd, decodeSy, Fields.cntD, intTyD_code, condD_code,
      scopeOf_code, widthD_wq])
theorem spawn (y : Sync) (d : SReg) (a : AReg) : Statement (.spawn y d a) := of_fields _ (by
  intro f hf; cases hf; simp (disch := decide) [-Nat.reduceAdd, decodeFields, Fields.sync, Fields.xb, xb_hi, xb_lo, xb_span, append_zero,
      xb_zero, xb_self, ofBool_eq, bit_eq, maskCode_none, rne_code, bq_rest, bq_low, fcondD_code6, scope_low, fence_ord, gregD_mk,
      mregD_zero, sregD_zero, pszD_zero, pk256_self, intOp_fadd, intOp_faddOrd, decodeSy, Fields.cntD, intTyD_code, condD_code,
      scopeOf_code, widthD_wq])
theorem yieldTask (y : Sync) : Statement (.yieldTask y) := of_fields _ (by
  intro f hf; cases hf; simp (disch := decide) [-Nat.reduceAdd, decodeFields, Fields.sync, Fields.xb, xb_hi, xb_lo, xb_span, append_zero,
      xb_zero, xb_self, ofBool_eq, bit_eq, maskCode_none, rne_code, bq_rest, bq_low, fcondD_code6, scope_low, fence_ord, gregD_mk,
      mregD_zero, sregD_zero, pszD_zero, pk256_self, intOp_fadd, intOp_faddOrd, decodeSy, Fields.cntD, intTyD_code, condD_code,
      scopeOf_code, widthD_wq])
theorem texit (y : Sync) : Statement (.texit y) := of_fields _ (by
  intro f hf; cases hf; simp (disch := decide) [-Nat.reduceAdd, decodeFields, Fields.sync, Fields.xb, xb_hi, xb_lo, xb_span, append_zero,
      xb_zero, xb_self, ofBool_eq, bit_eq, maskCode_none, rne_code, bq_rest, bq_low, fcondD_code6, scope_low, fence_ord, gregD_mk,
      mregD_zero, sregD_zero, pszD_zero, pk256_self, intOp_fadd, intOp_faddOrd, decodeSy, Fields.cntD, intTyD_code, condD_code,
      scopeOf_code, widthD_wq])
theorem setclass (y : Sync) (d : SReg) (c : ClassSrc) : Statement (.setclass y d c) := of_fields _ (by
  cases c <;> (intro f hf; cases hf; simp (disch := decide) [-Nat.reduceAdd, decodeFields, Fields.sync, Fields.xb, xb_hi, xb_lo, xb_span,
      append_zero, xb_zero, xb_self, ofBool_eq, bit_eq, maskCode_none, rne_code, bq_rest, bq_low, fcondD_code6, scope_low, fence_ord,
      gregD_mk, mregD_zero, sregD_zero, pszD_zero, pk256_self, intOp_fadd, intOp_faddOrd, decodeSy, Fields.cntD, intTyD_code, condD_code,
      scopeOf_code, widthD_wq]))
theorem cropen (y : Sync) (a : AReg) (id : BitVec 16) : Statement (.cropen y a id) := of_fields _ (by
  intro f hf; cases hf; simp (disch := decide) [-Nat.reduceAdd, decodeFields, Fields.sync, Fields.xb, xb_hi, xb_lo, xb_span, append_zero,
      xb_zero, xb_self, ofBool_eq, bit_eq, maskCode_none, rne_code, bq_rest, bq_low, fcondD_code6, scope_low, fence_ord, gregD_mk,
      mregD_zero, sregD_zero, pszD_zero, pk256_self, intOp_fadd, intOp_faddOrd, decodeSy, Fields.cntD, intTyD_code, condD_code,
      scopeOf_code, widthD_wq])
theorem crclose (y : Sync) (id : BitVec 16) : Statement (.crclose y id) := of_fields _ (by
  intro f hf; cases hf; simp (disch := decide) [-Nat.reduceAdd, decodeFields, Fields.sync, Fields.xb, xb_hi, xb_lo, xb_span, append_zero,
      xb_zero, xb_self, ofBool_eq, bit_eq, maskCode_none, rne_code, bq_rest, bq_low, fcondD_code6, scope_low, fence_ord, gregD_mk,
      mregD_zero, sregD_zero, pszD_zero, pk256_self, intOp_fadd, intOp_faddOrd, decodeSy, Fields.cntD, intTyD_code, condD_code,
      scopeOf_code, widthD_wq])
theorem trap (y : Sync) (brk : Bool) (code : BitVec 16) : Statement (.trap y brk code) := of_fields _ (by
  cases brk <;> (intro f hf; cases hf; simp (disch := decide) [-Nat.reduceAdd, decodeFields, Fields.sync, Fields.xb, xb_hi, xb_lo, xb_span,
      append_zero, xb_zero, xb_self, ofBool_eq, bit_eq, maskCode_none, rne_code, bq_rest, bq_low, fcondD_code6, scope_low, fence_ord,
      gregD_mk, mregD_zero, sregD_zero, pszD_zero, pk256_self, intOp_fadd, intOp_faddOrd, decodeSy, Fields.cntD, intTyD_code, condD_code,
      scopeOf_code, widthD_wq]))
theorem tret (y : Sync) : Statement (.tret y) := of_fields _ (by
  intro f hf; cases hf; simp (disch := decide) [-Nat.reduceAdd, decodeFields, Fields.sync, Fields.xb, xb_hi, xb_lo, xb_span, append_zero,
      xb_zero, xb_self, ofBool_eq, bit_eq, maskCode_none, rne_code, bq_rest, bq_low, fcondD_code6, scope_low, fence_ord, gregD_mk,
      mregD_zero, sregD_zero, pszD_zero, pk256_self, intOp_fadd, intOp_faddOrd, decodeSy, Fields.cntD, intTyD_code, condD_code,
      scopeOf_code, widthD_wq])
theorem halt (y : Sync) : Statement (.halt y) := of_fields _ (by
  intro f hf; cases hf; simp (disch := decide) [-Nat.reduceAdd, decodeFields, Fields.sync, Fields.xb, xb_hi, xb_lo, xb_span, append_zero,
      xb_zero, xb_self, ofBool_eq, bit_eq, maskCode_none, rne_code, bq_rest, bq_low, fcondD_code6, scope_low, fence_ord, gregD_mk,
      mregD_zero, sregD_zero, pszD_zero, pk256_self, intOp_fadd, intOp_faddOrd, decodeSy, Fields.cntD, intTyD_code, condD_code,
      scopeOf_code, widthD_wq])
theorem ecall (y : Sync) (d : SReg) (a : SReg) (svc : BitVec 16) : Statement (.ecall y d a svc) := of_fields _ (by
  intro f hf; cases hf; simp (disch := decide) [-Nat.reduceAdd, decodeFields, Fields.sync, Fields.xb, xb_hi, xb_lo, xb_span, append_zero,
      xb_zero, xb_self, ofBool_eq, bit_eq, maskCode_none, rne_code, bq_rest, bq_low, fcondD_code6, scope_low, fence_ord, gregD_mk,
      mregD_zero, sregD_zero, pszD_zero, pk256_self, intOp_fadd, intOp_faddOrd, decodeSy, Fields.cntD, intTyD_code, condD_code,
      scopeOf_code, widthD_wq])
theorem vadd (y : Sync) (t : VTy) (m : Mod) (d : VReg) (a : VReg) (b : VReg) : Statement (.vadd y t m d a b) := of_fields _ (by
  intro f hf; cases hf; simp (disch := decide) [-Nat.reduceAdd, decodeFields, Fields.sync, Fields.xb, xb_hi, xb_lo, xb_span, append_zero,
      xb_zero, xb_self, ofBool_eq, bit_eq, maskCode_none, rne_code, bq_rest, bq_low, fcondD_code6, scope_low, fence_ord, gregD_mk,
      mregD_zero, sregD_zero, pszD_zero, pk256_self, intOp_fadd, intOp_faddOrd, decodeVx, decodeVxArith, Fields.vf3D, Fields.vf4D,
      Fields.vf2D, Fields.vm3D, Fields.vm2D, Fields.vs3D, Fields.vi3D, Fields.vi2D, vtyD_code, intTyD_code, condD_code, fcondD_code4,
      Fields.modD, Fields.rmodD, Fields.maskOnlyD, Fields.maskSatD, rmD_code, maskD_code, modByte_rm, modByte_sat, modByte_mask,
      modByte_low3, modByte_low4, fpX, modX, maskX])
theorem vsub (y : Sync) (t : VTy) (m : Mod) (d : VReg) (a : VReg) (b : VReg) : Statement (.vsub y t m d a b) := of_fields _ (by
  intro f hf; cases hf; simp (disch := decide) [-Nat.reduceAdd, decodeFields, Fields.sync, Fields.xb, xb_hi, xb_lo, xb_span, append_zero,
      xb_zero, xb_self, ofBool_eq, bit_eq, maskCode_none, rne_code, bq_rest, bq_low, fcondD_code6, scope_low, fence_ord, gregD_mk,
      mregD_zero, sregD_zero, pszD_zero, pk256_self, intOp_fadd, intOp_faddOrd, decodeVx, decodeVxArith, Fields.vf3D, Fields.vf4D,
      Fields.vf2D, Fields.vm3D, Fields.vm2D, Fields.vs3D, Fields.vi3D, Fields.vi2D, vtyD_code, intTyD_code, condD_code, fcondD_code4,
      Fields.modD, Fields.rmodD, Fields.maskOnlyD, Fields.maskSatD, rmD_code, maskD_code, modByte_rm, modByte_sat, modByte_mask,
      modByte_low3, modByte_low4, fpX, modX, maskX])
theorem vmul (y : Sync) (t : VTy) (m : Mod) (d : VReg) (a : VReg) (b : VReg) : Statement (.vmul y t m d a b) := of_fields _ (by
  intro f hf; cases hf; simp (disch := decide) [-Nat.reduceAdd, decodeFields, Fields.sync, Fields.xb, xb_hi, xb_lo, xb_span, append_zero,
      xb_zero, xb_self, ofBool_eq, bit_eq, maskCode_none, rne_code, bq_rest, bq_low, fcondD_code6, scope_low, fence_ord, gregD_mk,
      mregD_zero, sregD_zero, pszD_zero, pk256_self, intOp_fadd, intOp_faddOrd, decodeVx, decodeVxArith, Fields.vf3D, Fields.vf4D,
      Fields.vf2D, Fields.vm3D, Fields.vm2D, Fields.vs3D, Fields.vi3D, Fields.vi2D, vtyD_code, intTyD_code, condD_code, fcondD_code4,
      Fields.modD, Fields.rmodD, Fields.maskOnlyD, Fields.maskSatD, rmD_code, maskD_code, modByte_rm, modByte_sat, modByte_mask,
      modByte_low3, modByte_low4, fpX, modX, maskX])
theorem vfma (y : Sync) (t : VTy) (m : Mod) (d : VReg) (a : VReg) (b : VReg) (c : VReg) : Statement (.vfma y t m d a b c) := of_fields _ (by
  intro f hf; cases hf; simp (disch := decide) [-Nat.reduceAdd, decodeFields, Fields.sync, Fields.xb, xb_hi, xb_lo, xb_span, append_zero,
      xb_zero, xb_self, ofBool_eq, bit_eq, maskCode_none, rne_code, bq_rest, bq_low, fcondD_code6, scope_low, fence_ord, gregD_mk,
      mregD_zero, sregD_zero, pszD_zero, pk256_self, intOp_fadd, intOp_faddOrd, decodeVx, decodeVxArith, Fields.vf3D, Fields.vf4D,
      Fields.vf2D, Fields.vm3D, Fields.vm2D, Fields.vs3D, Fields.vi3D, Fields.vi2D, vtyD_code, intTyD_code, condD_code, fcondD_code4,
      Fields.modD, Fields.rmodD, Fields.maskOnlyD, Fields.maskSatD, rmD_code, maskD_code, modByte_rm, modByte_sat, modByte_mask,
      modByte_low3, modByte_low4, fpX, modX, maskX])
theorem vfms (y : Sync) (t : VTy) (m : Mod) (d : VReg) (a : VReg) (b : VReg) (c : VReg) : Statement (.vfms y t m d a b c) := of_fields _ (by
  intro f hf; cases hf; simp (disch := decide) [-Nat.reduceAdd, decodeFields, Fields.sync, Fields.xb, xb_hi, xb_lo, xb_span, append_zero,
      xb_zero, xb_self, ofBool_eq, bit_eq, maskCode_none, rne_code, bq_rest, bq_low, fcondD_code6, scope_low, fence_ord, gregD_mk,
      mregD_zero, sregD_zero, pszD_zero, pk256_self, intOp_fadd, intOp_faddOrd, decodeVx, decodeVxArith, Fields.vf3D, Fields.vf4D,
      Fields.vf2D, Fields.vm3D, Fields.vm2D, Fields.vs3D, Fields.vi3D, Fields.vi2D, vtyD_code, intTyD_code, condD_code, fcondD_code4,
      Fields.modD, Fields.rmodD, Fields.maskOnlyD, Fields.maskSatD, rmD_code, maskD_code, modByte_rm, modByte_sat, modByte_mask,
      modByte_low3, modByte_low4, fpX, modX, maskX])
theorem vmin (y : Sync) (t : VTy) (m : Option MReg) (d : VReg) (a : VReg) (b : VReg) : Statement (.vmin y t m d a b) := of_fields _ (by
  intro f hf; cases hf; simp (disch := decide) [-Nat.reduceAdd, decodeFields, Fields.sync, Fields.xb, xb_hi, xb_lo, xb_span, append_zero,
      xb_zero, xb_self, ofBool_eq, bit_eq, maskCode_none, rne_code, bq_rest, bq_low, fcondD_code6, scope_low, fence_ord, gregD_mk,
      mregD_zero, sregD_zero, pszD_zero, pk256_self, intOp_fadd, intOp_faddOrd, decodeVx, decodeVxArith, Fields.vf3D, Fields.vf4D,
      Fields.vf2D, Fields.vm3D, Fields.vm2D, Fields.vs3D, Fields.vi3D, Fields.vi2D, vtyD_code, intTyD_code, condD_code, fcondD_code4,
      Fields.modD, Fields.rmodD, Fields.maskOnlyD, Fields.maskSatD, rmD_code, maskD_code, modByte_rm, modByte_sat, modByte_mask,
      modByte_low3, modByte_low4, fpX, modX, maskX])
theorem vmax (y : Sync) (t : VTy) (m : Option MReg) (d : VReg) (a : VReg) (b : VReg) : Statement (.vmax y t m d a b) := of_fields _ (by
  intro f hf; cases hf; simp (disch := decide) [-Nat.reduceAdd, decodeFields, Fields.sync, Fields.xb, xb_hi, xb_lo, xb_span, append_zero,
      xb_zero, xb_self, ofBool_eq, bit_eq, maskCode_none, rne_code, bq_rest, bq_low, fcondD_code6, scope_low, fence_ord, gregD_mk,
      mregD_zero, sregD_zero, pszD_zero, pk256_self, intOp_fadd, intOp_faddOrd, decodeVx, decodeVxArith, Fields.vf3D, Fields.vf4D,
      Fields.vf2D, Fields.vm3D, Fields.vm2D, Fields.vs3D, Fields.vi3D, Fields.vi2D, vtyD_code, intTyD_code, condD_code, fcondD_code4,
      Fields.modD, Fields.rmodD, Fields.maskOnlyD, Fields.maskSatD, rmD_code, maskD_code, modByte_rm, modByte_sat, modByte_mask,
      modByte_low3, modByte_low4, fpX, modX, maskX])
theorem vabs (y : Sync) (t : VTy) (m : Option MReg) (d : VReg) (a : VReg) : Statement (.vabs y t m d a) := of_fields _ (by
  intro f hf; cases hf; simp (disch := decide) [-Nat.reduceAdd, decodeFields, Fields.sync, Fields.xb, xb_hi, xb_lo, xb_span, append_zero,
      xb_zero, xb_self, ofBool_eq, bit_eq, maskCode_none, rne_code, bq_rest, bq_low, fcondD_code6, scope_low, fence_ord, gregD_mk,
      mregD_zero, sregD_zero, pszD_zero, pk256_self, intOp_fadd, intOp_faddOrd, decodeVx, decodeVxArith, Fields.vf3D, Fields.vf4D,
      Fields.vf2D, Fields.vm3D, Fields.vm2D, Fields.vs3D, Fields.vi3D, Fields.vi2D, vtyD_code, intTyD_code, condD_code, fcondD_code4,
      Fields.modD, Fields.rmodD, Fields.maskOnlyD, Fields.maskSatD, rmD_code, maskD_code, modByte_rm, modByte_sat, modByte_mask,
      modByte_low3, modByte_low4, fpX, modX, maskX])
theorem vneg (y : Sync) (t : VTy) (m : Option MReg) (d : VReg) (a : VReg) : Statement (.vneg y t m d a) := of_fields _ (by
  intro f hf; cases hf; simp (disch := decide) [-Nat.reduceAdd, decodeFields, Fields.sync, Fields.xb, xb_hi, xb_lo, xb_span, append_zero,
      xb_zero, xb_self, ofBool_eq, bit_eq, maskCode_none, rne_code, bq_rest, bq_low, fcondD_code6, scope_low, fence_ord, gregD_mk,
      mregD_zero, sregD_zero, pszD_zero, pk256_self, intOp_fadd, intOp_faddOrd, decodeVx, decodeVxArith, Fields.vf3D, Fields.vf4D,
      Fields.vf2D, Fields.vm3D, Fields.vm2D, Fields.vs3D, Fields.vi3D, Fields.vi2D, vtyD_code, intTyD_code, condD_code, fcondD_code4,
      Fields.modD, Fields.rmodD, Fields.maskOnlyD, Fields.maskSatD, rmD_code, maskD_code, modByte_rm, modByte_sat, modByte_mask,
      modByte_low3, modByte_low4, fpX, modX, maskX])
theorem vrcp (y : Sync) (t : VTy) (m : Mod) (d : VReg) (a : VReg) : Statement (.vrcp y t m d a) := of_fields _ (by
  intro f hf; cases hf; simp (disch := decide) [-Nat.reduceAdd, decodeFields, Fields.sync, Fields.xb, xb_hi, xb_lo, xb_span, append_zero,
      xb_zero, xb_self, ofBool_eq, bit_eq, maskCode_none, rne_code, bq_rest, bq_low, fcondD_code6, scope_low, fence_ord, gregD_mk,
      mregD_zero, sregD_zero, pszD_zero, pk256_self, intOp_fadd, intOp_faddOrd, decodeVx, decodeVxArith, Fields.vf3D, Fields.vf4D,
      Fields.vf2D, Fields.vm3D, Fields.vm2D, Fields.vs3D, Fields.vi3D, Fields.vi2D, vtyD_code, intTyD_code, condD_code, fcondD_code4,
      Fields.modD, Fields.rmodD, Fields.maskOnlyD, Fields.maskSatD, rmD_code, maskD_code, modByte_rm, modByte_sat, modByte_mask,
      modByte_low3, modByte_low4, fpX, modX, maskX])
theorem vrsq (y : Sync) (t : VTy) (m : Mod) (d : VReg) (a : VReg) : Statement (.vrsq y t m d a) := of_fields _ (by
  intro f hf; cases hf; simp (disch := decide) [-Nat.reduceAdd, decodeFields, Fields.sync, Fields.xb, xb_hi, xb_lo, xb_span, append_zero,
      xb_zero, xb_self, ofBool_eq, bit_eq, maskCode_none, rne_code, bq_rest, bq_low, fcondD_code6, scope_low, fence_ord, gregD_mk,
      mregD_zero, sregD_zero, pszD_zero, pk256_self, intOp_fadd, intOp_faddOrd, decodeVx, decodeVxArith, Fields.vf3D, Fields.vf4D,
      Fields.vf2D, Fields.vm3D, Fields.vm2D, Fields.vs3D, Fields.vi3D, Fields.vi2D, vtyD_code, intTyD_code, condD_code, fcondD_code4,
      Fields.modD, Fields.rmodD, Fields.maskOnlyD, Fields.maskSatD, rmD_code, maskD_code, modByte_rm, modByte_sat, modByte_mask,
      modByte_low3, modByte_low4, fpX, modX, maskX])
theorem vexp2 (y : Sync) (t : VTy) (m : Mod) (d : VReg) (a : VReg) : Statement (.vexp2 y t m d a) := of_fields _ (by
  intro f hf; cases hf; simp (disch := decide) [-Nat.reduceAdd, decodeFields, Fields.sync, Fields.xb, xb_hi, xb_lo, xb_span, append_zero,
      xb_zero, xb_self, ofBool_eq, bit_eq, maskCode_none, rne_code, bq_rest, bq_low, fcondD_code6, scope_low, fence_ord, gregD_mk,
      mregD_zero, sregD_zero, pszD_zero, pk256_self, intOp_fadd, intOp_faddOrd, decodeVx, decodeVxArith, Fields.vf3D, Fields.vf4D,
      Fields.vf2D, Fields.vm3D, Fields.vm2D, Fields.vs3D, Fields.vi3D, Fields.vi2D, vtyD_code, intTyD_code, condD_code, fcondD_code4,
      Fields.modD, Fields.rmodD, Fields.maskOnlyD, Fields.maskSatD, rmD_code, maskD_code, modByte_rm, modByte_sat, modByte_mask,
      modByte_low3, modByte_low4, fpX, modX, maskX])
theorem vlog2 (y : Sync) (t : VTy) (m : Mod) (d : VReg) (a : VReg) : Statement (.vlog2 y t m d a) := of_fields _ (by
  intro f hf; cases hf; simp (disch := decide) [-Nat.reduceAdd, decodeFields, Fields.sync, Fields.xb, xb_hi, xb_lo, xb_span, append_zero,
      xb_zero, xb_self, ofBool_eq, bit_eq, maskCode_none, rne_code, bq_rest, bq_low, fcondD_code6, scope_low, fence_ord, gregD_mk,
      mregD_zero, sregD_zero, pszD_zero, pk256_self, intOp_fadd, intOp_faddOrd, decodeVx, decodeVxArith, Fields.vf3D, Fields.vf4D,
      Fields.vf2D, Fields.vm3D, Fields.vm2D, Fields.vs3D, Fields.vi3D, Fields.vi2D, vtyD_code, intTyD_code, condD_code, fcondD_code4,
      Fields.modD, Fields.rmodD, Fields.maskOnlyD, Fields.maskSatD, rmD_code, maskD_code, modByte_rm, modByte_sat, modByte_mask,
      modByte_low3, modByte_low4, fpX, modX, maskX])
theorem vdiv (y : Sync) (t : VTy) (m : Mod) (d : VReg) (a : VReg) (b : VReg) : Statement (.vdiv y t m d a b) := of_fields _ (by
  intro f hf; cases hf; simp (disch := decide) [-Nat.reduceAdd, decodeFields, Fields.sync, Fields.xb, xb_hi, xb_lo, xb_span, append_zero,
      xb_zero, xb_self, ofBool_eq, bit_eq, maskCode_none, rne_code, bq_rest, bq_low, fcondD_code6, scope_low, fence_ord, gregD_mk,
      mregD_zero, sregD_zero, pszD_zero, pk256_self, intOp_fadd, intOp_faddOrd, decodeVx, decodeVxArith, Fields.vf3D, Fields.vf4D,
      Fields.vf2D, Fields.vm3D, Fields.vm2D, Fields.vs3D, Fields.vi3D, Fields.vi2D, vtyD_code, intTyD_code, condD_code, fcondD_code4,
      Fields.modD, Fields.rmodD, Fields.maskOnlyD, Fields.maskSatD, rmD_code, maskD_code, modByte_rm, modByte_sat, modByte_mask,
      modByte_low3, modByte_low4, fpX, modX, maskX])
theorem vsqrt (y : Sync) (t : VTy) (m : Mod) (d : VReg) (a : VReg) : Statement (.vsqrt y t m d a) := of_fields _ (by
  intro f hf; cases hf; simp (disch := decide) [-Nat.reduceAdd, decodeFields, Fields.sync, Fields.xb, xb_hi, xb_lo, xb_span, append_zero,
      xb_zero, xb_self, ofBool_eq, bit_eq, maskCode_none, rne_code, bq_rest, bq_low, fcondD_code6, scope_low, fence_ord, gregD_mk,
      mregD_zero, sregD_zero, pszD_zero, pk256_self, intOp_fadd, intOp_faddOrd, decodeVx, decodeVxArith, Fields.vf3D, Fields.vf4D,
      Fields.vf2D, Fields.vm3D, Fields.vm2D, Fields.vs3D, Fields.vi3D, Fields.vi2D, vtyD_code, intTyD_code, condD_code, fcondD_code4,
      Fields.modD, Fields.rmodD, Fields.maskOnlyD, Fields.maskSatD, rmD_code, maskD_code, modByte_rm, modByte_sat, modByte_mask,
      modByte_low3, modByte_low4, fpX, modX, maskX])
theorem vfcmp (y : Sync) (t : VTy) (c : FCond) (m : Option MReg) (d : MReg) (a : VReg) (b : VReg) : Statement (.vfcmp y t c m d a b) :=
    of_fields _ (by
  intro f hf; cases hf; simp (disch := decide) [-Nat.reduceAdd, decodeFields, Fields.sync, Fields.xb, xb_hi, xb_lo, xb_span, append_zero,
      xb_zero, xb_self, ofBool_eq, bit_eq, maskCode_none, rne_code, bq_rest, bq_low, fcondD_code6, scope_low, fence_ord, gregD_mk,
      mregD_zero, sregD_zero, pszD_zero, pk256_self, intOp_fadd, intOp_faddOrd, decodeVx, decodeVxArith, Fields.vf3D, Fields.vf4D,
      Fields.vf2D, Fields.vm3D, Fields.vm2D, Fields.vs3D, Fields.vi3D, Fields.vi2D, vtyD_code, intTyD_code, condD_code, fcondD_code4,
      Fields.modD, Fields.rmodD, Fields.maskOnlyD, Fields.maskSatD, rmD_code, maskD_code, modByte_rm, modByte_sat, modByte_mask,
      modByte_low3, modByte_low4, fpX, modX, maskX])
theorem viadd (y : Sync) (t : IntTy) (m : Option MReg) (sat : Bool) (d : VReg) (a : VReg) (b : VReg) : Statement (.viadd y t m sat d a b) :=
    of_fields _ (by
  intro f hf; cases hf; simp (disch := decide) [-Nat.reduceAdd, decodeFields, Fields.sync, Fields.xb, xb_hi, xb_lo, xb_span, append_zero,
      xb_zero, xb_self, ofBool_eq, bit_eq, maskCode_none, rne_code, bq_rest, bq_low, fcondD_code6, scope_low, fence_ord, gregD_mk,
      mregD_zero, sregD_zero, pszD_zero, pk256_self, intOp_fadd, intOp_faddOrd, decodeVx, decodeVxArith, Fields.vf3D, Fields.vf4D,
      Fields.vf2D, Fields.vm3D, Fields.vm2D, Fields.vs3D, Fields.vi3D, Fields.vi2D, vtyD_code, intTyD_code, condD_code, fcondD_code4,
      Fields.modD, Fields.rmodD, Fields.maskOnlyD, Fields.maskSatD, rmD_code, maskD_code, modByte_rm, modByte_sat, modByte_mask,
      modByte_low3, modByte_low4, fpX, modX, maskX])
theorem visub (y : Sync) (t : IntTy) (m : Option MReg) (sat : Bool) (d : VReg) (a : VReg) (b : VReg) : Statement (.visub y t m sat d a b) :=
    of_fields _ (by
  intro f hf; cases hf; simp (disch := decide) [-Nat.reduceAdd, decodeFields, Fields.sync, Fields.xb, xb_hi, xb_lo, xb_span, append_zero,
      xb_zero, xb_self, ofBool_eq, bit_eq, maskCode_none, rne_code, bq_rest, bq_low, fcondD_code6, scope_low, fence_ord, gregD_mk,
      mregD_zero, sregD_zero, pszD_zero, pk256_self, intOp_fadd, intOp_faddOrd, decodeVx, decodeVxArith, Fields.vf3D, Fields.vf4D,
      Fields.vf2D, Fields.vm3D, Fields.vm2D, Fields.vs3D, Fields.vi3D, Fields.vi2D, vtyD_code, intTyD_code, condD_code, fcondD_code4,
      Fields.modD, Fields.rmodD, Fields.maskOnlyD, Fields.maskSatD, rmD_code, maskD_code, modByte_rm, modByte_sat, modByte_mask,
      modByte_low3, modByte_low4, fpX, modX, maskX])
theorem vimul (y : Sync) (t : IntTy) (m : Option MReg) (sat : Bool) (d : VReg) (a : VReg) (b : VReg) : Statement (.vimul y t m sat d a b) :=
    of_fields _ (by
  intro f hf; cases hf; simp (disch := decide) [-Nat.reduceAdd, decodeFields, Fields.sync, Fields.xb, xb_hi, xb_lo, xb_span, append_zero,
      xb_zero, xb_self, ofBool_eq, bit_eq, maskCode_none, rne_code, bq_rest, bq_low, fcondD_code6, scope_low, fence_ord, gregD_mk,
      mregD_zero, sregD_zero, pszD_zero, pk256_self, intOp_fadd, intOp_faddOrd, decodeVx, decodeVxArith, Fields.vf3D, Fields.vf4D,
      Fields.vf2D, Fields.vm3D, Fields.vm2D, Fields.vs3D, Fields.vi3D, Fields.vi2D, vtyD_code, intTyD_code, condD_code, fcondD_code4,
      Fields.modD, Fields.rmodD, Fields.maskOnlyD, Fields.maskSatD, rmD_code, maskD_code, modByte_rm, modByte_sat, modByte_mask,
      modByte_low3, modByte_low4, fpX, modX, maskX])
theorem vimad (y : Sync) (t : IntTy) (m : Option MReg) (sat : Bool) (d : VReg) (a : VReg) (b : VReg) (c : VReg) : Statement (.vimad y t m
    sat d a b c) := of_fields _ (by
  intro f hf; cases hf; simp (disch := decide) [-Nat.reduceAdd, decodeFields, Fields.sync, Fields.xb, xb_hi, xb_lo, xb_span, append_zero,
      xb_zero, xb_self, ofBool_eq, bit_eq, maskCode_none, rne_code, bq_rest, bq_low, fcondD_code6, scope_low, fence_ord, gregD_mk,
      mregD_zero, sregD_zero, pszD_zero, pk256_self, intOp_fadd, intOp_faddOrd, decodeVx, decodeVxArith, Fields.vf3D, Fields.vf4D,
      Fields.vf2D, Fields.vm3D, Fields.vm2D, Fields.vs3D, Fields.vi3D, Fields.vi2D, vtyD_code, intTyD_code, condD_code, fcondD_code4,
      Fields.modD, Fields.rmodD, Fields.maskOnlyD, Fields.maskSatD, rmD_code, maskD_code, modByte_rm, modByte_sat, modByte_mask,
      modByte_low3, modByte_low4, fpX, modX, maskX])
theorem vimin (y : Sync) (t : IntTy) (m : Option MReg) (d : VReg) (a : VReg) (b : VReg) : Statement (.vimin y t m d a b) := of_fields _ (by
  intro f hf; cases hf; simp (disch := decide) [-Nat.reduceAdd, decodeFields, Fields.sync, Fields.xb, xb_hi, xb_lo, xb_span, append_zero,
      xb_zero, xb_self, ofBool_eq, bit_eq, maskCode_none, rne_code, bq_rest, bq_low, fcondD_code6, scope_low, fence_ord, gregD_mk,
      mregD_zero, sregD_zero, pszD_zero, pk256_self, intOp_fadd, intOp_faddOrd, decodeVx, decodeVxArith, Fields.vf3D, Fields.vf4D,
      Fields.vf2D, Fields.vm3D, Fields.vm2D, Fields.vs3D, Fields.vi3D, Fields.vi2D, vtyD_code, intTyD_code, condD_code, fcondD_code4,
      Fields.modD, Fields.rmodD, Fields.maskOnlyD, Fields.maskSatD, rmD_code, maskD_code, modByte_rm, modByte_sat, modByte_mask,
      modByte_low3, modByte_low4, fpX, modX, maskX])
theorem vimax (y : Sync) (t : IntTy) (m : Option MReg) (d : VReg) (a : VReg) (b : VReg) : Statement (.vimax y t m d a b) := of_fields _ (by
  intro f hf; cases hf; simp (disch := decide) [-Nat.reduceAdd, decodeFields, Fields.sync, Fields.xb, xb_hi, xb_lo, xb_span, append_zero,
      xb_zero, xb_self, ofBool_eq, bit_eq, maskCode_none, rne_code, bq_rest, bq_low, fcondD_code6, scope_low, fence_ord, gregD_mk,
      mregD_zero, sregD_zero, pszD_zero, pk256_self, intOp_fadd, intOp_faddOrd, decodeVx, decodeVxArith, Fields.vf3D, Fields.vf4D,
      Fields.vf2D, Fields.vm3D, Fields.vm2D, Fields.vs3D, Fields.vi3D, Fields.vi2D, vtyD_code, intTyD_code, condD_code, fcondD_code4,
      Fields.modD, Fields.rmodD, Fields.maskOnlyD, Fields.maskSatD, rmD_code, maskD_code, modByte_rm, modByte_sat, modByte_mask,
      modByte_low3, modByte_low4, fpX, modX, maskX])
theorem vand (y : Sync) (t : IntTy) (m : Option MReg) (d : VReg) (a : VReg) (b : VReg) : Statement (.vand y t m d a b) := of_fields _ (by
  intro f hf; cases hf; simp (disch := decide) [-Nat.reduceAdd, decodeFields, Fields.sync, Fields.xb, xb_hi, xb_lo, xb_span, append_zero,
      xb_zero, xb_self, ofBool_eq, bit_eq, maskCode_none, rne_code, bq_rest, bq_low, fcondD_code6, scope_low, fence_ord, gregD_mk,
      mregD_zero, sregD_zero, pszD_zero, pk256_self, intOp_fadd, intOp_faddOrd, decodeVx, decodeVxArith, Fields.vf3D, Fields.vf4D,
      Fields.vf2D, Fields.vm3D, Fields.vm2D, Fields.vs3D, Fields.vi3D, Fields.vi2D, vtyD_code, intTyD_code, condD_code, fcondD_code4,
      Fields.modD, Fields.rmodD, Fields.maskOnlyD, Fields.maskSatD, rmD_code, maskD_code, modByte_rm, modByte_sat, modByte_mask,
      modByte_low3, modByte_low4, fpX, modX, maskX])
theorem vor (y : Sync) (t : IntTy) (m : Option MReg) (d : VReg) (a : VReg) (b : VReg) : Statement (.vor y t m d a b) := of_fields _ (by
  intro f hf; cases hf; simp (disch := decide) [-Nat.reduceAdd, decodeFields, Fields.sync, Fields.xb, xb_hi, xb_lo, xb_span, append_zero,
      xb_zero, xb_self, ofBool_eq, bit_eq, maskCode_none, rne_code, bq_rest, bq_low, fcondD_code6, scope_low, fence_ord, gregD_mk,
      mregD_zero, sregD_zero, pszD_zero, pk256_self, intOp_fadd, intOp_faddOrd, decodeVx, decodeVxArith, Fields.vf3D, Fields.vf4D,
      Fields.vf2D, Fields.vm3D, Fields.vm2D, Fields.vs3D, Fields.vi3D, Fields.vi2D, vtyD_code, intTyD_code, condD_code, fcondD_code4,
      Fields.modD, Fields.rmodD, Fields.maskOnlyD, Fields.maskSatD, rmD_code, maskD_code, modByte_rm, modByte_sat, modByte_mask,
      modByte_low3, modByte_low4, fpX, modX, maskX])
theorem vxor (y : Sync) (t : IntTy) (m : Option MReg) (d : VReg) (a : VReg) (b : VReg) : Statement (.vxor y t m d a b) := of_fields _ (by
  intro f hf; cases hf; simp (disch := decide) [-Nat.reduceAdd, decodeFields, Fields.sync, Fields.xb, xb_hi, xb_lo, xb_span, append_zero,
      xb_zero, xb_self, ofBool_eq, bit_eq, maskCode_none, rne_code, bq_rest, bq_low, fcondD_code6, scope_low, fence_ord, gregD_mk,
      mregD_zero, sregD_zero, pszD_zero, pk256_self, intOp_fadd, intOp_faddOrd, decodeVx, decodeVxArith, Fields.vf3D, Fields.vf4D,
      Fields.vf2D, Fields.vm3D, Fields.vm2D, Fields.vs3D, Fields.vi3D, Fields.vi2D, vtyD_code, intTyD_code, condD_code, fcondD_code4,
      Fields.modD, Fields.rmodD, Fields.maskOnlyD, Fields.maskSatD, rmD_code, maskD_code, modByte_rm, modByte_sat, modByte_mask,
      modByte_low3, modByte_low4, fpX, modX, maskX])
theorem vnot (y : Sync) (t : IntTy) (m : Option MReg) (d : VReg) (a : VReg) : Statement (.vnot y t m d a) := of_fields _ (by
  intro f hf; cases hf; simp (disch := decide) [-Nat.reduceAdd, decodeFields, Fields.sync, Fields.xb, xb_hi, xb_lo, xb_span, append_zero,
      xb_zero, xb_self, ofBool_eq, bit_eq, maskCode_none, rne_code, bq_rest, bq_low, fcondD_code6, scope_low, fence_ord, gregD_mk,
      mregD_zero, sregD_zero, pszD_zero, pk256_self, intOp_fadd, intOp_faddOrd, decodeVx, decodeVxArith, Fields.vf3D, Fields.vf4D,
      Fields.vf2D, Fields.vm3D, Fields.vm2D, Fields.vs3D, Fields.vi3D, Fields.vi2D, vtyD_code, intTyD_code, condD_code, fcondD_code4,
      Fields.modD, Fields.rmodD, Fields.maskOnlyD, Fields.maskSatD, rmD_code, maskD_code, modByte_rm, modByte_sat, modByte_mask,
      modByte_low3, modByte_low4, fpX, modX, maskX])
theorem vshl (y : Sync) (t : IntTy) (m : Option MReg) (d : VReg) (a : VReg) (b : VReg) : Statement (.vshl y t m d a b) := of_fields _ (by
  intro f hf; cases hf; simp (disch := decide) [-Nat.reduceAdd, decodeFields, Fields.sync, Fields.xb, xb_hi, xb_lo, xb_span, append_zero,
      xb_zero, xb_self, ofBool_eq, bit_eq, maskCode_none, rne_code, bq_rest, bq_low, fcondD_code6, scope_low, fence_ord, gregD_mk,
      mregD_zero, sregD_zero, pszD_zero, pk256_self, intOp_fadd, intOp_faddOrd, decodeVx, decodeVxArith, Fields.vf3D, Fields.vf4D,
      Fields.vf2D, Fields.vm3D, Fields.vm2D, Fields.vs3D, Fields.vi3D, Fields.vi2D, vtyD_code, intTyD_code, condD_code, fcondD_code4,
      Fields.modD, Fields.rmodD, Fields.maskOnlyD, Fields.maskSatD, rmD_code, maskD_code, modByte_rm, modByte_sat, modByte_mask,
      modByte_low3, modByte_low4, fpX, modX, maskX])
theorem vshr (y : Sync) (t : IntTy) (m : Option MReg) (d : VReg) (a : VReg) (b : VReg) : Statement (.vshr y t m d a b) := of_fields _ (by
  intro f hf; cases hf; simp (disch := decide) [-Nat.reduceAdd, decodeFields, Fields.sync, Fields.xb, xb_hi, xb_lo, xb_span, append_zero,
      xb_zero, xb_self, ofBool_eq, bit_eq, maskCode_none, rne_code, bq_rest, bq_low, fcondD_code6, scope_low, fence_ord, gregD_mk,
      mregD_zero, sregD_zero, pszD_zero, pk256_self, intOp_fadd, intOp_faddOrd, decodeVx, decodeVxArith, Fields.vf3D, Fields.vf4D,
      Fields.vf2D, Fields.vm3D, Fields.vm2D, Fields.vs3D, Fields.vi3D, Fields.vi2D, vtyD_code, intTyD_code, condD_code, fcondD_code4,
      Fields.modD, Fields.rmodD, Fields.maskOnlyD, Fields.maskSatD, rmD_code, maskD_code, modByte_rm, modByte_sat, modByte_mask,
      modByte_low3, modByte_low4, fpX, modX, maskX])
theorem vsar (y : Sync) (t : IntTy) (m : Option MReg) (d : VReg) (a : VReg) (b : VReg) : Statement (.vsar y t m d a b) := of_fields _ (by
  intro f hf; cases hf; simp (disch := decide) [-Nat.reduceAdd, decodeFields, Fields.sync, Fields.xb, xb_hi, xb_lo, xb_span, append_zero,
      xb_zero, xb_self, ofBool_eq, bit_eq, maskCode_none, rne_code, bq_rest, bq_low, fcondD_code6, scope_low, fence_ord, gregD_mk,
      mregD_zero, sregD_zero, pszD_zero, pk256_self, intOp_fadd, intOp_faddOrd, decodeVx, decodeVxArith, Fields.vf3D, Fields.vf4D,
      Fields.vf2D, Fields.vm3D, Fields.vm2D, Fields.vs3D, Fields.vi3D, Fields.vi2D, vtyD_code, intTyD_code, condD_code, fcondD_code4,
      Fields.modD, Fields.rmodD, Fields.maskOnlyD, Fields.maskSatD, rmD_code, maskD_code, modByte_rm, modByte_sat, modByte_mask,
      modByte_low3, modByte_low4, fpX, modX, maskX])
theorem vicmp (y : Sync) (t : IntTy) (c : Cond) (m : Option MReg) (d : MReg) (a : VReg) (b : VReg) : Statement (.vicmp y t c m d a b) :=
    of_fields _ (by
  intro f hf; cases hf; simp (disch := decide) [-Nat.reduceAdd, decodeFields, Fields.sync, Fields.xb, xb_hi, xb_lo, xb_span, append_zero,
      xb_zero, xb_self, ofBool_eq, bit_eq, maskCode_none, rne_code, bq_rest, bq_low, fcondD_code6, scope_low, fence_ord, gregD_mk,
      mregD_zero, sregD_zero, pszD_zero, pk256_self, intOp_fadd, intOp_faddOrd, decodeVx, decodeVxArith, Fields.vf3D, Fields.vf4D,
      Fields.vf2D, Fields.vm3D, Fields.vm2D, Fields.vs3D, Fields.vi3D, Fields.vi2D, vtyD_code, intTyD_code, condD_code, fcondD_code4,
      Fields.modD, Fields.rmodD, Fields.maskOnlyD, Fields.maskSatD, rmD_code, maskD_code, modByte_rm, modByte_sat, modByte_mask,
      modByte_low3, modByte_low4, fpX, modX, maskX])
theorem vpopc (y : Sync) (t : IntTy) (m : Option MReg) (d : VReg) (a : VReg) : Statement (.vpopc y t m d a) := of_fields _ (by
  intro f hf; cases hf; simp (disch := decide) [-Nat.reduceAdd, decodeFields, Fields.sync, Fields.xb, xb_hi, xb_lo, xb_span, append_zero,
      xb_zero, xb_self, ofBool_eq, bit_eq, maskCode_none, rne_code, bq_rest, bq_low, fcondD_code6, scope_low, fence_ord, gregD_mk,
      mregD_zero, sregD_zero, pszD_zero, pk256_self, intOp_fadd, intOp_faddOrd, decodeVx, decodeVxArith, Fields.vf3D, Fields.vf4D,
      Fields.vf2D, Fields.vm3D, Fields.vm2D, Fields.vs3D, Fields.vi3D, Fields.vi2D, vtyD_code, intTyD_code, condD_code, fcondD_code4,
      Fields.modD, Fields.rmodD, Fields.maskOnlyD, Fields.maskSatD, rmD_code, maskD_code, modByte_rm, modByte_sat, modByte_mask,
      modByte_low3, modByte_low4, fpX, modX, maskX])
theorem vclmul (y : Sync) (hi : Bool) (m : Option MReg) (d : VReg) (a : VReg) (b : VReg) : Statement (.vclmul y hi m d a b) := of_fields _ (by
  cases hi <;> (intro f hf; cases hf; simp (disch := decide) [-Nat.reduceAdd, decodeFields, Fields.sync, Fields.xb, xb_hi, xb_lo, xb_span,
      append_zero, xb_zero, xb_self, ofBool_eq, bit_eq, maskCode_none, rne_code, bq_rest, bq_low, fcondD_code6, scope_low, fence_ord,
      gregD_mk, mregD_zero, sregD_zero, pszD_zero, pk256_self, intOp_fadd, intOp_faddOrd, decodeVx, decodeVxArith, Fields.vf3D, Fields.vf4D,
      Fields.vf2D, Fields.vm3D, Fields.vm2D, Fields.vs3D, Fields.vi3D, Fields.vi2D, vtyD_code, intTyD_code, condD_code, fcondD_code4,
      Fields.modD, Fields.rmodD, Fields.maskOnlyD, Fields.maskSatD, rmD_code, maskD_code, modByte_rm, modByte_sat, modByte_mask,
      modByte_low3, modByte_low4, fpX, modX, maskX]))
theorem vcvt (y : Sync) (dst : BitVec 8) (src : BitVec 8) (m : Mod) (d : VReg) (a : VReg) : Statement (.vcvt y dst src m d a) := of_fields _ (by
  intro f hf; cases hf; simp (disch := decide) [-Nat.reduceAdd, decodeFields, Fields.sync, Fields.xb, xb_hi, xb_lo, xb_span, append_zero,
      xb_zero, xb_self, ofBool_eq, bit_eq, maskCode_none, rne_code, bq_rest, bq_low, fcondD_code6, scope_low, fence_ord, gregD_mk,
      mregD_zero, sregD_zero, pszD_zero, pk256_self, intOp_fadd, intOp_faddOrd, decodeVx, decodeVxMove, Fields.vs3D, Fields.vi3D,
      Fields.vi2D, Fields.redD, RedOp.codes, vtyD_code, intTyD_code, widthD_wq, widthD_code, Fields.modD, Fields.rmodD, Fields.maskOnlyD,
      Fields.maskSatD, rmD_code, maskD_code, modByte_rm, modByte_sat, modByte_mask, modByte_low3, modByte_low4, fpX, modX, maskX,
      Fields.memD, Fields.gatherD, Fields.osD, OrdScope.code, orderOf_code, scopeOf_code])
theorem vpack (y : Sync) (t : IntTy) (sat : Bool) (d : VReg) (a : VReg) (b : VReg) : Statement (.vpack y t sat d a b) := of_fields _ (by
  intro f hf; cases hf; simp (disch := decide) [-Nat.reduceAdd, decodeFields, Fields.sync, Fields.xb, xb_hi, xb_lo, xb_span, append_zero,
      xb_zero, xb_self, ofBool_eq, bit_eq, maskCode_none, rne_code, bq_rest, bq_low, fcondD_code6, scope_low, fence_ord, gregD_mk,
      mregD_zero, sregD_zero, pszD_zero, pk256_self, intOp_fadd, intOp_faddOrd, decodeVx, decodeVxMove, Fields.vs3D, Fields.vi3D,
      Fields.vi2D, Fields.redD, RedOp.codes, vtyD_code, intTyD_code, widthD_wq, widthD_code, Fields.modD, Fields.rmodD, Fields.maskOnlyD,
      Fields.maskSatD, rmD_code, maskD_code, modByte_rm, modByte_sat, modByte_mask, modByte_low3, modByte_low4, fpX, modX, maskX,
      Fields.memD, Fields.gatherD, Fields.osD, OrdScope.code, orderOf_code, scopeOf_code])
theorem vunpack (y : Sync) (t : IntTy) (hi : Bool) (d : VReg) (a : VReg) : Statement (.vunpack y t hi d a) := of_fields _ (by
  cases hi <;> (intro f hf; cases hf; simp (disch := decide) [-Nat.reduceAdd, decodeFields, Fields.sync, Fields.xb, xb_hi, xb_lo, xb_span,
      append_zero, xb_zero, xb_self, ofBool_eq, bit_eq, maskCode_none, rne_code, bq_rest, bq_low, fcondD_code6, scope_low, fence_ord,
      gregD_mk, mregD_zero, sregD_zero, pszD_zero, pk256_self, intOp_fadd, intOp_faddOrd, decodeVx, decodeVxMove, Fields.vs3D, Fields.vi3D,
      Fields.vi2D, Fields.redD, RedOp.codes, vtyD_code, intTyD_code, widthD_wq, widthD_code, Fields.modD, Fields.rmodD, Fields.maskOnlyD,
      Fields.maskSatD, rmD_code, maskD_code, modByte_rm, modByte_sat, modByte_mask, modByte_low3, modByte_low4, fpX, modX, maskX,
      Fields.memD, Fields.gatherD, Fields.osD, OrdScope.code, orderOf_code, scopeOf_code]))
theorem vbcast (y : Sync) (t : IntTy) (m : Option MReg) (d : VReg) (a : SReg) : Statement (.vbcast y t m d a) := of_fields _ (by
  intro f hf; cases hf; simp (disch := decide) [-Nat.reduceAdd, decodeFields, Fields.sync, Fields.xb, xb_hi, xb_lo, xb_span, append_zero,
      xb_zero, xb_self, ofBool_eq, bit_eq, maskCode_none, rne_code, bq_rest, bq_low, fcondD_code6, scope_low, fence_ord, gregD_mk,
      mregD_zero, sregD_zero, pszD_zero, pk256_self, intOp_fadd, intOp_faddOrd, decodeVx, decodeVxMove, Fields.vs3D, Fields.vi3D,
      Fields.vi2D, Fields.redD, RedOp.codes, vtyD_code, intTyD_code, widthD_wq, widthD_code, Fields.modD, Fields.rmodD, Fields.maskOnlyD,
      Fields.maskSatD, rmD_code, maskD_code, modByte_rm, modByte_sat, modByte_mask, modByte_low3, modByte_low4, fpX, modX, maskX,
      Fields.memD, Fields.gatherD, Fields.osD, OrdScope.code, orderOf_code, scopeOf_code])
theorem vextr (y : Sync) (t : IntTy) (d : SReg) (a : VReg) (b : SReg) : Statement (.vextr y t d a b) := of_fields _ (by
  intro f hf; cases hf; simp (disch := decide) [-Nat.reduceAdd, decodeFields, Fields.sync, Fields.xb, xb_hi, xb_lo, xb_span, append_zero,
      xb_zero, xb_self, ofBool_eq, bit_eq, maskCode_none, rne_code, bq_rest, bq_low, fcondD_code6, scope_low, fence_ord, gregD_mk,
      mregD_zero, sregD_zero, pszD_zero, pk256_self, intOp_fadd, intOp_faddOrd, decodeVx, decodeVxMove, Fields.vs3D, Fields.vi3D,
      Fields.vi2D, Fields.redD, RedOp.codes, vtyD_code, intTyD_code, widthD_wq, widthD_code, Fields.modD, Fields.rmodD, Fields.maskOnlyD,
      Fields.maskSatD, rmD_code, maskD_code, modByte_rm, modByte_sat, modByte_mask, modByte_low3, modByte_low4, fpX, modX, maskX,
      Fields.memD, Fields.gatherD, Fields.osD, OrdScope.code, orderOf_code, scopeOf_code])
theorem vinsr (y : Sync) (t : IntTy) (d : VReg) (a : SReg) (b : SReg) : Statement (.vinsr y t d a b) := of_fields _ (by
  intro f hf; cases hf; simp (disch := decide) [-Nat.reduceAdd, decodeFields, Fields.sync, Fields.xb, xb_hi, xb_lo, xb_span, append_zero,
      xb_zero, xb_self, ofBool_eq, bit_eq, maskCode_none, rne_code, bq_rest, bq_low, fcondD_code6, scope_low, fence_ord, gregD_mk,
      mregD_zero, sregD_zero, pszD_zero, pk256_self, intOp_fadd, intOp_faddOrd, decodeVx, decodeVxMove, Fields.vs3D, Fields.vi3D,
      Fields.vi2D, Fields.redD, RedOp.codes, vtyD_code, intTyD_code, widthD_wq, widthD_code, Fields.modD, Fields.rmodD, Fields.maskOnlyD,
      Fields.maskSatD, rmD_code, maskD_code, modByte_rm, modByte_sat, modByte_mask, modByte_low3, modByte_low4, fpX, modX, maskX,
      Fields.memD, Fields.gatherD, Fields.osD, OrdScope.code, orderOf_code, scopeOf_code])
theorem vperm (y : Sync) (t : IntTy) (m : Option MReg) (d : VReg) (a : VReg) (b : VReg) : Statement (.vperm y t m d a b) := of_fields _ (by
  intro f hf; cases hf; simp (disch := decide) [-Nat.reduceAdd, decodeFields, Fields.sync, Fields.xb, xb_hi, xb_lo, xb_span, append_zero,
      xb_zero, xb_self, ofBool_eq, bit_eq, maskCode_none, rne_code, bq_rest, bq_low, fcondD_code6, scope_low, fence_ord, gregD_mk,
      mregD_zero, sregD_zero, pszD_zero, pk256_self, intOp_fadd, intOp_faddOrd, decodeVx, decodeVxMove, Fields.vs3D, Fields.vi3D,
      Fields.vi2D, Fields.redD, RedOp.codes, vtyD_code, intTyD_code, widthD_wq, widthD_code, Fields.modD, Fields.rmodD, Fields.maskOnlyD,
      Fields.maskSatD, rmD_code, maskD_code, modByte_rm, modByte_sat, modByte_mask, modByte_low3, modByte_low4, fpX, modX, maskX,
      Fields.memD, Fields.gatherD, Fields.osD, OrdScope.code, orderOf_code, scopeOf_code])
theorem vrot (y : Sync) (t : IntTy) (m : Option MReg) (d : VReg) (a : VReg) (b : SReg) : Statement (.vrot y t m d a b) := of_fields _ (by
  intro f hf; cases hf; simp (disch := decide) [-Nat.reduceAdd, decodeFields, Fields.sync, Fields.xb, xb_hi, xb_lo, xb_span, append_zero,
      xb_zero, xb_self, ofBool_eq, bit_eq, maskCode_none, rne_code, bq_rest, bq_low, fcondD_code6, scope_low, fence_ord, gregD_mk,
      mregD_zero, sregD_zero, pszD_zero, pk256_self, intOp_fadd, intOp_faddOrd, decodeVx, decodeVxMove, Fields.vs3D, Fields.vi3D,
      Fields.vi2D, Fields.redD, RedOp.codes, vtyD_code, intTyD_code, widthD_wq, widthD_code, Fields.modD, Fields.rmodD, Fields.maskOnlyD,
      Fields.maskSatD, rmD_code, maskD_code, modByte_rm, modByte_sat, modByte_mask, modByte_low3, modByte_low4, fpX, modX, maskX,
      Fields.memD, Fields.gatherD, Fields.osD, OrdScope.code, orderOf_code, scopeOf_code])
theorem vsel (y : Sync) (t : IntTy) (m : MReg) (d : VReg) (a : VReg) (b : VReg) : Statement (.vsel y t m d a b) := of_fields _ (by
  intro f hf; cases hf; simp (disch := decide) [-Nat.reduceAdd, decodeFields, Fields.sync, Fields.xb, xb_hi, xb_lo, xb_span, append_zero,
      xb_zero, xb_self, ofBool_eq, bit_eq, maskCode_none, rne_code, bq_rest, bq_low, fcondD_code6, scope_low, fence_ord, gregD_mk,
      mregD_zero, sregD_zero, pszD_zero, pk256_self, intOp_fadd, intOp_faddOrd, decodeVx, decodeVxMove, Fields.vs3D, Fields.vi3D,
      Fields.vi2D, Fields.redD, RedOp.codes, vtyD_code, intTyD_code, widthD_wq, widthD_code, Fields.modD, Fields.rmodD, Fields.maskOnlyD,
      Fields.maskSatD, rmD_code, maskD_code, modByte_rm, modByte_sat, modByte_mask, modByte_low3, modByte_low4, fpX, modX, maskX,
      Fields.memD, Fields.gatherD, Fields.osD, OrdScope.code, orderOf_code, scopeOf_code])
theorem vmov (y : Sync) (t : IntTy) (m : Option MReg) (d : VReg) (a : VReg) : Statement (.vmov y t m d a) := of_fields _ (by
  intro f hf; cases hf; simp (disch := decide) [-Nat.reduceAdd, decodeFields, Fields.sync, Fields.xb, xb_hi, xb_lo, xb_span, append_zero,
      xb_zero, xb_self, ofBool_eq, bit_eq, maskCode_none, rne_code, bq_rest, bq_low, fcondD_code6, scope_low, fence_ord, gregD_mk,
      mregD_zero, sregD_zero, pszD_zero, pk256_self, intOp_fadd, intOp_faddOrd, decodeVx, decodeVxMove, Fields.vs3D, Fields.vi3D,
      Fields.vi2D, Fields.redD, RedOp.codes, vtyD_code, intTyD_code, widthD_wq, widthD_code, Fields.modD, Fields.rmodD, Fields.maskOnlyD,
      Fields.maskSatD, rmD_code, maskD_code, modByte_rm, modByte_sat, modByte_mask, modByte_low3, modByte_low4, fpX, modX, maskX,
      Fields.memD, Fields.gatherD, Fields.osD, OrdScope.code, orderOf_code, scopeOf_code])
theorem vred (y : Sync) (op : RedOp) (m : Mod) (d : VReg) (a : VReg) : Statement (.vred y op m d a) := of_fields _ (by
  cases op <;> (intro f hf; cases hf; simp (disch := decide) [-Nat.reduceAdd, decodeFields, Fields.sync, Fields.xb, xb_hi, xb_lo, xb_span,
      append_zero, xb_zero, xb_self, ofBool_eq, bit_eq, maskCode_none, rne_code, bq_rest, bq_low, fcondD_code6, scope_low, fence_ord,
      gregD_mk, mregD_zero, sregD_zero, pszD_zero, pk256_self, intOp_fadd, intOp_faddOrd, decodeVx, decodeVxMove, Fields.vs3D, Fields.vi3D,
      Fields.vi2D, Fields.redD, RedOp.codes, vtyD_code, intTyD_code, widthD_wq, widthD_code, Fields.modD, Fields.rmodD, Fields.maskOnlyD,
      Fields.maskSatD, rmD_code, maskD_code, modByte_rm, modByte_sat, modByte_mask, modByte_low3, modByte_low4, fpX, modX, maskX,
      Fields.memD, Fields.gatherD, Fields.osD, OrdScope.code, orderOf_code, scopeOf_code]))
theorem vscan (y : Sync) (op : RedOp) (m : Mod) (d : VReg) (a : VReg) : Statement (.vscan y op m d a) := of_fields _ (by
  cases op <;> (intro f hf; cases hf; simp (disch := decide) [-Nat.reduceAdd, decodeFields, Fields.sync, Fields.xb, xb_hi, xb_lo, xb_span,
      append_zero, xb_zero, xb_self, ofBool_eq, bit_eq, maskCode_none, rne_code, bq_rest, bq_low, fcondD_code6, scope_low, fence_ord,
      gregD_mk, mregD_zero, sregD_zero, pszD_zero, pk256_self, intOp_fadd, intOp_faddOrd, decodeVx, decodeVxMove, Fields.vs3D, Fields.vi3D,
      Fields.vi2D, Fields.redD, RedOp.codes, vtyD_code, intTyD_code, widthD_wq, widthD_code, Fields.modD, Fields.rmodD, Fields.maskOnlyD,
      Fields.maskSatD, rmD_code, maskD_code, modByte_rm, modByte_sat, modByte_mask, modByte_low3, modByte_low4, fpX, modX, maskX,
      Fields.memD, Fields.gatherD, Fields.osD, OrdScope.code, orderOf_code, scopeOf_code]))
theorem vdot (y : Sync) (op : RedOp) (m : Mod) (d : VReg) (a : VReg) (b : VReg) : Statement (.vdot y op m d a b) := of_fields _ (by
  cases op <;> (intro f hf; cases hf; simp (disch := decide) [-Nat.reduceAdd, decodeFields, Fields.sync, Fields.xb, xb_hi, xb_lo, xb_span,
      append_zero, xb_zero, xb_self, ofBool_eq, bit_eq, maskCode_none, rne_code, bq_rest, bq_low, fcondD_code6, scope_low, fence_ord,
      gregD_mk, mregD_zero, sregD_zero, pszD_zero, pk256_self, intOp_fadd, intOp_faddOrd, decodeVx, decodeVxMove, Fields.vs3D, Fields.vi3D,
      Fields.vi2D, Fields.redD, RedOp.codes, vtyD_code, intTyD_code, widthD_wq, widthD_code, Fields.modD, Fields.rmodD, Fields.maskOnlyD,
      Fields.maskSatD, rmD_code, maskD_code, modByte_rm, modByte_sat, modByte_mask, modByte_low3, modByte_low4, fpX, modX, maskX,
      Fields.memD, Fields.gatherD, Fields.osD, OrdScope.code, orderOf_code, scopeOf_code]))
theorem vld (y : Sync) (w : Width) (d : VReg) (m : MemOp) : Statement (.vld y w d m) := of_fields _ (by
  intro f hf; cases hf; simp (disch := decide) [-Nat.reduceAdd, decodeFields, Fields.sync, Fields.xb, xb_hi, xb_lo, xb_span, append_zero,
      xb_zero, xb_self, ofBool_eq, bit_eq, maskCode_none, rne_code, bq_rest, bq_low, fcondD_code6, scope_low, fence_ord, gregD_mk,
      mregD_zero, sregD_zero, pszD_zero, pk256_self, intOp_fadd, intOp_faddOrd, decodeVx, decodeVxMove, Fields.vs3D, Fields.vi3D,
      Fields.vi2D, Fields.redD, RedOp.codes, vtyD_code, intTyD_code, widthD_wq, widthD_code, Fields.modD, Fields.rmodD, Fields.maskOnlyD,
      Fields.maskSatD, rmD_code, maskD_code, modByte_rm, modByte_sat, modByte_mask, modByte_low3, modByte_low4, fpX, modX, maskX,
      Fields.memD, Fields.gatherD, Fields.osD, OrdScope.code, orderOf_code, scopeOf_code])
theorem vst (y : Sync) (w : Width) (d : VReg) (m : MemOp) : Statement (.vst y w d m) := of_fields _ (by
  intro f hf; cases hf; simp (disch := decide) [-Nat.reduceAdd, decodeFields, Fields.sync, Fields.xb, xb_hi, xb_lo, xb_span, append_zero,
      xb_zero, xb_self, ofBool_eq, bit_eq, maskCode_none, rne_code, bq_rest, bq_low, fcondD_code6, scope_low, fence_ord, gregD_mk,
      mregD_zero, sregD_zero, pszD_zero, pk256_self, intOp_fadd, intOp_faddOrd, decodeVx, decodeVxMove, Fields.vs3D, Fields.vi3D,
      Fields.vi2D, Fields.redD, RedOp.codes, vtyD_code, intTyD_code, widthD_wq, widthD_code, Fields.modD, Fields.rmodD, Fields.maskOnlyD,
      Fields.maskSatD, rmD_code, maskD_code, modByte_rm, modByte_sat, modByte_mask, modByte_low3, modByte_low4, fpX, modX, maskX,
      Fields.memD, Fields.gatherD, Fields.osD, OrdScope.code, orderOf_code, scopeOf_code])
theorem vlds (y : Sync) (w : Width) (d : VReg) (m : MemOp) : Statement (.vlds y w d m) := of_fields _ (by
  intro f hf; cases hf; simp (disch := decide) [-Nat.reduceAdd, decodeFields, Fields.sync, Fields.xb, xb_hi, xb_lo, xb_span, append_zero,
      xb_zero, xb_self, ofBool_eq, bit_eq, maskCode_none, rne_code, bq_rest, bq_low, fcondD_code6, scope_low, fence_ord, gregD_mk,
      mregD_zero, sregD_zero, pszD_zero, pk256_self, intOp_fadd, intOp_faddOrd, decodeVx, decodeVxMove, Fields.vs3D, Fields.vi3D,
      Fields.vi2D, Fields.redD, RedOp.codes, vtyD_code, intTyD_code, widthD_wq, widthD_code, Fields.modD, Fields.rmodD, Fields.maskOnlyD,
      Fields.maskSatD, rmD_code, maskD_code, modByte_rm, modByte_sat, modByte_mask, modByte_low3, modByte_low4, fpX, modX, maskX,
      Fields.memD, Fields.gatherD, Fields.osD, OrdScope.code, orderOf_code, scopeOf_code])
theorem vsts (y : Sync) (w : Width) (d : VReg) (m : MemOp) : Statement (.vsts y w d m) := of_fields _ (by
  intro f hf; cases hf; simp (disch := decide) [-Nat.reduceAdd, decodeFields, Fields.sync, Fields.xb, xb_hi, xb_lo, xb_span, append_zero,
      xb_zero, xb_self, ofBool_eq, bit_eq, maskCode_none, rne_code, bq_rest, bq_low, fcondD_code6, scope_low, fence_ord, gregD_mk,
      mregD_zero, sregD_zero, pszD_zero, pk256_self, intOp_fadd, intOp_faddOrd, decodeVx, decodeVxMove, Fields.vs3D, Fields.vi3D,
      Fields.vi2D, Fields.redD, RedOp.codes, vtyD_code, intTyD_code, widthD_wq, widthD_code, Fields.modD, Fields.rmodD, Fields.maskOnlyD,
      Fields.maskSatD, rmD_code, maskD_code, modByte_rm, modByte_sat, modByte_mask, modByte_low3, modByte_low4, fpX, modX, maskX,
      Fields.memD, Fields.gatherD, Fields.osD, OrdScope.code, orderOf_code, scopeOf_code])
theorem vgath (y : Sync) (w : Width) (d : VReg) (g : GatherOp) : Statement (.vgath y w d g) := of_fields _ (by
  intro f hf; cases hf; simp (disch := decide) [-Nat.reduceAdd, decodeFields, Fields.sync, Fields.xb, xb_hi, xb_lo, xb_span, append_zero,
      xb_zero, xb_self, ofBool_eq, bit_eq, maskCode_none, rne_code, bq_rest, bq_low, fcondD_code6, scope_low, fence_ord, gregD_mk,
      mregD_zero, sregD_zero, pszD_zero, pk256_self, intOp_fadd, intOp_faddOrd, decodeVx, decodeVxMove, Fields.vs3D, Fields.vi3D,
      Fields.vi2D, Fields.redD, RedOp.codes, vtyD_code, intTyD_code, widthD_wq, widthD_code, Fields.modD, Fields.rmodD, Fields.maskOnlyD,
      Fields.maskSatD, rmD_code, maskD_code, modByte_rm, modByte_sat, modByte_mask, modByte_low3, modByte_low4, fpX, modX, maskX,
      Fields.memD, Fields.gatherD, Fields.osD, OrdScope.code, orderOf_code, scopeOf_code])
theorem vscat (y : Sync) (w : Width) (d : VReg) (g : GatherOp) : Statement (.vscat y w d g) := of_fields _ (by
  intro f hf; cases hf; simp (disch := decide) [-Nat.reduceAdd, decodeFields, Fields.sync, Fields.xb, xb_hi, xb_lo, xb_span, append_zero,
      xb_zero, xb_self, ofBool_eq, bit_eq, maskCode_none, rne_code, bq_rest, bq_low, fcondD_code6, scope_low, fence_ord, gregD_mk,
      mregD_zero, sregD_zero, pszD_zero, pk256_self, intOp_fadd, intOp_faddOrd, decodeVx, decodeVxMove, Fields.vs3D, Fields.vi3D,
      Fields.vi2D, Fields.redD, RedOp.codes, vtyD_code, intTyD_code, widthD_wq, widthD_code, Fields.modD, Fields.rmodD, Fields.maskOnlyD,
      Fields.maskSatD, rmD_code, maskD_code, modByte_rm, modByte_sat, modByte_mask, modByte_low3, modByte_low4, fpX, modX, maskX,
      Fields.memD, Fields.gatherD, Fields.osD, OrdScope.code, orderOf_code, scopeOf_code])
theorem mlog (y : Sync) (op : MlogOp) : Statement (.mlog y op) := of_fields _ (by
  cases op <;> (intro f hf; cases hf; simp (disch := decide) [-Nat.reduceAdd, decodeFields, Fields.sync, Fields.xb, xb_hi, xb_lo, xb_span,
      append_zero, xb_zero, xb_self, ofBool_eq, bit_eq, maskCode_none, rne_code, bq_rest, bq_low, fcondD_code6, scope_low, fence_ord,
      gregD_mk, mregD_zero, sregD_zero, pszD_zero, pk256_self, intOp_fadd, intOp_faddOrd, decodeVx, decodeVxMove, Fields.vs3D, Fields.vi3D,
      Fields.vi2D, Fields.redD, RedOp.codes, vtyD_code, intTyD_code, widthD_wq, widthD_code, Fields.modD, Fields.rmodD, Fields.maskOnlyD,
      Fields.maskSatD, rmD_code, maskD_code, modByte_rm, modByte_sat, modByte_mask, modByte_low3, modByte_low4, fpX, modX, maskX,
      Fields.memD, Fields.gatherD, Fields.osD, OrdScope.code, orderOf_code, scopeOf_code]))
theorem mpopc (y : Sync) (d : SReg) (a : MReg) : Statement (.mpopc y d a) := of_fields _ (by
  intro f hf; cases hf; simp (disch := decide) [-Nat.reduceAdd, decodeFields, Fields.sync, Fields.xb, xb_hi, xb_lo, xb_span, append_zero,
      xb_zero, xb_self, ofBool_eq, bit_eq, maskCode_none, rne_code, bq_rest, bq_low, fcondD_code6, scope_low, fence_ord, gregD_mk,
      mregD_zero, sregD_zero, pszD_zero, pk256_self, intOp_fadd, intOp_faddOrd, decodeVx, decodeVxMove, Fields.vs3D, Fields.vi3D,
      Fields.vi2D, Fields.redD, RedOp.codes, vtyD_code, intTyD_code, widthD_wq, widthD_code, Fields.modD, Fields.rmodD, Fields.maskOnlyD,
      Fields.maskSatD, rmD_code, maskD_code, modByte_rm, modByte_sat, modByte_mask, modByte_low3, modByte_low4, fpX, modX, maskX,
      Fields.memD, Fields.gatherD, Fields.osD, OrdScope.code, orderOf_code, scopeOf_code])
theorem msetl (y : Sync) (w : Width) (d : MReg) (a : SReg) : Statement (.msetl y w d a) := of_fields _ (by
  intro f hf; cases hf; simp (disch := decide) [-Nat.reduceAdd, decodeFields, Fields.sync, Fields.xb, xb_hi, xb_lo, xb_span, append_zero,
      xb_zero, xb_self, ofBool_eq, bit_eq, maskCode_none, rne_code, bq_rest, bq_low, fcondD_code6, scope_low, fence_ord, gregD_mk,
      mregD_zero, sregD_zero, pszD_zero, pk256_self, intOp_fadd, intOp_faddOrd, decodeVx, decodeVxMove, Fields.vs3D, Fields.vi3D,
      Fields.vi2D, Fields.redD, RedOp.codes, vtyD_code, intTyD_code, widthD_wq, widthD_code, Fields.modD, Fields.rmodD, Fields.maskOnlyD,
      Fields.maskSatD, rmD_code, maskD_code, modByte_rm, modByte_sat, modByte_mask, modByte_low3, modByte_low4, fpX, modX, maskX,
      Fields.memD, Fields.gatherD, Fields.osD, OrdScope.code, orderOf_code, scopeOf_code])
theorem vsetw (y : Sync) (d : SReg) (x : WidthSrc) : Statement (.vsetw y d x) := of_fields _ (by
  cases x <;> (intro f hf; cases hf; simp (disch := decide) [-Nat.reduceAdd, decodeFields, Fields.sync, Fields.xb, xb_hi, xb_lo, xb_span,
      append_zero, xb_zero, xb_self, ofBool_eq, bit_eq, maskCode_none, rne_code, bq_rest, bq_low, fcondD_code6, scope_low, fence_ord,
      gregD_mk, mregD_zero, sregD_zero, pszD_zero, pk256_self, intOp_fadd, intOp_faddOrd, decodeVx, decodeVxMove, Fields.vs3D, Fields.vi3D,
      Fields.vi2D, Fields.redD, RedOp.codes, vtyD_code, intTyD_code, widthD_wq, widthD_code, Fields.modD, Fields.rmodD, Fields.maskOnlyD,
      Fields.maskSatD, rmD_code, maskD_code, modByte_rm, modByte_sat, modByte_mask, modByte_low3, modByte_low4, fpX, modX, maskX,
      Fields.memD, Fields.gatherD, Fields.osD, OrdScope.code, orderOf_code, scopeOf_code]))
theorem txload (y : Sync) (d : AReg) (s : AReg) : Statement (.txload y d s) := of_fields _ (by
  intro f hf; cases hf; simp (disch := decide) [-Nat.reduceAdd, decodeFields, Fields.sync, Fields.xb, xb_hi, xb_lo, xb_span, append_zero,
      xb_zero, xb_self, ofBool_eq, bit_eq, maskCode_none, rne_code, bq_rest, bq_low, fcondD_code6, scope_low, fence_ord, gregD_mk,
      mregD_zero, sregD_zero, pszD_zero, pk256_self, intOp_fadd, intOp_faddOrd, decodeTx, vty2D_code, Fields.modD, Fields.rmodD,
      Fields.maskOnlyD, Fields.maskSatD, rmD_code, maskD_code, modByte_rm, modByte_sat, modByte_mask, modByte_low3, modByte_low4, fpX, modX,
      maskX])
theorem txrun (y : Sync) (dst : VTy) (src : VTy) (sat : Bool) (d : AReg) (s : AReg) (n : SReg) (t : AReg) : Statement (.txrun y dst src sat
    d s n t) := of_fields _ (by
  intro f hf; cases hf; simp (disch := decide) [-Nat.reduceAdd, decodeFields, Fields.sync, Fields.xb, xb_hi, xb_lo, xb_span, append_zero,
      xb_zero, xb_self, ofBool_eq, bit_eq, maskCode_none, rne_code, bq_rest, bq_low, fcondD_code6, scope_low, fence_ord, gregD_mk,
      mregD_zero, sregD_zero, pszD_zero, pk256_self, intOp_fadd, intOp_faddOrd, decodeTx, vty2D_code, Fields.modD, Fields.rmodD,
      Fields.maskOnlyD, Fields.maskSatD, rmD_code, maskD_code, modByte_rm, modByte_sat, modByte_mask, modByte_low3, modByte_low4, fpX, modX,
      maskX])
theorem txv (y : Sync) (dst : VTy) (src : VTy) (m : Option MReg) (sat : Bool) (d : VReg) (a : VReg) (t : AReg) : Statement (.txv y dst src m
    sat d a t) := of_fields _ (by
  intro f hf; cases hf; simp (disch := decide) [-Nat.reduceAdd, decodeFields, Fields.sync, Fields.xb, xb_hi, xb_lo, xb_span, append_zero,
      xb_zero, xb_self, ofBool_eq, bit_eq, maskCode_none, rne_code, bq_rest, bq_low, fcondD_code6, scope_low, fence_ord, gregD_mk,
      mregD_zero, sregD_zero, pszD_zero, pk256_self, intOp_fadd, intOp_faddOrd, decodeTx, vty2D_code, Fields.modD, Fields.rmodD,
      Fields.maskOnlyD, Fields.maskSatD, rmD_code, maskD_code, modByte_rm, modByte_sat, modByte_mask, modByte_low3, modByte_low4, fpX, modX,
      maskX])
theorem txcfg (y : Sync) (t : AReg) (a : SReg) (b : SReg) : Statement (.txcfg y t a b) := of_fields _ (by
  intro f hf; cases hf; simp (disch := decide) [-Nat.reduceAdd, decodeFields, Fields.sync, Fields.xb, xb_hi, xb_lo, xb_span, append_zero,
      xb_zero, xb_self, ofBool_eq, bit_eq, maskCode_none, rne_code, bq_rest, bq_low, fcondD_code6, scope_low, fence_ord, gregD_mk,
      mregD_zero, sregD_zero, pszD_zero, pk256_self, intOp_fadd, intOp_faddOrd, decodeTx, vty2D_code, Fields.modD, Fields.rmodD,
      Fields.maskOnlyD, Fields.maskSatD, rmD_code, maskD_code, modByte_rm, modByte_sat, modByte_mask, modByte_low3, modByte_low4, fpX, modX,
      maskX])
theorem txrd (y : Sync) (d : SReg) (t : AReg) (a : SReg) : Statement (.txrd y d t a) := of_fields _ (by
  intro f hf; cases hf; simp (disch := decide) [-Nat.reduceAdd, decodeFields, Fields.sync, Fields.xb, xb_hi, xb_lo, xb_span, append_zero,
      xb_zero, xb_self, ofBool_eq, bit_eq, maskCode_none, rne_code, bq_rest, bq_low, fcondD_code6, scope_low, fence_ord, gregD_mk,
      mregD_zero, sregD_zero, pszD_zero, pk256_self, intOp_fadd, intOp_faddOrd, decodeTx, vty2D_code, Fields.modD, Fields.rmodD,
      Fields.maskOnlyD, Fields.maskSatD, rmD_code, maskD_code, modByte_rm, modByte_sat, modByte_mask, modByte_low3, modByte_low4, fpX, modX,
      maskX])
theorem mxldw (y : Sync) (fmt : BitVec 8) (w : AReg) (t : SReg) (x : GReg) (sc : ScaleOp) : Statement (.mxldw y fmt w t x sc) := of_fields _ (by
  cases sc <;> (intro f hf; cases hf; simp (disch := decide) [-Nat.reduceAdd, decodeFields, Fields.sync, Fields.xb, xb_hi, xb_lo, xb_span,
      append_zero, xb_zero, xb_self, ofBool_eq, bit_eq, maskCode_none, rne_code, bq_rest, bq_low, fcondD_code6, scope_low, fence_ord,
      gregD_mk, mregD_zero, sregD_zero, pszD_zero, pk256_self, intOp_fadd, intOp_faddOrd, decodeMx, Fields.scaleD, kindD_code, mxX, scReg,
      rmD_code]))
theorem mxldwt (y : Sync) (fmt : BitVec 8) (w : AReg) (t : SReg) (x : GReg) (sc : ScaleOp) : Statement (.mxldwt y fmt w t x sc) := of_fields _ (by
  cases sc <;> (intro f hf; cases hf; simp (disch := decide) [-Nat.reduceAdd, decodeFields, Fields.sync, Fields.xb, xb_hi, xb_lo, xb_span,
      append_zero, xb_zero, xb_self, ofBool_eq, bit_eq, maskCode_none, rne_code, bq_rest, bq_low, fcondD_code6, scope_low, fence_ord,
      gregD_mk, mregD_zero, sregD_zero, pszD_zero, pk256_self, intOp_fadd, intOp_faddOrd, decodeMx, Fields.scaleD, kindD_code, mxX, scReg,
      rmD_code]))
theorem mxpass (y : Sync) (fmt : BitVec 8) (acc : AccReg) (a : AReg) (t : SReg) (x : GReg) (sc : ScaleOp) : Statement (.mxpass y fmt acc a t
    x sc) := of_fields _ (by
  cases sc <;> (intro f hf; cases hf; simp (disch := decide) [-Nat.reduceAdd, decodeFields, Fields.sync, Fields.xb, xb_hi, xb_lo, xb_span,
      append_zero, xb_zero, xb_self, ofBool_eq, bit_eq, maskCode_none, rne_code, bq_rest, bq_low, fcondD_code6, scope_low, fence_ord,
      gregD_mk, mregD_zero, sregD_zero, pszD_zero, pk256_self, intOp_fadd, intOp_faddOrd, decodeMx, Fields.scaleD, kindD_code, mxX, scReg,
      rmD_code]))
theorem mxzero (y : Sync) (mask : BitVec 8) : Statement (.mxzero y mask) := of_fields _ (by
  intro f hf; cases hf; simp (disch := decide) [-Nat.reduceAdd, decodeFields, Fields.sync, Fields.xb, xb_hi, xb_lo, xb_span, append_zero,
      xb_zero, xb_self, ofBool_eq, bit_eq, maskCode_none, rne_code, bq_rest, bq_low, fcondD_code6, scope_low, fence_ord, gregD_mk,
      mregD_zero, sregD_zero, pszD_zero, pk256_self, intOp_fadd, intOp_faddOrd, decodeMx, Fields.scaleD, kindD_code, mxX, scReg, rmD_code])
theorem mxst (y : Sync) (kind : AccKindM) (dst : BitVec 8) (r : RMod) (acc : AccReg) (d : AReg) (t : SReg) (x : GReg) : Statement (.mxst y
    kind dst r acc d t x) := of_fields _ (by
  intro f hf; cases hf; simp (disch := decide) [-Nat.reduceAdd, decodeFields, Fields.sync, Fields.xb, xb_hi, xb_lo, xb_span, append_zero,
      xb_zero, xb_self, ofBool_eq, bit_eq, maskCode_none, rne_code, bq_rest, bq_low, fcondD_code6, scope_low, fence_ord, gregD_mk,
      mregD_zero, sregD_zero, pszD_zero, pk256_self, intOp_fadd, intOp_faddOrd, decodeMx, Fields.scaleD, kindD_code, mxX, scReg, rmD_code])
theorem mxrdv (y : Sync) (kind : AccKindM) (dst : BitVec 8) (r : RMod) (d : VReg) (acc : AccReg) (t : SReg) : Statement (.mxrdv y kind dst r
    d acc t) := of_fields _ (by
  intro f hf; cases hf; simp (disch := decide) [-Nat.reduceAdd, decodeFields, Fields.sync, Fields.xb, xb_hi, xb_lo, xb_span, append_zero,
      xb_zero, xb_self, ofBool_eq, bit_eq, maskCode_none, rne_code, bq_rest, bq_low, fcondD_code6, scope_low, fence_ord, gregD_mk,
      mregD_zero, sregD_zero, pszD_zero, pk256_self, intOp_fadd, intOp_faddOrd, decodeMx, Fields.scaleD, kindD_code, mxX, scReg, rmD_code])
theorem mxwrv (y : Sync) (acc : AccReg) (a : VReg) (t : SReg) : Statement (.mxwrv y acc a t) := of_fields _ (by
  intro f hf; cases hf; simp (disch := decide) [-Nat.reduceAdd, decodeFields, Fields.sync, Fields.xb, xb_hi, xb_lo, xb_span, append_zero,
      xb_zero, xb_self, ofBool_eq, bit_eq, maskCode_none, rne_code, bq_rest, bq_low, fcondD_code6, scope_low, fence_ord, gregD_mk,
      mregD_zero, sregD_zero, pszD_zero, pk256_self, intOp_fadd, intOp_faddOrd, decodeMx, Fields.scaleD, kindD_code, mxX, scReg, rmD_code])
theorem mxagen (y : Sync) (op : AgenOp) : Statement (.mxagen y op) := of_fields _ (by
  cases op <;> (intro f hf; cases hf; simp (disch := decide) [-Nat.reduceAdd, decodeFields, Fields.sync, Fields.xb, xb_hi, xb_lo, xb_span,
      append_zero, xb_zero, xb_self, ofBool_eq, bit_eq, maskCode_none, rne_code, bq_rest, bq_low, fcondD_code6, scope_low, fence_ord,
      gregD_mk, mregD_zero, sregD_zero, pszD_zero, pk256_self, intOp_fadd, intOp_faddOrd, decodeMx, Fields.scaleD, kindD_code, mxX, scReg,
      rmD_code]))
theorem mxscl (y : Sync) (s : AReg) (t : SReg) (g : GReg) : Statement (.mxscl y s t g) := of_fields _ (by
  intro f hf; cases hf; simp (disch := decide) [-Nat.reduceAdd, decodeFields, Fields.sync, Fields.xb, xb_hi, xb_lo, xb_span, append_zero,
      xb_zero, xb_self, ofBool_eq, bit_eq, maskCode_none, rne_code, bq_rest, bq_low, fcondD_code6, scope_low, fence_ord, gregD_mk,
      mregD_zero, sregD_zero, pszD_zero, pk256_self, intOp_fadd, intOp_faddOrd, decodeMx, Fields.scaleD, kindD_code, mxX, scReg, rmD_code])
theorem mxmode (y : Sync) (op : ModeOp) : Statement (.mxmode y op) := of_fields _ (by
  cases op <;> (intro f hf; cases hf; simp (disch := decide) [-Nat.reduceAdd, decodeFields, Fields.sync, Fields.xb, xb_hi, xb_lo, xb_span,
      append_zero, xb_zero, xb_self, ofBool_eq, bit_eq, maskCode_none, rne_code, bq_rest, bq_low, fcondD_code6, scope_low, fence_ord,
      gregD_mk, mregD_zero, sregD_zero, pszD_zero, pk256_self, intOp_fadd, intOp_faddOrd, decodeMx, Fields.scaleD, kindD_code, mxX, scReg,
      rmD_code]))
theorem mxchk (y : Sync) (op : ChkOp) : Statement (.mxchk y op) := of_fields _ (by
  cases op <;> (intro f hf; cases hf; simp (disch := decide) [-Nat.reduceAdd, decodeFields, Fields.sync, Fields.xb, xb_hi, xb_lo, xb_span,
      append_zero, xb_zero, xb_self, ofBool_eq, bit_eq, maskCode_none, rne_code, bq_rest, bq_low, fcondD_code6, scope_low, fence_ord,
      gregD_mk, mregD_zero, sregD_zero, pszD_zero, pk256_self, intOp_fadd, intOp_faddOrd, decodeMx, Fields.scaleD, kindD_code, mxX, scReg,
      rmD_code]))
theorem mxidle (y : Sync) : Statement (.mxidle y) := of_fields _ (by
  intro f hf; cases hf; simp (disch := decide) [-Nat.reduceAdd, decodeFields, Fields.sync, Fields.xb, xb_hi, xb_lo, xb_span, append_zero,
      xb_zero, xb_self, ofBool_eq, bit_eq, maskCode_none, rne_code, bq_rest, bq_low, fcondD_code6, scope_low, fence_ord, gregD_mk,
      mregD_zero, sregD_zero, pszD_zero, pk256_self, intOp_fadd, intOp_faddOrd, decodeMx, Fields.scaleD, kindD_code, mxX, scReg, rmD_code])
theorem cpy (y : Sync) (d : AReg) (s : AReg) (n : SReg) (lw : Option AReg) : Statement (.cpy y d s n lw) := of_fields _ (by
  cases lw <;> (intro f hf; cases hf; simp (disch := decide) [-Nat.reduceAdd, decodeFields, Fields.sync, Fields.xb, xb_hi, xb_lo, xb_span,
      append_zero, xb_zero, xb_self, ofBool_eq, bit_eq, maskCode_none, rne_code, bq_rest, bq_low, fcondD_code6, scope_low, fence_ord,
      gregD_mk, mregD_zero, sregD_zero, pszD_zero, pk256_self, intOp_fadd, intOp_faddOrd, decodeCx, lwD, lwoffD, lwReg, lwoffX, widthD_wq]))
theorem cpyt (y : Sync) (p : BitVec 4) (d : AReg) (s : AReg) (t : SReg) (dstr : BitVec 16) (lw : Option AReg) : Statement (.cpyt y p d s t
    dstr lw) := of_fields _ (by
  cases lw <;> (intro f hf; cases hf; simp (disch := decide) [-Nat.reduceAdd, decodeFields, Fields.sync, Fields.xb, xb_hi, xb_lo, xb_span,
      append_zero, xb_zero, xb_self, ofBool_eq, bit_eq, maskCode_none, rne_code, bq_rest, bq_low, fcondD_code6, scope_low, fence_ord,
      gregD_mk, mregD_zero, sregD_zero, pszD_zero, pk256_self, intOp_fadd, intOp_faddOrd, decodeCx, lwD, lwoffD, lwReg, lwoffX, widthD_wq]))
theorem cpym (y : Sync) (d : AReg) (s : AReg) (n : SReg) (m : SReg) (lw : Option (BitVec 26)) : Statement (.cpym y d s n m lw) := of_fields _ (by
  cases lw <;> (intro f hf; cases hf; simp (disch := decide) [-Nat.reduceAdd, decodeFields, Fields.sync, Fields.xb, xb_hi, xb_lo, xb_span,
      append_zero, xb_zero, xb_self, ofBool_eq, bit_eq, maskCode_none, rne_code, bq_rest, bq_low, fcondD_code6, scope_low, fence_ord,
      gregD_mk, mregD_zero, sregD_zero, pszD_zero, pk256_self, intOp_fadd, intOp_faddOrd, decodeCx, lwD, lwoffD, lwReg, lwoffX, widthD_wq]))
theorem fill (y : Sync) (w : Width) (d : AReg) (n : SReg) (v : SReg) (lw : Option AReg) : Statement (.fill y w d n v lw) := of_fields _ (by
  cases lw <;> (intro f hf; cases hf; simp (disch := decide) [-Nat.reduceAdd, decodeFields, Fields.sync, Fields.xb, xb_hi, xb_lo, xb_span,
      append_zero, xb_zero, xb_self, ofBool_eq, bit_eq, maskCode_none, rne_code, bq_rest, bq_low, fcondD_code6, scope_low, fence_ord,
      gregD_mk, mregD_zero, sregD_zero, pszD_zero, pk256_self, intOp_fadd, intOp_faddOrd, decodeCx, lwD, lwoffD, lwReg, lwoffX, widthD_wq]))
theorem rlopen (y : Sync) (k : KReg) (r : AReg) : Statement (.rlopen y k r) := of_fields _ (by
  intro f hf; cases hf; simp (disch := decide) [-Nat.reduceAdd, decodeFields, Fields.sync, Fields.xb, xb_hi, xb_lo, xb_span, append_zero,
      xb_zero, xb_self, ofBool_eq, bit_eq, maskCode_none, rne_code, bq_rest, bq_low, fcondD_code6, scope_low, fence_ord, gregD_mk,
      mregD_zero, sregD_zero, pszD_zero, pk256_self, intOp_fadd, intOp_faddOrd, decodeCx, lwD, lwoffD, lwReg, lwoffX, widthD_wq])
theorem rlhold (y : Sync) (k : KReg) : Statement (.rlhold y k) := of_fields _ (by
  intro f hf; cases hf; simp (disch := decide) [-Nat.reduceAdd, decodeFields, Fields.sync, Fields.xb, xb_hi, xb_lo, xb_span, append_zero,
      xb_zero, xb_self, ofBool_eq, bit_eq, maskCode_none, rne_code, bq_rest, bq_low, fcondD_code6, scope_low, fence_ord, gregD_mk,
      mregD_zero, sregD_zero, pszD_zero, pk256_self, intOp_fadd, intOp_faddOrd, decodeCx, lwD, lwoffD, lwReg, lwoffX, widthD_wq])
theorem rlrel (y : Sync) (k : KReg) : Statement (.rlrel y k) := of_fields _ (by
  intro f hf; cases hf; simp (disch := decide) [-Nat.reduceAdd, decodeFields, Fields.sync, Fields.xb, xb_hi, xb_lo, xb_span, append_zero,
      xb_zero, xb_self, ofBool_eq, bit_eq, maskCode_none, rne_code, bq_rest, bq_low, fcondD_code6, scope_low, fence_ord, gregD_mk,
      mregD_zero, sregD_zero, pszD_zero, pk256_self, intOp_fadd, intOp_faddOrd, decodeCx, lwD, lwoffD, lwReg, lwoffX, widthD_wq])
theorem rlrd (y : Sync) (d : AReg) (k : KReg) (p : SReg) (lw : Option AReg) : Statement (.rlrd y d k p lw) := of_fields _ (by
  cases lw <;> (intro f hf; cases hf; simp (disch := decide) [-Nat.reduceAdd, decodeFields, Fields.sync, Fields.xb, xb_hi, xb_lo, xb_span,
      append_zero, xb_zero, xb_self, ofBool_eq, bit_eq, maskCode_none, rne_code, bq_rest, bq_low, fcondD_code6, scope_low, fence_ord,
      gregD_mk, mregD_zero, sregD_zero, pszD_zero, pk256_self, intOp_fadd, intOp_faddOrd, decodeCx, lwD, lwoffD, lwReg, lwoffX, widthD_wq]))
theorem rlwr (y : Sync) (k : KReg) (s : AReg) (p : SReg) : Statement (.rlwr y k s p) := of_fields _ (by
  intro f hf; cases hf; simp (disch := decide) [-Nat.reduceAdd, decodeFields, Fields.sync, Fields.xb, xb_hi, xb_lo, xb_span, append_zero,
      xb_zero, xb_self, ofBool_eq, bit_eq, maskCode_none, rne_code, bq_rest, bq_low, fcondD_code6, scope_low, fence_ord, gregD_mk,
      mregD_zero, sregD_zero, pszD_zero, pk256_self, intOp_fadd, intOp_faddOrd, decodeCx, lwD, lwoffD, lwReg, lwoffX, widthD_wq])
theorem rlstat (y : Sync) (d : SReg) (k : KReg) : Statement (.rlstat y d k) := of_fields _ (by
  intro f hf; cases hf; simp (disch := decide) [-Nat.reduceAdd, decodeFields, Fields.sync, Fields.xb, xb_hi, xb_lo, xb_span, append_zero,
      xb_zero, xb_self, ofBool_eq, bit_eq, maskCode_none, rne_code, bq_rest, bq_low, fcondD_code6, scope_low, fence_ord, gregD_mk,
      mregD_zero, sregD_zero, pszD_zero, pk256_self, intOp_fadd, intOp_faddOrd, decodeCx, lwD, lwoffD, lwReg, lwoffX, widthD_wq])
theorem streamrow (y : Sync) (d : AReg) (r : AReg) (lw : Option AReg) : Statement (.streamrow y d r lw) := of_fields _ (by
  cases lw <;> (intro f hf; cases hf; simp (disch := decide) [-Nat.reduceAdd, decodeFields, Fields.sync, Fields.xb, xb_hi, xb_lo, xb_span,
      append_zero, xb_zero, xb_self, ofBool_eq, bit_eq, maskCode_none, rne_code, bq_rest, bq_low, fcondD_code6, scope_low, fence_ord,
      gregD_mk, mregD_zero, sregD_zero, pszD_zero, pk256_self, intOp_fadd, intOp_faddOrd, decodeCx, lwD, lwoffD, lwReg, lwoffX, widthD_wq]))
theorem bankclose (y : Sync) (r : AReg) : Statement (.bankclose y r) := of_fields _ (by
  intro f hf; cases hf; simp (disch := decide) [-Nat.reduceAdd, decodeFields, Fields.sync, Fields.xb, xb_hi, xb_lo, xb_span, append_zero,
      xb_zero, xb_self, ofBool_eq, bit_eq, maskCode_none, rne_code, bq_rest, bq_low, fcondD_code6, scope_low, fence_ord, gregD_mk,
      mregD_zero, sregD_zero, pszD_zero, pk256_self, intOp_fadd, intOp_faddOrd, decodeCx, lwD, lwoffD, lwReg, lwoffX, widthD_wq])
theorem sqload (y : Sync) (sys : Bool) (d : SReg) (t : ThreadId) (p : AReg) (n : SReg) : Statement (.sqload y sys d t p n) := of_fields _ (by
  cases sys <;> (intro f hf; cases hf; simp (disch := decide) [-Nat.reduceAdd, decodeFields, Fields.sync, Fields.xb, xb_hi, xb_lo, xb_span,
      append_zero, xb_zero, xb_self, ofBool_eq, bit_eq, maskCode_none, rne_code, bq_rest, bq_low, fcondD_code6, scope_low, fence_ord,
      gregD_mk, mregD_zero, sregD_zero, pszD_zero, pk256_self, intOp_fadd, intOp_faddOrd, decodeSqTask, thrD, thrX]))
theorem sqstart (y : Sync) (d : SReg) (t : ThreadId) (a : AReg) : Statement (.sqstart y d t a) := of_fields _ (by
  intro f hf; cases hf; simp (disch := decide) [-Nat.reduceAdd, decodeFields, Fields.sync, Fields.xb, xb_hi, xb_lo, xb_span, append_zero,
      xb_zero, xb_self, ofBool_eq, bit_eq, maskCode_none, rne_code, bq_rest, bq_low, fcondD_code6, scope_low, fence_ord, gregD_mk,
      mregD_zero, sregD_zero, pszD_zero, pk256_self, intOp_fadd, intOp_faddOrd, decodeSqTask, thrD, thrX])
theorem sqstop (y : Sync) (d : SReg) (t : ThreadId) : Statement (.sqstop y d t) := of_fields _ (by
  intro f hf; cases hf; simp (disch := decide) [-Nat.reduceAdd, decodeFields, Fields.sync, Fields.xb, xb_hi, xb_lo, xb_span, append_zero,
      xb_zero, xb_self, ofBool_eq, bit_eq, maskCode_none, rne_code, bq_rest, bq_low, fcondD_code6, scope_low, fence_ord, gregD_mk,
      mregD_zero, sregD_zero, pszD_zero, pk256_self, intOp_fadd, intOp_faddOrd, decodeSqTask, thrD, thrX])
theorem sqstat (y : Sync) (d : SReg) (t : ThreadId) : Statement (.sqstat y d t) := of_fields _ (by
  intro f hf; cases hf; simp (disch := decide) [-Nat.reduceAdd, decodeFields, Fields.sync, Fields.xb, xb_hi, xb_lo, xb_span, append_zero,
      xb_zero, xb_self, ofBool_eq, bit_eq, maskCode_none, rne_code, bq_rest, bq_low, fcondD_code6, scope_low, fence_ord, gregD_mk,
      mregD_zero, sregD_zero, pszD_zero, pk256_self, intOp_fadd, intOp_faddOrd, decodeSqTask, thrD, thrX])
theorem sqburst (s : WReg) (n : WReg) (o : WReg) (ms : MsReg) (lw : Option (BitVec 26)) : Statement (.sqburst s n o ms lw) := of_fields _ (by
  cases lw <;> (intro f hf; cases hf; simp (disch := decide) [-Nat.reduceAdd, decodeFields, Fields.sync, Fields.xb, xb_hi, xb_lo, xb_span,
      append_zero, xb_zero, xb_self, ofBool_eq, bit_eq, maskCode_none, rne_code, bq_rest, bq_low, fcondD_code6, scope_low, fence_ord,
      gregD_mk, mregD_zero, sregD_zero, pszD_zero, pk256_self, intOp_fadd, intOp_faddOrd, decodeSqWord, Fields.sqsetD, lwoffD, lwoffX,
      Sync.none, toFin_reg]))
theorem sqset (op : SqsetOp) : Statement (.sqset op) := of_fields _ (by
  cases op <;> (intro f hf; cases hf; simp (disch := decide) [-Nat.reduceAdd, decodeFields, Fields.sync, Fields.xb, xb_hi, xb_lo, xb_span,
      append_zero, xb_zero, xb_self, ofBool_eq, bit_eq, maskCode_none, rne_code, bq_rest, bq_low, fcondD_code6, scope_low, fence_ord,
      gregD_mk, mregD_zero, sregD_zero, pszD_zero, pk256_self, intOp_fadd, intOp_faddOrd, decodeSqWord, Fields.sqsetD, lwoffD, lwoffX,
      Sync.none, toFin_reg]))
theorem sqsig (ms : MsReg) (n : BitVec 8) (c : BitVec 4) : Statement (.sqsig ms n c) := of_fields _ (by
  intro f hf; cases hf; simp (disch := decide) [-Nat.reduceAdd, decodeFields, Fields.sync, Fields.xb, xb_hi, xb_lo, xb_span, append_zero,
      xb_zero, xb_self, ofBool_eq, bit_eq, maskCode_none, rne_code, bq_rest, bq_low, fcondD_code6, scope_low, fence_ord, gregD_mk,
      mregD_zero, sregD_zero, pszD_zero, pk256_self, intOp_fadd, intOp_faddOrd, decodeSqWord, Fields.sqsetD, lwoffD, lwoffX, Sync.none,
      toFin_reg])
theorem sqwait (a : WReg) (v : WReg) : Statement (.sqwait a v) := of_fields _ (by
  intro f hf; cases hf; simp (disch := decide) [-Nat.reduceAdd, decodeFields, Fields.sync, Fields.xb, xb_hi, xb_lo, xb_span, append_zero,
      xb_zero, xb_self, ofBool_eq, bit_eq, maskCode_none, rne_code, bq_rest, bq_low, fcondD_code6, scope_low, fence_ord, gregD_mk,
      mregD_zero, sregD_zero, pszD_zero, pk256_self, intOp_fadd, intOp_faddOrd, decodeSqWord, Fields.sqsetD, lwoffD, lwoffX, Sync.none,
      toFin_reg])
theorem sqloop (c : WReg) (disp : BitVec 32) : Statement (.sqloop c disp) := of_fields _ (by
  intro f hf; cases hf; simp (disch := decide) [-Nat.reduceAdd, decodeFields, Fields.sync, Fields.xb, xb_hi, xb_lo, xb_span, append_zero,
      xb_zero, xb_self, ofBool_eq, bit_eq, maskCode_none, rne_code, bq_rest, bq_low, fcondD_code6, scope_low, fence_ord, gregD_mk,
      mregD_zero, sregD_zero, pszD_zero, pk256_self, intOp_fadd, intOp_faddOrd, decodeSqWord, Fields.sqsetD, lwoffD, lwoffX, Sync.none,
      toFin_reg])
theorem sqend : Statement (.sqend) := of_fields _ (by
  intro f hf; cases hf; simp (disch := decide) [-Nat.reduceAdd, decodeFields, Fields.sync, Fields.xb, xb_hi, xb_lo, xb_span, append_zero,
      xb_zero, xb_self, ofBool_eq, bit_eq, maskCode_none, rne_code, bq_rest, bq_low, fcondD_code6, scope_low, fence_ord, gregD_mk,
      mregD_zero, sregD_zero, pszD_zero, pk256_self, intOp_fadd, intOp_faddOrd, decodeSqWord, Fields.sqsetD, lwoffD, lwoffX, Sync.none,
      toFin_reg])
theorem put (y : Sync) (psz : Psz) (r : AReg) (s : AReg) (k : SReg) (c : SReg) (n : BitVec 32) : Statement (.put y psz r s k c n) := of_fields _ (by
  intro f hf; cases hf; simp (disch := decide) [-Nat.reduceAdd, decodeFields, Fields.sync, Fields.xb, xb_hi, xb_lo, xb_span, append_zero,
      xb_zero, xb_self, ofBool_eq, bit_eq, maskCode_none, rne_code, bq_rest, bq_low, fcondD_code6, scope_low, fence_ord, gregD_mk,
      mregD_zero, sregD_zero, pszD_zero, pk256_self, intOp_fadd, intOp_faddOrd, decodeFx, Fields.xferD, Fields.ratomD, RatomOp.codes,
      ftyD_code, atomD_code, intTyD_code, rscopeD_code, pszD_code, orderOf_code, lwD, lwReg])
theorem get (y : Sync) (psz : Psz) (d : AReg) (r : AReg) (k : SReg) (c : SReg) (n : BitVec 32) : Statement (.get y psz d r k c n) := of_fields _ (by
  intro f hf; cases hf; simp (disch := decide) [-Nat.reduceAdd, decodeFields, Fields.sync, Fields.xb, xb_hi, xb_lo, xb_span, append_zero,
      xb_zero, xb_self, ofBool_eq, bit_eq, maskCode_none, rne_code, bq_rest, bq_low, fcondD_code6, scope_low, fence_ord, gregD_mk,
      mregD_zero, sregD_zero, pszD_zero, pk256_self, intOp_fadd, intOp_faddOrd, decodeFx, Fields.xferD, Fields.ratomD, RatomOp.codes,
      ftyD_code, atomD_code, intTyD_code, rscopeD_code, pszD_code, orderOf_code, lwD, lwReg])
theorem rld (y : Sync) (t : IntTy) (acq : Bool) (sc : RScope) (d : SReg) (r : AReg) (k : SReg) (c : SReg) : Statement (.rld y t acq sc d r k
    c) := of_fields _ (by
  cases acq <;> (intro f hf; cases hf; simp (disch := decide) [-Nat.reduceAdd, decodeFields, Fields.sync, Fields.xb, xb_hi, xb_lo, xb_span,
      append_zero, xb_zero, xb_self, ofBool_eq, bit_eq, maskCode_none, rne_code, bq_rest, bq_low, fcondD_code6, scope_low, fence_ord,
      gregD_mk, mregD_zero, sregD_zero, pszD_zero, pk256_self, intOp_fadd, intOp_faddOrd, decodeFx, Fields.xferD, Fields.ratomD,
      RatomOp.codes, ftyD_code, atomD_code, intTyD_code, rscopeD_code, pszD_code, orderOf_code, lwD, lwReg]))
theorem rst (y : Sync) (t : IntTy) (rel : Bool) (sc : RScope) (v : SReg) (r : AReg) (k : SReg) (c : SReg) : Statement (.rst y t rel sc v r k
    c) := of_fields _ (by
  cases rel <;> (intro f hf; cases hf; simp (disch := decide) [-Nat.reduceAdd, decodeFields, Fields.sync, Fields.xb, xb_hi, xb_lo, xb_span,
      append_zero, xb_zero, xb_self, ofBool_eq, bit_eq, maskCode_none, rne_code, bq_rest, bq_low, fcondD_code6, scope_low, fence_ord,
      gregD_mk, mregD_zero, sregD_zero, pszD_zero, pk256_self, intOp_fadd, intOp_faddOrd, decodeFx, Fields.xferD, Fields.ratomD,
      RatomOp.codes, ftyD_code, atomD_code, intTyD_code, rscopeD_code, pszD_code, orderOf_code, lwD, lwReg]))
theorem ratom (y : Sync) (op : RatomOp) (o : Order) (sc : RScope) (noret : Bool) (v : SReg) (r : AReg) (k : SReg) (c : SReg) : Statement
    (.ratom y op o sc noret v r k c) := of_fields _ (by
  cases op <;> (cases noret <;> (intro f hf; cases hf; simp (disch := decide) [-Nat.reduceAdd, decodeFields, Fields.sync, Fields.xb, xb_hi,
      xb_lo, xb_span, append_zero, xb_zero, xb_self, ofBool_eq, bit_eq, maskCode_none, rne_code, bq_rest, bq_low, fcondD_code6, scope_low,
      fence_ord, gregD_mk, mregD_zero, sregD_zero, pszD_zero, pk256_self, intOp_fadd, intOp_faddOrd, decodeFx, Fields.xferD, Fields.ratomD,
      RatomOp.codes, ftyD_code, atomD_code, intTyD_code, rscopeD_code, pszD_code, orderOf_code, lwD, lwReg])))
theorem rcas (y : Sync) (t : IntTy) (o : Order) (sc : RScope) (d : SReg) (r : AReg) (n : SReg) (c : SReg) : Statement (.rcas y t o sc d r n
    c) := of_fields _ (by
  intro f hf; cases hf; simp (disch := decide) [-Nat.reduceAdd, decodeFields, Fields.sync, Fields.xb, xb_hi, xb_lo, xb_span, append_zero,
      xb_zero, xb_self, ofBool_eq, bit_eq, maskCode_none, rne_code, bq_rest, bq_low, fcondD_code6, scope_low, fence_ord, gregD_mk,
      mregD_zero, sregD_zero, pszD_zero, pk256_self, intOp_fadd, intOp_faddOrd, decodeFx, Fields.xferD, Fields.ratomD, RatomOp.codes,
      ftyD_code, atomD_code, intTyD_code, rscopeD_code, pszD_code, orderOf_code, lwD, lwReg])
theorem flush (y : Sync) (sc : RScope) : Statement (.flush y sc) := of_fields _ (by
  intro f hf; cases hf; simp (disch := decide) [-Nat.reduceAdd, decodeFields, Fields.sync, Fields.xb, xb_hi, xb_lo, xb_span, append_zero,
      xb_zero, xb_self, ofBool_eq, bit_eq, maskCode_none, rne_code, bq_rest, bq_low, fcondD_code6, scope_low, fence_ord, gregD_mk,
      mregD_zero, sregD_zero, pszD_zero, pk256_self, intOp_fadd, intOp_faddOrd, decodeFx, Fields.xferD, Fields.ratomD, RatomOp.codes,
      ftyD_code, atomD_code, intTyD_code, rscopeD_code, pszD_code, orderOf_code, lwD, lwReg])
theorem sld (y : Sync) (t : IntTy) (acq : Bool) (sc : RScope) (d : SReg) (i : SReg) (h : BitVec 12) : Statement (.sld y t acq sc d i h) :=
    of_fields _ (by
  cases acq <;> (intro f hf; cases hf; simp (disch := decide) [-Nat.reduceAdd, decodeFields, Fields.sync, Fields.xb, xb_hi, xb_lo, xb_span,
      append_zero, xb_zero, xb_self, ofBool_eq, bit_eq, maskCode_none, rne_code, bq_rest, bq_low, fcondD_code6, scope_low, fence_ord,
      gregD_mk, mregD_zero, sregD_zero, pszD_zero, pk256_self, intOp_fadd, intOp_faddOrd, decodeFx, Fields.xferD, Fields.ratomD,
      RatomOp.codes, ftyD_code, atomD_code, intTyD_code, rscopeD_code, pszD_code, orderOf_code, lwD, lwReg]))
theorem sst (y : Sync) (t : IntTy) (rel : Bool) (sc : RScope) (v : SReg) (i : SReg) (h : BitVec 12) : Statement (.sst y t rel sc v i h) :=
    of_fields _ (by
  cases rel <;> (intro f hf; cases hf; simp (disch := decide) [-Nat.reduceAdd, decodeFields, Fields.sync, Fields.xb, xb_hi, xb_lo, xb_span,
      append_zero, xb_zero, xb_self, ofBool_eq, bit_eq, maskCode_none, rne_code, bq_rest, bq_low, fcondD_code6, scope_low, fence_ord,
      gregD_mk, mregD_zero, sregD_zero, pszD_zero, pk256_self, intOp_fadd, intOp_faddOrd, decodeFx, Fields.xferD, Fields.ratomD,
      RatomOp.codes, ftyD_code, atomD_code, intTyD_code, rscopeD_code, pszD_code, orderOf_code, lwD, lwReg]))
theorem sget (y : Sync) (psz : Psz) (d : AReg) (i : SReg) (n : SReg) (h : BitVec 12) (lw : Option AReg) : Statement (.sget y psz d i n h lw)
    := of_fields _ (by
  cases lw <;> (intro f hf; cases hf; simp (disch := decide) [-Nat.reduceAdd, decodeFields, Fields.sync, Fields.xb, xb_hi, xb_lo, xb_span,
      append_zero, xb_zero, xb_self, ofBool_eq, bit_eq, maskCode_none, rne_code, bq_rest, bq_low, fcondD_code6, scope_low, fence_ord,
      gregD_mk, mregD_zero, sregD_zero, pszD_zero, pk256_self, intOp_fadd, intOp_faddOrd, decodeFx, Fields.xferD, Fields.ratomD,
      RatomOp.codes, ftyD_code, atomD_code, intTyD_code, rscopeD_code, pszD_code, orderOf_code, lwD, lwReg]))
theorem sput (y : Sync) (op : SputOp) (s : AReg) (i : SReg) (n : SReg) (h : BitVec 12) : Statement (.sput y op s i n h) := of_fields _ (by
  cases op <;> (intro f hf; cases hf; simp (disch := decide) [-Nat.reduceAdd, decodeFields, Fields.sync, Fields.xb, xb_hi, xb_lo, xb_span,
      append_zero, xb_zero, xb_self, ofBool_eq, bit_eq, maskCode_none, rne_code, bq_rest, bq_low, fcondD_code6, scope_low, fence_ord,
      gregD_mk, mregD_zero, sregD_zero, pszD_zero, pk256_self, intOp_fadd, intOp_faddOrd, decodeFx, Fields.xferD, Fields.ratomD,
      RatomOp.codes, ftyD_code, atomD_code, intTyD_code, rscopeD_code, pszD_code, orderOf_code, lwD, lwReg]))
theorem shfence (y : Sync) : Statement (.shfence y) := of_fields _ (by
  intro f hf; cases hf; simp (disch := decide) [-Nat.reduceAdd, decodeFields, Fields.sync, Fields.xb, xb_hi, xb_lo, xb_span, append_zero,
      xb_zero, xb_self, ofBool_eq, bit_eq, maskCode_none, rne_code, bq_rest, bq_low, fcondD_code6, scope_low, fence_ord, gregD_mk,
      mregD_zero, sregD_zero, pszD_zero, pk256_self, intOp_fadd, intOp_faddOrd, decodeFx, Fields.xferD, Fields.ratomD, RatomOp.codes,
      ftyD_code, atomD_code, intTyD_code, rscopeD_code, pszD_code, orderOf_code, lwD, lwReg])
theorem shupd (y : Sync) (d : SReg) (a : AReg) (h : BitVec 12) : Statement (.shupd y d a h) := of_fields _ (by
  intro f hf; cases hf; simp (disch := decide) [-Nat.reduceAdd, decodeFields, Fields.sync, Fields.xb, xb_hi, xb_lo, xb_span, append_zero,
      xb_zero, xb_self, ofBool_eq, bit_eq, maskCode_none, rne_code, bq_rest, bq_low, fcondD_code6, scope_low, fence_ord, gregD_mk,
      mregD_zero, sregD_zero, pszD_zero, pk256_self, intOp_fadd, intOp_faddOrd, decodeFx, Fields.xferD, Fields.ratomD, RatomOp.codes,
      ftyD_code, atomD_code, intTyD_code, rscopeD_code, pszD_code, orderOf_code, lwD, lwReg])
theorem grant (y : Sync) (d : SReg) (a : SReg) : Statement (.grant y d a) := of_fields _ (by
  intro f hf; cases hf; simp (disch := decide) [-Nat.reduceAdd, decodeFields, Fields.sync, Fields.xb, xb_hi, xb_lo, xb_span, append_zero,
      xb_zero, xb_self, ofBool_eq, bit_eq, maskCode_none, rne_code, bq_rest, bq_low, fcondD_code6, scope_low, fence_ord, gregD_mk,
      mregD_zero, sregD_zero, pszD_zero, pk256_self, intOp_fadd, intOp_faddOrd, decodeFx, Fields.xferD, Fields.ratomD, RatomOp.codes,
      ftyD_code, atomD_code, intTyD_code, rscopeD_code, pszD_code, orderOf_code, lwD, lwReg])
theorem revoke (y : Sync) (a : SReg) : Statement (.revoke y a) := of_fields _ (by
  intro f hf; cases hf; simp (disch := decide) [-Nat.reduceAdd, decodeFields, Fields.sync, Fields.xb, xb_hi, xb_lo, xb_span, append_zero,
      xb_zero, xb_self, ofBool_eq, bit_eq, maskCode_none, rne_code, bq_rest, bq_low, fcondD_code6, scope_low, fence_ord, gregD_mk,
      mregD_zero, sregD_zero, pszD_zero, pk256_self, intOp_fadd, intOp_faddOrd, decodeFx, Fields.xferD, Fields.ratomD, RatomOp.codes,
      ftyD_code, atomD_code, intTyD_code, rscopeD_code, pszD_code, orderOf_code, lwD, lwReg])
theorem powerOn : Statement (.powerOn) := no_word _ rfl
theorem powerOff : Statement (.powerOff) := no_word _ rfl
theorem attestationRequest : Statement (.attestationRequest) := no_word _ rfl
theorem devctlWarmrst : Statement (.devctlWarmrst) := no_word _ rfl
theorem tmcmdTruncate : Statement (.tmcmdTruncate) := no_word _ rfl
theorem ageingSample : Statement (.ageingSample) := no_word _ rfl
theorem clkSetstepWrite : Statement (.clkSetstepWrite) := no_word _ rfl
theorem clockChangePoint : Statement (.clockChangePoint) := no_word _ rfl
theorem clockRelockComplete : Statement (.clockRelockComplete) := no_word _ rfl
theorem thermalThrottle : Statement (.thermalThrottle) := no_word _ rfl
theorem throttleStep : Statement (.throttleStep) := no_word _ rfl
theorem thermalTrip : Statement (.thermalTrip) := no_word _ rfl
theorem matrixAutoidleGate : Statement (.matrixAutoidleGate) := no_word _ rfl
theorem matrixGatingDone : Statement (.matrixGatingDone) := no_word _ rfl
theorem matrixWakeDone : Statement (.matrixWakeDone) := no_word _ rfl
theorem codewordRowReceive : Statement (.codewordRowReceive) := no_word _ rfl
theorem laneWindowEnd : Statement (.laneWindowEnd) := no_word _ rfl
theorem laneProposeRepeat : Statement (.laneProposeRepeat) := no_word _ rfl
theorem flitTransmit : Statement (.flitTransmit) := no_word _ rfl
theorem idleFlitReceive : Statement (.idleFlitReceive) := no_word _ rfl
theorem sequencedFlitReceive : Statement (.sequencedFlitReceive) := no_word _ rfl
theorem retryReceive : Statement (.retryReceive) := no_word _ rfl
theorem retryResendTimeout : Statement (.retryResendTimeout) := no_word _ rfl
theorem replayTimeout : Statement (.replayTimeout) := no_word _ rfl
theorem laneProposeReceive : Statement (.laneProposeReceive) := no_word _ rfl
theorem laneCommitReceive : Statement (.laneCommitReceive) := no_word _ rfl
theorem laneDoneReceive : Statement (.laneDoneReceive) := no_word _ rfl
theorem trainingWordReceive : Statement (.trainingWordReceive) := no_word _ rfl
theorem trainingWordRepeat : Statement (.trainingWordRepeat) := no_word _ rfl
theorem strandedBackoffExpiry : Statement (.strandedBackoffExpiry) := no_word _ rfl
theorem downRetrainTimer : Statement (.downRetrainTimer) := no_word _ rfl
theorem lthrWrite : Statement (.lthrWrite) := no_word _ rfl
theorem lctlClrdown : Statement (.lctlClrdown) := no_word _ rfl
theorem lctlClrcnt : Statement (.lctlClrcnt) := no_word _ rfl
theorem lctlRetrain : Statement (.lctlRetrain) := no_word _ rfl
theorem lctlHold : Statement (.lctlHold) := no_word _ rfl
theorem lctlPerhop : Statement (.lctlPerhop) := no_word _ rfl
theorem portDegradeWindow : Statement (.portDegradeWindow) := no_word _ rfl
theorem packetRoute : Statement (.packetRoute) := no_word _ rfl
theorem packetForward : Statement (.packetForward) := no_word _ rfl
theorem ebbtExpiry : Statement (.ebbtExpiry) := no_word _ rfl
theorem ebbPacketForward : Statement (.ebbPacketForward) := no_word _ rfl
theorem tree : Statement (.tree) := no_word _ rfl
theorem ebbFlip : Statement (.ebbFlip) := no_word _ rfl
theorem flipReceive : Statement (.flipReceive) := no_word _ rfl
theorem drainSend : Statement (.drainSend) := no_word _ rfl
theorem drain : Statement (.drain) := no_word _ rfl
theorem ebbReportsCollected : Statement (.ebbReportsCollected) := no_word _ rfl
theorem putreq : Statement (.putreq) := no_word _ rfl
theorem getreq : Statement (.getreq) := no_word _ rfl
theorem ldreq : Statement (.ldreq) := no_word _ rfl
theorem streq : Statement (.streq) := no_word _ rfl
theorem atomreq : Statement (.atomreq) := no_word _ rfl
theorem casreq : Statement (.casreq) := no_word _ rfl
theorem ordreq : Statement (.ordreq) := no_word _ rfl
theorem mgmt : Statement (.mgmt) := no_word _ rfl
theorem ack : Statement (.ack) := no_word _ rfl
theorem data : Statement (.data) := no_word _ rfl
theorem atomrsp : Statement (.atomrsp) := no_word _ rfl
theorem nack : Statement (.nack) := no_word _ rfl
theorem requestResendTimeout : Statement (.requestResendTimeout) := no_word _ rfl
theorem ordResend : Statement (.ordResend) := no_word _ rfl
theorem ordRoundAbandon : Statement (.ordRoundAbandon) := no_word _ rfl
theorem completionRecordExpiry : Statement (.completionRecordExpiry) := no_word _ rfl
theorem wintWrite : Statement (.wintWrite) := no_word _ rfl
theorem zclCfgMessage : Statement (.zclCfgMessage) := no_word _ rfl
theorem zclLinkDown : Statement (.zclLinkDown) := no_word _ rfl
theorem hostlinkTimeout : Statement (.hostlinkTimeout) := no_word _ rfl
theorem zclMemCompletion : Statement (.zclMemCompletion) := no_word _ rfl
theorem xltReply : Statement (.xltReply) := no_word _ rfl
theorem inv : Statement (.inv) := no_word _ rfl
theorem invComplete : Statement (.invComplete) := no_word _ rfl
theorem launchWrite : Statement (.launchWrite) := no_word _ rfl
theorem queueToPool : Statement (.queueToPool) := no_word _ rfl
theorem lpcfgWrite : Statement (.lpcfgWrite) := no_word _ rfl
theorem lpringWrite : Statement (.lpringWrite) := no_word _ rfl
theorem lpptrHeadWrite : Statement (.lpptrHeadWrite) := no_word _ rfl
theorem mailboxHostWrite : Statement (.mailboxHostWrite) := no_word _ rfl
theorem registerWrite : Statement (.registerWrite) := no_word _ rfl
theorem latchGrant : Statement (.latchGrant) := no_word _ rfl
theorem leaseExpiry : Statement (.leaseExpiry) := no_word _ rfl
theorem refreshIssue : Statement (.refreshIssue) := no_word _ rfl
theorem refreshComplete : Statement (.refreshComplete) := no_word _ rfl
theorem rfmIssue : Statement (.rfmIssue) := no_word _ rfl
theorem rfmComplete : Statement (.rfmComplete) := no_word _ rfl
theorem stackTempReport : Statement (.stackTempReport) := no_word _ rfl
theorem selfRefreshExit : Statement (.selfRefreshExit) := no_word _ rfl
theorem memcfgWrite : Statement (.memcfgWrite) := no_word _ rfl
theorem scrubRead : Statement (.scrubRead) := no_word _ rfl
theorem bankReservationWaitExpiry : Statement (.bankReservationWaitExpiry) := no_word _ rfl
theorem burstSlotGrant : Statement (.burstSlotGrant) := no_word _ rfl
theorem pageWalk : Statement (.pageWalk) := no_word _ rfl
theorem streamTlbWalkAhead : Statement (.streamTlbWalkAhead) := no_word _ rfl
theorem pfheadWrite : Statement (.pfheadWrite) := no_word _ rfl
theorem map : Statement (.map) := no_word _ rfl
theorem unmap : Statement (.unmap) := no_word _ rfl
theorem modify : Statement (.modify) := no_word _ rfl
theorem flushasid : Statement (.flushasid) := no_word _ rfl
theorem resume : Statement (.resume) := no_word _ rfl
theorem refuse : Statement (.refuse) := no_word _ rfl
theorem mappingBadop : Statement (.mappingBadop) := no_word _ rfl
theorem mappingCommandComplete : Statement (.mappingCommandComplete) := no_word _ rfl
theorem unitPlacement : Statement (.unitPlacement) := no_word _ rfl
theorem unitClearComplete : Statement (.unitClearComplete) := no_word _ rfl
theorem prewaitExpiry : Statement (.prewaitExpiry) := no_word _ rfl
theorem schedctlWrite : Statement (.schedctlWrite) := no_word _ rfl
theorem sweepComplete : Statement (.sweepComplete) := no_word _ rfl
theorem pendingTrapTaken : Statement (.pendingTrapTaken) := no_word _ rfl
theorem waittimeExpiry : Statement (.waittimeExpiry) := no_word _ rfl
theorem waitConditionMet : Statement (.waitConditionMet) := no_word _ rfl
theorem preemptionImageWrite : Statement (.preemptionImageWrite) := no_word _ rfl
theorem preempt : Statement (.preempt) := no_word _ rfl
theorem exportSweep : Statement (.exportSweep) := no_word _ rfl
theorem importSweep : Statement (.importSweep) := no_word _ rfl
theorem releaseSweep : Statement (.releaseSweep) := no_word _ rfl
theorem sweepCmdBadop : Statement (.sweepCmdBadop) := no_word _ rfl
theorem dbgctlHalt : Statement (.dbgctlHalt) := no_word _ rfl
theorem dbgctlRelease : Statement (.dbgctlRelease) := no_word _ rfl
theorem dbgctlHaltonbrk : Statement (.dbgctlHaltonbrk) := no_word _ rfl
theorem instructionFetch : Statement (.instructionFetch) := no_word _ rfl
theorem engineEntryStart : Statement (.engineEntryStart) := no_word _ rfl
theorem engineUnitCommit : Statement (.engineUnitCommit) := no_word _ rfl
theorem engineEntryComplete : Statement (.engineEntryComplete) := no_word _ rfl
theorem ecallReply : Statement (.ecallReply) := no_word _ rfl
theorem mwaitPoll : Statement (.mwaitPoll) := no_word _ rfl
theorem sqwaitPoll : Statement (.sqwaitPoll) := no_word _ rfl
theorem zclLinkUp : Statement (.zclLinkUp) := no_word _ rfl
theorem laneLossOfLock : Statement (.laneLossOfLock) := no_word _ rfl
theorem imageRestoreComplete : Statement (.imageRestoreComplete) := no_word _ rfl
theorem sweepCommandComplete : Statement (.sweepCommandComplete) := no_word _ rfl
theorem sequencerWordDecodeError : Statement (.sequencerWordDecodeError) := no_word _ rfl

end Laws.RoundTrip
end Sys2Proof
end

