-- ==== Sys2Proof/Tests/Slice0.lean ====
section
/-! SUPPORT. Tests: ill-formed terms that the checks refuse, words of the specification's examples that decode to their instructions, results
of the specification's worked examples, and states that meet the hypotheses of the statements. -/

set_option maxRecDepth 20000
set_option exponentiation.threshold 5000

namespace Sys2Proof.Tests

open Sys2Proof Sys2Proof.Machine

/-! ## Helpers -/

/-- A word from its twelve bytes, lowest address first. -/
def word (bs : List Byte) : InstrWord := leBits 96 bs

/-- A state in which the READY task of slot 0 of core 0, changed by `f`, issues. -/
def ready (f : Task → Task) : State :=
  { State.reset.setTask 0 0 (f { Task.idle with st := .ready, width := 128, waitlimit := 0x80000000 }) with cur := .task 0 0 }

/-- A property of the next state. -/
def next (o : Host.Outcome State Fault Refusal) (f : State → Bool) : Bool :=
  match o with
  | .next s => f s
  | .fault _ => false
  | .refused _ => false

/-- No wait and no signal. -/
abbrev y0 : Sync := Sync.none

/-! ## Ill-formed terms (R287) -/

theorem test_wf_sync : (Instr.nop ⟨3, 0, 0, 0⟩).wf = false ∧ (Instr.nop ⟨0, 0, 3, 0⟩).wf = false ∧ (Instr.nop ⟨3, 2, 4, 1⟩).wf = true := by decide
theorem test_wf_field : (Instr.ext y0 false 1 2 60 8).wf = false ∧ (Instr.ins y0 1 2 60 3).wf = true := by decide
theorem test_wf_acmp : (Instr.acmp y0 .lt 1 2 3).wf = false := by decide
theorem test_wf_order : (Instr.ld y0 ⟨.w32, false⟩ ⟨.rel, .core⟩ 1 ⟨0, 0, 0, 0⟩).wf = false ∧
    (Instr.sta y0 ⟨.acq, .core⟩ 1 ⟨0, 0, 0, 0⟩).wf = false := by decide
theorem test_wf_loop : (Instr.loop y0 1 0).wf = false ∧ (Instr.lpbrk y0 .always 5).wf = false ∧ (Instr.lpbrk y0 .always 0).wf = false := by decide
theorem test_wf_semwait : (Instr.semwait y0 1 (.imm 0)).wf = false ∧ (Instr.semset y0 1 (.imm 0)).wf = true := by decide
theorem test_wf_qjoin : (Instr.qjoin y0 0).wf = false := by decide
theorem test_wf_mask : (Instr.vadd y0 .bf16 ⟨some 1, false, .rne⟩ 1 2 3).wf = false ∧ (Instr.viadd y0 ⟨.w8, true⟩ (some 2) false 1 2 3).wf = false ∧
    (Instr.vfcmp y0 .f16 .lt none 3 1 2).wf = false ∧ (Instr.msetl y0 .w8 2 1).wf = false := by decide
theorem test_wf_vcvt : (Instr.vcvt y0 0x08 0x23 ⟨none, false, .rne⟩ 1 2).wf = false ∧
    (Instr.vcvt y0 0x24 0x20 ⟨none, false, .rtz⟩ 1 2).wf = false := by decide
theorem test_wf_vpack : (Instr.vpack y0 ⟨.w64, false⟩ false 1 2 3).wf = false := by decide
theorem test_wf_reduce : (Instr.vred y0 (.fadd .f32) ⟨none, false, .sr⟩ 1 2).wf = false ∧
    (Instr.vdot y0 (.imax ⟨.w32, true⟩) ⟨none, false, .rne⟩ 1 2 3).wf = false := by decide
theorem test_wf_gather : (Instr.vgath y0 .w8 1 ⟨0, 0, 0, 0⟩).wf = false := by decide
theorem test_wf_txv : (Instr.txv y0 .bf16 .bf16 (some 3) false 1 2 3).wf = false := by decide
theorem test_wf_matrix : (Instr.mxpass y0 0x23 0 1 2 0 none).wf = false ∧ (Instr.mxzero y0 0).wf = false ∧
    (Instr.mxst y0 .fa 0x20 ⟨.rne, false⟩ 0 1 2 0).wf = false := by decide
theorem test_wf_sqsig : (Instr.sqsig 0 1 0).wf = false := by decide
theorem test_wf_pairs : (Instr.rcas y0 ⟨.w32, false⟩ .rlx .fab 1 2 3 63).wf = false ∧ (Instr.sld y0 ⟨.w32, false⟩ false .fab 1 63 7).wf = false := by decide

/-! ## Words of the specification's examples -/

/-- R292: add s3, s4, s5 wait(q2,1) sig(q7,1). -/
theorem test_decode_add : decode (word [0x00, 0x00, 0x00, 0x00, 0x40, 0x41, 0x0C, 0x71, 0x10, 0x02, 0x00, 0x00]) =
    .ok (.add ⟨2, 1, 7, 1⟩ 3 4 (.reg 5)) := by decide
/-- R288: ld.n32.acq.dev s9, [a2+s4*4+0x40]. -/
theorem test_decode_ld : decode (word [0x40, 0x00, 0x00, 0x00, 0x25, 0x21, 0x24, 0x00, 0x00, 0x00, 0x02, 0x04]) =
    .ok (.ld y0 ⟨.w32, false⟩ ⟨.acq, .dev⟩ 9 ⟨2, 4, 2, 0x40⟩) := by decide
/-- R318: atom.add.n64.acq.dev s5, s6, [a2+0x18]. -/
theorem test_decode_atom : decode (word [0x18, 0x00, 0x00, 0x00, 0x85, 0x21, 0x14, 0x00, 0x00, 0x00, 0x43, 0x04]) =
    .ok (.atom y0 .add ⟨.w64, false⟩ ⟨.acq, .dev⟩ 5 6 2 0x18) := by decide
/-- R323: brp !p2 to three instructions before. -/
theorem test_decode_brp : decode (word [0xFD, 0xFF, 0xFF, 0xFF, 0x00, 0x00, 0x28, 0x00, 0x00, 0x00, 0x10, 0x05]) =
    .ok (.brp y0 (.neg 2) 0xFFFFFFFD) := by decide
/-- R324: loopi 1000, 200. -/
theorem test_decode_loopi : decode (0x0570000 <<< 68 ||| 0x000000C8 <<< 32 ||| 0x3E8) = .ok (.loopi y0 1000 200) := by decide
/-- R332: lwwait s2, [a3], 7 sig(q4). -/
theorem test_decode_lwwait : decode (word [0x07, 0x00, 0x00, 0x00, 0x00, 0x30, 0x08, 0x41, 0x00, 0x00, 0x11, 0x12]) =
    .ok (.lwwait ⟨0, 0, 4, 1⟩ 2 3 (.imm 7)) := by decide
/-- The words of the barrier program: st.n64.rel.dev s21, [a6] and mwait.n64.eq.dev s22, [a6], s21. -/
theorem test_decode_st : decode (word [0x00, 0x00, 0x00, 0x00, 0x09, 0x60, 0x54, 0x00, 0x00, 0x00, 0x13, 0x04]) =
    .ok (.st y0 ⟨.w64, false⟩ ⟨.rel, .dev⟩ 21 ⟨6, 0, 0, 0⟩) := by decide
theorem test_decode_mwait : decode (word [0x10, 0x00, 0x00, 0x00, 0x40, 0x65, 0x58, 0x00, 0x00, 0x00, 0x23, 0x11]) =
    .ok (.mwait y0 ⟨.w64, false⟩ .eq .dev 22 6 21) := by decide
/-- R365: vfma.f32 v1, v2, v3, v4 m1 with .rtz and sig(q5). -/
theorem test_decode_vfma : decode (word [0x91, 0x00, 0x00, 0x00, 0xC4, 0x20, 0x04, 0x51, 0x00, 0x00, 0x30, 0x20]) =
    .ok (.vfma ⟨0, 0, 5, 1⟩ .f32 ⟨some 1, false, .rtz⟩ 1 2 3 4) := by decide
/-- R384: txrd s4, [a2], s5; and txv.bf16 v2, v1, [a9] m0 wait(q1) sig(q2) of the gelu program. -/
theorem test_decode_txrd : decode (word [0x00, 0x00, 0x00, 0x00, 0x40, 0x21, 0x10, 0x00, 0x00, 0x00, 0x40, 0x30]) =
    .ok (.txrd y0 4 2 5) := by decide
theorem test_decode_txv : decode (word [0x80, 0x00, 0x00, 0x00, 0x40, 0x12, 0x08, 0x21, 0x10, 0x01, 0x25, 0x30]) =
    .ok (.txv ⟨1, 1, 2, 1⟩ .bf16 .bf16 (some 0) false 2 1 9) := by decide
/-- R395: mxpass.p4 acc2, [a4], s7, g1 sig(q9). -/
theorem test_decode_mxpass : decode (word [0x04, 0x01, 0x00, 0x00, 0xC0, 0x41, 0x08, 0x91, 0x00, 0x00, 0x20, 0x40]) =
    .ok (.mxpass ⟨0, 0, 9, 1⟩ 0x04 2 4 7 1 none) := by decide
/-- The crc32 program: streamrow [a5], [a4] wait(q1) sig(q3). -/
theorem test_decode_streamrow : decode (word [0x00, 0x00, 0x00, 0x00, 0x00, 0x40, 0x14, 0x31, 0x10, 0x01, 0x00, 0x52]) =
    .ok (.streamrow ⟨1, 1, 3, 1⟩ 5 4 none) := by decide
/-- R422, R424 and R427 field by field: sqstart s2, t5, a6, and sqset.lo w3, 7 of a thread. -/
theorem test_decode_sqstart : decode (0x6010000 <<< 68 ||| 0x00086000 <<< 32 ||| 5) = .ok (.sqstart y0 2 5 6) := by decide
theorem test_decode_sqset : decode (0x6110000 <<< 68 ||| 0x000C0000 <<< 32 ||| 7) = .ok (.sqset (.lo 3 7)) := by decide
/-- R431: put.pk64 [a4], [a5], s6, s7, 256 sig(q3); and rst.n64.rel.fab [a6], s12, s9, s11 of the chain program. -/
theorem test_decode_put : decode (word [0x00, 0x01, 0x00, 0x00, 0x87, 0x51, 0x10, 0x31, 0x00, 0x00, 0x02, 0x70]) =
    .ok (.put ⟨0, 0, 3, 1⟩ .pk64 4 5 6 7 256) := by decide
theorem test_decode_rst : decode (word [0x0A, 0x00, 0x00, 0x00, 0x4B, 0x62, 0x30, 0x00, 0x00, 0x00, 0x33, 0x70]) =
    .ok (.rst y0 ⟨.w64, false⟩ true .fab 12 6 9 11) := by decide
/-- R287, R305: a class, an opcode, a reserved field and a register that do not exist. -/
theorem test_decode_rejects : decode (0x8 <<< 92) = .error .cls ∧ decode (0x01E <<< 84) = .error .opcode ∧
    decode (0x1 <<< 36) = .error .reserved ∧ decode (0x052 <<< 84 ||| 0x20 <<< 44) = .error .register := by decide

/-! ## Worked examples -/

/-- R309's table of borderline divisions. -/
theorem test_div_zero : next (exec (.div y0 false 3 4 (.reg 0)) (ready (·.setS 4 0x2A))) (fun s => (s.task 0 0).sreg 3 == 0xFFFFFFFFFFFFFFFF) &&
    next (exec (.rem y0 false 3 4 (.reg 0)) (ready (·.setS 4 0x2A))) (fun s => (s.task 0 0).sreg 3 == 0x2A) = true := by decide
theorem test_div_signed : next (exec (.div y0 true 3 4 (.imm 0xFFFFFFFF)) (ready (·.setS 4 0x8000000000000000)))
      (fun s => (s.task 0 0).sreg 3 == 0x8000000000000000) &&
    next (exec (.rem y0 true 3 4 (.imm 2)) (ready (·.setS 4 0xFFFFFFFFFFFFFFF9))) (fun s => (s.task 0 0).sreg 3 == 0xFFFFFFFFFFFFFFFF) = true := by decide
theorem test_min_unsigned : next (exec (.min y0 false 3 4 (.imm 0xFFFFFFFF)) (ready (·.setS 4 5))) (fun s => (s.task 0 0).sreg 3 == 5) = true := by decide
/-- R314: fcvti.n8.f32 of 300.0 gives 44, 255 with .sat, and 0 of a NaN. -/
theorem test_fcvti : next (exec (.fcvti y0 ⟨.w8, false⟩ .f32 ⟨.rne, false⟩ 4 5) (ready (·.setS 5 0x43960000))) (fun s => (s.task 0 0).sreg 4 == 44) &&
    next (exec (.fcvti y0 ⟨.w8, false⟩ .f32 ⟨.rne, true⟩ 4 5) (ready (·.setS 5 0x43960000))) (fun s => (s.task 0 0).sreg 4 == 255) &&
    next (exec (.fcvti y0 ⟨.w8, false⟩ .f32 ⟨.rne, false⟩ 4 5) (ready (·.setS 5 0x7FC00000))) (fun s => (s.task 0 0).sreg 4 == 0) = true := by decide
/-- R268: rounding to signed extended p4. -/
theorem test_round_p4 : (fmtOf 0x04).encode ((fmtOf 0x23).decode 0x43660000) .rne false 0 = 0x7E ∧
    (fmtOf 0x04).encode ((fmtOf 0x23).decode 0x43690000) .rne false 0 = 0x7F ∧
    (fmtOf 0x04).encode ((fmtOf 0x23).decode 0x43690000) .rne true 0 = 0x7E := by decide
/-- R270: the draw that takes 1 + 3/1024 to bfloat16. -/
theorem test_round_sr : (fmtOf 0x21).encode ((fmtOf 0x23).decode 0x3F806000) .sr false 0x5FFFFFFF = 0x3F81 ∧
    (fmtOf 0x21).encode ((fmtOf 0x23).decode 0x3F806000) .sr false 0x60000000 = 0x3F80 := by decide
/-- R222: the arrivals at a landing word. -/
theorem test_land : let w : LandingWord := { target := 4096, count := 0, gen := 7, sem := 9, flags := 1 }
    (w.add 3000).1.count = 3000 ∧ ((w.add 3000).1.add 3000).1.count = 1904 ∧ ((w.add 3000).1.add 3000).2 = 1 ∧
    (((w.add 3000).1.add 3000).1.add 6288).1.gen = 10 ∧ (((w.add 3000).1.add 3000).1.add 6288).2 = 2 := by decide
/-- R225: logical offset 0x0650 under pattern 3. -/
theorem test_swizzle : swizzle 3 0x0650 = 0x06C0 := by decide
/-- R368: the carry-less product of the example. -/
theorem test_clmul : clmul 0x8000000000000001 3 64 = 0x18000000000000003 := by decide
/-- R168: the last arrival turns the phase. -/
theorem test_barrier : next (exec (.bararr y0 4 1) ((ready id).setBar 0 1 { member := 1, arrived := 0, phase := false }))
    (fun s => (s.bar 0 1).phase && (s.bar 0 1).arrived == 0 && (s.task 0 0).sreg 4 == 0) = true := by decide
/-- R359: msetl.n16 m0, s5 with s5 = 17. -/
theorem test_msetl : next (exec (.msetl y0 .w16 0 5) (ready (·.setS 5 17)))
    (fun s => (s.task 0 0).mreg 0 == 0x1FF && (s.task 0 0).mreg 1 == 0xFF) = true := by decide
/-- R337: semwait takes its count whole, or its task waits. -/
theorem test_semwait : next (exec (.semwait y0 3 (.imm 2)) ((ready id).setSem 0 3 { count := 2, ext := false, ovf := false }))
      (fun s => (s.sem 0 3).count == 0 && (s.task 0 0).pc == 12) &&
    next (exec (.semwait y0 3 (.imm 3)) ((ready id).setSem 0 3 { count := 2, ext := false, ovf := false }))
      (fun s => (s.sem 0 3).count == 2 && (s.task 0 0).st == .waiting) = true := by decide
/-- R179, R180: an ALIGN trap of a load enters the handler at HBASE. -/
theorem test_align_trap : next (exec (.ld y0 ⟨.w32, false⟩ ⟨.rlx, .core⟩ 1 ⟨2, 0, 0, 0⟩)
      (ready fun t => { t.setA 2 0x80000000000000000002 with hbase := 0x80000000001000000400, pc := 0x40 }))
    (fun s => (s.task 0 0).pc == 0x80000000001000000400 && (s.task 0 0).epc == 0x40 && (s.task 0 0).ecause == 4 &&
      (s.task 0 0).eaddr == 0x80000000000000000002 && (s.task 0 0).inh && (s.task 0 0).esw == 0) = true := by decide
/-- R101: the location of DPA 0x1234567A40. -/
theorem test_dpa : stackOfBank (bankOf 0x1234567A40) = 6 ∧ bankOf 0x1234567A40 % 4096 = 34 * 64 + 28 ∧ rowOf 0x1234567A40 = 1553 := by decide
/-- A step runs a placed word: movi s1, 5. -/
theorem test_step : next (step (State.reset.withFetchWord 96 ((0x0180000 <<< 68) ||| (1 <<< 50) ||| 5))) (fun s => (s.task 0 0).sreg 1 == 5) = true := by
  decide

/-! ## States that meet the hypotheses of the statements -/

/-- The first byte of the unit's own scratchpad. -/
abbrev sp : Addr := 0xFFFFFFFFFFFFFC000000

/-- An entry of the task of slot 0 in an engine's queue. -/
def entry (i : Instr) (e : Eng) : Entry := { instr := i, eng := e, slot := 0, isn := 0, rdepth := 0 }

/-- A ready task behind whose instruction that entry stands. -/
def queued (f : Task → Task) (i : Instr) (e : Eng) : State := (ready f).modCore 0 fun k => { k with queue := [entry i e] }

/-- The task of `Runs` statements: any operands, with and without a wait that is exactly met. -/
theorem witness_ready : Ready (ready id) 0 0 y0 ∧
    Ready ((ready id).setSem 0 5 { count := 3, ext := false, ovf := false }) 0 0 ⟨5, 3, 7, 1⟩ := by unfold Ready; decide
theorem witness_scalar_floating_point : let s := ready (·.setS 5 0x7FC00000)
    Ready s 0 0 y0 ∧ (sfmt .f32).decode ((s.task 0 0).fbits .f32 5) = .nan ∧ (sfmt .f32).decode ((s.task 0 0).fbits .f32 4) ≠ .nan := by
  unfold Ready; decide
theorem witness_loads : let s := ready (·.setA 2 sp)
    let x := fun b => { scalarAcc 0 (s.task 0 0).asid true false false with dc := b }
    Ready s 0 0 y0 ∧ (s.task 0 0).ea ⟨2, 0, 0, 0⟩ = sp ∧ sp.toNat % 16 = 0 ∧
    (∀ b, resolve (s.waited 0 0 y0) (x b) sp 16 = (s, .ok [(.spm 0 0, 16)])) ∧
    (∀ b, resolve (s.waited 0 0 y0) (x b) sp 4 = (s, .ok [(.spm 0 0, 4)])) ∧
    lockHit (s.core 0).queue 0 [(.spm 0 0, 16)] = none ∧ s.firstPoisonAll [(.spm 0 0, 16)] = none :=
  ⟨by unfold Ready; decide, by decide, by decide, fun b => by cases b <;> rfl, fun b => by cases b <;> rfl, by decide, by decide⟩
theorem witness_stores : let s := ready (·.setA 2 sp)
    Ready s 0 0 y0 ∧ s.memWf = true ∧ (s.task 0 0).ea ⟨2, 0, 0, 0⟩ = sp ∧ sp.toNat % 16 = 0 ∧
    resolve (s.waited 0 0 y0) (scalarAcc 0 (s.task 0 0).asid false true false) sp 16 = (s, .ok [(.spm 0 0, 16)]) ∧
    resolve (s.waited 0 0 y0) (scalarAcc 0 (s.task 0 0).asid false true false) sp 1 = (s, .ok [(.spm 0 0, 1)]) ∧
    lockHit (s.core 0).queue 0 [(.spm 0 0, 16)] = none :=
  ⟨by unfold Ready; decide, by decide, by decide, by decide, rfl, rfl, by decide⟩
theorem witness_atomics : let s := ready (·.setA 2 (sp + 8))
    Ready s 0 0 y0 ∧ BitVec.ofInt 80 (((s.task 0 0).areg 2).toNat + (0xFFFFFF8 : BitVec 28).toInt) = sp ∧ sp.toNat % 8 = 0 ∧
    resolve (s.waited 0 0 y0) (scalarAcc 0 (s.task 0 0).asid true true false) sp 8 = (s, .ok [(.spm 0 0, 8)]) ∧
    lockHit (s.core 0).queue 0 [(.spm 0 0, 8)] = none ∧ s.firstPoisonAll [(.spm 0 0, 8)] = none :=
  ⟨by unfold Ready; decide, by decide, by decide, rfl, by decide, by decide⟩
theorem witness_scalar_alignment : let s := ready (·.setA 2 (sp + 1))
    Ready s 0 0 y0 ∧ ((s.task 0 0).ea ⟨2, 0, 0, 0⟩).toNat % 2 ≠ 0 ∧ ((s.task 0 0).ea ⟨2, 0, 0, 0⟩).toNat % 16 ≠ 0 ∧
    ((s.task 0 0).areg 2 + (0 : BitVec 28).signExtend 80).toNat % 2 ≠ 0 := by unfold Ready; decide
/-- The last instruction of a body of two is in the innermost loop; the next is not. -/
theorem witness_control_transfers : let f := fun t : Task =>
      { (t.setA 2 0x10C).setP 2 true with pc := 0x100, depth := 1, loops := t.loops.setIfInBounds 0 { cnt := 2, start := 0x100, len := 2 } }
    let s := ready f
    Ready s 0 0 y0 ∧ (BitVec.ofInt 80 ((s.task 0 0).pc.toNat + 12 * (1 : BitVec 32).toInt)).toNat % 4 = 0 ∧
    (s.task 0 0).inBody (BitVec.ofInt 80 ((s.task 0 0).pc.toNat + 12 * (1 : BitVec 32).toInt)) = true ∧ (s.task 0 0).inBody 0x118 = false ∧
    (s.task 0 0).pred (.pos 2) = true ∧ (s.task 0 0).pred (.neg 2) = false ∧
    ((s.task 0 0).areg 2).toNat % 4 = 0 ∧ (s.task 0 0).inBody ((s.task 0 0).areg 2) = true := by unfold Ready; decide
theorem witness_hardware_loops : let t := fun d => ready fun t => { (t.setS 3 1).setP 2 true with depth := d }
    (Ready (t 0) 0 0 y0 ∧ ((t 0).task 0 0).inh = false ∧ ((t 0).task 0 0).depth = 0 ∧
      (1 : BitVec 32).toNat = min (((t 0).task 0 0).sreg 3).toNat (2 ^ 32 - 1) ∧ (0 : BitVec 32).toNat = min (((t 0).task 0 0).sreg 4).toNat (2 ^ 32 - 1)) ∧
    (Ready (t 4) 0 0 y0 ∧ ((t 4).task 0 0).depth = 4 ∧ ((t 4).task 0 0).pred (.neg 2) = false ∧ ((t 4).task 0 0).pred (.pos 2) = true ∧
      (4 : BitVec 3).toNat = ((t 4).task 0 0).depth) ∧
    (Ready (t 3) 0 0 y0 ∧ ((t 3).task 0 0).pred (.pos 2) = true ∧ ((t 3).task 0 0).depth < (4 : BitVec 3).toNat) := by unfold Ready; decide
theorem witness_hardware_loops_end : let k := { Task.idle with depth := 4, loops := Vector.replicate 4 { cnt := 1, start := 0x100, len := 2 } }
    let l : Loop := { cnt := 1, start := 0x100, len := 2 }
    k.inh = false ∧ k.depth = 3 + 1 ∧ k.loops.toArray.getD 3 {} = l ∧ (0x118 : Addr) = l.endAddr ∧
      { l with cnt := 2 }.cnt ≠ 1 := by decide
theorem witness_special_registers : let s := ready fun t => { (t.setA 2 4).setA 3 2 with inh := true }
    Ready s 0 0 y0 ∧ (s.task 0 0).inh = true ∧ ((s.task 0 0).areg 2).toNat % 4 = 0 ∧ ((s.task 0 0).areg 3).toNat % 4 ≠ 0 ∧
    ((ready (·.setS 3 0x1FFFFFFFF)).task 0 0).sreg 3 < 2 ^ 33 ∧ Ready (ready id) 0 0 y0 ∧ ((ready id).task 0 0).inh = false := by
  unfold Ready; decide
theorem witness_access_probe : let s := ready fun t => ((t.setA 2 sp).setS 3 1).setS 4 0x100000001
    let s' := ready fun t => t.setS 3 0x100000000
    Ready s 0 0 y0 ∧ ((s.task 0 0).sreg 5).toNat = 0 ∧ 2 ^ 32 < ((s.task 0 0).sreg 4).toNat ∧ (s.task 0 0).probed = 0 ∧
    probe (scalarAcc 0 (s.task 0 0).asid true false false) (1 / 4096 + 2) (s.waited 0 0 y0) ((s.task 0 0).areg 2 + BitVec.ofNat 80 0) (1 - 0) 0 =
      (s, .pass) ∧
    Ready s' 0 0 y0 ∧ ((s'.task 0 0).sreg 3).toNat = 2 ^ 32 ∧ ∃ u,
    probe (scalarAcc 0 (s'.task 0 0).asid true false false) (2 ^ 32 / 4096 + 2) (s'.waited 0 0 y0) ((s'.task 0 0).areg 2 + BitVec.ofNat 80 0)
      (2 ^ 32 - 0) 0 = (u, .fail) :=
  ⟨by unfold Ready; decide, by decide, by decide, by decide, rfl, by unfold Ready; decide, by decide, _, rfl⟩
theorem witness_semaphores : let s := (ready fun t => { t.setS 3 0xFFFF with priv := true }).setSem 0 3 { count := 0xFFFF, ext := false, ovf := false }
    Ready s 0 0 y0 ∧ (s.task 0 0).cnt (.reg 3) ≤ ((s.waited 0 0 y0).sem 0 3).count.toNat ∧ (s.task 0 0).priv = true ∧
    Ready (ready id) 0 0 y0 ∧ ((ready id).task 0 0).priv = false ∧
    ((ready id).cur = .task 0 0 ∧ ((ready id).task 0 0).took = none ∧ ((ready id).sem 0 5).count.toNat < (⟨5, 1, 0, 0⟩ : Sync).wcnt.toNat) := by
  unfold Ready; decide
theorem witness_joins_fences_and_mwait : let s := queued id (.put y0 .pk64 0 0 0 0 1) .fx
    Ready s 0 0 y0 ∧ ((s.core 0).queue.all fun q => !(q.slot == 0 && (0x0F : BitVec 5).getLsbD (q.eng.code - 1))) = true ∧
    ((s.core 0).queue.any fun q => q.slot == 0 && (0x10 : BitVec 5).getLsbD (q.eng.code - 1)) = true ∧ s.acked 0 0 = false ∧
    (ready id).acked 0 0 = true := by unfold Ready; decide
theorem witness_joins_fences_and_mwait_monitor : let s := ready fun t => t.setA 2 sp
    Ready s 0 0 y0 ∧ ((s.task 0 0).areg 2).toNat % 8 = 0 ∧
    resolve (s.waited 0 0 y0) (scalarAcc 0 (s.task 0 0).asid true false false) sp 8 = (s, .ok [(.spm 0 0, 8)]) ∧
    lockHit (s.core 0).queue 0 [(.spm 0 0, 8)] = none ∧ s.firstPoisonAll [(.spm 0 0, 8)] = none ∧
    Cond.eval .eq (BitVec.ofInt 64 ((⟨.w64, false⟩ : IntTy).int (ofBytes (s.readAll [(.spm 0 0, 8)])))) ((s.task 0 0).sreg 0) = true ∧
    Cond.eval .ne (BitVec.ofInt 64 ((⟨.w64, false⟩ : IntTy).int (ofBytes (s.readAll [(.spm 0 0, 8)])))) ((s.task 0 0).sreg 0) = false :=
  ⟨by unfold Ready; decide, by decide, rfl, by decide, by decide, by decide, by decide⟩
theorem witness_landing_words_count : let w := fun t f => ({ target := t, count := 2 ^ 48 - 2, gen := 0xFFFF, sem := 0, flags := f } : LandingWord)
    (w 1 0x80).flags.getLsbD 7 = true ∧ (w 1 2).flags.extractLsb' 1 6 ≠ 0 ∧ (w 0 0).target = 0 ∧ 0 < (w 1 0).target ∧
    (w 1 0).flags.extractLsb' 1 6 = 0 ∧ (w 1 0).count < 2 ^ 48 ∧ (w 1 0).count + 1 < 2 ^ 48 := by decide
theorem witness_landing_words : let s := ready fun t => t.setA 2 sp
    let w := LandingWord.ofBits (BitVec.ofNat 128 (ofBytes (s.readAll [(.spm 0 0, 16)])))
    Ready s 0 0 y0 ∧ ((s.task 0 0).areg 2).toNat % 16 = 0 ∧ vaRegion ((s.task 0 0).areg 2) = .scratch ∧
    lockHit (s.core 0).queue 0 [(.spm 0 0, 16)] = none ∧
    resolve (s.waited 0 0 y0) (scalarAcc 0 (s.task 0 0).asid false true false) sp 16 = (s, .ok [(.spm 0 0, 16)]) ∧
    resolve (s.waited 0 0 y0) (scalarAcc 0 (s.task 0 0).asid true false false) sp 16 = (s, .ok [(.spm 0 0, 16)]) ∧
    s.firstPoisonAll [(.spm 0 0, 16)] = none ∧ w.flags.getLsbD 7 = false ∧
    (w.gen.toNat + 2 ^ 16 - (s.task 0 0).cnt (.imm 0x8001) % 2 ^ 16) % 2 ^ 16 = 2 ^ 15 - 1 ∧
    (w.gen.toNat + 2 ^ 16 - (s.task 0 0).cnt (.imm 0x8000) % 2 ^ 16) % 2 ^ 16 = 2 ^ 15 :=
  ⟨by unfold Ready; decide, by decide, by decide, by decide, rfl, rfl, by decide, by decide, by decide, by decide⟩
/-- A lone member, the last of two members to arrive, and the first of two. -/
theorem witness_barriers : let s := fun m a => (ready fun t => t.setS 3 1).setBar 0 15 { member := m, arrived := a, phase := true }
    let o := fun m a => ((s m a).waited 0 0 y0).bar 0 15
    Ready (s 3 2) 0 0 y0 ∧ (o 2 0).member.getLsbD 0 = false ∧
    ((o 3 2).member.getLsbD 0 = true ∧ (∀ j < 8, (o 3 2).member.getLsbD j = true → j = 0 ∨ (o 3 2).arrived.getLsbD j = true) ∧
      (∀ j < 8, (o 3 2).arrived.getLsbD j = true → (o 3 2).member.getLsbD j = true)) ∧
    ((o 3 0).member.getLsbD 0 = true ∧ ∃ j < 8, (o 3 0).member.getLsbD j = true ∧ j ≠ 0 ∧ (o 3 0).arrived.getLsbD j = false) ∧
    (o 3 0).phase ≠ (((s 3 0).task 0 0).sreg 0).getLsbD 0 ∧ ((o 3 0).phase = (((s 3 0).task 0 0).sreg 3).getLsbD 0 ∧ (o 3 0).member ≠ 0) ∧
    (o 0 0).member = 0 := by unfold Ready; decide
theorem firstFree_range (n : Nat) : ∀ f i, i + f = n → firstFree (List.range n) f i = n
  | 0, i, h => by simpa [firstFree] using h
  | f + 1, i, h => by
    rw [firstFree, if_pos (by simp only [List.contains_iff_mem, List.mem_range]; omega)]
    exact firstFree_range n f (i + 1) (by omega)

/-- A sweep with or without a pool entry. -/
def sweep (e : Option Nat) : Sweep :=
  { id := 0, rec' := SweepRec.parse [], asid := 0, src := .child 0, entry := e, accepted := 0, placed := 0, done := 0, doneBefore := 0,
    prevUnit := none, held := false, ended := none, firstFor := none, reported := false, renames := [] }

/-- A device whose pool holds `n` sweeps and whose queue `m`. -/
def full (n m : Nat) : State :=
  { ready id with sweeps := (List.range n).map (fun i => sweep (some i)) ++ List.replicate m (sweep none) }

theorem full_mqCount (n m : Nat) : (full n m).mqCount = m := by
  have h : (full n m).sweeps.filter (fun w => w.entry.isNone) = List.replicate m (sweep none) := by
    simp only [full, List.filter_append, List.filter_map, Function.comp_def]
    rw [List.filter_eq_nil_iff.mpr (by simp [sweep]), List.map_nil, List.nil_append, List.filter_eq_self.mpr]
    intro a ha
    rw [List.eq_of_mem_replicate ha]
    rfl
  rw [State.mqCount, h, List.length_replicate]

theorem full_poolEntry (n m : Nat) (h : 4096 ≤ n) : (full n m).poolEntry true = none := by
  have used : (full n m).sweeps.filterMap (fun w => w.entry) = List.range n := by
    simp only [full, List.filterMap_append, List.filterMap_map, Function.comp_def, sweep, List.filterMap_some, List.filterMap_replicate_of_none,
      List.append_nil]
  have first : firstFree (List.range n) n 0 = n := firstFree_range n n 0 (Nat.zero_add n)
  simp only [State.poolEntry, used, List.length_range, first, if_true]
  exact if_neg (Nat.not_lt.mpr h)

theorem witness_sweep_instructions_pool_full : Ready (full 4096 65536) 0 0 y0 ∧ (full 4096 65536).poolFull true = true := by
  refine ⟨⟨rfl, rfl, .inr (Nat.zero_le _)⟩, ?_⟩
  rw [State.poolFull, full_mqCount, full_poolEntry _ _ (Nat.le_refl _)]
  rfl

/-- A record of one iteration in the scratchpad, and an empty one. -/
theorem witness_sweep_instructions : let s := ((ready fun t => (t.setA 2 sp).setA 3 (sp + 128)).modCore 0 fun k =>
      { k with spm := [(0, 1), (5, 1), (8, 1), (12, 1), (16, 1), (20, 1), (66, 1)] })
    Ready s 0 0 y0 ∧ s.poolFull true = false ∧ ((s.task 0 0).areg 2).toNat % 128 = 0 ∧ ((s.task 0 0).areg 3).toNat % 128 = 0 ∧
    resolve (s.waited 0 0 y0) (scalarAcc 0 (s.task 0 0).asid true false false) ((s.task 0 0).areg 2) 128 = (s, .ok [(.spm 0 0, 128)]) ∧
    resolve (s.waited 0 0 y0) (scalarAcc 0 (s.task 0 0).asid true false false) ((s.task 0 0).areg 3) 128 = (s, .ok [(.spm 0 128, 128)]) ∧
    lockHit (s.core 0).queue 0 [(.spm 0 0, 128)] = none ∧ s.firstPoisonAll [(.spm 0 0, 128)] = none ∧
    lockHit (s.core 0).queue 0 [(.spm 0 128, 128)] = none ∧ s.firstPoisonAll [(.spm 0 128, 128)] = none ∧
    checkRec s (SweepRec.parse (s.readAll [(.spm 0 0, 128)])) true (s.task 0 0).ceil (s.task 0 0).priv = none ∧
    checkRec s (SweepRec.parse (s.readAll [(.spm 0 128, 128)])) true (s.task 0 0).ceil (s.task 0 0).priv = some 3 ∧
    ((s.waited 0 0 y0).discardFrozen 0 0).taskQuiet 0 0 = true ∧
    (((queued id (.nop y0) .fx).waited 0 0 y0).discardFrozen 0 0).taskQuiet 0 0 = false :=
  ⟨by unfold Ready; decide, by decide, by decide, by decide, rfl, rfl, by decide, by decide, by decide, by decide, by decide, by decide, by decide,
    by decide⟩
theorem witness_containment_regions : let r : Region := { handler := 0, id := 7, mark := 0, inh := false, depth := 0 }
    let s := fun n => ready fun t => { (t.setA 3 2) with regions := List.replicate n r }
    let b := queued (fun t => { t with regions := [r] }) (.nop y0) .vx
    Ready (s 3) 0 0 y0 ∧ ((s 3).task 0 0).regions.length ≠ 4 ∧ (((s 3).task 0 0).areg 2).toNat % 4 = 0 ∧ (((s 3).task 0 0).areg 3).toNat % 4 ≠ 0 ∧
    Ready (s 4) 0 0 y0 ∧ ((s 4).task 0 0).regions.length = 4 ∧ ((s 4).task 0 0).regions.getLast? = some r ∧ r.id = 7 ∧ r.id ≠ 8 ∧
    (s 4).regionClear 0 0 4 = true ∧ ((s 0).task 0 0).regions = [] ∧
    Ready (b.modCore 0 fun k => { k with queue := k.queue.map fun q => { q with rdepth := 1 } }) 0 0 y0 ∧
    (b.modCore 0 fun k => { k with queue := k.queue.map fun q => { q with rdepth := 1 } }).regionClear 0 0 1 = false := by
  unfold Ready; decide
theorem witness_trap_entry : let s := ready fun t => { t with hbase := 4, priv := true }
    (s.task 0 0).inh = false ∧ (s.task 0 0).hbase ≠ 0 ∧ (s.task 0 0).took = none ∧ ((ready id).task 0 0).hbase = 0 := by decide
theorem witness_system_calls : let s := fun h d a => { (ready fun t => { t with hbase := 4, priv := h }) with dbg := { halt := d, haltonbrk := a, asid := 0 } }
    let o := { s true true true with dbg := { halt := true, haltonbrk := true, asid := 1 } }
    Ready (s false false false) 0 0 y0 ∧ ((s false false false).task 0 0).inh = false ∧ ((s false false false).task 0 0).hbase ≠ 0 ∧
    ((s false false false).dbg.haltonbrk && (s false false false).dbg.asid == ((s false false false).task 0 0).asid) = false ∧
    ((s false false true).dbg.haltonbrk && (s false false true).dbg.asid == ((s false false true).task 0 0).asid) = true ∧
    ((s true false false).task 0 0).priv = true ∧ (s true false false).dbg.halt = false ∧ (s true true false).dbg.asid = ((s true true false).task 0 0).asid ∧
    Ready o 0 0 y0 ∧ o.dbg.halt = true ∧ o.dbg.asid ≠ (o.task 0 0).asid := by unfold Ready; decide
theorem witness_trap_return : let s := fun e => ready fun t => { t with inh := true, esw := e, priv := true }
    Ready (s 2) 0 0 y0 ∧ ((s 2).task 0 0).inh = true ∧ ((s 2).task 0 0).eswBad = false ∧
    (((s 2).core 0).queue.all fun q => !(q.slot == 0)) = true ∧ ((s 4).task 0 0).eswBad = true ∧ ((ready id).task 0 0).inh = false := by
  unfold Ready; decide

/-- A ready VX engine at the full width, with saturation off and a width of 64. -/
theorem witness_vector_arithmetic : EngineReady (ready id) 0 0 y0 .vx ∧ ((ready id).task 0 0).width ≤ 128 ∧ (⟨.w64, false⟩ : IntTy).w ≠ .w32 ∧
    (⟨.w32, false⟩ : IntTy).w ≠ .w64 := by unfold EngineReady; decide

/-- One unit leads from a state to another. -/
theorem path_one {P : Nat → State → State → Prop} {s : State} (h : ∃ t, P 0 s t) : ∃ t, Path 1 s t P :=
  h.elim fun t h => ⟨t, fun e => if e = 0 then s else t, rfl, rfl, fun e he => by
    obtain rfl : e = 0 := by omega
    exact h⟩

theorem path_none {P : Nat → State → State → Prop} {s : State} : Path 0 s s P := ⟨fun _ => s, rfl, rfl, fun _ h => absurd h (by omega)⟩

theorem ite_of {c p q : Prop} [Decidable c] (h : c) (hp : p) : if c then p else q := by rwa [if_pos h]

/-- A width of one 64-bit element, which is active, at the first bytes of the scratchpad. -/
def lane : Task → Task := fun t => { (t.setA 2 sp).setM 0 (BitVec.allOnes 128) with width := 2 }

theorem lane_one : 32 * ((ready lane).task 0 0).width / Width.w64.bits = 1 := by decide

theorem witness_vector_memory : EngineReady (ready lane) 0 0 y0 .vx ∧ ((ready lane).task 0 0).width ≤ 128 := by unfold EngineReady; decide
theorem witness_vector_memory_loads (A : Task → Nat → Addr) (hA : ∀ t, A t 0 = sp) (x : Issue)
    (hx : x = vx (.vld y0 .w64 1 ⟨2, 0, 0, 0⟩) (memCaps ⟨2, 0, 0, 0⟩) ∨ x = vx (.vlds y0 .w64 1 ⟨2, 0, 0, 0⟩) (memCaps ⟨2, 0, 0, 0⟩) ∨
      x = vx (.vgath y0 .w64 1 ⟨2, 0, 0, 0⟩) (gatherCaps ⟨2, 0, 0, 0⟩)) :
    ∃ u, ElemLoads (ready lane) 0 0 y0 x .w64 1 A u := by
  unfold ElemLoads
  rw [lane_one]
  refine path_one ?_
  simp only [hA]
  obtain rfl | rfl | rfl := hx <;>
    exact ⟨_, ite_of (by decide) ⟨by decide, _, [(.spm 0 0, 8)], ⟨⟨rfl, by decide⟩, by decide⟩, rfl⟩⟩
theorem witness_vector_memory_stores (A : Task → Nat → Addr) (hA : ∀ t, A t 0 = sp) (x : Issue)
    (hx : x = vx (.vst y0 .w64 1 ⟨2, 0, 0, 0⟩) (memCaps ⟨2, 0, 0, 0⟩) ∨ x = vx (.vsts y0 .w64 1 ⟨2, 0, 0, 0⟩) (memCaps ⟨2, 0, 0, 0⟩) ∨
      x = vx (.vscat y0 .w64 1 ⟨2, 0, 0, 0⟩) (gatherCaps ⟨2, 0, 0, 0⟩)) :
    ∃ u, ElemStores (ready lane) 0 0 y0 x .w64 1 A u := by
  unfold ElemStores
  rw [lane_one]
  refine path_one ?_
  simp only [hA]
  obtain rfl | rfl | rfl := hx <;>
    exact ⟨_, ite_of (by decide) ⟨by decide, _, [(.spm 0 0, 8)], ⟨rfl, by decide⟩, rfl⟩⟩
theorem path_succ {P : Nat → State → State → Prop} {n : Nat} {s : State} (h : ∃ t, P 0 s t ∧ ∃ u, Path n t u (fun e => P (e + 1))) :
    ∃ u, Path (n + 1) s u P := by
  obtain ⟨t, h, u, σ, h0, hn, hs⟩ := h
  refine ⟨u, fun | 0 => s | e + 1 => σ e, rfl, hn, fun e he => ?_⟩
  match e with
  | 0 => show P 0 s (σ 0); rw [h0]; exact h
  | e + 1 => exact hs e (by omega)

/-- An image of one entry at the first bytes of the scratchpad. -/
def tableState (f : Task → Task) : State :=
  (ready fun t => { ((f t).setA 2 sp).setA 3 (sp + 256) with width := 1 }).modCore 0 fun k =>
    { k with spm := [(6, 0x80), (7, 0x3F), (10, 0x80), (11, 0x3F), (12, 1)] }

theorem witness_table_instructions : let s := tableState id
    EngineReady s 0 0 y0 .tx ∧ (s.task 0 0).width ≤ 128 ∧ ((s.task 0 0).areg 2).toNat % 16 = 0 := by unfold EngineReady; decide

theorem witness_table_instructions_txload : let s := tableState id
    ∃ x, x = tx (.txload y0 3 2) (fun t => [capA t 3, capA t 2]) ∧
    let B := x.begun s 0 0 y0; let q := x.started s 0 0 y0
    OwnImage B 0 q (sp + 256) ∧ ∃ t h, HeaderRead B 0 q sp h t ∧ h.ok = true ∧ h.inside t 0 (sp + 256) = true ∧
    ∃ u, Path (h.n + 2) t u (fun j v z => ∃ v1 l1 v2 l2, Through v 0 q (txAcc v 0 q true false) (sp + BitVec.ofNat 80 (8 * j)) 8 v1 l1 ∧
        Through v1 0 q (txAcc v1 0 q false true) (sp + 256 + BitVec.ofNat 80 (8 * j)) 8 v2 l2 ∧
        z = v2.writeAllTag (v2.readAll l1) (v2.poisonAt l1) 0 l2) := by
  refine ⟨_, rfl, ⟨by decide, by decide, .spm 0 256, rfl⟩, _, _, ⟨_, [(.spm 0 0, 16)], _, ⟨⟨rfl, by decide⟩, by decide⟩, rfl, rfl, rfl⟩, by decide, by decide, ?_⟩
  refine path_succ ⟨_, ⟨_, [(.spm 0 0, 8)], _, [(.spm 0 256, 8)], ⟨rfl, by decide⟩, ⟨rfl, by decide⟩, rfl⟩, path_succ ⟨_,
    ⟨_, [(.spm 0 8, 8)], _, [(.spm 0 264, 8)], ⟨rfl, by decide⟩, ⟨rfl, by decide⟩, rfl⟩, path_one ⟨_,
    ⟨_, [(.spm 0 16, 8)], _, [(.spm 0 272, 8)], ⟨rfl, by decide⟩, ⟨rfl, by decide⟩, rfl⟩⟩⟩⟩
theorem witness_table_instructions_txrun : let s := tableState (·.setS 5 1)
    ∃ x, x = tx (.txrun y0 .f32 .f32 false 3 3 5 2) (fun t => [capA t 3, capA t 3, capS t 5, capA t 2]) ∧
    let B := x.begun s 0 0 y0; let q := x.started s 0 0 y0
    EngineReady s 0 0 y0 .tx ∧ ((s.task 0 0).areg 3).toNat % 4 = 0 ∧ 0 < ((s.task 0 0).sreg 5).toNat ∧ ((s.task 0 0).sreg 5).toNat < 2 ^ 32 ∧
    ∃ h t, ValidImage B 0 q sp h t ∧
    ∃ u, Path ((s.task 0 0).sreg 5).toNat t u (fun e v z => ∃ v1 l1 v2 l2 v3 i r,
        Through v 0 q (txAcc v 0 q true false) (sp + 256 + BitVec.ofNat 80 (e * 4)) 4 v1 l1 ∧
        Through v1 0 q (txAcc v1 0 q false true) (sp + 256 + BitVec.ofNat 80 (e * 4)) 4 v2 l2 ∧ v2.firstPoisonAll l1 = none ∧
        Interpolates v2 0 q sp h (Fmt.f32.decode (ofBytes (v2.readAll l1))) v3 i r ∧
        z = v3.writeAll l2 (toBytes (Fmt.f32.encode (Fmt.f32.decode r) .rne false 0) 4)) := by
  refine ⟨_, rfl, by unfold EngineReady; decide, by decide, by decide, by decide, _, _,
    ⟨⟨by decide, by decide, .spm 0 0, rfl⟩, ⟨_, [(.spm 0 0, 16)], _, ⟨⟨rfl, by decide⟩, by decide⟩, rfl, rfl, rfl⟩, by decide, by decide⟩, ?_⟩
  exact path_one ⟨_, _, [(.spm 0 256, 4)], _, [(.spm 0 256, 4)], _, _, _, ⟨rfl, by decide⟩, ⟨rfl, by decide⟩, by decide,
    .inr ⟨by decide, rfl, [(.spm 0 16, 8)], _, ⟨⟨rfl, by decide⟩, by decide⟩, rfl, rfl⟩, rfl⟩
theorem witness_table_instructions_txrun_empty : let s := tableState id
    ((s.task 0 0).sreg 5).toNat = 0 ∧ ((s.task 0 0).areg 3).toNat % 4 = 0 ∧ ∃ x, x = tx (.txrun y0 .f32 .f32 false 3 3 5 2) (fun t => [capA t 3, capA t 3, capS t 5, capA t 2]) ∧
    OwnImage (x.begun s 0 0 y0) 0 (x.started s 0 0 y0) sp :=
  ⟨by decide, by decide, _, rfl, by decide, by decide, .spm 0 0, rfl⟩
theorem witness_table_instructions_txv : let s := tableState id
    ∃ x, x = tx (.txv y0 .f32 .f32 none false 1 2 2) (fun t => [capA t 2]) ∧
    let B := x.begun s 0 0 y0; let q := x.started s 0 0 y0
    ∃ h t, ValidImage B 0 q sp h t ∧
    ∃ u, Path (32 * (s.task 0 0).width / txBits .f32 .f32) t u (fun e v z =>
        if (t.task 0 0).active (txBits .f32 .f32) none e = true then ∃ v1 i r, Interpolates v 0 q sp h ((t.task 0 0).vval .f32 2 e) v1 i r ∧
          z = v1.modTask 0 0 fun t => t.setV 1 (mapElems 32 (t.vreg 1) fun i =>
            if i = e then some (Fmt.f32.encode (Fmt.f32.decode r) .rne false 0) else none)
        else z = v) := by
  refine ⟨_, rfl, _, _,
    ⟨⟨by decide, by decide, .spm 0 0, rfl⟩, ⟨_, [(.spm 0 0, 16)], _, ⟨⟨rfl, by decide⟩, by decide⟩, rfl, rfl, rfl⟩, by decide, by decide⟩, ?_⟩
  exact path_one ⟨_, ite_of (by decide) ⟨_, _, _,
    .inr ⟨by decide, rfl, [(.spm 0 16, 8)], _, ⟨⟨rfl, by decide⟩, by decide⟩, rfl, rfl⟩, rfl⟩⟩
theorem witness_table_instructions_txcfg : let s := tableState fun t => (t.setS 5 0x3F80000000000000).setS 6 0x000000013F800000
    ∃ x, x = tx (.txcfg y0 3 5 6) (fun t => [capA t 3, capS t 5, capS t 6]) ∧
    let B := x.begun s 0 0 y0; let q := x.started s 0 0 y0
    OwnImage B 0 q (sp + 256) ∧ (TxHead.ofBits ((s.task 0 0).sreg 6 ++ (s.task 0 0).sreg 5)).ok = true ∧
    (TxHead.ofBits ((s.task 0 0).sreg 6 ++ (s.task 0 0).sreg 5)).inside B 0 (sp + 256) = true ∧
    ∃ t l, Through B 0 q (txAcc B 0 q false true) (sp + 256) 16 t l :=
  ⟨_, rfl, ⟨by decide, by decide, .spm 0 256, rfl⟩, by decide, by decide, _, [(.spm 0 256, 16)], rfl, by decide⟩
/-- A number and a NaN. -/
theorem witness_table_instructions_txrd : let s := tableState (·.setS 5 0x7FC00000)
    ∃ x, x = tx (.txrd y0 4 2 5) (fun t => [capA t 2, capS t 5]) ∧
    let B := x.begun s 0 0 y0; let q := x.started s 0 0 y0
    ∃ h t, ValidImage B 0 q sp h t ∧ (∃ u i r, Interpolates t 0 q sp h (Fmt.f32.decode (((s.task 0 0).sreg 5).toNat % 2 ^ 32)) u i r) ∧
      ∃ u i r, Interpolates t 0 q sp h (Fmt.f32.decode (((s.task 0 0).sreg 6).toNat % 2 ^ 32)) u i r :=
  ⟨_, rfl, _, _,
    ⟨⟨by decide, by decide, .spm 0 0, rfl⟩, ⟨_, [(.spm 0 0, 16)], _, ⟨⟨rfl, by decide⟩, by decide⟩, rfl, rfl, rfl⟩, by decide, by decide⟩,
    ⟨_, _, _, .inl ⟨by decide, rfl, rfl, rfl⟩⟩,
    _, _, _, .inr ⟨by decide, rfl, [(.spm 0 16, 8)], _, ⟨⟨rfl, by decide⟩, by decide⟩, rfl, rfl⟩⟩

/-- An awake array, its latch holding a format. -/
def matrixState (fmt : BitVec 8) (f : Task → Task) : State :=
  (ready fun t => (f t).setA 2 sp).modCore 0 fun k => { k with gate := .awake, latchFmt := fmt }

/-- The last row of the latch, with scales. -/
theorem witness_matrix_latch_loads : let s := matrixState 0xFF (·.setS 5 0x017F)
    let T := (s.task 0 0).sreg 5
    EngineReady s 0 0 y0 .mx ∧ s.memWf = true ∧ ldTileBad T = false ∧ isBinary8 0x04 = true ∧ tw T 0 + tw T 8 = 128 ∧
    (∃ x, x = mx (.mxldw y0 0x04 2 5 0 (some (2, 0))) (fun k => [capA k 2, capS k 5, sclCap k (some (2, 0))]) ∧
      let B := x.copied s 0 0 y0 true 0 (sclSet (some (2, 0)))
      let d := ldData false 0x04 sp ((s.core 0).agSet 0) (tw T 8) 128
      let z := ldScale sp ((s.core 0).agSet 0) (tw T 8) 128
      MxFits B 0 (x.started s 0 0 y0) true [d, z] ∧ (∀ r, r < tw T 8 → d.clean B 0 r) ∧
      ∀ r, r < tw T 8 → B.scalePoison 0 z ((s.core 0).agSet 0).geo false r = none) ∧
    (∃ x, x = mx (.mxldwt y0 0x04 2 5 0 (some (2, 0))) (fun k => [capA k 2, capS k 5, sclCap k (some (2, 0))]) ∧
      let B := x.copied s 0 0 y0 true 0 (sclSet (some (2, 0)))
      let d := ldData true 0x04 sp ((s.core 0).agSet 0) (tw T 8) 128
      let z := ldScale sp ((s.core 0).agSet 0) (tw T 8) 128
      MxFits B 0 (x.started s 0 0 y0) true [d, z] ∧ (∀ j, j < 128 → d.clean B 0 j) ∧
      ∀ j, j < 128 → B.scalePoison 0 z ((s.core 0).agSet 0).geo true j = none) := by
  refine ⟨by unfold EngineReady; decide, by decide, by decide, by decide, by decide,
    ⟨_, rfl, by unfold MxFits; decide, by unfold MxArg.clean; decide, by decide⟩,
    ⟨_, rfl, by unfold MxFits; decide, by unfold MxArg.clean; decide, by decide⟩⟩
theorem witness_matrix_latch_loads_mxscl : let s := matrixState 0x04 (·.setS 5 0x017F)
    let T := (s.task 0 0).sreg 5
    EngineReady s 0 0 y0 .mx ∧ ldTileBad T = false ∧ isBinary8 (s.core 0).latchFmt = true ∧
    ∃ x, x = mx (.mxscl y0 2 5 0) (fun k => [capA k 2, capS k 5]) ∧
      let B := x.copied s 0 0 y0 true 0 0
      let z := ldScale sp ((s.core 0).agSet 0) (tw T 8) 128
      MxFits B 0 (x.started s 0 0 y0) true [z] ∧ ∀ r, r < tw T 8 → B.scalePoison 0 z ((s.core 0).agSet 0).geo false r = none :=
  ⟨by unfold EngineReady; decide, by decide, by decide, _, rfl, by unfold MxFits; decide, by decide⟩
theorem skerry_all (s : State) (c k0 kp : Nat) (h : (s.skerry c k0 kp).2 = none) : ∃ S, s.skerry c k0 kp = (S, none) := ⟨_, Prod.ext rfl h⟩
/-- The last row of the array times the last row of the latch, in integers and in floats with scales. -/
theorem witness_matrix_pass : let s := fun f => matrixState f (·.setS 5 0x017F017F)
    let T := ((s 0x20).task 0 0).sreg 5
    pTileBad T = false ∧ (s 0x20).memWf = true ∧ EngineReady (s 0x20) 0 0 y0 .mx ∧ EngineReady (s 0x04) 0 0 y0 .mx ∧
    ((s 0x20).core 0).latchFmt = 0x20 ∧ ((s 0x04).core 0).latchFmt ≠ 0x20 ∧ ((s 0x04).core 0).latchFmt ≠ 0xFF ∧
    (∃ x, x = mx (.mxpass y0 0x20 3 2 5 0 none) (fun k => [0, capA k 2, capS k 5, sclCap k none]) ∧
      let B := x.copied (s 0x20) 0 0 y0 false 0 (sclSet none)
      let d : MxArg := { base := sp, stride := 16 * (((s 0x20).core 0).agSet 0).rstr, rows := tw T 8, len := esz 0x20 * tw T 24,
                         swz := (((s 0x20).core 0).agSet 0).swz, data := true }
      MxFits B 0 (x.started (s 0x20) 0 0 y0) true [d] ∧ (∀ r, r < tw T 8 → d.clean B 0 r) ∧ ∃ S, B.skerry 0 (tw T 16) (tw T 24) = (S, none)) ∧
    (∃ x, x = mx (.mxpass y0 0x04 3 2 5 0 (some (2, 0))) (fun k => [0, capA k 2, capS k 5, sclCap k (some (2, 0))]) ∧
      let B := x.copied (s 0x04) 0 0 y0 false 0 (sclSet (some (2, 0)))
      let d : MxArg := { base := sp, stride := 16 * (((s 0x04).core 0).agSet 0).rstr, rows := tw T 8, len := esz 0x04 * tw T 24,
                         swz := (((s 0x04).core 0).agSet 0).swz, data := true }
      let geo := (((s 0x04).core 0).agSet (sclSet (some (2, 0)))).geo
      let z : MxArg := { base := sp, stride := (((s 0x04).core 0).agSet 0).sstr, rows := ceilDiv (tw T 8) geo.1, len := ceilDiv (tw T 24) geo.2,
                         swz := (((s 0x04).core 0).agSet 0).swz, data := false }
      MxFits B 0 (x.started (s 0x04) 0 0 y0) true [d, z] ∧ (∀ r, r < tw T 8 → d.clean B 0 r) ∧ (∀ r, r < tw T 8 → z.clean B 0 (r / geo.1)) ∧
      ∃ S, B.skerry 0 (tw T 16) (tw T 24) = (S, none)) :=
  ⟨by decide, by decide, by unfold EngineReady; decide, by unfold EngineReady; decide, by decide, by decide, by decide,
    ⟨_, rfl, by unfold MxFits; decide, by unfold MxArg.clean; decide, skerry_all _ _ _ _ (by decide)⟩,
    ⟨_, rfl, by unfold MxFits; decide, by unfold MxArg.clean; decide, by unfold MxArg.clean; decide, skerry_all _ _ _ _ (by decide)⟩⟩
/-- The last column of the last row. -/
theorem witness_matrix_results : let s := matrixState 0xFF (·.setS 5 0x47F017F)
    let T := (s.task 0 0).sreg 5
    EngineReady s 0 0 y0 .mx ∧ s.memWf = true ∧ sTileBad T 128 false = false ∧ sTileBad T 128 true = false ∧
    ∃ x, x = mx (.mxst y0 .fa 0x23 ⟨.rne, false⟩ 0 2 5 0) (fun k => [0, capA k 2, capS k 5]) ∧
      let B := x.copied s 0 0 y0 false 0 0
      let d : MxArg := { base := sp, stride := 16 * ((s.core 0).agSet 0).rstr, rows := tw T 8, len := esz 0x23 * ncol T,
                         swz := ((s.core 0).agSet 0).swz, data := true }
      MxFits B 0 (x.started s 0 0 y0) false [d] ∧
      ∃ u, Path (tw T 8) B u (fun p e f => f = e.writeSwz (.spm 0 (d.row p)) d.swz ((List.range (ncol T)).flatMap fun j =>
        toBytes (accOut .fa 0x23 ⟨.rne, false⟩ (srDraw (s.task 0 0).seed (s.task 0 0).iter (s.task 0 0).isn (p * ncol T + j))
          ((s.core 0).accElem 0 (tw T 0 + p) (col0 T + j))) (esz 0x23)) (fun _ => false)) :=
  ⟨by unfold EngineReady; decide, by decide, by decide, by decide, _, rfl, by unfold MxFits; decide, path_one ⟨_, rfl⟩⟩
theorem witness_matrix_state : let s := matrixState 0xFF fun t => { ((t.setS 5 0x1A00000).setS 6 4).setS 7 1 with priv := true }
    EngineReady s 0 0 y0 .mx ∧ ((s.task 0 0).sreg 5).extractLsb' 44 20 = 0 ∧ ((s.task 0 0).sreg 5).extractLsb' 0 5 = 0 ∧
    (((s.task 0 0).sreg 5).extractLsb' 21 3).toNat = 5 ∧ ((s.task 0 0).sreg 7).toNat < 2 ∧
    ((s.task 0 0).sreg 6).toNat < 8 ∧ ((s.task 0 0).sreg 6).toNat % 4 < (s.core 0).mode.size ∧ (s.task 0 0).priv = true ∧
    ((matrixState 0xFF id).task 0 0).priv = false := by unfold EngineReady; decide
/-- A gated array that a wake would make ready; an entry that waits on each state of the array, and one behind another. -/
theorem witness_matrix_state_idle : let s := ready id; let q := entry (.mxidle y0) .mx
    let b := s.modCore 0 fun k => { k with queue := [q, { q with slot := 1, started := true }] }
    EngineReady (s.setGate 0 .awake) 0 0 y0 .mx ∧ s.arrayGate 0 = .gated ∧ q.eng = .mx ∧ q.started = false ∧
    mxBusy (b.core 0).queue q = true ∧ mxBusy ((s.modCore 0 fun k => { k with queue := [q] }).core 0).queue q = false ∧
    (s.setGate 0 .gating).arrayGate 0 = .gating ∧ (s.setGate 0 .waking).arrayGate 0 = .waking ∧ (s.setGate 0 .awake).arrayGate 0 = .awake := by
  unfold EngineReady; decide
/-- The cut of one unit. -/
theorem cut_one {n : Nat} {size : Nat → Nat} (h : size 0 = n) (h0 : 0 < n) : Cut n size 1 (fun i => i * n) :=
  ⟨by simp, by simp, fun i hi => by
    obtain rfl : i = 0 := by omega
    simp [h, h0]⟩

/-- Two places in the scratchpad, and a count. -/
def copyState (f : Task → Task) : State := ready fun t => (((f t).setA 2 sp).setA 3 (sp + 4096)).setS 5 64

theorem noCheck_of {l : List Check} (h : (l.all fun x => !x.1) = true) : NoCheck l := fun x hx => by
  simpa using List.all_eq_true.mp h x hx

/-- CPY of one byte, with a landing word, and of none. -/
theorem witness_copies : let s := ready fun t => (((t.setA 2 (sp + 15)).setA 3 (sp + 31)).setA 4 (sp + 32)).setS 5 1
    EngineReady s 0 0 y0 .cx ∧ ((s.task 0 0).sreg 6).toNat = 0 ∧
    ∃ x, x = { cx (.cpy y0 3 2 5 (some 4)) (fun t => [capA t 3, capA t 2, capS t 5, lwCap t (some 4)]) with
        lock := fun c t => ownLock c (t.areg 3) (t.sreg 5).toNat } ∧
      let B := x.begun s 0 0 y0; let q := x.started s 0 0 y0
      let D : Addr := sp + 31; let A : Addr := sp + 15; let L : Option (BitVec 36) := some ((sp + 32).setWidth 36)
      overlap A D 1 = false ∧ spBad B (cxAcc B 0 q true) A 1 = false ∧ spBad B (cxAcc B 0 q true) D 1 = false ∧
      NoCheck (lwOptChecks B (cxAcc B 0 q true) L (destUnit B (cxAcc B 0 q true) D)) ∧
      ∃ N p, Cut 1 (fun o => min (1 - o) (min (Addr.left (A + BitVec.ofNat 80 o)) (Addr.left (D + BitVec.ofNat 80 o)))) N p ∧
        ∃ u, Path N B u fun i v z => ∃ t, Moves v 0 q (A + BitVec.ofNat 80 (p i)) (D + BitVec.ofNat 80 (p i)) (p (i + 1) - p i) t ∧
          z = countOpt t 0 q (cxAcc t 0 q true) L (p i) (p (i + 1) - p i) :=
  ⟨by unfold EngineReady; decide, by decide, _, rfl, by decide, by decide, by decide, noCheck_of (by decide), 1, _, cut_one (by decide) (by decide),
    path_one ⟨_, _, ⟨_, [(.spm 0 15, 1)], _, [(.spm 0 31, 1)], ⟨rfl, by decide⟩, ⟨rfl, by decide⟩, rfl⟩, rfl⟩⟩

/-- A tile of one row of 16 bytes. -/
theorem witness_copies_cpyt : let s := copyState (·.setS 6 0x1001)
    let T := (s.task 0 0).sreg 6
    ∃ x, x = { cx (.cpyt y0 3 3 2 6 1 none) (fun k => [capA k 3, capA k 2, capS k 6, lwCap k none]) with
        lock := fun c k => ownLock c (k.areg 3) (16 * (1 : BitVec 16).toNat * (tileRows (k.sreg 6) - 1) + tileLen (k.sreg 6)), swz := (3 : BitVec 4).toNat } ∧
      let B := x.begun s 0 0 y0; let q := x.started s 0 0 y0
      let D : Addr := sp + 4096
      EngineReady s 0 0 y0 .cx ∧ 0 < tileRows T * tileLen T ∧ D.toNat % 16 = 0 ∧ vaRegion D = .scratch ∧
      spBad B (cxAcc B 0 q true) D (16 * (tileRows T - 1) + tileLen T) = false ∧
      spBad B (cxAcc B 0 q true) sp (tileStride T * (tileRows T - 1) + tileLen T) = false ∧
      ∃ N p, ∃ src dst : Nat → Addr,
        src = (fun o => sp + BitVec.ofNat 80 (tileStride T * (o / tileLen T) + o % tileLen T)) ∧
        dst = (fun o => D + BitVec.ofNat 80 (16 * (1 : BitVec 16).toNat * (o / tileLen T) + o % tileLen T)) ∧
        Cut (tileRows T * tileLen T) (fun o => min (tileLen T - o % tileLen T) (min (Addr.left (src o)) (Addr.left (dst o)))) N p ∧
        ∃ u, Path N B u fun i v z => ∃ v1 l1 v2 pl l2 t,
          Through v 0 q (cxAcc v 0 q false) (src (p i)) (p (i + 1) - p i) v1 l1 ∧
          Through v1 0 q (cxAcc v1 0 q true) (dst (p i)) (p (i + 1) - p i) v2 (pl :: l2) ∧
          t = v2.writeSwz pl.1 3 (v2.readAll l1) (v2.poisonAt l1) ∧ z = countOpt t 0 q (cxAcc t 0 q true) none (p i) (p (i + 1) - p i) :=
  ⟨_, rfl, by unfold EngineReady; decide, by decide, by decide, by decide, by decide, by decide, 1, _, _, _, rfl, rfl,
    cut_one (by decide) (by decide),
    path_one ⟨_, _, [(.spm 0 0, 16)], _, (.spm 0 4096, 16), [], _, ⟨rfl, by decide⟩, ⟨rfl, by decide⟩, rfl, rfl⟩⟩

/-- A multicast to the last core, with a landing word. -/
theorem witness_copies_cpym : let s := copyState fun t => (t.setS 6 (0x4031F)).setA 3 (sp + 4096)
    let M := (s.task 0 0).sreg 6
    ∃ x, x = { cx (.cpym y0 3 2 5 6 (some 0)) (fun t => [capA t 3, capA t 2, capS t 5, capS t 6]) with
        lock := fun c t => if ((t.areg 3).extractLsb' 26 10).toNat = 1023 ∧ c ∈ setCores (t.sreg 6)
          then ownLock c (t.areg 3) (t.sreg 5).toNat else none } ∧
      let B := x.begun s 0 0 y0; let q := x.started s 0 0 y0
      let D : Addr := sp + 4096; let o := (D.extractLsb' 0 26).toNat
      EngineReady s 0 0 y0 .cx ∧ overlap sp D 64 = false ∧ vaRegion D = .scratch ∧ D.extractLsb' 26 10 = 1023 ∧ M.extractLsb' 27 37 = 0 ∧
      0 < setCount M ∧ setCount M ≤ 288 ∧ 0 < setStep M ∧ setStep M ≤ 288 ∧
      (∀ t, t ∈ setCores M → t < 288 ∧ B.leaderOf t = t ∧ o + 64 ≤ B.spSize t) ∧
      ((0 : BitVec 26).toNat % 16 = 0 ∧ ∀ t, t ∈ setCores M → (0 : BitVec 26).toNat + 16 ≤ B.spSize t) ∧
      spBad B (cxAcc B 0 q true) sp 64 = false ∧
      ∃ N p, Cut 64 (fun o => min (64 - o) (min (Addr.left (sp + BitVec.ofNat 80 o)) (Addr.left (D + BitVec.ofNat 80 o)))) N p ∧
        ∃ u, Path N B u fun i v z => ∃ t l, Through v 0 q (cxAcc v 0 q false) (sp + BitVec.ofNat 80 (p i)) (p (i + 1) - p i) t l ∧
          Casts 0 q o (p i) (p (i + 1) - p i) (some 0) (t.readAll l) (t.poisonAt l) (setCores M) t z :=
  ⟨_, rfl, by unfold EngineReady; decide, by decide, by decide, by decide, by decide, by decide, by decide, by decide, by decide, by decide, by decide,
    by decide, 1, _, cut_one (by decide) (by decide), path_one ⟨_, _, [(.spm 0 0, 64)], ⟨rfl, by decide⟩,
      ⟨_, [(.spm 287 4096, 64)], _, _, ⟨rfl, by decide⟩, rfl, rfl, rfl⟩⟩⟩

/-- A fill of 64 bytes at 8 bytes an element. -/
theorem witness_copies_fill : let s := copyState id
    ∃ x, x = { cx (.fill y0 .w64 2 5 6 none) (fun t => [capA t 2, capS t 5, capS t 6, lwCap t none]) with
        lock := fun c t => ownLock c (t.areg 2) (t.sreg 5).toNat } ∧
      let B := x.begun s 0 0 y0; let q := x.started s 0 0 y0
      EngineReady s 0 0 y0 .cx ∧ ((s.task 0 0).sreg 5).toNat % 8 = 0 ∧ sp.toNat % 8 = 0 ∧ spBad B (cxAcc B 0 q true) sp 64 = false ∧
      ∃ N p, Cut 64 (fun o => min (64 - o) (Addr.left (sp + BitVec.ofNat 80 o))) N p ∧
        ∃ u, Path N B u fun i v z => ∃ t m, Through v 0 q (cxAcc v 0 q true) (sp + BitVec.ofNat 80 (p i)) (p (i + 1) - p i) t m ∧
          z = countOpt (t.writeAll m ((List.range (p (i + 1) - p i)).map fun j =>
            BitVec.ofNat 8 (((s.task 0 0).sreg 6).toNat / 256 ^ ((p i + j) % 8)))) 0 q (cxAcc B 0 q true) none (p i) (p (i + 1) - p i) :=
  ⟨_, rfl, by unfold EngineReady; decide, by decide, by decide, by decide, 1, _, cut_one (by decide) (by decide),
    path_one ⟨_, _, [(.spm 0 0, 64)], ⟨rfl, by decide⟩, rfl⟩⟩
/-- A row-line slot in a state, and a page of HBM that the CX engine of unit 0 finds cached. -/
def rowState (st : RowSt) (f : Task → Task) : State :=
  { ready (fun t => { ((((f t).setA 2 (1 <<< 79)).setA 3 sp).setS 5 0x103FF) with
      rowq := 1, rows := t.rows.setIfInBounds 0 { st := st, addr := 1 <<< 79, wr := true } }) with
    tlb := [{ cache := .stream 0 .cx, asid := 0, vbase := 2 ^ 79, shift := 16, pbase := 0, r := true, w := true, x := true }] }

/-- Slot k0, the only one granted; the last byte of a row. -/
theorem witness_row_lines : let s := rowState .held id
    EngineReady s 0 0 y0 .cx ∧ vaRegion ((s.task 0 0).areg 2) = .device ∧ (0 : KReg).val < (s.task 0 0).rowq ∧ (s.row 0 0 0).st = .held ∧
    (s.row 0 0 0).wr = true ∧ s.enterBank 0 (bankOf (s.row 0 0 0).dpa) = some s ∧ spanBad ((s.task 0 0).sreg 5) = false ∧
    spanOff ((s.task 0 0).sreg 5) + spanCnt ((s.task 0 0).sreg 5) = 1024 ∧ spanBad ((s.task 0 0).sreg 6) = false ∧ spanCnt ((s.task 0 0).sreg 6) = 0 ∧
    vaRegion ((s.task 0 0).areg 3) = .scratch ∧ ((rowState .empty id).row 0 0 0).st = .empty := by unfold EngineReady; decide
theorem witness_row_lines_rlopen : let s := rowState .empty id
    ∃ x, x = cx (.rlopen y0 0 2) (fun t => [0, capA t 2]) ∧
    let B := x.begun s 0 0 y0; let q := x.started s 0 0 y0
    ∃ t dpa key z l, Through B 0 q (rowAcc B 0 q) ((s.task 0 0).areg 2 &&& ~~~1023) 1 t ((.hbm dpa key, z) :: l) ∧
      (0 : KReg).val < (t.task 0 0).rowq ∧ ownsGroup t 0 0 0 dpa = false ∧ let r := t.releaseRow 0 0 0
      r.latchAt (latchIdx dpa) = none ∧ (∀ w ∈ r.hbm.waiters, w.1 ≠ latchIdx dpa) ∧ r.canAct (latchIdx dpa / 4) = true ∧
      (r.enterBank 0 (latchIdx dpa / 4)).isSome = true :=
  ⟨_, rfl, _, 0, none, 1, [], ⟨rfl, by decide⟩, by decide, by decide, by decide, by decide, by decide, by decide⟩
theorem witness_row_lines_rlrd : let s := rowState .held id
    ∃ x, x = { cx (.rlrd y0 3 0 5 none) (fun t => [capA t 3, 0, capS t 5, lwCap t none]) with
        lock := fun c t => ownLock c (t.areg 3) (spanCnt (t.sreg 5)) } ∧
    let B := x.begun s 0 0 y0; let q := x.started s 0 0 y0
    (0 : KReg).val < (B.task 0 0).rowq ∧ (B.row 0 0 0).st = .held ∧ B.enterBank 0 (bankOf (B.row 0 0 0).dpa) = some B ∧
    spBad B (cxAcc B 0 q true) sp 1 = false ∧ ∃ t m, Through B 0 q (cxAcc B 0 q true) sp 1 t m :=
  ⟨_, rfl, by decide, by decide, by rfl, by decide, _, [(.spm 0 0, 1)], rfl, by decide⟩
theorem witness_row_lines_rlwr : let s := rowState .held id
    ∃ x, x = cx (.rlwr y0 0 3 5) (fun t => [0, capA t 3, capS t 5]) ∧
    let B := x.begun s 0 0 y0; let q := x.started s 0 0 y0
    (0 : KReg).val < (B.task 0 0).rowq ∧ (B.row 0 0 0).st = .held ∧ (B.row 0 0 0).wr = true ∧ B.enterBank 0 (bankOf (B.row 0 0 0).dpa) = some B ∧
    spBad B (cxAcc B 0 q false) sp 1 = false ∧ ∃ t m, Through B 0 q (cxAcc B 0 q false) sp 1 t m :=
  ⟨_, rfl, by decide, by decide, by decide, by decide, by decide, _, [(.spm 0 0, 1)], rfl, by decide⟩
theorem witness_row_lines_streamrow : let s := rowState .empty id
    ∃ x, x = { cx (.streamrow y0 3 2 none) (fun t => [capA t 3, capA t 2, 0, lwCap t none]) with lock := fun c t => ownLock c (t.areg 3) 1024 } ∧
    let B := x.begun s 0 0 y0; let q := x.started s 0 0 y0
    ((s.task 0 0).areg 2).toNat % 1024 = 0 ∧ sp.toNat % 16 = 0 ∧ spBad B (cxAcc B 0 q true) sp 1024 = false ∧
    destUnit B (cxAcc B 0 q true) sp = some 0 ∧
    ∃ t dpa key z l v m, Through B 0 q (rowAcc B 0 q) ((s.task 0 0).areg 2) 1024 t ((.hbm dpa key, z) :: l) ∧
      (t.core 0).resv.length < 8 ∧ streamBlocked t 0 dpa = false ∧ Through (t.streamOpen 0 0 dpa) 0 q (cxAcc B 0 q true) sp 1024 v m :=
  ⟨_, rfl, by decide, by decide, by decide, by decide, _, 0, none, 1024, [], _, [(.spm 0 0, 1024)], ⟨rfl, by decide⟩, by decide, by decide,
    ⟨rfl, by decide⟩⟩
theorem witness_row_lines_bankclose : let s := rowState .empty id
    ∃ x, x = cx (.bankclose y0 2) (fun t => [capA t 2]) ∧
    let B := x.begun s 0 0 y0; let q := x.started s 0 0 y0
    ∃ t dpa key z l, Through B 0 q (rowAcc B 0 q) ((s.task 0 0).areg 2) 1 t ((.hbm dpa key, z) :: l) :=
  ⟨_, rfl, _, 0, none, 1, [], rfl, by decide⟩

/-- A program of one word in the scratchpad, threads that are idle or loaded for the task's sweep or another, and a length past the limit. -/
def sqState (st : ThreadSt) (id : BitVec 32) : State :=
  (copyState fun t => { (t.setS 6 1).setS 7 16385 with priv := true }).setThread 5 { st := st, sweep := id, len := 1 }

theorem witness_sequencer_control : let s := fun st id => sqState st id
    EngineReady (s .idle 0) 0 0 y0 .cx ∧ sp.toNat % 4 = 0 ∧ vaRegion sp ≠ .host ∧ ((s .idle 0).thread 5).st = .idle ∧
    ((s .loaded 0).thread 5).st = .loaded ∧ ((s .loaded 0).thread 5).sweep = ((s .loaded 0).task 0 0).sweep ∧
    ((s .loaded 1).thread 5).sweep ≠ ((s .loaded 1).task 0 0).sweep ∧ 16384 < (((s .idle 0).task 0 0).sreg 7).toNat ∧
    ((s .idle 0).task 0 0).priv = true ∧ ((copyState id).task 0 0).priv = false := by unfold EngineReady; decide
theorem witness_sequencer_control_sqload : let s := sqState .idle 0
    ∃ x, x = cx (.sqload y0 true 4 5 2 6) (fun k => [0, capA k 2, capS k 6]) ∧
    let B := x.begun s 0 0 y0; let q := x.started s 0 0 y0; let X := engAcc 0 .cx (s.task 0 0).asid false true false
    spBad B X sp 12 = false ∧ freeRanges s 1 ≠ [] ∧ ∃ t l, Reads B 0 q X sp 12 t l :=
  ⟨_, rfl, by decide, List.ne_nil_of_mem (a := 0) (List.mem_filter.mpr ⟨List.mem_range.mpr (by decide), by decide⟩), _,
    [(.spm 0 0, 12)], ⟨rfl, by decide⟩, by decide⟩
theorem witness_sequencer_control_sqload_full : let s := (sqState .idle 0).setThread 6 { st := .loaded, base := 100, len := 1 }
    (s.thread 5).st = .idle ∧ freeRanges s 16384 = [] := by decide
/-- A thread that runs, with two sets of its own and one of another sweep. -/
def thread (f : Thread → Thread) : State :=
  { (((State.reset.setThread 5 (f { st := .running, len := 1, w := (Vector.replicate 16 0).set 1 (1 <<< 79) })).setMcset 1 { bits := 1, sweep := some 0 }).setMcset 2
      { bits := 0, sweep := some 1 }) with
    cur := .thread 5, sweeps := [{ sweep none with id := 1 }] }

theorem witness_sequencer_words : let s := thread id
    let h := s.thread 5
    let w := thread fun h => { h with w := (h.w.set 2 1).set 3 8, units := burstUnits 1 none 0 2 0 0 64 }
    s.cur = .thread 5 ∧ setForeign s h 1 = false ∧ setForeign s h 2 = true ∧ (287 : BitVec 9).toNat + ((1 : BitVec 9).toNat - 1) * (1 : BitVec 9).toNat < 288 ∧
    vaRegion (h.reg 1) = .device ∧ (h.reg 1).toNat % 2 ^ 64 < 2 ^ 32 ∧ (h.reg 0).toNat < 2 ^ 26 ∧
    (∀ u ∈ targets s h (s.mcset 1).bits, (h.reg 0).toNat + (h.reg 1).toNat % 2 ^ 64 ≤ s.spSize u) ∧ h.units = [] ∧ (w.thread 5).units ≠ [] ∧
    h.reg 0 = 0 ∧ (w.thread 5).reg 2 ≠ 0 ∧ ((0 : Nat) : Int) = (w.thread 5).pc + (0 : BitVec 32).toInt ∧
    (w.thread 5).base ≤ 0 ∧ 0 < (w.thread 5).base + (w.thread 5).len ∧
    ((w.thread 5).base + (w.thread 5).len : Nat) ≤ (w.thread 5).pc + (1 : BitVec 32).toInt := by decide
/-- SQWAIT at a word of HBM that its thread finds cached, equal to and below its value. -/
theorem witness_sequencer_words_sqwait : let s := { thread (fun h => { h with w := (h.w.set 1 (1 <<< 79)).set 2 1 }) with
      tlb := [{ cache := (seqAcc ((thread id).thread 5)).cache, asid := 0, vbase := 2 ^ 79, shift := 16, pbase := 0, r := true, w := true, x := true }] }
    let h := s.thread 5
    (h.reg 1).toNat % 8 = 0 ∧ waitRegionOk s h (h.reg 1) = true ∧
    ∃ u l, resolve s (seqAcc h) (h.reg 1) 8 = (u, .ok l) ∧ u.firstPoisonAll l = none ∧ (h.reg 0).toNat % 2 ^ 64 ≤ ofBytes (u.readAll l) ∧
      ofBytes (u.readAll l) < (h.reg 2).toNat % 2 ^ 64 :=
  ⟨by decide, by decide, _, [(.hbm 0 none, 8)], rfl, by decide, by decide, by decide⟩
/-- SQWAIT at a misaligned address, one of the host half, a poisoned word, one that no page maps and one of no ASID; a thread past its range. -/
theorem witness_sequencer_words_errors : let s := fun a : Addr => thread (fun h => { h with w := h.w.set 1 a })
    let e := { s (1 <<< 79) with hbm := { (s 0).hbm with poison := [0] }, tlb := [{ cache := (seqAcc ((thread id).thread 5)).cache, asid := 0, vbase := 2 ^ 79, shift := 16, pbase := 0, r := true, w := true, x := true }] }
    let m := { s (1 <<< 79) with asids := [(0, { valid := true })] }
    (((s 4).thread 5).reg 1).toNat % 8 ≠ 0 ∧ ((((s 8).thread 5).reg 1).toNat % 8 = 0 ∧ waitRegionOk (s 8) ((s 8).thread 5) 8 = false ∧
      vaRegion 8 = .host) ∧
    (∃ u l i, waitRegionOk e (e.thread 5) (1 <<< 79) = true ∧ resolve e (seqAcc (e.thread 5)) (1 <<< 79) 8 = (u, .ok l) ∧ u.firstPoisonAll l = some i) ∧
    (∃ u fa, resolve m (seqAcc (m.thread 5)) (1 <<< 79) 8 = (u, .error (.absent, fa)) ∧ (u.asidEnt (m.thread 5).asid.toNat).nopf = false) ∧
    (∃ u c b fa, resolve (s (1 <<< 79)) (seqAcc ((s 0).thread 5)) (1 <<< 79) 8 = (u, .error (.trap c b, fa))) ∧
    (let p : Addr := 0xFFFFFFFFFFF000000000; ∃ c, vaRegion p = .scratch ∧ spaCore (s p) (seqAcc ((s p).thread 5)) (p.extractLsb' 0 36) = some c) ∧
    (let h := (thread fun h => { h with pc := 1 }).thread 5; h.base + h.len ≤ h.pc) :=
  ⟨by decide, by decide, ⟨_, [(.hbm 0 none, 8)], 0, by decide, rfl, by decide⟩, ⟨_, _, rfl, by decide⟩, ⟨_, _, _, _, rfl⟩, ⟨0, by decide, by decide⟩,
    by decide⟩
theorem witness_sequencer_words_task : (ready id).cur = .task 0 0 := by decide

/-- One packet of a transfer of `n` bytes at one target. -/
theorem packets_one {cut n : Nat} {g : Seg} {B : State} {P : Seg → Nat → Nat → Addr → State → State → Prop} (hs : g.start = 0) (hl : g.len = n)
    (h0 : 0 < n) (hc : n ≤ cut - g.addr.toNat % cut) (h : ∃ u, P g 0 n g.addr B u) :
    ∃ u, Packets cut n [g] B u P := by
  obtain ⟨u, h⟩ := h
  refine ⟨u, 1, fun i => i * n, fun _ => g, cut_one ?_ h0, ?_, ?_, fun i => if i = 0 then B else u, rfl, rfl, ?_⟩
  · simp [hs, hl, h0, hc]
  · intro i hi
    obtain rfl : i = 0 := by omega
    simp [hs, hl, h0]
  · simp [hs, hl]
  · intro i hi
    obtain rfl : i = 0 := by omega
    simpa [hs] using h

/-- A remote address and the words of a target: device 2 and its landing word. -/
def fxState (f : Task → Task) : State :=
  ready fun t => { ((((f t).setA 2 sp).setA 3 0x1000).setS 5 7) with priv := true }

theorem witness_remote_transfers_put : let s := fxState (·.setS 6 2)
    let A := (s.task 0 0).areg 2; let R := (s.task 0 0).areg 3; let W := (s.task 0 0).sreg 6
    EngineReady s 0 0 y0 .fx ∧ twLwen W = false ∧ twMoveBad W = false ∧
    ∃ x, x = fx (.put y0 .pk64 3 2 5 6 64) (fun t => [capA t 3, capA t 2, capS t 5, capS t 6]) ∧
    let B := x.begun s 0 0 y0; let q := x.started s 0 0 y0
    (localBad B (fxAcc B 0 q false) A 64).1 = false ∧
    ∃ u, Packets 64 64 [⟨0, 64, twDev W, (s.task 0 0).sreg 5, R, none⟩] B u (SendsBytes 0 q A { ptype := pPUTREQ, aux := 0 } .put) :=
  ⟨by unfold EngineReady; decide, by decide, by decide, _, rfl, by decide, packets_one rfl rfl (by decide) (by decide)
    ⟨_, _, [(.spm 0 0, 64)], ⟨rfl, by decide⟩, by decide, by decide, by decide, by decide, by decide, rfl⟩⟩
/-- A target word with a landing word at the target. -/
theorem witness_remote_transfers_landing : let W : Word := 0x8002
    twLwen W = true ∧ (twSpa W).toNat % 16 = 0 ∧ (twSpa W).extractLsb' 26 10 ≠ 1023 ∧ twMoveBad W = false := by decide
theorem witness_remote_transfers_get : let s := fxState (·.setS 6 0x8002)
    let A := (s.task 0 0).areg 2; let R := (s.task 0 0).areg 3; let W := (s.task 0 0).sreg 6
    EngineReady s 0 0 y0 .fx ∧ twLwen W = true ∧ twMoveBad W = false ∧
    ∃ x, x = fx (.get y0 .pk64 2 3 5 6 64) (fun t => [capA t 2, capA t 3, capS t 5, capS t 6]) ∧
    let B := x.begun s 0 0 y0; let q := x.started s 0 0 y0
    NoCheck (getLwChecks B 0 (fxAcc B 0 q true) (some (twSpa W))) ∧ (localBad B (fxAcc B 0 q true) A 64).1 = false ∧
    ∃ u, Packets 64 64 [⟨0, 64, twDev W, (s.task 0 0).sreg 5, R, none⟩] B u (SendsGet 0 q A .get (getLwPlace 0 (some (twSpa W)))) :=
  ⟨by unfold EngineReady; decide, by decide, by decide, _, rfl, noCheck_of (by decide), by decide,
    packets_one rfl rfl (by decide) (by decide)
      ⟨_, _, [(.spm 0 0, 64)], ⟨rfl, by decide⟩, by decide, by decide, by decide, by decide, rfl⟩⟩
/-- A sharding entry of one block of two 8-byte elements, its owner record in the scratchpad. -/
def shardEnt : ShardEnt :=
  BitVec.ofNat 512 (1 <<< 16 ||| 3 <<< 24 ||| 1 <<< 50 ||| 2 <<< 52 ||| 3 <<< 54 ||| 1 <<< 56 ||| 2 <<< 64 ||| 1 <<< 96 ||| 1 <<< 128 ||| 1 <<< 160 |||
    2 <<< 192 ||| 1 <<< 224 ||| 1 <<< 256 ||| 1 <<< 288 ||| sp.toNat <<< 320 ||| 0x1000 <<< 400 ||| 1 <<< 480)

def shardState (f : Task → Task) : State :=
  { (fxState f).modCore 0 fun k => { k with spm := [(8, 2)] } with shtab := [(9, shardEnt)] }

/-- Where the second element of the block lies. -/
theorem shard_resolved {i : BitVec 128} (h0 : indexAt i 0 = 1) (h1 : indexAt i 1 = 0) (h2 : indexAt i 2 = 0) (h3 : indexAt i 3 = 0) :
    Resolved shardEnt (fun m => if m = 0 then indexAt i m + 0 else indexAt i m) 0 1 := by
  have o0 : shardEnt.order 0 = 0 := by decide
  have o1 : shardEnt.order 1 = 1 := by decide
  have o2 : shardEnt.order 2 = 2 := by decide
  have o3 : shardEnt.order 3 = 3 := by decide
  have b0 : shardEnt.blk 0 = 2 := by decide
  have b1 : shardEnt.blk 1 = 1 := by decide
  have b2 : shardEnt.blk 2 = 1 := by decide
  have b3 : shardEnt.blk 3 = 1 := by decide
  refine ⟨_, _, _, fun _ => ⟨rfl, rfl, rfl⟩, ?_, ?_⟩
  · simp [o0, o1, o2, o3, b0, b1, b2, b3, h0, h1, h2, h3]
  · simp [b0, b1, b2, b3, h0, h1, h2, h3]
/-- The piece that its owner record gives: device 2, token 0, address 0x1008. -/
def shardSeg : Seg := ⟨0, 8, 2, 0, 0x1008, some (9, 0)⟩
theorem shard_owners {s : State} {q : Entry} {i : BitVec 128} (h : s.handle 9 = shardEnt)
    (h0 : indexAt i 0 = 1) (h1 : indexAt i 1 = 0) (h2 : indexAt i 2 = 0) (h3 : indexAt i 3 = 0)
    (ht : Reads s 0 q (fxAcc s 0 q false) (sp + BitVec.ofNat 80 0) 16 s [(.spm 0 0, 16)]) (ha : s.awaitsData 0 q [(.spm 0 0, 16)] = false)
    (hw : leBits 128 (s.readAll [(.spm 0 0, 16)]) = 2 <<< 64) :
    Owners s 0 q 9 i 1 [shardSeg] (s.modEntry 0 q fun z => { z with segs := some [shardSeg] }) := by
  have hb : shardEnt.blk 0 = 2 := by decide
  have hk : shardEnt.rank - 1 = 0 := by decide
  refine ⟨1, fun k => k * 1, 0, fun _ => s, by rw [h, hk], cut_one ?_ (by decide), rfl, rfl, rfl, fun k hk' => ?_⟩
  · rw [h, hb]; simp [h0]
  · obtain rfl : k = 0 := by omega
    exact ⟨shardEnt, 0, 1, [(.spm 0 0, 16)], 2 <<< 64, h.symm, shard_resolved h0 h1 h2 h3, ht, ha, hw.symm, by decide, by decide⟩

theorem witness_remote_transfers_sget : let s := shardState fun t => (t.setS 10 1).setS 9 1
    EngineReady s 0 0 y0 .fx ∧
    ∃ x, x = fx (.sget y0 .pk64 2 10 9 9 none) (fun t => [capA t 2, capPair t 10, capS t 9, lwCap t none]) ∧
    let B := x.begun s 0 0 y0; let q := x.started s 0 0 y0
    (localBad B (fxAcc B 0 q true) sp 8).1 = false ∧ shardFault B 0 q 9 (capPair (s.task 0 0) 10) 1 none = none ∧
    ∃ t, Owners B 0 q 9 (capPair (s.task 0 0) 10) 1 [shardSeg] t ∧
      ∃ u, Packets 64 8 [shardSeg] t u (SendsGet 0 q sp .sget none) := by
  refine ⟨by unfold EngineReady; decide, _, rfl, by decide, by decide, _, shard_owners ?_ ?_ ?_ ?_ ?_ ?_ ?_ ?_, ?_⟩
  · decide
  · decide
  · decide
  · decide
  · decide
  · exact ⟨⟨rfl, by decide⟩, by decide⟩
  · decide
  · decide
  · exact packets_one rfl rfl (by decide) (by decide) ⟨_, _, [(.spm 0 0, 8)], ⟨rfl, by decide⟩, by decide, by decide, by decide, by decide, rfl⟩
/-- An ordered addition with the last contributor's number. -/
theorem witness_remote_transfers_sput : let s := shardState fun t => (t.setS 10 1).setS 9 0x0002000100000001
    let N := (s.task 0 0).sreg 9
    (N.extractLsb' 32 16).toNat < (N.extractLsb' 48 16).toNat ∧
    ∃ x, x = fx (.sput y0 .faddOrd 2 10 9 9) (fun t => [capA t 2, capPair t 10, capS t 9]) ∧
    let B := x.begun s 0 0 y0; let q := x.started s 0 0 y0
    (localBad B (fxAcc B 0 q false) sp 8).1 = false ∧ shardFault B 0 q 9 (capPair (s.task 0 0) 10) 1 none = none ∧
    ∃ t, Owners B 0 q 9 (capPair (s.task 0 0) 10) 1 [shardSeg] t ∧
      ∃ u, Packets 64 8 [shardSeg] t u (SendsBytes 0 q sp { ptype := pORDREQ, opx := 0x18A9, cidx := 1, ccnt := 2 } .sput) := by
  refine ⟨by decide, _, rfl, by decide, by decide, _, shard_owners ?_ ?_ ?_ ?_ ?_ ?_ ?_ ?_, ?_⟩
  · decide
  · decide
  · decide
  · decide
  · decide
  · exact ⟨⟨rfl, by decide⟩, by decide⟩
  · decide
  · decide
  · exact packets_one rfl rfl (by decide) (by decide) ⟨_, _, [(.spm 0 0, 8)], ⟨rfl, by decide⟩, by decide, by decide, by decide, by decide, by decide, rfl⟩
/-- The highest device, an aligned address, and no earlier request or write to the host half to await. -/
theorem witness_remote_elements : let s := fxState fun t => t.setS 6 0x7FFF
    EngineReady s 0 0 y0 .fx ∧ ((s.task 0 0).sreg 6).toNat < 2 ^ 15 ∧ ((s.task 0 0).areg 3).toNat % 8 = 0 ∧
    ((s.task 0 0).sreg 6).getLsbD 15 = false ∧ ((s.task 0 0).sreg 6).toNat < 2 ^ 48 ∧
    (let B := (fx (.flush y0 .sys) noCaps).begun s 0 0 y0; let q := (fx (.flush y0 .sys) noCaps).started s 0 0 y0
     B.flushed 0 q = true ∧ B.hostWritten 0 q = true ∧ (B.tagFor 0x7FFF).isSome = true) := by unfold EngineReady; decide
theorem witness_remote_elements_sld : let s := shardState fun t => t.setS 10 1
    ∃ x, x = { fx (.sld y0 ⟨.w64, false⟩ false .fab 4 10 9) (fun z => [0, capPair z 10]) with parks := true } ∧
    let B := x.begun s 0 0 y0; let q := x.started s 0 0 y0
    shardFault B 0 q 9 (capPair (s.task 0 0) 10) 1 (some 8) = none ∧
    ∃ u, Owners B 0 q 9 (capPair (s.task 0 0) 10) 1 [shardSeg] u ∧ shardSeg.addr.toNat % 8 = 0 ∧
      (u.tagFor (shardSeg.dev.setWidth 16)).isSome = true ∧ u.flushed 0 q = true := by
  refine ⟨_, rfl, by decide, _, shard_owners ?_ ?_ ?_ ?_ ?_ ?_ ?_ ?_, by decide, by decide, by decide⟩
  · decide
  · decide
  · decide
  · decide
  · decide
  · exact ⟨⟨rfl, by decide⟩, by decide⟩
  · decide
  · decide
/-- A request of the task that carries an earlier GEN, and a put without its acknowledgement. -/
def request (kind : ReqKind) : Outst :=
  { tag := 0, pkt := { ptype := pPUTREQ }, kind := kind, core := 0, slot := 0, sweep := 0, eng := .fx, isn := 0, rdepth := 0, off := 0, len := 8
    dst := [], lw := none, resends := 0, shard := some (9, 1), deferred := false }
def sentState (kind : ReqKind) : State := { shardState id with outst := [request kind] }
theorem witness_remote_elements_shfence : let s := sentState .put; let x := fx (.shfence y0) noCaps; let B := x.begun s 0 0 y0
    EngineReady s 0 0 y0 .fx ∧ (∃ z h' g, z ∈ B.outst ∧ z.by 0 0 (B.task 0 0).sweep = true ∧ z.shard = some (h', g) ∧ g ≠ (B.handle h').gen) ∧
    B.flushed 0 (x.started s 0 0 y0) = false :=
  ⟨by unfold EngineReady; decide, ⟨_, 9, 1, List.mem_singleton.mpr rfl, by decide, rfl, by decide⟩, by decide⟩

/-- A flush of everything behind a copy of the task into the host half that is not done. -/
theorem witness_remote_elements_flush_sys : let s := (queued (fun t => { t with isn := 1 }) (.cpy y0 1 2 3 none) .cx).modCore 0 fun k =>
      { k with queue := k.queue.map fun q => { q with o0 := 0x1000, o1 := 0, o2 := 64 } }
    let B := (fx (.flush y0 .sys) noCaps).begun s 0 0 y0
    EngineReady s 0 0 y0 .fx ∧ B.hostWritten 0 ((fx (.flush y0 .sys) noCaps).started s 0 0 y0) = false := by unfold EngineReady; decide

theorem witness_privileged_fabric : let s := fxState fun t => (t.setS 6 0xFFF).setS 7 0xFF80FFFD00
    let w := { fxState (fun t => (t.setS 6 0xFFF).setS 7 0xFFF0FFFD00) with wints := [(0xFFF, { valid := true })] }
    EngineReady s 0 0 y0 .fx ∧ (s.task 0 0).priv = true ∧ ((ready id).task 0 0).priv = false ∧ 0 < ((s.task 0 0).sreg 6).toNat ∧
    ((s.task 0 0).sreg 6).toNat < 2 ^ 12 ∧ EngineReady w 0 0 y0 .fx ∧ grantBad w ((w.task 0 0).sreg 7) = false := by unfold EngineReady; decide
theorem witness_privileged_fabric_shupd : let s := fxState id
    ∃ x, x = fx (.shupd y0 4 2 9) (fun z => [0, capA z 2]) ∧
    let B := x.begun s 0 0 y0; let q := x.started s 0 0 y0
    sp.toNat % 64 = 0 ∧ spBad B (fxAcc B 0 q false) sp 64 = false ∧
    ∃ t l e, Reads B 0 q (fxAcc B 0 q false) sp 64 t l ∧ t.awaitsData 0 q l = false ∧ e = leBits 512 (t.readAll l) ∧ ShardEnt.bad e = false ∧
      t.carried 9 ((t.handle 9).gen + 1) = false :=
  ⟨_, rfl, by decide, by decide, _, [(.spm 0 0, 64)], _, ⟨⟨rfl, by decide⟩, by decide⟩, by decide, rfl, by decide, by decide⟩
/-! ## Further clauses of the statements about instructions -/

/-- A line of HBM that the unit holds, another, and a place that is not of HBM. -/
theorem witness_loads_cached : let x : DLine := { line := 1, key := none, bytes := List.replicate 64 7 }
    let s := (ready id).modCore 0 fun k => { k with dcache := [x] }
    (127 / 64 = (127 + 1 - 1) / 64 ∧ x ∈ (s.core 0).dcache ∧ x.line = 127 / 64) ∧ (∀ z ∈ (s.core 0).dcache, z.line ≠ 0 / 64 ∨ z.key ≠ none) ∧
    ∀ d key, Place.spm 0 0 ≠ .hbm d key := ⟨by decide, by decide, fun _ _ h => nomatch h⟩
/-- PREF of an address that is not of the device half, and of one whose line is not there. -/
theorem witness_loads_pref : let s := { ready (·.setA 2 (1 <<< 79)) with
      tlb := [{ cache := (scalarAcc 0 0 true false false).cache, asid := 0, vbase := 2 ^ 79, shift := 16, pbase := 0, r := true, w := true, x := true }] }
    Ready s 0 0 y0 ∧ vaRegion ((s.task 0 0).ea ⟨0, 0, 0, 0⟩) ≠ .device ∧ vaRegion ((s.task 0 0).ea ⟨2, 0, 0, 0⟩) = .device ∧
    ∃ s1 s2, xlate (s.waited 0 0 y0) (scalarAcc 0 (s.task 0 0).asid true false false) ((s.task 0 0).ea ⟨2, 0, 0, 0⟩) 1 false = (s1, .ok (.hbm 0 none)) ∧
      (∀ x ∈ (s1.core 0).dcache, x.line ≠ 0 / 64 ∨ x.key ≠ none) ∧ s1.firstPoison (.hbm (0 / 64 * 64) none) 64 = none ∧ s1.useRow 0 0 = some s2 :=
  ⟨by unfold Ready; decide, by decide, by decide, _, _, rfl, by decide, by decide, rfl⟩
/-- A line of memory that a read-modify-write reads, held by the unit. -/
theorem witness_atomics_refresh : let s := (ready id).modCore 0 fun k => { k with dcache := [{ line := 1, key := none, bytes := List.replicate 64 7 }] }
    (0 : Nat) < 8 ∧ 64 / 64 = (64 + 8 - 1) / 64 ∧ ∀ x ∈ (s.core 0).dcache, x.bytes.length = 64 :=
  ⟨by decide, by decide, fun x h => by rw [List.mem_singleton.mp h]; exact List.length_replicate⟩
/-- Targets outside the innermost body, in a branch and in a register; a PC and a register that are no multiple of 4; a task without loops. -/
theorem witness_control_transfers_traps : let k := fun (pc : Addr) (a : Addr) (d : Nat) => ready fun t =>
      { (t.setA 2 a).setP 2 true with pc := pc, depth := d, loops := t.loops.setIfInBounds 0 { cnt := 2, start := 0x100, len := 2 } }
    let b := fun (s : State) (x : BitVec 32) => BitVec.ofInt 80 ((s.task 0 0).pc.toNat + 12 * x.toInt)
    let s := k 0x100 0x118 1; let m := k 0x101 0x101 1
    Ready s 0 0 y0 ∧ (s.task 0 0).inBody (b s 2) = false ∧ (s.task 0 0).pred (.pos 2) = true ∧ (s.task 0 0).inBody ((s.task 0 0).areg 2) = false ∧
    Ready m 0 0 y0 ∧ (m.task 0 0).inBody (b m 0) = true ∧ (b m 0).toNat % 4 ≠ 0 ∧ (m.task 0 0).inBody ((m.task 0 0).areg 2) = true ∧
    ((m.task 0 0).areg 2).toNat % 4 ≠ 0 ∧ (s.task 0 0).inh = false ∧ (s.task 0 0).depth ≠ 0 ∧ ((k 0 0 0).task 0 0).depth = 0 := by unfold Ready; decide
/-- A semaphore with EXT whose count is not taken, and one that a signal from outside the unit has raised. -/
theorem witness_semaphores_ext : let s := (ready id).setSem 0 3 { count := 2, ext := true, ovf := false, dev := true }
    Ready s 0 0 y0 ∧ ((s.waited 0 0 y0).sem 0 3).ext = true ∧ ((s.waited 0 0 y0).sem 0 3).dev = true ∧
    (s.task 0 0).cnt (.imm 0) = 0 ∧ (s.task 0 0).cnt (.imm 2) ≤ ((s.waited 0 0 y0).sem 0 3).count.toNat ∧
    ((s.waited 0 0 y0).sem 0 3).count.toNat < (s.task 0 0).cnt (.imm 3) := by unfold Ready; decide
/-- A consumption inside the innermost of two regions, with an entry of it frozen, one in flight and one outside it; outside any; at a load, a
fetch and an engine. -/
theorem witness_containment_unwinds : let r : Region := { handler := 0x40, id := 7, mark := 0, inh := true, depth := 2 }
    let q := fun d st f => { entry (.nop y0) .vx with rdepth := d, started := st, frozen := f }
    let s := (ready fun t => { t with regions := [r, r] }).modCore 0 fun k =>
      { k with queue := [q 1 true false, q 2 true false, q 2 true true], resv := [(5, 0)] }
    (s.task 0 0).st ≠ .idle ∧ (s.task 0 0).regions.getLast? = some r ∧ (s.task 0 0).regions.length ≤ 2 ∧
    (∃ x ∈ (s.core 0).queue, x.slot = 0 ∧ (s.task 0 0).regions.length ≤ x.rdepth) ∧ (∃ x ∈ (s.core 0).queue, x.rdepth < (s.task 0 0).regions.length) ∧
    ((s.consume 0 0 2 cPOISON 0 9 0 1 2).task 0 0).pc = 0x40 ∧ ((s.consume 0 0 2 cPOISON 0 9 0 1 2).core 0).queue.length = 2 ∧
    1 < (s.task 0 0).regions.length ∧ ((ready id).task 0 0).regions = [] ∧ (ready id).faulted = false ∧ cMXCHECK = 0x0C ∧
    (PRes.mk s 0 0 (.poison cPOISON 9)).out = .poison cPOISON 9 := by decide
theorem witness_containment_unwinds_load : let s := (ready (·.setA 2 sp)).modCore 0 fun k => { k with spPoison := [0] }
    Ready s 0 0 y0 ∧ (s.task 0 0).ea ⟨2, 0, 0, 0⟩ = sp ∧
    resolve (s.waited 0 0 y0) (scalarAcc 0 (s.task 0 0).asid true false false) sp 16 = (s, .ok [(.spm 0 0, 16)]) ∧
    lockHit (s.core 0).queue 0 [(.spm 0 0, 16)] = none ∧ s.firstPoisonAll [(.spm 0 0, 16)] = some 0 :=
  ⟨by unfold Ready; decide, by decide, rfl, by decide, by decide⟩
theorem witness_containment_unwinds_fetch : let s := { ready (fun t => { t with pc := 1 <<< 79 }) with
      tlb := [{ cache := (scalarAcc 0 0 false false true).cache, asid := 0, vbase := 2 ^ 79, shift := 16, pbase := 0, r := true, w := true, x := true }]
      hbm := { (ready id).hbm with poison := [0] } }
    (∀ x ∈ (s.core 0).imem, x.1 ≠ (s.task 0 0).pc.toNat) ∧ vaRegion (s.task 0 0).pc ≠ .scratch ∧
    ∃ z l, resolve s (scalarAcc 0 0 false false true) (s.task 0 0).pc 12 = (z, .ok l) ∧ z.firstPoisonAll l = some 0 :=
  ⟨by decide, by decide, _, [(.hbm 0 none, 12)], rfl, by decide⟩
/-- A release whose task has had every acknowledgement, and one whose task lacks that of a put. -/
theorem witness_stores_release : let s := ready (·.setA 2 sp)
    let q := queued (·.setA 2 sp) (.put y0 .pk64 0 0 0 0 1) .fx
    let o : OrdScope := ⟨.rel, .sys⟩
    (o.ord = .rel ∧ o.scope = .sys ∧ s.acked 0 0 = true) ∧ (Ready q 0 0 y0 ∧ q.acked 0 0 = false ∧ (q.task 0 0).ea ⟨2, 0, 0, 0⟩ = sp ∧
      lockHit (q.core 0).queue 0 [(.spm 0 0, 16)] = none ∧
      resolve (q.waited 0 0 y0) (scalarAcc 0 (q.task 0 0).asid false true false) sp 16 = (q, .ok [(.spm 0 0, 16)])) :=
  ⟨by decide, by unfold Ready; decide, by decide, by decide, by decide, rfl⟩
/-- A body that ends past the level around it, and one that ends with it. -/
theorem witness_hardware_loops_nested : let k := ready fun t => { t with pc := 0x100, depth := 1, loops := t.loops.setIfInBounds 0 { cnt := 2, start := 0x100, len := 3 } }
    let o := (k.task 0 0).loops.toArray.getD ((k.task 0 0).depth - 1) {}
    Ready k 0 0 y0 ∧ (k.task 0 0).inh = false ∧ 0 < (k.task 0 0).depth ∧ (k.task 0 0).depth < 4 ∧
    o.start.toNat + 12 * o.len.toNat < (k.task 0 0).pc.toNat + 12 * ((3 : BitVec 12).toNat + 1) ∧
    (k.task 0 0).pc.toNat + 12 * ((2 : BitVec 12).toNat + 1) ≤ o.start.toNat + 12 * o.len.toNat ∧ ((ready fun t => { t with inh := true }).task 0 0).inh = true := by
  unfold Ready; decide
/-- A page of the host half that no cache holds, an ACHK that comes back to it with a page behind it, and a table of the device half whose
stack is in self-refresh. -/
theorem witness_access_probe_wait : let s := { ready (·.setS 3 1) with asids := [(0, { valid := true, hosten := true })] }
    let r := { ready (fun t => { t.setS 3 4097 with wait := .probe 4096 (.inr (0, 1)) }) with asids := [(0, { valid := true, hosten := true })] }
    let d := { (ready fun t => (t.setS 3 1).setA 2 (1 <<< 79)) with asids := [(0, { valid := true })], hbm := { (ready id).hbm with
      stackRegs := (List.range 12).map fun k => (k, { sref := true }) } }
    let X := scalarAcc 0 0 true false false
    Ready s 0 0 y0 ∧ 0 < ((s.task 0 0).sreg 3).toNat ∧ ((s.task 0 0).sreg 3).toNat ≤ 2 ^ 32 ∧
    (∃ s1 w, probe X (1 / 4096 + 2) (s.waited 0 0 y0) ((s.task 0 0).areg 2 + BitVec.ofNat 80 0) (1 - 0) 0 = (s1, .wait 0 w)) ∧
    (Ready r 0 0 y0 ∧ (r.task 0 0).wait = .probe 4096 (.inr (0, 1)) ∧ (r.task 0 0).probed = 4096 ∧
      ∃ s1 w, probe X (4097 / 4096 + 2) (r.waited 0 0 y0) ((r.task 0 0).areg 2 + BitVec.ofNat 80 4096) (4097 - 4096) 4096 = (s1, .wait 4096 w)) ∧
    (vaRegion sp ≠ .scratch ∨ X.x = false) ∧ (∃ v l, xlate (ready id) X sp (min 1 (4096 - sp.toNat % 4096)) false = (v, .ok l)) ∧
    (∃ v a b, xlate s X 0 (min 1 (4096 - (0 : Addr).toNat % 4096)) false = (v, .error (.xlt a b))) ∧
    (∃ v b, xlate d X (1 <<< 79) (min 1 (4096 - (1 <<< 79 : Addr).toNat % 4096)) false = (v, .error (.bank b))) ∧
    (∃ v c e, xlate (ready id) X 0 (min 1 (4096 - (0 : Addr).toNat % 4096)) false = (v, .error (.trap c e))) ∧
    vaRegion sp = .scratch ∧ (scalarAcc 0 0 false false true).x = true :=
  ⟨by unfold Ready; decide, by decide, by decide, ⟨_, _, rfl⟩, ⟨by unfold Ready; decide, by decide, by decide, _, _, rfl⟩, by decide, ⟨_, _, rfl⟩,
    ⟨_, _, _, rfl⟩, ⟨_, _, rfl⟩, ⟨_, _, _, rfl⟩, by decide, by decide⟩
/-- A stack in self-refresh. -/
theorem witness_joins_fences_and_mwait_refresh : let s := (ready id).setStack 11 { sref := true }
    Ready s 0 0 y0 ∧ (∃ e ∈ s.hbm.stackRegs, e.2.sref = true) ∧ (∀ e ∈ (ready id).hbm.stackRegs, e.2.sref = false) ∧ s.acked 0 0 = true := by
  unfold Ready; decide
/-- A handler whose command is frozen, to be resumed or discarded; a count that was taken. -/
theorem witness_trap_return_frozen : let s := fun n : Nat => (queued (fun t => { t with inh := true, esw := BitVec.ofNat 64 n, frozenEng := some .vx })
      (.vmov y0 ⟨.w32, false⟩ none 1 2) .vx).modCore 0 fun k => { k with queue := k.queue.map fun q => { q with frozen := true } }
    let r := s (3 <<< 38)
    let d := s (1 <<< 39)
    let q := { entry (.vmov y0 ⟨.w32, false⟩ none 1 2) .vx with frozen := true }
    (Ready r 0 0 y0 ∧ (r.task 0 0).esw.getLsbD 39 = true ∧ (r.task 0 0).esw.getLsbD 38 = true ∧ (r.task 0 0).frozenEng = some .vx ∧
      (r.waited 0 0 y0).frozenEntry 0 0 .vx = some q) ∧
    (Ready d 0 0 y0 ∧ (d.task 0 0).esw.getLsbD 39 = true ∧ (d.task 0 0).esw.getLsbD 38 = false ∧
      (d.waited 0 0 y0).frozenEntry 0 0 .vx = some q) := by unfold Ready; decide
theorem witness_trap_entry_taken : let s := ready fun t => { t with took := some (3, 2) }
    (s.task 0 0).pastSync = false ∧ (s.task 0 0).took = some (3, 2) ∧ ((ready id).task 0 0).took = none := by decide

/-! ## Events -/

/-- A device that has booted. -/
def up (f : Input → Input) : State := { State.reset with bootst := 2, inp := f {} }

/-- The first boot, a device that is up, a warm reset of one that has work, of one that has none and of one whose boot failed. -/
theorem witness_power_and_clock_events : State.reset.bootst = 0 ∧ (up fun i => { i with v := 1 }).powered = true ∧ (up fun i => { i with v := 1 }).inp.v.getLsbD 0 = true ∧
    (up id).bootst = 2 ∧ (up id).sweeps = [] ∧ ({ (up id) with sweeps := [sweep none] }.deviceFault fHOSTRESET).bootst ≠ 15 ∧
    { (up id) with bootst := 15 }.bootst = 15 ∧ (up id).devid.toNat / 32 ≤ 544 ∧ (17439 : BitVec 16).toNat % 2 ^ 15 / 32 ≤ 544 ∧
    544 < (17440 : BitVec 16).toNat % 2 ^ 15 / 32 := by decide
/-- Acceptance rests on the boot authority's opaque keys, so the image is one that passes: power-on then meets the clause. -/
theorem witness_power_and_clock_events_accepted (f : Firmware) (h : fwAccepted f State.reset.secVer = true) :
    let s := { State.reset with inp := { State.reset.inp with fw := f } }
    s.bootst = 0 ∧ fwAccepted s.inp.fw s.secVer = true := ⟨rfl, h⟩
/-- The operator's key is opaque too: a command that passes on the powered device, and one too short to pass. -/
theorem witness_power_and_clock_events_truncated (bs : List Byte) (h : (up id).truncateOk bs = true) :
    let s := { up id with inp := { (up id).inp with bytes := bs } }
    s.powered = true ∧ s.bootst ≠ 15 ∧ s.truncateOk s.inp.bytes = true ∧ (up id).truncateOk [] = false :=
  have hp : (up id).powered = true := by decide
  have hb : (up id).bootst ≠ 15 := by decide
  ⟨hp, hb, h, by decide⟩
/-- Cluster 0 of a running device, with an input that is a temperature or a SETSTEP. -/
def clocked (k : Cluster) (v : BitVec 128) : State := { (up fun i => { i with v := v, counts := List.replicate 8 0 }).setCluster 0 k with stopped := false }
theorem witness_power_and_clock_events_clocks : let a := clocked { maxStep := 0, refs := List.replicate 8 1 } 105
    a.inp.counts.length = 8 ∧ a.inp.cluster = 0 ∧ (a.cluster 0).maxStep = 0 ∧ ((clocked { maxStep := 1 } 0).cluster 0).maxStep ≠ 0 ∧ (a.cluster 0).retired = false ∧
    (a.cluster 0).retiring = false ∧ (a.cluster 0).relocking = false ∧ 105 ≤ a.inp.v.toNat ∧ driftPast [] [] = false ∧
    ((clocked { relocking := true } 0).cluster 0).relocking = true ∧
    (let r := clocked { retiring := true } 0
     (r.cluster 0).retiring = true ∧ (r.cluster 0).retired = false ∧ (r.cluster 0).relocking = false ∧ r.unitsOn 0 = []) ∧
    (let t := clocked { throt := true, limit := some 5 } 100; (t.cluster 0).throt = true ∧ (t.cluster 0).limit = some 5) := by decide
/-- A sample is past the limit when the limit is below a whole. -/
theorem witness_power_and_clock_events_drift (h : Config.driftLimit < 1000000) : driftPast [1] [0] = true := by
  show (decide (0 * 1000000 < 1 * (1000000 - Config.driftLimit)) || false) = true
  rw [decide_eq_true (by omega)]
  rfl
/-- The states of an array; a member of a gang whose leader is awake beside a gated one. -/
theorem witness_power_and_clock_events_gating : let a := State.reset.setGate 0 .awake
    let g := ({ a with inp := { a.inp with core := 1 } }.modCore 0 fun k => { k with mode := .gang2 }).modCore 1 fun k => { k with leader := some 0 }
    a.mayGate 0 = true ∧ (a.core 0).autoIdle ≠ 0 ∧ ((a.core 0).queue.all fun q => q.eng != .mx) = true ∧ State.reset.mayGate 0 = false ∧
    (State.reset.setGate 0 .gating).arrayGate 0 = .gating ∧ (State.reset.setGate 0 .waking).arrayGate 0 = .waking ∧
    (g.leaderOf g.inp.core = 0 ∧ g.mayGate 0 = true ∧ g.arrayGate 0 ≠ .awake) := by decide
/-- A warm reset before boot, one of a device whose DEVID was refused, and a device without power. -/
theorem witness_power_and_clock_events_refused : let w := { State.reset with inp := { State.reset.inp with v := 1 } }
    let r := { up (fun i => { i with v := 1 }) with idRefused := true }
    w.powered = true ∧ w.sweeps = [] ∧ w.bootst = 0 ∧ w.inp.v.getLsbD 0 = true ∧
    r.sweeps = [] ∧ r.bootst ≠ 15 ∧ r.bootst ≠ 0 ∧ r.idRefused = true ∧ { up id with powered := false }.powered = false := by decide

/-- A flit of 68 bytes with its CRC. -/
def flit (n : Nat) : Flit := crc32c (toBytes n 68) ++ BitVec.ofNat 544 n
/-- A port that is ACTIVE, with a row, a flit and a lane presented. -/
def linked (p : Port) (f : Flit) : State := (up fun i => { i with flit := f }).setPort 0 { p with st := .active }

/-- In-order, repeated and missing flits, a lane message, a bad flit, and an ACK that frees one flit, none and too many. -/
theorem witness_flit_events : let s := linked {} (flit (1 <<< 29 ||| 0xFFF <<< 2))
    s.inp.port = 0 ∧ (s.port 0).st = .active ∧ s.stopped = false ∧ openFlit (s.rxKey 0 s.inp.flit) s.inp.flit = some s.inp.flit ∧ (Flit.ftype s.inp.flit) = 1 ∧
    (Flit.seq s.inp.flit) = (s.port 0).rxExpect ∧
    (let q := linked {} (flit (4 <<< 29 ||| 0xE00 <<< 14)); (Flit.ftype q.inp.flit) = 4 ∧ (q.port 0).rxExpect - (Flit.seq q.inp.flit) = 512 ∧
      openFlit (q.rxKey 0 q.inp.flit) q.inp.flit = some q.inp.flit) ∧
    (let q := linked {} (flit (4 <<< 29 ||| 0xDFF <<< 14)); 512 < ((q.port 0).rxExpect - (Flit.seq q.inp.flit)).toNat) ∧
    (let q := linked {} (flit (6 <<< 29 ||| 4 <<< 32)); (Flit.ftype q.inp.flit) = 6 ∧ ((Flit.body q.inp.flit).extractLsb' 0 8).toNat = 4) ∧
    openFlit none (flit 0) = some (flit 0) ∧ (flit 0).ftype = 0 ∧ (flit (5 <<< 29)).ftype = 5 ∧ (flit (7 <<< 29)).ftype = 7 ∧
    openFlit none (7 <<< 29) = none ∧ openFlit none (1 <<< 29) = none ∧ Flit.ftype (1 <<< 29) = 1 := by decide
theorem witness_flit_events_acks : let p : Port := { retry := [(0, 0), (1, 0)] }
    (((1 : BitVec 12) - p.ackRecv).toNat = p.retry.length) ∧ (((0 : BitVec 12) - p.ackRecv).toNat = 1) ∧
    (((0xFFF : BitVec 12) - p.ackRecv).toNat = 0) ∧ p.retry.length < ((2 : BitVec 12) - p.ackRecv).toNat := by decide
theorem witness_flit_events_transmit : let p : Port := { pend := [(1, 0, 0)], cred := [(0, 1)] }
    let r : Port := { retry := [(0, 0)], awaiting := true, rxProp := some (0x7F, false), ctl := [(5, 0)] }
    p.ctl = [] ∧ p.retry.length < 512 ∧ p.pend.find? (fun e => p.credit e.2.1 != 0) = some (1, 0, 0) ∧
    r.retry = (0, 0) :: [] ∧ (if r.sameReplay ≠ 0 ∧ r.replayAt = 0 then r.sameReplay + 1 else 1) < 8 ∧
    8 ≤ (if { r with sameReplay := 7 }.sameReplay ≠ 0 ∧ r.replayAt = 0 then { r with sameReplay := 7 }.sameReplay + 1 else 1) ∧
    r.awaiting = true ∧ r.rxProp = some (0x7F, false) ∧ r.ctl = (5, 0) :: [] ∧ ({} : Port).retry = [] ∧
    ({} : Port).pend.find? (fun e => ({} : Port).credit e.2.1 != 0) = none := by decide
/-- A stream that does not fill a row of two lanes and one that does; a lane that carries it and one that trains. -/
theorem witness_flit_events_rows : let p : Port := { txmap := 3 }; let q : Port := { txmap := 3, txBytes := List.replicate 1208 0 }
    width p.txmap = 2 ∧ (p.txBytes ++ toBytes 0 72).length < 640 * 2 ∧ 640 * 2 ≤ (q.txBytes ++ toBytes 0 72).length ∧
      (q.txBytes ++ toBytes 0 72).length < 1280 * 2 ∧
    p.lanesTx.getLsbD 1 = true ∧ p.txmap.getLsbD 1 = true ∧ p.lanesTx.getLsbD 2 = true ∧ p.txmap.getLsbD 2 = false ∧
    (List.replicate 1280 (0 : Byte)).length = 640 * width p.txmap := by
  simp only [List.length_append, List.length_replicate]; decide
/-- Four codewords counted of lane 3, a lane presented, and thresholds written for the next window. -/
theorem witness_lane_events : let s := linked { rxmap := 0xFF, winCnt := [(3, 4)], lthrNext := some 0 } 0
    let p := s.port 0
    p.st = .active ∧ s.inp.lane < 8 ∧ p.failing = [3] ∧ ({} : Port).failing = [] ∧ p.lthrNext = some 0 ∧ s.powered = true ∧ s.bootst ≠ 15 ∧
    (0x01 : BitVec 8) ≠ p.rxmap ∧ width 0x01 < 2 ∧ 2 ≤ width 0x03 ∧ p.rxProp ≠ some (0x03, false) ∧ p.txNew = none ∧ (0x03 : BitVec 8) ≠ p.txmap ∧
    { p with txNew := some 1 }.txNew = some 1 ∧ p.txHeld = none ∧ p.rxProp = none ∧
    ({ p with rxProp := some (3, false) }.rxProp.map fun e : BitVec 8 × Bool => e.1) = some 3 := by decide
/-- A window that is not full; a full one in which lane 7 has been shed, for its second clean window and for its first. -/
theorem witness_lane_events_window : let p : Port := { rxmap := 0x7F, winexp := 10, winRows := 1024, winLive := 0x7F, clean := [(7, 1)] }
    ({} : Port).winRows < 2 ^ ({} : Port).winexp.toNat ∧ 2 ^ p.winexp.toNat ≤ p.winRows ∧
    (p.closeWindow.clean.filter fun e => decide (p.closeWindow.admwin.toNat ≤ e.2)) = [(7, 2)] ∧ p.closeWindow.rxProp = none ∧
    ({ p with clean := [] }.closeWindow.clean.filter fun e : Nat × Nat => decide (p.closeWindow.admwin.toNat ≤ e.2)) = [] := by decide
/-- A row of one lane; a whole flit that is not zero, zero fill, and part of a flit. -/
theorem witness_lane_events_rows : let w : LaneWord := { lane := 7, marker := 0, uncorrectable := false, lost := false, bytes := List.replicate 640 1 }
    let p : Port := { rxBytes := List.replicate 72 1 }
    let z : Port := { rxBytes := List.replicate 72 0 }
    [w].find? (fun w => w.lane == 7) = some w ∧ (0x80 : BitVec 8).getLsbD 7 = true ∧ 72 ≤ p.rxBytes.length ∧
    (∃ b ∈ p.rxBytes.take 72, b ≠ 0) ∧ (∀ b ∈ z.rxBytes.take 72, b = 0) ∧ ({} : Port).rxBytes.length < 72 := by decide

/-- A lane of the map that the row holds nothing of, one whose lock is lost, and one that is good; a port without a window's end. -/
theorem witness_lane_events_absent : let w : LaneWord := { lane := 7, marker := 0, uncorrectable := false, lost := false, bytes := [] }
    let p : Port := { lockLost := [6] }
    [w].find? (fun w => w.lane == 5) = none ∧ [w].find? (fun w => w.lane == 7) = some w ∧ p.lockLost.has 6 = true ∧ p.lockLost.has 7 = false ∧
    ¬(({} : Port).window ≤ ({} : Port).winRows) ∧ majority ([] : List Bool) = none := by decide

/-- A training word of a kind, with its CRC. -/
def training (n : Nat) : BitVec 128 := BitVec.ofNat 96 (n / 2 ^ 32) ++ crc32c (toBytes (n / 2 ^ 32) 12)
/-- A port in a phase with a word presented. -/
def trained (ph : TrainPhase) (n : Nat) : State :=
  (up fun i => { i with v := training n }).setPort 0 { phase := ph, peerRx := 0xFF, peerTx := 0xFF, lanesRx := 0xFF }
theorem witness_training_and_port_register_events : let s := trained; let a := s .speed (1 <<< 120)
    (a.port 0).st = .training ∧ a.canTrain = true ∧ a.inp.v.extractLsb' 32 40 = 0 ∧
    crc32c (toBytes (a.inp.v.extractLsb' 32 96).toNat 12) = a.inp.v.extractLsb' 0 32 ∧ a.inp.v.extractLsb' 124 4 = 0 ∧ a.inp.v.extractLsb' 120 4 = 1 ∧
    (s .speed (1 <<< 32)).inp.v.extractLsb' 32 40 ≠ 0 ∧
    crc32c (toBytes ((up fun i => { i with v := 1 }).inp.v.extractLsb' 32 96).toNat 12) ≠ (1 : BitVec 128).extractLsb' 0 32 ∧
    (a.inp.v.extractLsb' 81 15).toNat / 32 ≤ 544 ∧ ((s .speed (17439 <<< 81)).inp.v.extractLsb' 81 15).toNat / 32 ≤ 544 ∧
    544 < ((s .speed (17440 <<< 81)).inp.v.extractLsb' 81 15).toNat / 32 ∧
    (s .map (1 <<< 124)).inp.v.extractLsb' 124 4 = 1 ∧ (s .confirm (2 <<< 124)).inp.v.extractLsb' 124 4 = 2 ∧
    disagreement 1 8 8 0xFF 0xFF 0xFF 0xFF = 0 ∧ disagreement 1 8 8 0xFF 0xFF 0xFF 0x7F ≠ 0 ∧ (s .ready (3 <<< 124)).inp.v.extractLsb' 124 4 = 3 := by decide
/-- A port in training that loses a lane before and after it has confirmed its map. -/
theorem witness_training_and_port_register_events_lock : ((trained .speed 0).port 0).st = .training ∧ (trained .speed 0).inp.lane < 8 ∧
    ((trained .map 0).port 0).phase = .map ∧ ((trained .ready 0).port 0).phase = .ready := by decide
theorem witness_training_and_port_register_events_finish : let p : Port := { sentReady := true, gotReady := true, peerRx := 0x81, peerTx := 3, lanesRx := 0xFF }
    p.sentReady = true ∧ p.gotReady = true ∧ 2 ≤ width (p.lanesTx &&& p.peerRx) ∧ 2 ≤ width (p.peerTx &&& p.lanesRx) ∧ p.keepSeq = false ∧
    { p with keepSeq := true }.keepSeq = true ∧ width (p.lanesTx &&& (0x80 : BitVec 8)) < 2 ∧ ({} : Port).sentReady = false := by decide
theorem witness_training_and_port_register_events_registers : let v := fun (i : Nat) => (BitVec.ofNat 128 (2 ^ i)).setWidth 64
    (v 7).getLsbD 7 = true ∧ (v 6).getLsbD 6 = true ∧ (v 5).getLsbD 5 = true ∧ (v 4).getLsbD 4 ≠ ({} : Port).hold ∧
    (v 3).getLsbD 3 ≠ ({} : Port).perhop ∧ ((linked {} 0).port 47).hold = false ∧ (up id).powered = true ∧ (up id).bootst ≠ 15 ∧
    (let s := (up id).setPort 0 { st := .stranded, backoff := true }; (s.port 0).st = .stranded ∧ (s.port 0).backoff = true ∧ s.canTrain = true) ∧
    (let s := (up id).setPort 0 { st := .down }; (s.port 0).st = .down ∧ (s.port 0).hold = false ∧ (s.port 0).idBad = false) := by decide
/-- Nothing but CLRCNT; RETRAIN; HOLD set and released; CLRDOWN of a port that is MARKED DOWN. -/
theorem witness_training_and_port_register_events_lctl : let v : Nat → BitVec 64 := BitVec.ofNat 64; let a : Port := { st := .active }
    let h : Port := { st := .down, hold := true }; let m : Port := { st := .markedDown, strcnt := 3 }
    ((v 64).getLsbD 7 = false ∧ (v 64).getLsbD 5 = false ∧ (v 64).getLsbD 4 = a.hold) ∧
    ((v 32).getLsbD 7 = false ∧ (v 32).getLsbD 5 = true ∧ a.st ≠ .markedDown ∧ (v 32).getLsbD 4 = false ∧ a.hold = false) ∧
    ((v 16).getLsbD 7 = false ∧ (v 16).getLsbD 4 = true ∧ a.hold = false ∧ a.st ≠ .markedDown) ∧
    ((v 0).getLsbD 7 = false ∧ (v 0).getLsbD 5 = false ∧ (v 0).getLsbD 4 = false ∧ h.hold = true ∧ h.st ≠ .markedDown) ∧
    ((v 128).getLsbD 7 = true ∧ (v 128).getLsbD 4 = m.hold ∧ m.st = .markedDown) := by decide
/-- A router that holds one packet. -/
def routing (h : Held) (f : State → State) : State := f { up id with router := { (up id).router with held := [h] } }
def packet (vc : BitVec 3) (dst : BitVec 16) (a next : Option Nat) : Held := { pkt := { dst := dst }, vc := vc, arrived := a, inVc := vc, next := next }
/-- Port 4 is ACTIVE at full width to device 2, port 5 to device 3, port 31 to group 1; port 4 holds credits. -/
def ports (s : State) : State :=
  { (((s.setPort 4 { st := .active, peerId := 2, txmap := 0xFF, rxmap := 0xFF, cred := [(0, 1), (6, 1)] }).setPort 5
    { st := .active, peerId := 3, txmap := 0xFF, rxmap := 0xFF }).setPort 31
    { st := .active, peerId := 32, txmap := 3, rxmap := 3 }) with router := { s.router with gtab := [(1, 0x40000000000)], ebb := [(2, 0x84)] } }

theorem witness_packet_events :
    (let s := routing (packet 0 0 none none) id
     s.inp.index = 0 ∧ s.router.held[0]? = some (packet 0 0 none none) ∧ s.powered = true ∧ s.stopped = false ∧ (packet 0 0 none none).pkt.isLocal = false ∧
      (packet 0 0 none none).pkt.dst.toNat = s.devid.toNat) ∧
    (let s := routing (packet 0 2 (some 31) none) ports; let h := packet 0 2 (some 31) none
     s.router.held[0]? = some h ∧ s.decides h = true ∧ h.arrived.isSome = true ∧ s.localPort 2 = some 4 ∧ s.eligible 4 = true ∧ s.localPort 7 = none ∧
      s.devid.toNat / 32 = (2 : BitVec 16).toNat / 32 ∧ s.bestGateway 2 0 = none ∧ (s.bestGateway 1 0).isSome = true ∧
      s.devid.toNat / 32 ≠ (32 : BitVec 16).toNat / 32 ∧ (s.port 4).credit 0 ≠ 0 ∧ (s.port 31).credit 0 = 0 ∧ s.eligible 31 = true ∧
      s.eligible 6 = false ∧ (s.ebbEntry false 2).getLsbD 7 = true ∧ (s.ebbEntry false 2).toNat % 64 = 4 ∧
      (s.ebbEntry false 7).getLsbD 7 = false ∧ s.router.draining = false ∧ (62 : BitVec 6).toNat ≠ 61 ∧ h.pkt.hops ≠ 62) := by decide
/-- A port of the group that carries no traffic; a packet between decision points, in its group and beyond it. -/
theorem witness_packet_events_paths :
    (let s := routing (packet 0 2 (some 31) none) fun s => s.setPort 4 { st := .active, peerId := 2, txmap := 1 }
     s.localPort 2 = some 4 ∧ s.eligible 4 = false) ∧
    (let h := packet 0 2 (some 5) none; let s := routing h ports
     s.decides h = false ∧ s.localPort 2 = some 4 ∧ s.eligible 4 = true) ∧
    (let h := packet 0 32 (some 5) none; let s := routing h ports
     s.decides h = false ∧ s.cheapest 0 (s.ownGateways 1) = some (31, (s.portCost 31 0)) ∧ s.cheapest 0 (s.ownGateways 2) = none) := by decide
/-- At the source: a first draw whose position has a port of its own, beside the direct port. -/
theorem witness_packet_events_detour : let h := packet 0 2 none none; let s := routing h ports
    let pos := nthOther s.devid.toNat h.pkt.dst.toNat ((s.devid.toNat % 32) ^^^ (1 + s.drawRoute.2 % 30))
    let t := s.setPort 6 { st := .active, peerId := BitVec.ofNat 15 pos, txmap := 0xFF }
    h.arrived = none ∧ h.vc.toNat % 3 ≠ 1 ∧ t.drawRoute.2 = s.drawRoute.2 ∧ pos ≠ 2 ∧ (t.localPort pos).isSome = true ∧ t.localPort 2 = some 4 ∧
    (∀ k, t.localPort pos = some k → t.eligible k = true) ∧ t.eligible 4 = true := by
  refine ⟨by decide, by decide, by decide, by decide, by decide, by decide, ?_, by decide⟩
  intro k hk
  have : (((routing (packet 0 2 none none) ports).setPort 6 { st := .active, peerId := BitVec.ofNat 15 (nthOther 0 2 (0 ^^^
    (1 + (routing (packet 0 2 none none) ports).drawRoute.2 % 30))), txmap := 0xFF }).localPort (nthOther 0 2 (0 ^^^
    (1 + (routing (packet 0 2 none none) ports).drawRoute.2 % 30)))).all
      ((routing (packet 0 2 none none) ports).setPort 6 { st := .active, peerId := BitVec.ofNat 15 (nthOther 0 2 (0 ^^^
    (1 + (routing (packet 0 2 none none) ports).drawRoute.2 % 30))), txmap := 0xFF }).eligible = true := by decide
  exact (Option.all_eq_true _ _).mp this k hk
/-- Two draws that name no group of the table but those of the packet, and two of which one leads there. -/
theorem witness_packet_events_detour_groups : let h := packet 0 32 none none; let s := routing h ports; let u := s.drawRoute.1
    let ks := fun s : State => [s.drawRoute.2 % 545, u.drawRoute.2 % 545].filter (fun k => k != 0 && k != 1 && (Sparse.get s.router.gtab k).getLsbD 42)
    (s.bestGateway 1 0).isSome = true ∧ ks s = [] ∧
    ks { s with router := { s.router with gtab := Sparse.set s.router.gtab (s.drawRoute.2 % 545) 0x40000000001 } } = [s.drawRoute.2 % 545] := by decide
/-- A packet that is blocked at the head of its buffer, and ebb packets: one that may move on, one that waits for DRAIN, one without a port. -/
theorem witness_packet_events_ebb :
    (let h := packet 0 3 (some 0) (some 5); let s := routing h ports
     h.next = some 5 ∧ s.atHead 0 h = true ∧ (s.port 5).credit h.vc = 0 ∧ (∀ m ∈ s.candidates h, (s.port m).credit h.vc = 0) ∧ s.eligible 5 = true) ∧
    (let h := packet 0 2 (some 31) (some 5); let s := routing h ports; s.candidates h = [4] ∧ s.blocked h = false) ∧
    (let h := packet 6 2 none (some 4); let s := routing h fun s => ports { s with router := { s.router with draining := true } }
     6 ≤ h.vc.toNat ∧ s.router.draining = true ∧ h.pkt.egen = s.router.egen ∧ (s.port 4).drainSent = false ∧ s.eligible 4 = true ∧ (s.port 4).credit 6 ≠ 0) ∧
    (let h := { packet 6 2 none (some 4) with pkt := { dst := 2, flags := 1 } }; let s := routing h fun s => ports { s with router := { s.router with switchOpen := true } }
     s.router.draining = false ∧ s.router.switchOpen = true ∧ s.router.reported = false ∧ h.pkt.egen ≠ s.router.egen ∧ s.eligible 4 = true) ∧
    (let h := packet 6 2 (some 4) none; 6 ≤ h.vc.toNat ∧ h.next = none ∧ h.pkt.isLocal = false ∧ h.pkt.dst.toNat ≠ (up id).devid.toNat) ∧
    { (packet 6 0 (some 4) none) with pkt := { ptype := pDRAIN } }.pkt.isLocal = true := by decide

/-- A change of links, an open switch, and a drained one. -/
theorem witness_tree_switch_events : let o := fun f : Router → Router => { (up id) with router := f { (up id).router with switchOpen := true } }
    (up fun i => { i with links := [⟨0, 0, 1, 0⟩] }).canTrain = true ∧ sameLinks [] (up id).router.links = true ∧
    sameLinks [⟨0, 0, 1, 0⟩] (up id).router.links = false ∧ (up id).router.switchOpen = false ∧ Sparse.wf (up id).router.ebb = true ∧
    (∀ l ∈ [(⟨0, 0, 1, 0⟩ : LinkRec)], l.d1 < 32768 ∧ l.d2 < 32768) ∧
    (o id).router.switchOpen = true ∧ (o id).router.draining = false ∧ (o id).router.reported = false ∧
    treeRoot (up id).devid.toNat (up id).router.links = (up id).devid.toNat ∧
    treeRoot 1 [⟨0, 0, 1, 0⟩] ≠ 1 ∧
    (let s := (o fun r => { r with draining := true }).setPort 0 { st := .active }
     (s.port 0).st = .active ∧ (s.port 0).drainSent = false ∧ s.mayDrain 0 = true ∧ s.router.draining = true) ∧
    ((o fun r => { r with draining := true }).port 0).drainRecv = false ∧
    (o fun r => { r with reported := true, again := true }).router.again = true := by decide
/-- Every port ACTIVE, and every port drained both ways. -/
theorem witness_tree_switch_events_drained : let d := { (up id) with
      ports := (List.range 48).map fun p => (p, ({ st := .active, drainSent := true, drainRecv := true } : Port))
      router := { (up id).router with switchOpen := true, draining := true } }
    d.router.draining = true ∧ ∀ p, p < 48 → (d.port p).st = .active ∧ (d.port p).drainSent = true ∧ (d.port p).drainRecv = true := by
  refine ⟨by decide, fun p h => ?_⟩
  interval_cases p <;> decide
/-- A device that a request or a response has reached. -/
def arriving (p : Packet) (f : State → State) : State := f (up fun i => { i with pkt := p })

theorem witness_fabric_endpoint_events : let s := arriving { ptype := pPUTREQ } id
    s.powered = true ∧ s.bootst ≠ 15 ∧ s.stopped = false ∧ s.inp.pkt.dst = s.devid.setWidth 16 ∧ s.inp.pkt.ptype = pPUTREQ ∧
    s.inp.pkt.reservedBad = false ∧ s.inp.pkt.isReq = true ∧ s.faulted = false ∧ s.ingress = [] ∧ s.ords = [] ∧ s.tgtRecs = [] ∧ s.recsDue < 65536 ∧
    s.ingressCheck s.inp.pkt = nTOKMAC ∧ (s.window (s.inp.pkt.token.toNat / 2 ^ 28 % 2 ^ 12)).valid = false ∧ { s with faulted := true }.faulted = true := by decide
/-- A malformed request, one that waits, one that was performed before, and another device's. -/
theorem witness_fabric_endpoint_events_again : let p : Packet := { ptype := pGETREQ, src := 1 }
    let h : HeldReq := { pkt := p, port := none, passed := false, halted := false, redir := [] }
    (let b : Packet := { ptype := pGETREQ, src := 1, status := 1 }; b.reservedBad = true ∧ b.isReq = true ∧ b.src.getLsbD 15 = false) ∧
    (∃ x ∈ (arriving p fun s => { s with ingress := [h] }).ingress, x.pkt.src = p.src ∧ x.pkt.tag = p.tag) ∧
    (let r : TgtRec := { src := 1, tag := 0, resp := p }; (arriving p fun s => { s with tgtRecs := [r] }).tgtRecs.find? (fun r => r.src == p.src && r.tag == p.tag) = some r) ∧
    p.reservedBad = false ∧ p.src ≠ (arriving p id).devid.setWidth 16 := by decide
/-- Records that fill the target, with none of the packet's. -/
theorem witness_fabric_endpoint_events_full : let s := arriving { ptype := pGETREQ, src := 1 } fun s =>
      { s with tgtRecs := List.replicate 65536 ({ src := 2, tag := 0, resp := {} } : TgtRec) }
    65536 ≤ s.recsDue := by
  intro s
  have h : s.tgtRecs.length = 65536 := List.length_replicate
  have : s.recsDue = s.tgtRecs.length + 0 + 0 := rfl
  omega
/-- A put's ACK and its NACK, without and with the request. -/
theorem witness_fabric_endpoint_events_response : let a : Packet := { ptype := pACK, src := 0 }
    let o := { request .put with shard := none }
    let s := arriving a fun s => { s with outst := [o] }
    a.reservedBad = false ∧ a.isResp = true ∧ (arriving a id).requestOf a = none ∧ s.requestOf a = some o ∧ s.openPayload a = some [] ∧
    (∃ t, s.applyResp o a [] = some t) ∧
    (let n : Packet := { ptype := pNACK, status := 1 }; n.reservedBad = false ∧ n.isResp = true ∧ s.requestOf n = some o ∧ s.openPayload n ≠ none) ∧
    s.outstAt = some o ∧ o.deferred = false ∧ o.resends < 4 ∧ 4 ≤ { o with resends := 4 }.resends ∧ { o with deferred := true }.deferred = true ∧
    (let d : Packet := { ptype := pDATA, src := 0 }; d.ptype ≠ pNACK ∧ s.requestOf d = some o ∧ s.applyResp o d [] = none) :=
  ⟨by decide, by decide, by decide, by decide, by decide, ⟨_, rfl⟩, by decide, by decide, by decide, by decide, by decide, by decide, by decide⟩
/-- A token of window 0 that carries its MAC, of a distance of 4095 and of 0, 4096. -/
theorem witness_fabric_endpoint_events_tokens : let s := { (up id) with wints := [(0, { valid := true })] }
    let t := fun e : Nat => (s.tokenMac 0 (BitVec.ofNat 40 (e <<< 12))).toNat <<< 40 + e <<< 12
    let p := fun e : Nat => ({ ptype := pPUTREQ, token := BitVec.ofNat 64 (t e) } : Packet)
    (s.window 0).valid = true ∧ (p 4095).token.toNat / 2 ^ 28 % 2 ^ 12 = 0 ∧
    s.tokenMac 0 ((p 4095).token.extractLsb' 0 40) = (p 4095).token.extractLsb' 40 24 ∧
    ((p 4095).token.toNat / 2 ^ 12 % 2 ^ 13 + 8192 - s.ftime / 2 ^ 20 % 8192) % 8192 = 4095 ∧
    neededRights pPUTREQ &&& ~~~((p 4095).token.extractLsb' 25 3) ≠ 0 ∧
    ((p 4096).token.toNat / 2 ^ 12 % 2 ^ 13 + 8192 - s.ftime / 2 ^ 20 % 8192) % 8192 = 4096 := by decide
/-- A token of window 5 that grants every right. -/
theorem witness_fabric_endpoint_events_granted : let s := { (up id) with wints := [(5, { valid := true })] }
    let e : Nat := 5 <<< 28 ||| 7 <<< 25 ||| 1 <<< 12
    let p : Packet := { ptype := pPUTREQ, token := BitVec.ofNat 64 ((s.tokenMac 5 (BitVec.ofNat 40 e)).toNat <<< 40 + e) }
    p.token.toNat / 2 ^ 28 % 2 ^ 12 = 5 ∧ (s.window 5).valid = true ∧ s.tokenMac 5 (p.token.extractLsb' 0 40) = p.token.extractLsb' 40 24 ∧
    (p.token.toNat / 2 ^ 12 % 2 ^ 13 + 8192 - s.ftime / 2 ^ 20 % 8192) % 8192 = 1 ∧
    neededRights p.ptype &&& ~~~(p.token.extractLsb' 25 3) = 0 := by decide
/-- A sealed packet whose tag is not that of its bytes, a request and a response; a load whose page is confidential, sealed under no slot. -/
theorem witness_fabric_endpoint_events_seals : (∀ (s : State) (p : Packet), ∃ tag, s.openPayload { p with trailer := some (0, tag) } = none) ∧
    authOk { ptype := pLDREQ } [(.hbm 0 (some 3), 8)] = false := by
  refine ⟨fun s p => ?_, by decide⟩
  have h : ∀ x : BitVec 128, x ≠ x + 1 := fun x e => by bv_omega
  refine ⟨gcmTag (aesKeys (keyBytes (s.keyslot (p.keyslot.toNat % 4096)).fabKey)) (sealNonce p.src 0) (Packet.aad p) p.payload + 1, ?_⟩
  simp only [State.openPayload, gcmOpen]
  exact if_neg (h _)
/-- A load that lands in HBM, well formed and not; an atomic of one element; a window written VALID. -/
theorem witness_fabric_endpoint_events_performed : let p : Packet := { ptype := pLDREQ, addr := 1 <<< 79, opx := 0x830 }
    let s := { arriving p id with tlb := [{ cache := (ingressAcc 0 p).cache, asid := 0, vbase := 2 ^ 79, shift := 16, pbase := 0, r := true, w := true, x := true }] }
    malformedReq p = false ∧ malformedReq { p with opx := 0x801 } = true ∧ p.ptype ≠ pPUTREQ ∧ p.ptype ≠ pMGMT ∧ s.openPayload p = some [] ∧
    (∃ t l, resolve s (ingressAcc (s.window (tokenWin p.token)).asid p) p.addr (accessLen p) = (t, .ok l) ∧ authOk p l = true ∧ t.canAnswer p l = true ∧
      t.firstPoisonAll l = none) ∧
    (let a : Packet := { ptype := pATOMREQ, opx := 0x830, len := 8 }; accessLen a / opxWidth a = 1) ∧
    (up id).inp.index < 4096 ∧ ((up id).window 0).valid = false ∧ (up fun i => { i with v := 1 <<< 63 }).inp.v.getLsbD 63 = true ∧
    (let r : OrdRound := { line := .spm 0 0, ccnt := 2, next := 0, held := [] }; { (up id) with ords := [r] }.ords[0]? = some r) :=
  ⟨by decide, by decide, by decide, by decide, by decide, ⟨_, [(.hbm 0 none, 8)], rfl, by decide, by decide, by decide⟩, by decide, by decide, by decide,
    by decide, by decide⟩

/-- A launch record that a page takes, and one past the ring's capacity. -/
theorem witness_host_events : let s := fun p i => { (up i).setLpage 1023 p with xlts := [⟨7, 3, [0]⟩] }
    let r := s { en := true } fun i => { i with index := 1023, off := 4095, bytes := List.replicate 128 0, pasid := 7, va := 0x3000, port := 1 }
    let q := s { en := true, openCnt := 64 } fun i => { i with index := 1023, off := 0, bytes := List.replicate 128 0 }
    r.powered = true ∧ r.bootst ≠ 15 ∧ r.inp.index < 1024 ∧ r.inp.off < 4096 ∧ r.inp.off % 128 ≠ 0 ∧
    r.xlts.find? (fun q => q.pasid == r.inp.pasid && q.vpage == r.inp.va.toNat / 4096) = some ⟨7, 3, [0]⟩ ∧
    (up id).xlts.find? (fun q => q.pasid == (up id).inp.pasid && q.vpage == (up id).inp.va.toNat / 4096) = none ∧
    r.inp.port = 1 ∧ (up id).inp.port = 0 ∧
    (q.lpage 1023).en = true ∧ q.inp.bytes.length = 128 ∧ q.inp.off % 128 = 0 ∧ ((q.lpage 1023).tail - (q.lpage 1023).head).toNat ≠ (q.lpage 1023).capacity ∧
    (q.lpage 1023).held = [] ∧ q.faulted = false ∧ 64 ≤ (q.lpage 1023).openCnt ∧ (r.lpage 1023).openCnt < 64 ∧ ((up id).lpage 0).en = false ∧
    (let f : LPage := { tail := 64 }; (f.tail - f.head).toNat = f.capacity) := by decide
theorem witness_host_events_ports : let d := { (up id) with zcl0 := false, zcl1 := false, zclWait := true }
    d.zclWait = true ∧ d.zcl0 = false ∧ d.zcl1 = false ∧ (up id).zcl0 = true ∧ (up id).queueHead = none ∧
    ({ (up id) with sweeps := [sweep none] }).queueHead = some (sweep none, 0) ∧
    ({ (up id) with invs := [⟨0, 0, 0, []⟩] }).invs[0]? = some ⟨0, 0, 0, []⟩ ∧ (up id).performedAll [] = true ∧ (up id).inp.core < 288 ∧
    288 ≤ (up fun i => { i with core := 288 }).inp.core ∧
    (let w := { (up id) with outst := [{ request .get with dst := [(.host 0, 1)] }] }; w.performedAll [⟨true, 0, 1, false⟩] = false) := by decide
/-- A record that is well formed, and one whose Ceiling is empty. -/
theorem witness_host_events_records : let w : List Byte := (List.range 128).map fun i => if i = 0 ∨ i = 5 ∨ i = 8 ∨ i = 12 ∨ i = 16 ∨ i = 20 ∨ i = 66 then 1 else 0
    let s := up id
    checkRec s (SweepRec.parse (List.replicate 128 0)) false 3 false ≠ none ∧ checkRec s (SweepRec.parse w) false 0 false = none ∧ s.poolFull false = false := by
  decide
/-- A free latch with an opener, a lease that ends, a bank at its limits, a stack at and below its thresholds. -/
theorem witness_memory_events : let s := fun v f => (f (up fun i => { i with v := v, stack := 11 }) : State)
    let w := s 0 fun s => { (s.setRow 0 0 0 { st := .held }) with hbm := { s.hbm with waiters := [(0, 0, 0, 0)] } }
    w.powered = true ∧ w.stopped = false ∧ w.bootst ≠ 15 ∧ w.inp.bank = 0 ∧ w.inp.group.val = 0 ∧ w.latchAt 0 = none ∧
    w.hbm.waiters.find? (fun w => w.1 == 0) = some (0, 0, 0, 0) ∧ w.canAct 0 = true ∧ (w.enterBank 0 0).isSome = true ∧ (w.row 0 0 0).st = .held ∧
    ((s 0 id).stack 0).raalevel.toNat ≤ ((s 0 (·.setBank 0 { raa := 64 })).bank 0).raa ∧
    ((s 0 (·.setBank 0 { raa := 63 })).bank 0).raa < ((s 0 id).stack 0).raalevel.toNat ∧ ((s 0 id).bank 0).rfm = false ∧
    (let r := s 0 (·.setBank 0 { rfm := true }); (r.bank 0).rfm = true ∧ (r.stack 0).sref = false ∧ r.hbm.latches = []) ∧
    ((s 0 (·.setBank 0 { refreshing := true })).bank 0).refreshing = true ∧
    ((s 100 id).stack 11).tcrit.toNat ≤ (s 100 id).inp.v.toNat % 256 ∧ (s 99 id).inp.v.toNat % 256 < ((s 99 id).stack 11).tcrit.toNat ∧
    (let r := s 0 (·.setStack 11 { sref := true, temp := 89 }); (r.stack 11).sref = true ∧ (r.stack 11).temp.toNat < (r.stack 11).texit.toNat) ∧
    (let r := s 0 (·.setStack 11 { sref := true, temp := 90 }); (r.stack 11).texit.toNat ≤ (r.stack 11).temp.toNat) := by decide
/-- A register of a stack at the bounds of what it takes, and one with TCRIT no higher than TEXIT; the scrubber at a sector that is free, latched,
reserved, and behind it one that it skipped. -/
theorem witness_memory_events_scrub : let s := fun v f => (f (up fun i => { i with v := v, stack := 11 }) : State)
    (let v := (s (0x10C04040645A) id).inp.v.setWidth 64
     v.extractLsb' 24 8 ≠ 0 ∧ (v.extractLsb' 16 8).toNat ≤ (v.extractLsb' 24 8).toNat ∧ (v.extractLsb' 24 8).toNat ≤ (v.extractLsb' 32 8).toNat ∧
      (v.extractLsb' 0 8).toNat < (v.extractLsb' 8 8).toNat) ∧
    (let v := (s (0x10C040406464) id).inp.v.setWidth 64; (v.extractLsb' 8 8).toNat ≤ (v.extractLsb' 0 8).toNat) ∧
    ((s 0 (·.setStack 11 { period := 0 })).stack 11).period = 0 ∧ ((s 0 id).stack 11).period ≠ 0 ∧ ((s 0 id).stack 11).scrubSkip = [] ∧
    ((s 0 id).stack 11).scrubPos < 2 ^ 31 ∧
    (s 0 id).isReserved (bankOf (scrubDpa 11 0)) = false ∧ (s 0 id).hbm.latched (scrubDpa 11 0) = false ∧
    (s 0 id).hbm.latent.find? (fun e => e.1 == 0) = none ∧ (s 0 id).images = [] ∧
    (let r := s 0 (·.modCore 0 fun k => { k with resv := [(bankOf (scrubDpa 11 0), 0)] }); r.isReserved (bankOf (scrubDpa 11 0)) = true) ∧
    (let l := s 0 (·.setLatch (latchIdx (scrubDpa 11 0)) ⟨true, rowOf (scrubDpa 11 0), 0, 0, 0⟩); l.hbm.latched (scrubDpa 11 0) = true) ∧
    (let k := s 0 (·.setStack 11 { scrubSkip := [0], scrubPos := 1 })
     (k.stack 11).scrubSkip.find? (fun p => !(k.isReserved (bankOf (scrubDpa 11 p)))) = some 0) := by decide
theorem witness_memory_events_burst : let s := { (up fun i => { i with stack := 0 }).setThread 5
      { st := .running, units := burstUnits 1 none 0 2 (1 <<< 79) 0 64 } with
      tlb := [{ cache := .sequencer, asid := 0, vbase := 2 ^ 79, shift := 16, pbase := 0, r := true, w := true, x := true }] }
    s.faulted = false ∧ (s.stack 0).sref = false ∧ grantUnit s 0 = some (5, 0) ∧ grantUnit (up id) 0 = none := by decide
/-- Rows of bank 0 that are latched, open, closed, and closed with the count at RAAMAX; a stack in which others wait, and whose they are. -/
theorem witness_memory_events_activates : let s := fun b f => ((f (up id) : State)).setBank 0 b
    let l := s {} (·.setLatch 0 ⟨true, 0, 0, 0, 0⟩)
    let a := fun w => (up id).setStack 0 { arrived := [w], temp := 0 }
    bankOf 0 = 0 ∧ l.hbm.latched 0 = true ∧ (l.enterBank 3 0).isSome = true ∧ (s { openRow := some 0 } id).bank 0 = { openRow := some 0 } ∧ rowOf 0 = 0 ∧
    (s {} id).hbm.latched 0 = false ∧ ((s {} id).bank 0).openRow ≠ some (rowOf 0) ∧ (s {} id).canAct 0 = true ∧ (s { raa := 192 } id).canAct 0 = false ∧
    ((s { raa := 192 } id).enterBank 3 0).isSome = true ∧ ((a (.unit 2 false)).enterBank 3 0).isSome = false ∧
    ((a (.unit 2 false)).stack 0).sref = false ∧ ((a (.unit 2 false)).modCore 2 fun k => { k with tenant := some 0 }).unitRuns 2 = true ∧ ((a .mgmt).stack 0).arrived = .mgmt :: [] ∧
    (a (.unit 2 false)).unitRuns 2 = false ∧ ((up id).stack 0).arrived = [] ∧
    (((up id).setStack 0 { sref := true }).stack 0).sref = true := by decide
/-- The scrubber at a sector whose bank takes no activate, and at one whose bank does. -/
theorem witness_memory_events_scrub_waits : let s := fun b : Bank => (up fun i => { i with stack := 11 }).setBank (bankOf (scrubDpa 11 0)) b
    let t := fun b : Bank => (s b).setStack 11 { (s b).stack 11 with scrubPos := 1 }
    (t { raa := 192 }).useRow Config.cores (scrubDpa 11 0) = none ∧ ((t {}).useRow Config.cores (scrubDpa 11 0)).isSome = true ∧
    ((s {}).stack 11).scrubPos = 0 ∧ (s {}).hbm.latched (scrubDpa 11 0) = false := by decide
/-- A latched row that is held, and one that has yielded, its bank free or at RAAMAX. -/
theorem witness_memory_events_rows : let s := fun st b => (((up id).setRow 0 0 0 { st := st }).setLatch 0 ⟨true, 0, 0, 0, 0⟩).setBank 0 b
    (s .held {}).latchAt 0 = some ⟨true, 0, 0, 0, 0⟩ ∧ ((s .held {}).row 0 0 0).st = .held ∧ ((s .yieldedRfm {}).row 0 0 0).st = .yieldedRfm ∧
    (s .yieldedRfm {}).canAct 0 = true ∧ (s .yieldedRfm { raa := 192 }).canAct 0 = false := by decide

/-- A page of 64 KiB in frame 0, readable and writable, in the lowest device addresses of ASID 0, with its head and command words. -/
def page : IptEntry := 1 <<< 63 ||| 1 <<< 109 ||| 1 <<< 108
def mapping (op : Nat) (w1 : Nat) (f : State → State) : State :=
  let s := f { (up fun i => { i with va := 1 <<< 79 }) with asids := [(0, { valid := true })] }
  { s with mapcmd := { s.mapcmd with cmd0 := 1 <<< 63, cmd1 := BitVec.ofNat 64 w1, cmd4 := BitVec.ofNat 64 (op <<< 60) } }
theorem witness_translation_events_map : let s := mapping 1 (3 <<< 44) id
    let e : IptEntry := s.mapcmd.cmd3 ++ s.mapcmd.cmd2 ++ s.mapcmd.cmd1 ++ s.mapcmd.cmd0
    s.powered = true ∧ s.stopped = false ∧ s.bootst ≠ 15 ∧ s.mapcmd.busy = false ∧ s.mapcmd.cmd4.toNat / 2 ^ 60 = 1 ∧ mapMalformed e 0 = false ∧
    (∃ t w, mapFinds s e = (t, .ok false) ∧ (∀ i, i < e.frames → (t.ipt (0 + i)).v = false ∧ (t.ipt (0 + i)).cont = false) ∧
      alsoRows s (e.tableRows 0 ++ rowsOf e.anchor 8) t = .ok w) ∧
    0 + e.frames ≤ Config.reservedGfn ∧
    (∃ t, walk s true 0 (1 <<< 79) = (t, .error (.reason xNOTMAPPED))) ∧ mapMalformed (e ||| 1 <<< 91) 0 = true ∧
    Config.reservedGfn < Config.reservedGfn + e.frames :=
  ⟨by decide, by decide, by decide, by decide, by decide, by decide, ⟨_, _, rfl, by decide, rfl⟩, by decide, ⟨_, rfl⟩, by decide, by decide⟩
theorem witness_translation_events_mapped : let s := fun op w1 => mapping op w1 (·.installPage page 0)
    (∃ t w z, (s 2 0).headRead (s 2 0) 0 = (t, none) ∧ t.heads 0 = true ∧ pageBefore t (s 2 0) 0 (t.ipt 0) = (w, .ok none) ∧
      alsoRows (s 2 0) ((w.ipt 0).unmapRows 0 none) w = .ok z) ∧ (s 2 0).heads 1 = false ∧
    (∃ t f, walk (s 2 0) true 0 (1 <<< 79) = (t, .ok f)) ∧ vaRegion (s 2 0).inp.va = .device ∧ ((s 2 0).asidEnt 0).valid = true ∧
    (let m := (s 3 0).mapcmd; let e : IptEntry := m.cmd3 ++ m.cmd2 ++ m.cmd1 ++ m.cmd0; let h := (s 3 0).ipt 0
     (h ^^^ e) &&& ~~~modifyFree = 0 ∧ e.ppol.toNat ≤ 1 ∧ h.r = true ∧ e.r = false) ∧
    (let m := (s 3 (3 <<< 44)).mapcmd; let e : IptEntry := m.cmd3 ++ m.cmd2 ++ m.cmd1 ++ m.cmd0; let h := (s 3 0).ipt 0
     (h ^^^ e) &&& ~~~modifyFree = 0 ∧ h.r = e.r ∧ h.w = e.w ∧ h.x = e.x) ∧
    (let m := (s 3 (1 <<< 48)).mapcmd; let e : IptEntry := m.cmd3 ++ m.cmd2 ++ m.cmd1 ++ m.cmd0; ((s 3 0).ipt 0 ^^^ e) &&& ~~~modifyFree ≠ 0) ∧
    (∃ t, alsoRows (s 3 0) (rowsOf (iptDpa 0) 32) (s 3 0) = .ok t) ∧
    (∃ t, mapFinds (s 1 0) page = (t, .ok true)) ∧ (s 7 0).mapcmd.cmd4.toNat / 2 ^ 60 = 7 ∧
    (∃ s t, s = mapping 2 0 (fun s => { s with hbm := { s.hbm with poison := s.hbm.poison.add (iptDpa 0 / 32) } }) ∧
      s.headRead s 0 = (t, some .poison)) :=
  ⟨⟨_, _, _, rfl, by decide, rfl, rfl⟩, by decide, ⟨_, _, rfl⟩, by decide, by decide, by decide, by decide, by decide, ⟨_, rfl⟩, ⟨_, rfl⟩, by decide,
    ⟨_, _, rfl, rfl⟩⟩
/-- Commands whose bank takes no request: of the chain, of the page's own entry and of the frame behind it. -/
theorem witness_translation_events_banks : let s := fun op (p : IptEntry) b => mapping op (3 <<< 44) fun s => (s.installPage p 0).setBank b { rfm := true }
    let big : IptEntry := page ||| 1 <<< 110
    (∃ t b, mapFinds (s 1 page (bankOf page.anchor)) page = (t, .error (.bank b))) ∧
    (∃ s t b, s = mapping 1 (3 <<< 44) (fun s => s.setBank (bankOf (iptDpa 0)) { rfm := true }) ∧ mapFinds s page = (t, .ok false) ∧
      alsoRows s (page.tableRows 0 ++ rowsOf page.anchor 8) t = .error b) ∧
    (∃ t b, (s 2 page (bankOf (iptDpa 0))).headRead (s 2 page (bankOf (iptDpa 0))) 0 = (t, some (.bank b))) ∧
    (∃ s' t w b, s' = s 2 page (bankOf page.anchor) ∧ s'.headRead s' 0 = (t, none) ∧ t.heads 0 = true ∧
      pageBefore t s' 0 (t.ipt 0) = (w, .error (.bank b))) ∧
    (∃ s' t w b, s' = s 2 big (bankOf (iptDpa 1)) ∧ s'.headRead s' 0 = (t, none) ∧ t.heads 0 = true ∧ pageBefore t s' 0 (t.ipt 0) = (w, .ok none) ∧
      alsoRows s' ((w.ipt 0).unmapRows 0 none) w = .error b) ∧
    (∃ s' b, s' = s 3 page (bankOf (iptDpa 0)) ∧ alsoRows s' (rowsOf (iptDpa 0) 32) s' = .error b) ∧
    (∃ x c, walk (s 2 page (bankOf page.anchor)) true 0 (1 <<< 79) = (x, .error c)) :=
  ⟨⟨_, _, rfl⟩, ⟨_, _, _, rfl, rfl, rfl⟩, ⟨_, _, rfl⟩, ⟨_, _, _, _, rfl, rfl, by decide, rfl⟩, ⟨_, _, _, _, rfl, rfl, by decide, rfl, rfl⟩, ⟨_, _, rfl, rfl⟩,
    ⟨_, _, rfl⟩⟩
/-- A copy under way whose source goes on into a page that its stream has not cached. -/
theorem witness_translation_events_ahead : let q := { entry (.cpy y0 3 2 5 none) .cx with
      o0 := (sp.setWidth 128), o1 := 1 <<< 79, o2 := 0x20000, started := true }
    let s := (up fun i => { i with eng := .cx }).modCore 0 fun k => { k with queue := [q], slots := [(0, Task.idle)] }
    (s.core 0).queue.find? (fun q => q.slot == s.inp.slot && q.eng == s.inp.eng && q.started && !q.done) = some q ∧
    (∃ x, (q.streams (s.task 0 0))[0]? = some x ∧ x.beyond q.comm 16 = some ((1 <<< 79 : Addr) + 0x10000)) ∧ s.haltedUnit 0 = false ∧
    (s.cached (.stream 0 .cx) 0 (1 <<< 79)).isNone = true ∧ s.cached (.stream 0 .cx) 0 ((1 <<< 79) + 0x10000) = none :=
  ⟨by decide, ⟨_, rfl, by decide⟩, by decide, by decide, by decide⟩
/-- A record of a page that waits, queued and not, and a task parked on it. -/
theorem witness_translation_events_faults : let f : PageFault := { asid := 0, vpage := 0, va := 0, core := 0, slot := 0, agent := 0, access := 1, queued := none, who := [] }
    let s := mapping 5 0 fun s => { s with faults := [f] }
    let q := mapping 5 0 fun s => { s with faults := [{ f with queued := some 0 }] }
    s.faults.find? (fun f => f.queued.isNone) = some f ∧ s.faults.length = 1 ∧ s.faults.find? (fun f => f.asid == 0 && f.vpage == 0) = some f ∧
    (s.pftail - s.inp.v.setWidth 16).toNat < 256 ∧ 256 ≤ ({ s with pftail := 256 }.pftail - s.inp.v.setWidth 16).toNat ∧ s.xlctl.pfen = false ∧
    (∀ f ∈ q.faults, f.queued.isSome = true) ∧ (∀ f ∈ (mapping 5 0 id).faults, f.asid ≠ 0 ∨ f.vpage ≠ 0) ∧
    (let b := mapping 2 0 fun s => { s with mapcmd := { busy := true } }; b.mapcmd.busy = true ∧ b.performedAll b.mapcmd.waits = true ∧
      ∀ o ∈ b.mapcmd.waits, b.rowsIn o = false) ∧
    ({ (up id) with mapcmd := { busy := true, again := true } }).mapcmd.again = true ∧
    (let t := ready fun t => { t with st := .parked, wait := .page 0 0 false }; (t.task 0 0).st = .parked ∧ (t.task 0 0).wait = .page 0 0 false) := by decide
/-- A sweep of one core and `n` iterations. -/
def running (cls : BitVec 2) (n : Nat) : Sweep :=
  { sweep (some 0) with rec' := { SweepRec.parse [] with cls := cls, tpc := 1, e0 := n, e1 := 1, e2 := 1, e3 := 1, ccount := 1 } }
theorem witness_scheduling_events : let s := { up id with sweeps := [running 3 2] }
    let w := running 3 2
    s.powered = true ∧ s.stopped = false ∧ s.bootst ≠ 15 ∧ s.faulted = false ∧ s.inp.core = 0 ∧
    s.winnerAt 0 = some w ∧ (searchFrom w.prevUnit (s.wonUnits w)).head? = some 0 ∧ w.rec'.coresident = false ∧ s.waitingImages w.id = [] ∧
    (List.range 8).find? (fun n => !((s.beginTenancy w 0).occupied 0 n)) = some 0 ∧ w.placed + 1 ≠ w.rec'.iterations ∧ (up id).winnerAt 0 = none ∧
    (let c := (up id).modCore 0 fun k => { k with clearing := true }
     (c.core 0).clearing = true ∧ (c.core 0).queue = [] ∧ (c.core 0).busy = false ∧ (c.core 0).mode = .single) := by decide
/-- A CORESIDENT sweep of two units that has claimed none before, and the other one. -/
theorem witness_scheduling_events_coresident : let w := { running 3 2 with rec' := { (running 3 2).rec' with coresident := true, ccount := 2 } }
    let s := fun claim => { (up id).modCore 1 fun k => { k with claim := claim } with sweeps := [w] }
    let t := fun claim : Option (BitVec 32) => (s claim).modCore 0 fun k => { k with claim := some w.id }
    w.rec'.coresident = true ∧ (s none).winnerAt 0 = some w ∧ (searchFrom w.prevUnit ((s none).wonUnits w)).head? = some 0 ∧
    ((t none).claimed w).length < (t none).unitsNeeded w ∧ (t (some 0)).unitsNeeded w ≤ ((t (some 0)).claimed w).length ∧ (t (some 0)).leaving w.id = false ∧
    (t (some 0)).waitingImages w.id = [] := by decide
theorem witness_scheduling_events_prewait : let hi := { running 0 2 with id := 1 }
    let s := { (up fun i => { i with sweep := 1 }).modCore 0 fun k =>
        { k with tenant := some 0, slots := [(0, { Task.idle with st := .ready })] } with sweeps := [{ running 3 1 with placed := 1 }, hi] }
    s.faulted = false ∧ s.prewait ≠ 0 ∧ s.sweep s.inp.sweep = some hi ∧ s.hasWork hi = true ∧ s.contested hi = [] ∧ s.unitToFree hi = some 0 ∧
    (preemptUnits 0 none (((s.victims 0 hi.rec'.gang).flatMap fun x => s.wholeSweep x.1).eraseDups) s).isSome = true := by decide
/-- A sweep that has ended, of a launch and of a task, and one that is complete. -/
theorem witness_scheduling_events_sweep_end : let w := { running 3 1 with ended := some (0, 0), src := .launch 0 0 }
    let s := { up id with sweeps := [w] }
    s.sweep s.inp.sweep = some w ∧ w.reported = false ∧ s.entriesOf w.id = false ∧ (∀ o ∈ s.outst, o.sweep ≠ w.id) ∧
    { w with src := .child 0 }.src = .child 0 ∧ ({ w with reported := true }).reported = true := by decide

/-- An image of sweep 0 for core 0. -/
def image : Image :=
  { sweep := 0, key := 0, mode := .single, asid := 0, unit := 0, origin := 0, target := some 0, ftime := 0, dpa := 0, size := 0, drop := false, live := 0,
    tasks := [], queue := [], sems := [], latch := [], latchFmt := 0, latchFill := 0, acc := [], ags := [], mxmode := 0, isat := false, spm := [],
    tags := [], spPoison := [], poisoned := false }
theorem witness_scheduling_events_images : let s := { (up id).modCore 0 fun k => { k with freeze := some 0, tenant := some 0, imgAt := some (0, 0) } with
      sweeps := [running 3 2], images := [{ image with target := none }] }
    (s.core 0).freeze = some 0 ∧ (s.core 0).tenant = some 0 ∧ (s.core 0).imgAt = some (0, 0) ∧ s.sweep 0 = some (running 3 2) ∧ s.ingress = [] ∧
    (∀ q ∈ ((s.advance 0).core 0).queue, (s.advance 0).unfinished 0 q = false) ∧
    ({ up id with images := [image] }).images.find? (fun i => i.target == some 0) = some image ∧ ((up id).core 0).freeze = none ∧
    (∀ i ∈ (up id).images, i.target ≠ some 0) ∧ { image with poisoned := true }.poisoned = true ∧
    (let r := { up id with sweeps := [running 3 2], images := [{ image with target := none }] }
     r.winnerAt 0 = some (running 3 2) ∧ r.waitingImages 0 = [{ image with target := none }] ∧
      (searchFrom (running 3 2).prevUnit (r.wonUnits (running 3 2))).head? = some 0) := by decide

/-- Rows of different banks, none of them reserved, in an RFM, a refresh or self-refresh, or at RAAMAX, all take their access. -/
theorem rows_calm (l : List Nat) : ∀ s : State, (l.map bankOf).Nodup → s.hbm.stackRegs = [] → (∀ b, s.reservedByOther Config.cores b = false) →
    (∀ b, (s.bank b).rfm = false ∧ (s.bank b).refreshing = false) → (∀ d ∈ l, (s.bank (bankOf d)).raa < 192) → ∃ z, useRows Config.cores l s = .ok z := by
  induction l with
  | nil => exact fun s _ _ _ _ _ => ⟨s, rfl⟩
  | cons d l ih =>
    intro s hn hs hr hb ha
    have hk : ∀ b, s.stack b = {} := fun b => by simp [State.stack, hs, Tab.get]
    have he : s.enterBank Config.cores (bankOf d) = some s := by
      simp [State.enterBank, State.bankTakes, State.usePass, Stack.lets, hr, hb, hk]
    rw [List.map_cons, List.nodup_cons] at hn
    have hd : ∃ t, s.findRow d = some t ∧ t.hbm.stackRegs = [] ∧ t.cores = s.cores ∧ ∀ b, (t.bank b).rfm = (s.bank b).rfm ∧
        (t.bank b).refreshing = (s.bank b).refreshing ∧ (b ≠ bankOf d → t.bank b = s.bank b) := by
      by_cases h : (s.hbm.latched d || (s.bank (bankOf d)).openRow == some (rowOf d)) = true
      · exact ⟨s, by simp [State.findRow, h], hs, rfl, fun _ => ⟨rfl, rfl, fun _ => rfl⟩⟩
      · have hc : s.canAct (bankOf d) = true := by simp [State.canAct, hb, hk, ha d]
        refine ⟨(s.addAct (bankOf d)).setBank (bankOf d) { (s.addAct (bankOf d)).bank (bankOf d) with openRow := some (rowOf d) },
          by simp [State.findRow, h, hc], hs, rfl, fun b => ?_⟩
        by_cases e : b = bankOf d
        · subst e; simp [State.addAct, State.bank, State.setBank, Tab.get_set_same]
        · simp [State.addAct, State.bank, State.setBank, Tab.get_set_ne, e]
    obtain ⟨t, h1, h2, h3, h4⟩ := hd
    have hu : s.useRow Config.cores d = some t := by simp [State.useRow, he, h1]
    obtain ⟨z, hz⟩ := ih t hn.2 h2 (fun b => by simpa [State.reservedByOther, h3] using hr b) (fun b => by simp [h4, hb]) fun x hx => by
      rw [(h4 _).2.2 fun e => hn.1 (by rw [← e]; exact List.mem_map_of_mem hx)]; exact ha x (List.mem_cons_of_mem _ hx)
    exact ⟨z, by simp [useRows, hu, hz]⟩
/-- The rows of a pre-emption's image and of an image that is read back, while their banks take requests and while one
does not. -/
theorem witness_scheduling_events_image_rows : let s := fun f : State → State =>
      { f ((up id).modCore 0 fun k => { k with freeze := some 0, tenant := some 0, imgAt := some (0, 0) }) with sweeps := [running 3 2] }
    let i := { image with target := none, size := 2048 }
    (∃ z, useRows Config.cores ((s id).imageRows 0) (s id) = .ok z) ∧
    (∃ b, useRows Config.cores ((s (·.setBank 0 { rfm := true })).imageRows 0) (s (·.setBank 0 { rfm := true })) = .error b) ∧
    (∃ z, useRows Config.cores (rowsOf i.dpa i.size) (up id) = .ok z) ∧
    (∃ b, useRows Config.cores (rowsOf i.dpa i.size) ((up id).setBank 0 { rfm := true }) = .error b) := by
  refine ⟨rows_calm _ _ ?_ rfl (fun _ => rfl) (fun b => ⟨rfl, rfl⟩) fun d _ => (by decide : 0 < 192), ⟨_, rfl⟩, ⟨_, rfl⟩, ⟨_, rfl⟩⟩
  show ((rowsOf 0 0x90000).map bankOf).Nodup
  simp only [rowsOf, List.map_map, if_neg (show (0x90000 : Nat) ≠ 0 by decide)]
  refine List.Nodup.map_on (fun i hi j hj h => ?_) List.nodup_range
  simp only [List.mem_range, Function.comp, bankOf] at hi hj h
  simp at hi hj h
  omega
/-- Commands for a sweep that stands or not, held or not, at an aligned address or not. -/
theorem witness_scheduling_events_sweep_commands : let c := fun (op : Nat) (lo : BitVec 64) (w : List Sweep) =>
      { up id with sweeps := w, scmd := { scmd := BitVec.ofNat 64 (op <<< 60), saddrlo := lo } }
    let h := { running 3 2 with held := true }
    (c 1 0 []).standing 0 = none ∧ (c 1 0 [h]).standing 0 = some h ∧ (c 1 0 [running 3 2]).standing 0 = some (running 3 2) ∧ h.held = true ∧
    (preemptUnits 2 (some 200) ((c 1 0 [running 3 2]).unitsHolding 0) (c 1 0 [running 3 2])).isSome = true ∧
    (c 2 0 [running 3 2]).exportBusy (running 3 2) = true ∧ (c 2 0 [h]).exportBusy h = false ∧ (c 2 1 [h]).scmd.saddrlo.toNat % 65536 ≠ 0 ∧
    bundleRegion 0xFFFFFFFFFFFFFC000000 (bundleSize (c 2 0 [h]) h) = false ∧ bundleRegion (1 <<< 79) (bundleSize (c 2 0 [h]) h) = true ∧
    ((c 3 0 []).lpage 0).en = false ∧ (c 0 0 []).scmd.busy = false ∧ (c 4 0 []).scmd.scmd.toNat / 2 ^ 60 = 4 ∧
    (let b := { up id with scmd := { busy := true } }; b.scmd.busy = true ∧ b.scmd.next ≠ 0xFF ∧
      ∀ e ∈ b.cores, e.2.freeze.isSome = true → e.2.tenant ≠ some b.scmd.sweep) := by decide
/-- A pre-emption area that is full. -/
theorem witness_scheduling_events_area_full : let s := { (up id).modCore 0 fun k => { k with tenant := some 0, slots := [(0, { Task.idle with st := .ready })] } with
      sweeps := [running 3 2], images := [{ image with target := none, sweep := 1, dpa := 0xBF1B800000, size := 0xE4800000 }] }
    preemptUnits 2 (some 200) (s.unitsHolding 0) s = none := by decide
theorem witness_scheduling_events_import : let s := { (up id).setLpage 0 { en := true } with
      scmd := { scmd := 3 <<< 60, saddrhi := 0x8000 }
      tlb := [{ cache := (mgmtAcc 0 false).cache, asid := 0, vbase := 2 ^ 79, shift := 16, pbase := 0, r := true, w := true, x := true }] }
    (s.lpage 0).en = true ∧ s.scmd.saddrlo.toNat % 65536 = 0 ∧ s.scmd.saddrhi.extractLsb' 0 16 ++ s.scmd.saddrlo = (1 <<< 79 : Addr) ∧
    bundleRegion (1 <<< 79) 256 = true ∧ bundleRegion 0xFFFFFFFFFFFFFC000000 256 = false ∧ bundleBad [] (importRec 0 []) = true ∧
    ∃ z l z' l', resolve s (mgmtAcc 0 false) (1 <<< 79) 256 = (z, .ok l) ∧
      resolve z (mgmtAcc 0 false) (1 <<< 79) (max 256 (field (z.readAll l) 8 8)) = (z', .ok l') :=
  ⟨by decide, by decide, by decide, by decide, by decide, by decide, _, [(.hbm 0 none, 256)], _, [(.hbm 0 none, 256)], rfl, rfl⟩
/-- A debug halt that is asked for, and one that stands. -/
theorem witness_scheduling_events_debug : let s := fun v h => { (up fun i => { i with v := v }) with dbg := { halt := h } }
    (s 1 false).inp.v.getLsbD 0 = true ∧ (s 1 false).dbg.halt = false ∧ (s 0 true).inp.v.getLsbD 0 = false ∧ (s 0 true).dbg.halt = true ∧
    (s 2 false).inp.v.getLsbD 0 = (s 2 false).dbg.halt := by decide
/-- A unit whose issue has stopped in the middle of a vector load that waits for its translation. -/
theorem witness_scheduling_events_unfinished : let q := { entry (.vld y0 .w64 1 ⟨2, 0, 0, 0⟩) .vx with started := true, o2 := 2, o3 := 2 }
    let s := { (up id).modCore 0 fun k => { k with
        freeze := some 0, tenant := some 0, queue := [q], slots := [(0, lane { Task.idle with st := .ready })] } with
      asids := [(0, { valid := true, hosten := true })] }
    (s.core 0).freeze ≠ none ∧ ∃ q ∈ ((s.advance 0).core 0).queue, (s.advance 0).unfinished 0 q = true := by decide

/-- An export to a page that the management agent finds cached. -/
theorem witness_scheduling_events_export : let h := { running 3 2 with held := true }
    let s := { (up id) with
      sweeps := [h], scmd := { scmd := 2 <<< 60, saddrhi := 0x8000 }
      tlb := [{ cache := (mgmtAcc 0 true).cache, asid := 0, vbase := 2 ^ 79, shift := 21, pbase := 0, r := true, w := true, x := true }] }
    s.standing 0 = some h ∧ s.exportBusy h = false ∧ s.scmd.saddrlo.toNat % 65536 = 0 ∧ bundleRegion (1 <<< 79) (bundleSize s h) = true ∧
    ∃ t l v, resolve s (mgmtAcc h.asid true) (1 <<< 79) (bundleSize s h) = (t, .ok l) ∧
      useRows Config.cores ((t.images.filter fun i => i.sweep == h.id).flatMap fun i => rowsOf i.dpa i.size) t = .ok v := by
  refine ⟨by decide, by decide, by decide, by decide, _, [(.hbm 0 none, 128)], ?v, rfl, ?h⟩
  case h => rfl

/-- A task that waits, in an event on its unit. -/
def waiting (w : Wait) (f : Task → Task) : State :=
  { up (fun i => { i with v := 5 }) with cores := ((ready fun t => f { t with st := .waiting, wait := w }).cores) }
theorem witness_unit_and_register_events : let s := waiting (.sem 3 1) id
    s.frozenUnit 0 = false ∧ s.met 0 0 = false ∧ ((waiting (.sem 3 0) id).task 0 0).st = .waiting ∧ (waiting (.sem 3 0) id).met 0 0 = true ∧
    s.takeTrap 0 0 = none ∧ ((ready id).task 0 0).st = .ready ∧ ({ Task.idle with st := .trapped }).st = .trapped ∧
    (let t := waiting .none fun t => { t with hbase := 4, pendCx := some ⟨cPROT, 0, 0, 0, 0⟩ }
     (t.task 0 0).firstPending = some (.cx, ⟨cPROT, 0, 0, 0, 0⟩) ∧ cPROT ≠ cPOISON ∧ (t.task 0 0).inh = false ∧ (t.takeTrap 0 0).isSome = true) ∧
    (let t := waiting (.sem 3 1) fun t => { t with waitlimit := 7, waitAcc := 7 }
     (t.task 0 0).waitlimit ≠ 0 ∧ (t.task 0 0).waitlimit.toNat ≤ (t.task 0 0).waitCount (t.now 0)) ∧
    (let t := waiting (.sem 3 1) fun t => { t with waitlimit := 7, waitAcc := 6 }
     (t.task 0 0).waitCount (t.now 0) < (t.task 0 0).waitlimit.toNat) ∧
    (let t := waiting (.mwait sp ⟨.w64, false⟩ .eq 1) id
     (t.task 0 0).st = .waiting ∧ (t.task 0 0).wait = .mwait sp ⟨.w64, false⟩ .eq 1) ∧
    (let t := waiting (.ecall y0 4 0 9) fun t => { t with st := .parked }
     (t.image t.inp.sweep 0).isSome = false ∧ (t.task 0 0).st = .parked ∧ (t.task 0 0).wait = .ecall y0 4 0 9) := by decide
/-- Every wait of a held task, and a polled wait whose word is of the scratchpad. -/
theorem witness_unit_and_register_events_kinds : (∀ w f, ((waiting w f).cores) = (waiting w f).cores ∧ ((waiting w id).task 0 0).wait = w) ∧
    (let s := waiting (.mwait sp ⟨.w64, false⟩ .eq 1) id; vaRegion sp ≠ .host ∧
      ∃ l, (locate s (scalarAcc 0 (s.task 0 0).asid true false false) sp 8).2 = .ok l ∧ s.firstPoisonAll l = none) :=
  ⟨fun _ _ => ⟨rfl, rfl⟩, by decide, [(.spm 0 0, 8)], rfl, by decide⟩
/-- Tasks read in from an image, held at FENCE, at a word of no hold, and at one that cannot be read; one whose count is not known yet. -/
theorem witness_unit_and_register_events_words : let s := fun x : List (Nat × InstrWord) =>
      (waiting (.word none) fun t => { t with pc := 1 <<< 79, pastSync := true, hbase := 4, pendCx := some ⟨cPROT, 0, 0, 0, 0⟩ }).modCore 0 fun k =>
        { k with imem := x }
    let e := fun i => (encode i).getD 0
    let b := { s [] with asids := [(0, { valid := true })] }
    ((s []).task 0 0).wait = .word none ∧
    (let w := e (.fence y0 .rel .fab); (s [(2 ^ 79, w)]).wordAt 0 0 = some w ∧ decode w = .ok (.fence y0 .rel .fab) ∧
      ((s []).task 0 0).waitAt (.fence y0 .rel .fab) = some .fence) ∧
    (let w := e (.movi y0 1 5); (s [(2 ^ 79, w)]).wordAt 0 0 = some w ∧ decode w = .ok (.movi y0 1 5) ∧ ((s []).task 0 0).waitAt (.movi y0 1 5) = none) ∧
    (s []).wordAt 0 0 = none ∧ b.countUnread 0 0 = true ∧ (b.task 0 0).firstPending.isSome = true ∧ b.takeTrap 0 0 = none := by decide
/-- A landing word that has reached a generation; a task parked on a remote load, and one with an entry held by a page fault. -/
theorem witness_unit_and_register_events_waits : let l := waiting (.landing sp 0) id
    let q := entry (.rld y0 ⟨.w32, false⟩ false .fab 1 2 3 4) .fx
    let r := (waiting (.remote 0) fun t => { t with st := .parked }).modCore 0 fun k => { k with queue := [q] }
    let x := { entry (.vld y0 .w64 1 ⟨2, 0, 0, 0⟩) .vx with started := true, pageHeld := some (0, 0) }
    let h := (waiting .none fun t => { t with st := .ready }).modCore 0 fun k => { k with queue := [x] }
    (∃ p, (locate l (scalarAcc 0 (l.task 0 0).asid true false false) sp 16).2 = .ok p ∧ l.firstPoisonAll p = none) ∧
    (r.core 0).queue.find? (fun q => q.slot == 0 && q.isn == 0 && parks q.instr) = some q ∧
    (h.core 0).queue.find? (fun q => h.heldEntry 0 0 q) = some x :=
  ⟨⟨[(.spm 0 0, 16)], rfl, by decide⟩, by decide, by decide⟩
theorem witness_unit_and_register_events_fetch : let s := { waiting .none fun t => { t with st := .ready, pc := 1 <<< 79 } with
      tlb := [{ cache := (scalarAcc 0 0 false false true).cache, asid := 0, vbase := 2 ^ 79, shift := 16, pbase := 0, r := true, w := true, x := true }] }
    (s.task 0 0).st = .ready ∧ (∀ x ∈ (s.core 0).imem, x.1 ≠ (s.task 0 0).pc.toNat) ∧ vaRegion (s.task 0 0).pc ≠ .scratch ∧
    (∃ z l, resolve s (scalarAcc 0 0 false false true) (s.task 0 0).pc 12 = (z, .ok l) ∧ z.firstPoisonAll l = none) ∧
    vaRegion ((waiting .none fun t => { t with st := .ready, pc := sp }).task 0 0).pc = .scratch :=
  ⟨by decide, by decide, by decide, ⟨_, [(.hbm 0 none, 12)], rfl, by decide⟩, by decide⟩
theorem witness_unit_and_register_events_engine : let q := entry (.vadd y0 .f32 ⟨none, false, .rne⟩ 1 2 3) .vx
    let s := fun q : Entry => (up id).modCore 0 fun k => { k with queue := [q] }
    ((s q).core 0).queue.find? (fun q => q.eng == .vx && !q.started && (s q).startable 0 q && (s q).waitReady 0 q) = some q ∧
    ((s { q with started := true }).core 0).queue.find? (fun x => x.slot == 0 && x.eng == .vx && x.started && (s x).startable 0 x) =
      some { q with started := true } ∧
    (let d := { q with done := true }; ((s d).core 0).queue.find? (fun q => q.slot == 0 && q.eng == .vx) = some d ∧ d.done = true ∧
      (s d).awaiting 0 d = false ∧ d.mute = false ∧ d.freed = false ∧ d.instr.sync = some y0) := by decide
theorem witness_unit_and_register_events_thread : let s := fun st w => { (up fun i => { i with thread := 5 }).setThread 5 { st := st, len := 1 } with
      flood := { ((up id).setThread 5 { st := st, len := 1 }).flood with prog := [(0, w)] } }
    let w := (encode (.sqwait 1 2)).getD 0
    (up id).powered = true ∧ (up id).stopped = false ∧ (up id).faulted = false ∧
    ((s .running 0).thread 5).st = .running ∧ (s .running 0).threadWord 5 = none ∧ (s .running w).threadWord 5 ≠ none ∧ ((s .waiting w).thread 5).st = .waiting ∧
    (s .waiting w).threadPaged 5 = false ∧ (s .waiting w).threadWord 5 = some (.sqwait 1 2) := by decide
/-- The last byte of the management window and the first of the launch window behind it, neither, and the last registers of each kind. -/
theorem witness_unit_and_register_events_registers : let s := { (up fun i => { i with flag := true, va := 0x2FFFFFF }) with winMgmt := 0x2000000, winLaunch := 0x3000000 }
    s.powered = true ∧ s.bootst ≠ 15 ∧ s.inp.flag = true ∧ s.winMgmt ≤ s.inp.va.toNat ∧ s.inp.va.toNat < s.winMgmt + 0x1000000 ∧
    (s.winMgmt + 0x1000000 ≤ 0x3000000 ∧ s.winLaunch ≤ 0x3000000 ∧ 0x3000000 < s.winLaunch + 0x400000) ∧ (0 < s.winMgmt ∧ 0 < s.winLaunch) ∧
    (up id).inp.flag = false ∧ (1023 : Nat) < 1024 ∧ (0x60000 + 8 * 1023 : Nat) ≠ 0x80000 ∧ (11 : Nat) < 12 ∧ (65535 : Nat) < 65536 := by decide

/-- The turn of a unit that runs a placed word; the turn of a thread; the turn of an event. -/
theorem witness_step_runs_decoded : let s := State.reset.withFetchWord 96 ((0x0180000 <<< 68) ||| (1 <<< 50) ||| 5)
    ∃ t u v w, s.tick.nextTurn = (.unit 0, t) ∧ t.frozenUnit 0 = false ∧ (t.prepare 0).frozenUnit 0 = false ∧
      (t.prepare 0).choose 0 = some (0, u) ∧ u.takeTrap 0 0 = none ∧ fetch u 0 0 = .ok (v, w) ∧ decode w = .ok (.movi y0 1 5) ∧
      v.acquiring 0 0 = false ∧ (v.task 0 0).regBusy (.movi y0 1 5) = false :=
  ⟨_, _, _, _, rfl, by decide, by decide, rfl, by decide, rfl, by decide, by decide, by decide⟩
theorem witness_step_runs_decoded_none : decode (0x8 <<< 92) = .error .cls := by decide
/-- A task with an acquire under way, one whose word names a reserved register, and one whose word is ILLEGAL as well. -/
theorem witness_step_runs_decoded_held : let a := queued id (.rcas y0 ⟨.w32, false⟩ .acq .fab 1 2 3 4) .fx
    let r := ready fun t => { t with resvd := [1] }
    a.acquiring 0 0 = true ∧ r.acquiring 0 0 = false ∧ (r.task 0 0).regBusy (.movi y0 1 5) = true ∧ illegalIn (r.task 0 0) (.movi y0 1 5) = false ∧
    (r.task 0 0).regBusy (.swr y0 (.s 1 .esw)) = true ∧ illegalIn (r.task 0 0) (.swr y0 (.s 1 .esw)) = true := by decide
theorem witness_step_runs_decoded_turns : let s := State.reset.withFetchWord 96 ((0x6150000 : Nat) <<< 68)
    let e := { State.reset with agenda := [.event .zclLinkUp {}] }
    (∃ t, e.tick.nextTurn = (.event .zclLinkUp {}, t) ∧ Instr.isEvent .zclLinkUp = true) ∧
    (∃ t h, s.tick.nextTurn = (.thread h, t) ∧ t.floodOn = true ∧ (t.thread h).st = .running) :=
  ⟨⟨_, rfl, by decide⟩, _, _, rfl, by decide, by decide⟩

/-- The wide form of a well-formed instruction, its encoding and back. -/
theorem witness_round_trip : (Instr.ins y0 1 2 60 3).wf = true ∧ (encode (.ins y0 1 2 60 3)).isSome = true ∧
    (encode (.ins y0 1 2 60 3)).map decode = some (.ok (.ins y0 1 2 60 3)) ∧ Instr.isEvent (.ins y0 1 2 60 3) = false ∧
    Instr.wf .zclLinkUp = true ∧ Instr.isEvent .zclLinkUp = true := by decide
/-- A state whose memories are in canonical form and list something, and a step from it. -/
theorem witness_memory_invariant : let s := State.reset.withFetchWord 96 ((0x0180000 <<< 68) ||| (1 <<< 50) ||| 5)
    s.memWf = true ∧ s ≠ State.reset ∧ ∃ t, step s = .next t := ⟨by decide, by decide, _, rfl⟩

end Sys2Proof.Tests
end

section
/-! SUPPORT. Special registers, mailboxes and NOP (R36, R178, R230, R329 to R331): what a scalar instruction does in the state that its met SYNC
wait leaves, what that state keeps of the registers SRD reads, the values that the model writes as bit masks, and the statement O19. -/

namespace Sys2Proof.Machine

/-! ## The issue of a scalar instruction -/

/-- What the met SYNC wait leaves: the task but for its mark of the count taken, the semaphores after the wait, and all the rest. -/
theorem State.waited_ready {s : State} {c n : Nat} {y : Sync} (h : Ready s c n y) :
    OnlyTask s c n (s.waited c n y) ∧ (∃ x, (s.waited c n y).task c n = { s.task c n with took := x }) ∧
      ∀ q, (s.waited c n y).sem c q = s.semWaited c n y q := by
  obtain ⟨t, x, ht, honly, htask, hsem⟩ := State.syncTake_ready h
  have hw : s.waited c n y = t := by rw [State.waited, ht]; rfl
  rw [hw]
  exact ⟨honly, ⟨x, htask⟩, hsem⟩

theorem State.waited_sreg {s : State} {c n : Nat} {y : Sync} (h : Ready s c n y) (r : SReg) :
    ((s.waited c n y).task c n).sreg r = (s.task c n).sreg r := by
  obtain ⟨-, ⟨x, hx⟩, -⟩ := State.waited_ready h
  rw [hx]; rfl

/-- A legal instruction of a ready task performs its action in the state after its wait. -/
theorem scalar_ready {s : State} {c n : Nat} {y : Sync} {ill : Task → Bool} {body : Nat → Nat → State → Act} (h : Ready s c n y)
    (hill : ill (s.task c n) = false) : scalar ill y body s = .next ((body c n (s.waited c n y)).run y c n) := by
  obtain ⟨t, -, ht, -⟩ := State.syncTake_ready h
  simp only [scalar, State.waited, h.1, hill, ht]
  rfl

/-- An illegal instruction traps before its wait. -/
theorem scalar_illegal {s : State} {c n : Nat} {y : Sync} {ill : Task → Bool} {body : Nat → Nat → State → Act} (h : Ready s c n y)
    (hill : ill (s.task c n) = true) : scalar ill y body s = .next (s.issueTrap c n cILLEGAL 0 0) := by
  simp only [scalar, h.1, hill, if_true]

/-- An instruction without an action of its own waits, signals and goes on. -/
theorem scalar_skip_effect {s : State} {c n : Nat} {y : Sync} {ill : Task → Bool} (h : Ready s c n y) (hill : ill (s.task c n) = false) :
    ∃ t, scalar ill y (fun _ _ s => .done s) s = .next t ∧ Effect s c n y id t := by
  obtain ⟨honly, ⟨x, htask⟩, hsem⟩ := State.waited_ready h
  refine ⟨_, scalar_ready h hill, ?_, fun q => ?_, ?_⟩ <;> simp only [Act.run, State.issued]
  · rw [State.task_signal, State.task_modTask_same, State.task_modTask_same, htask, Task.issue_stepped _ x h.2.1]; rfl
  · rw [State.sem_signal]
    simp only [State.sem_modTask]
    rw [hsem q]; rfl
  · exact ((honly.trans (.modTask ..)).trans (.modTask ..)).trans (.signal ..)

/-! ## What a change of one task keeps of the registers outside it -/

theorem OnlyTask.now {s t : State} {c n : Nat} (h : OnlyTask s c n t) : t.now c = s.now c := by
  simp only [State.now, State.cluster]; rw [h.unit, h.device]

theorem OnlyTask.mbox {s t : State} {c n : Nat} (h : OnlyTask s c n t) : (t.core c).mbox = (s.core c).mbox := by rw [h.unit]

theorem OnlyTask.gate {s t : State} {c n : Nat} (h : OnlyTask s c n t) (d : Nat) : (t.core d).gate = (s.core d).gate := by
  by_cases hd : d = c
  · subst hd; rw [h.unit]
  · rw [h.others d hd]

theorem OnlyTask.arrayGate {s t : State} {c n : Nat} (h : OnlyTask s c n t) : t.arrayGate c = s.arrayGate c := by
  have hmode : (t.core c).mode = (s.core c).mode := by rw [h.unit]
  simp only [State.arrayGate, h.gate, hmode]

theorem OnlyTask.mxwake {s t : State} {c n : Nat} (h : OnlyTask s c n t) : t.mxwake c = s.mxwake c := by
  simp only [State.mxwake, h.arrayGate]; rw [h.unit]

/-- A special register of up to 64 bits reads the same after a wait: the device's and the unit's are kept, and the task's but its mark. -/
theorem State.sprS_waited {s : State} {c n : Nat} {y : Sync} (h : Ready s c n y) (x : SprS) :
    (s.waited c n y).sprS c n x = s.sprS c n x := by
  obtain ⟨honly, ⟨k, htask⟩, -⟩ := State.waited_ready h
  cases x with
  | cycle => simp only [State.sprS, honly.now]
  | mxwake => simp only [State.sprS, honly.mxwake]
  | devid => simp only [State.sprS]; rw [honly.device]
  | capcores => simp only [State.sprS, State.capCores, State.cluster]; rw [honly.device]
  | corenum | taskid | capgang | caprowq => rfl
  | sweepid | cls | esw | ecause | ecp | esp | waitlimit => simp only [State.sprS, htask]

/-! ## The values that the model writes as bit masks -/

/-- Fields of 16 bits under a third one, put together by OR, add up. -/
theorem or_fields_eq_sum {a b : Nat} (g : Nat) (ha : a < 2 ^ 16) (hb : b < 2 ^ 16) :
    g <<< 32 ||| a <<< 16 ||| b = g * 2 ^ 32 + a * 2 ^ 16 + b := by
  have hlow : a <<< 16 + b < 2 ^ 32 := by rw [Nat.shiftLeft_eq]; omega
  rw [Nat.or_assoc, ← Nat.shiftLeft_add_eq_or_of_lt hb, ← Nat.shiftLeft_add_eq_or_of_lt hlow, Nat.shiftLeft_eq, Nat.shiftLeft_eq, Nat.add_assoc]

/-- MXWAKE is the sum of its fields: GATED, AUTOIDLE and LATENCY (R36). -/
theorem State.mxwake_eq_sum (s : State) (c : Nat) : s.mxwake c = BitVec.ofNat 64
    ((if s.arrayGate c = .gated then 2 ^ 32 else 0) + (s.core c).autoIdle.toNat * 2 ^ 16 + (s.core c).mxWake.toNat) := by
  have ha := (s.core c).autoIdle.isLt
  have hm := (s.core c).mxWake.isLt
  have hshift : (s.core c).autoIdle.toNat <<< 16 < 2 ^ 64 := by rw [Nat.shiftLeft_eq]; omega
  apply BitVec.eq_of_toNat_eq
  simp only [State.mxwake, BitVec.toNat_or, BitVec.toNat_shiftLeft, BitVec.toNat_setWidth, BitVec.toNat_ofNat,
    Nat.mod_eq_of_lt (Nat.lt_trans ha (by decide : 2 ^ 16 < 2 ^ 64)), Nat.mod_eq_of_lt (Nat.lt_trans hm (by decide : 2 ^ 16 < 2 ^ 64)),
    Nat.mod_eq_of_lt hshift]
  split
  · rw [Nat.mod_eq_of_lt (by omega)]; exact (or_fields_eq_sum 1 ha hm).trans (by omega)
  · rw [Nat.mod_eq_of_lt (by omega)]; exact (or_fields_eq_sum 0 ha hm).trans (by omega)

/-- A write of ESW keeps the fields from bit 39 up (R178). -/
theorem eswWrite_eq_append (old new : BitVec 64) : eswWrite old new = old.extractLsb' 39 25 ++ new.extractLsb' 0 39 := by
  have hsplit : ∀ x : BitVec 64, x = (x.extractLsb' 39 25 ++ x.extractLsb' 0 39 : BitVec (25 + 39)) := fun x => by
    rw [BitVec.extractLsb'_append_extractLsb'_eq_extractLsb' (by rfl), BitVec.extractLsb'_eq_self]
  have hhigh : (0xFFFFFF8000000000 : BitVec 64) = (BitVec.allOnes 25 ++ 0#39 : BitVec (25 + 39)) := rfl
  have hlow : (0x0000007FFFFFFFFF : BitVec 64) = (0#25 ++ BitVec.allOnes 39 : BitVec (25 + 39)) := rfl
  rw [eswWrite, hhigh, hlow]
  conv_lhs => rw [hsplit old, hsplit new]
  rw [BitVec.and_append, BitVec.and_append, BitVec.or_append, BitVec.and_allOnes, BitVec.and_zero, BitVec.and_zero, BitVec.and_allOnes,
    BitVec.or_zero, BitVec.zero_or]

theorem and_mask16_eq_mod (x : Word) : x &&& 0xFFFF = BitVec.ofNat 64 (x.toNat % 2 ^ 16) := by
  apply BitVec.eq_of_toNat_eq
  rw [BitVec.toNat_and, ← Nat.and_two_pow_sub_one_eq_mod, BitVec.toNat_ofNat, Nat.mod_eq_of_lt]
  · rfl
  · exact Nat.lt_of_le_of_lt Nat.and_le_left x.isLt

/-- The reserved bits of a write to MXWAKE are 0 exactly below 2^33 (R36). -/
theorem swrIllegal_mxwake (r : SReg) (t : Task) : swrIllegal (.s r .mxwake) t = false ↔ (t.sreg r).toNat < 2 ^ 33 := by
  have hlt := (t.sreg r).isLt
  simp only [swrIllegal, bne_eq_false_iff_eq, ← BitVec.toNat_inj, BitVec.extractLsb'_toNat, Nat.shiftRight_eq_div_pow,
    BitVec.ofNat_eq_ofNat, BitVec.toNat_ofNat]
  omega

/-! ## SRD and MBRD -/

/-- SRD writes s[D] with what the register held before the instruction. -/
theorem runs_srd_s {s : State} {c n : Nat} {y : Sync} {d : SReg} {x : SprS} {v : Word} (h : Ready s c n y) (hv : s.sprS c n x = v) :
    Runs s c n y (.srd y (.s d x)) (·.setS d v) := by
  have hexec : exec (.srd y (.s d x)) s = regOp y (fun t => t.setS d (s.sprS c n x)) s := by
    rw [regOp, scalar_ready h rfl, ← State.sprS_waited h x]; exact scalar_ready h rfl
  exact runs_s h hexec (fun _ => rfl) hv

/-- SRD of an 80-bit register writes a[D]. -/
theorem runs_srd_a {s : State} {c n : Nat} {y : Sync} {d : AReg} {x : SprA} {v : Addr} (h : Ready s c n y) (hv : (s.task c n).sprA x = v) :
    Runs s c n y (.srd y (.a d x)) (·.setA d v) :=
  runs_a (F := fun t => t.sprA x) h rfl (fun _ => by cases x <;> rfl) hv

theorem runs_mbrd {s : State} {c n : Nat} {y : Sync} {d : SReg} {a : MbReg} (h : Ready s c n y) :
    Runs s c n y (.mbrd y d a) (·.setS d (BitVec.ofNat 64 (Tab.get (0 : BitVec 32) (s.core c).mbox a.val).toNat)) := by
  have hexec : exec (.mbrd y d a) s = regOp y (fun t => t.setS d ((Tab.get (0 : BitVec 32) (s.core c).mbox a.val).setWidth 64)) s := by
    rw [regOp, scalar_ready h rfl, ← (State.waited_ready h).1.mbox]; exact scalar_ready h rfl
  exact runs_s h hexec (fun _ => rfl) (BitVec.ofNat_toNat ..).symm

/-! ## SWR and MBWR -/

/-- SWR that is legal and writes a register of the task: its effect is that write. -/
theorem runs_swr {s : State} {c n : Nat} {y : Sync} {x : SprMove} {g : Task → Task} (h : Ready s c n y)
    (hill : swrIllegal x (s.task c n) = false)
    (hexec : ∀ u : State, exec (.swr y x) u = scalar (swrIllegal x) y (fun c n u => .done (u.modTask c n g)) u)
    (hg : ∀ m, g { s.task c n with took := m } = { g (s.task c n) with took := m }) (hst : (g (s.task c n)).st = (s.task c n).st) :
    Runs s c n y (.swr y x) g := by
  rw [Runs, hexec]
  exact scalar_effect h hill (fun _ _ => rfl) hg (hst.trans h.2.1)

theorem exec_swr_illegal {s : State} {c n : Nat} {y : Sync} {x : SprMove} (h : Ready s c n y) (hill : swrIllegal x (s.task c n) = true) :
    exec (.swr y x) s = .next (s.issueTrap c n cILLEGAL 0 0) := scalar_illegal h hill

/-- SWR of WAITLIMIT restarts the count of the wait in force (R230; log 37). -/
theorem exec_swr_waitlimit {s : State} {c n : Nat} {y : Sync} {r : SReg} (h : Ready s c n y) :
    exec (.swr y (.s r .waitlimit)) s = .next (State.retired ((s.waited c n y).modTask c n fun t =>
      { t with waitlimit := (s.task c n).sreg r, waitAcc := 0, waitFrom := t.waitFrom.map fun _ => s.now c }) c n y) := by
  rw [← State.waited_sreg h r, ← (State.waited_ready h).1.now]
  exact scalar_ready h rfl

/-- SWR of MXWAKE without reserved bits writes AUTOIDLE (R36). -/
theorem exec_swr_mxwake {s : State} {c n : Nat} {y : Sync} {r : SReg} (h : Ready s c n y) (hv : ((s.task c n).sreg r).toNat < 2 ^ 33) :
    exec (.swr y (.s r .mxwake)) s = .next (State.retired ((s.waited c n y).modCore c fun m =>
      { m with autoIdle := BitVec.ofNat 16 (((s.task c n).sreg r).toNat / 2 ^ 16) }) c n y) := by
  rw [← Nat.shiftRight_eq_div_pow, ← State.waited_sreg h r]
  exact scalar_ready h ((swrIllegal_mxwake r _).mpr hv)

theorem exec_mbwr {s : State} {c n : Nat} {y : Sync} {mb : MbReg} {r : SReg} (h : Ready s c n y) :
    exec (.mbwr y mb r) s = .next (State.retired ((s.waited c n y).modCore c fun m =>
      { m with mbox := Tab.set m.mbox mb.val (BitVec.ofNat 32 ((s.task c n).sreg r).toNat) }) c n y) := by
  rw [← State.waited_sreg h r]
  exact scalar_ready h rfl

/-! ## The statement -/

/-- Settles O19: reads in the state after the wait, writes of the task by their function on it, and the traps before the wait. -/
theorem specialRegisters : Obligations.special_registers := by
  refine ⟨?reads, ?writes⟩
  case reads =>
    rintro s c n y d a mb k m h rfl rfl
    exact ⟨runs_srd_s h rfl, runs_srd_s h rfl, runs_srd_s h (BitVec.ofNat_toNat ..).symm, runs_srd_s h rfl,
      runs_srd_s h (BitVec.ofNat_toNat ..).symm, runs_srd_s h (BitVec.ofNat_toNat ..).symm, runs_srd_s h rfl, runs_srd_s h rfl,
      runs_srd_s h rfl, runs_srd_s h rfl, runs_srd_s h rfl, runs_srd_s h (State.mxwake_eq_sum s c), runs_srd_s h rfl, runs_srd_s h rfl,
      runs_srd_s h rfl, runs_srd_a h rfl, runs_srd_a h rfl, runs_srd_a h rfl, runs_mbrd h, scalar_skip_effect h rfl⟩
  case writes =>
    rintro s c n y r a mb k x h rfl
    refine ⟨fun hin => ?handler, exec_swr_waitlimit h, ?hbase, ?misaligned, exec_swr_mxwake h, ?reserved, fun hin => ?outsideA,
      fun hin hx => ?outsideS, fun hx => ?readOnly, exec_mbwr h⟩
    case handler =>
      have legal : (!(s.task c n).inh) = false := by rw [hin]; rfl
      exact ⟨runs_swr h legal (fun u => by simp only [← eswWrite_eq_append]; rfl) (fun _ => rfl) rfl,
        runs_swr h legal (fun u => by simp only [← and_mask16_eq_mod]; rfl) (fun _ => rfl) rfl,
        runs_swr h legal (fun _ => rfl) (fun _ => rfl) rfl, runs_swr h legal (fun _ => rfl) (fun _ => rfl) rfl,
        runs_swr h legal (fun _ => rfl) (fun _ => rfl) rfl, runs_swr h legal (fun _ => rfl) (fun _ => rfl) rfl⟩
    case hbase => exact fun haligned => runs_swr h (bne_eq_false_iff_eq.mpr haligned) (fun _ => rfl) (fun _ => rfl) rfl
    case misaligned => exact fun hodd => exec_swr_illegal h (bne_iff_ne.mpr hodd)
    case reserved => exact fun hv => exec_swr_illegal h (by rw [← Bool.not_eq_false, swrIllegal_mxwake]; omega)
    case outsideA =>
      have illegal : (!(s.task c n).inh) = true := by rw [hin]; rfl
      exact ⟨exec_swr_illegal h illegal, exec_swr_illegal h illegal⟩
    case outsideS =>
      have illegal : (!(s.task c n).inh) = true := by rw [hin]; rfl
      rcases hx with rfl | rfl | rfl | rfl <;> exact exec_swr_illegal h illegal
    case readOnly =>
      rcases hx with rfl | rfl | rfl | rfl | rfl | rfl | rfl | rfl | rfl <;> exact exec_swr_illegal h rfl

end Sys2Proof.Machine
end

section
/-! SUPPORT. The state right after power-on reset (R36, R57, R60, R68, R74, R86, R94, R111, R120, R174, R198, R388): the statement O4. -/

namespace Sys2Proof.Machine

/-- Settles O4: every table of the reset state lists nothing, so a read of it gives the reset record of its entries. -/
theorem resetValues : Obligations.reset_values := by
  rintro s rfl
  refine ⟨rfl, rfl, rfl, rfl, rfl, rfl, ?units, ?clocks, ?ports, rfl, rfl, rfl, rfl, rfl, rfl, ?routes, ?windows, ?pages, ?memory, ?asids,
    rfl, rfl, rfl, rfl, rfl, rfl, rfl, ?threads, ?halves⟩
  case units => exact fun c n => ⟨rfl, rfl, rfl, rfl, rfl, rfl, rfl, rfl, fun m i j => rfl, fun o => rfl, fun g => rfl⟩
  case clocks => exact fun c => ⟨rfl, rfl, rfl⟩
  case ports => exact fun p => ⟨rfl, rfl, rfl, rfl, rfl, rfl, rfl, rfl, rfl, rfl, rfl, rfl, rfl, rfl⟩
  case routes => exact fun g => ⟨rfl, rfl⟩
  case windows => exact fun w => ⟨rfl, rfl, rfl, rfl⟩
  case pages => exact fun k => ⟨rfl, rfl, rfl, rfl, rfl, rfl, rfl⟩
  case memory => exact fun k => ⟨rfl, rfl, rfl, rfl, rfl, rfl, rfl, rfl, rfl, rfl⟩
  case asids => exact fun a => ⟨rfl, rfl⟩
  case threads => exact fun h => ⟨rfl, rfl, rfl⟩
  case halves => exact fun h => ⟨rfl, rfl⟩

end Sys2Proof.Machine
end

section
/-! SUPPORT. The gating states of the arrays of a unit (R35): which cores take one, and what else of the state stands. -/

namespace Sys2Proof.Machine

/-! ## Gating of the arrays of a unit (R35) -/

theorem Gang.size_pos (g : Gang) : 0 < g.size := by cases g <;> decide

/-- Cores that a fold over members of a unit changes. -/
theorem State.core_foldl_gate (l : List Nat) (s : State) (d i : Nat) (g : GateSt) :
    (l.foldl (fun s j => s.modCore (d + j) fun k => { k with gate := g }) s).core i =
      if ∃ j ∈ l, i = d + j then { s.core i with gate := g } else s.core i := by
  induction l generalizing s with
  | nil => simp
  | cons j l ih =>
    rw [List.foldl_cons, ih]
    by_cases hi : i = d + j
    · subst hi; simp
    · simp [hi]

/-- A gating state is every member's, and no other core's. -/
theorem State.core_setGate (s : State) (d i : Nat) (g : GateSt) : (s.setGate d g).core i =
    if d ≤ i ∧ i < d + (s.core d).mode.size then { s.core i with gate := g } else s.core i := by
  rw [State.setGate, State.core_foldl_gate]
  have hmem : (∃ j ∈ List.range (s.core d).mode.size, i = d + j) ↔ d ≤ i ∧ i < d + (s.core d).mode.size :=
    ⟨fun ⟨j, hj, e⟩ => by have := List.mem_range.1 hj; omega, fun h => ⟨i - d, List.mem_range.2 (by omega), by omega⟩⟩
  simp only [hmem]

theorem State.core_setGate_same (s : State) (d : Nat) (g : GateSt) : (s.setGate d g).core d = { s.core d with gate := g } := by
  have := (s.core d).mode.size_pos
  rw [State.core_setGate, if_pos (by omega)]

/-- Only cores take a gating state. -/
theorem State.setGate_device (s : State) (d : Nat) (g : GateSt) : s.setGate d g = { s with cores := (s.setGate d g).cores } := by
  exact foldl_keeps (fun t : State => t = { s with cores := t.cores }) _ (fun t j ht => by rw [ht]; rfl) _ _ rfl

@[simp] theorem State.cur_setGate (s : State) (d : Nat) (g : GateSt) : (s.setGate d g).cur = s.cur := by rw [State.setGate_device]

@[simp] theorem State.deferStart_setGate (s : State) (d : Nat) (g : GateSt) : (s.setGate d g).deferStart = s.deferStart := by
  rw [State.setGate_device]

@[simp] theorem State.task_setGate (s : State) (d n : Nat) (g : GateSt) : (s.setGate d g).task d n = s.task d n := by
  simp only [State.task, State.core_setGate_same]

@[simp] theorem State.sem_setGate (s : State) (d q : Nat) (g : GateSt) : (s.setGate d g).sem d q = s.sem d q := by
  simp only [State.sem, State.core_setGate_same]

@[simp] theorem State.frozenUnit_setGate (s : State) (d : Nat) (g : GateSt) : (s.setGate d g).frozenUnit d = s.frozenUnit d := by
  simp only [State.frozenUnit, State.haltedUnit, State.relocking, State.cluster, State.core_setGate_same]
  rw [State.setGate_device]

/-- A unit's array has the gating state that every member's has. -/
theorem State.arrayGate_congr {s t : State} {c : Nat} (hm : (t.core c).mode = (s.core c).mode) (hg : ∀ i, (t.core i).gate = (s.core i).gate) :
    t.arrayGate c = s.arrayGate c := by
  simp only [State.arrayGate, hm, hg]

end Sys2Proof.Machine
end

section
/-! SUPPORT. MXAGEN, MXMODE, MXCHK and MXIDLE (R35, R386, R387, R403 to R406): the state in which an engine starts an entry, the issue of an MX
instruction that is performed whole or that its array holds, and the statement O40. -/

namespace Sys2Proof.Machine

/-! ## The state in which an engine starts -/

/-- The start of an entry changes nothing outside the cores. -/
theorem Issue.begun_device (x : Issue) (s : State) (c n : Nat) (y : Sync) :
    x.begun s c n y = { s with cores := (x.begun s c n y).cores } := by
  unfold Issue.begun; split <;> rfl

/-- In the unit, the start of an entry changes the tasks, the semaphores, the data cache and the queues. -/
theorem Issue.begun_core (x : Issue) (s : State) (c n : Nat) (y : Sync) : (x.begun s c n y).core c =
    { s.core c with slots := ((x.begun s c n y).core c).slots, sems := ((x.begun s c n y).core c).sems,
                    dcache := ((x.begun s c n y).core c).dcache, queue := ((x.begun s c n y).core c).queue } := by
  unfold Issue.begun
  split <;> simp [State.modTask, State.setTask, State.takeSem]

theorem Issue.begun_core_ne (x : Issue) (s : State) {c d : Nat} (n : Nat) (y : Sync) (h : d ≠ c) :
    (x.begun s c n y).core d = s.core d := by
  unfold Issue.begun
  split <;> simp [State.takeSem, h]

theorem Issue.begun_arrayGate (x : Issue) (s : State) (c n : Nat) (y : Sync) : (x.begun s c n y).arrayGate c = s.arrayGate c := by
  refine State.arrayGate_congr (by rw [Issue.begun_core]) fun i => ?_
  by_cases hi : i = c
  · rw [hi, Issue.begun_core]
  · rw [Issue.begun_core_ne x s n y hi]

theorem Issue.begun_physHalf (x : Issue) (s : State) (c n : Nat) (y : Sync) (k : Nat) (h : Bool) :
    (x.begun s c n y).physHalf k h = s.physHalf k h := by
  simp only [State.physHalf, State.siteOf, State.bindOf]; rw [Issue.begun_device]

theorem Issue.begun_half (x : Issue) (s : State) (c n : Nat) (y : Sync) (p : Nat) : (x.begun s c n y).half p = s.half p := by
  simp only [State.half]; rw [Issue.begun_device]

/-! ## MX entries that a ready engine performs -/

section
variable {s : State} {c n : Nat} {y : Sync} {i : Instr} {caps : Task → List (BitVec 128)} {ill : Task → Bool} {perf : Perf}

theorem EngineReady.awake (h : EngineReady s c n y .mx) : s.arrayGate c = .awake :=
  have ⟨_, _, _, _, _, _, _, _, _, _, hmx, _⟩ := h
  (hmx rfl).1

/-- An MX instruction whose engine is ready is performed at its issue. -/
theorem mx_performed (h : EngineReady s c n y .mx) (hy : i.sync = some y) (hill : ill (s.task c n) = false) :
    engine ill (mx i caps) perf s = .next ((mx i caps).performed perf s c n y) :=
  have ⟨_, _, _, hfrom, _⟩ := h
  engine_performed h hy hill rfl hfrom rfl

/-- One that is performed whole, at position 0. -/
theorem mx_ended {u : State} (h : EngineReady s c n y .mx) (hy : i.sync = some y) (hill : ill (s.task c n) = false)
    (hperf : perf c ((mx i caps).started s c n y) ((mx i caps).begun s c n y) = ⟨u, 0, 0, .done⟩) :
    engine ill (mx i caps) perf s = .next ((mx i caps).ended s c n y u 0) := by
  rw [mx_performed h hy hill, Issue.performed, hperf]; rfl

/-- Continue goes on alike in tasks with the same loops and INH. -/
theorem Task.cont_eq_of (t u : Task) (pc : Addr) (hl : u.loops = t.loops) (hd : u.depth = t.depth) (hi : u.inh = t.inh) :
    u.cont pc = { u with pc := (t.cont pc).pc, depth := (t.cont pc).depth, loops := (t.cont pc).loops } := by
  obtain ⟨e1, e2, e3⟩ := Task.cont_congr u t pc hl hd hi
  rw [Task.cont_fields u, e1, e2, e3]

theorem Task.setS_cont (t : Task) (d : SReg) (v : Word) (pc : Addr) : (t.setS d v).cont pc = (t.cont pc).setS d v := by
  rw [Task.cont_eq_of t (t.setS d v) pc (by simp) (by simp) (by simp)]
  conv_rhs => rw [Task.cont_fields]
  unfold Task.setS; split <;> rfl

theorem Task.resvd_cont (t : Task) (l : List SReg) (pc : Addr) : ({ t with resvd := l } : Task).cont pc = { t.cont pc with resvd := l } := by
  rw [Task.cont_eq_of t { t with resvd := l } pc rfl rfl rfl]
  conv_rhs => rw [Task.cont_fields]

theorem Task.pastWait_pc (t : Task) : t.pastWait.pc = t.pc := by unfold Task.pastWait; split <;> rfl

theorem Task.gone_eq (t : Task) : t.gone = { t.pastWait with st := .ready, isn := t.pastWait.isn + 1, took := none } := by
  have hisn : t.pastWait.isn = t.isn := by unfold Task.pastWait; split <;> rfl
  rw [Task.gone, hisn]

theorem Task.setS_gone (t : Task) (d : SReg) (v : Word) : (t.setS d v).gone = t.gone.setS d v := by
  unfold Task.gone Task.setS Task.pastWait
  split <;> split <;> rfl

theorem Task.setS_stepped (t : Task) (d : SReg) (v : Word) : (t.setS d v).stepped = t.stepped.setS d v := by
  rw [Task.stepped, Task.setS_gone, Task.setS_cont, Task.setS_pc]; rfl

/-- An instruction that reserves s[d] leaves its task as gone on, with that register reserved (R361). -/
theorem Issue.task_reserves (x : Issue) (now : Nat) (t : Task) {d : SReg} (hd : x.instr.engineDest = some d) (hx : x.front t = t)
    (hp : x.parks = false) : x.task now t = if d.val = 0 then t.stepped else { t.stepped with resvd := d :: t.stepped.resvd } := by
  simp only [Issue.task, hd, hx, hp, Bool.false_eq_true, if_false, Task.stepped, Task.gone_eq, ← Task.pastWait_pc t]
  by_cases h0 : d.val = 0
  · simp only [h0, if_true]
  · simp only [h0, if_false, Task.cont_resvd]
    exact Task.resvd_cont { t.pastWait with st := .ready, isn := t.pastWait.isn + 1, took := none } _ _

/-- The task that an engine has written s[d] of, its register released, has gone on with that register written. -/
theorem Issue.task_setS_freed (x : Issue) (now : Nat) (t : Task) {d : SReg} {v : Word} (hd : x.instr.engineDest = some d)
    (hx : x.front t = t) (hp : x.parks = false) : ((x.task now t).setS d v).freed x.instr = (t.setS d v).stepped := by
  rw [Issue.task_reserves x now t hd hx hp, Task.setS_stepped]
  by_cases h0 : d.val = 0
  · simp only [Task.freed, hd, h0, if_true]
  · simp [Task.freed, hd, h0, Task.setS]

theorem runs_mx_setS {d : SReg} {v : Word} (h : EngineReady s c n y .mx) (hi : exec i s = engine ill (mx i caps) perf s)
    (hy : i.sync = some y) (hill : ill (s.task c n) = false) (hd : i.engineDest = some d)
    (hperf : perf c ((mx i caps).started s c n y) ((mx i caps).begun s c n y) =
      ⟨((mx i caps).begun s c n y).modTask c n (·.setS d v), 0, 0, .done⟩) : Runs s c n y i (·.setS d v) := by
  have ⟨_, _, _, hfrom, _⟩ := h
  let write : Perf := fun c q s => ⟨s.modTask c q.slot (·.setS d v), 0, 0, .done⟩
  obtain ⟨t, ht, htask, hsem, honly⟩ := engine_effect (x := mx i caps) (ill := ill) (perf := write) h hy hill rfl hfrom rfl (fun _ => rfl)
  refine ⟨t, ?_, ?_, hsem, honly⟩
  · rw [hi, mx_ended h hy hill hperf, ← ht, mx_ended h hy hill rfl]; rfl
  · rw [htask, Issue.task_setS_freed _ _ _ hd rfl rfl]

/-! ## An MX entry that its array holds -/

theorem State.task_setCore_same (s : State) (c n : Nat) (k : Core) : (s.setCore c k).task c n = Tab.get Task.idle k.slots n := by
  rw [State.task, State.core_setCore_same]

/-- The state in which an entry stands in its queue and has not been tried. -/
def Issue.queued (x : Issue) (s : State) (c n : Nat) : State :=
  (s.modTask c n (x.task (s.now c))).modCore c fun k => { k with queue := k.queue ++ [x.entry c n true (s.task c n)] }

theorem Issue.queued_eq (x : Issue) (s : State) (c n : Nat) : x.queued s c n =
    s.setCore c { s.core c with slots := Tab.set (s.core c).slots n (x.task (s.now c) (s.task c n)),
                                queue := (s.core c).queue ++ [x.entry c n true (s.task c n)] } := by
  simp [Issue.queued, State.modTask, State.setTask, State.modCore, State.setCore_setCore]

/-- An MX entry of a READY task that has nothing else there can be worked on as soon as it stands in its queue. -/
theorem Issue.startable_queued {x : Issue} (he : x.eng = .mx) (hf : x.front = id) (hst : (s.task c n).st = .ready)
    (hfrozen : s.frozenUnit c = false) (hpend : (s.task c n).pendMx = none)
    (hq : ((s.core c).queue.all fun q => !(q.slot == n && q.eng == .mx)) = true) :
    (x.queued s c n).startable c (x.entry c n true (s.task c n)) = true := by
  obtain ⟨hkeeps, hasid⟩ := Issue.task_keeps x (s.now c) (s.task c n)
  simp only [hf, id_eq] at hkeeps hasid
  simp only [State.frozenUnit, Bool.or_eq_false_iff] at hfrozen
  obtain ⟨hhalt, hfreeze⟩ := hfrozen
  have hhalt := State.haltedUnit_setCore (l := (s.core c).queue ++ [x.entry c n true (s.task c n)]) (f := (s.core c).sems)
    (d := (s.core c).dcache) hhalt hst hasid
  have hfirst : (before (x.entry c n true (s.task c n)) ((s.core c).queue ++ [x.entry c n true (s.task c n)])).any
      (x.entry c n true (s.task c n)).follows = false :=
    follows_none (by rw [show (x.entry c n true (s.task c n)).eng = .mx from he]; exact hq) rfl ⟨rfl, rfl⟩
  have hpass : (before (x.entry c n true (s.task c n)) ((s.core c).queue ++ [x.entry c n true (s.task c n)])).any
      (fun e => (x.entry c n true (s.task c n)).follows e && !(x.entry c n true (s.task c n)).mayPass e) = false := by
    rw [List.any_eq_false] at hfirst ⊢
    intro e hmem; simp [hfirst e hmem]
  have hfree : ((x.task (s.now c) (s.task c n)).pend .mx).isNone = true := by rw [hkeeps]; simp [Task.pend, hpend]
  rw [Issue.queued_eq]
  simp only [State.startable, State.core_setCore_same, State.task_setCore_same, Bool.and_eq_true, Bool.not_eq_true']
  refine ⟨⟨⟨⟨⟨⟨⟨hhalt, ?_⟩, rfl⟩, rfl⟩, rfl⟩, ?_⟩, ?_⟩, hpass⟩
  · have hnone : (s.core c).freeze.isNone = true := by simpa using hfreeze
    simp only [State.mayFinish, State.core_setCore_same, hnone, Bool.true_or]
  · have heng : (x.entry c n true (s.task c n)).eng = .mx := he
    have hslot : (x.entry c n true (s.task c n)).slot = n := rfl
    rw [heng, hslot, Tab.get_set_same, hfree, Bool.true_or]
  · simp [State.lwLocked, Issue.entry, he]

/-- The queues have no entry of a slot in an engine: its reserved place is free (R210). -/
theorem reservedFree_of_none {l : List Entry} {n : Nat} {e : Eng} (h : (l.all fun q => !(q.slot == n && q.eng == e)) = true) :
    reservedFree l e n = true := by
  have hnil : l.filter (fun q => q.eng == e && q.slot == n) = [] := by
    rw [List.filter_eq_nil_iff]
    intro q hq
    have hother : (q.slot == n && q.eng == e) = false := by simpa only [Bool.not_eq_true'] using List.all_eq_true.mp h q hq
    rw [Bool.and_comm, hother]; exact Bool.false_ne_true
  simp [reservedFree, engCount, hnil]

/-- Without another MX entry the new one finds the engine free (R392). -/
theorem mxBusy_append {l : List Entry} {q : Entry} (h : (l.all fun e => e.eng != .mx) = true) : mxBusy (l ++ [q]) q = false := by
  rw [mxBusy, List.any_append, Bool.or_eq_false_iff, List.any_eq_false]
  refine ⟨fun e he => ?_, by simp [Entry.same_self]⟩
  have hother : (e.eng == .mx) = false := by simpa using List.all_eq_true.mp h e he
  simp [hother]

/-- An MX entry that has not started waits for the one under way, and else for its array, whose wake it asks for (R35, R392). -/
theorem State.mxHold_mx {t : State} {c : Nat} {q : Entry} (he : q.eng = .mx) (hs : q.started = false) :
    (mxBusy (t.core c).queue q = true → t.mxHold c q = some t) ∧
    (mxBusy (t.core c).queue q = false →
      (t.arrayGate c = .gated → t.mxHold c q = some (t.setGate c .waking)) ∧
      (t.arrayGate c = .gating ∨ t.arrayGate c = .waking → t.mxHold c q = some t) ∧ (t.arrayGate c = .awake → t.mxHold c q = none)) := by
  have hmx : (q.eng != .mx || q.started) = false := by rw [he, hs]; rfl
  simp only [State.mxHold, hmx, Bool.false_eq_true, if_false]
  refine ⟨fun hb => by rw [if_pos hb], fun hb => ?_⟩
  rw [hb]
  refine ⟨fun hg => by rw [hg]; rfl, fun hg => ?_, fun hg => by rw [hg]; rfl⟩
  rcases hg with hg | hg <;> rw [hg] <;> rfl

/-- An MX instruction that finds its array gated stands in the queue and asks for the wake. -/
theorem mx_wakes (h : EngineReady (s.setGate c .awake) c n y .mx) (hill : ill (s.task c n) = false) (hg : s.arrayGate c = .gated) :
    engine ill (mx i caps) perf s = .next (((mx i caps).queued s c n).setGate c .waking) := by
  obtain ⟨hcur, hst, -, -, -, -, hdefer, hfrozen, hpend, hq, hmx, -⟩ := h
  simp only [State.cur_setGate, State.deferStart_setGate, State.task_setGate, State.core_setGate_same, State.frozenUnit_setGate]
    at hcur hdefer hst hfrozen hpend hq hmx
  have hfree := reservedFree_of_none hq
  have hstart := Issue.startable_queued (x := mx i caps) rfl rfl hst hfrozen (by simpa [Task.pend] using hpend) hq
  have hbusy : mxBusy (((mx i caps).queued s c n).core c).queue ((mx i caps).entry c n true (s.task c n)) = false := by
    rw [Issue.queued_eq, State.core_setCore_same]; exact mxBusy_append (hmx trivial).2
  have hgate : ((mx i caps).queued s c n).arrayGate c = .gated := by
    rw [← hg, Issue.queued_eq]
    refine State.arrayGate_congr (by rw [State.core_setCore_same]) fun j => ?_
    by_cases hj : j = c
    · rw [hj, State.core_setCore_same]
    · rw [State.core_setCore_ne _ _ _ _ hj]
  have hhold : ((mx i caps).queued s c n).mxHold c ((mx i caps).entry c n true (s.task c n)) =
      some (((mx i caps).queued s c n).setGate c .waking) := by
    exact ((State.mxHold_mx rfl rfl).2 hbusy).1 hgate
  have hissue : engine ill (mx i caps) perf s =
      .next (((mx i caps).queued s c n).tryEntry perf c ((mx i caps).entry c n true (s.task c n))) := by
    have hroom : queueRoom (s.core c).queue .mx n = true := by rw [queueRoom, hfree, Bool.true_or]
    simp only [engine, hcur, hill, hroom, hfree, mx, State.modCore_deferStart, State.modTask_deferStart, hdefer, if_true, if_false,
      Bool.false_eq_true]
    rfl
  rw [hissue, State.tryEntry, if_pos hstart, hhold]

end

/-! ## The values of MXMODE and MXCHK -/

theorem Core.modeWord_eq (k : Core) : k.modeWord = BitVec.ofNat 64 (k.isat.toNat * 2 ^ 32 + k.mxmode.toNat % 2) := by
  apply BitVec.eq_of_toNat_eq
  have hm : k.mxmode.toNat % 2 < 2 ^ 32 := by omega
  have h1 : (k.mxmode &&& 1).toNat = k.mxmode.toNat % 2 := by simp [Nat.and_one_is_mod]
  rw [Core.modeWord, BitVec.toNat_or, h1, BitVec.toNat_ofNat]
  cases k.isat
  · simp; omega
  · rw [Nat.or_comm]
    exact (Nat.shiftLeft_add_eq_or_of_lt hm 1).symm.trans (by simp; omega)

theorem capS_setWidth (t : Task) (r : SReg) : (capS t r).setWidth 64 = t.sreg r := by simp [capS]

/-! ## What the MX engine performs (R403 to R406) -/

theorem runMxagen_write {g : GReg} {r : SReg} {c : Nat} {q : Entry} {s : State} {v : Word} (hv : q.o1.setWidth 64 = v)
    (h1 : v.extractLsb' 44 20 = 0) (h2 : v.extractLsb' 0 5 = 0) (h3 : (v.extractLsb' 21 3).toNat < 6) : runMxagen (.write g r) c q s =
      ⟨s.modCore c fun e => { e with ags := Tab.set e.ags g.val (v.setWidth 44) }, 0, 0, .done⟩ := by
  have hok : ¬(v.extractLsb' 44 20 ≠ 0 ∨ v.extractLsb' 0 5 ≠ 0 ∨ 6 ≤ (v.extractLsb' 21 3).toNat) := by
    rintro (h | h | h)
    exacts [h h1, h h2, absurd h (by omega)]
  simp only [runMxagen, hv, if_neg hok]

/-- The four forms of MXMODE: the register written, the one that gives the mode, whether IMODE is set and whether ISAT is cleared (R404). -/
def ModeForm (op : ModeOp) (d a : SReg) (set clr : Bool) : Prop :=
  (op = .read d ∧ set = false ∧ clr = false) ∨ (op = .set d a ∧ set = true ∧ clr = false) ∨
  (op = .clri d ∧ set = false ∧ clr = true) ∨ (op = .setclri d a ∧ set = true ∧ clr = true)

/-- MXMODE by its form: the old values read, then what the form sets and clears. -/
theorem runMxmode_eq {op : ModeOp} {d a : SReg} {set clr : Bool} {c : Nat} {q : Entry} {s : State} {v : Word}
    (hop : ModeForm op d a set clr) (hv : set = true → q.o1.setWidth 64 = v ∧ v.toNat < 2) : runMxmode op c q s =
      ⟨(s.modCore c fun e => { e with mxmode := if set then v else e.mxmode, isat := e.isat && !clr }).modTask c q.slot
        fun t => t.setS d (s.core c).modeWord, 0, 0, .done⟩ := by
  have hhigh : v.toNat < 2 → (v.extractLsb' 1 63 != 0) = false := fun h => by
    rw [bne_eq_false_iff_eq, ← BitVec.toNat_inj, BitVec.extractLsb'_toNat, Nat.shiftRight_eq_div_pow]
    simp; omega
  rcases hop with ⟨rfl, rfl, rfl⟩ | ⟨rfl, rfl, rfl⟩ | ⟨rfl, rfl, rfl⟩ | ⟨rfl, rfl, rfl⟩
  · rfl
  · obtain ⟨hw, hlt⟩ := hv rfl
    simp only [runMxmode, hw, hhigh hlt]; rfl
  · rfl
  · obtain ⟨hw, hlt⟩ := hv rfl
    simp only [runMxmode, hw, hhigh hlt]; rfl

/-- A member and a logical half in the three low bits of MXCHK's operand (R405). -/
theorem mxchk_operand {v : Word} (h8 : v.toNat < 8) : v.extractLsb' 3 61 = 0 ∧ (v.extractLsb' 0 2).toNat = v.toNat % 4 := by
  refine ⟨?_, by simp [BitVec.extractLsb'_toNat]⟩
  rw [← BitVec.toNat_inj, BitVec.extractLsb'_toNat, Nat.shiftRight_eq_div_pow]
  simp; omega

section
variable {c : Nat} {q : Entry} {s : State} {v : Word} {p : Nat} {un : Bool}

theorem runMxchk_read {d a : SReg} (hv : q.o1.setWidth 64 = v) (h8 : v.toNat < 8) (hm : v.toNat % 4 < (s.core c).mode.size)
    (hp : s.physHalf (c + v.toNat % 4) (v.getLsbD 2) = (p, un)) :
    runMxchk (.read d a) c q s = ⟨s.modTask c q.slot fun t => t.setS d ((s.half p).word un), 0, 0, .done⟩ := by
  obtain ⟨hhigh, hlow⟩ := mxchk_operand h8
  simp only [runMxchk, hv, hlow, hhigh, not_le.mpr hm, ne_eq, not_true_eq_false, or_self, if_false, hp]

theorem runMxchk_set {a : SReg} {off clr : Bool} (hv : q.o1.setWidth 64 = v) (h8 : v.toNat < 8) (hm : v.toNat % 4 < (s.core c).mode.size)
    (hp : s.physHalf (c + v.toNat % 4) (v.getLsbD 2) = (p, un)) : runMxchk (.set a off clr) c q s =
      ⟨s.setHalf p { s.half p with chkoff := off, corr := if clr then 0 else (s.half p).corr }, 0, 0, .done⟩ := by
  obtain ⟨hhigh, hlow⟩ := mxchk_operand h8
  simp only [runMxchk, hv, hlow, hhigh, not_le.mpr hm, ne_eq, not_true_eq_false, or_self, if_false, hp]

end

/-- MXIDLE waits for its array's gating, which it starts where the array is awake (R35, R406). -/
theorem runMxidle_eq (c : Nat) (q : Entry) (s : State) :
    (s.arrayGate c = .awake → runMxidle c q s = ⟨s.setGate c .gating, 0, 0, .stall⟩) ∧ (s.arrayGate c = .gated → runMxidle c q s = ⟨s, 0, 0, .done⟩) ∧
    (s.arrayGate c = .gating ∨ s.arrayGate c = .waking → runMxidle c q s = ⟨s, 0, 0, .stall⟩) := by
  refine ⟨fun hg => by simp only [runMxidle, hg], fun hg => by simp only [runMxidle, hg], fun hg => ?_⟩
  rcases hg with hg | hg <;> simp only [runMxidle, hg]

/-- MXMODE of a ready engine, by what its form captures, sets and clears. -/
theorem exec_mxmode {op : ModeOp} {d a : SReg} {set clr : Bool} {s : State} {c n : Nat} {y : Sync} {caps : Task → List (BitVec 128)} {v : Word}
    (h : EngineReady s c n y .mx) (hop : ModeForm op d a set clr)
    (hexec : exec (.mxmode y op) s = engine legal (mx (.mxmode y op) caps) (runMxmode op) s)
    (hv : set = true → ((caps (s.task c n)).getD 1 0).setWidth 64 = v ∧ v.toNat < 2) : exec (.mxmode y op) s =
      .next ((mx (.mxmode y op) caps).ended s c n y
        ((((mx (.mxmode y op) caps).begun s c n y).modCore c fun e => { e with mxmode := if set then v else e.mxmode, isat := e.isat && !clr }).modTask
          c n fun t => t.setS d (BitVec.ofNat 64 ((s.core c).isat.toNat * 2 ^ 32 + (s.core c).mxmode.toNat % 2))) 0) := by
  rw [hexec]
  refine mx_ended h rfl rfl ((runMxmode_eq hop hv).trans ?_)
  rw [Core.modeWord_eq, Issue.begun_core]; rfl

/-! ## The statement -/

/-- Settles O40: each instruction by what its engine performs in the state in which its entry starts, which the issue leaves as it was but for
tasks, semaphores, data cache and queue of the unit. -/
theorem matrixState : Obligations.matrix_state := by
  refine ⟨?ready, ?gated, ?hold, ?performed⟩
  case ready =>
    rintro s c n y g sd sa off clr k K v x p un h rfl rfl rfl
    refine ⟨fun h1 h2 h3 hx => ?agen, ?agenRead, fun op set clr' hop hx hset => ?mode,
      fun h8 hm hp => ⟨?chkRead, fun hpriv hx => ?chk, fun hpriv => ?user⟩, fun hx => ?idle⟩
    case agen =>
      subst hx
      exact mx_ended h rfl rfl (runMxagen_write (capS_setWidth ..) h1 h2 h3)
    case agenRead =>
      refine runs_mx_setS h rfl rfl rfl rfl ?_
      rw [runMxagen, Issue.begun_core]; rfl
    case mode =>
      subst hx
      rcases hop with ⟨rfl, rfl, rfl⟩ | ⟨rfl, rfl, rfl⟩ | ⟨rfl, rfl, rfl⟩ | ⟨rfl, rfl, rfl⟩
      · exact exec_mxmode (a := sa) h (.inl ⟨rfl, rfl, rfl⟩) rfl nofun
      · exact exec_mxmode h (.inr (.inl ⟨rfl, rfl, rfl⟩)) rfl fun hs => ⟨capS_setWidth .., hset hs⟩
      · exact exec_mxmode (a := sa) h (.inr (.inr (.inl ⟨rfl, rfl, rfl⟩))) rfl nofun
      · exact exec_mxmode h (.inr (.inr (.inr ⟨rfl, rfl, rfl⟩))) rfl fun hs => ⟨capS_setWidth .., hset hs⟩
    case chkRead =>
      refine runs_mx_setS h rfl rfl rfl rfl ((runMxchk_read (capS_setWidth ..) h8 ?_ ((Issue.begun_physHalf ..).trans hp)).trans ?_)
      · rw [Issue.begun_core]; exact hm
      · rw [Issue.begun_half]; rfl
    case chk =>
      subst hx
      refine mx_ended h rfl (by rw [chkIllegal, hpriv]; rfl) ((runMxchk_set (capS_setWidth ..) h8 ?_ ((Issue.begun_physHalf ..).trans hp)).trans ?_)
      · rw [Issue.begun_core]; exact hm
      · rw [Issue.begun_half]
    case user =>
      have hill : chkIllegal (.set sa off clr) (s.task c n) = true := by rw [chkIllegal, hpriv]; rfl
      have ⟨hcur, _⟩ := h
      show engine _ _ _ s = _
      simp only [engine, hcur, hill, if_true]
    case idle =>
      subst hx
      have hawake := (Issue.begun_arrayGate (mx (.mxidle y) noCaps) s c n y).trans h.awake
      refine (mx_performed h rfl rfl).trans ?_
      rw [Issue.performed, (runMxidle_eq ..).1 hawake]
  case gated =>
    rintro s c n y x h hg rfl
    exact mx_wakes h rfl hg
  case hold => exact fun t c q he hs => State.mxHold_mx he hs
  case performed => exact fun t c q => (runMxidle_eq c q t).2

end Sys2Proof.Machine
end

section
/-! SUPPORT. What accesses to memory, translation and the records of events leave alone: the steady part of the state, one lemma per operation,
up to a device-level fault (R93) and an entry of the tidemark log (R96). -/

namespace Sys2Proof.Machine

/-- The state without what an access, its translation, a record of an event or the end of work can change: memory, the units, the translation
caches and requests, the logs but for the tidemark log's HEAD, the completions, the sweeps and the work in flight. -/
def State.steady (s : State) : State :=
  { s with
    freeCtr := 0, cores := [], images := [], hbm := {}, host := {}, xltAns := [], tlb := [], xlts := [], zclWait := false, hostLog := []
    strand := [], strcount := 0, tide := { head := s.tide.head }, lpages := [], sweeps := [], words := [], flood := {}, outst := [], xfers := []
    ords := [], ingress := [], faults := [] }

theorem State.faulted_of_steady {s t : State} (h : t.steady = s.steady) : t.faulted = s.faulted :=
  show t.steady.faulted = s.steady.faulted by rw [h]

theorem State.head_of_steady {s t : State} (h : t.steady = s.steady) : t.tide.head = s.tide.head :=
  show t.steady.tide.head = s.steady.tide.head by rw [h]

theorem State.steady_foldl {α : Type} {f : State → α → State} (hf : ∀ s a, (f s a).steady = s.steady) (l : List α) (s : State) :
    (l.foldl f s).steady = s.steady :=
  foldl_keeps (fun t : State => t.steady = s.steady) f (fun _ a h => (hf _ a).trans h) l s rfl

@[simp] theorem State.steady_ite (p : Prop) [Decidable p] (s t : State) :
    (if p then s else t).steady = if p then s.steady else t.steady := apply_ite ..

/-! ## Memory -/

theorem State.steady_hbm (s : State) (h : Hbm) : ({ s with hbm := h } : State).steady = s.steady := rfl

@[simp] theorem State.steady_modCore (s : State) (c : Nat) (f : Core → Core) : (s.modCore c f).steady = s.steady := rfl
@[simp] theorem State.steady_modTask (s : State) (c n : Nat) (f : Task → Task) : (s.modTask c n f).steady = s.steady := rfl
@[simp] theorem State.steady_setBank (s : State) (b : Nat) (x : Bank) : (s.setBank b x).steady = s.steady := rfl
@[simp] theorem State.steady_setStack (s : State) (k : Nat) (x : Stack) : (s.setStack k x).steady = s.steady := rfl
@[simp] theorem State.steady_setLpage (s : State) (k : Nat) (x : LPage) : (s.setLpage k x).steady = s.steady := rfl
@[simp] theorem State.steady_modSweep (s : State) (id : BitVec 32) (f : Sweep → Sweep) : (s.modSweep id f).steady = s.steady := rfl

@[simp] theorem State.steady_setHbm (s : State) (d : Nat) (bs : List Byte) : (s.setHbm d bs).steady = s.steady := rfl
@[simp] theorem State.steady_setSpTag (s : State) (u o : Nat) (t : BitVec 8) : (s.setSpTag u o t).steady = s.steady := rfl

@[simp] theorem State.steady_setSpBytes (s : State) (u o : Nat) (bs : List Byte) : (s.setSpBytes u o bs).steady = s.steady := by
  induction bs generalizing s o with
  | nil => rfl
  | cons b bs ih => exact ih (s.setSpByte u o b) (o + 1)

@[simp] theorem State.steady_putHbm (s : State) (d : Nat) (bs : List Byte) (k : Option (BitVec 12)) :
    (s.putHbm d bs k).steady = s.steady := by
  cases k with
  | none => exact s.steady_setHbm d bs
  | some k =>
    simp only [State.putHbm, State.steady_ite]
    rw [State.steady_foldl, ite_self]
    exact fun t i => State.steady_setHbm ..

@[simp] theorem State.steady_setPoison (s : State) (p : Place) (b : Bool) : (s.setPoison p b).steady = s.steady := by
  cases p <;> rfl

@[simp] theorem State.steady_freshSector (s : State) (p : Place) : (s.freshSector p).steady = s.steady := by
  cases p <;> rfl

@[simp] theorem State.steady_mergePoison (s : State) (via : Place → Place) (p : Place) (n : Nat) (f : Nat → Bool) :
    (s.mergePoison via p n f).steady = s.steady := by
  simp only [State.mergePoison, State.steady_ite]
  rw [State.steady_foldl fun t i => by simp, ite_self]

@[simp] theorem State.steady_writeRaw (s : State) (p : Place) (bs : List Byte) : (s.writeRaw p bs).steady = s.steady := by
  cases p with
  | spm u o => exact s.steady_setSpBytes u o bs
  | hbm d k => exact s.steady_putHbm d bs k
  | host a => rfl
  | img w u o => rfl

@[simp] theorem State.steady_tagFrames (s : State) (p : Place) (n : Nat) (t : BitVec 8) : (s.tagFrames p n t).steady = s.steady := by
  cases p with
  | spm u o =>
    simp only [State.tagFrames, State.setSpTags, State.steady_ite]
    rw [State.steady_foldl, ite_self]
    exact fun t i => State.steady_setSpTag ..
  | hbm d k => rfl
  | host a => rfl
  | img w u o => simp only [State.tagFrames]; split <;> rfl

@[simp] theorem State.steady_writeTag (s : State) (p : Place) (bs : List Byte) (f : Nat → Bool) (t : BitVec 8) :
    (s.writeTag p bs f t).steady = s.steady := by simp [State.writeTag]

@[simp] theorem State.steady_write (s : State) (p : Place) (bs : List Byte) : (s.write p bs).steady = s.steady :=
  s.steady_writeTag p bs _ 0

@[simp] theorem State.steady_writeAllTag (s : State) (bs : List Byte) (f : Nat → Bool) (t : BitVec 8) (l : Pieces) :
    (s.writeAllTag bs f t l).steady = s.steady := by
  induction l generalizing s bs f with
  | nil => rfl
  | cons x l ih => simp only [State.writeAllTag, ih, State.steady_writeTag]

/-! ## Banks -/

@[simp] theorem State.steady_lineUp (s : State) (b : Nat) (w : Waiter) : (s.lineUp b w).steady = s.steady := by simp [State.lineUp]

@[simp] theorem State.steady_usePass (s : State) (u b : Nat) : (s.usePass u b).steady = s.steady := by simp [State.usePass]

theorem State.steady_enterBank {s t : State} {u b : Nat} (h : s.enterBank u b = some t) : t.steady = s.steady := by
  simp only [State.enterBank] at h
  split at h
  · obtain rfl := Option.some.inj h; simp
  · cases h

theorem State.steady_findRow {s t : State} {d : Nat} (h : s.findRow d = some t) : t.steady = s.steady := by
  simp only [State.findRow] at h
  split at h
  · obtain rfl := Option.some.inj h; rfl
  · split at h
    · obtain rfl := Option.some.inj h; rfl
    · cases h

theorem State.steady_useRow {s t : State} {u d : Nat} (h : s.useRow u d = some t) : t.steady = s.steady := by
  obtain ⟨v, hv, ht⟩ := Option.bind_eq_some_iff.mp h
  exact (State.steady_findRow ht).trans (State.steady_enterBank hv)

theorem State.steady_useRows {u : Nat} {l : List Nat} {s t : State} (h : useRows u l s = .ok t) : t.steady = s.steady := by
  induction l generalizing s with
  | nil => obtain rfl := Except.ok.inj h; rfl
  | cons d l ih =>
    simp only [useRows] at h
    split at h
    · next v hv => exact (ih h).trans (State.steady_useRow hv)
    · cases h

theorem State.steady_alsoRow {s b t : State} {d : Nat} (h : s.alsoRow b d = some t) : t.steady = s.steady := by
  simp only [State.alsoRow] at h
  split at h
  · exact (State.steady_findRow h).trans (by simp)
  · cases h

theorem State.steady_tryWrite {s t : State} {d : Nat} {bs : List Byte} (h : s.tryWrite d bs = some t) : t.steady = s.steady := by
  simp only [State.tryWrite] at h
  split at h
  · next v hv => obtain rfl := Option.some.inj h; rw [State.steady_write, State.steady_useRows hv]
  · cases h

theorem State.steady_retryWaits (l : List (Nat × List Byte)) (s : State) : (retryWaits l s).steady = s.steady := by
  induction l generalizing s with
  | nil => rfl
  | cons w l ih =>
    simp only [retryWaits]
    split
    · next v hv => exact (ih _).trans ((v.steady_hbm _).trans (State.steady_tryWrite hv))
    · simp

@[simp] theorem State.steady_mgmtWrite (s : State) (d : Nat) (bs : List Byte) : (s.mgmtWrite d bs).steady = s.steady :=
  State.steady_retryWaits _ _

/-! ## Records of events and the errors that a read finds -/

@[simp] theorem State.steady_evt (s : State) (v : BitVec 12) : (s.evt v).steady = s.steady := rfl

@[simp] theorem State.steady_strandEvent (s : State) (ty source : Nat) (detail : List Byte) :
    (s.strandEvent ty source detail).steady = s.steady := rfl

@[simp] theorem State.steady_tideRaw (s : State) (ty source : Nat) (detail : List Byte) :
    (s.tideRaw ty source detail).steady = s.steady := by
  simp only [State.tideRaw]
  exact State.steady_mgmtWrite s _ _

@[simp] theorem State.steady_tideUpTo (s : State) (bound ty source : Nat) (detail : List Byte) :
    (s.tideUpTo bound ty source detail).steady = s.steady := by
  simp only [State.tideUpTo]
  split
  · rfl
  · split <;> simp

@[simp] theorem State.steady_tideEvent (s : State) (ty source : Nat) (detail : List Byte) :
    (s.tideEvent ty source detail).steady = s.steady := s.steady_tideUpTo _ _ _ _

@[simp] theorem State.steady_poisonEvent (s : State) (d agent core : Nat) : (s.poisonEvent d agent core).steady = s.steady := by
  simp [State.poisonEvent]

@[simp] theorem State.steady_uncorrectable (s : State) (d agent core : Nat) : (s.uncorrectable d agent core).steady = s.steady := by
  simp [State.uncorrectable]

@[simp] theorem State.steady_corrected (s : State) (d : Nat) : (s.corrected d).steady = s.steady := by
  simp [State.corrected]

@[simp] theorem State.steady_readSector (s : State) (sector agent core : Nat) : (s.readSector sector agent core).steady = s.steady := by
  simp only [State.readSector]
  split <;> simp

@[simp] theorem State.steady_mergeRead (s : State) (l : Pieces) : (s.mergeRead l).steady = s.steady := by
  induction l generalizing s with
  | nil => rfl
  | cons x l ih =>
    obtain ⟨p, n⟩ := x
    cases p with
    | hbm d k => simp [State.mergeRead, ih]
    | spm u o => exact ih s
    | host a => exact ih s
    | img w u o => exact ih s

@[simp] theorem State.steady_readSectors (s : State) (agent core : Nat) (l : Pieces) :
    (s.readSectors agent core l).steady = s.steady := by
  induction l generalizing s with
  | nil => rfl
  | cons x l ih =>
    obtain ⟨p, n⟩ := x
    cases p with
    | hbm d k =>
      simp only [State.readSectors]
      split
      · exact ih s
      · exact (ih _).trans (State.steady_foldl (fun _ _ => by simp) _ _)
    | spm u o => exact ih s
    | host a => exact ih s
    | img w u o => exact ih s

/-! ## Translation -/

theorem State.steady_walkRead (s b : State) (d : Nat) (k : Bool) : (s.walkRead b d k).1.steady = s.steady := by
  simp only [State.walkRead]
  split
  · rfl
  · next v hv => rw [← State.steady_alsoRow hv]; split <;> simp

theorem steady_walkChain (b : State) (k : Bool) (asid : BitVec 16) (va : Addr) (sz fuel f : Nat) (found : Option Found) (s : State) :
    (walkChain b k asid va sz fuel f found s).1.steady = s.steady := by
  induction fuel generalizing f found s with
  | zero => rw [walkChain]; split <;> rfl
  | succ fuel ih =>
    rw [walkChain]
    have hread := s.steady_walkRead b (iptDpa f) k
    split
    · rfl
    split
    · rfl
    split
    · next v e hv => rw [hv] at hread; exact hread
    · next v hv =>
      rw [hv] at hread
      dsimp only
      split
      · exact hread
      · split
        · exact hread
        · exact (ih ..).trans hread

theorem steady_walkSize (s b : State) (k : Bool) (asid : BitVec 16) (va : Addr) (sz : Nat) (found : Option Found) :
    (walkSize s b k asid va sz found).1.steady = s.steady := by
  have hread := s.steady_walkRead b (anchorDpa (anchorIndex asid sz va)) k
  rw [walkSize]
  dsimp only
  split
  · next v e hv => rw [hv] at hread; exact hread
  · next v hv =>
    rw [hv] at hread
    split
    · exact hread
    · exact (steady_walkChain ..).trans hread

theorem steady_walkSizes (b : State) (k : Bool) (asid : BitVec 16) (va : Addr) (l : List Nat) (found : Option Found) (s : State) :
    (walkSizes b k asid va l found s).1.steady = s.steady := by
  induction l generalizing found s with
  | nil => rfl
  | cons sz l ih =>
    have hsize := steady_walkSize s b k asid va sz found
    rw [walkSizes]
    split
    · next v f hv => rw [hv] at hsize; exact (ih f v).trans hsize
    · exact hsize

theorem steady_walk (s : State) (k : Bool) (asid : BitVec 16) (va : Addr) : (walk s k asid va).1.steady = s.steady := by
  have hsizes := steady_walkSizes s k asid va [0, 1, 2] none s
  rw [walk]
  split
  · rfl
  all_goals next hv => rw [hv] at hsizes; exact hsizes

@[simp] theorem State.steady_fillTlb (s : State) (e : TlbEntry) : (s.fillTlb e).steady = s.steady := by
  have hevict : ∀ (t : State) k, (t.evict k).steady = t.steady := fun t k => by
    simp only [State.evict]
    split
    · rfl
    · split <;> rfl
  exact hevict _ _

theorem steady_walkDevice (s : State) (x : Acc) (va : Addr) (k : Bool) : (walkDevice s x va k).1.steady = s.steady := by
  have hwalk := steady_walk s k x.asid va
  rw [walkDevice]
  split
  · split
    all_goals next hv => rw [hv] at hwalk; simpa using hwalk
  · rfl

theorem steady_xlateDevice (s : State) (x : Acc) (va : Addr) (k : Bool) : (xlateDevice s x va k).1.steady = s.steady := by
  rw [xlateDevice]
  split
  · split
    · rfl
    · exact steady_walkDevice ..
  · exact steady_walkDevice ..

@[simp] theorem State.steady_sendXlt (s : State) (p : Nat) (asid : BitVec 16) (va : Addr) : (s.sendXlt p asid va).steady = s.steady := by
  simp only [State.sendXlt, State.steady_ite]
  split <;> rfl

@[simp] theorem State.steady_takeNote (s : State) (asid : BitVec 16) (v : Nat) : (s.takeNote asid v).steady = s.steady := rfl

theorem steady_hostPlace (s : State) (e : TlbEntry) (va : Addr) (p : Nat) : (hostPlace s e va p).1.steady = s.steady := by
  rw [hostPlace]; split <;> rfl

theorem steady_xlateHost (s : State) (x : Acc) (va : Addr) : (xlateHost s x va).1.steady = s.steady := by
  rw [xlateHost]
  split
  · rfl
  · extract_lets a pasid vpage note ask viaAtc
    clear_value note
    have hask : ask.1.steady = s.steady := by
      simp only [ask]
      split
      · split
        · rfl
        · rfl
        · split
          · exact s.steady_sendXlt ..
          · rfl
      · rfl
    have hatc : viaAtc.1.steady = s.steady := by
      simp only [viaAtc]
      split
      · split
        · rw [steady_hostPlace, State.steady_fillTlb, State.steady_takeNote]
        · split
          · rfl
          · exact hask
      · exact hask
    split
    · split
      · exact steady_hostPlace ..
      · exact hatc
    · exact hatc

theorem steady_xlate (s : State) (x : Acc) (va : Addr) (n : Nat) (k : Bool) : (xlate s x va n k).1.steady = s.steady := by
  rw [xlate]
  split
  · rfl
  · exact steady_xlateHost ..
  · exact steady_xlateDevice ..

theorem steady_pieces (x : Acc) (fuel : Nat) (s : State) (va : Addr) (n : Nat) : (pieces x fuel s va n).1.steady = s.steady := by
  induction fuel generalizing s va n with
  | zero => rfl
  | succ fuel ih =>
    have hxlate := steady_xlate s x va (Nat.min n (4096 - va.toNat % 4096)) true
    rw [pieces]
    dsimp only
    split
    · rfl
    split
    · next hv => rw [hv] at hxlate; exact hxlate
    · next v p hv =>
      have hrest := ih v (va + BitVec.ofNat 80 (Nat.min n (4096 - va.toNat % 4096))) (n - Nat.min n (4096 - va.toNat % 4096))
      rw [hv] at hxlate
      split
      all_goals next hw => rw [hw] at hrest; exact hrest.trans hxlate

theorem steady_locate (s : State) (x : Acc) (va : Addr) (n : Nat) : (locate s x va n).1.steady = s.steady := by
  rw [locate]
  split
  · rfl
  split
  · rfl
  split
  · split <;> rfl
  · exact steady_pieces ..

@[simp] theorem State.steady_touch (s : State) (x : Acc) (l : Pieces) : (s.touch x l).steady = s.steady := by
  have hwrites : ∀ t : State, (t.engineWrites x l).steady = t.steady := fun t => by
    rw [State.engineWrites]
    split
    · simp [State.dropLines]
    all_goals rfl
  simp [State.touch, hwrites]

@[simp] theorem State.steady_awaitBank (s : State) (x : Acc) (b : Nat) : (s.awaitBank x b).steady = s.steady := by
  simp [State.awaitBank]

theorem steady_resolve (s : State) (x : Acc) (va : Addr) (n : Nat) : (resolve s x va n).1.steady = s.steady := by
  have hlocate := steady_locate s x va n
  rw [resolve]
  split
  · next hv => rw [hv] at hlocate; simpa using hlocate
  · next v l hv =>
    rw [hv] at hlocate
    split
    · exact hlocate
    · dsimp only
      split
      · next hw => rw [State.steady_touch, State.steady_useRows hw]; exact hlocate
      · rw [State.steady_awaitBank]; exact hlocate
  · exact hlocate

/-! ## Completions (R88, R89, R93, R157) -/

@[simp] theorem State.steady_dropSweep (s : State) (id : BitVec 32) : (s.dropSweep id).steady = s.steady := rfl
@[simp] theorem State.steady_keepWord (s : State) (w : PendWord) : (s.keepWord w).steady = s.steady := rfl
@[simp] theorem State.steady_wordFault (s : State) (w : PendWord) (sub : BitVec 8) : (s.wordFault w sub).steady = s.steady := rfl

@[simp] theorem State.steady_wordDone (s : State) (w : PendWord) : (s.wordDone w).steady = s.steady := by
  rw [State.wordDone]; split <;> rfl

@[simp] theorem State.steady_storeWord (s : State) (w : PendWord) : (s.storeWord w).steady = s.steady := by
  have hresolve := steady_resolve s (mgmtAcc w.asid true) w.notify 8
  rw [State.storeWord]
  split
  · simp
  · split
    all_goals next hv => rw [hv] at hresolve; simpa [State.writeAll] using hresolve

@[simp] theorem State.steady_writeWord (s : State) (asid : BitVec 16) (a : Addr) (st r : BitVec 8) (n : Nat) (c : Option (BitVec 32)) :
    (s.writeWord asid a st r n c).steady = s.steady := by simp [State.writeWord]

@[simp] theorem State.steady_writeComp (s : State) (k : Nat) (r : CompRec) : (s.writeComp k r).steady = s.steady := by
  simp [State.writeComp]

theorem steady_flushRing (k fuel : Nat) (s : State) : (flushRing k fuel s).steady = s.steady := by
  induction fuel generalizing s with
  | zero => rfl
  | succ fuel ih =>
    rw [flushRing]
    split
    · rfl
    · split
      · rfl
      · rw [ih]; simp

@[simp] theorem State.steady_pushComp (s : State) (k : Nat) (r : CompRec) : (s.pushComp k r).steady = s.steady := by
  rw [State.pushComp, steady_flushRing]; simp

@[simp] theorem State.steady_tryComplete (s : State) (id : BitVec 32) : (s.tryComplete id).steady = s.steady := by
  rw [State.tryComplete]
  split
  · rfl
  split
  · rfl
  split
  · rfl
  dsimp only
  split <;> simp

theorem steady_faultSweeps (r : BitVec 8) (l : List Sweep) (s : State) : (faultSweeps r l s).steady = s.steady := by
  induction l generalizing s with
  | nil => rfl
  | cons w l ih => rw [faultSweeps, ih]; simp

/-! ## Device-level faults (R5, R93) -/

@[simp] theorem State.steady_rowBack (s : State) (d : Nat) : (s.rowBack d).steady = s.steady := by
  rw [State.rowBack]
  refine (State.steady_hbm _ _).trans ((State.steady_hbm _ _).trans (State.steady_foldl (fun t i => ?_) _ _))
  simp

@[simp] theorem State.steady_closeBank (s : State) (c b : Nat) : (s.closeBank c b).steady = s.steady := rfl

@[simp] theorem State.steady_discardWork (s : State) (b : Bool) : (s.discardWork b).steady = s.steady := by
  have hlatches : (if b then s.preLatches else s.loseLatches).steady = s.steady := by
    rw [State.steady_ite, State.preLatches, State.steady_hbm, State.steady_foldl fun t e => by simp]
    exact ite_self _
  exact (State.steady_foldl (fun t (r : Nat × Nat) => t.steady_closeBank r.1 r.2) _ _).trans hlatches

@[simp] theorem State.steady_faultEvents (s : State) : s.faultEvents.steady = s.steady :=
  State.steady_foldl (fun t e => by simp) _ _

/-- A device-level fault is outstanding after it has come. -/
theorem State.faulted_deviceFault (s : State) (r : BitVec 8) : (s.deviceFault r).faulted = true := by
  rw [State.deviceFault]
  split
  · assumption
  · exact State.faulted_of_steady (s := { s with faulted := true, freason := r }) <|
      (State.steady_faultEvents _).trans ((steady_faultSweeps ..).trans (State.steady_discardWork _ _))

end Sys2Proof.Machine
end

section
/-! SUPPORT. Power, boot, reset, clocks and gating (R23, R31 to R35, R38, R58, R92, R94, R97): what each event leads to, by the hypothesis under which
it does something, and the statement O48. -/

namespace Sys2Proof.Machine

/-! ## Boot (R40, R58, R92) -/

theorem Tab.get_map_mem {α : Type} (d : α) (f : Nat → α) {l : List Nat} {i : Nat} (h : i ∈ l) : Tab.get d (l.map fun p => (p, f p)) i = f i := by
  induction l with
  | nil => cases h
  | cons j l ih =>
    simp only [List.map_cons, Tab.get]
    split
    · next e => rw [e]
    · next hne => exact ih ((List.mem_cons.mp h).resolve_left hne)

theorem State.port_portsDown (s : State) {p : Nat} (h : p < 48) : (s.portsDown.port p).st = .down := by
  have hport : s.portsDown.port p = { s.port p with st := .down } :=
    Tab.get_map_mem _ (fun p => ({ s.port p with st := .down } : Port)) (List.mem_range.mpr h)
  rw [hport]

/-- Repair of one row changes the bindings, the bad halves and the defects. -/
theorem State.repairRow_eq (s : State) (n p row : Nat) :
    ∃ b h d, s.repairRow n p row = { s with binds := b, badHalves := h, defects := d } := by
  unfold State.repairRow
  split
  · split
    · exact ⟨_, _, _, rfl⟩
    · split
      · exact ⟨_, _, _, rfl⟩
      · dsimp only
        generalize (if decide (p = _) then _ else _ : Bool) = un
        cases un <;> exact ⟨_, _, _, rfl⟩
  · exact ⟨_, _, _, rfl⟩

theorem State.repair_eq (s : State) :
    ∃ b h d, s.repair = { s with binds := b, badHalves := h, defects := d, faultyCells := [] } := by
  obtain ⟨b, h, d, hrows⟩ := foldl_keeps (fun t : State => ∃ b h d, t = { s with binds := b, badHalves := h, defects := d })
    (fun t r => t.repairRow r.1 r.2.1 r.2.2) (fun t r ⟨b, h, d, ht⟩ => by
      obtain ⟨b', h', d', hrow⟩ := t.repairRow_eq r.1 r.2.1 r.2.2
      exact ⟨b', h', d', by rw [hrow, ht]⟩) s.faultyRows s ⟨_, _, _, rfl⟩
  exact ⟨b, h, d, by rw [State.repair, hrows]⟩

theorem givenId_eq_some {d : BitVec 15} (h : d.toNat / 32 ≤ 544) : givenId d = some d := if_neg (by omega)

theorem givenId_eq_none {d : BitVec 15} (h : 544 < d.toNat / 32) : givenId d = none := if_pos h

/-- What boot leaves of the state, whatever the DEVID that it is given. -/
theorem State.boot_eq (s : State) (id : Option (BitVec 15)) : ∃ b h d, s.boot id = { s with
    bootst := 2, clusters := s.clusters.map fun (e : Nat × Cluster) => (e.1, e.2.booted), binds := b, badHalves := h, defects := d
    faultyCells := [], ports := (s.boot id).ports, devid := id.getD s.devid, idRefused := id.isNone } := by
  obtain ⟨b, h, d, hr⟩ := s.repair_eq
  refine ⟨b, h, d, ?_⟩
  cases id <;> (simp only [State.boot, hr]; rfl)

theorem State.boot_some_ports (s : State) (d : BitVec 15) : (s.boot (some d)).ports = s.ports := by
  obtain ⟨b, h, d, hr⟩ := s.repair_eq
  simp only [State.boot, hr]

theorem State.boot_none_port (s : State) {p : Nat} (h : p < 48) : ((s.boot none).port p).st = .down :=
  State.port_portsDown { s.repair with bootst := 2, clusters := s.clusters.map fun (e : Nat × Cluster) => (e.1, e.2.booted) } h

/-! ## Power-on, power-off and warm reset (R92, R94) -/

theorem setWidth15_toNat (x : BitVec 16) : (x.setWidth 15).toNat = x.toNat % 2 ^ 15 := BitVec.toNat_setWidth ..

theorem powerOn_accepted {s t : State} (h : s.powered = false ∨ s.bootst = 0) (hf : fwAccepted s.inp.fw s.secVer = true)
    (ht : t = { ({ s with powered := true } : State).boot (givenId (s.inp.src.setWidth 15)) with
      secVer := max s.secVer s.inp.fw.secVer, measurements := s.inp.fw.stages.map sha256 }) :
    exec .powerOn s = .next t := by
  have hoff : (s.powered && s.bootst != 0) = false := by rcases h with h | h <;> simp [h]
  show execPowerOn s = _
  simp only [execPowerOn, event, hoff, hf, Bool.false_eq_true, if_false, if_true]
  rw [ht]

/-- A booted device: its DEVID where it is accepted, and its ports DOWN where it is not (R58, R92). -/
theorem powerOn_booted {s t : State} (ht : t = { ({ s with powered := true } : State).boot (givenId (s.inp.src.setWidth 15)) with
      secVer := max s.secVer s.inp.fw.secVer, measurements := s.inp.fw.stages.map sha256 }) :
    t.powered = true ∧ t.bootst = 2 ∧ t.faultyCells = [] ∧
    (s.inp.src.toNat % 2 ^ 15 / 32 ≤ 544 → t.devid = s.inp.src.setWidth 15 ∧ t.idRefused = false ∧ t.ports = s.ports) ∧
    (544 < s.inp.src.toNat % 2 ^ 15 / 32 → t.devid = s.devid ∧ t.idRefused = true ∧ ∀ p, p < 48 → (t.port p).st = .down) := by
  obtain ⟨b, h, d, hboot⟩ := State.boot_eq { s with powered := true } (givenId (s.inp.src.setWidth 15))
  rw [hboot] at ht
  subst ht
  rw [← setWidth15_toNat]
  refine ⟨rfl, rfl, rfl, fun hid => ?given, fun hid => ?refused⟩
  case given =>
    rw [givenId_eq_some hid]
    exact ⟨rfl, rfl, State.boot_some_ports _ (s.inp.src.setWidth 15)⟩
  case refused =>
    rw [givenId_eq_none hid]
    exact ⟨rfl, rfl, fun p hp => State.boot_none_port _ hp⟩

theorem powerOn_refused {s : State} (h : s.powered = false ∨ s.bootst = 0) (hf : fwAccepted s.inp.fw s.secVer = false) :
    exec .powerOn s = .next { ({ s with powered := true } : State).portsDown with bootst := 15 } := by
  have hoff : (s.powered && s.bootst != 0) = false := by rcases h with h | h <;> simp [h]
  show execPowerOn s = _
  simp only [execPowerOn, event, hoff, hf, Bool.false_eq_true, if_false]

theorem powerOn_again {s : State} (hp : s.powered = true) (hb : s.bootst ≠ 0) : exec .powerOn s = .next s := by
  have hon : (s.powered && s.bootst != 0) = true := by rw [hp, bne_iff_ne.mpr hb]; rfl
  show execPowerOn s = _
  simp only [execPowerOn, event, hon, if_true]

/-- DEVCTL.WARMRST written 0 does nothing. -/
theorem warmrst_zero {s : State} (hv : s.inp.v.getLsbD 0 = false) : exec .devctlWarmrst s = .next s := by
  have hbit : (s.powered && (s.inp.v.setWidth 64).getLsbD 0) = false := by rw [BitVec.getLsbD_setWidth, hv, Bool.and_false, Bool.and_false]
  show execDevctlWarmrst s = _
  simp only [execDevctlWarmrst, event, State.writeDevctl, hbit, Bool.false_eq_true, if_false]

/-- A warm reset, by where it finds boot once work in flight has faulted. -/
theorem warmrst_one {s u : State} (hp : s.powered = true) (hv : s.inp.v.getLsbD 0 = true)
    (hu : u = if s.sweeps = [] then s else s.deviceFault fHOSTRESET) : exec .devctlWarmrst s = .next
      (if u.bootst = 15 then { u.warm.portsDown with bootst := 15 } else if u.bootst = 0 then u.warm
        else u.warm.boot (if u.idRefused then none else some u.devid)) := by
  have hflight : (if s.workInFlight then s.deviceFault fHOSTRESET else s) = u := by
    rw [hu, State.workInFlight]
    cases s.sweeps <;> rfl
  have hbit : (s.powered && (s.inp.v.setWidth 64).getLsbD 0) = true := by rw [hp, BitVec.getLsbD_setWidth, hv]; rfl
  show execDevctlWarmrst s = _
  simp only [execDevctlWarmrst, event, State.writeDevctl, hbit, if_true, hflight]

/-- What a device that has booted again after a warm reset keeps, and what it has lost (R94). -/
theorem warm_booted {u t : State} (ht : t = u.warm.boot (if u.idRefused then none else some u.devid)) :
    t.bootst = 2 ∧ t.faulted = false ∧ t.freason = 0 ∧ t.cores = [] ∧ t.sweeps = [] ∧ t.outst = [] ∧ t.tlb = [] ∧ t.ftime = u.ftime ∧
    t.keyslots = u.keyslots ∧ t.secVer = u.secVer ∧ t.measurements = u.measurements ∧ t.hbm.bytes = u.hbm.bytes ∧
    t.hbm.poison = u.hbm.poison ∧ t.hbm.latches = [] ∧ t.tide = u.tide ∧ t.strand = u.strand ∧ t.host = u.host ∧
    t.staging = u.staging ∧ (u.idRefused = false → t.devid = u.devid ∧ t.idRefused = false) ∧
    (u.idRefused = true → t.idRefused = true ∧ ∀ p, p < 48 → (t.port p).st = .down) := by
  obtain ⟨b, h, d, hboot⟩ := State.boot_eq u.warm (if u.idRefused then none else some u.devid)
  rw [hboot] at ht
  subst ht
  refine ⟨rfl, rfl, rfl, rfl, rfl, rfl, rfl, rfl, rfl, rfl, rfl, rfl, rfl, rfl, rfl, rfl, rfl, rfl, fun hid => ?given, fun hid => ?refused⟩
  case given =>
    rw [hid]
    exact ⟨rfl, rfl⟩
  case refused =>
    rw [hid]
    exact ⟨rfl, fun p hp => State.boot_none_port _ hp⟩

/-! ## The tidemark log's command (R97) -/

theorem nextNonce_ne (old : BitVec 64) (n : Nat) : nextNonce old n ≠ old := by
  rw [nextNonce]
  split
  · intro h
    exact absurd (BitVec.add_right_eq_self.mp h) (by decide)
  · assumption

theorem truncate_failed {s : State} (hp : s.powered = true) (hb : s.bootst ≠ 15) (hok : s.truncateOk s.inp.bytes = false) :
    exec .tmcmdTruncate s =
      .next { s with tide := { s.tide with nonce := nextNonce s.tide.nonce s.freeCtr }, freeCtr := s.freeCtr + 1 } := by
  have hon : (s.powered && s.bootst != 15) = true := by rw [hp, bne_iff_ne.mpr hb]; rfl
  show execTmcmdTruncate s = _
  simp only [execTmcmdTruncate, event, State.writeTmcmd, hon, hok, if_true, Bool.false_eq_true, if_false]

theorem truncate_done {s t : State} {h : Nat} (hp : s.powered = true) (hb : s.bootst ≠ 15) (hok : s.truncateOk s.inp.bytes = true)
    (hh : h = field s.inp.bytes 8 8)
    (ht : t = ({ s with tide := { s.tide with basehash := leBits 256 (s.tideChain h).reverse, head := h } } : State).tideUpTo 262144 0x0101 0
      (toBytes s.tide.head 6 ++ toBytes h 6)) :
    exec .tmcmdTruncate s =
      .next { t with tide := { t.tide with nonce := nextNonce s.tide.nonce s.freeCtr }, freeCtr := s.freeCtr + 1 } := by
  have hon : (s.powered && s.bootst != 15) = true := by rw [hp, bne_iff_ne.mpr hb]; rfl
  subst hh ht
  show execTmcmdTruncate s = _
  simp only [execTmcmdTruncate, event, State.writeTmcmd, hon, hok, if_true]

/-! ## Ageing and clocks (R31 to R34, R38) -/

section
variable {s : State} {c : Nat} {k : Cluster}

@[simp] theorem State.cluster_setCluster_same (s : State) (c : Nat) (k : Cluster) : (s.setCluster c k).cluster c = k := by
  simp [State.cluster, State.setCluster]

theorem ageing_past (hc : c = s.inp.cluster) (hk : k = s.cluster c) (hp : s.powered = true) (hs : s.stopped = false) (h16 : c < Config.clusters)
    (h8 : s.inp.counts.length = 8) (hret : k.retired = false) (hing : k.retiring = false)
    (hd : driftPast (k.references c) s.inp.counts = true) : exec .ageingSample s = .next (if k.maxStep = 0 then s.retireCluster c
      else (s.setCluster c { k with maxStep := k.maxStep - 1, dcount := k.dcount + 1, refs := s.inp.counts }).strandEvent 0x04 c
        (toBytes (k.maxStep - 1) 1)) := by
  subst hk hc
  have hon : (s.powered && !s.stopped && decide (s.inp.cluster < Config.clusters) && s.inp.counts.length == 8 &&
      !(s.cluster s.inp.cluster).retired && !(s.cluster s.inp.cluster).retiring &&
      driftPast ((s.cluster s.inp.cluster).references s.inp.cluster) s.inp.counts) = true := by
    simp [hp, hs, h16, h8, hret, hing, hd]
  show execAgeingSample s = _
  simp only [execAgeingSample, event, hon, if_true]

theorem ageing_within (hc : c = s.inp.cluster) (hk : k = s.cluster c) (hd : driftPast (k.references c) s.inp.counts = false) :
    exec .ageingSample s = .next s := by
  subst hk hc
  show execAgeingSample s = _
  simp only [execAgeingSample, event, hd, Bool.and_false, Bool.false_eq_true, if_false]

theorem setstep_written (hc : c = s.inp.cluster) (hk : k = s.cluster c) (hp : s.powered = true) (hb : s.bootst ≠ 15) (h16 : c < Config.clusters) :
    exec .clkSetstepWrite s = .next (s.setCluster c { k with setStep := min (s.inp.v.toNat / 256 % 64) k.maxStep }) := by
  subst hk hc
  have hon : (s.powered && s.bootst != 15 && decide (s.inp.cluster < Config.clusters)) = true := by
    rw [hp, bne_iff_ne.mpr hb, decide_eq_true h16]; rfl
  have hfield : ((s.inp.v.setWidth 64).extractLsb' 8 6).toNat = s.inp.v.toNat / 256 % 64 := by
    rw [BitVec.extractLsb'_toNat, BitVec.toNat_setWidth, Nat.shiftRight_eq_div_pow]; omega
  show execClkSetstepWrite s = _
  simp only [execClkSetstepWrite, event, State.writeClk, hon, if_true, hfield]

/-- SETSTEP and CURSTEP at a clock-change point, in one record (R34). -/
theorem Cluster.changed_eq (k : Cluster) {T : Nat} (hT : T = min (min k.setStep k.maxStep) (k.limit.getD k.maxStep)) : k.changed =
    { k with setStep := min k.setStep k.maxStep, curStep := T, relocking := k.relocking || decide (T ≠ k.curStep) } := by
  have htarget : ({ k with setStep := Nat.min k.setStep k.maxStep } : Cluster).target = T := by
    rw [hT, Cluster.target]
    show min (min (min k.setStep k.maxStep) k.maxStep) _ = _
    rw [min_assoc k.setStep, min_self]
  simp only [Cluster.changed, htarget]
  split
  · next h => simp [h]
  · next h => simp [h]

theorem clockChange (hc : c = s.inp.cluster) (hk : k = s.cluster c) {T : Nat} {u : State} (hp : s.powered = true) (hs : s.stopped = false)
    (h16 : c < Config.clusters) (hr : k.relocking = false) (hT : T = min (min k.setStep k.maxStep) (k.limit.getD k.maxStep))
    (hu : u = s.setCluster c { k with setStep := min k.setStep k.maxStep, curStep := T, relocking := decide (T ≠ k.curStep) }) :
    exec .clockChangePoint s = .next (u.finishRetire c) := by
  subst hk hc
  have hon : (s.powered && !s.stopped && decide (s.inp.cluster < Config.clusters) && !(s.cluster s.inp.cluster).relocking) = true := by
    rw [hp, hs, decide_eq_true h16, hr]; rfl
  have hchanged := Cluster.changed_eq (s.cluster s.inp.cluster) hT
  rw [hr, Bool.false_or] at hchanged
  show execClockChangePoint s = _
  simp only [execClockChangePoint, event, hon, if_true, hchanged, hu]

theorem State.finishRetire_stays {u : State} (h : (u.cluster c).retiring = false ∨ (u.cluster c).retired = true ∨ u.unitsOn c ≠ []) :
    u.finishRetire c = u := by
  have hoff : ((u.cluster c).retiring && !(u.cluster c).retired && (u.unitsOn c).isEmpty) = false := by
    rcases h with h | h | h
    · rw [h]; rfl
    · rw [h, Bool.not_true, Bool.and_false]; rfl
    · rw [List.isEmpty_eq_false_iff.mpr h, Bool.and_false]
  simp only [State.finishRetire, hoff, Bool.false_eq_true, if_false]

theorem State.finishRetire_ends {u : State} (h : (u.cluster c).retiring = true) (hr : (u.cluster c).retired = false) (hn : u.unitsOn c = []) :
    u.finishRetire c = (u.setCluster c { u.cluster c with retired := true }).strandEvent 0x05 c [] := by
  simp only [State.finishRetire, h, hr, hn, Bool.not_false, Bool.and_self, List.isEmpty_nil, if_true]

theorem relock_complete (hc : c = s.inp.cluster) (hk : k = s.cluster c) (hr : k.relocking = true) :
    exec .clockRelockComplete s = .next (s.setCluster c { k with relocking := false }) := by
  subst hk hc
  show execClockRelockComplete s = _
  simp only [execClockRelockComplete, event, hr, if_true]

theorem throttle_starts (hc : c = s.inp.cluster) (hk : k = s.cluster c) (hp : s.powered = true) (hs : s.stopped = false) (h16 : c < Config.clusters)
    (hhot : 105 ≤ s.inp.v.toNat) : exec .thermalThrottle s =
      .next (s.setCluster c { k with throt := true, climb := false, limit := some (k.limit.getD k.curStep) }) := by
  subst hk hc
  have hon : (s.powered && !s.stopped && decide (s.inp.cluster < Config.clusters) && decide (105 ≤ s.inp.v.toNat)) = true := by
    rw [hp, hs, decide_eq_true h16, decide_eq_true hhot]; rfl
  show execThermalThrottle s = _
  simp only [execThermalThrottle, event, hon, if_true]

theorem throttle_steps (hc : c = s.inp.cluster) (hk : k = s.cluster c) {l T : Nat} {z : Cluster} (hp : s.powered = true)
    (hs : s.stopped = false) (hth : k.throt = true) (hl : k.limit = some l)
    (hz : z = (if k.climb = true ∨ s.inp.v.toNat < 100 then
        (if k.setStep ≤ l + 1 then { k with throt := false, climb := false, limit := none } else { k with climb := true, limit := some (l + 1) })
      else { k with limit := some (min l k.curStep - 1) }))
    (hT : T = min (min z.setStep z.maxStep) (z.limit.getD z.maxStep)) : exec .throttleStep s =
      .next (s.setCluster c { z with setStep := min z.setStep z.maxStep, curStep := T, relocking := z.relocking || decide (T ≠ z.curStep) }) := by
  subst hk hc
  have hon : (s.powered && !s.stopped && (s.cluster s.inp.cluster).throt) = true := by rw [hp, hs, hth]; rfl
  have hstep : (s.cluster s.inp.cluster).throttle s.inp.v.toNat = z := by
    simp only [Cluster.throttle, hl, hz, Bool.or_eq_true, decide_eq_true_eq]
  show execThrottleStep s = _
  simp only [execThrottleStep, event, hon, if_true, hstep, Cluster.changed_eq z hT]

theorem trip_stops (hp : s.powered = true) (hs : s.stopped = false) :
    exec .thermalTrip s = .next { (s.deviceFault fTHERMAL).portsDown with stopped := true } := by
  have hon : (s.powered && !s.stopped) = true := by rw [hp, hs]; rfl
  show execThermalTrip s = _
  simp only [execThermalTrip, event, hon, if_true]

end

/-! ## Gating (R35) -/

section
variable {s : State} {d : Nat}

theorem State.mayGate_iff (s : State) (d : Nat) : s.mayGate d = true ↔ (∃ i, i < (s.core d).mode.size ∧ (s.core (d + i)).gate = .awake) ∧
    ∀ i, i < (s.core d).mode.size → (s.core (d + i)).gate ≠ .gating ∧ (s.core (d + i)).gate ≠ .waking := by
  simp only [State.mayGate, Bool.and_eq_true, Bool.not_eq_true', List.contains_eq_mem, decide_eq_true_eq, decide_eq_false_iff_not, List.mem_map,
    List.mem_range, not_exists, not_and, and_assoc]
  exact and_congr_right fun _ => ⟨fun ⟨h1, h2⟩ i hi => ⟨h1 i hi, h2 i hi⟩, fun h => ⟨fun i hi => (h i hi).1, fun i hi => (h i hi).2⟩⟩

theorem State.arrayGate_awake_iff (s : State) (d : Nat) :
    s.arrayGate d = .awake ↔ ∀ i, i < (s.core d).mode.size → (s.core (d + i)).gate = .awake := by
  simp only [State.arrayGate, List.contains_eq_mem, decide_eq_true_eq, List.mem_map, List.mem_range]
  constructor
  · intro h i hi
    split_ifs at h with h1 h2 h3
    cases hg : (s.core (d + i)).gate with
    | awake => rfl
    | gating => exact absurd ⟨i, hi, hg⟩ h1
    | gated => exact absurd ⟨i, hi, hg⟩ h2
    | waking => exact absurd ⟨i, hi, hg⟩ h3
  · intro h
    have hnone : ∀ g : GateSt, g ≠ .awake → ¬∃ i, i < (s.core d).mode.size ∧ (s.core (d + i)).gate = g :=
      fun g hg ⟨i, hi, e⟩ => hg (e.symm.trans (h i hi))
    rw [if_neg (hnone .gating nofun), if_neg (hnone .gated nofun), if_neg (hnone .waking nofun)]

theorem State.arrayGate_setGate (s : State) (d : Nat) (g : GateSt) : (s.setGate d g).arrayGate d = g := by
  have hgates : ((List.range ((s.setGate d g).core d).mode.size).map fun i => ((s.setGate d g).core (d + i)).gate) =
      List.replicate (s.core d).mode.size g := by
    rw [State.core_setGate_same, List.eq_replicate_iff]
    refine ⟨by simp, fun x hx => ?_⟩
    obtain ⟨i, hi, rfl⟩ := List.mem_map.mp hx
    have hi := List.mem_range.mp hi
    rw [State.core_setGate, if_pos ⟨by omega, Nat.add_lt_add_left hi d⟩]
  have hsize := Nat.ne_of_gt (s.core d).mode.size_pos
  rw [State.arrayGate, hgates]
  cases g <;> simp [hsize]

theorem autoidle_gates (hd : d = s.leaderOf s.inp.core) (ha : (s.core d).autoIdle ≠ 0) (hm : s.mayGate d = true)
    (hq : ((s.core d).queue.all fun q => q.eng != .mx) = true) : exec .matrixAutoidleGate s = .next (s.setGate d .gating) := by
  subst hd
  have hany : ((s.core (s.leaderOf s.inp.core)).queue.any fun q => q.eng == .mx) = false := by
    rw [List.any_eq_false]
    intro q hmem; simpa using List.all_eq_true.mp hq q hmem
  show execMatrixAutoidleGate s = _
  simp only [execMatrixAutoidleGate, event, ha, hm, hany, ne_eq, not_false_eq_true, Bool.not_false, and_self, if_true]

theorem autoidle_stays (hd : d = s.leaderOf s.inp.core) (hm : s.mayGate d = false) : exec .matrixAutoidleGate s = .next s := by
  subst hd
  show execMatrixAutoidleGate s = _
  simp only [execMatrixAutoidleGate, event, hm, Bool.false_eq_true, false_and, and_false, if_false]

theorem gating_done (hd : d = s.leaderOf s.inp.core) (hg : s.arrayGate d = .gating) : exec .matrixGatingDone s = .next (s.setGate d .gated) := by
  subst hd
  show execMatrixGatingDone s = _
  simp only [execMatrixGatingDone, event, hg, if_true]

theorem wake_done (hd : d = s.leaderOf s.inp.core) (hg : s.arrayGate d = .waking) : exec .matrixWakeDone s = .next (s.setGate d .awake) := by
  subst hd
  show execMatrixWakeDone s = _
  simp only [execMatrixWakeDone, event, hg, if_true]

end

/-! ## The statement -/

/-- Settles O48: one lemma per event, by the hypothesis under which it does something. -/
theorem powerAndClockEvents : Obligations.power_and_clock_events := by
  refine ⟨?powerOn, fun s hp hb => powerOn_again hp hb, fun s => rfl, ?warmReset, ?attestation, ?truncate, ?clocks⟩
  case powerOn =>
    rintro s b t h rfl
    exact ⟨fun hf ht => ⟨powerOn_accepted h hf ht, powerOn_booted ht⟩,
      fun hf => ⟨powerOn_refused h hf, fun p hlt => State.port_portsDown _ hlt⟩⟩
  case warmReset =>
    intro s u t hp hu
    refine ⟨fun hv => warmrst_zero hv, fun hv h15 => ?recovery, fun hv h0 => ?unbooted, fun hv h15 h0 ht => ?booted⟩
    case recovery => rw [warmrst_one hp hv hu, if_pos h15]
    case unbooted =>
      rw [warmrst_one hp hv hu, if_neg (by rw [h0]; decide), if_pos h0]
      exact ⟨rfl, rfl, rfl⟩
    case booted =>
      rw [warmrst_one hp hv hu, if_neg h15, if_neg h0, ← ht]
      exact ⟨rfl, warm_booted ht⟩
  case attestation =>
    intro s hp hb
    have hon : (s.powered && s.bootst == 2) = true := by rw [hp, hb]; rfl
    show execAttestationRequest s = _
    simp only [execAttestationRequest, event, hon, if_true]
  case truncate =>
    intro s hp hb
    refine ⟨nextNonce s.tide.nonce s.freeCtr, nextNonce_ne _ _, fun hok => truncate_failed hp hb hok,
      fun h t hok hh ht => ⟨truncate_done hp hb hok hh ht, ?head⟩⟩
    case head => rw [ht, State.head_of_steady (State.steady_tideUpTo ..)]
  case clocks =>
    intro s c k temp hc hk htemp
    have hmarks : ∀ {T u}, u = s.setCluster c
        { k with setStep := min k.setStep k.maxStep, curStep := T, relocking := decide (T ≠ k.curStep) } →
        (u.cluster c).retiring = k.retiring ∧ (u.cluster c).retired = k.retired := fun hu => by
      rw [hu, State.cluster_setCluster_same]; exact ⟨rfl, rfl⟩
    refine ⟨fun hp hs h16 h8 hret hing hd => ⟨fun h => ?drifted, fun h => ?retires⟩, fun hd => ageing_within hc hk hd,
      fun hp hb h16 => setstep_written hc hk hp hb h16, fun T u hp hs h16 hr hT hu => ⟨fun h => ?stays, fun h1 h2 h3 => ?ends⟩,
      fun hr => relock_complete hc hk hr, fun hp hs h16 hhot => throttle_starts hc hk hp hs h16 (htemp ▸ hhot),
      fun l z T hp hs hth hl hz hT => throttle_steps hc hk hp hs hth hl (htemp ▸ hz) hT,
      fun hp hs => ⟨trip_stops hp hs, State.faulted_deviceFault .., fun p h => State.port_portsDown _ h⟩,
      fun d hd => ⟨fun ha hm hq => autoidle_gates hd ha hm hq, fun hm => autoidle_stays hd hm, fun hg => gating_done hd hg,
        fun hg => wake_done hd hg⟩,
      fun d g i _ => ?members, fun d g => State.arrayGate_setGate s d g, fun d => s.mayGate_iff d, fun d => s.arrayGate_awake_iff d⟩
    case drifted => rw [ageing_past hc hk hp hs h16 h8 hret hing hd, if_neg h]
    case retires => rw [ageing_past hc hk hp hs h16 h8 hret hing hd, if_pos h]
    case stays =>
      rw [clockChange hc hk hp hs h16 hr hT hu, State.finishRetire_stays (by rw [(hmarks hu).1, (hmarks hu).2]; exact h)]
    case ends =>
      rw [clockChange hc hk hp hs h16 hr hT hu, State.finishRetire_ends ((hmarks hu).1.trans h1) ((hmarks hu).2.trans h2) h3]
    case members => rw [State.core_setGate]; split <;> rfl

end Sys2Proof.Machine
end

section
/-! SUPPORT. The link's operations on a port: what a port reads after an update, and what the sending of flits leaves alone (R42 to R49). -/

namespace Sys2Proof.Machine

/-! ## A port of the state -/

@[simp] theorem State.port_setPort (s : State) (n : Nat) (p : Port) : (s.setPort n p).port n = p := Tab.get_set_same ..
@[simp] theorem State.setPort_setPort (s : State) (n : Nat) (p q : Port) : (s.setPort n p).setPort n q = s.setPort n q := by
  simp only [State.setPort, Tab.set_set]
@[simp] theorem State.setPort_devid (s : State) (n : Nat) (p : Port) : (s.setPort n p).devid = s.devid := rfl
@[simp] theorem State.port_mapEvent (s : State) (n k : Nat) (d : Byte) (a b : BitVec 8) : (s.mapEvent n d a b).port k = s.port k := rfl

theorem State.queueCtl_setPort (s : State) (n : Nat) (p : Port) (ty : BitVec 3) (body : BitVec 512) :
    (s.setPort n p).queueCtl n ty body = s.setPort n { p with ctl := p.ctl ++ [(ty, body)] } := by
  simp only [State.queueCtl, State.port_setPort, State.setPort_setPort]

@[simp] theorem State.port_queueCtl (s : State) (n : Nat) (ty : BitVec 3) (body : BitVec 512) :
    (s.queueCtl n ty body).port n = { s.port n with ctl := (s.port n).ctl ++ [(ty, body)] } := State.port_setPort ..

/-! ## A fold by number -/

theorem foldl_view_not_mem {σ γ : Type} (view : σ → γ) {f : σ → Nat → σ} {i : Nat} (hother : ∀ x j, j ≠ i → view (f x j) = view x)
    (l : List Nat) (hi : i ∉ l) (x : σ) : view (l.foldl f x) = view x := by
  induction l generalizing x with
  | nil => rfl
  | cons j l ih =>
    rw [List.mem_cons, not_or] at hi
    rw [List.foldl_cons, ih hi.2, hother x j (Ne.symm hi.1)]

/-- Of a fold whose other steps leave a view alone, the view shows the one step. -/
theorem foldl_view_mem {σ γ : Type} (view : σ → γ) {f : σ → Nat → σ} {i : Nat} (hother : ∀ x j, j ≠ i → view (f x j) = view x)
    (l : List Nat) (hl : l.Nodup) (hi : i ∈ l) (x : σ) : ∃ y, view y = view x ∧ view (l.foldl f x) = view (f y i) := by
  induction l generalizing x with
  | nil => cases hi
  | cons j l ih =>
    rw [List.nodup_cons] at hl
    rcases List.mem_cons.mp hi with rfl | hi'
    · exact ⟨x, rfl, foldl_view_not_mem view hother l hl.1 _⟩
    · have hne : j ≠ i := fun h => hl.1 (h ▸ hi')
      obtain ⟨y, hy, hview⟩ := ih hl.2 hi' (f x j)
      exact ⟨y, hy.trans (hother x j hne), hview⟩

/-! ## Flits and rows that go out (R42, R43, R46) -/

/-- Cutting rows changes the stream and the rows. -/
theorem cutRows_eq (k : Nat) (p : Port) : ∃ b o r, cutRows k p = { p with txBytes := b, txOdd := o, rows := r } := by
  induction k generalizing p with
  | zero => exact ⟨_, _, _, rfl⟩
  | succ k ih =>
    rw [cutRows]
    split
    · exact ⟨_, _, _, rfl⟩
    · exact ih _

theorem Port.emit_eq (p : Port) (fs : List Flit) :
    ∃ b o r, p.emit fs = { p with sent := p.sent ++ fs, txBytes := b, txOdd := o, rows := r } := cutRows_eq ..

theorem Port.fillRow_eq (p : Port) : ∃ b o r, p.fillRow = { p with txBytes := b, txOdd := o, rows := r } := by
  unfold Port.fillRow
  split
  · exact ⟨_, _, _, rfl⟩
  · exact cutRows_eq ..

theorem cutRows_short {p : Port} (k : Nat) (h : p.txBytes.length < 640 * width p.txmap) : cutRows k p = p := by
  cases k with
  | zero => rfl
  | succ k => rw [cutRows]; exact if_pos (.inr h)

theorem cutRows_full {p : Port} (k : Nat) (hw : 2 ≤ width p.txmap) (h : 640 * width p.txmap ≤ p.txBytes.length) :
    cutRows (k + 1) p = cutRows k { p with
      rows := p.rows ++ [p.rowOf (p.txBytes.take (640 * width p.txmap))], txBytes := p.txBytes.drop (640 * width p.txmap), txOdd := !p.txOdd } := by
  rw [cutRows]; exact if_neg (by omega)

/-- A flit that fills no row waits in the stream. -/
theorem Port.emit_short {p : Port} {fl : Flit} {l : List Byte} (hl : l = p.txBytes ++ toBytes (BitVec.toNat fl) 72)
    (h : l.length < 640 * width p.txmap) : p.emit [fl] = { p with sent := p.sent ++ [fl], txBytes := l } := by
  subst hl
  rw [Port.emit, List.flatMap_singleton]
  exact cutRows_short _ h

/-- A flit that fills one row: the row goes out, and the rest waits. -/
theorem Port.emit_row {p : Port} {fl : Flit} {l : List Byte} (hw : 2 ≤ width p.txmap) (hl : l = p.txBytes ++ toBytes (BitVec.toNat fl) 72)
    (h : 640 * width p.txmap ≤ l.length) (h2 : l.length < 1280 * width p.txmap) : p.emit [fl] = { p with
      sent := p.sent ++ [fl], txBytes := l.drop (640 * width p.txmap), txOdd := !p.txOdd
      rows := p.rows ++ [p.rowOf (l.take (640 * width p.txmap))] } := by
  subst hl
  rw [Port.emit, List.flatMap_singleton]
  refine (cutRows_full (p := { p with sent := p.sent ++ [fl], txBytes := p.txBytes ++ toBytes (BitVec.toNat fl) 72 }) 1 hw h).trans
    (cutRows_short 1 ?rest)
  case rest =>
    show (List.drop (640 * width p.txmap) (p.txBytes ++ toBytes (BitVec.toNat fl) 72)).length < 640 * width p.txmap
    rw [List.length_drop]; omega

/-! ## Lanes of a row (R42, R43, R46) -/

theorem mem_lanesOf {m : BitVec 8} {i : Nat} : i ∈ lanesOf m ↔ i < 8 ∧ m.getLsbD i = true := by
  rw [lanesOf, List.mem_filter, List.mem_range]

/-- The position of an active lane among the active lanes. -/
theorem lane_position {m : BitVec 8} {i : Nat} (hi : i ∈ lanesOf m) :
    ∃ h : (lanesOf m).findIdx (fun j => j == i) < width m, (lanesOf m)[(lanesOf m).findIdx fun j => j == i]'h = i := by
  have h : (lanesOf m).findIdx (fun j => j == i) < (lanesOf m).length := List.findIdx_lt_length_of_exists ⟨i, hi, beq_self_eq_true i⟩
  exact ⟨h, beq_iff_eq.mp (List.findIdx_getElem (w := h))⟩

/-- Byte `k` of every `w`-th byte, of a list that holds that many. -/
theorem everyNth_full (w fuel : Nat) (l : List Byte) (hl : fuel * w < l.length + w) :
    (everyNth w fuel l).length = fuel ∧ ∀ k, k < fuel → (everyNth w fuel l).getD k 0 = l.getD (k * w) 0 := by
  induction fuel generalizing l with
  | zero => exact ⟨rfl, fun k hk => absurd hk (Nat.not_lt_zero k)⟩
  | succ fuel ih =>
    rw [Nat.succ_mul] at hl
    cases l with
    | nil => simp at hl
    | cons b l =>
      obtain ⟨hlen, hget⟩ := ih ((b :: l).drop w) (by rw [List.length_drop]; omega)
      refine ⟨by rw [everyNth, List.length_cons, hlen], fun k hk => ?_⟩
      cases k with
      | zero => simp [everyNth]
      | succ k =>
        rw [everyNth, List.getD_cons_succ, hget k (by omega)]
        simp [Nat.succ_mul, Nat.add_comm]

theorem Port.training_mem_rowOf {p : Port} {i : Nat} (bs : List Byte) (hi : i < 8) (htx : p.lanesTx.getLsbD i = true)
    (hm : p.txmap.getLsbD i = false) : (i, LaneOut.training) ∈ p.rowOf bs :=
  List.mem_map.mpr ⟨i, mem_lanesOf.mpr ⟨hi, htx⟩, by simp only [hm, Bool.false_eq_true, if_false]⟩

/-- An active lane carries byte `k` of its own behind its marker. -/
theorem Port.codeword_mem_rowOf {p : Port} {i : Nat} {bs : List Byte} (hi : i < 8) (htx : p.lanesTx.getLsbD i = true)
    (hm : p.txmap.getLsbD i = true) (hbs : bs.length = 640 * width p.txmap) :
    ∃ m l, (i, LaneOut.codeword m l) ∈ p.rowOf bs ∧ l.length = 640 ∧
      m = laneMarker i p.txmap ((p.rxProp.map fun e => e.1).getD p.rxmap) p.txOdd ∧
      ∀ k, k < 640 → l.getD k 0 = bs.getD (k * width p.txmap + (lanesOf p.txmap).findIdx fun j => j == i) 0 := by
  obtain ⟨hpos, -⟩ := lane_position (mem_lanesOf.mpr ⟨hi, hm⟩)
  obtain ⟨hlen, hget⟩ := everyNth_full (width p.txmap) 640 (bs.drop ((lanesOf p.txmap).findIdx fun j => j == i))
    (by rw [List.length_drop]; omega)
  refine ⟨_, _, List.mem_map.mpr ⟨i, mem_lanesOf.mpr ⟨hi, htx⟩, by simp only [hm, if_true]; rfl⟩, hlen, ?marker, fun k hk => ?byte⟩
  case marker => cases p.rxProp <;> rfl
  case byte => rw [hget k hk, List.getD_eq_getElem?_getD, List.getD_eq_getElem?_getD, List.getElem?_drop, Nat.add_comm]

/-! ## What sending leaves of a port (R45, R49) -/

theorem State.sendCtl_setPort {s : State} {n : Nat} {p : Port} (hon : p.perhopOn = (s.port n).perhopOn) (hkey : p.hopKey = (s.port n).hopKey)
    (ty : BitVec 3) (body : BitVec 512) : (s.setPort n p).sendCtl n ty body =
      s.setPort n { p.emit [mkFlit (s.txKey n (2 ^ 63 + p.unseqTx)) ty 0 p.txSeq p.rxLast 0 body] with
        unseqTx := if p.perhopOn then p.unseqTx + 1 else p.unseqTx } := by
  have hk : ∀ c, (s.setPort n p).txKey n c = s.txKey n c := fun c => by
    simp only [State.txKey, State.port_setPort, State.setPort_devid, hon, hkey]
  simp only [State.sendCtl, State.port_setPort, State.setPort_setPort, hk]

theorem Port.resendAll_of_nil {p : Port} (h : p.retry = []) : p.resendAll = p := by rw [Port.resendAll, h]; rfl

/-- A replay sends the buffer again and counts one replay. -/
theorem Port.resendAll_eq (p : Port) : ∃ b o r c, p.resendAll = { p with
      sent := p.sent ++ p.retry.map (fun e => e.2), txBytes := b, txOdd := o, rows := r, replays := c } ∧
    (p.retry ≠ [] → c = if p.replays = 0xFFFFFFFF then p.replays else p.replays + 1) := by
  by_cases h : p.retry = []
  · refine ⟨p.txBytes, p.txOdd, p.rows, p.replays, ?_, fun hn => absurd h hn⟩
    rw [Port.resendAll_of_nil h, h, List.map_nil, List.append_nil, ← h]
  · obtain ⟨b, o, r, he⟩ := Port.emit_eq { p with replays := if p.replays = BitVec.allOnes 32 then p.replays else p.replays + 1 }
      (p.retry.map fun (e : BitVec 12 × Flit) => e.2)
    refine ⟨b, o, r, _, ?_, fun _ => rfl⟩
    rw [Port.resendAll, List.isEmpty_eq_false_iff.mpr h, he]
    rfl

end Sys2Proof.Machine
end

section
/-! SUPPORT. The flits of a link (R44, R45, R47 to R49, R51, R77): what a received flit does by its TYPE and place in the sequence, what a port sends,
and the statement O49. -/

namespace Sys2Proof.Machine

/-! ## The fields of a flit (R44) -/

theorem extractLsb'_of_low {w n lo k : Nat} (v : BitVec w) (h : lo + k ≤ n) : (v.extractLsb' 0 n).extractLsb' lo k = v.extractLsb' lo k := by
  apply BitVec.eq_of_getLsbD_eq
  intro i hi
  simp [hi, show lo + i < n by omega]

theorem mkFlit_eq (key : Option (BitVec 256 × List Byte)) (ty vc : BitVec 3) (seq ack : BitVec 12) (crd : BitVec 2) (body : BitVec 512) :
    ∃ (c : BitVec 32) (b : BitVec 512), mkFlit key ty vc seq ack crd body = c ++ (b ++ (ty ++ (vc ++ (seq ++ (ack ++ crd))))) := by
  cases key with
  | none => exact ⟨_, _, rfl⟩
  | some k => exact ⟨_, _, rfl⟩

theorem mkFlit_fields (key : Option (BitVec 256 × List Byte)) (ty vc : BitVec 3) (seq ack : BitVec 12) (crd : BitVec 2) (body : BitVec 512)
    {fl : Flit} (hfl : fl = mkFlit key ty vc seq ack crd body) :
    Flit.ftype fl = ty ∧ Flit.vc fl = vc ∧ Flit.seq fl = seq ∧ Flit.ack fl = ack ∧ Flit.crd fl = crd := by
  obtain ⟨c, b, he⟩ := mkFlit_eq key ty vc seq ack crd body
  rw [hfl, he]
  simp only [Flit.ftype, Flit.vc, Flit.seq, Flit.ack, Flit.crd]
  simp (disch := decide) only [xb_lo, xb_hi]
  simp only [Nat.reduceAdd, Nat.reduceSub, xb_self, and_self]

theorem openFlit_type7 {f : Flit} (key : Option (BitVec 256 × List Byte)) (h : f.ftype = 7) : openFlit key f = none := if_pos h

/-- A flit that is taken keeps its TYPE in clear. -/
theorem openFlit_ftype {key : Option (BitVec 256 × List Byte)} {f g : Flit} (h : openFlit key f = some g) : g.ftype = f.ftype := by
  simp only [openFlit] at h
  split at h
  · cases h
  · split at h
    · split at h
      · cases h; rfl
      · cases h
    · split at h
      · cases h
        exact ((xb_lo _ _ 29 3 (by decide)).trans (xb_lo _ _ 29 3 (by decide))).trans (extractLsb'_of_low f (by decide))
      · cases h

/-! ## Sending (R45, R47, R49) -/

section
variable {s : State} {n : Nat} {p : Port} (hn : n = s.inp.port) (hp : p = s.port n) (hst : p.st = .active) (hs : s.stopped = false)
include hn hp hst hs

/-- A flit that waits to be sent outside the sequence goes first. -/
theorem transmit_ctl {ty : BitVec 3} {body : BitVec 512} {l : List (BitVec 3 × BitVec 512)} (hc : p.ctl = (ty, body) :: l) :
    exec .flitTransmit s = .next (s.setPort n
      { { p with ctl := l }.emit [mkFlit (s.txKey n (2 ^ 63 + p.unseqTx)) ty 0 p.txSeq p.rxLast 0 body] with
        unseqTx := if p.perhopOn then p.unseqTx + 1 else p.unseqTx }) := by
  subst hp hn
  show execFlitTransmit s = _
  rw [execFlitTransmit, event, if_neg (by simp [hst, hs]), hc]
  exact congrArg _ (State.sendCtl_setPort (p := { s.port s.inp.port with ctl := l }) rfl rfl ty body)

/-- The first flit whose channel holds a credit goes, with up to three credits of its sequence number's channel. -/
theorem transmit_seq {ty vc : BitVec 3} {body : BitVec 512} {k d : Nat} {fl : Flit} (hc : p.ctl = []) (hr : p.retry.length < 512)
    (hf : p.pend.find? (fun e => p.credit e.2.1 != 0) = some (ty, vc, body)) (hk : k = p.txSeq.toNat % 8) (hd : d = min 3 (p.due k))
    (hfl : fl = mkFlit (s.txKey n (p.seqEpoch * 4096 + p.txSeq.toNat)) ty vc p.txSeq p.rxLast (BitVec.ofNat 2 d) body) :
    exec .flitTransmit s = .next (s.setPort n { p.emit [fl] with
      retry := p.retry ++ [(p.txSeq, fl)], txSeq := p.txSeq + 1, seqEpoch := if p.txSeq = 0xFFF then p.seqEpoch + 1 else p.seqEpoch
      cred := Tab.set p.cred vc.toNat (p.credit vc - 1), credDue := Tab.set p.credDue k (p.due k - d)
      pend := p.pend.erase (ty, vc, body) }) := by
  subst hfl hd hk hp hn
  show execFlitTransmit s = _
  rw [execFlitTransmit, event, if_neg (by simp [hst, hs]), hc, if_pos hr, hf]
  rfl

/-- With nothing to send, or with 512 flits unacknowledged, an IDLE flit goes, with every credit that is due. -/
theorem transmit_idle (hc : p.ctl = []) (hf : 512 ≤ p.retry.length ∨ p.pend.find? (fun e => p.credit e.2.1 != 0) = none) :
    exec .flitTransmit s = .next (s.setPort n
      { { p with credDue := [] }.emit [mkFlit (s.txKey n (2 ^ 63 + p.unseqTx)) 0 0 p.txSeq p.rxLast 0
          (leBits 512 ((List.range 8).flatMap fun v => toBytes (p.due v) 2))] with
        unseqTx := if p.perhopOn then p.unseqTx + 1 else p.unseqTx }) := by
  subst hp hn
  have hnone : (if (s.port s.inp.port).retry.length < 512 then
      (s.port s.inp.port).pend.find? fun e => (s.port s.inp.port).credit e.2.1 != 0 else none) = none := by
    rcases hf with hf | hf
    · exact if_neg (by omega)
    · rw [hf, ite_self]
  have hidle : exec .flitTransmit s = .next (s.sendIdle s.inp.port) := by
    show execFlitTransmit s = _
    rw [execFlitTransmit, event, if_neg (by simp [hst, hs]), hc, hnone]
  exact hidle.trans (congrArg _ (State.sendCtl_setPort (p := { s.port s.inp.port with credDue := [] }) rfl rfl ..))

/-! ### Timers of the sender and the receiver (R48, R49, R51) -/

theorem replayTimeout_eq : exec .replayTimeout s = .next (s.replay n) := by
  subst hp hn
  exact congrArg Host.Outcome.next (if_pos ⟨hst, by rw [hs]; rfl⟩)

omit hs in
theorem retryResendTimeout_eq (h : p.awaiting = true) :
    exec .retryResendTimeout s = .next (s.setPort n { p with ctl := p.ctl ++ [(5, 0)] }) := by
  subst hp hn
  exact congrArg Host.Outcome.next (if_pos ⟨hst, h⟩)

omit hs in
theorem laneProposeRepeat_eq {m : BitVec 8} {adm : Bool} (h : p.rxProp = some (m, adm)) : exec .laneProposeRepeat s =
    .next (s.setPort n { p with ctl := p.ctl ++ [(6, laneBody (if adm then 4 else 1) m)] }) := by
  subst hp hn
  show execLaneProposeRepeat s = .next (s.queueCtl s.inp.port 6 (laneBody (if adm then 4 else 1) m))
  simp only [execLaneProposeRepeat, event, hst, h]

end

/-! ## Replays (R48, R49) -/

theorem State.replay_of_nil {s : State} {n : Nat} (h : (s.port n).retry = []) : s.replay n = s := by simp only [State.replay, h]

theorem State.replay_of_cons {s t : State} {n k : Nat} {p : Port} {a : BitVec 12} {b : Flit} {l : List (BitVec 12 × Flit)} (hp : p = s.port n)
    (hr : p.retry = (a, b) :: l) (hk : k = if p.sameReplay ≠ 0 ∧ p.replayAt = a then p.sameReplay + 1 else 1)
    (ht : t = s.setPort n { p.resendAll with sameReplay := k, replayAt := a }) :
    s.replay n = if 8 ≤ k then t.trainPort n true else t := by
  subst ht hk hp
  simp only [State.replay, hr]

/-! ## Receiving (R44, R45, R48) -/

section
variable {s : State} {n : Nat} {p q : Port} {f g : Flit}

/-- A bad flit is counted and starts a RETRY. -/
theorem State.receiveFlit_bad (h : openFlit (s.rxKey n f) f = none) : s.receiveFlit n f =
    (s.setPort n { s.port n with
      crcerr := if (s.port n).crcerr = 0xFFFFFFFF then (s.port n).crcerr else (s.port n).crcerr + 1 }).linkFailure n := by
  simp only [State.receiveFlit, h]
  rfl

variable (hp : p = s.port n) (hg : openFlit (s.rxKey n f) f = some g) (hq : q = { p.takeAck g.ack with
  unseqRx := if p.perhopOn = true ∧ ¬(1 ≤ f.ftype.toNat ∧ f.ftype.toNat ≤ 4) then p.unseqRx + 1 else p.unseqRx })
include hp hg hq

theorem State.receiveFlit_idle (hty : f.ftype = 0) : s.receiveFlit n f = s.setPort n (q.takeCredits g.body) := by
  have hty' := (openFlit_ftype hg).trans hty
  subst hp hq
  simp [State.receiveFlit, hg, hty', hty]

theorem State.receiveFlit_retry (hty : f.ftype = 5) : s.receiveFlit n f = (s.setPort n q).replay n := by
  have hty' := (openFlit_ftype hg).trans hty
  subst hp hq
  simp [State.receiveFlit, hg, hty', hty]

theorem State.receiveFlit_lane (hty : f.ftype = 6) : s.receiveFlit n f = (s.setPort n q).laneFlit n g.body := by
  have hty' := (openFlit_ftype hg).trans hty
  subst hp hq
  simp [State.receiveFlit, hg, hty', hty]

theorem State.receiveFlit_sequenced (h1 : 1 ≤ f.ftype.toNat) (h4 : f.ftype.toNat ≤ 4) : s.receiveFlit n f = (s.setPort n q).sequenced n g := by
  have hty' := openFlit_ftype hg
  have hcases : f.ftype.toNat = 1 ∨ f.ftype.toNat = 2 ∨ f.ftype.toNat = 3 ∨ f.ftype.toNat = 4 := by omega
  subst hp hq
  rcases hcases with h | h | h | h <;> simp [State.receiveFlit, hg, hty', h]

end

theorem seq_channel (x : BitVec 12) : (x.extractLsb' 0 3).toNat = x.toNat % 8 := by simp

section
variable {s : State} {n : Nat} {q : Port} {g : Flit}

/-- The expected flit is accepted. -/
theorem State.sequenced_expected (h : g.seq = q.rxExpect) : (s.setPort n q).sequenced n g = (s.setPort n { q with
    rxLast := g.seq, rxExpect := g.seq + 1, awaiting := false, rxEpoch := if g.seq = 0xFFF then q.rxEpoch + 1 else q.rxEpoch
    cred := Tab.set q.cred (g.seq.toNat % 8) (Tab.get 0 q.cred (g.seq.toNat % 8) + g.crd.toNat) }).acceptBody n g.ftype g.vc g.body := by
  simp only [State.sequenced, State.port_setPort, State.setPort_setPort, Port.credit, seq_channel]
  exact if_pos h

/-- A flit that was accepted before is dropped. -/
theorem State.sequenced_repeated (h : g.seq ≠ q.rxExpect) (hb : (q.rxExpect - g.seq).toNat ≤ 512) :
    (s.setPort n q).sequenced n g = s.setPort n q := by
  simp only [State.sequenced, State.port_setPort, if_neg h, if_pos hb]

/-- Any other flit tells that one is missing. -/
theorem State.sequenced_missing (hb : 512 < (q.rxExpect - g.seq).toNat) : (s.setPort n q).sequenced n g = (s.setPort n q).linkFailure n := by
  have h : g.seq ≠ q.rxExpect := fun h => by rw [h, BitVec.sub_self] at hb; exact absurd hb (by decide)
  simp only [State.sequenced, State.port_setPort, if_neg h, if_neg (Nat.not_le.mpr hb)]

end

section
variable {s : State} {n : Nat} {b : BitVec 512}

/-- A proposal, to shed lanes or to take them in again (OP 1 and 4). -/
theorem State.laneFlit_propose (h : (b.extractLsb' 0 8).toNat = 1 ∨ (b.extractLsb' 0 8).toNat = 4) :
    s.laneFlit n b = s.acceptTx n (b.extractLsb' 8 8) (b.extractLsb' 0 8 == 4) := by
  rcases h with h | h
  · have h4 : (b.extractLsb' 0 8 == 4) = false := by rw [show b.extractLsb' 0 8 = 1#8 from BitVec.eq_of_toNat_eq h]; rfl
    simp only [State.laneFlit, h, h4]
  · have h4 : (b.extractLsb' 0 8 == 4) = true := by rw [show b.extractLsb' 0 8 = 4#8 from BitVec.eq_of_toNat_eq h]; rfl
    simp only [State.laneFlit, h, h4]

/-- COMMIT. -/
theorem State.laneFlit_commit (h : (b.extractLsb' 0 8).toNat = 2) :
    s.laneFlit n b = if (s.port n).rxProp.isSome then s.adoptRx n (b.extractLsb' 8 8) else s := by
  simp only [State.laneFlit, h]

/-- DONE. -/
theorem State.laneFlit_done (h : (b.extractLsb' 0 8).toNat = 3) : s.laneFlit n b = s.closeTx n := by
  simp only [State.laneFlit, h]

end

theorem State.port_linkFailure {s : State} {n : Nat} {p : Port} (hp : p = s.port n) :
    (s.linkFailure n).port n = if p.awaiting then p else { p with awaiting := true, ctl := p.ctl ++ [(5, 0)] } := by
  subst hp
  by_cases h : (s.port n).awaiting = true
  · simp only [State.linkFailure, if_pos h]
  · simp only [State.linkFailure, if_neg h, State.queueCtl_setPort, State.port_setPort]

/-- A flit that does not end its packet joins it. -/
theorem State.acceptBody_joins {s : State} {n : Nat} {p : Port} {ty vc : BitVec 3} {b : BitVec 512} {l : List Byte} (hp : p = s.port n)
    (hl : l = (if ty = 1 ∨ ty = 4 then [] else Tab.get [] p.asm vc.toNat) ++ toBytes (BitVec.toNat b) 64) (h : ty = 1 ∨ ty = 2) :
    s.acceptBody n ty vc b = s.setPort n { p with asm := Tab.set p.asm vc.toNat l } := by
  have hne : ¬(ty = 3 ∨ ty = 4) := by rcases h with rfl | rfl <;> decide
  subst hp hl
  simp only [State.acceptBody, if_neg hne]

/-- The last flit of a packet completes it. -/
theorem State.acceptBody_ends {s : State} {n : Nat} {p : Port} {ty vc : BitVec 3} {b : BitVec 512} {l : List Byte} (hp : p = s.port n)
    (hl : l = (if ty = 1 ∨ ty = 4 then [] else Tab.get [] p.asm vc.toNat) ++ toBytes (BitVec.toNat b) 64) (h : ty = 3 ∨ ty = 4) :
    s.acceptBody n ty vc b = (s.setPort n { p with asm := Tab.del p.asm vc.toNat }).packetArrives n vc (packetOf l) := by
  subst hp hl
  simp only [State.acceptBody, if_pos h]

theorem Port.takeAck_covers {p : Port} {a : BitVec 12} {d : Nat} (hd : d = (a - p.ackRecv).toNat) (h : 1 ≤ d ∧ d ≤ p.retry.length) :
    p.takeAck a = { p with ackRecv := a, retry := p.retry.drop d, sameReplay := 0 } := by
  subst hd
  exact if_pos h

theorem Port.takeAck_stands {p : Port} {a : BitVec 12} {d : Nat} (hd : d = (a - p.ackRecv).toNat) (h : d = 0 ∨ p.retry.length < d) :
    p.takeAck a = p := by
  subst hd
  exact if_neg (by omega)

/-! ## Credits (R45, R47) -/

/-- One channel's credits of an IDLE flit. -/
def Port.takeCredit (body : BitVec 512) (p : Port) (v : Nat) : Port :=
  { p with cred := Tab.set p.cred v (Tab.get 0 p.cred v + (body.extractLsb' (16 * v) 16).toNat) }

theorem Port.takeCredits_eq (p : Port) (body : BitVec 512) : p.takeCredits body = (List.range 8).foldl (Port.takeCredit body) p := rfl

theorem Port.credit_takeCredits (p : Port) (body : BitVec 512) (v : BitVec 3) :
    (p.takeCredits body).credit v = p.credit v + (body.extractLsb' (16 * v.toNat) 16).toNat := by
  obtain ⟨q, hq, hcred⟩ := foldl_view_mem (fun q : Port => q.credit v) (f := Port.takeCredit body)
    (fun q k hk => Tab.get_set_ne _ _ _ _ _ (Ne.symm hk)) (List.range 8) List.nodup_range (List.mem_range.mpr v.isLt) p
  rw [Port.takeCredits_eq, hcred, ← hq]
  exact Tab.get_set_same ..

/-! ## The events of a flit -/

section
variable {s : State} {n : Nat} {p : Port} {f : Flit} (hn : n = s.inp.port) (hp : p = s.port n) (hf : f = s.inp.flit) (hst : p.st = .active)
  (hs : s.stopped = false)
include hn hp hf hst hs

theorem flitEvent_eq {P : Flit → Bool} (h : P f = true) : flitEvent P s = s.receiveFlit n f := by
  subst hp hn hf
  exact if_pos ⟨hst, by simp [hs], h⟩

theorem idleFlitReceive_eq (h : f.ftype = 0) : exec .idleFlitReceive s = .next (s.receiveFlit n f) :=
  congrArg Host.Outcome.next (flitEvent_eq hn hp hf hst hs (by simp [h]))

theorem retryReceive_eq (h : f.ftype = 5) : exec .retryReceive s = .next (s.receiveFlit n f) :=
  congrArg Host.Outcome.next (flitEvent_eq hn hp hf hst hs (by simp [h]))

theorem sequencedFlitReceive_eq (h1 : 1 ≤ f.ftype.toNat) (h : f.ftype.toNat ≤ 4 ∨ f.ftype.toNat = 7) :
    exec .sequencedFlitReceive s = .next (s.receiveFlit n f) := by
  refine congrArg Host.Outcome.next (flitEvent_eq hn hp hf hst hs ?type)
  case type =>
    generalize f.ftype = t at h1 h ⊢
    revert h h1 t
    decide

variable {q : Port} {g : Flit} (hg : openFlit (s.rxKey n f) f = some g) (hq : q = { p.takeAck g.ack with
  unseqRx := if p.perhopOn = true ∧ ¬(1 ≤ f.ftype.toNat ∧ f.ftype.toNat ≤ 4) then p.unseqRx + 1 else p.unseqRx }) (hty : f.ftype = 6)
include hg hq hty

omit hp hf hst hs hq in
theorem State.laneOp_eq : s.laneOp f = (g.body.extractLsb' 0 8).toNat := by
  subst hn
  simp only [State.laneOp, hg, (openFlit_ftype hg).trans hty, if_true]

theorem lanePropose_receive (hop : (g.body.extractLsb' 0 8).toNat = 1 ∨ (g.body.extractLsb' 0 8).toNat = 4) :
    exec .laneProposeReceive s = .next ((s.setPort n q).acceptTx n (g.body.extractLsb' 8 8) (g.body.extractLsb' 0 8 == 4)) := by
  have hlane : exec .laneProposeReceive s = .next (s.receiveFlit n f) :=
    congrArg Host.Outcome.next (flitEvent_eq hn hp hf hst hs (by simpa [State.laneOp_eq hn hg hty] using hop))
  rw [hlane, State.receiveFlit_lane hp hg hq hty, State.laneFlit_propose hop]

theorem laneCommit_receive (hop : (g.body.extractLsb' 0 8).toNat = 2) : exec .laneCommitReceive s =
    .next (if q.rxProp.isSome then (s.setPort n q).adoptRx n (g.body.extractLsb' 8 8) else s.setPort n q) := by
  have hlane : exec .laneCommitReceive s = .next (s.receiveFlit n f) :=
    congrArg Host.Outcome.next (flitEvent_eq hn hp hf hst hs (by simp [State.laneOp_eq hn hg hty, hop]))
  rw [hlane, State.receiveFlit_lane hp hg hq hty, State.laneFlit_commit hop, State.port_setPort]

theorem laneDone_receive (hop : (g.body.extractLsb' 0 8).toNat = 3) : exec .laneDoneReceive s = .next ((s.setPort n q).closeTx n) := by
  have hlane : exec .laneDoneReceive s = .next (s.receiveFlit n f) :=
    congrArg Host.Outcome.next (flitEvent_eq hn hp hf hst hs (by simp [State.laneOp_eq hn hg hty, hop]))
  rw [hlane, State.receiveFlit_lane hp hg hq hty, State.laneFlit_done hop]

end

/-! ## The statement on flits -/

/-- Settles O49: one lemma per operation of the link, by the flit received, the flit to send, or the place in the row. -/
theorem flitEvents : Obligations.flit_events := by
  intro s n p f hn hp hf hst hs
  refine ⟨?good, fun h => openFlit_type7 _ h, ?bad, State.port_linkFailure hp,
    fun a d hd => ⟨fun h => Port.takeAck_covers hd h, fun h => Port.takeAck_stands hd h⟩,
    fun ty vc b l hl => ⟨fun h => State.acceptBody_joins hp hl h, fun h => State.acceptBody_ends hp hl h⟩,
    ?resend, replayTimeout_eq hn hp hst hs, fun h => State.replay_of_nil (hp ▸ h), ?replay, fun h => retryResendTimeout_eq hn hp hst h,
    fun m adm h => laneProposeRepeat_eq hn hp hst h, fun ty body l hc => transmit_ctl hn hp hst hs hc,
    fun ty vc body k d fl hc hr hpend hk hd hfl => ⟨transmit_seq hn hp hst hs hc hr hpend hk hd hfl, ?fields⟩,
    fun hc h => transmit_idle hn hp hst hs hc h,
    fun fl w l hw h2 hl => hw ▸ ⟨fun h => ?short, fun h h' => ?row⟩,
    fun i bs hi htx => ⟨Port.training_mem_rowOf bs hi htx, fun hm hbs => Port.codeword_mem_rowOf hi htx hm hbs⟩⟩
  case good =>
    intro g q hg hq
    refine ⟨fun h0 => ⟨?idle, fun v => Port.credit_takeCredits q g.body v⟩, fun h5 => ?retry,
      fun h1 h4 => ⟨fun h => ?expected, fun h hb => ?repeated, fun hb => ?missing⟩,
      fun h6 hop => lanePropose_receive hn hp hf hst hs hg hq h6 hop, fun h6 hop => laneCommit_receive hn hp hf hst hs hg hq h6 hop,
      fun h6 hop => laneDone_receive hn hp hf hst hs hg hq h6 hop⟩
    case idle => rw [idleFlitReceive_eq hn hp hf hst hs h0, State.receiveFlit_idle hp hg hq h0]
    case retry => rw [retryReceive_eq hn hp hf hst hs h5, State.receiveFlit_retry hp hg hq h5]
    all_goals rw [sequencedFlitReceive_eq hn hp hf hst hs h1 (.inl h4), State.receiveFlit_sequenced hp hg hq h1 h4]
    case expected => rw [State.sequenced_expected h]
    case repeated => rw [State.sequenced_repeated h hb]
    case missing => rw [State.sequenced_missing hb]
  case bad =>
    intro hbad t ht
    have hrecv : s.receiveFlit n f = t := by rw [ht, hp, State.receiveFlit_bad hbad]
    rw [← hrecv]
    exact ⟨fun h => idleFlitReceive_eq hn hp hf hst hs h, fun h => retryReceive_eq hn hp hf hst hs h,
      fun h1 h => sequencedFlitReceive_eq hn hp hf hst hs h1 h⟩
  case resend =>
    obtain ⟨b, o, r, c, he, hc⟩ := p.resendAll_eq
    rw [he]
    exact ⟨rfl, rfl, rfl, hc⟩
  case replay =>
    intro a b l k t hr hk ht
    rw [State.replay_of_cons hp hr hk ht]
    exact ⟨fun h => if_neg (Nat.not_le.mpr h), fun h => if_pos h⟩
  case fields =>
    obtain ⟨hty, hvc, hseq, hack, hcrd⟩ := mkFlit_fields _ _ _ _ _ _ _ hfl
    have hd3 : d < 2 ^ 2 := by omega
    exact ⟨hty, hvc, hseq, hack, by rw [hcrd, BitVec.toNat_ofNat, Nat.mod_eq_of_lt hd3]⟩
  case short => exact Port.emit_short hl h
  case row => exact Port.emit_row (hw ▸ h2) hl h h'

end Sys2Proof.Machine
end

section
/-! SUPPORT. The lanes of a link (R42, R43, R46, R50 to R52, R57): rows received and counted by lane, windows, proposals and changes of the lane
maps, and the statement O50. -/

namespace Sys2Proof.Machine

/-! ## Rows received (R42, R46, R51) -/

theorem takeFlits_takes {hold : Bool} {n k : Nat} {s : State} {p : Port} (hp : p = s.port n) (hst : p.st = .active) (hl : 72 ≤ p.rxBytes.length)
    (hh : hold = false ∨ ∃ b ∈ p.rxBytes.take 72, b ≠ 0) : takeFlits hold n (k + 1) s =
      takeFlits hold n k ((s.setPort n { p with rxBytes := p.rxBytes.drop 72 }).receiveFlit n (leBits 576 (p.rxBytes.take 72))) := by
  have hfill : (hold && (p.rxBytes.take 72).all fun b => b == 0) = false := by
    rcases hh with rfl | ⟨b, hb, hne⟩
    · rfl
    · rw [Bool.and_eq_false_iff, List.all_eq_false]
      exact .inr ⟨b, hb, by simpa using hne⟩
  subst hp
  rw [takeFlits]
  exact if_neg (by rw [hst, hfill]; simp; omega)

theorem takeFlits_stops {hold : Bool} {n : Nat} (k : Nat) {s : State} {p : Port} (hp : p = s.port n)
    (hh : p.rxBytes.length < 72 ∨ (hold = true ∧ ∀ b ∈ p.rxBytes.take 72, b = 0)) : takeFlits hold n k s = s := by
  subst hp
  cases k with
  | zero => rfl
  | succ k =>
    rw [takeFlits]
    refine if_pos (.inr (hh.imp id fun h => ?_))
    rw [h.1, Bool.true_and, List.all_eq_true]
    exact fun b hb => beq_iff_eq.mpr (h.2 b hb)

/-- The `j`-th element of the `k`-th of the pieces of one length. -/
theorem getElem?_flatMap_const {α β : Type} {f : α → List β} {w : Nat} (hf : ∀ a, (f a).length = w) (l : List α) (k j : Nat) (hj : j < w) :
    (l.flatMap f)[k * w + j]? = l[k]?.bind fun a => (f a)[j]? := by
  induction l generalizing k with
  | nil => rfl
  | cons a l ih =>
    rw [List.flatMap_cons]
    cases k with
    | zero => rw [List.getElem?_append_left (by rw [hf]; omega), Nat.zero_mul, Nat.zero_add]; rfl
    | succ k =>
      rw [List.getElem?_append_right (by rw [hf, Nat.succ_mul]; omega), hf,
        show (k + 1) * w + j - w = k * w + j by rw [Nat.succ_mul]; omega, ih]
      rfl

/-- Byte `k` of an active lane stands at its place among the active lanes in the `k`-th piece of the stream. -/
theorem getD_destripe {row : List LaneWord} {m : BitVec 8} {i k : Nat} {w : LaneWord} (hw : row.find? (fun w => w.lane == i) = some w) (hi : i < 8)
    (hm : m.getLsbD i = true) (hk : k < 640) :
    (destripe row m).getD (k * width m + (lanesOf m).findIdx fun j => j == i) 0 = w.bytes.getD k 0 := by
  obtain ⟨hpos, hlane⟩ := lane_position (mem_lanesOf.mpr ⟨hi, hm⟩)
  rw [List.getD_eq_getElem?_getD, destripe, getElem?_flatMap_const (w := width m) (fun a => by rw [List.length_map, List.length_map]; rfl) _ _ _ hpos,
    List.getElem?_range hk, Option.bind_some, List.getElem?_map, List.getElem?_map, List.getElem?_eq_getElem hpos, hlane]
  simp only [Option.map_some, hw, Option.getD_some]

/-! ## Codewords counted by lane (R50, R52) -/

theorem NatSet.has_add_same (m : NatSet) (i : Nat) : (m.add i).has i = true := by
  induction m with
  | nil => simp [NatSet.add, NatSet.has]
  | cons b m ih =>
    simp only [NatSet.has] at ih
    simp only [NatSet.add, NatSet.has]
    split
    · simp
    · split
      · next h => simp [h]
      · simp only [List.contains_cons, ih, Bool.or_true]

theorem NatSet.has_add_ne (m : NatSet) {i j : Nat} (h : i ≠ j) : (m.add j).has i = m.has i := by
  induction m with
  | nil => simp [NatSet.add, NatSet.has, h]
  | cons b m ih =>
    simp only [NatSet.has] at ih
    simp only [NatSet.add, NatSet.has]
    split
    · simp [h]
    · split
      · rfl
      · simp only [List.contains_cons, ih]

theorem NatSet.has_del_same (m : NatSet) (i : Nat) : (m.del i).has i = false := by
  simp [NatSet.del, NatSet.has]

theorem NatSet.has_del_ne (m : NatSet) {i j : Nat} (h : i ≠ j) : (m.del j).has i = m.has i := by
  simp [NatSet.del, NatSet.has, h]

theorem Port.countLane_eq (p : Port) (i : Nat) (bad : Bool) : p.countLane i bad = { p with
    winCnt := if bad then Tab.set p.winCnt i (Tab.get 0 p.winCnt i + 1) else p.winCnt
    consec := Tab.set p.consec i (if bad then Tab.get 0 p.consec i + 1 else 0) } := by
  cases bad <;> rfl

theorem Port.winCnt_countLane (p : Port) (i : Nat) (bad : Bool) :
    Tab.get 0 (p.countLane i bad).winCnt i = Tab.get 0 p.winCnt i + (if bad then 1 else 0) := by
  cases bad
  · rfl
  · exact Tab.get_set_same ..

/-- What a port has counted of one lane: its codewords of the window, its consecutive ones, and whether its lock is lost. -/
def Port.laneView (i : Nat) (p : Port) : Nat × Nat × Bool := (Tab.get 0 p.winCnt i, Tab.get 0 p.consec i, p.lockLost.has i)

theorem Port.laneView_eq_iff {p : Port} {i a b : Nat} {c : Bool} :
    p.laneView i = (a, b, c) ↔ Tab.get 0 p.winCnt i = a ∧ Tab.get 0 p.consec i = b ∧ p.lockLost.has i = c := by
  simp only [Port.laneView, Prod.mk.injEq]

/-- One lane of a row counted. -/
def Port.countOne (row : List LaneWord) (odd : Option Bool) (p : Port) (i : Nat) : Port :=
  match row.find? fun w => w.lane == i with
  | some w =>
    { p with lockLost := if w.lost then p.lockLost.add i else p.lockLost.del i }.countLane i (LaneWord.counts w odd || p.lockLost.has i)
  | none => p.countLane i true

theorem Port.countRow_eq (p : Port) (row : List LaneWord) (odd : Option Bool) :
    p.countRow row odd = (List.range 8).foldl (Port.countOne row odd) { p with winRows := p.winRows + 1 } := rfl

theorem Port.laneView_countLane_ne (p : Port) {i j : Nat} (h : i ≠ j) (bad : Bool) : (p.countLane j bad).laneView i = p.laneView i := by
  cases bad <;> simp [Port.countLane, Port.laneView, h]

theorem Port.laneView_countLane_same (p : Port) (i : Nat) (bad : Bool) : (p.countLane i bad).laneView i =
    (Tab.get 0 p.winCnt i + (if bad then 1 else 0), if bad then Tab.get 0 p.consec i + 1 else 0, p.lockLost.has i) := by
  cases bad <;> simp [Port.countLane, Port.laneView]

theorem Port.laneView_countOne_ne (row : List LaneWord) (odd : Option Bool) (p : Port) {i j : Nat} (h : i ≠ j) :
    (p.countOne row odd j).laneView i = p.laneView i := by
  unfold Port.countOne
  split
  · next w hw =>
    rw [Port.laneView_countLane_ne _ h]
    cases w.lost <;> simp [Port.laneView, NatSet.has_add_ne, NatSet.has_del_ne, h]
  · exact Port.laneView_countLane_ne _ h _

theorem Port.winRows_countOne (row : List LaneWord) (odd : Option Bool) (p : Port) (i : Nat) : (p.countOne row odd i).winRows = p.winRows := by
  unfold Port.countOne
  split <;> rw [Port.countLane_eq]

theorem Port.laneView_countOne_found {row : List LaneWord} {odd : Option Bool} {i : Nat} {w : LaneWord}
    (hw : row.find? (fun w => w.lane == i) = some w) (p : Port) :
    (p.countOne row odd i).laneView i = (Tab.get 0 p.winCnt i + (if LaneWord.counts w odd || p.lockLost.has i then 1 else 0),
      if LaneWord.counts w odd || p.lockLost.has i then Tab.get 0 p.consec i + 1 else 0, w.lost) := by
  have hlost : NatSet.has (if w.lost then p.lockLost.add i else p.lockLost.del i) i = w.lost := by
    cases w.lost
    · exact NatSet.has_del_same ..
    · exact NatSet.has_add_same ..
  simp only [Port.countOne, hw, Port.laneView_countLane_same, hlost]

theorem Port.laneView_countOne_absent {row : List LaneWord} {odd : Option Bool} {i : Nat} (hw : row.find? (fun w => w.lane == i) = none)
    (p : Port) : (p.countOne row odd i).laneView i = (Tab.get 0 p.winCnt i + 1, Tab.get 0 p.consec i + 1, p.lockLost.has i) := by
  simp only [Port.countOne, hw, Port.laneView_countLane_same, if_true]

/-- A row counts each lane once, from what was counted of that lane before. -/
theorem Port.laneView_countRow (p : Port) (row : List LaneWord) (odd : Option Bool) {i : Nat} (hi : i < 8) :
    ∃ q : Port, q.laneView i = p.laneView i ∧ (p.countRow row odd).laneView i = (q.countOne row odd i).laneView i :=
  foldl_view_mem (Port.laneView i) (fun q _ hj => Port.laneView_countOne_ne row odd q (Ne.symm hj)) (List.range 8) List.nodup_range
    (List.mem_range.mpr hi) { p with winRows := p.winRows + 1 }

theorem Port.laneView_countRow_found {row : List LaneWord} {odd : Option Bool} {i : Nat} {w : LaneWord}
    (hw : row.find? (fun w => w.lane == i) = some w) (p : Port) (hi : i < 8) :
    (p.countRow row odd).laneView i = (Tab.get 0 p.winCnt i + (if LaneWord.counts w odd || p.lockLost.has i then 1 else 0),
      if LaneWord.counts w odd || p.lockLost.has i then Tab.get 0 p.consec i + 1 else 0, w.lost) := by
  obtain ⟨q, hq, hrow⟩ := p.laneView_countRow row odd hi
  obtain ⟨hcnt, hcon, hlock⟩ := Port.laneView_eq_iff.mp hq
  rw [hrow, Port.laneView_countOne_found hw, hcnt, hcon, hlock]

theorem Port.laneView_countRow_absent {row : List LaneWord} {odd : Option Bool} {i : Nat} (hw : row.find? (fun w => w.lane == i) = none)
    (p : Port) (hi : i < 8) :
    (p.countRow row odd).laneView i = (Tab.get 0 p.winCnt i + 1, Tab.get 0 p.consec i + 1, p.lockLost.has i) := by
  obtain ⟨q, hq, hrow⟩ := p.laneView_countRow row odd hi
  obtain ⟨hcnt, hcon, hlock⟩ := Port.laneView_eq_iff.mp hq
  rw [hrow, Port.laneView_countOne_absent hw, hcnt, hcon, hlock]

theorem Port.winRows_countRow (p : Port) (row : List LaneWord) (odd : Option Bool) : (p.countRow row odd).winRows = p.winRows + 1 := by
  rw [Port.countRow_eq]
  exact foldl_keeps (fun q : Port => q.winRows = p.winRows + 1) _ (fun q i hq => (Port.winRows_countOne row odd q i).trans hq) _ _ rfl

/-! ## Lanes that fail, and windows (R50, R52, R57) -/

theorem Port.mem_failing {p : Port} {i : Nat} (hi : i < 8) : i ∈ p.failing ↔ p.rxmap.getLsbD i = true ∧
    (p.sheduc.toNat ≤ Tab.get 0 p.winCnt i ∨ p.burst.toNat ≤ Tab.get 0 p.consec i) := by
  rw [Port.failing, List.mem_filter, mem_lanesOf, Bool.or_eq_true, decide_eq_true_eq, decide_eq_true_eq, and_iff_right hi]

theorem getLsbD_dropLanes (m : BitVec 8) (l : List Nat) {i : Nat} (hi : i < 8) : (dropLanes m l).getLsbD i = (m.getLsbD i && decide (i ∉ l)) := by
  induction l generalizing m with
  | nil => simp [dropLanes]
  | cons j l ih =>
    have hone : (m &&& ~~~((1 : BitVec 8) <<< j)).getLsbD i = (m.getLsbD i && decide (i ≠ j)) := by
      by_cases hij : i = j
      · simp [hij]
      · simp [hi, hij]; omega
    rw [dropLanes, List.foldl_cons, ← dropLanes, ih, hone, Bool.and_assoc, ← Bool.decide_and]
    simp only [List.mem_cons, not_or, ne_eq]

theorem State.shedFailing_of_nil {s : State} {n : Nat} (h : (s.port n).failing = []) : s.shedFailing n = s := by
  simp only [State.shedFailing, h, List.isEmpty_nil, if_true]

theorem State.shedFailing_proposes {s : State} {n : Nat} {p : Port} {m : BitVec 8} (hp : p = s.port n) (h : p.failing ≠ [])
    (hm : m = dropLanes ((p.rxProp.bind fun e => if e.2 then none else some e.1).getD p.rxmap) p.failing) :
    s.shedFailing n = s.proposeRx n m false := by
  subst hm hp
  simp only [State.shedFailing, List.isEmpty_eq_false_iff.mpr h, Bool.false_eq_true, if_false]
  rcases hprop : (s.port n).rxProp with _ | ⟨x, _ | _⟩ <;> rfl

/-- A window's end, but for LTHR. -/
theorem Port.closeWindow_counts (p : Port) : p.closeWindow.winCnt = [] ∧ p.closeWindow.winRows = 0 ∧ p.closeWindow.winLive = p.rxmap ∧
    p.closeWindow.lthrNext = none := by
  rcases h : p.lthrNext with _ | v <;> simp only [Port.closeWindow, h, Port.setLthr, and_self]

theorem Port.closeWindow_lthr {p : Port} {v : BitVec 40} (h : p.lthrNext = some v) :
    p.closeWindow.sheduc = (if v.extractLsb' 24 8 = 0 then 1 else v.extractLsb' 24 8) ∧
    p.closeWindow.burst = (if v.extractLsb' 16 8 = 0 then 1 else v.extractLsb' 16 8) ∧ p.closeWindow.admuc = v.extractLsb' 8 8 ∧
    p.closeWindow.admwin = (if v.extractLsb' 0 8 = 0 then 1 else v.extractLsb' 0 8) ∧
    p.closeWindow.winexp = (if 10 ≤ (v.extractLsb' 32 8).toNat ∧ (v.extractLsb' 32 8).toNat ≤ 30 then v.extractLsb' 32 8 else 20) := by
  simp only [Port.closeWindow, h, Port.setLthr, and_self]

theorem Port.lanecnt_closeWindow (p : Port) {i : Nat} (hi : i < 8) :
    Tab.get 0 p.closeWindow.lanecnt i = BitVec.ofNat 8 (min 255 (Tab.get 0 p.winCnt i)) := by
  have hlist : p.closeWindow.lanecnt = (List.range 8).map fun i => (i, BitVec.ofNat 8 (Nat.min 255 (Tab.get 0 p.winCnt i))) := by
    rcases h : p.lthrNext with _ | v <;> simp only [Port.closeWindow, h, Port.setLthr]
  rw [hlist, Tab.get_map_mem 0 (fun i => BitVec.ofNat 8 (Nat.min 255 (Tab.get 0 p.winCnt i))) (List.mem_range.mpr hi)]

theorem Tab.get_map_not_mem {α : Type} (d : α) (f : Nat → α) {l : List Nat} {i : Nat} (h : i ∉ l) : Tab.get d (l.map fun p => (p, f p)) i = d := by
  induction l with
  | nil => rfl
  | cons j l ih =>
    rw [List.mem_cons, not_or] at h
    rw [List.map_cons, Tab.get, if_neg h.1, ih h.2]

theorem Port.clean_closeWindow (p : Port) {i : Nat} (hi : i < 8) : Tab.get 0 p.closeWindow.clean i =
    if p.winLive.getLsbD i = false ∧ Tab.get 0 p.winCnt i ≤ p.admuc.toNat then Tab.get 0 p.clean i + 1 else 0 := by
  have hlist : p.closeWindow.clean = ((List.range 8).filter fun i => !(p.winLive.getLsbD i)).map fun i =>
      (i, if Tab.get 0 p.winCnt i ≤ p.admuc.toNat then Tab.get 0 p.clean i + 1 else 0) := by
    rcases h : p.lthrNext with _ | v <;> simp only [Port.closeWindow, h, Port.setLthr]
  rw [hlist]
  cases hlive : p.winLive.getLsbD i
  · rw [Tab.get_map_mem 0 _ (List.mem_filter.mpr ⟨List.mem_range.mpr hi, by rw [hlive]; rfl⟩)]
    simp only [true_and]
  · rw [Tab.get_map_not_mem 0 _ (by simp [hlive])]
    simp

section
variable {s : State} {n : Nat} {p : Port} (hn : n = s.inp.port) (hp : p = s.port n) (hst : p.st = .active)
include hn hp hst

theorem laneLossOfLock_active (hl : s.inp.lane < 8) :
    exec .laneLossOfLock s = .next (s.setPort n { p with lockLost := p.lockLost.add s.inp.lane }) := by
  subst hp hn
  have htrain : ¬((s.port s.inp.port).st = .training ∧ ((s.port s.inp.port).phase = .speed ∨ (s.port s.inp.port).phase = .map)) := by
    rw [hst]; exact fun h => absurd h.1 (by decide)
  show execLaneLossOfLock s = _
  rw [execLaneLossOfLock, event, if_neg (Nat.not_le.mpr hl), if_neg htrain, if_pos (.inl hst)]

theorem laneWindowEnd_early (hw : p.winRows < 2 ^ p.winexp.toNat) : exec .laneWindowEnd s = .next s := by
  subst hp hn
  exact congrArg Host.Outcome.next (if_neg fun h => absurd h.2.2 (Nat.not_le.mpr hw))

theorem laneWindowEnd_full (hs : s.stopped = false) (hw : 2 ^ p.winexp.toNat ≤ p.winRows) : exec .laneWindowEnd s = .next (s.endWindow n) := by
  subst hp hn
  exact congrArg Host.Outcome.next (if_pos ⟨hst, by rw [hs]; rfl, hw⟩)

theorem codewordRowReceive_eq (hs : s.stopped = false) :
    exec .codewordRowReceive s = .next ((if p.window ≤ p.winRows then s.endWindow n else s).receiveRow n s.inp.row) := by
  subst hp hn
  exact congrArg Host.Outcome.next (if_neg (by simp [hst, hs]))

end

theorem State.endWindow_eq {s t : State} {n : Nat} {p w : Port} {back : List Nat} (hp : p = s.port n) (hw : w = p.closeWindow)
    (ht : t = s.setPort n w) (hb : back = (w.clean.filter fun e => decide (p.admwin.toNat ≤ e.2)).map fun e => e.1) :
    s.endWindow n = if back.isEmpty || w.rxProp.isSome then t
      else t.proposeRx n (back.foldl (fun m i => m ||| ((1 : BitVec 8) <<< i)) w.rxmap) true := by
  subst hb ht hw hp
  rfl

theorem lthrWrite_eq {s : State} {n : Nat} {p : Port} (hn : n = s.inp.port) (hp : p = s.port n) (hpow : s.powered = true) (hb : s.bootst ≠ 15)
    (h48 : n < 48) : exec .lthrWrite s = .next (s.setPort n { p with lthrNext := some (s.inp.v.setWidth 40) }) := by
  subst hp hn
  have hon : (s.powered && s.bootst != 15 && decide (s.inp.port < Config.ports)) = true := by
    rw [hpow, bne_iff_ne.mpr hb, decide_eq_true (show s.inp.port < Config.ports from h48)]; rfl
  have hv : (s.inp.v.setWidth 64).setWidth 40 = s.inp.v.setWidth 40 := BitVec.setWidth_setWidth_of_le _ (by decide)
  show execLthrWrite s = _
  rw [execLthrWrite, event, State.writeLthr, hon, if_pos rfl, hv]

/-! ## Changes of the lane maps (R51) -/

section
variable {s : State} {n : Nat} {p : Port} {m : BitVec 8} {adm : Bool} (hp : p = s.port n)
include hp

omit hp in
/-- A mask of fewer than two lanes is no proposal: the port retrains. -/
theorem State.proposeRx_retrains (h : width m < 2) : s.proposeRx n m adm = s.trainPort n false := if_pos h

theorem State.proposeRx_sends (h : 2 ≤ width m) (hnew : p.rxProp ≠ some (m, adm)) (hm : m ≠ p.rxmap) : s.proposeRx n m adm =
    s.setPort n { p with rxProp := some (m, adm), rxchg := true, ctl := p.ctl ++ [(6, laneBody (if adm then 4 else 1) m)] } := by
  subst hp
  have hgo : ¬((s.port n).rxProp = some (m, adm) ∨ m = (s.port n).rxmap) := not_or.mpr ⟨hnew, hm⟩
  simp only [State.proposeRx, if_neg (Nat.not_lt.mpr h), if_neg hgo, State.queueCtl_setPort]

theorem State.acceptTx_switches (h : 2 ≤ width m) (hnew : p.txNew = none) (hm : m ≠ p.txmap) : s.acceptTx n m adm = s.switchTx n m := by
  subst hp
  simp only [State.acceptTx, if_neg (Nat.not_lt.mpr h), hnew, if_neg hm]

theorem State.acceptTx_holds {x : BitVec 8} (h : 2 ≤ width m) (hnew : p.txNew = some x) (hx : x ≠ m) :
    s.acceptTx n m adm = s.setPort n { p with txHeld := some (m, adm) } := by
  subst hp
  simp only [State.acceptTx, if_neg (Nat.not_lt.mpr h), hnew, if_neg hx]

theorem State.closeTx_of_none (h : p.txHeld = none) : s.closeTx n = s.setPort n { p with txchg := false, txNew := none } := by
  subst hp
  simp only [State.closeTx, h]

omit hp in
/-- A flit sent outside the sequence is the one sent last, and leaves all but the stream and its counter. -/
theorem State.port_sendCtl (s : State) (n : Nat) (ty : BitVec 3) (body : BitVec 512) : ∃ fl b o r u, (s.sendCtl n ty body).port n =
    { s.port n with sent := (s.port n).sent ++ [fl], txBytes := b, txOdd := o, rows := r, unseqTx := u } := by
  obtain ⟨b, o, r, he⟩ := (s.port n).emit_eq [mkFlit (s.txKey n (2 ^ 63 + (s.port n).unseqTx)) ty 0 (s.port n).txSeq (s.port n).rxLast 0 body]
  exact ⟨_, b, o, r, _, by rw [State.sendCtl, State.port_setPort, he]⟩

/-- A switch of the transmit map sends one flit, COMMIT, before the buffer goes again. -/
theorem State.port_switchTx (m : BitVec 8) : ∃ fl b o r u c, (s.switchTx n m).port n = { p with
    txmap := m, txchg := true, txNew := some m, sent := p.sent ++ fl :: p.retry.map (fun e => e.2)
    txBytes := b, txOdd := o, rows := r, unseqTx := u, replays := c } := by
  subst hp
  obtain ⟨b, o, r, hfill⟩ := (s.port n).fillRow_eq
  generalize ht : (s.setPort n { (s.port n).fillRow with txmap := m, txchg := true, txNew := some m }).mapEvent n 0 (s.port n).txmap m = t
  have hport : t.port n = { (s.port n).fillRow with txmap := m, txchg := true, txNew := some m } := by
    rw [← ht, State.port_mapEvent, State.port_setPort]
  obtain ⟨fl, b', o', r', u, hsend⟩ := t.port_sendCtl n 6 (laneBody 2 m)
  obtain ⟨b'', o'', r'', c, hresend, -⟩ := ((t.sendCtl n 6 (laneBody 2 m)).port n).resendAll_eq
  refine ⟨fl, b'', o'', r'', u, c, ?_⟩
  rw [State.switchTx]
  simp only [ht, State.port_setPort]
  rw [hresend, hsend, hport, hfill]
  simp only [List.append_assoc, List.singleton_append]

/-- The receiver adopts a map; `o` tells whether its own proposal of another map stays open. -/
theorem State.port_adoptRx (hm : m ≠ p.rxmap) : ∃ o, (s.adoptRx n m).port n = { p with
      rxmap := m, rxBytes := [], rxProp := if o then p.rxProp else none, rxchg := o, winLive := p.winLive ||| m
      clean := p.clean.filter fun e => !(m.getLsbD e.1), ctl := p.ctl ++ [(6, laneBody 3 m)] } ∧
    (p.rxProp = none ∨ (p.rxProp.map fun e => e.1) = some m → o = false) := by
  subst hp
  refine ⟨(s.port n).rxProp.any fun e => e.1 != m, ?_, ?_⟩
  · rcases h : (s.port n).rxProp with _ | ⟨x, a⟩ <;>
      simp only [State.adoptRx, if_neg hm, h, State.port_queueCtl, State.port_mapEvent, State.port_setPort, Option.any_none, Option.any_some]
  · rcases h : (s.port n).rxProp with _ | ⟨x, a⟩
    · exact fun _ => rfl
    · simp

end

/-! ## The statement on lanes -/

/-- Settles O50: a row is received by definition; counting is by lane, and each change of a map is one lemma. -/
theorem laneEvents : Obligations.lane_events := by
  intro s n p hn hp hst hs
  refine ⟨?row, fun hold k => ⟨fun hl hh => takeFlits_takes hp hst hl hh, fun hh => takeFlits_stops k hp hh⟩,
    fun row m i k w hw hi hm hk => getD_destripe hw hi hm hk, ?counted, fun i bad => ⟨by rw [Port.countLane_eq], p.winCnt_countLane i bad⟩,
    fun i hi => Port.mem_failing hi, fun h => State.shedFailing_of_nil (hp ▸ h),
    fun m h hm => ⟨State.shedFailing_proposes hp h hm, fun i hi => ?dropped⟩,
    fun hl => laneLossOfLock_active hn hp hst hl, fun hw => laneWindowEnd_early hn hp hst hw, ?windowEnd,
    fun i hi => ⟨p.lanecnt_closeWindow hi, p.clean_closeWindow hi⟩, p.closeWindow_counts, fun v h => Port.closeWindow_lthr h,
    fun hpow hb h48 => lthrWrite_eq hn hp hpow hb h48,
    fun m adm => ⟨fun h => State.proposeRx_retrains h, fun h hnew hm => State.proposeRx_sends hp h hnew hm⟩,
    fun m adm h => ⟨fun hnew hm => State.acceptTx_switches hp h hnew hm, fun x hnew hx => State.acceptTx_holds hp h hnew hx⟩,
    ?switched, fun h => State.closeTx_of_none hp h, ?adopted⟩
  case row =>
    intro q act odd m z a b c hz hq hact hodd hm ha hb hc
    rw [codewordRowReceive_eq hn hp hst hs, ← hz]
    subst hc hb ha hm hodd hact hq
    rfl
  case counted =>
    intro row odd i b z hz hi hb
    have hrows := p.winRows_countRow row odd
    rcases hw : row.find? (fun w => w.lane == i) with _ | w
    · obtain ⟨hcnt, hcon, hlock⟩ := Port.laneView_eq_iff.mp (Port.laneView_countRow_absent (odd := odd) hw p hi)
      simp only [hw] at hb
      subst hb hz
      exact ⟨hcnt, hcon, by rw [hlock, hw], hrows⟩
    · obtain ⟨hcnt, hcon, hlock⟩ := Port.laneView_eq_iff.mp (Port.laneView_countRow_found (odd := odd) hw p hi)
      simp only [hw] at hb
      subst hb hz
      exact ⟨hcnt, hcon, by rw [hlock, hw], hrows⟩
  case dropped =>
    subst hm
    have hi8 : i < 8 := (mem_lanesOf.mp (List.mem_filter.mp hi).1).1
    rw [getLsbD_dropLanes _ _ hi8, decide_eq_false (not_not.mpr hi), Bool.and_false]
  case windowEnd =>
    intro w back t hfull hw ht hback
    rw [laneWindowEnd_full hn hp hst hs hfull, State.endWindow_eq hp hw ht hback]
    refine ⟨fun h => ?stays, fun hne hprop => ?readmits⟩
    case stays => rw [if_pos (by rcases h with h | h <;> simp [h])]
    case readmits => rw [if_neg (by simp [hne, hprop])]
  case switched =>
    intro m q hq
    obtain ⟨fl, b, o, r, u, c, he⟩ := State.port_switchTx hp m
    rw [hq, he]
    exact ⟨rfl, rfl, rfl, rfl, fl, rfl⟩
  case adopted =>
    intro m q hm hq
    obtain ⟨o, he, ho⟩ := State.port_adoptRx hp hm
    rw [hq, he]
    exact ⟨rfl, rfl, rfl, rfl, fun h => ⟨by rw [ho h]; rfl, ho h⟩⟩

end Sys2Proof.Machine
end

section
/-! SUPPORT. Training of a port and its registers (R54 to R58, R66, R77): a training word by its kind and the port's phase, the end of training, and
what the bits of LCTL do, and the statement O51. -/

namespace Sys2Proof.Machine

/-! ## Training words (R55, R58) -/

section
variable {s : State} {n : Nat} {p : Port} {w : BitVec 128} (hn : n = s.inp.port) (hp : p = s.port n) (hw : w = s.inp.v.extractLsb' 0 128)
include hn hp

section
include hw

omit hn hp in
/-- A word with a bad CRC or a reserved field that is not zero changes nothing. -/
theorem trainingWordReceive_bad (h : w.extractLsb' 32 40 ≠ 0 ∨ crc32c (toBytes (w.extractLsb' 32 96).toNat 12) ≠ w.extractLsb' 0 32) :
    exec .trainingWordReceive s = .next s := by
  rw [xb_self] at hw
  subst hw
  exact congrArg Host.Outcome.next (if_neg fun hgood => h.elim (fun h => h hgood.2.2.1) fun h => h hgood.2.2.2)

theorem trainingWordReceive_good (hst : p.st = .training) (hcan : s.canTrain = true) (hres : w.extractLsb' 32 40 = 0)
    (hcrc : crc32c (toBytes (w.extractLsb' 32 96).toNat 12) = w.extractLsb' 0 32) : exec .trainingWordReceive s = .next (s.trainWord n w) := by
  rw [xb_self] at hw
  subst hw hp hn
  exact congrArg Host.Outcome.next (if_pos ⟨hst, hcan, hres, hcrc⟩)

end

theorem trainingWordRepeat_eq (hst : p.st = .training) (hcan : s.canTrain = true) : exec .trainingWordRepeat s = .next (s.sendWord n) := by
  subst hp hn
  exact congrArg Host.Outcome.next (if_pos ⟨hst, hcan⟩)

theorem laneLossOfLock_early (hst : p.st = .training) (hl : s.inp.lane < 8) (hph : p.phase = .speed ∨ p.phase = .map) :
    exec .laneLossOfLock s = .next (s.setPort n { p with lanesRx := dropLanes p.lanesRx [s.inp.lane] }) := by
  subst hp hn
  show execLaneLossOfLock s = _
  rw [execLaneLossOfLock, event, if_neg (Nat.not_le.mpr hl), if_pos ⟨hst, hph⟩]

theorem laneLossOfLock_late (hst : p.st = .training) (hl : s.inp.lane < 8) (hph : p.phase = .confirm ∨ p.phase = .ready) :
    exec .laneLossOfLock s = .next (s.setPort n { p with lockLost := p.lockLost.add s.inp.lane }) := by
  subst hp hn
  have hearly : ¬((s.port s.inp.port).st = .training ∧ ((s.port s.inp.port).phase = .speed ∨ (s.port s.inp.port).phase = .map)) := by
    rcases hph with h | h <;> simp [h]
  show execLaneLossOfLock s = _
  rw [execLaneLossOfLock, event, if_neg (Nat.not_le.mpr hl), if_neg hearly, if_pos (.inr hst)]

end

section
variable {s : State} {n : Nat} {p t : Port} {w : BitVec 128} (hp : p = s.port n)
include hp

/-- A neighbour of a group above 544 is refused. -/
theorem State.trainWord_refused (h : 544 < (w.extractLsb' 81 15).toNat / 32) : s.trainWord n w = s.setPort n { p with st := .down, idBad := true } := by
  subst hp
  exact if_pos h

variable (hid : (w.extractLsb' 81 15).toNat / 32 ≤ 544) (ht : t = { p with
  peerId := w.extractLsb' 81 15, peerPort := w.extractLsb' 75 6, lanesRx := if p.phase = .speed then s.inp.map else p.lanesRx })
include hid ht

theorem State.trainWord_speed (hk : w.extractLsb' 124 4 = 0) (hv : w.extractLsb' 120 4 = 1) (hph : p.phase = .speed) :
    s.trainWord n w = (s.setPort n { t with phase := .map }).sendWord n := by
  subst ht hp
  have hk' : (w.extractLsb' 124 4).toNat = 0 := congrArg BitVec.toNat hk
  have hv' : (w.extractLsb' 120 4).toNat = 1 := congrArg BitVec.toNat hv
  simp only [State.trainWord, if_neg (Nat.not_lt.mpr hid), hk', hv', hph, if_true]

theorem State.trainWord_map (hk : w.extractLsb' 124 4 = 1) (hph : p.phase = .speed ∨ p.phase = .map) : s.trainWord n w =
    (s.setPort n { t with phase := .confirm, peerTx := w.extractLsb' 112 8, peerRx := w.extractLsb' 104 8 }).sendWord n := by
  subst ht hp
  have hk' : (w.extractLsb' 124 4).toNat = 1 := congrArg BitVec.toNat hk
  rcases hph with hph | hph <;> simp only [State.trainWord, if_neg (Nat.not_lt.mpr hid), hk', hph]

theorem State.trainWord_confirm (hk : w.extractLsb' 124 4 = 2) (hph : p.phase = .confirm) : s.trainWord n w =
    (s.setPort n t).confirmWord n (w.extractLsb' 120 4).toNat (w.extractLsb' 100 4).toNat (w.extractLsb' 96 4).toNat (w.extractLsb' 112 8)
      (w.extractLsb' 104 8) := by
  subst ht hp
  have hk' : (w.extractLsb' 124 4).toNat = 2 := congrArg BitVec.toNat hk
  simp only [State.trainWord, if_neg (Nat.not_lt.mpr hid), hk', hph]

theorem State.trainWord_ready (hk : w.extractLsb' 124 4 = 3) (hph : p.phase = .confirm ∨ p.phase = .ready) :
    s.trainWord n w = (s.setPort n { t with gotReady := true }).tryFinish n := by
  subst ht hp
  have hk' : (w.extractLsb' 124 4).toNat = 3 := congrArg BitVec.toNat hk
  rcases hph with hph | hph <;> simp only [State.trainWord, if_neg (Nat.not_lt.mpr hid), hk', hph]

end

theorem State.confirmWord_eq {s : State} {n speed txw rxw : Nat} {tx rx : BitVec 8} {d : BitVec 4} {t : Port}
    (hd : d = disagreement speed txw rxw tx rx (t.lanesTx &&& t.peerRx) (t.peerTx &&& t.lanesRx)) :
    (s.setPort n t).confirmWord n speed txw rxw tx rx = if d ≠ 0 then (s.setPort n t).strandPort n d
      else ((s.setPort n { t with phase := .ready, sentReady := true }).sendWord n).tryFinish n := by
  subst hd
  simp only [State.confirmWord, State.port_setPort, State.setPort_setPort]

/-- The fields of a training word that is sent. -/
theorem Port.wordBits_fields (p : Port) (devid : BitVec 15) (n : Nat) {b : BitVec 96} (hb : b = p.wordBits devid n) :
    b.extractLsb' 92 4 = BitVec.ofNat 4 p.phase.code ∧ b.extractLsb' 88 4 = 1 ∧ b.extractLsb' 80 8 = p.wordMaps.1 ∧
    b.extractLsb' 72 8 = p.wordMaps.2 ∧ b.extractLsb' 49 15 = devid ∧ b.extractLsb' 43 6 = BitVec.ofNat 6 n ∧ b.extractLsb' 40 3 = p.strcnt ∧
    b.extractLsb' 0 40 = 0 := by
  subst hb
  rw [Port.wordBits]
  simp (disch := decide) only [xb_lo, xb_hi]
  simp only [Nat.reduceAdd, Nat.reduceSub, xb_self, and_self]

/-! ## The end of training (R54 to R57) -/

section
variable {s : State} {n : Nat} {p : Port} {tx rx : BitVec 8} (hp : p = s.port n)
include hp

theorem State.tryFinish_waits (h : p.sentReady = false ∨ p.gotReady = false) : s.tryFinish n = s := by
  subst hp
  exact if_neg (by rcases h with h | h <;> simp [h])

theorem State.tryFinish_finishes (hsent : p.sentReady = true) (hgot : p.gotReady = true) : s.tryFinish n = s.finishTraining n := by
  subst hp
  exact if_pos (by rw [hsent, hgot]; rfl)

/-- A Stranded outcome (R56). -/
theorem State.strandPort_eq {d : BitVec 4} {k : BitVec 3} (hk : k = p.strcnt + 1) : s.strandPort n d = (s.setPort n { p with
    st := if k.toNat < 3 then .stranded else .markedDown, disag := d, strcnt := k, backoff := decide (k.toNat < 3) }).strandEvent 3 n
    [k.setWidth 8, d.setWidth 8] := by
  subst hk hp
  rfl

variable (htx : tx = p.lanesTx &&& p.peerRx) (hrx : rx = p.peerTx &&& p.lanesRx)
include htx hrx

theorem State.finishTraining_narrow (h : width tx < 2 ∨ width rx < 2) :
    s.finishTraining n = (s.setPort n { p with st := .down, txmap := tx, rxmap := rx }).portChanged := by
  subst htx hrx hp
  exact if_pos h

theorem State.finishTraining_wide {u : Port}
    (hu : u = { p with st := .active, txmap := tx, rxmap := rx, winLive := rx, strcnt := 0, perhopOn := p.perhop })
    (h2tx : 2 ≤ width tx) (h2rx : 2 ≤ width rx) : s.finishTraining n = (s.setPort n (if p.keepSeq then u.resendAll
      else { u.nextBlock with cred := (List.range 8).map fun v => (v, if v < 6 then 128 else 192) })).portChanged := by
  subst hu htx hrx hp
  exact if_neg (by omega)

end

/-- A training starts, and keeps the sequence and the retry buffer or not (R54). -/
theorem Port.train_eq (p : Port) (keep : Bool) : (p.train keep).st = .training ∧ (p.train keep).phase = .speed ∧
    (keep = true → (p.train keep).retry = p.retry ∧ (p.train keep).txSeq = p.txSeq ∧ (p.train keep).rxExpect = p.rxExpect) ∧
    (p.train keep).winRows = 0 ∧ (p.train keep).lthrNext = p.lthrNext ∧
    (keep = false → (p.train keep).retry = [] ∧ (p.train keep).txSeq = 0 ∧ (p.train keep).rxExpect = 0 ∧ (p.train keep).rxLast = 0xFFF) := by
  cases keep
  · exact ⟨rfl, rfl, nofun, rfl, rfl, fun _ => ⟨rfl, rfl, rfl, rfl⟩⟩
  · exact ⟨rfl, rfl, fun _ => ⟨rfl, rfl, rfl⟩, rfl, rfl, nofun⟩

section
variable {s : State} {n : Nat} {p : Port} (hn : n = s.inp.port) (hp : p = s.port n)
include hn hp

theorem strandedBackoffExpiry_eq (hst : p.st = .stranded) (hb : p.backoff = true) :
    exec .strandedBackoffExpiry s = .next (s.trainPort n false) := by
  subst hp hn
  exact congrArg Host.Outcome.next (if_pos ⟨hst, hb⟩)

theorem downRetrainTimer_eq (hst : p.st = .down) (hh : p.hold = false) (hid : p.idBad = false) :
    exec .downRetrainTimer s = .next (s.trainPort n false) := by
  subst hp hn
  exact congrArg Host.Outcome.next (if_pos ⟨hst, by rw [hh]; rfl, by rw [hid]; rfl⟩)

/-! ## The port registers (R54, R56, R57, R66, R77) -/

theorem portDegradeWindow_eq (h48 : n < 48) : exec .portDegradeWindow s = .next (s.setPort n { p with
    degraded := decide (p.replayBase.toNat + s.router.rplim.toNat < p.replays.toNat), replayBase := p.replays }) := by
  subst hp hn
  exact congrArg Host.Outcome.next (if_pos h48)

/-- A write of LCTL that meets its event's condition. -/
theorem lctlEvent_eq {f : BitVec 64 → Port → Bool} {v : BitVec 64} (hv : v = s.inp.v.setWidth 64) (hpow : s.powered = true)
    (hb : s.bootst ≠ 15) (h48 : n < 48) (hf : f v p = true) : lctlEvent f s = s.writeLctl n v := by
  subst hv hp hn
  refine if_pos ?_
  rw [hpow, bne_iff_ne.mpr hb, decide_eq_true (show s.inp.port < Config.ports from h48), hf]
  rfl

end


/-- The bits that a write of LCTL stores, and CLRCNT. -/
def State.lctlBits (s : State) (n : Nat) (v : BitVec 64) : State :=
  let t := s.setPort n { s.port n with hold := v.getLsbD 4, perhop := v.getLsbD 3 }
  if v.getLsbD 6 then t.setPort n { t.port n with replays := 0, crcerr := 0, lanecnt := [], replayBase := 0 } else t

/-- HOLD of a write of LCTL, in a state `t` whose port was `p` before the write. -/
def State.lctlHold (t : State) (n : Nat) (p : Port) (hold : Bool) : State :=
  if p.st == .markedDown then t
  else if hold && !p.hold then (t.setPort n { t.port n with st := .down }).portChanged
  else if !hold && p.hold then t.trainPort n false
  else t

/-- CLRDOWN and RETRAIN of a write of LCTL. -/
def State.lctlTrain (r : State) (n : Nat) (p : Port) (v : BitVec 64) : State :=
  if v.getLsbD 7 then
    let u := r.setPort n { r.port n with strcnt := 0, st := if p.st == .markedDown then .down else (r.port n).st }
    if v.getLsbD 4 then u else u.trainPort n false
  else if v.getLsbD 5 && !v.getLsbD 4 && !(p.st == .markedDown) then r.trainPort n (p.st == .active)
  else r

theorem State.writeLctl_eq (s : State) (n : Nat) (v : BitVec 64) :
    s.writeLctl n v = ((s.lctlBits n v).lctlHold n (s.port n) (v.getLsbD 4)).lctlTrain n (s.port n) v := by
  rfl

section
variable {t : State} {n : Nat} {p : Port} {hold : Bool}

theorem State.lctlHold_stands (h : hold = p.hold ∨ p.st = .markedDown) : t.lctlHold n p hold = t := by
  rcases h with rfl | h
  · cases hh : p.hold <;> simp [State.lctlHold, hh]
  · simp [State.lctlHold, h]

theorem State.lctlHold_sets (hm : p.st ≠ .markedDown) (hh : p.hold = false) (h : hold = true) :
    t.lctlHold n p hold = (t.setPort n { t.port n with st := .down }).portChanged := by
  simp [State.lctlHold, hm, hh, h]

theorem State.lctlHold_releases (hm : p.st ≠ .markedDown) (hh : p.hold = true) (h : hold = false) :
    t.lctlHold n p hold = t.trainPort n false := by
  simp [State.lctlHold, hm, hh, h]

end

section
variable {s t r : State} {n : Nat} {p : Port} {v : BitVec 64}

theorem State.lctlTrain_of_none (h7 : v.getLsbD 7 = false) (h : v.getLsbD 5 = false ∨ v.getLsbD 4 = true) : r.lctlTrain n p v = r := by
  rcases h with h | h <;> simp only [State.lctlTrain, h7, h, Bool.false_eq_true, Bool.false_and, Bool.not_true, Bool.and_false, if_false]

theorem State.lctlTrain_retrains (h7 : v.getLsbD 7 = false) (h5 : v.getLsbD 5 = true) (h4 : v.getLsbD 4 = false) (hm : p.st ≠ .markedDown) :
    r.lctlTrain n p v = r.trainPort n (p.st == .active) := by
  have hgo : (v.getLsbD 5 && !v.getLsbD 4 && !(p.st == .markedDown)) = true := by rw [h5, h4, beq_false_of_ne hm]; rfl
  simp only [State.lctlTrain, h7, hgo, Bool.false_eq_true, if_false, if_true]

theorem State.lctlTrain_clrdown {u : State} (h7 : v.getLsbD 7 = true) (hst : (r.port n).st = p.st)
    (hu : u = r.setPort n { r.port n with strcnt := 0, st := if p.st = .markedDown then .down else p.st }) :
    r.lctlTrain n p v = if v.getLsbD 4 then u else u.trainPort n false := by
  have hmarked : (if p.st == .markedDown then PortSt.down else (r.port n).st) = if p.st = .markedDown then .down else p.st :=
    if_congr beq_iff_eq rfl hst
  rw [State.lctlTrain, if_pos h7, hmarked, hu]

/-- What a write of LCTL stores. -/
theorem State.lctlBits_eq {q : Port} (hp : p = s.port n) (hq : q = { p with hold := v.getLsbD 4, perhop := v.getLsbD 3 })
    (ht : t = s.setPort n (if v.getLsbD 6 then { q with replays := 0, crcerr := 0, lanecnt := [], replayBase := 0 } else q)) :
    s.lctlBits n v = t := by
  subst ht hq hp
  unfold State.lctlBits
  cases v.getLsbD 6
  · rfl
  · simp only [if_true, State.port_setPort, State.setPort_setPort]

end

theorem State.st_port_lctlBits (s : State) (n : Nat) (v : BitVec 64) : ((s.lctlBits n v).port n).st = (s.port n).st := by
  rw [State.lctlBits_eq rfl rfl rfl, State.port_setPort]
  cases v.getLsbD 6 <;> rfl

/-! ## The statement on training and the port registers -/

/-- Settles O51: a training word by its kind and the phase, the end of training by the maps computed, and LCTL by its bits. -/
theorem trainingAndPortRegisterEvents : Obligations.training_and_port_register_events := by
  intro s n p w v hn hp hw hv
  refine ⟨?training, fun hst hl => ⟨fun hph => laneLossOfLock_early hn hp hst hl hph, fun hph => laneLossOfLock_late hn hp hst hl hph⟩,
    fun h => State.tryFinish_waits hp h, ?finish, fun d k hk => State.strandPort_eq hp hk,
    fun hcan keep => ⟨by rw [State.trainPort, if_pos hcan, hp], p.train_eq keep⟩,
    fun hst hb => strandedBackoffExpiry_eq hn hp hst hb, fun hst hh hid => downRetrainTimer_eq hn hp hst hh hid, ?lctl, ?written,
    fun h48 => portDegradeWindow_eq hn hp h48⟩
  case training =>
    intro hst hcan
    refine ⟨fun h => trainingWordReceive_bad hw h, fun hres hcrc => ⟨fun hid => ?refused, fun hid t u d ht hu => ?accepted⟩, fun b hb => ?sent⟩
    case refused => rw [trainingWordReceive_good hn hp hw hst hcan hres hcrc, State.trainWord_refused hp hid]
    case accepted =>
      rw [trainingWordReceive_good hn hp hw hst hcan hres hcrc]
      refine ⟨fun hk hspeed hph => by rw [State.trainWord_speed hp hid ht hk hspeed hph],
        fun hk hph => by rw [State.trainWord_map hp hid ht hk hph, hu], fun hk hph hd => ?confirm,
        fun hk hph => by rw [State.trainWord_ready hp hid ht hk hph]⟩
      have hlanes : t.lanesTx = p.lanesTx ∧ t.lanesRx = p.lanesRx ∧ t.peerTx = p.peerTx ∧ t.peerRx = p.peerRx := by
        rw [ht, hph]; exact ⟨rfl, rfl, rfl, rfl⟩
      obtain ⟨hltx, hlrx, hptx, hprx⟩ := hlanes
      rw [← hltx, ← hlrx, ← hptx, ← hprx] at hd
      rw [State.trainWord_confirm hp hid ht hk hph, State.confirmWord_eq hd]
      exact ⟨fun h => by rw [if_pos h], fun h => by rw [if_neg (not_not.mpr h)]⟩
    case sent =>
      obtain ⟨hphase, hspeed, htx, hrx, hdev, hport, hcnt, hres⟩ := p.wordBits_fields s.devid n hb
      refine ⟨?word, hphase, hspeed, hdev, hport, hcnt, hres, fun hph => ?before, fun hph => ?after⟩
      case word => rw [trainingWordRepeat_eq hn hp hst hcan, hb, hp]; rfl
      all_goals rw [htx, hrx]; rcases hph with hph | hph <;> simp only [Port.wordMaps, hph, and_self]
  case finish =>
    intro tx rx u hsent hgot htx hrx hu
    rw [State.tryFinish_finishes hp hsent hgot]
    refine ⟨fun h2tx h2rx hk => ?kept, fun h2tx h2rx hk => ?fresh, fun h => State.finishTraining_narrow hp htx hrx h⟩
    all_goals rw [State.finishTraining_wide hp htx hrx hu h2tx h2rx, hk]; rfl
  case lctl =>
    intro hpow hb h48
    refine ⟨fun h => ?clrdown, fun h => ?clrcnt, fun h => ?retrain, fun h => ?hold, fun h => ?perhop⟩
    all_goals exact congrArg Host.Outcome.next (lctlEvent_eq hn hp hv hpow hb h48 (by simpa using h))
  case written =>
    intro q t hq ht
    have hbits : s.lctlBits n v = t := State.lctlBits_eq hp hq ht
    rw [State.writeLctl_eq, hbits, ← hp]
    refine ⟨fun h7 h5 hh => ?bits, fun h7 h5 hm h4 hh => ?retrains, fun h7 h4 hh hm => ?sets, fun h7 h5 h4 hh hm => ?releases,
      fun h7 hh u hu => ?trainsAnew⟩
    case bits => rw [State.lctlHold_stands hh, State.lctlTrain_of_none h7 (.inl h5)]
    case retrains => rw [State.lctlHold_stands (.inl (h4.trans hh.symm)), State.lctlTrain_retrains h7 h5 h4 hm]
    case sets => rw [State.lctlHold_sets hm hh h4, State.lctlTrain_of_none h7 (.inr h4)]
    case releases => rw [State.lctlHold_releases hm hh h4, State.lctlTrain_of_none h7 (.inl h5)]
    case trainsAnew =>
      have hst : (t.port n).st = p.st := by rw [← hbits, State.st_port_lctlBits, hp]
      rw [State.lctlHold_stands (.inl hh), State.lctlTrain_clrdown h7 hst hu, hh]

end Sys2Proof.Machine
end

section
/-! SUPPORT. Routing (R62, R63, R65 to R70): the routes that a held packet can take, one lemma per choice, the events that move it, and the statement
O52. -/

namespace Sys2Proof.Machine

/-! ## Channels and ports (R63, R66) -/

theorem vc_succ_toNat {v : BitVec 3} (h : v.toNat < 6) : (v + 1).toNat = v.toNat + 1 := by bv_omega

/-- The channel after the first phase of a detour, as a number and as a field. -/
theorem vc_phase_toNat {v : BitVec 3} (p : Prop) [Decidable p] (h : v.toNat < 6) :
    (if p then v + 1 else v).toNat = if p then v.toNat + 1 else v.toNat := by
  rw [apply_ite BitVec.toNat, vc_succ_toNat h]

theorem State.takePort_toNat (s : State) (i : Nat) (h : Held) (n : Nat) (v : BitVec 3) :
    s.takePort i h n v.toNat = s.setHeld i { h with vc := v, next := some n } := by
  rw [State.takePort, BitVec.ofNat_toNat, BitVec.setWidth_eq]

theorem State.eligible_iff (s : State) (n : Nat) : s.eligible n = true ↔ (s.port n).st = .active ∧ 2 ≤ width (s.port n).txmap := by
  rw [State.eligible, Bool.and_eq_true, beq_iff_eq, decide_eq_true_iff]

section
variable {s : State} {i n : Nat} {h : Held}

theorem State.decides_iff : s.decides h = true ↔ h.arrived = none ∨ ∃ a, h.arrived = some a ∧
    (31 ≤ a ∨ (h.vc.toNat % 3 = 1 ∧ h.pkt.intm.toNat = s.devid.toNat)) := by
  unfold State.decides
  cases h.arrived with
  | none => simp
  | some a => simp [State.here]

/-! ## The kinds of route (R65) -/

theorem State.routeHeld_here (hv : h.vc.toNat < 6) (hd : h.pkt.dst.toNat = s.here) : s.routeHeld i h = s.eject i h := by
  rw [State.routeHeld, if_neg (by omega), if_pos hd]

section
variable (hv : h.vc.toNat < 6) (hd : h.pkt.dst.toNat ≠ s.here)
include hv hd

theorem State.routeHeld_local (hdec : s.decides h = true) (hg : groupId s.here = groupId h.pkt.dst.toNat) :
    s.routeHeld i h = s.chooseLocal i h := by
  rw [State.routeHeld, if_neg (by omega), if_neg hd, if_pos hdec, if_pos hg]

theorem State.routeHeld_global (hdec : s.decides h = true) (hg : groupId s.here ≠ groupId h.pkt.dst.toNat) :
    s.routeHeld i h = s.chooseGlobal i h := by
  rw [State.routeHeld, if_neg (by omega), if_neg hd, if_pos hdec, if_neg hg]

theorem State.routeHeld_path (hdec : s.decides h = false) : s.routeHeld i h = s.followPath i h := by
  rw [State.routeHeld, if_neg (by omega), if_neg hd, hdec]
  rfl

end

/-- A held packet takes its direct port where that is eligible, and else the ebb channel. -/
def State.takeDirect (s : State) (i : Nat) (h : Held) (vc : Nat) (m : Option Nat) : State :=
  m.elim (s.enterEbb i h) fun n => if s.eligible n then s.takePort i h n vc else s.enterEbb i h

/-- A held packet takes the port chosen among gateways, and without one the ebb channel. -/
def State.takeGateway (s : State) (i : Nat) (h : Held) (vc : Nat) (m : Option (Nat × Nat)) : State :=
  m.elim (s.enterEbb i h) fun e => s.takePort i h e.1 vc

/-- What taking the direct port comes to, by whether there is one and whether it is eligible. -/
theorem State.takeDirect_cases {m : Option Nat} {v : BitVec 3} :
    (m = some n → s.eligible n = true → s.takeDirect i h v.toNat m = s.setHeld i { h with vc := v, next := some n }) ∧
    (m = some n → s.eligible n = false → s.takeDirect i h v.toNat m = s.enterEbb i h) ∧
    (m = none → s.takeDirect i h v.toNat m = s.enterEbb i h) := by
  refine ⟨?eligible, ?blocked, ?none⟩
  case eligible => rintro rfl he; exact (if_pos he).trans (State.takePort_toNat ..)
  case blocked => rintro rfl he; exact if_neg (Bool.eq_false_iff.mp he)
  case none => rintro rfl; rfl

/-- What taking a gateway's port comes to. -/
theorem State.takeGateway_cases {m : Option (Nat × Nat)} {v : BitVec 3} :
    (∀ c, m = some (n, c) → s.takeGateway i h v.toNat m = s.setHeld i { h with vc := v, next := some n }) ∧
    (m = none → s.takeGateway i h v.toNat m = s.enterEbb i h) := by
  refine ⟨?some, ?none⟩
  case some => rintro c rfl; exact State.takePort_toNat ..
  case none => rintro rfl; rfl

/-! ## Routes behind the source (R65, R67) -/

theorem State.chooseLocal_arrived {v : BitVec 3} (ha : h.arrived.isSome = true) (hv : h.vc.toNat < 6)
    (hphase : v = if h.vc.toNat % 3 = 1 ∧ h.pkt.intm.toNat = s.here then h.vc + 1 else h.vc) :
    s.chooseLocal i h = s.takeDirect i h v.toNat (s.localPort (posOf h.pkt.dst.toNat)) := by
  rw [hphase, vc_phase_toNat _ hv]
  refine (if_pos ha).trans ?_
  cases s.localPort (posOf h.pkt.dst.toNat) <;> rfl

theorem State.chooseGlobal_arrived {v : BitVec 3} {dest : Nat} (ha : h.arrived.isSome = true) (hv : h.vc.toNat < 6)
    (hphase : v = if h.vc.toNat % 3 = 1 ∧ groupId s.here = groupId h.pkt.intm.toNat then h.vc + 1 else h.vc)
    (hdest : dest = if h.vc.toNat % 3 = 1 ∧ groupId s.here ≠ groupId h.pkt.intm.toNat then groupId h.pkt.intm.toNat
      else groupId h.pkt.dst.toNat) : s.chooseGlobal i h = s.takeGateway i h v.toNat (s.bestGateway dest v.toNat) := by
  rw [hphase, hdest, vc_phase_toNat _ hv]
  have hgo : s.chooseGlobal i h = _ := if_pos ha
  rw [hgo]
  simp only [Bool.and_eq_true, decide_eq_true_eq, beq_iff_eq, bne_iff_ne]
  generalize s.bestGateway _ _ = m
  cases m <;> rfl

theorem State.followPath_local (hg : groupId s.here = groupId h.pkt.dst.toNat) :
    s.followPath i h = s.takeDirect i h h.vc.toNat (s.localPort (posOf h.pkt.dst.toNat)) := by
  refine (if_pos hg).trans ?_
  cases s.localPort (posOf h.pkt.dst.toNat) <;> rfl

theorem State.followPath_global {dest : Nat} (hg : groupId s.here ≠ groupId h.pkt.dst.toNat)
    (hdest : dest = if h.vc.toNat % 3 = 1 ∧ groupId s.here ≠ groupId h.pkt.intm.toNat then groupId h.pkt.intm.toNat
      else groupId h.pkt.dst.toNat) :
    s.followPath i h = s.takeGateway i h h.vc.toNat (s.cheapest h.vc.toNat (s.ownGateways dest)) := by
  subst hdest
  refine (if_neg hg).trans ?_
  generalize s.cheapest _ _ = m
  cases m <;> rfl

/-! ## Routes from the source (R67) -/

/-- A draw changes the register of the draws only, on which no port and no gateway depends. -/
theorem State.localPort_drawRoute (s : State) (p : Nat) : s.drawRoute.1.localPort p = s.localPort p := rfl
theorem State.eligible_drawRoute (s : State) (p : Nat) : s.drawRoute.1.eligible p = s.eligible p := rfl
theorem State.bestGateway_drawRoute (s : State) (g vc : Nat) : s.drawRoute.1.bestGateway g vc = s.bestGateway g vc := rfl

/-- Inside the group: the position drawn, where its port beats the direct one by the bias. -/
theorem State.chooseLocal_source {k : Nat} (ha : h.arrived = none) (hv : h.vc.toNat % 3 ≠ 1)
    (hk : s.localPort (nthOther s.here h.pkt.dst.toNat (posOf s.here ^^^ (1 + s.drawRoute.2 % 30))) = some k)
    (hn : s.localPort (posOf h.pkt.dst.toNat) = some n) (hke : s.eligible k = true) (hne : s.eligible n = true) :
    s.chooseLocal i h =
      if 2 * s.portCost k (vcOf h.pkt 1) + 840 * s.router.nmbias.toNat < s.portCost n (vcOf h.pkt 0) then
        s.drawRoute.1.takeDetour i h k
          (groupId s.here * 32 + nthOther s.here h.pkt.dst.toNat (posOf s.here ^^^ (1 + s.drawRoute.2 % 30)))
      else s.drawRoute.1.setHeld i { h with next := some n } := by
  have hdirect := State.takePort_toNat s.drawRoute.1 i h n h.vc
  have hphase : ¬(h.vc.toNat % 3 = 1 ∧ h.pkt.intm.toNat = s.here) := fun e => hv e.1
  unfold State.chooseLocal
  simp only [ha, Option.isSome_none, Bool.false_eq_true, if_false, State.localPort_drawRoute, State.eligible_drawRoute, hk, hn, hke, hne,
    if_true, if_neg hphase, hdirect, Bool.not_true, Bool.false_or, Bool.true_and, decide_eq_true_eq]
  rfl

/-- The better of a detour found and one through another group: the cheaper, then the one with the lower port. -/
def State.betterDetour (s : State) (vc : Nat) (b : Option (Nat × Nat × Nat)) (k : Nat) : Option (Nat × Nat × Nat) :=
  match s.bestGateway k vc, b with
  | none, b => b
  | some (n, c), none => some (k, n, c)
  | some (n, c), some (k', n', c') => if c < c' ∨ (c = c' ∧ n < n') then some (k, n, c) else some (k', n', c')

section
variable {vc k m e : Nat} {ks : List Nat}

theorem State.betterDetour_skips {b : Option (Nat × Nat × Nat)} (hk : s.bestGateway k vc = none) : s.betterDetour vc b k = b := by
  simp only [State.betterDetour, hk]

theorem State.betterDetour_first (hk : s.bestGateway k vc = some (m, e)) : s.betterDetour vc none k = some (k, m, e) := by
  simp only [State.betterDetour, hk]

theorem State.betterDetour_next {k' m' e' : Nat} (hk : s.bestGateway k vc = some (m, e)) :
    s.betterDetour vc (some (k', m', e')) k = if e < e' ∨ (e = e' ∧ m < m') then some (k, m, e) else some (k', m', e') := by
  simp only [State.betterDetour, hk]

/-- A detour that goes through one of some groups, by its best gateway. -/
def State.DetourAmong (s : State) (vc : Nat) (ks : List Nat) (b : Option (Nat × Nat × Nat)) : Prop :=
  ∀ k m e, b = some (k, m, e) → k ∈ ks ∧ s.bestGateway k vc = some (m, e)

theorem State.betterDetour_among {b : Option (Nat × Nat × Nat)} (hb : s.DetourAmong vc ks b) (hk : k ∈ ks) :
    s.DetourAmong vc ks (s.betterDetour vc b k) := by
  cases hg : s.bestGateway k vc with
  | none => rwa [State.betterDetour_skips hg]
  | some x =>
    have hnew : s.DetourAmong vc ks (some (k, x)) := by rintro k m e ⟨⟩; exact ⟨hk, hg⟩
    cases b with
    | none => rwa [State.betterDetour_first hg]
    | some y =>
      rw [State.betterDetour_next hg]
      split
      · exact hnew
      · exact hb

/-- The best detour goes through one of the groups drawn. -/
theorem State.bestDetour_among : s.DetourAmong vc ks (ks.foldl (s.betterDetour vc) none) :=
  List.foldlRecOn (motive := s.DetourAmong vc ks) ks _ nofun fun _ hb _ hk => State.betterDetour_among hb hk

/-- The detour through group `k` over port `m` at cost `e` beats what has been found so far, or is that. -/
def Beats (k m e : Nat) (b : Option (Nat × Nat × Nat)) : Prop :=
  ∀ k' m' e', b = some (k', m', e') → b = some (k, m, e) ∨ e < e' ∨ (e = e' ∧ m < m')

section
variable (hg : s.bestGateway k vc = some (m, e))
include hg

theorem State.betterDetour_of_beats {b : Option (Nat × Nat × Nat)} (hb : Beats k m e b) : s.betterDetour vc b k = some (k, m, e) := by
  cases b with
  | none => exact State.betterDetour_first hg
  | some y =>
    rw [State.betterDetour_next hg]
    rcases hb _ _ _ rfl with h | h
    · rw [h, ite_self]
    · exact if_pos h

variable (hbest : ∀ k' m' e', k' ∈ ks → k' ≠ k → s.bestGateway k' vc = some (m', e') → e < e' ∨ (e = e' ∧ m < m'))
include hbest

theorem State.betterDetour_beaten {b : Option (Nat × Nat × Nat)} {j : Nat} (hb : Beats k m e b) (hj : j ∈ ks) :
    Beats k m e (s.betterDetour vc b j) := by
  by_cases hjk : j = k
  · rw [hjk, State.betterDetour_of_beats hg hb]; exact fun _ _ _ _ => .inl rfl
  cases hgj : s.bestGateway j vc with
  | none => rwa [State.betterDetour_skips hgj]
  | some x =>
    have hnew : Beats k m e (some (j, x)) := by rintro k' m' e' ⟨⟩; exact .inr (hbest j _ _ hj hjk hgj)
    cases b with
    | none => rwa [State.betterDetour_first hgj]
    | some y =>
      rw [State.betterDetour_next hgj]
      split
      · exact hnew
      · exact hb

theorem State.betterDetour_stays {j : Nat} (hj : j ∈ ks) : s.betterDetour vc (some (k, m, e)) j = some (k, m, e) := by
  by_cases hjk : j = k
  · rw [hjk]; exact State.betterDetour_of_beats hg fun _ _ _ _ => .inl rfl
  cases hgj : s.bestGateway j vc with
  | none => exact State.betterDetour_skips hgj
  | some x =>
    have hworse := hbest j x.1 x.2 hj hjk hgj
    rw [State.betterDetour_next hgj]
    exact if_neg (by omega)

/-- A group whose detour beats that of every other group drawn gives the best detour. -/
theorem State.bestDetour_eq (hk : k ∈ ks) : ks.foldl (s.betterDetour vc) none = some (k, m, e) := by
  obtain ⟨l, r, rfl⟩ := List.append_of_mem hk
  have hleft : Beats k m e (l.foldl (s.betterDetour vc) none) :=
    List.foldlRecOn (motive := Beats k m e) l _ nofun fun _ hb _ hj => State.betterDetour_beaten hg hbest hb (List.mem_append_left _ hj)
  rw [List.foldl_append, List.foldl_cons, State.betterDetour_of_beats hg hleft]
  refine List.foldlRecOn (motive := (· = some (k, m, e))) r _ rfl fun b hb j hj => ?_
  rw [hb, State.betterDetour_stays hg hbest (List.mem_append_right _ (List.mem_cons_of_mem _ hj))]

end

end

/-- The groups drawn that a detour can go through: those of the table but the packet's own two. -/
def State.detourGroups (s : State) (h : Held) : List Nat :=
  [s.drawRoute.2 % 545, s.drawRoute.1.drawRoute.2 % 545].filter fun k =>
    k != groupId s.here && k != groupId h.pkt.dst.toNat && (Sparse.get s.router.gtab k).getLsbD 42

/-- To another group: the best detour where it beats the best gateway by the bias. -/
theorem State.chooseGlobal_source {c : Nat} (ha : h.arrived = none) (hv : h.vc.toNat % 3 ≠ 1)
    (hn : s.bestGateway (groupId h.pkt.dst.toNat) h.vc.toNat = some (n, c)) : s.chooseGlobal i h =
      ((s.detourGroups h).foldl (s.betterDetour (vcOf h.pkt 1)) none).elim (s.drawRoute.1.drawRoute.1.setHeld i { h with next := some n })
        fun b => if 2 * b.2.2 + 840 * s.router.nmbias.toNat < c then s.drawRoute.1.drawRoute.1.takeDetour i h b.2.1 (b.1 * 32)
          else s.drawRoute.1.drawRoute.1.setHeld i { h with next := some n } := by
  have hdirect := State.takePort_toNat s.drawRoute.1.drawRoute.1 i h n h.vc
  unfold State.chooseGlobal
  simp only [ha, Option.isSome_none, Bool.false_eq_true, if_false, hv, decide_false, Bool.false_and, hn, hdirect]
  change (match List.foldl (s.betterDetour (vcOf h.pkt 1)) none (s.detourGroups h) with
    | none => _
    | some (k, n, c) => _) = _
  generalize List.foldl _ _ (s.detourGroups h) = b
  cases b with
  | none => rfl
  | some b => simp only [decide_eq_true_eq]; rfl

end

/-! ## Events of packets (R62, R65, R67, R68, R70) -/

section
variable {s : State} {i n : Nat} {h : Held} (hi : i = s.inp.index) (hh : s.router.held[i]? = some h) (hp : s.powered = true)
  (hs : s.stopped = false)
include hi hh hp hs

section
variable (hnext : h.next = none)
include hnext

/-- A link-local packet ends here; a marker is counted where it arrived. -/
theorem packetRoute_local (hl : h.pkt.isLocal = true) : exec .packetRoute s = .next
    ((if h.pkt.ptype = pDRAIN then h.arrived else none).elim (s.dropHeld i h) (fun a => (s.dropHeld i h).drainArrives a)) := by
  subst hi
  have hgo : (!s.routing || h.next.isSome) = false := by simp [State.routing, hp, hs, hnext]
  show execPacketRoute s = _
  simp only [execPacketRoute, event, hh, hgo, Bool.false_eq_true, if_false, hl, if_true]
  by_cases hd : h.pkt.ptype = pDRAIN
  · simp only [hd, if_true]
    cases h.arrived <;> rfl
  · simp only [hd, if_false]
    cases h.arrived <;> rfl

theorem packetRoute_eq (hl : h.pkt.isLocal = false) : exec .packetRoute s = .next (s.routeHeld i h) := by
  subst hi
  have hgo : (!s.routing || h.next.isSome) = false := by simp [State.routing, hp, hs, hnext]
  show execPacketRoute s = _
  simp only [execPacketRoute, event, hh, hgo, Bool.false_eq_true, if_false, hl]

end

section
variable (hnext : h.next = some n)
include hnext

theorem packetForward_eq (hv : h.vc.toNat < 6) : exec .packetForward s = .next
    (if s.eligible n = false then s.enterEbb i { h with next := none } else if (s.port n).credit h.vc = 0 then s else s.sendHeld i h n) := by
  subst hi
  have hgo : (!s.routing || decide (6 ≤ h.vc.toNat)) = false := by simp [State.routing, hp, hs, hv]
  show execPacketForward s = _
  simp only [execPacketForward, event, hh, hnext, hgo, Bool.false_eq_true, if_false, Bool.not_eq_true']

theorem ebbtExpiry_eq (hv : h.vc.toNat < 6) : exec .ebbtExpiry s = .next
    (if s.atHead i h = true ∧ s.blocked h = true ∧ h.pkt.isLocal = false then s.enterEbb i { h with next := none } else s) := by
  subst hi
  show execEbbtExpiry s = _
  simp only [execEbbtExpiry, event, hh, State.routing, hp, hs, hv, hnext, Bool.not_false, Bool.and_self, decide_true, Option.isSome_some,
    Bool.true_and, Bool.and_eq_true, Bool.not_eq_true', and_assoc]

theorem ebbPacketForward_sends (hv : 6 ≤ h.vc.toNat) (hl : h.pkt.isLocal = false) : exec .ebbPacketForward s = .next
    (if s.eligible n = false then s.discardHeld i h else if (s.port n).credit h.vc = 0 then s
      else if s.behindDrain h n = true then s else s.sendHeld i h n) := by
  subst hi
  have hgo : (!s.routing || decide (h.vc.toNat < 6) || h.pkt.isLocal) = false := by simp [State.routing, hp, hs, hl]; omega
  show execEbbPacketForward s = _
  simp only [execEbbPacketForward, event, hh, hnext, hgo, Bool.false_eq_true, if_false, Bool.not_eq_true']

end

theorem ebbPacketForward_routes (hv : 6 ≤ h.vc.toNat) (hnext : h.next = none) (hl : h.pkt.isLocal = false) :
    exec .ebbPacketForward s = .next (s.ebbRoute i h) := by
  subst hi
  have hgo : (!s.routing || decide (h.vc.toNat < 6) || h.pkt.isLocal) = false := by simp [State.routing, hp, hs, hl]; omega
  show execEbbPacketForward s = _
  simp only [execEbbPacketForward, event, hh, hnext, hgo, Bool.false_eq_true, if_false]

end

section
variable {s : State} {i n : Nat} {h : Held}

/-- A packet goes out with its hop counted, and at 63 hops it goes no further (R61, R67). -/
theorem State.sendHeld_eq : s.sendHeld i h n = if h.pkt.hops = 62 then s.discardHeld i h
    else (s.dropHeld i h).queuePacket n h.vc { h.pkt with hops := h.pkt.hops + 1 } := by
  have hlast : h.pkt.hops + 1 = 63 ↔ h.pkt.hops = 62 := by constructor <;> intro h <;> bv_omega
  simp only [State.sendHeld, hlast]

/-- A packet is blocked when no port that it can take holds a credit (R68). -/
theorem State.blocked_iff (hnext : h.next = some n) :
    s.blocked h = true ↔ (s.port n).credit h.vc = 0 ∧ ∀ m ∈ s.candidates h, (s.port m).credit h.vc = 0 := by
  simp only [State.blocked, hnext, Option.toList_some, List.singleton_append, List.all_cons, List.all_eq_true, Bool.and_eq_true, beq_iff_eq]

/-- A packet waits for its port's marker: one of this device's new generation, while it drains or before it has flipped (R71). -/
theorem State.behindDrain_iff : s.behindDrain h n = true ↔
    (s.router.draining = true ∧ h.pkt.egen = s.router.egen ∧ (s.port n).drainSent = false) ∨
    (s.router.draining = false ∧ s.router.switchOpen = true ∧ s.router.reported = false ∧ h.pkt.egen ≠ s.router.egen) := by
  cases hd : s.router.draining <;> simp [State.behindDrain, hd, and_assoc]

/-- The ebb table's route: here, over an eligible port, or to a discard (R70). -/
theorem State.ebbRoute_cases {e : Byte} (he : e = s.ebbEntry h.pkt.egen h.pkt.dst.toNat) (hn : n = e.toNat % 64) :
    (h.pkt.dst.toNat = s.here → s.ebbRoute i h = s.eject i h) ∧
    (h.pkt.dst.toNat ≠ s.here → e.getLsbD 7 = true → s.eligible n = true → s.ebbRoute i h = s.setHeld i { h with next := some n }) ∧
    (h.pkt.dst.toNat ≠ s.here → e.getLsbD 7 = false ∨ s.eligible n = false → s.ebbRoute i h = s.discardHeld i h) := by
  have hport : (e.extractLsb' 0 6).toNat = n := by rw [hn, BitVec.extractLsb'_toNat]; rfl
  have hroute : s.ebbRoute i h = if h.pkt.dst.toNat = s.here then s.eject i h
      else if !e.getLsbD 7 || !s.eligible n then s.discardHeld i h else s.setHeld i { h with next := some n } := by
    rw [← hport, he]; rfl
  rw [hroute]
  refine ⟨fun hd => if_pos hd, fun hd h7 hel => ?port, fun hd h => ?discard⟩
  case port => rw [if_neg hd, h7, hel]; rfl
  case discard => rw [if_neg hd]; exact if_pos (by rcases h with h | h <;> simp only [h, Bool.not_false, Bool.or_true, Bool.true_or])

end

/-! ## The statement on packets -/

/-- Settles O52: one lemma per kind of route, by where the packet stands on its path, and one per event that moves it. -/
theorem packetEvents : Obligations.packet_events := by
  intro s i h n g gd gi hi hh hp hs hg hgd hgi
  subst hg hgd hgi
  refine ⟨packetRoute_local hi hh hp hs, fun hnext hl hv t ht => ⟨ht ▸ packetRoute_eq hi hh hp hs hnext hl, ?here, fun hd => ?route⟩,
    State.decides_iff, fun hnext hv => ?forward, rfl, fun hv hnext hl => ?ebb, ?table, fun p _ => s.eligible_iff p⟩
  case here => intro hd; rw [ht, State.routeHeld_here hv hd]; rfl
  case route =>
    subst ht
    refine ⟨fun ha hdec hg v hphase => ?inGroup, fun ha hdec hg v dest hphase hdest => ?beyond, ?localSource, ?globalSource, fun hdec hg => ?pathLocal,
      fun hdec hg o ho => ?pathGlobal⟩
    case inGroup =>
      rw [State.routeHeld_local hv hd hdec hg, State.chooseLocal_arrived ha hv hphase]
      exact State.takeDirect_cases
    case beyond =>
      rw [State.routeHeld_global hv hd hdec hg, State.chooseGlobal_arrived ha hv hphase hdest]
      exact State.takeGateway_cases
    case localSource =>
      intro u x pos k ha hg hphase hdraw hpos hk hn hke hne
      obtain ⟨rfl, rfl⟩ := Prod.ext_iff.mp hdraw
      subst hpos
      rw [State.routeHeld_local hv hd (State.decides_iff.mpr (.inl ha)) hg]
      exact State.chooseLocal_source ha hphase hk hn hke hne
    case globalSource =>
      intro u x u' x' c ks ha hg hphase hdraw hdraw' hn hks
      obtain ⟨rfl, rfl⟩ := Prod.ext_iff.mp hdraw
      obtain ⟨rfl, rfl⟩ := Prod.ext_iff.mp hdraw'
      have hgroups : s.detourGroups h = ks := hks.symm
      rw [State.routeHeld_global hv hd (State.decides_iff.mpr (.inl ha)) hg, State.chooseGlobal_source ha hphase hn, hgroups]
      refine ⟨fun hworse => ?minimal, fun k m e hk hm hlt hbest => ?detour⟩
      case minimal =>
        cases hb : ks.foldl (s.betterDetour (vcOf h.pkt 1)) none with
        | none => rfl
        | some b =>
          obtain ⟨hmem, hgate⟩ := State.bestDetour_among b.1 b.2.1 b.2.2 hb
          exact if_neg (Nat.not_lt.mpr (hworse _ _ _ hmem hgate))
      case detour =>
        rw [State.bestDetour_eq hm hbest hk]
        exact if_pos hlt
    case pathLocal =>
      rw [State.routeHeld_path hv hd hdec, State.followPath_local hg]
      obtain ⟨htake, -, hnone⟩ := State.takeDirect_cases (s := s) (i := i) (n := n) (h := h) (m := s.localPort (posOf h.pkt.dst.toNat)) (v := h.vc)
      exact ⟨htake, hnone⟩
    case pathGlobal =>
      rw [State.routeHeld_path hv hd hdec, State.followPath_global hg rfl, ho]
      exact State.takeGateway_cases
  case forward =>
    rw [packetForward_eq hi hh hp hs hnext hv, ebbtExpiry_eq hi hh hp hs hnext hv, State.sendHeld_eq]
    refine ⟨fun hel => by rw [if_pos hel], fun hel hc => ?waits, fun hel hc hhops => ?sends, fun hel hc hhops => ?ends,
      fun hl hhead hc hcand => by rw [if_pos ⟨hhead, (State.blocked_iff hnext).mpr ⟨hc, hcand⟩, hl⟩], fun h => ?free⟩
    case waits => rw [if_neg (by simp [hel]), if_pos hc]
    case sends => rw [if_neg (by simp [hel]), if_neg hc, if_neg hhops]
    case ends => rw [if_neg (by simp [hel]), if_neg hc, if_pos hhops]
    case free =>
      rw [if_neg]
      rintro ⟨hhead, hblocked, -⟩
      rcases h with hc | hnot
      · exact hc ((State.blocked_iff hnext).mp hblocked).1
      · exact Bool.false_ne_true (hnot.symm.trans hhead)
  case ebb =>
    rw [ebbPacketForward_sends hi hh hp hs hnext hv hl, State.sendHeld_eq]
    refine ⟨fun hel => by rw [if_pos hel], fun hold hhold => ⟨fun hel h => ?held, fun hel h hc => ?moves⟩⟩
    case held =>
      rw [if_neg (by simp [hel])]
      rcases h with h | h
      · rw [if_pos (State.behindDrain_iff.mpr (hhold.mp h)), ite_self]
      · rw [if_pos h]
    case moves => rw [if_neg (by simp [hel]), if_neg hc, if_neg fun hb => h (hhold.mpr (State.behindDrain_iff.mp hb))]
  case table =>
    intro e hv hnext hl he hn
    rw [ebbPacketForward_routes hi hh hp hs hv hnext hl]
    obtain ⟨heject, hport, hdiscard⟩ := State.ebbRoute_cases (s := s) (i := i) he hn
    exact ⟨fun hd => congrArg _ (heject hd), fun hd h7 hel => congrArg _ (hport hd h7 hel), fun hd h => congrArg _ (hdiscard hd h)⟩

end Sys2Proof.Machine
end

section
/-! SUPPORT. The ebb tree and the switch of its generations (R69, R71): the table of a device, what a switch leaves of the bank in use, the marker's
conditions, the end of draining, and the statement O53. -/

namespace Sys2Proof.Machine

/-! ## Entries of a memory outside a range (R69) -/

/-- A filter that keeps every word at an address keeps what is read there. -/
theorem Sparse.get_filter {w : Nat} {m : Sparse w} {lo : Option Nat} {p : Nat × BitVec w → Bool} {c : Nat} (h : Sparse.wfFrom lo m = true)
    (hp : ∀ v, p (c, v) = true) : Sparse.get (m.filter p) c = Sparse.get m c := by
  induction m generalizing lo with
  | nil => rfl
  | cons x m ih =>
    obtain ⟨b, v⟩ := x
    rw [Sparse.wfFrom, Bool.and_eq_true] at h
    cases hb : p (b, v) with
    | true => rw [List.filter_cons_of_pos hb, Sparse.get, Sparse.get, ih h.2]
    | false =>
      have hne : c ≠ b := fun e => by rw [← e, hp] at hb; cases hb
      rw [List.filter_cons_of_neg (Bool.eq_false_iff.mp hb), ih h.2, Sparse.get, if_neg hne]
      split
      · next hlt => exact Sparse.get_of_wfFrom h.2 hlt.le
      · rfl

theorem Sparse.get_clear_of_outside {w : Nat} {m : Sparse w} {lo len c : Nat} (h : Sparse.wf m = true) (hc : c < lo ∨ lo + len ≤ c) :
    Sparse.get (Sparse.clear m lo len) c = Sparse.get m c :=
  Sparse.get_filter h fun v => by simpa using hc

section
variable {w : Nat} {m : Sparse w} {l : List (Nat × BitVec w)} {lo : Nat}

theorem Sparse.wf_foldl_set (h : Sparse.wf m = true) : Sparse.wf (l.foldl (fun m e => Sparse.set m (lo + e.1) e.2) m) = true :=
  foldl_keeps (fun m => Sparse.wf m = true) (fun m e => Sparse.set m (lo + e.1) e.2) (fun _ _ hm => Sparse.wf_set _ _ hm) l m h

theorem Sparse.get_foldl_set_ne {c : Nat} (h : Sparse.wf m = true) (hc : ∀ e ∈ l, lo + e.1 ≠ c) :
    Sparse.get (l.foldl (fun m e => Sparse.set m (lo + e.1) e.2) m) c = Sparse.get m c := by
  induction l generalizing m with
  | nil => rfl
  | cons x l ih =>
    have hx := hc x (List.mem_cons_self ..)
    rw [List.foldl_cons, ih (Sparse.wf_set _ _ h) fun e he => hc e (List.mem_cons_of_mem _ he)]
    exact Sparse.get_set_ne _ _ _ (Ne.symm hx) h

end

/-! ## The devices of the table (R69) -/

/-- A link of a layer is one of the live links. -/
theorem mem_of_mem_treeLayer {ends : List (Nat × Nat × Nat × Nat)} {seen layer : List Nat} {e : Nat × Nat × Nat × Nat}
    (h : e ∈ treeLayer ends seen layer) : e ∈ ends := by
  obtain ⟨d, -, hd⟩ := List.mem_filterMap.mp h
  refine List.foldlRecOn (motive := fun b => ∀ e, b = some e → e ∈ ends) _ _ (fun _ h => by cases h) (fun b hb x hx => ?_) e hd
  have hx' : x ∈ ends := (List.mem_filter.mp (List.mem_filter.mp hx).1).1
  have hnew : ∀ e, some x = some e → e ∈ ends := by rintro e ⟨⟩; exact hx'
  cases b with
  | none => exact hnew
  | some y =>
    dsimp only
    split
    · exact hnew
    · exact hb

theorem mem_of_mem_growTree {ends : List (Nat × Nat × Nat × Nat)} {fuel : Nat} {seen layer : List Nat} {e : Nat × Nat × Nat × Nat}
    (h : e ∈ growTree ends fuel seen layer) : e ∈ ends := by
  induction fuel generalizing seen layer with
  | zero => cases h
  | succ fuel ih =>
    rw [growTree] at h
    split at h
    · cases h
    · exact (List.mem_append.mp h).elim mem_of_mem_treeLayer ih

/-- No root lies above this device. -/
theorem treeRoot_le (here : Nat) (ls : List LinkRec) : treeRoot here ls ≤ here :=
  foldl_keeps (· ≤ here) _ (fun _ _ h => (Nat.min_le_left ..).trans h) (linkEnds ls) here le_rfl

theorem linkEnds_lt {ls : List LinkRec} {k : Nat} (h : ∀ l ∈ ls, l.d1 < k ∧ l.d2 < k) {e : Nat × Nat × Nat × Nat} (he : e ∈ linkEnds ls) :
    e.2.2.1 < k := by
  obtain ⟨l, hl, he⟩ := List.mem_flatMap.mp he
  obtain ⟨h1, h2⟩ := h l hl
  rcases List.mem_pair.mp he with rfl | rfl
  · exact h2
  · exact h1

/-- A device's own entry comes first; the others name devices of the links. -/
theorem ebbTable_eq {here k : Nat} {ls : List LinkRec} (hk : here < k) (h : ∀ l ∈ ls, l.d1 < k ∧ l.d2 < k) :
    ∃ l, ebbTable here ls = (here, 0x80) :: l ∧ ∀ e ∈ l, e.1 ≠ here ∧ e.1 < k := by
  refine ⟨_, rfl, fun e he => ?_⟩
  obtain ⟨d, hd, hentry⟩ := List.mem_filterMap.mp he
  obtain ⟨hmem, hne⟩ := List.mem_filter.mp hd
  have hlt : d < k := by
    rcases List.mem_cons.mp hmem with rfl | htree
    · exact (treeRoot_le here ls).trans_lt hk
    · obtain ⟨x, hx, rfl⟩ := List.mem_map.mp htree
      exact linkEnds_lt h (mem_of_mem_growTree hx)
  have hed : e.1 = d := by
    split at hentry
    · cases hentry; rfl
    · obtain ⟨n, -, rfl⟩ := Option.map_eq_some_iff.mp hentry; rfl
  rw [hed]
  exact ⟨bne_iff_ne.mp hne, hlt⟩

/-! ## The start of a switch (R71) -/

section
variable {s : State} {n : Nat}

/-- A switch writes the idle bank and opens. -/
theorem State.startSwitch_eq (s : State) :
    s.startSwitch = { s with router := { s.router with switchOpen := true, again := false, ebb := s.startSwitch.router.ebb } } := rfl

/-- The two banks. -/
theorem toNat_not_add_toNat (b : Bool) : (!b).toNat + b.toNat = 1 := by cases b <;> rfl

section
variable (hwf : Sparse.wf s.router.ebb = true) (hl : ∀ l ∈ s.router.links, l.d1 < 32768 ∧ l.d2 < 32768)
include hwf hl

/-- The bank in use keeps its entries. -/
theorem State.ebbEntry_startSwitch {d : Nat} (hd : d < 32768) : s.startSwitch.ebbEntry s.router.egen d = s.ebbEntry s.router.egen d := by
  obtain ⟨l, htab, hl⟩ := ebbTable_eq s.devid.isLt hl
  have hbanks := toNat_not_add_toNat s.router.egen
  have hnames : ∀ e ∈ ebbTable s.here s.router.links, e.1 < 32768 := by
    rw [show ebbTable s.here s.router.links = _ from htab]
    exact List.forall_mem_cons.mpr ⟨s.devid.isLt, fun e he => (hl e he).2⟩
  refine (Sparse.get_foldl_set_ne (Sparse.wf_clear _ _ hwf) fun e he => ?written).trans (Sparse.get_clear_of_outside hwf ?cleared)
  case written => have := hnames e he; omega
  case cleared => omega

/-- In the other bank this device's own entry ejects. -/
theorem State.ebbEntry_startSwitch_here : s.startSwitch.ebbEntry (!s.router.egen) s.devid.toNat = 0x80 := by
  obtain ⟨l, htab, hl⟩ := ebbTable_eq s.devid.isLt hl
  have hclear := Sparse.wf_clear ((!s.router.egen).toNat * 32768) 32768 hwf
  have htable : s.startSwitch.router.ebb = List.foldl (fun m e => Sparse.set m ((!s.router.egen).toNat * 32768 + e.1) e.2)
      (Sparse.clear s.router.ebb ((!s.router.egen).toNat * 32768) 32768) ((s.devid.toNat, 0x80) :: l) := by rw [← htab]; rfl
  rw [State.ebbEntry, htable, List.foldl_cons,
    Sparse.get_foldl_set_ne (Sparse.wf_set _ _ hclear) fun e he => by have := (hl e he).1; omega]
  exact Sparse.get_set_same _ _ hclear

end

/-- A change of the live links starts a switch, or waits for the open one. -/
theorem State.linksChanged_eq (s : State) (ls : List LinkRec) : s.linksChanged ls =
    if sameLinks ls s.router.links = true then s
    else if s.router.switchOpen = true then { s with router := { s.router with links := ls, again := true } }
    else ({ s with router := { s.router with links := ls } }).startSwitch := rfl

/-! ## Draining (R71) -/

theorem State.drainDone_ends (hd : s.router.draining = true) (h : ∀ p, p < 48 → (s.port p).drainSent = true ∧ (s.port p).drainRecv = true) :
    s.drainDone = { s with
      router := { s.router with draining := false, reported := true }
      ports := s.ports.map fun (e : Nat × Port) => (e.1, { e.2 with drainSent := false, drainRecv := false }) } := by
  have hall : ((List.range Config.ports).all fun n => (s.port n).drainSent && (s.port n).drainRecv) = true :=
    List.all_eq_true.mpr fun p hp => Bool.and_eq_true_iff.mpr (h p (List.mem_range.mp hp))
  exact if_pos (by rw [hd, hall]; rfl)

theorem State.drainDone_waits {p : Nat} (hp : p < 48) (h : (s.port p).drainSent = false ∨ (s.port p).drainRecv = false) : s.drainDone = s := by
  refine if_neg fun hgo => ?_
  have hboth := List.all_eq_true.mp (Bool.and_eq_true_iff.mp hgo).2 p (List.mem_range.mpr hp)
  obtain ⟨hsent, hrecv⟩ := Bool.and_eq_true_iff.mp hboth
  rcases h with h | h
  · rw [h] at hsent; cases hsent
  · rw [h] at hrecv; cases hrecv

theorem State.egen_drainDone (s : State) : s.drainDone.router.egen = s.router.egen := by
  unfold State.drainDone; split <;> rfl

/-- A port that is not ACTIVE counts as drained. -/
def State.settlePort (t : State) (n : Nat) : State :=
  if (t.port n).st = PortSt.active then t else t.setPort n { t.port n with drainSent := true, drainRecv := true }

theorem State.settleDrain_draining (h : s.router.draining = true) :
    s.settleDrain = ((List.range Config.ports).foldl State.settlePort s).drainDone := if_pos h

theorem State.settleDrain_idle (h : s.router.draining = false) : s.settleDrain = s := if_neg (Bool.eq_false_iff.mp h)

theorem State.settleDrain_active (hd : s.router.draining = true) (h : ∀ p, p < 48 → (s.port p).st = .active) : s.settleDrain = s.drainDone := by
  have hfold : (List.range Config.ports).foldl State.settlePort s = s :=
    List.foldlRecOn (motive := (· = s)) _ _ rfl fun t ht p hp => by rw [ht]; exact if_pos (h p (List.mem_range.mp hp))
  rw [State.settleDrain_draining hd, hfold]

theorem State.egen_settleDrain (s : State) : s.settleDrain.router.egen = s.router.egen := by
  cases hd : s.router.draining with
  | false => rw [State.settleDrain_idle hd]
  | true =>
    rw [State.settleDrain_draining hd, State.egen_drainDone]
    refine foldl_keeps (fun t : State => t.router.egen = s.router.egen) _ (fun t p ht => ?_) _ s rfl
    unfold State.settlePort; split <;> exact ht

/-- A marker may go when nothing of the old generation is held for its port, cut into flits or without a port. -/
theorem State.mayDrain_holds_none (h : s.mayDrain n = true) : s.router.draining = true ∧ (∀ e ∈ (s.port n).pend, e.2.1.toNat < 6) ∧
    ∀ x ∈ s.router.held, 6 ≤ x.vc.toNat → x.pkt.egen = (!s.router.egen) → x.next ≠ none ∧ x.next ≠ some n := by
  unfold State.mayDrain at h
  simp only [Bool.and_eq_true, Bool.not_eq_true'] at h
  obtain ⟨⟨hd, hheld, hpend⟩, -⟩ := h
  refine ⟨hd, fun e he => ?pend, fun x hx hvc hgen => ?held⟩
  case pend =>
    have hcut := List.any_eq_false.mp hpend e he
    rw [decide_eq_true_eq] at hcut; omega
  case held =>
    have hfree := List.any_eq_false.mp hheld x hx
    simp only [hvc, decide_true, hgen, beq_self_eq_true, Bool.true_and, Bool.or_eq_true, beq_iff_eq, Option.isNone_iff_eq_none, not_or] at hfree
    exact ⟨hfree.2, hfree.1⟩

/-! ## The events of a switch (R69, R71) -/

section
variable (ho : s.router.switchOpen = true)
include ho

/-- FLIP changes the bank in use and drains the other. -/
theorem State.flip_open (hd : s.router.draining = false) (hr : s.router.reported = false) :
    s.flip = ({ s with router := { s.router with egen := !s.router.egen, draining := true } }).settleDrain :=
  if_pos (by rw [ho, hd, hr]; rfl)

theorem ebbReportsCollected_closes (hr : s.router.reported = true) : exec .ebbReportsCollected s = .next
    (if s.router.again then ({ s with router := { s.router with switchOpen := false, reported := false } }).startSwitch
     else { s with router := { s.router with switchOpen := false, reported := false } }) :=
  congrArg Host.Outcome.next (if_pos (by rw [ho, hr]; rfl))

end

theorem State.flip_stands (h : s.router.switchOpen = false ∨ s.router.draining = true ∨ s.router.reported = true) : s.flip = s :=
  if_neg (by rcases h with h | h | h <;> simp [h])

theorem ebbReportsCollected_stands (h : s.router.switchOpen = false ∨ s.router.reported = false) : exec .ebbReportsCollected s = .next s :=
  congrArg Host.Outcome.next (if_neg (by rcases h with h | h <;> simp [h]))

/-- The root alone floods FLIP, which it performs itself. -/
theorem ebbFlip_eq (s : State) : exec .ebbFlip s = .next (if treeRoot s.devid.toNat s.router.links = s.devid.toNat then s.flip else s) := rfl

theorem drainSend_sends (hn : n = s.inp.port) (ha : (s.port n).st = .active) (hsent : (s.port n).drainSent = false) (hm : s.mayDrain n = true) :
    exec .drainSend s = .next ((s.setPort n { s.port n with drainSent := true }).queuePacket n 6
      { ptype := pDRAIN, flags := (if s.router.egen then 0 else 1), src := s.devid.setWidth 16, dst := (s.port n).peerId.setWidth 16 }).drainDone := by
  subst hn
  exact congrArg Host.Outcome.next (if_pos ⟨ha, by rw [hsent]; rfl, hm⟩)

theorem drainSend_waits (hn : n = s.inp.port) (h : (s.port n).drainSent = true ∨ s.mayDrain n = false) : exec .drainSend s = .next s := by
  subst hn
  exact congrArg Host.Outcome.next (if_neg (by rcases h with h | h <;> simp [h]))

end

/-! ## The statement on the switch -/

/-- Settles O53: the switch by whether one is open, draining by the ports, and each event by the condition under which it does something. -/
theorem treeSwitchEvents : Obligations.tree_switch_events := by
  intro s n hn
  refine ⟨fun hcan => congrArg Host.Outcome.next (if_pos hcan), fun ls => ⟨fun hsame => ?same, fun hsame ho => ?waits, fun hsame ho => ?starts⟩,
    fun t ht => ?table, fun t ht ho hd hr => ?flip, fun h => congrArg Host.Outcome.next (State.flip_stands h),
    fun hroot => by rw [ebbFlip_eq, if_neg hroot], State.settleDrain_idle, State.settleDrain_active, drainSend_sends hn, drainSend_waits hn,
    State.mayDrain_holds_none, fun ha => ?drain, State.drainDone_ends, fun p hp h => State.drainDone_waits hp h, fun ho hr hagain => ?closes,
    fun ho hr hagain => ?again, ebbReportsCollected_stands⟩
  case same => rw [State.linksChanged_eq, if_pos hsame]
  case waits => rw [State.linksChanged_eq, if_neg (Bool.eq_false_iff.mp hsame), if_pos ho]
  case starts => rw [State.linksChanged_eq, if_neg (Bool.eq_false_iff.mp hsame), if_neg (Bool.eq_false_iff.mp ho)]
  case table =>
    subst ht
    exact ⟨s.startSwitch_eq, fun hwf hl => ⟨fun d hd => State.ebbEntry_startSwitch hwf hl hd, State.ebbEntry_startSwitch_here hwf hl⟩⟩
  case flip =>
    have hflip : s.flip = t := (State.flip_open ho hd hr).trans ht.symm
    refine ⟨congrArg Host.Outcome.next hflip, ?_, fun hroot => by rw [ebbFlip_eq, if_pos hroot, hflip]⟩
    rw [ht, State.egen_settleDrain]
  case drain => subst hn; exact congrArg Host.Outcome.next (if_pos ha)
  case closes => rw [ebbReportsCollected_closes ho hr, hagain]; rfl
  case again => rw [ebbReportsCollected_closes ho hr, hagain]; rfl

end Sys2Proof.Machine
end

section
/-! SUPPORT. Requests and responses of the fabric (R62, R64, R68, R72, R74 to R76, R93, R434 to R440): a request from its arrival through its checks
to its answer, a response at its requester, the recovery of both, and the statement O54. -/

namespace Sys2Proof.Machine

/-! ## Fields of words and packets (R61, R73) -/

theorem toNat_extractLsb' {w : Nat} (v : BitVec w) (lo n : Nat) : (v.extractLsb' lo n).toNat = v.toNat / 2 ^ lo % 2 ^ n := by
  rw [BitVec.extractLsb'_toNat, Nat.shiftRight_eq_div_pow]

theorem tokenWin_eq (t : BitVec 64) : tokenWin t = t.toNat / 2 ^ 28 % 2 ^ 12 := toNat_extractLsb' ..

theorem Packet.isReq_of_ptype {p : Packet} {ty : BitVec 8} (h : p.ptype = ty) (hty : 1 ≤ ty.toNat ∧ ty.toNat ≤ 8) : p.isReq = true := by
  rw [Packet.isReq, h, decide_eq_true hty.1, decide_eq_true hty.2]; rfl

theorem Packet.isReq_false_of_ptype {p : Packet} {ty : BitVec 8} (h : p.ptype = ty) (hty : 8 < ty.toNat) : p.isReq = false := by
  rw [Packet.isReq, h, decide_eq_false (Nat.not_le.mpr hty), Bool.and_false]

/-! ## Arrival (R72, R75) -/

section
variable {s : State} {p : Packet} {ty : BitVec 8} (hp : p = s.inp.pkt) (hpow : s.powered = true) (hb : s.bootst ≠ 15) (hs : s.stopped = false)
  (hd : p.dst = s.devid.setWidth 16) (hty : p.ptype = ty)
include hp hpow hb hs hd hty

theorem State.arrive_delivers : s.arrive ty = s.deliver p (some s.inp.port) := by
  subst hp
  refine if_pos ?_
  rw [State.mgmtOn, hpow, bne_iff_ne.mpr hb, hs, hty, hd, beq_self_eq_true, beq_self_eq_true]
  rfl

theorem State.arrive_request (hreq : 1 ≤ ty.toNat ∧ ty.toNat ≤ 8) : s.arrive ty =
    s.ingressReq { pkt := p, port := some s.inp.port, passed := false, halted := false, redir := [] } :=
  (State.arrive_delivers hp hpow hb hs hd hty).trans (if_pos (Packet.isReq_of_ptype hty hreq))

theorem State.arrive_response (hresp : 8 < ty.toNat) : s.arrive ty = s.response p :=
  (State.arrive_delivers hp hpow hb hs hd hty).trans (if_neg (Bool.eq_false_iff.mp (Packet.isReq_false_of_ptype hty hresp)))

end

/-! ## A request at its target (R62, R75, R93) -/

section
variable {s : State} {h : HeldReq} (hs : s.stopped = false)
include hs

theorem State.ingressReq_faulted (hf : s.faulted = true) : s.ingressReq h = s.nackReq h.pkt nUNREACH := by
  simp only [State.ingressReq, hs, hf, Bool.false_eq_true, if_false, if_true]

/-- A request past its checks, of a context that is not halted, is taken in. -/
theorem State.ingressReq_passed (hf : s.faulted = false) (hpass : h.passed = true) (hhalt : s.dbg.halt = false) :
    s.ingressReq h = s.takeIn h := by
  simp only [State.ingressReq, hs, hf, hpass, hhalt, Bool.false_and, Bool.false_eq_true, if_false, if_true]

section
variable (hf : s.faulted = false) (hpass : h.passed = false)
include hf hpass

theorem State.ingressReq_reserved (hbad : h.pkt.reservedBad = true) (hsrc : h.pkt.src.getLsbD 15 = false) :
    s.ingressReq h = s.countDiscard.nackReq h.pkt nMALFORMED := by
  simp only [State.ingressReq, hs, hf, hpass, hbad, hsrc, Bool.true_or, Bool.false_eq_true, if_false, if_true]

variable (hreq : h.pkt.isReq = true) (hgood : h.pkt.reservedBad = false)
include hreq hgood

theorem State.ingressReq_repeated (hx : ∃ x ∈ s.ingress, x.pkt.src = h.pkt.src ∧ x.pkt.tag = h.pkt.tag) :
    s.ingressReq h = s.countDiscard := by
  have hany : (s.ingress.any fun x => x.pkt.src == h.pkt.src && x.pkt.tag == h.pkt.tag) = true := by simpa using hx
  simp only [State.ingressReq, hs, hf, hpass, hreq, hgood, hany, Bool.not_true, Bool.or_self, Bool.true_or, Bool.false_eq_true, if_false, if_true]

/-- A request that does not wait already is answered by its record, or else checked. -/
theorem State.ingressReq_once (hx : ∀ x ∈ s.ingress, x.pkt.src ≠ h.pkt.src ∨ x.pkt.tag ≠ h.pkt.tag)
    (ho : ∀ r ∈ s.ords, ∀ x ∈ r.held, x.pkt.src ≠ h.pkt.src ∨ x.pkt.tag ≠ h.pkt.tag) : s.ingressReq h =
      (s.tgtRecs.find? fun r => r.src == h.pkt.src && r.tag == h.pkt.tag).elim
        (if !(s.loopback h.pkt) && decide (65536 ≤ s.recsDue) then s.holdReq h none
         else if s.ingressCheck h.pkt = nTOKMAC then (s.macFailure h.pkt h.port).nackReq h.pkt (s.ingressCheck h.pkt)
         else if s.ingressCheck h.pkt ≠ 0 then s.nackReq h.pkt (s.ingressCheck h.pkt)
         else s.ingressReq { h with passed := true })
        fun r => s.launchPkt r.resp := by
  have hnone : ((s.ingress.any fun x => x.pkt.src == h.pkt.src && x.pkt.tag == h.pkt.tag) ||
      (s.ords.any fun r => r.held.any fun x => x.pkt.src == h.pkt.src && x.pkt.tag == h.pkt.tag)) = false := by
    simpa only [Bool.or_eq_false_iff, List.any_eq_false, Bool.not_eq_true, Bool.and_eq_true, beq_iff_eq, not_and_or] using ⟨hx, ho⟩
  simp only [State.ingressReq, hs, hf, hpass, hreq, hgood, hnone, Bool.not_true, Bool.or_self, Bool.false_eq_true, if_false, if_true]
  cases s.tgtRecs.find? fun r => r.src == h.pkt.src && r.tag == h.pkt.tag <;> rfl

end

end

/-! ## IngressCheck (R73 to R75) -/

section
variable {s : State} {p : Packet}

/-- IngressCheck with its fields read off the token as a number. -/
theorem State.ingressCheck_eq {w : Window} {m d lo hi blk sz : Nat} (hm : m = p.token.toNat / 2 ^ 28 % 2 ^ 12) (hw : w = s.window m)
    (hd : d = (p.token.toNat / 2 ^ 12 % 2 ^ 13 + 8192 - s.ftime / 2 ^ 20 % 8192) % 8192) (hblk : blk = p.token.toNat % 64)
    (hsz : sz = p.token.toNat / 64 % 64) (hlo : lo = max (w.base.toNat * 65536) (w.base.toNat * 65536 + blk * 2 ^ sz))
    (hhi : hi = min (w.base.toNat * 65536 + 2 ^ w.sizexp.toNat) (w.base.toNat * 65536 + (blk + 1) * 2 ^ sz)) : s.ingressCheck p =
      if w.valid = false ∨ s.tokenMac m (p.token.extractLsb' 0 40) ≠ p.token.extractLsb' 40 24 then nTOKMAC
      else if d = 0 ∨ 4096 ≤ d then nTOKEXP
      else if neededRights p.ptype &&& ~~~(p.token.extractLsb' 25 3) ≠ 0 ∨ (m = 0 ∧ p.ptype ≠ pMGMT) then nTOKRIGHTS
      else if p.addr.toNat < lo ∨ hi < p.addr.toNat + accessLen p then nTOKBOUNDS
      else 0 := by
  have hblk' : blk = (p.token.extractLsb' 0 6).toNat := by rw [hblk, toNat_extractLsb', pow_zero, Nat.div_one]; rfl
  have hsz' : sz = (p.token.extractLsb' 6 6).toNat := by rw [hsz, toNat_extractLsb']; rfl
  rw [← tokenWin_eq] at hm
  rw [← toNat_extractLsb'] at hd
  subst hlo hhi hblk' hsz' hd hw hm
  simp only [State.ingressCheck, Window.baseAddr, Bool.or_eq_true, Bool.not_eq_true', bne_iff_ne]
  rfl

end

/-! ## The performance of a request (R434 to R437) -/

section
variable {s : State} {p : Packet} {bs : List Byte} {l : Pieces}

theorem State.perform_put (h : p.ptype = pPUTREQ) : s.perform p bs l none =
    (s.writeAllTag bs (Packet.badAt p) 0 l).answer p ((s.writeAllTag bs (Packet.badAt p) 0 l).resp p pACK 0 [] 0) true := by
  simp only [State.perform, show p.ptype.toNat = 1 from congrArg BitVec.toNat h]

theorem State.perform_get (h : p.ptype = pGETREQ) : s.perform p bs l none =
    s.answerFrom p l (s.resp p pDATA 0 (s.readAll l) (pmask p.addr p.len.toNat (s.poisonAt l))) := by
  simp only [State.perform, show p.ptype.toNat = 2 from congrArg BitVec.toNat h]

theorem State.perform_load (h : p.ptype = pLDREQ) : s.perform p bs l none =
    if s.firstPoisonAll l = none then s.answerFrom p l (s.resp p pDATA 0 (s.readAll l) 0) else s.nackReq p nPOISON := by
  simp only [State.perform, show p.ptype.toNat = 3 from congrArg BitVec.toNat h]
  cases s.firstPoisonAll l <;> rfl

theorem State.perform_store (h : p.ptype = pSTREQ) : s.perform p bs l none =
    (s.writeAll l bs).answer p ((s.writeAll l bs).resp p pACK 0 [] 0) true := by
  simp only [State.perform, show p.ptype.toNat = 4 from congrArg BitVec.toNat h]

theorem State.perform_ord (h : p.ptype = pORDREQ) : s.perform p bs l none = s.contribute { pkt := { p with payload := bs }, places := l } := by
  simp only [State.perform, show p.ptype.toNat = 7 from congrArg BitVec.toNat h]

theorem State.perform_mgmt (h : p.ptype = pMGMT) : s.perform p bs l none = s.answer p (s.resp p pACK 0 [] 0) true := by
  simp only [State.perform, show p.ptype.toNat = 8 from congrArg BitVec.toNat h]

theorem State.perform_atomic (h : p.ptype = pATOMREQ ∨ p.ptype = pCASREQ) : s.perform p bs l none = s.performRmw p bs l := by
  rcases h with h | h
  · simp only [State.perform, show p.ptype.toNat = 5 from congrArg BitVec.toNat h]
  · simp only [State.perform, show p.ptype.toNat = 6 from congrArg BitVec.toNat h]

/-- One clean element of an atomic: read, then written by its new value. -/
theorem rmwElems_one {old : List Byte} {u : State} (hclean : s.firstPoisonAll (slicePieces l 0 (opxWidth p)) = none)
    (hold : old = s.readAll (slicePieces l 0 (opxWidth p)))
    (hu : u = (elemValue p bs 0 (ofBytes old)).elim s fun v => s.writeAll (slicePieces l 0 (opxWidth p)) (toBytes v (opxWidth p))) :
    rmwElems p bs l 1 0 s = (u, old, false) := by
  subst hu hold
  simp only [rmwElems, Nat.zero_mul, hclean, Option.isSome_none, Bool.false_eq_true, if_false, List.append_nil]
  cases elemValue p bs 0 _ <;> rfl

theorem State.performRmw_one {old : List Byte} {u : State} (h1 : accessLen p / opxWidth p = 1)
    (hclean : s.firstPoisonAll (slicePieces l 0 (opxWidth p)) = none) (hold : old = s.readAll (slicePieces l 0 (opxWidth p)))
    (hu : u = (elemValue p bs 0 (ofBytes old)).elim s fun v => s.writeAll (slicePieces l 0 (opxWidth p)) (toBytes v (opxWidth p))) :
    s.performRmw p bs l = if p.opx.getLsbD 12 then u.answer p (u.resp p pACK 0 [] 0) true
      else u.answerFrom p l (u.resp p pATOMRSP 0 old 0) := by
  simp only [State.performRmw, h1, rmwElems_one hclean hold hu, Bool.false_eq_true, if_false]

/-- The answer to another device's request stands as its completion record while there is room for it. -/
theorem State.answer_kept {r : Packet} (hsrc : p.src ≠ s.devid.setWidth 16) (hroom : s.tgtRecs.length < 65536) : s.answer p r true =
    ({ s with tgtRecs := s.tgtRecs ++ [({ src := p.src, tag := p.tag, resp := r } : TgtRec)] }).launchPkt r := by
  have hloop : ¬s.loopback p = true := fun h => hsrc (beq_iff_eq.mp h)
  refine (if_neg hloop).trans ?_
  simp only [Bool.true_and, hroom, decide_true, if_true]

end

/-! ## A request past IngressCheck (R62, R76, R432, R435) -/

/-- An access that no pre-emption holds goes where it was located. -/
theorem State.redirHeld_nil (s : State) (l : Pieces) : s.redirHeld [] l = false := by
  refine List.any_eq_false.mpr fun x _ => ?_
  split <;> exact Bool.false_ne_true

theorem redirect_nil (s : State) (l : Pieces) : redirect s [] l = some l := by
  induction l with
  | nil => rfl
  | cons x l ih =>
    obtain ⟨p, n⟩ := x
    cases p <;> simp only [redirect, ih, List.find?_nil]

section
variable {s : State} {h : HeldReq} {p : Packet} (hp : h.pkt = p)
include hp

theorem State.takeIn_malformed (hm : malformedReq p = true) : s.takeIn h = s.nackReq p nMALFORMED := by
  subst hp
  exact if_pos hm

variable (hm : malformedReq p = false) (hlw : p.ptype ≠ pPUTREQ ∨ p.aux.getLsbD 63 = false)
include hm hlw

omit hp hm in
theorem lwPlace_none (x : Acc) : lwPlace s x p = .ok none :=
  if_neg fun hput => hlw.elim (absurd hput.1) fun h => Bool.false_ne_true (h.symm.trans hput.2)

theorem State.takeIn_unsealed (ho : s.openPayload p = none) : s.takeIn h = s.countDiscard.nackReq p nAUTH := by
  subst hp
  simp only [State.takeIn, hm, lwPlace_none hlw, ho, Bool.false_eq_true, if_false]

variable {bs : List Byte} (ho : s.openPayload p = some bs)
include ho

theorem State.takeIn_mgmt (ht : p.ptype = pMGMT) : s.takeIn h = s.answer p (s.resp p pACK 0 [] 0) true := by
  subst hp
  simp only [State.takeIn, hm, lwPlace_none hlw, ho, ht, Bool.false_eq_true, if_false, if_true, State.perform_mgmt ht]

variable {t : State} {l : Pieces} (ht : p.ptype ≠ pMGMT)
  (hr : resolve s (ingressAcc (s.window (tokenWin p.token)).asid p) p.addr (accessLen p) = (t, .ok l))
include ht hr

theorem State.takeIn_foreign (ha : authOk p l = false) : s.takeIn h = t.nackReq p nAUTH := by
  subst hp
  simp only [State.takeIn, hm, lwPlace_none hlw, ho, ht, hr, ha, Bool.false_eq_true, if_false, Bool.not_false, if_true]

theorem State.takeIn_performs (hredir : h.redir = []) (ha : authOk p l = true) (hc : p.ptype = pORDREQ ∨ t.canAnswer p l = true) :
    s.takeIn h = t.perform p bs l none := by
  subst hp
  have hgo : ¬(h.pkt.ptype ≠ pORDREQ ∧ t.canAnswer h.pkt l = false) := by rcases hc with hc | hc <;> simp [hc]
  simp only [State.takeIn, hm, lwPlace_none hlw, ho, ht, hr, ha, hgo, hredir, State.redirHeld_nil, redirect_nil, Bool.false_eq_true, if_false,
    Bool.not_true, Bool.or_self, Option.toList_none, List.map_nil, List.head?_nil, Option.map_none]

end

/-! ## A response at its requester (R72, R76, R437, R440) -/

section
variable {s : State} {p : Packet}

theorem State.response_reserved (hbad : p.reservedBad = true) : s.response p = s.countDiscard := if_pos (by rw [hbad]; rfl)

variable (hgood : p.reservedBad = false) (hresp : p.isResp = true)
include hgood hresp

theorem State.response_unknown (h : s.requestOf p = none ∨ s.openPayload p = none) : s.response p = s.countDiscard := by
  have hgo : (p.reservedBad || !p.isResp) = false := by rw [hgood, hresp]; rfl
  cases hr : s.requestOf p with
  | none => simp only [State.response, hgo, hr, Bool.false_eq_true, if_false]
  | some o =>
    have ho : s.openPayload p = none := by simpa [hr] using h
    simp only [State.response, hgo, hr, ho, Bool.false_eq_true, if_false]

variable {o : Outst} {bs : List Byte} (hr : s.requestOf p = some o) (ho : s.openPayload p = some bs)
include hr ho

theorem State.response_nack (ht : p.ptype = pNACK) : s.response p = if p.status = 0 then { s with
      outst := s.outst.map fun x => if x.tag = o.tag ∧ x.pkt.dst = o.pkt.dst then { x with deferred := true } else x }
    else s.failRequest o p.status := by
  have hgo : (p.reservedBad || !p.isResp) = false := by rw [hgood, hresp]; rfl
  simp only [State.response, hgo, hr, ho, ht, Bool.false_eq_true, if_false, if_true]

theorem State.response_answers (ht : p.ptype ≠ pNACK) : s.response p = (s.applyResp o p bs).elim s.countDiscard fun t =>
    (((((t.replyLines o).markOk o).dropOutst o).tidyXfer o).retireOwner o).tryComplete o.sweep := by
  have hgo : (p.reservedBad || !p.isResp) = false := by rw [hgood, hresp]; rfl
  simp only [State.response, hgo, hr, ho, ht, Bool.false_eq_true, if_false]
  cases s.applyResp o p bs <;> rfl

end

/-! ## Recovery (R75, R437) -/

section
variable {s : State} (hpow : s.powered = true) (hs : s.stopped = false)
include hpow hs

theorem requestResendTimeout_eq {o : Outst} (ho : s.outstAt = some o) (hd : o.deferred = false) : exec .requestResendTimeout s = .next
    (if o.resends < 4 then ((s.modOutst o fun x => { x with resends := x.resends + 1 }).noteTag o.pkt.dst o.tag).emit o.pkt
     else s.failRequest o nUNREACH) := by
  show execRequestResendTimeout s = _
  simp only [execRequestResendTimeout, event, ho, hs, hpow, hd, Bool.not_true, Bool.or_self, Bool.false_eq_true, if_false]

theorem ordResend_eq {o : Outst} (ho : s.outstAt = some o) (hd : o.deferred = true) : exec .ordResend s = .next
    (((s.modOutst o fun x => { x with deferred := false }).noteTag o.pkt.dst o.tag).emit o.pkt) := by
  show execOrdResend s = _
  simp only [execOrdResend, event, ho, hs, hpow, hd, Bool.not_false, Bool.and_self, if_true]

end

/-- A discard counts up to the counter's end. -/
theorem State.countDiscard_eq (s : State) :
    s.countDiscard = { s with router := { s.router with igcnt := BitVec.ofNat 16 (min 0xFFFF (s.router.igcnt.toNat + 1)) } } := by
  have hcount : (if s.router.igcnt = 0xFFFF then 0xFFFF else s.router.igcnt + 1) = BitVec.ofNat 16 (min 0xFFFF (s.router.igcnt.toNat + 1)) := by
    split
    · next h => rw [h]; rfl
    · next h => bv_omega
  rw [State.countDiscard, hcount]

theorem State.countDiscards_eq {α : Type} (l : List α) (s : State) : l.foldl (fun s _ => s.countDiscard) s =
    { s with router := { s.router with igcnt := BitVec.ofNat 16 (min 0xFFFF (s.router.igcnt.toNat + l.length)) } } := by
  induction l generalizing s with
  | nil =>
    have hcount : BitVec.ofNat 16 (min 0xFFFF s.router.igcnt.toNat) = s.router.igcnt := by
      rw [min_eq_right (by omega), BitVec.ofNat_toNat, BitVec.setWidth_eq]
    rw [List.length_nil, Nat.add_zero, hcount]; rfl
  | cons x l ih =>
    have hcount : min 0xFFFF ((BitVec.ofNat 16 (min 0xFFFF (s.router.igcnt.toNat + 1))).toNat + l.length) =
        min 0xFFFF (s.router.igcnt.toNat + (x :: l).length) := by
      rw [BitVec.toNat_ofNat, List.length_cons]; omega
    rw [List.foldl_cons, ih, State.countDiscard_eq]
    dsimp only
    rw [hcount]

theorem ordRoundAbandon_eq {s : State} {r : OrdRound} (hr : s.ords[s.inp.index]? = some r) : exec .ordRoundAbandon s = .next { s with
    ords := s.ords.eraseIdx s.inp.index
    router := { s.router with igcnt := BitVec.ofNat 16 (min 0xFFFF (s.router.igcnt.toNat + r.held.length)) } } := by
  show execOrdRoundAbandon s = _
  simp only [execOrdRoundAbandon, event, hr, State.countDiscards_eq]

/-! ## Grant windows (R74) -/

theorem Window.written_eq {w x : Window} {v : BitVec 128} (hx : x = { w with
      base := v.extractLsb' 64 64, valid := v.getLsbD 63, asid := v.extractLsb' 32 16
      sizexp := if 16 ≤ v.toNat / 2 ^ 48 % 256 ∧ v.toNat / 2 ^ 48 % 256 ≤ 52 then v.extractLsb' 48 8 else 16 }) : w.written v = x := by
  rw [hx, show (256 : Nat) = 2 ^ 8 from rfl, ← toNat_extractLsb']; rfl

theorem wintWrite_eq {s : State} {v : BitVec 128} (hv : v = s.inp.v) (hpow : s.powered = true) (hb : s.bootst ≠ 15) (hi : s.inp.index < 4096) :
    exec .wintWrite s = .next (if (s.window s.inp.index).valid = false ∧ v.getLsbD 63 = true then
      (s.setWindow s.inp.index ((s.window s.inp.index).written v)).drawKey s.inp.index
    else s.setWindow s.inp.index ((s.window s.inp.index).written v)) := by
  subst hv
  have hon : (s.mgmtOn && decide (s.inp.index < 4096)) = true := by rw [State.mgmtOn, hpow, bne_iff_ne.mpr hb, decide_eq_true hi]; rfl
  show Host.Outcome.next (s.writeWint s.inp.index s.inp.v) = _
  simp only [State.writeWint, hon, if_true, Bool.and_eq_true, Bool.not_eq_true']

/-! ## The statement on the end points -/

/-- Settles O54: a request by the check that decides it, its performance by its type, a response by what it answers, and one lemma per event of
recovery. -/
theorem fabricEndpointEvents : Obligations.fabric_endpoint_events := by
  intro s p h hp hpow hb hs hd hh
  have hreq {ty : BitVec 8} (hr : 1 ≤ ty.toNat ∧ ty.toNat ≤ 8) (hty : p.ptype = ty) :
      event (State.arrive · ty) s = .next (s.ingressReq h) := congrArg Host.Outcome.next (hh ▸ State.arrive_request hp hpow hb hs hd hty hr)
  have hresp {ty : BitVec 8} (hr : 8 < ty.toNat) (hty : p.ptype = ty) :
      event (State.arrive · ty) s = .next (s.response p) := congrArg Host.Outcome.next (State.arrive_response hp hpow hb hs hd hty hr)
  refine ⟨hreq (by decide), hreq (by decide), hreq (by decide), hreq (by decide), hreq (by decide), hreq (by decide), hreq (by decide),
    hreq (by decide), hresp (by decide), hresp (by decide), hresp (by decide), hresp (by decide),
    ?faulted, ?arrives, ?check, ?taken, ?performed, fun r hsrc hroom => State.answer_kept hsrc hroom, State.response_reserved, ?response,
    fun o ho hdef => ?resend, fun o ho hdef => ordResend_eq hpow hs ho hdef, fun r hr => ordRoundAbandon_eq hr, rfl, ?window⟩
  case faulted => intro hf; rw [State.ingressReq_faulted hs hf, hh]
  case arrives =>
    intro hisReq hf
    have hpkt : h.pkt = p := by rw [hh]
    have hpass : h.passed = false := by rw [hh]
    rw [← hpkt] at hisReq ⊢
    refine ⟨fun hbad hsrc => State.ingressReq_reserved hs hf hpass hbad hsrc, fun hgood => ⟨fun hx => State.ingressReq_repeated hs hf hpass hisReq hgood hx,
      fun hx ho => ?once⟩⟩
    rw [State.ingressReq_once hs hf hpass hisReq hgood hx ho]
    refine ⟨fun r hr => by rw [hr]; rfl, fun hr hsrc => ?checked⟩
    have hremote : s.loopback h.pkt = false := beq_eq_false_iff_ne.mpr hsrc
    rw [hr, hremote]
    refine ⟨fun hfull => ?waits, fun hroom => ⟨fun hmac => ?mac, fun hfail hmac => ?fails, fun hok hhalt => ?passes⟩⟩
    case waits => rw [Option.elim_none, decide_eq_true hfull, hh]; rfl
    all_goals rw [Option.elim_none, decide_eq_false (Nat.not_le.mpr hroom), Bool.and_false, if_neg Bool.false_ne_true]
    case mac => rw [if_pos hmac, hmac, hh]
    case fails => rw [if_neg hmac, if_pos hfail]
    case passes =>
      rw [hok, if_neg (by decide), if_neg (not_not.mpr rfl)]
      exact State.ingressReq_passed hs hf rfl hhalt
  case check =>
    intro w d m lo hi blk sz hm hw hd hblk hsz hlo hhi
    rw [State.ingressCheck_eq hm hw hd hblk hsz hlo hhi]
    refine ⟨fun hv => if_pos (.inl hv), fun hmac => if_pos (.inr hmac), fun hv hmac => ?macOk⟩
    have hmacOk : ¬(w.valid = false ∨ s.tokenMac m (p.token.extractLsb' 0 40) ≠ p.token.extractLsb' 40 24) := by simp [hv, hmac]
    rw [if_neg hmacOk]
    refine ⟨fun hexp => if_pos hexp, fun h0 h1 hr => ?rights, fun h0 h1 hr hmgmt => ?bounds⟩
    case rights => rw [if_neg (by omega), if_pos (.inl hr)]
    case bounds =>
      have hgranted : ¬(neededRights p.ptype &&& ~~~(p.token.extractLsb' 25 3) ≠ 0 ∨ (m = 0 ∧ p.ptype ≠ pMGMT)) := by
        rintro (h | ⟨hm0, hty⟩)
        · exact h hr
        · exact hmgmt.elim (absurd hm0) hty
      rw [if_neg (by omega), if_neg hgranted]
  case taken =>
    intro g hg hredir
    refine ⟨fun hm => State.takeIn_malformed hg hm, fun hm hlw => ⟨fun ho => State.takeIn_unsealed hg hm hlw ho, fun bs ho =>
      ⟨fun ht => State.takeIn_mgmt hg hm hlw ho ht, fun t l ht hr => ⟨fun ha => State.takeIn_foreign hg hm hlw ho ht hr ha,
        fun ha hc => State.takeIn_performs hg hm hlw ho ht hr hredir ha hc⟩⟩⟩⟩
  case performed =>
    intro bs l n hn
    refine ⟨State.perform_put, State.perform_get, State.perform_load, State.perform_store, fun ht h1 old u hclean hold hu => ?atomic,
      State.perform_ord⟩
    rw [State.perform_atomic ht, State.performRmw_one (hn.symm.trans h1) hclean hold hu]
  case response =>
    intro hgood hisResp
    refine ⟨fun h => State.response_unknown hgood hisResp h, fun o bs hr ho => ⟨fun ht hst => ?fails, fun ht hst => ?deferred, fun ht ha => ?other,
      fun t ht ha => ?answers⟩⟩
    case fails => rw [State.response_nack hgood hisResp hr ho ht, if_neg hst]
    case deferred => rw [State.response_nack hgood hisResp hr ho ht, if_pos hst]
    case other => rw [State.response_answers hgood hisResp hr ho ht, ha]; rfl
    case answers => rw [State.response_answers hgood hisResp hr ho ht, ha]; rfl
  case resend =>
    rw [requestResendTimeout_eq hpow hs ho hdef]
    exact ⟨fun h => by rw [if_pos h], fun h => by rw [if_neg (Nat.not_lt.mpr h)]⟩
  case window =>
    intro w v x hw hv hi hx
    rw [wintWrite_eq hv hpow hb hi, ← hw, Window.written_eq hx]
    refine ⟨fun h => ?keeps, fun h1 h2 => by rw [if_pos ⟨h1, h2⟩]⟩
    rw [if_neg]
    rintro ⟨h1, h2⟩
    rcases h with h | h
    · rw [h] at h1; cases h1
    · rw [h] at h2; cases h2

end Sys2Proof.Machine
end

section
/-! SUPPORT. SHUPD, GRANT and REVOKE (R148, R149, R304, R442 to R444): an FX entry that a ready engine performs, an engine's access that goes through,
the words that the model joins from fields, and the statement O47. -/

namespace Sys2Proof.Machine

/-! ## Engine entries that a ready engine performs (R211, R304) -/

section
variable {s : State} {c n : Nat} {y : Sync} {x : Issue} {ill : Task → Bool} {perf : Perf}

theorem privileged {k : Task} (h : k.priv = true) : (!k.priv) = false := by rw [h]; rfl

/-- An instruction that its task may not issue traps before its engine takes it. -/
theorem engine_illegal {e : Eng} (h : EngineReady s c n y e) (hill : ill (s.task c n) = true) :
    engine ill x perf s = .next (s.issueTrap c n cILLEGAL 0 0) := by
  have ⟨hcur, _⟩ := h
  simp only [engine, hcur, hill, if_true]

/-- One whose front end does nothing and that is performed to position `p`. -/
theorem engine_ended {u : State} {p : Nat} (h : EngineReady s c n y x.eng) (hx : x.front = id) (hy : x.instr.sync = some y)
    (hill : ill (s.task c n) = false) (hperf : perf c (x.started s c n y) (x.begun s c n y) = ⟨u, p, p, .done⟩) :
    engine ill x perf s = .next (x.ended s c n y u p) := by
  have ⟨_, _, _, hfrom, _⟩ := h
  rw [engine_performed h hy hill (by rw [hx]; rfl) (by rw [hx]; exact hfrom) (by rw [hx]; rfl), Issue.performed, hperf]
  rfl

/-- An engine that only writes s[d]. -/
def writesS (d : SReg) (v : Word) : Perf := fun c q s => ⟨s.modTask c q.slot (·.setS d v), 0, 0, .done⟩

/-- One that only writes s[d]. -/
theorem runs_engine_setS {i : Instr} {d : SReg} {v : Word} (h : EngineReady s c n y x.eng) (hx : x.front = id) (hi : exec i s = engine ill x perf s)
    (hxi : x.instr = i) (hy : i.sync = some y) (hill : ill (s.task c n) = false) (hd : i.engineDest = some d) (hparks : x.parks = false)
    (hperf : perf c (x.started s c n y) (x.begun s c n y) = ⟨(x.begun s c n y).modTask c n (·.setS d v), 0, 0, .done⟩) :
    Runs s c n y i (·.setS d v) := by
  subst hxi
  have ⟨_, _, _, hfrom, _⟩ := h
  obtain ⟨t, ht, htask, hsem, honly⟩ := engine_effect (x := x) (ill := ill) (perf := writesS d v) h hy hill (by rw [hx]; rfl) (by rw [hx]; exact hfrom)
    (by rw [hx]; rfl) fun _ => rfl
  refine ⟨t, ?_, ?_, hsem, honly⟩
  · rw [hi, engine_ended h hx hy hill hperf, ← ht, engine_ended (perf := writesS d v) h hx hy hill rfl]; rfl
  · rw [htask, Issue.task_setS_freed _ _ _ hd (by rw [hx]; rfl) hparks]

/-! ## What the start of an entry leaves of the windows (R73, R443) -/

theorem Issue.begun_window (x : Issue) (s : State) (c n : Nat) (y : Sync) (w : Nat) : (x.begun s c n y).window w = s.window w := by
  simp only [State.window]; rw [Issue.begun_device]

theorem Issue.begun_nextKey (x : Issue) (s : State) (c n : Nat) (y : Sync) : (x.begun s c n y).nextKey = s.nextKey := by rw [Issue.begun_device]

theorem Issue.begun_mint (x : Issue) (s : State) (c n : Nat) (y : Sync) (a : Word) : (x.begun s c n y).mint a = s.mint a := by
  rw [Issue.begun_device]; rfl

theorem Issue.begun_grantBad (x : Issue) (s : State) (c n : Nat) (y : Sync) (a : Word) : grantBad (x.begun s c n y) a = grantBad s a := by
  simp only [grantBad, Issue.begun_window]

/-! ## An access that goes through (R182, R211) -/

theorem whole_of_noCheck {l : List Check} {f : PRes} (h : NoCheck l) : whole l s f = f := by
  have hnone : firstTrap l = none := by
    induction l with
    | nil => rfl
    | cons e l ih =>
      obtain ⟨b, code, addr⟩ := e
      obtain ⟨hb, hl⟩ := List.forall_mem_cons.mp h
      obtain rfl : b = false := hb
      exact ih hl
  simp only [whole, hnone]

theorem capA_setWidth (t : Task) (r : AReg) : (capA t r).setWidth 80 = t.areg r := by simp [capA]

section
variable {q : Entry} {va : Addr} {k comm total : Nat} {t : State} {l : Pieces} {f : State → Pieces → PRes} (hq : q.redir = [])
include hq

theorem engAccess_through {a : Acc} (h : Through s c q a va k t l) : engAccess s c q a va k comm total f = f t l := by
  obtain ⟨hr, hl⟩ := h
  simp only [engAccess, hr, hl, hq, State.redirHeld_nil, redirect_nil, Bool.false_eq_true, if_false]

theorem fxRead_through (h : Through s c q (fxAcc s c q false) va k t l) (hw : t.awaitsData c q l = false) :
    fxRead s c q va k comm total f = f t l := by
  rw [fxRead, engAccess_through hq h, hw]; rfl

end

end

/-! ## Words joined from fields (R145, R443) -/

theorem toNat_append_add {a b : Nat} (u : BitVec a) (v : BitVec b) : (u ++ v).toNat = u.toNat * 2 ^ b + v.toNat := by
  rw [BitVec.toNat_append, ← Nat.shiftLeft_add_eq_or_of_lt v.isLt, Nat.shiftLeft_eq]

theorem toNat_div_lt {w k n : Nat} (v : BitVec w) (h : w = k + n) : v.toNat / 2 ^ k < 2 ^ n :=
  Nat.div_lt_of_lt_mul (by rw [← pow_add, ← h]; exact v.isLt)

/-- An image under a generation of its own. -/
theorem withGen_eq (e : ShardEnt) (g : BitVec 16) :
    e.extractLsb' 16 496 ++ g = BitVec.ofNat 512 (e.toNat / 2 ^ 16 * 2 ^ 16 + g.toNat) := by
  have hhigh : e.toNat / 2 ^ 16 < 2 ^ 496 := toNat_div_lt e rfl
  calc e.extractLsb' 16 496 ++ g = BitVec.ofNat 512 (e.extractLsb' 16 496 ++ g).toNat := by rw [BitVec.ofNat_toNat, BitVec.setWidth_eq]
    _ = BitVec.ofNat 512 (e.toNat / 2 ^ 16 * 2 ^ 16 + g.toNat) := by rw [toNat_append_add, toNat_extractLsb', Nat.mod_eq_of_lt hhigh]

/-- A token's expiry counts from the time of its grant. -/
theorem State.mint_eq {s : State} {a : Word} {exp : Nat} {tok : BitVec 40} (hexp : exp = s.ftime / 2 ^ 20 % 2 ^ 13 + (a.toNat / 2 ^ 12 % 2 ^ 13))
    (htok : tok = BitVec.ofNat 40 (a.toNat / 2 ^ 25 % 2 ^ 15 * 2 ^ 25 + exp % 2 ^ 13 * 2 ^ 12 + a.toNat % 2 ^ 12)) :
    s.mint a = s.tokenMac (a.toNat / 2 ^ 28 % 2 ^ 12) tok ++ tok := by
  have hfields : (a.extractLsb' 25 15 ++ (BitVec.ofNat 13 (s.ftime / 2 ^ 20) + a.extractLsb' 12 13) ++ a.extractLsb' 0 12 : BitVec 40) = tok := by
    rw [htok, hexp]
    refine BitVec.eq_of_toNat_eq ?_
    simp only [toNat_append_add, toNat_extractLsb', BitVec.toNat_add, BitVec.toNat_ofNat]
    omega
  rw [← tokenWin_eq, ← hfields]; rfl

theorem grantBad_iff (s : State) (a : Word) : grantBad s a = false ↔ a.toNat < 2 ^ 40 ∧ a.toNat / 2 ^ 28 % 2 ^ 12 ≠ 0 ∧
    0 < a.toNat / 2 ^ 12 % 2 ^ 13 ∧ a.toNat / 2 ^ 12 % 2 ^ 13 ≤ 4095 ∧ a.toNat / 2 ^ 6 % 2 ^ 6 ≤ 52 ∧
    (s.window (a.toNat / 2 ^ 28 % 2 ^ 12)).valid = true := by
  have hhigh : a.extractLsb' 40 24 = 0 ↔ a.toNat < 2 ^ 40 := by
    rw [← BitVec.toNat_inj, toNat_extractLsb']; simp; omega
  simp only [grantBad, tokenWin_eq, toNat_extractLsb', Bool.or_eq_false_iff, bne_eq_false_iff_eq, beq_eq_false_iff_ne, decide_eq_false_iff_not,
    Bool.not_eq_false', hhigh, not_lt, and_assoc, ne_eq, Nat.pos_iff_ne_zero]

/-! ## What the FX engine performs (R442 to R444) -/

section
variable {s t : State} {c : Nat} {q : Entry}

/-- SHUPD of a valid image: the entry under the next generation, which is returned. -/
theorem runShupd_replaces {d : SReg} {a : AReg} {h : BitVec 12} {va : Addr} {l : Pieces} {e : ShardEnt} (hq : q.redir = []) (hva : q.o1.setWidth 80 = va)
    (halign : va.toNat % 64 = 0) (hsp : spBad s (fxAcc s c q false) va 64 = false) (hr : Reads s c q (fxAcc s c q false) va 64 t l)
    (hw : t.awaitsData c q l = false) (he : e = leBits 512 (t.readAll l)) (hbad : e.bad = false) (hcar : t.carried h ((t.handle h).gen + 1) = false) :
    runShupd d a h c q s = ⟨({ t with shtab := Tab.set t.shtab h.toNat (e.extractLsb' 16 496 ++ ((t.handle h).gen + 1)) }).modTask c q.slot
      fun k => k.setS d (((t.handle h).gen + 1).setWidth 64), 64, 64, .done⟩ := by
  subst he hva
  obtain ⟨hthrough, hclean⟩ := hr
  have hchecks : NoCheck [((q.o1.setWidth 80).toNat % 64 != 0, cALIGN, q.o1.setWidth 80),
      (spBad s (fxAcc s c q false) (q.o1.setWidth 80) 64, cSPACCESS, q.o1.setWidth 80)] :=
    List.forall_mem_cons.mpr ⟨bne_eq_false_iff_eq.mpr halign, List.forall_mem_singleton.mpr hsp⟩
  rw [runShupd, whole_of_noCheck hchecks, fxRead_through hq hthrough hw]
  simp only [hclean, hbad, hcar, Bool.false_eq_true, if_false]

theorem runGrant_mints {d r : SReg} {a : Word} (ha : q.o1.setWidth 64 = a) (hok : grantBad s a = false) :
    runGrant d r c q s = ⟨s.modTask c q.slot fun t => t.setS d (s.mint a), 0, 0, .done⟩ := by
  subst ha
  exact whole_of_noCheck (List.forall_mem_singleton.mpr hok)

theorem runRevoke_draws {r : SReg} {a : Word} (ha : q.o0.setWidth 64 = a) (h0 : 0 < a.toNat) (h12 : a.toNat < 2 ^ 12) :
    runRevoke r c q s = ⟨s.drawKey a.toNat, 0, 0, .done⟩ := by
  subst ha
  have hhigh : (q.o0.setWidth 64).extractLsb' 12 52 = 0 := by rw [← BitVec.toNat_inj, toNat_extractLsb', Nat.div_eq_of_lt h12]; rfl
  have hne : q.o0.setWidth 64 ≠ 0 := fun h => by rw [h] at h0; exact absurd h0 (by decide)
  exact whole_of_noCheck (List.forall_mem_singleton.mpr (by rw [hhigh, beq_eq_false_iff_ne.mpr hne]; rfl))

end

/-! ## The statement -/

/-- Settles O47: each instruction by what its engine performs in the state in which its entry starts, which the issue leaves as it was but for
tasks, semaphores, data cache and queue of the unit. -/
theorem privilegedFabric : Obligations.privileged_fabric := by
  rintro s B t c n y sd sa a h k x q A G l e hready rfl rfl rfl rfl rfl
  refine ⟨fun hpriv => ?user, fun hpriv hx halign hsp hr hw he hbad hcar => ?shupd, fun exp tok hpriv hok hexp htok => ?grant,
    fun w hpriv hx h0 h12 hw => ?revoke, grantBad_iff s _⟩
  case user =>
    have hill : (!(s.task c n).priv) = true := by rw [hpriv]; rfl
    refine ⟨?_, ?_, ?_⟩ <;> exact engine_illegal (ill := fun t => !t.priv) hready hill
  case shupd =>
    subst hx
    have hgen : ((t.handle h).gen + 1).setWidth 64 = BitVec.ofNat 64 (((t.handle h).gen.toNat + 1) % 2 ^ 16) := by
      rw [← BitVec.ofNat_toNat, BitVec.toNat_add]; rfl
    refine engine_ended (ill := fun t => !t.priv) hready rfl rfl (privileged hpriv) ?_
    rw [runShupd_replaces rfl (capA_setWidth ..) halign hsp hr hw he hbad hcar, withGen_eq, hgen, BitVec.toNat_add]
    rfl
  case grant =>
    refine runs_engine_setS (ill := fun t => !t.priv) (x := fx (.grant y sd sa) fun z => [0, capS z sa]) hready rfl rfl rfl rfl
      (privileged hpriv) rfl rfl ?_
    rw [runGrant_mints (capS_setWidth ..) ((Issue.begun_grantBad ..).trans hok), Issue.begun_mint, State.mint_eq hexp htok]
    rfl
  case revoke =>
    subst hx hw
    refine engine_ended (ill := fun t => !t.priv) hready rfl rfl (privileged hpriv) ?_
    rw [runRevoke_draws (capS_setWidth ..) h0 h12, State.drawKey, Issue.begun_window, Issue.begun_nextKey]

end Sys2Proof.Machine
end

section
/-! SUPPORT. The memories right after reset (R94, R101): the statement O5. -/

namespace Sys2Proof.Machine

/-- Settles O5: reset lists no byte in any memory. -/
theorem resetMemories : Obligations.reset_memories := State.memWf_reset

end Sys2Proof.Machine
end

section
/-! SUPPORT. The host link, its translations, the launch pages and the mailboxes (R79 to R91, R155, R157): one lemma per event, and the statement
O55. -/

namespace Sys2Proof.Machine

theorem State.mgmtOn_of {s : State} (hp : s.powered = true) (hb : s.bootst ≠ 15) : s.mgmtOn = true := by
  rw [State.mgmtOn, hp, bne_iff_ne.mpr hb]; rfl

@[simp] theorem State.lpage_setLpage (s : State) (k : Nat) (p : LPage) : (s.setLpage k p).lpage k = p := Tab.get_set_same ..

/-! ## The ZCL ports (R79, R80) -/

theorem State.setZcl_eq (s : State) {n : Nat} (up : Bool) (hn : n < 2) {t : State} (ht : t = { s with
      zcl0 := if n = 0 then up else s.zcl0, zcl1 := if n = 1 then up else s.zcl1
      hostLog := s.hostLog ++ [.cfg n up (s.zclLow.contains n)] }) :
    s.setZcl n up = if up then ((({ t with zclWait := false }).flushRings).retryWords).retryIngress else t := by
  subst ht
  obtain rfl | rfl : n = 0 ∨ n = 1 := by omega
  · rfl
  · rfl

section
variable {s : State} (hp : s.powered = true)
include hp

theorem zclCfgMessage_windows {m l g : Nat} (h : s.inp.cfg = .windows m l g) :
    exec .zclCfgMessage s = .next { s with winMgmt := m, winLaunch := l, winLog := g } := by
  show execZclCfgMessage s = _
  simp only [execZclCfgMessage, event, hp, h, if_true]

theorem zclCfgMessage_portState {p : Fin 2} {up : Bool} (h : s.inp.cfg = .portState p up) :
    exec .zclCfgMessage s = .next (s.setZcl p.val up) := by
  show execZclCfgMessage s = _
  simp only [execZclCfgMessage, event, hp, h, if_true]

theorem zclCfgMessage_portConfig {p : Fin 2} {low : Bool} (h : s.inp.cfg = .portConfig p low) : exec .zclCfgMessage s = .next { s with
    zclLow := if low then s.zclLow.add p.val else s.zclLow.del p.val
    hostLog := s.hostLog ++ [.cfg p.val (if p.val = 0 then s.zcl0 else s.zcl1) low] } := by
  show execZclCfgMessage s = _
  simp only [execZclCfgMessage, event, hp, h, if_true]

end

theorem hostlinkTimeout_eq (s : State) : exec .hostlinkTimeout s = .next
    (if s.powered = true ∧ s.zclWait = true ∧ s.zcl0 = false ∧ s.zcl1 = false then s.deviceFault fHOSTLINK else s) := by
  show Host.Outcome.next (if s.powered && s.zclWait && !s.zclUp then s.deviceFault fHOSTLINK else s) = _
  simp only [State.zclUp, Bool.and_eq_true, Bool.not_eq_true', Bool.or_eq_false_iff, and_assoc]

/-! ## Host translations (R83, R84) -/

theorem State.xltAns_evict (s : State) (c : CacheId) : (s.evict c).xltAns = s.xltAns := by
  rw [State.evict]
  split
  · rfl
  · split <;> rfl

theorem State.xltAns_fillAtc (s : State) (q : XltReq) (pa : Nat) (r w x : Bool) : (s.fillAtc q pa r w x).xltAns = s.xltAns :=
  List.foldlRecOn (motive := fun t : State => t.xltAns = s.xltAns) q.asids _ rfl fun _ ht _ _ => (State.xltAns_evict ..).trans ht

/-- The request in flight that a reply answers. -/
def State.xltAsked (s : State) : Option XltReq := s.xlts.find? fun q => q.pasid == s.inp.pasid && q.vpage == s.inp.va.toNat / 4096

section
variable {s t : State} {q : XltReq} (hq : s.xltAsked = some q) (ht : t = { s with xlts := s.xlts.erase q })
include hq ht

theorem xltReply_translation {pa : Nat} {r w x : Bool} (h : s.inp.xlt = .translation pa r w x) :
    exec .xltReply s = .next (({ t.fillAtc q pa r w x with
      xltAns := s.xltAns ++ q.asids.map fun a => (a, q.vpage, XltNote.fresh) }).retryWords).retryIngress := by
  subst ht
  have hans := State.xltAns_fillAtc { s with xlts := s.xlts.erase q } q pa r w x
  rw [State.xltAsked] at hq
  show execXltReply s = _
  simp only [execXltReply, event, hq, h, State.note, hans]

theorem xltReply_notPresent (h : s.inp.xlt = .notPresent) : exec .xltReply s =
    .next (({ t with xltAns := s.xltAns ++ q.asids.map fun a => (a, q.vpage, XltNote.notPresent) }).retryWords).retryIngress := by
  subst ht
  rw [State.xltAsked] at hq
  show execXltReply s = _
  simp only [execXltReply, event, hq, h, State.note]

theorem xltReply_refused (h : s.inp.xlt = .refused) : exec .xltReply s =
    .next (({ t with xltAns := s.xltAns ++ q.asids.map fun a => (a, q.vpage, XltNote.refused) }).retryWords).retryIngress := by
  subst ht
  rw [State.xltAsked] at hq
  show execXltReply s = _
  simp only [execXltReply, event, hq, h, State.note]

end

theorem xltReply_unasked {s : State} (hq : s.xltAsked = none) : exec .xltReply s = .next s := by
  rw [State.xltAsked] at hq
  show execXltReply s = _
  simp only [execXltReply, event, hq]

/-- A cached translation that an INV of a PASID and a range covers. -/
def TlbEntry.coveredBy (pasid : Nat) (lo hi : Addr) (e : TlbEntry) : Bool :=
  e.pasid == some pasid && decide (e.vbase ≤ hi.toNat) && decide (lo.toNat < e.vbase + 2 ^ e.shift)

/-- INV keeps what it does not cover, and waits for what it covers. -/
theorem inv_eq (s : State) : exec .inv s = .next { s with
    tlb := s.tlb.filter fun e => !(e.coveredBy s.inp.pasid s.inp.va s.inp.hi)
    invs := s.invs ++ [⟨s.inp.pasid, s.inp.va, s.inp.hi,
      (s.tlb.filter (TlbEntry.coveredBy s.inp.pasid s.inp.va s.inp.hi)).map fun e => e.old⟩] } := rfl

theorem TlbEntry.coveredBy_iff {pasid : Nat} {lo hi : Addr} {e : TlbEntry} : e.coveredBy pasid lo hi = true ↔
    e.pasid = some pasid ∧ e.vbase ≤ hi.toNat ∧ lo.toNat < e.vbase + 2 ^ e.shift := by
  simp only [TlbEntry.coveredBy, Bool.and_eq_true, beq_iff_eq, decide_eq_true_eq, and_assoc]

theorem invComplete_eq {s : State} {i : Inval} (hi : s.invs[s.inp.index]? = some i) : exec .invComplete s = .next
    (if s.performedAll i.waits then { s with invs := s.invs.eraseIdx s.inp.index, hostLog := s.hostLog ++ [.invDone] } else s) := by
  show execInvComplete s = _
  simp only [execInvComplete, event, hi]

/-- What is performed has no destination of a request, no byte of a transfer and no waiting contribution left in what it reached. -/
theorem State.performedAll_none {s : State} {os : List Old} (h : s.performedAll os = true) {o : Old} (ho : o ∈ os) :
    (∀ r ∈ s.outst, (∀ x ∈ r.dst, o.meets x = false) ∧
      ∀ x ∈ s.xfers, x.of r = true → ∀ e ∈ x.dst, ∀ z ∈ e.2, o.meets z = false) ∧
    ∀ r ∈ s.ords, ∀ h ∈ r.held, ∀ x ∈ h.places, o.meets x = false := by
  have h := List.all_eq_true.mp h o ho
  simp only [Bool.and_eq_true, Bool.not_eq_true', List.any_eq_false, Bool.not_eq_true, Bool.or_eq_false_iff] at h
  obtain ⟨⟨hout, hxfer⟩, hord⟩ := h
  refine ⟨fun r hr => ⟨(hout r hr).1, fun x hx hof e he z hz => ?_⟩, hord⟩
  by_contra hmeets
  exact hxfer x hx ⟨List.any_eq_true.mpr ⟨r, hr, hof⟩,
    List.any_eq_true.mpr ⟨e, he, List.any_eq_true.mpr ⟨z, hz, eq_true_of_ne_false hmeets⟩⟩⟩

/-! ## Launch pages (R86 to R89, R153 to R157) -/

section
variable {s : State} {k : Nat} {p : LPage} (hp : p = s.lpage k)
include hp

theorem State.launch_dropped {off : Nat} {bs : List Byte}
    (h : p.en = false ∨ bs.length ≠ 128 ∨ off % 128 ≠ 0 ∨ (p.tail - p.head).toNat = p.capacity ∨ p.held ≠ []) : s.launch k off bs =
      s.setLpage k { p with dropcnt := if p.dropcnt = 0xFFFF then 0xFFFF else p.dropcnt + 1 } := by
  subst hp
  have hdrop : (!(s.lpage k).en || bs.length != 128 || off % 128 != 0 || (s.lpage k).full || !(s.lpage k).held.isEmpty) = true := by
    simpa [LPage.full, or_assoc] using h
  have hcount : (if (s.lpage k).dropcnt = 0xFFFF then (s.lpage k).dropcnt else (s.lpage k).dropcnt + 1) =
      if (s.lpage k).dropcnt = 0xFFFF then 0xFFFF else (s.lpage k).dropcnt + 1 := by
    split
    · assumption
    · rfl
  rw [State.launch, if_pos hdrop, hcount]

theorem State.launch_taken {t : State} {off : Nat} {bs : List Byte} (hen : p.en = true) (hlen : bs.length = 128) (hoff : off % 128 = 0)
    (hroom : (p.tail - p.head).toNat ≠ p.capacity) (hheld : p.held = [])
    (ht : t = s.setLpage k { p with seq := p.seq + 1, openCnt := p.openCnt + 1 }) : s.launch k off bs =
      if s.faulted then t.refuseLaunch k p.seq p.asid (SweepRec.parse bs).notify 1 fDEVFAULT
      else if 64 ≤ p.openCnt then t.refuseLaunch k p.seq p.asid (SweepRec.parse bs).notify 5 0
      else t.launchRec k p.seq bs := by
  subst ht hp
  have htake : (!(s.lpage k).en || bs.length != 128 || off % 128 != 0 || (s.lpage k).full || !(s.lpage k).held.isEmpty) = false := by
    have hfull : (s.lpage k).full = false := beq_eq_false_iff_ne.mpr hroom
    simp [hfull, hen, hlen, hoff, hheld]
  rw [State.launch, htake]
  rfl

omit hp in
/-- The checks of a record, on a page in the state that took it. -/
theorem State.launchRec_eq {q : LPage} {seq : BitVec 16} {bs : List Byte} (hq : s.lpage k = q) : s.launchRec k seq bs =
    (checkRec s (SweepRec.parse bs) false q.clfloor q.priv).elim
      (if s.poolFull false then s.refuseLaunch k seq q.asid (SweepRec.parse bs).notify 5 0
        else (s.accept (SweepRec.parse bs) q.asid (.launch k seq)).1)
      fun status => s.refuseLaunch k seq q.asid (SweepRec.parse bs).notify status 0 := by
  subst hq
  unfold State.launchRec
  dsimp only
  generalize checkRec s (SweepRec.parse bs) false (s.lpage k).clfloor (s.lpage k).priv = m
  cases m with
  | none => rw [Option.elim_none]
  | some status => rw [Option.elim_some]

end

/-! ## Writes of the registers of a launch page, and of a mailbox (R86, R91) -/

theorem State.writeLpage_eq {s : State} {k : Nat} (v : BitVec 64) (f : LPage → BitVec 64 → LPage) (hon : s.mgmtOn = true) (hk : k < 1024) :
    s.writeLpage k v f = s.setLpage k (f (s.lpage k) v) := by
  rw [State.writeLpage, hon, decide_eq_true hk]; rfl

theorem State.writeLpptr_eq {s t : State} {k : Nat} {v : BitVec 64} (hon : s.mgmtOn = true) (hk : k < 1024)
    (ht : t = s.setLpage k { s.lpage k with head := v.extractLsb' 0 16 }) : s.writeLpptr k v = flushRing k ((s.lpage k).held.length + 1) t := by
  rw [State.writeLpptr, State.writeLpage_eq _ _ hon hk, ← ht]
  simp only [ht, State.lpage_setLpage]

theorem launchWrite_eq {s : State} (hon : s.mgmtOn = true) (hk : s.inp.index < 1024) (hoff : s.inp.off < 4096) :
    exec .launchWrite s = .next (s.launch s.inp.index s.inp.off s.inp.bytes) :=
  congrArg Host.Outcome.next (if_pos (by rw [hon, decide_eq_true hk, decide_eq_true hoff]; rfl))

theorem queueToPool_moves {s : State} {w : Sweep} {e : Nat} (h : s.queueHead = some (w, e)) :
    exec .queueToPool s = .next (s.modSweep w.id fun w => { w with entry := some e }) := by
  show execQueueToPool s = _
  simp only [execQueueToPool, event, h]

theorem queueToPool_stands {s : State} (h : s.queueHead = none) : exec .queueToPool s = .next s := by
  show execQueueToPool s = _
  simp only [execQueueToPool, event, h]

theorem State.writeMbox_eq (s : State) (c i : Nat) (v : BitVec 32) : s.writeMbox c i v =
    if s.mgmtOn = true ∧ c < 288 then s.modCore c fun k => { k with mbox := Tab.set k.mbox i v } else s := by
  simp only [State.writeMbox, Bool.and_eq_true, decide_eq_true_eq]
  rfl

theorem mailboxHostWrite_eq (s : State) :
    exec .mailboxHostWrite s = .next (s.writeMbox s.inp.core s.inp.mb.val (s.inp.v.setWidth 32)) := rfl

/-! ## The statement on the host -/

/-- Settles O55: one lemma per event; a launch write by what the page, the device and the record's checks say. -/
theorem hostEvents : Obligations.host_events := by
  rintro s k p v rfl hp rfl
  refine ⟨fun hpow => ⟨fun m l g h => zclCfgMessage_windows hpow h, fun q up h => zclCfgMessage_portState hpow h,
      fun q low h => zclCfgMessage_portConfig hpow h⟩, fun n up t hn ht => s.setZcl_eq up hn ht, rfl, rfl, fun h1 h2 h3 h4 => ?timeout,
    fun h => ?noTimeout, rfl, fun q t hq ht => ⟨fun pa r w x h => xltReply_translation hq ht h, xltReply_notPresent hq ht,
      xltReply_refused hq ht⟩, xltReply_unasked, ⟨_, inv_eq s, fun e => ?kept⟩, fun i hi => ⟨fun h => ?complete, fun h => ?pending,
      fun h o ho => State.performedAll_none h ho⟩, fun hpow hb hk => ?page, fun w e h => queueToPool_moves h, queueToPool_stands,
    fun hpow hb hc => ?mailbox, fun hc => ?noCore⟩
  case timeout => rw [hostlinkTimeout_eq, if_pos ⟨h1, h2, h3, h4⟩]
  case noTimeout =>
    rw [hostlinkTimeout_eq, if_neg]
    rintro ⟨-, hw, h0, h1⟩
    simp [hw, h0, h1] at h
  case kept =>
    rw [List.mem_filter, Bool.not_eq_true', ← Bool.not_eq_true, TlbEntry.coveredBy_iff]
  case complete => rw [invComplete_eq hi, if_pos h]
  case pending => rw [invComplete_eq hi, if_neg (Bool.eq_false_iff.mp h)]
  case mailbox => rw [mailboxHostWrite_eq, State.writeMbox_eq, if_pos ⟨State.mgmtOn_of hpow hb, hc⟩]
  case noCore => rw [mailboxHostWrite_eq, State.writeMbox_eq, if_neg fun h => Nat.not_lt.mpr hc h.2]
  case page =>
    have hon := State.mgmtOn_of hpow hb
    have hreg : ∀ f : LPage → BitVec 64 → LPage, s.writeLpage s.inp.index (s.inp.v.setWidth 64) f =
        s.setLpage s.inp.index (f p (s.inp.v.setWidth 64)) := fun f => by rw [State.writeLpage_eq _ f hon hk, hp]
    refine ⟨fun hoff h => ?dropped, fun t N hoff hen hlen hal hroom hheld ht hN => ?taken, fun h => ?cfgEnabled, fun h => ?cfg,
      fun h => ?ringEnabled, fun h => ?ring, fun t ht => ?head⟩
    case dropped => rw [launchWrite_eq hon hk hoff, State.launch_dropped hp h]
    case taken =>
      have hpage : t.lpage s.inp.index = { p with seq := p.seq + 1, openCnt := p.openCnt + 1 } := by rw [ht, State.lpage_setLpage]
      rw [launchWrite_eq hon hk hoff, State.launch_taken hp hen hlen hal hroom hheld ht, State.launchRec_eq hpage, ← hN]
      refine ⟨fun hf => by rw [if_pos hf], fun hf h64 => by rw [if_neg (Bool.eq_false_iff.mp hf), if_pos h64], fun hf h64 => ?_⟩
      rw [if_neg (Bool.eq_false_iff.mp hf), if_neg (Nat.not_le.mpr h64)]
      refine ⟨fun e he => by rw [he]; rfl, fun hok => ⟨fun hfull => ?_, fun hfree => ?_⟩⟩
      · rw [hok, Option.elim_none, if_pos hfull]
      · rw [hok, Option.elim_none, if_neg (Bool.eq_false_iff.mp hfree)]
    case cfgEnabled => exact congrArg Host.Outcome.next ((hreg LPage.cfg).trans (by rw [LPage.cfg, if_pos h]))
    case cfg => exact congrArg Host.Outcome.next ((hreg LPage.cfg).trans (by rw [LPage.cfg, if_neg (Bool.eq_false_iff.mp h)]))
    case ringEnabled => exact congrArg Host.Outcome.next ((hreg LPage.ring).trans (by rw [LPage.ring, if_pos h]))
    case ring => exact congrArg Host.Outcome.next ((hreg LPage.ring).trans (by rw [LPage.ring, if_neg (Bool.eq_false_iff.mp h)]))
    case head =>
      subst hp
      exact congrArg Host.Outcome.next (State.writeLpptr_eq hon hk ht)

end Sys2Proof.Machine
end

section
/-! SUPPORT. The waits of held tasks, their pending traps and their limits (R166, R177, R186, R187, R334, R335, R340): what each hold waits for,
and one lemma per event of a front end. -/

namespace Sys2Proof.Machine

variable {s : State} {c n : Nat} {k : Task}

/-! ## What a hold waits for (R166) -/

/-- A read that reaches its bytes, none of them poison, is tested on them. -/
theorem State.peek_reads {va : Addr} {j : Nat} {l : Pieces} {f : List Byte → Bool}
    (hl : (locate s (scalarAcc c (s.task c n).asid true false false) va j).2 = .ok l) (hclean : s.firstPoisonAll l = none) :
    s.peek c n va j f = f (s.readAll l) := by
  simp only [State.peek, hl, hclean, Option.isSome_none, Bool.false_or]

section
variable (hk : k = s.task c n)
include hk

theorem State.met_count {q : BitVec 8} {m : Nat} (h : k.wait = .sync q m ∨ k.wait = .sem q m) :
    s.met c n = true ↔ m ≤ (s.sem c q.toNat).count.toNat := by
  subst hk
  rcases h with h | h
  · simp only [State.met, h, decide_eq_true_eq]
  · simp only [State.met, h, decide_eq_true_eq]

theorem State.met_landing {a : Addr} {g : BitVec 16} {l : Pieces} (h : k.wait = .landing a g)
    (hl : (locate s (scalarAcc c k.asid true false false) a 16).2 = .ok l) (hclean : s.firstPoisonAll l = none) {w : LandingWord}
    (hw : w = LandingWord.ofBits (leBits 128 (s.readAll l))) : s.met c n = true ↔ w.flags.getLsbD 7 = true ∨ reached w.gen g = true := by
  subst hk hw
  rw [← Bool.or_eq_true]
  simp only [State.met, h, State.peek_reads hl hclean]

theorem State.met_mwait {a : Addr} {ty : IntTy} {cc : Cond} {b : Word} {l : Pieces} (h : k.wait = .mwait a ty cc b) (ha : vaRegion a ≠ .host)
    (hl : (locate s (scalarAcc c k.asid true false false) a ty.w.bytes).2 = .ok l) (hclean : s.firstPoisonAll l = none) :
    s.met c n = cc.eval (ty.ext (BitVec.ofNat 64 (ofBytes (s.readAll l)))) b := by
  subst hk
  simp only [State.met, h, State.peek_reads hl hclean, bne_iff_ne.mpr ha, Bool.true_and]

/-! ## The hold of a task read in from an image (R166, R335) -/

theorem State.enterWait_of_ne_word (h : ∀ x, k.wait ≠ .word x) : s.enterWait c n = s := by
  subst hk
  unfold State.enterWait
  split
  · next x hx => exact absurd hx (h x)
  · rfl

theorem State.enterWait_word {x : Option Addr} (h : k.wait = .word x) : s.enterWait c n =
    ((s.wordAt c n).bind fun w => (decode w).toOption.bind fun i => k.waitAt i).elim (s.readyTask c n)
      fun w => s.modTask c n fun t => { t with wait := w } := by
  subst hk
  simp only [State.enterWait, h]
  cases (s.wordAt c n).bind fun w => (decode w).toOption.bind fun i => (s.task c n).waitAt i with
  | none => rw [Option.elim_none]
  | some w => rw [Option.elim_some]

theorem State.enterWait_gives {x : Option Addr} {w : InstrWord} {i : Instr} {h : Wait} (hx : k.wait = .word x) (hw : s.wordAt c n = some w)
    (hi : decode w = .ok i) (hh : k.waitAt i = some h) : s.enterWait c n = s.modTask c n fun t => { t with wait := h } := by
  rw [State.enterWait_word hk hx, hw, Option.bind_some, hi, Except.toOption, Option.bind_some, hh, Option.elim_some]

theorem State.enterWait_readies {x : Option Addr} {w : InstrWord} {i : Instr} (hx : k.wait = .word x)
    (h : s.wordAt c n = none ∨ (s.wordAt c n = some w ∧ decode w = .ok i ∧ k.waitAt i = none)) : s.enterWait c n = s.readyTask c n := by
  rw [State.enterWait_word hk hx]
  rcases h with hw | ⟨hw, hi, hh⟩
  · rw [hw, Option.bind_none, Option.elim_none]
  · rw [hw, Option.bind_some, hi, Except.toOption, Option.bind_some, hh, Option.elim_none]

end

/-- The hold that an instruction gives says what it waits for. -/
theorem Task.waitAt_ne_word {i : Instr} {h : Wait} (hh : k.waitAt i = some h) (x : Option Addr) : h ≠ .word x := by
  rintro rfl
  unfold Task.waitAt at hh
  split at hh
  · cases hh
  · split at hh
    · cases hh
    · split at hh <;> cases hh
  · split at hh <;> cases hh
  all_goals cases hh

theorem State.enterWait_ne_word (x : Option Addr) : ((s.enterWait c n).task c n).wait ≠ .word x := by
  by_cases h : ∃ y, (s.task c n).wait = .word y
  · obtain ⟨y, hy⟩ := h
    rw [State.enterWait_word rfl hy]
    cases hm : (s.wordAt c n).bind fun w => (decode w).toOption.bind fun i => (s.task c n).waitAt i with
    | none =>
      rw [Option.elim_none, State.readyTask, State.task_modTask_same]
      exact nofun
    | some w =>
      obtain ⟨_, -, hm⟩ := Option.bind_eq_some_iff.mp hm
      obtain ⟨_, -, hm⟩ := Option.bind_eq_some_iff.mp hm
      rw [Option.elim_some, State.task_modTask_same]
      exact Task.waitAt_ne_word hm x
  · rw [State.enterWait_of_ne_word rfl fun y hy => h ⟨y, hy⟩]
    exact fun hx => h ⟨x, hx⟩

/-! ## Conditions met (R166) -/

theorem State.wake_enterWait : (s.enterWait c n).wake c n = s.wake c n := by
  have hidem : (s.enterWait c n).enterWait c n = s.enterWait c n := State.enterWait_of_ne_word rfl State.enterWait_ne_word
  rw [State.wake, hidem]; rfl

section
variable (hk : k = s.task c n) (hword : ∀ x, k.wait ≠ .word x)
include hk hword

theorem State.wake_met (hst : k.st = .waiting ∨ k.st = .parked ∨ k.st = .issuing) (hmet : s.met c n = true) :
    s.wake c n = s.modTask c n fun t =>
      if k.wait.contended then { t with st := .ready } else { t with st := .ready, wait := .none, waitFrom := none, waitAcc := 0 } := by
  have henter := State.enterWait_of_ne_word hk hword
  subst hk
  have hheld : (s.task c n).st.held = true := by rcases hst with h | h | h <;> rw [h] <;> rfl
  simp only [State.wake, henter, hheld, hmet, Bool.and_self, if_true]
  split <;> rfl

theorem State.wake_unmet (hmet : s.met c n = false) : s.wake c n = s := by
  simp only [State.wake, State.enterWait_of_ne_word hk hword, hmet, Bool.and_false, Bool.false_eq_true, if_false]

end

section
variable (hf : s.frozenUnit s.inp.core = false)
include hf

theorem waitConditionMet_eq : exec .waitConditionMet s = .next (s.wake s.inp.core s.inp.slot) :=
  congrArg Host.Outcome.next (if_neg (Bool.eq_false_iff.mp hf))

theorem mwaitPoll_eq {a : Addr} {ty : IntTy} {cc : Cond} {b : Word} (hst : (s.task s.inp.core s.inp.slot).st = .waiting)
    (hw : (s.task s.inp.core s.inp.slot).wait = .mwait a ty cc b) : exec .mwaitPoll s =
      .next (if vaRegion a = .host ∨ s.met s.inp.core s.inp.slot = true then s.modTask s.inp.core s.inp.slot fun t => { t with st := .ready }
        else s) := by
  show execMwaitPoll s = _
  simp only [execMwaitPoll, event, hst, hw, hf, Bool.not_false, Bool.true_and, Bool.or_eq_true, beq_iff_eq]

/-! ## Pending traps (R177, R334) -/

theorem pendingTrapTaken_eq : exec .pendingTrapTaken s = .next (s.boundary s.inp.core s.inp.slot) :=
  congrArg Host.Outcome.next (if_neg (Bool.eq_false_iff.mp hf))

/-! ## WAITTIME (R186, R187) -/

theorem waittimeExpiry_eq : exec .waittimeExpiry s = .next (s.expire s.inp.core s.inp.slot) :=
  congrArg Host.Outcome.next (if_neg (Bool.eq_false_iff.mp hf))

end

section
variable (hk : k = s.task c n)
include hk

theorem State.boundary_takes {z : State} (hst : k.st = .ready ∨ k.st = .waiting ∨ k.st = .parked ∨ k.st = .issuing)
    (hz : s.takeTrap c n = some z) : s.boundary c n = z := by
  subst hk
  have hat : (s.task c n).st.atBoundary = true := by rcases hst with h | h | h | h <;> rw [h] <;> rfl
  simp only [State.boundary, hat, hz, if_true]

theorem State.boundary_stays (hst : k.st = .ready ∨ k.st = .waiting ∨ k.st = .parked ∨ k.st = .issuing) (hz : s.takeTrap c n = none) :
    s.boundary c n = if k.firstPending.isSome = true ∧ s.countUnread c n = true then s.readyTask c n else s := by
  subst hk
  have hat : (s.task c n).st.atBoundary = true := by rcases hst with h | h | h | h <;> rw [h] <;> rfl
  simp only [State.boundary, hat, hz, if_true, Bool.and_eq_true]

theorem State.boundary_none (hst : k.st = .idle ∨ k.st = .trapped ∨ k.st = .preempted) : s.boundary c n = s := by
  subst hk
  have hat : (s.task c n).st.atBoundary = false := by rcases hst with h | h | h <;> rw [h] <;> rfl
  simp only [State.boundary, hat, Bool.false_eq_true, if_false]

theorem State.takeTrap_none (h : k.firstPending = none ∨ s.countUnread c n = true) : s.takeTrap c n = none := by
  subst hk
  by_cases hu : s.countUnread c n = true
  · rw [State.takeTrap, if_pos hu]
  · rw [State.takeTrap, if_neg hu, h.resolve_right hu]

/-- A pending trap but poison's is taken as a trap, with the positions of its engine's frozen command where it has one. -/
theorem State.takeTrap_enters {x : Eng} {q : Pending} (hp : k.firstPending = some (x, q)) (hcode : q.code ≠ cPOISON) (hin : k.inh = false)
    (hu : s.countUnread c n = false) : s.takeTrap c n = some ((s.modTask c n fun t => t.setPend x none).enterTrap c n {
      code := q.code, sub := q.sub, addr := q.addr, epc := k.pc, eng := some x
      frozen := ((s.modTask c n fun t => t.setPend x none).frozenEntry c n x).isSome
      ecp := ((s.frozenEntry c n x).map fun z => z.comm).getD q.ecp, esp := ((s.frozenEntry c n x).map fun z => z.spec).getD q.esp }) := by
  subst hk
  rw [State.takeTrap, if_neg (Bool.eq_false_iff.mp hu), hp]
  simp only [if_neg hcode, State.takePending, hin, hp, Bool.false_eq_true, if_false]
  cases s.frozenEntry c n x <;> rfl

theorem State.expire_early (h : k.waitlimit = 0 ∨ k.waitCount (s.now c) < k.waitlimit.toNat) : s.expire c n = s := by
  subst hk
  refine if_neg fun he => ?_
  simp only [State.expired, Bool.and_eq_true, bne_iff_ne, decide_eq_true_eq] at he
  rcases h with h | h
  · exact he.1 h
  · exact absurd he.2 (Nat.not_le.mpr h)

theorem State.expire_abandons (h0 : k.waitlimit ≠ 0) (h : k.waitlimit.toNat ≤ k.waitCount (s.now c)) : s.expire c n = s.abandon c n := by
  subst hk
  refine if_pos ?_
  simp only [State.expired, Bool.and_eq_true, bne_iff_ne, decide_eq_true_eq]
  exact ⟨h0, h⟩

/-! Whose wait is abandoned (R187). -/

theorem State.abandon_waiting (hst : k.st = .waiting) : s.abandon c n = s.issueTrap c n cWAITTIME 0 0 := by
  subst hk
  simp only [State.abandon, hst]; rfl

theorem State.abandon_parked (hst : k.st = .parked) (hw : ∀ i, k.wait ≠ .remote i) : s.abandon c n = s.issueTrap c n cWAITTIME 0 0 := by
  subst hk
  simp only [State.abandon, hst]; rfl

theorem State.abandon_remote {i : BitVec 24} {q : Entry} (hst : k.st = .parked) (hw : k.wait = .remote i)
    (hq : (s.core c).queue.find? (fun q => q.slot == n && q.isn == i && parks q.instr) = some q) :
    s.abandon c n = (s.withdraw c n q).issueTrap c n cWAITTIME 0 0 := by
  subst hk
  simp only [State.abandon, hst, hw, hq]; rfl

theorem State.abandon_entry {q : Entry} (hst : k.st = .ready) (hq : (s.core c).queue.find? (fun q => s.heldEntry c n q) = some q) :
    s.abandon c n = s.abandonEntry c n q := by
  subst hk
  simp only [State.abandon, hst, hq]

end

end Sys2Proof.Machine
end

section
/-! SUPPORT. The fetch, the engines' entries, the replies of the management core and the sequencer (R182, R208, R211, R216, R217, R241, R306, R355,
R428): one lemma per event. -/

namespace Sys2Proof.Machine

variable {s : State} {c n : Nat} {k : Task}

/-! ## Instruction fetch (R208) -/

theorem find?_imem_none {m : Tab InstrWord} {a : Nat} (h : ∀ x ∈ m, x.1 ≠ a) : m.find? (fun e => e.1 == a) = none :=
  List.find?_eq_none.mpr fun x hx => by rw [beq_iff_eq]; exact h x hx

section
variable (hk : k = s.task c n)
include hk

theorem fetch_held (h : ∃ x ∈ (s.core c).imem, x.1 = k.pc.toNat) : ∃ w, fetch s c n = .ok (s, w) := by
  subst hk
  obtain ⟨x, hx, hpc⟩ := h
  cases hfind : (s.core c).imem.find? (fun e => e.1 == (s.task c n).pc.toNat) with
  | none => exact absurd (beq_iff_eq.mpr hpc) (List.find?_eq_none.mp hfind x hx)
  | some e => exact ⟨e.2, by simp only [fetch, hfind]⟩

section
variable (hnew : ∀ x ∈ (s.core c).imem, x.1 ≠ k.pc.toNat)
include hnew

theorem fetch_scratch (hsp : vaRegion k.pc = .scratch) : fetch s c n = .error (s.issueTrap c n cPROT 0 k.pc) := by
  subst hk
  simp only [fetch, find?_imem_none hnew, hsp, if_true]

theorem fetch_fills {z : State} {l : Pieces} (hsp : vaRegion k.pc ≠ .scratch)
    (hr : resolve s (scalarAcc c k.asid false false true) k.pc 12 = (z, .ok l)) (hclean : z.firstPoisonAll l = none) :
    ∃ w, fetch s c n = .ok (z.modCore c fun m =>
      { m with imem := Tab.set m.imem k.pc.toNat (BitVec.ofNat 96 (ofBytes (z.readAll l))) }, w) := by
  subst hk
  refine ⟨leBits 96 (z.readAll l), ?_⟩
  simp only [fetch, find?_imem_none hnew, if_neg hsp, hr, hclean]
  rfl

end

end

section
variable (hf : s.frozenUnit s.inp.core = false)
include hf

/-- INSTRUCTION_FETCH of a READY task leaves the state that the fetch does, whether it ends in a word or in a stop. -/
theorem instructionFetch_ok {z : State} {w : InstrWord} (hst : (s.task s.inp.core s.inp.slot).st = .ready)
    (h : fetch s s.inp.core s.inp.slot = .ok (z, w)) : exec .instructionFetch s = .next z := by
  show execInstructionFetch s = _
  simp only [execInstructionFetch, event, hf, hst, h, bne_self_eq_false, Bool.or_self, Bool.false_eq_true, if_false]

theorem instructionFetch_stops {z : State} (hst : (s.task s.inp.core s.inp.slot).st = .ready)
    (h : fetch s s.inp.core s.inp.slot = .error z) : exec .instructionFetch s = .next z := by
  show execInstructionFetch s = _
  simp only [execInstructionFetch, event, hf, hst, h, bne_self_eq_false, Bool.or_self, Bool.false_eq_true, if_false]

theorem engineEntryComplete_eq : exec .engineEntryComplete s =
    .next (retire s.inp.core s.inp.slot s.inp.eng (s.core s.inp.core).queue.length s) :=
  congrArg Host.Outcome.next (if_neg (Bool.eq_false_iff.mp hf))

end

/-! ## Engines (R182, R211, R216, R217) -/

section
variable {e : Eng} {q : Entry} (hq : (s.core c).queue.find? (fun q => q.slot == n && q.eng == e) = some q)
include hq

/-- A performed entry whose register is still reserved leaves: its register is free, and its signal is added. -/
theorem retire_one {y : Sync} (hdone : q.done = true) (hresp : s.awaiting c q = false) (hmute : q.mute = false) (hfreed : q.freed = false)
    (hy : q.instr.sync = some y) :
    retire c n e 1 s = ((s.dropEntries c q.same).release c n q.instr).signal c y.ssem y.sinc.toNat := by
  have hslot : q.slot = n := by
    have hfound := List.find?_some hq
    rw [Bool.and_eq_true, beq_iff_eq] at hfound
    exact hfound.1
  simp only [retire, hq, hdone, hresp, hmute, hfreed, hy, hslot, State.releaseEntry, Bool.not_false, Bool.and_self, Bool.false_eq_true, if_true,
    if_false]

theorem retire_undone (hdone : q.done = false) (j : Nat) : retire c n e j s = s := by
  cases j with
  | zero => rfl
  | succ j => simp only [retire, hq, hdone, Bool.false_and, Bool.false_eq_true, if_false]

end

theorem engineEntryStart_starts {q : Entry} (hq : (s.core s.inp.core).queue.find? (fun q => q.eng == s.inp.eng && !q.started &&
    s.startable s.inp.core q && s.waitReady s.inp.core q) = some q) : exec .engineEntryStart s = .next (s.turnEntry s.inp.core q) := by
  show execEngineEntryStart s = _
  simp only [execEngineEntryStart, event, hq]

theorem engineEntryStart_none (h : ∀ q ∈ (s.core s.inp.core).queue, q.eng = s.inp.eng →
    q.started = true ∨ s.startable s.inp.core q = false ∨ s.waitReady s.inp.core q = false) : exec .engineEntryStart s = .next s := by
  have hnone : (s.core s.inp.core).queue.find? (fun q => q.eng == s.inp.eng && !q.started && s.startable s.inp.core q &&
      s.waitReady s.inp.core q) = none := by
    refine List.find?_eq_none.mpr fun q hq hgo => ?_
    simp only [Bool.and_eq_true, beq_iff_eq, Bool.not_eq_true'] at hgo
    obtain ⟨⟨⟨heng, hstarted⟩, hstart⟩, hwait⟩ := hgo
    rcases h q hq heng with h | h | h
    · rw [h] at hstarted; cases hstarted
    · rw [h] at hstart; cases hstart
    · rw [h] at hwait; cases hwait
  show execEngineEntryStart s = _
  simp only [execEngineEntryStart, event, hnone]

theorem State.waitReady_iff {q : Entry} {y : Sync} (hy : q.instr.sync = some y) :
    s.waitReady c q = true ↔ q.wmet = true ∨ y.wcnt.toNat ≤ (s.sem c y.wsem.toNat).count.toNat := by
  rw [State.waitReady, hy, Option.getD_some, Bool.or_eq_true, decide_eq_true_eq]

theorem engineUnitCommit_goesOn {q : Entry} (hq : (s.core s.inp.core).queue.find? (fun q => q.slot == s.inp.slot && q.eng == s.inp.eng &&
    q.started && s.startable s.inp.core q) = some q) : exec .engineUnitCommit s = .next (s.turnEntry s.inp.core q) := by
  show execEngineUnitCommit s = _
  simp only [execEngineUnitCommit, event, hq]

theorem engineUnitCommit_none (h : ∀ q ∈ (s.core s.inp.core).queue, q.slot = s.inp.slot → q.eng = s.inp.eng → q.started = false) :
    exec .engineUnitCommit s = .next s := by
  have hnone : (s.core s.inp.core).queue.find? (fun q => q.slot == s.inp.slot && q.eng == s.inp.eng && q.started &&
      s.startable s.inp.core q) = none := by
    refine List.find?_eq_none.mpr fun q hq hgo => ?_
    simp only [Bool.and_eq_true, beq_iff_eq] at hgo
    obtain ⟨⟨⟨hslot, heng⟩, hstarted⟩, -⟩ := hgo
    rw [h q hq hslot heng] at hstarted; cases hstarted
  show execEngineUnitCommit s = _
  simp only [execEngineUnitCommit, event, hnone]

/-! ## Replies of the management core (R241, R355) -/

section
variable (d : SReg) (svc : BitVec 16) (arg v : Word)

theorem Task.replied_eq (t : Task) : t.replied d svc arg v = Task.cont { t.endWait.setS d (if svc = 0 then arg else v) with
    st := .ready, isn := t.isn + 1, took := none } (t.pc + 12) := by
  simp only [Task.replied, Task.setS_pc]
  rfl

theorem Task.replied_fields (t : Task) : (t.replied d svc arg v).st = .ready ∧ (t.replied d svc arg v).wait = .none ∧
    (t.replied d svc arg v).isn = t.isn + 1 ∧ (t.replied d svc arg v).a = t.a ∧ (t.replied d svc arg v).p = t.p := by
  rw [Task.replied_eq, Task.cont_st, Task.cont_wait, Task.cont_isn, Task.cont_a, Task.cont_p]
  exact ⟨rfl, Task.setS_wait .., rfl, Task.setS_a .., Task.setS_p ..⟩

theorem Task.sreg_replied (t : Task) (hd : d ≠ 0) : (t.replied d svc arg v).sreg d = if svc = 0 then arg else v := by
  have hval : ¬d.val = 0 := fun h => hd (Fin.ext h)
  rw [Task.replied_eq, Task.sreg, if_neg hval]
  simp only [Task.cont_s, Task.setS, if_neg hval, Vector.getElem_set_self]

end

section
variable (himg : (s.image s.inp.sweep s.inp.core).isSome = false)
include himg

theorem ecallReply_parked {y : Sync} {d : SReg} {svc : BitVec 16} {arg : Word} (hst : (s.task s.inp.core s.inp.slot).st = .parked)
    (hw : (s.task s.inp.core s.inp.slot).wait = .ecall y d svc arg) : exec .ecallReply s = .next
      (((s.invalidate s.inp.core).modTask s.inp.core s.inp.slot fun t => t.replied d svc arg (s.inp.v.setWidth 64)).signal s.inp.core y.ssem
        y.sinc.toNat) := by
  show execEcallReply s = _
  simp only [execEcallReply, event, himg, hst, hw, Bool.false_eq_true, if_false]

theorem ecallReply_unparked (hst : (s.task s.inp.core s.inp.slot).st ≠ .parked) : exec .ecallReply s = .next s := by
  show execEcallReply s = _
  simp only [execEcallReply, event, himg, Bool.false_eq_true, if_false]
  split
  · next h _ => exact absurd h hst
  · rfl

end

/-! ## The sequencer (R306, R428) -/

section
variable {t : ThreadId} (ht : t = s.inp.thread) (hp : s.powered = true) (hs : s.stopped = false) (hf : s.faulted = false)
include ht hp hs hf

theorem sequencerWordDecodeError_eq (hst : (s.thread t).st = .running) : exec .sequencerWordDecodeError s =
    .next (if s.threadWord t = none then s.threadError t cILLEGAL else s) := by
  subst ht
  show execSequencerWordDecodeError s = _
  simp only [execSequencerWordDecodeError, event, State.floodOn, hp, hs, hf, hst, beq_self_eq_true, Bool.not_false, Bool.and_self, Bool.true_and,
    Option.isNone_iff_eq_none]

theorem sqwaitPoll_waiting {a w : WReg} (hst : (s.thread t).st = .waiting) (hpage : s.threadPaged t = false)
    (hw : s.threadWord t = some (.sqwait a w)) : exec .sqwaitPoll s = .next (sqwaitTest a w t s) := by
  subst ht
  show execSqwaitPoll s = _
  simp only [execSqwaitPoll, event, State.floodOn, State.rewait, hp, hs, hf, hst, hpage, hw, beq_self_eq_true, Bool.not_false, Bool.and_self, if_true]

theorem sqwaitPoll_other (hst : (s.thread t).st ≠ .waiting) : exec .sqwaitPoll s = .next s := by
  subst ht
  show execSqwaitPoll s = _
  simp only [execSqwaitPoll, event, State.floodOn, State.rewait, hp, hs, hf, beq_eq_false_iff_ne.mpr hst, Bool.not_false, Bool.and_self, if_true,
    Bool.false_and, Bool.false_eq_true, if_false]

end

end Sys2Proof.Machine
end

section
/-! SUPPORT. Writes of the management window's registers and the host's windows (R11, R34, R57, R68, R74, R81, R86, R87, R111, R133, R142, R198):
the register that an offset names, one lemma per family, and the statement O59. -/

namespace Sys2Proof.Machine

/-! ## The bytes of a write (R8, R81) -/

theorem length_toBytes (v m : Nat) : (toBytes v m).length = m := by
  induction m generalizing v with
  | zero => rfl
  | succ m ih => rw [toBytes, List.length_cons, ih]

/-- Bytes that replace a whole list are what is left. -/
theorem splice_all {old new : List Byte} (h : old.length = new.length) : splice old 0 new = new := by
  rw [splice, List.take_zero, List.nil_append, Nat.zero_add, ← h, List.drop_length, List.append_nil]

section
variable {s : State} (hp : s.powered = true) (hb : s.bootst ≠ 15)
include hb

theorem State.stages_false (off : Nat) : s.stages off = false := by
  rw [State.stages, beq_eq_false_iff_ne.mpr hb]; rfl

include hp

/-- A write of eight aligned bytes outside the ebb table is a write of the register there. -/
theorem State.writeBytes_word {off : Nat} {bs : List Byte} (h8 : off % 8 = 0) (hlen : bs.length = 8) (hout : off < 0x80000 ∨ 0x90000 ≤ off) :
    s.writeBytes off bs = s.writeReg off (leBits 64 bs) := by
  have hchunk : chunkOf off bs 0 = bs ∧ chunkOf off bs 1 = [] ∧ chunkOf off bs 2 = [] := by
    refine ⟨?_, ?_, ?_⟩
    · rw [chunkOf, if_pos rfl, h8]; exact List.take_of_length_le (by omega)
    · rw [chunkOf, if_neg (by decide), h8, List.drop_of_length_le (by omega)]; rfl
    · rw [chunkOf, if_neg (by decide), h8, List.drop_of_length_le (by omega)]; rfl
  obtain ⟨h0, h1, h2⟩ := hchunk
  have hne : bs ≠ [] := by rintro rfl; cases hlen
  have hsplice : splice (toBytes (s.mgmtRead off).toNat 8) 0 bs = bs := splice_all (by rw [length_toBytes, hlen])
  have hbase : off / 8 * 8 = off := by omega
  have hebb : ¬(s.mgmtOn = true ∧ 0x80000 ≤ off ∧ off < 0x90000) := by omega
  have hlog : ¬(off = 0xC0200 ∧ 8 = 128) := fun h => absurd h.2 (by decide)
  have hrange : List.range (8 / 8 + 2) = [0, 1, 2] := by decide
  simp only [State.writeBytes, hp, State.stages_false hb, if_neg hebb, if_neg hlog, hlen, hrange, List.foldl_cons, List.foldl_nil, h0, h1, h2,
    if_neg hne, hbase, h8, Nat.mul_zero, Nat.add_zero, hsplice, Bool.not_true, Bool.false_eq_true, if_true, if_false]

end

/-! ## The register that eight bytes write (R81) -/

section
variable {s : State} (hp : s.powered = true) (hb : s.bootst ≠ 15) (v : BitVec 64)
include hp hb

theorem State.writeReg_single : s.writeReg 0xD0138 v = s.writeCmd7 v ∧ s.writeReg 0xD0180 v = s.writePfhead v ∧
    s.writeReg 0xE0000 v = { s with prewait := v.extractLsb' 16 16 } ∧ s.writeReg 0xE0100 v = s.writeDbgctl v ∧
    s.writeReg 0xE0220 v = s.writeSgo v := by
  have hon := State.mgmtOn_of hp hb
  simp [State.writeReg, hon, State.writeSchedctl]

theorem State.writeReg_clk {i : Nat} (hi : i < 16) : s.writeReg (0x41000 + 8 * i) v =
    s.setCluster i { s.cluster i with setStep := min (v.toNat / 256 % 64) (s.cluster i).maxStep } := by
  have hon := State.mgmtOn_of hp hb
  have hidx : (0x41000 + 8 * i - 0x41000) / 8 = i := by omega
  have hclk : (s.powered && s.bootst != 15 && decide (i < Config.clusters)) = true := by
    rw [hp, bne_iff_ne.mpr hb, decide_eq_true (show i < Config.clusters from hi)]; rfl
  simp (disch := omega) only [State.writeReg, hon, Bool.not_true, Bool.false_eq_true, if_false, Bool.and_eq_true,
    decide_eq_true_eq, if_pos, if_neg, hidx]
  rw [State.writeClk, if_pos hclk, toNat_extractLsb']
  rfl

/-- The registers of a port that a write changes, by their place in its 64 bytes (R57). -/
theorem State.writeReg_port {off j r : Nat} (hlo : 0x50000 ≤ off) (hhi : off < 0x50C00) (hj : (off - 0x50000) / 0x40 = j)
    (hr : (off - 0x50000) % 0x40 = r) :
    (r = 0x08 → s.writeReg off v = s.writeLthr j v) ∧ (r = 0x10 → s.writeReg off v = s.writeLctl j v) := by
  have hon := State.mgmtOn_of hp hb
  unfold State.writeReg
  extract_lets i o within
  have hin : ∀ base size, within base size = true ↔ base ≤ off ∧ off < base + size := fun base size => by
    simp only [within, Bool.and_eq_true, decide_eq_true_eq]
  rw [if_neg (by omega), if_neg (by rw [hon]; decide), if_neg (by rw [hin]; omega), if_pos (by rw [hin]; omega),
    show i 0x50000 0x40 = j from hj, show o 0x50000 0x40 = r from hr]
  exact ⟨by rintro rfl; rfl, by rintro rfl; rfl⟩

/-- The registers of a launch page, by their place in its 32 bytes (R86). -/
theorem State.writeReg_page {off j r : Nat} (hlo : 0xB0000 ≤ off) (hhi : off < 0xB8000) (hj : (off - 0xB0000) / 0x20 = j)
    (hr : (off - 0xB0000) % 0x20 = r) :
    (r = 0x00 → s.writeReg off v = s.writeLpage j v LPage.cfg) ∧ (r = 0x08 → s.writeReg off v = s.writeLpage j v LPage.ring) ∧
    (r = 0x10 → s.writeReg off v = s.writeLpptr j v) := by
  have hon := State.mgmtOn_of hp hb
  unfold State.writeReg
  extract_lets i o within
  have hin : ∀ base size, within base size = true ↔ base ≤ off ∧ off < base + size := fun base size => by
    simp only [within, Bool.and_eq_true, decide_eq_true_eq]
  rw [if_neg (by omega), if_neg (by rw [hon]; decide), if_neg (by rw [hin]; omega), if_neg (by rw [hin]; omega), if_neg (by rw [hin]; omega),
    if_neg (by rw [hin]; omega), if_neg (by rw [hin]; omega), if_pos (by rw [hin]; omega),
    show i 0xB0000 0x20 = j from hj, show o 0xB0000 0x20 = r from hr]
  exact ⟨by rintro rfl; rfl, by rintro rfl; rfl, by rintro rfl; rfl⟩

theorem State.writeReg_lthr {i : Nat} (hi : i < 48) :
    s.writeReg (0x50008 + 64 * i) v = s.setPort i { s.port i with lthrNext := some (v.setWidth 40) } := by
  have hport : (s.powered && s.bootst != 15 && decide (i < Config.ports)) = true := by
    rw [hp, bne_iff_ne.mpr hb, decide_eq_true (show i < Config.ports from hi)]; rfl
  rw [(State.writeReg_port hp hb v (j := i) (by omega) (by omega) (by omega) rfl).1 (by omega), State.writeLthr, if_pos hport]

theorem State.writeReg_lctl {i : Nat} (hi : i < 48) : s.writeReg (0x50010 + 64 * i) v = s.writeLctl i v :=
  (State.writeReg_port hp hb v (by omega) (by omega) (by omega) rfl).2 (by omega)

/-- A write of half a grant window keeps the other half as it reads. -/
theorem State.writeReg_window {i : Nat} (hi : i < 4096) :
    s.writeReg (0x70000 + 16 * i) v = s.writeWint i ((s.window i).word.extractLsb' 64 64 ++ v) ∧
    s.writeReg (0x70008 + 16 * i) v = s.writeWint i (v ++ (s.window i).word.extractLsb' 0 64) := by
  have hon := State.mgmtOn_of hp hb
  refine ⟨?low, ?high⟩
  case low =>
    have hidx : (0x70000 + 16 * i - 0x70000) / 16 = i := by omega
    have hhalf : (0x70000 + 16 * i - 0x70000) % 16 = 0 := by omega
    simp (disch := omega) only [State.writeReg, hon, Bool.not_true, Bool.false_eq_true, if_false, Bool.and_eq_true,
      decide_eq_true_eq, if_pos, if_neg, hidx, hhalf, slice64, if_true]
  case high =>
    have hidx : (0x70008 + 16 * i - 0x70000) / 16 = i := by omega
    have hhalf : (0x70008 + 16 * i - 0x70000) % 16 = 8 := by omega
    simp (disch := omega) only [State.writeReg, hon, Bool.not_true, Bool.false_eq_true, if_false, Bool.and_eq_true,
      decide_eq_true_eq, if_pos, if_neg, hidx, hhalf, slice64]

theorem State.writeReg_memcfg {i : Nat} (hi : i < 12) : s.writeReg (0x90000 + 64 * i) v = s.setStack i ((s.stack i).memcfg v) := by
  have hon := State.mgmtOn_of hp hb
  have hidx : (0x90000 + 64 * i - 0x90000) / 0x40 = i := by omega
  simp (disch := omega) only [State.writeReg, hon, Bool.not_true, Bool.false_eq_true, if_false, Bool.and_eq_true,
    decide_eq_true_eq, if_pos, if_neg, hidx]
  rw [State.writeMemcfg, hon, decide_eq_true hi]; rfl

theorem State.writeReg_lpage {i : Nat} (hi : i < 1024) : s.writeReg (0xB0000 + 32 * i) v = s.setLpage i ((s.lpage i).cfg v) ∧
    s.writeReg (0xB0008 + 32 * i) v = s.setLpage i ((s.lpage i).ring v) ∧ s.writeReg (0xB0010 + 32 * i) v = s.writeLpptr i v := by
  have hon := State.mgmtOn_of hp hb
  have hcfg := (State.writeReg_page hp hb v (off := 0xB0000 + 32 * i) (j := i) (by omega) (by omega) (by omega) rfl).1 (by omega)
  have hring := (State.writeReg_page hp hb v (off := 0xB0008 + 32 * i) (j := i) (by omega) (by omega) (by omega) rfl).2.1 (by omega)
  have hptr := (State.writeReg_page hp hb v (off := 0xB0010 + 32 * i) (j := i) (by omega) (by omega) (by omega) rfl).2.2 (by omega)
  exact ⟨hcfg.trans (State.writeLpage_eq v LPage.cfg hon hi), hring.trans (State.writeLpage_eq v LPage.ring hon hi), hptr⟩

end

/-! ## The RW fields that a register stores (R11, R68, R111, R133, R142) -/

section
variable {s : State} (v : BitVec 64)

/-- EBBT: a write of 0 stores 1 (R68). -/
theorem ebbt_field : (if v.extractLsb' 48 16 = 0 then 1 else v.extractLsb' 48 16) =
    if v.toNat / 2 ^ 48 = 0 then 1 else BitVec.ofNat 16 (v.toNat / 2 ^ 48) := by
  have hlt : v.toNat / 2 ^ 48 < 2 ^ 16 := toNat_div_lt v rfl
  have hfield : v.extractLsb' 48 16 = BitVec.ofNat 16 (v.toNat / 2 ^ 48) := by
    rw [← BitVec.toNat_inj, toNat_extractLsb', BitVec.toNat_ofNat]
  have hzero : v.extractLsb' 48 16 = 0 ↔ v.toNat / 2 ^ 48 = 0 := by
    rw [← BitVec.toNat_inj, toNat_extractLsb', Nat.mod_eq_of_lt hlt]; rfl
  by_cases h0 : v.toNat / 2 ^ 48 = 0
  · rw [if_pos (hzero.mpr h0), if_pos h0]
  · rw [if_neg (mt hzero.mp h0), if_neg h0, hfield]

theorem State.storeReg_routectl : s.storeReg 0x50C00 v = { s with router := { s.router with
    ebbt := (if v.toNat / 2 ^ 48 = 0 then 1 else BitVec.ofNat 16 (v.toNat / 2 ^ 48))
    nmbias := v.extractLsb' 40 8, rplim := v.extractLsb' 32 8 } } := by
  rw [← ebbt_field]; rfl

theorem State.storeReg_gtab {i : Nat} (hi : i < 1024) : s.storeReg (0x60000 + 8 * i) v =
    { s with router := { s.router with gtab := Sparse.set s.router.gtab i (BitVec.ofNat 64 (v.toNat % 2 ^ 43)) } } := by
  have hidx : (0x60000 + 8 * i - 0x60000) / 8 = i := by omega
  have hword : (v.extractLsb' 0 43).setWidth 64 = BitVec.ofNat 64 (v.toNat % 2 ^ 43) := by
    rw [← BitVec.ofNat_toNat, toNat_extractLsb', pow_zero, Nat.div_one]
  simp (disch := omega) only [State.storeReg, Bool.and_eq_true, decide_eq_true_eq, if_pos, if_neg, hidx, hword]

theorem State.storeReg_ebb {i : Nat} (hi : i < 65536) : s.storeReg (0x80000 + i) v =
    { s with router := { s.router with ebb := Sparse.set s.router.ebb i (v.extractLsb' 0 8) } } := by
  simp (disch := omega) only [State.storeReg, Bool.and_eq_true, decide_eq_true_eq, if_pos, if_neg, Nat.add_sub_cancel_left]

theorem State.storeReg_period {i : Nat} (hi : i < 12) : s.storeReg (0x90010 + 64 * i) v =
    s.setStack i { s.stack i with period := v.extractLsb' 0 8 } := by
  have hidx : (0x90010 + 64 * i - 0x90000) / 0x40 = i := by omega
  simp (disch := omega) only [State.storeReg, Bool.and_eq_true, decide_eq_true_eq, if_pos, if_neg, hidx]

theorem State.storeReg_asid {i : Nat} (hi : i < 65536) : s.storeReg (0x180000 + 8 * i) v = { s with
    asids := Tab.set s.asids i { valid := v.getLsbD 63, hosten := v.getLsbD 62, nopf := v.getLsbD 61, pasid := v.extractLsb' 32 20 } } := by
  have hidx : (0x180000 + 8 * i - 0x180000) / 8 = i := by omega
  simp (disch := omega) only [State.storeReg, Bool.and_eq_true, decide_eq_true_eq, if_pos, if_neg, hidx]

end

/-! ## A write of the host (R81) -/

section
variable {s : State}

theorem registerWrite_flagged (h : s.inp.flag = true) : exec .registerWrite s = .next (s.hostWrite s.inp.va.toNat s.inp.bytes) :=
  congrArg Host.Outcome.next (if_pos h)

theorem registerWrite_stores (hp : s.powered = true) (hb : s.bootst ≠ 15) (h : s.inp.flag = false) {off : Nat} (hoff : s.inp.off = off) :
    exec .registerWrite s = .next (s.storeReg off (s.inp.v.setWidth 64)) := by
  subst hoff
  exact congrArg Host.Outcome.next ((if_neg (Bool.eq_false_iff.mp h)).trans (if_pos (State.mgmtOn_of hp hb)))

theorem State.hostWrite_mgmt {pa : Nat} {bs : List Byte} (hlo : s.winMgmt ≤ pa) (hhi : pa < s.winMgmt + 0x1000000) :
    s.hostWrite pa bs = s.writeBytes (pa - s.winMgmt) bs := by
  simp (disch := omega) only [State.hostWrite, State.hostTarget, Bool.and_eq_true, decide_eq_true_eq, if_pos]

section
variable {pa : Nat} {bs : List Byte} (hout : pa < s.winMgmt ∨ s.winMgmt + 0x1000000 ≤ pa)
include hout

theorem State.hostWrite_launch (hlo : s.winLaunch ≤ pa) (hhi : pa < s.winLaunch + 0x400000) : s.hostWrite pa bs =
    if s.mgmtOn then s.launch ((pa - s.winLaunch) / 4096) ((pa - s.winLaunch) % 4096) bs else s := by
  simp (disch := omega) only [State.hostWrite, State.hostTarget, Bool.and_eq_true, decide_eq_true_eq, if_pos, if_neg]

theorem State.hostWrite_outside (hlaunch : pa < s.winLaunch ∨ s.winLaunch + 0x400000 ≤ pa) : s.hostWrite pa bs = s := by
  simp (disch := omega) only [State.hostWrite, State.hostTarget, Bool.and_eq_true, decide_eq_true_eq, if_neg]
  by_cases hlog : s.winLog ≤ pa ∧ pa < s.winLog + 0x1000000
  · rw [if_pos hlog]
  · rw [if_neg hlog]

end

end

/-! ## The statement on waits, engines and registers -/

/-- Settles O59: one lemma per event of a front end, an engine or the sequencer, and a register write by the register that its offset names. -/
theorem unitAndRegisterEvents : Obligations.unit_and_register_events := by
  rintro s c n e k t v rfl rfl rfl hk ht rfl
  refine ⟨fun hf => ?held, fun q m h => State.met_count hk h, ?barrier, fun a g l h hl hclean w hw => State.met_landing hk h hl hclean hw,
    ?fence, ?texit, ?halt, ?join, ?crclose, ?selfRefresh, fun a ty cc b l h ha hl hclean => State.met_mwait hk h ha hl hclean,
    fun x q hp hcode hin hu => State.takeTrap_enters hk hp hcode hin hu, State.takeTrap_none hk,
    fun q y hq hdone hresp hmute hfreed hy => retire_one hq hdone hresp hmute hfreed hy, fun q j hq hdone => retire_undone hq hdone j,
    fun q hq => engineEntryStart_starts hq, engineEntryStart_none, fun q y hy => State.waitReady_iff hy, fun q hq => engineUnitCommit_goesOn hq,
    engineUnitCommit_none, fun y d svc arg himg hst hw => ?reply, fun himg hst => ecallReply_unparked himg (hk ▸ hst),
    fun hp hs hfault => ⟨fun hst => ⟨fun hw => ?undecoded, fun hw => ?decoded⟩,
      fun a w hst hpage hw => sqwaitPoll_waiting ht hp hs hfault hst hpage hw,
      fun hst => sqwaitPoll_other ht hp hs hfault hst⟩,
    fun hflag pa hpa => ?host, fun hp hb => ?registers, fun hp hb hflag => ?stores⟩
  case held =>
    have hwait := waitConditionMet_eq hf
    have htrap := pendingTrapTaken_eq hf
    have hlimit := waittimeExpiry_eq hf
    refine ⟨fun hst hw hmet => hwait.trans (congrArg _ (State.wake_met hk hw hst hmet)),
      fun hmet hw => hwait.trans (congrArg _ (State.wake_unmet hk hw hmet)),
      fun x hx => ⟨hwait.trans (congrArg _ State.wake_enterWait.symm), fun w i h hw hi hh => State.enterWait_gives hk hx hw hi hh,
        fun w i h => State.enterWait_readies hk hx h⟩,
      fun a ty cc b hst hw => mwaitPoll_eq hf (hk ▸ hst) (hk ▸ hw),
      fun hst => ⟨fun z hz => htrap.trans (congrArg _ (State.boundary_takes hk hst hz)),
        fun hz => htrap.trans (congrArg _ (State.boundary_stays hk hst hz))⟩,
      fun hst => htrap.trans (congrArg _ (State.boundary_none hk hst)), fun h0 hlim => ?expired,
      fun h => hlimit.trans (congrArg _ (State.expire_early hk h)), fun hst => ?fetch, engineEntryComplete_eq hf⟩
    case expired =>
      have habandon := hlimit.trans (congrArg _ (State.expire_abandons hk h0 hlim))
      exact ⟨fun hst => habandon.trans (congrArg _ (State.abandon_waiting hk hst)),
        fun hst hw => habandon.trans (congrArg _ (State.abandon_parked hk hst hw)),
        fun i q hst hw hq => habandon.trans (congrArg _ (State.abandon_remote hk hst hw hq)),
        fun q hst hq => habandon.trans (congrArg _ (State.abandon_entry hk hst hq))⟩
    case fetch =>
      have hready : (s.task s.inp.core s.inp.slot).st = .ready := hk ▸ hst
      refine ⟨fun z l hnew hsp hr hclean => ?_, fun hnew hsp => instructionFetch_stops hf hready (fetch_scratch hk hnew hsp), fun h => ?_⟩
      · obtain ⟨w, hw⟩ := fetch_fills hk hnew hsp hr hclean
        exact instructionFetch_ok hf hready hw
      · obtain ⟨w, hw⟩ := fetch_held hk h
        exact instructionFetch_ok hf hready hw
  case barrier => intro b p h; simp only [State.met, ← hk, h]
  case fence => intro h; simp only [State.met, ← hk, h]
  case texit => intro h; simp only [State.met, ← hk, h]
  case halt => intro h; simp only [State.met, ← hk, h]
  case join => intro m h; simp only [State.met, ← hk, h]
  case crclose => intro d h; simp only [State.met, ← hk, h]
  case selfRefresh => intro h; simp only [State.met, ← hk, h]
  case reply =>
    obtain ⟨hready, hnone, hisn, ha, hp⟩ := Task.replied_fields d svc arg (s.inp.v.setWidth 64) k
    exact ⟨ecallReply_parked himg (hk ▸ hst) (hk ▸ hw), hready, hnone, hisn, fun hd => Task.sreg_replied d svc arg _ k hd, ha, hp⟩
  case undecoded => rw [sequencerWordDecodeError_eq ht hp hs hfault hst, if_pos hw]
  case decoded => rw [sequencerWordDecodeError_eq ht hp hs hfault hst, if_neg hw]
  case host =>
    rw [registerWrite_flagged hflag, ← hpa]
    refine ⟨fun hlo hhi => congrArg _ (State.hostWrite_mgmt hlo hhi), fun hout => ⟨fun hlo hhi hp hb => ?_, fun h => congrArg _ ?_⟩⟩
    · rw [State.hostWrite_launch hout hlo hhi, if_pos (State.mgmtOn_of hp hb)]
    · by_cases hin : s.winLaunch ≤ pa ∧ pa < s.winLaunch + 0x400000
      · have hoff : ¬s.mgmtOn = true := by
          rw [State.mgmtOn, Bool.and_eq_true, bne_iff_ne]
          rintro ⟨hp, hb⟩
          rcases h with h | h | h | h
          · omega
          · omega
          · rw [hp] at h; cases h
          · exact hb h
        rw [State.hostWrite_launch hout hin.1 hin.2, if_neg hoff]
      · exact State.hostWrite_outside hout (by omega)
  case registers =>
    obtain ⟨hcmd, hpf, hsched, hdbg, hsgo⟩ := State.writeReg_single hp hb (s.inp.v.setWidth 64)
    exact ⟨fun off bs h8 hlen hout => State.writeBytes_word hp hb h8 hlen hout, rfl, hcmd, hpf, hsched, hdbg, hsgo,
      fun i hi => State.writeReg_clk hp hb _ hi, fun i hi => ⟨State.writeReg_lthr hp hb _ hi, State.writeReg_lctl hp hb _ hi⟩,
      fun i hi => State.writeReg_window hp hb _ hi, fun i hi => State.writeReg_memcfg hp hb _ hi, fun i hi => State.writeReg_lpage hp hb _ hi⟩
  case stores =>
    have hstore {off : Nat} {z : State} (hz : s.storeReg off (s.inp.v.setWidth 64) = z) (hoff : s.inp.off = off) :
        exec .registerWrite s = .next z := (registerWrite_stores hp hb hflag hoff).trans (congrArg _ hz)
    refine ⟨hstore (State.storeReg_routectl _), fun i hi => hstore (State.storeReg_gtab _ hi), fun i hi => hstore (State.storeReg_ebb _ hi),
      fun i hi => hstore (State.storeReg_period _ hi), hstore rfl, fun i hi => hstore (State.storeReg_asid _ hi), fun h => ?readOnly⟩
    rcases h with h | h
    · exact hstore rfl h
    · exact hstore rfl h

end Sys2Proof.Machine
end

section
/-! SUPPORT. ACHK (R316): its probe page by page, its end by the length of the range and what the probe finds, and the statement O20. -/

namespace Sys2Proof.Machine

/-! ## What a probe finds of a page (R316) -/

section
variable (x : Acc) (f : Nat) (u : State) (va : Addr) (m j : Nat)

/-- A probe goes on behind a page that translates, waits for a reply or a bank, and fails for every other reason. -/
theorem probe_page {k : Nat} {v : State} (hm : 0 < m) (hk : k = Nat.min m (4096 - va.toNat % 4096)) (hx : vaRegion va ≠ .scratch ∨ x.x = false) :
    (∀ l, xlate u x va k false = (v, .ok l) → probe x (f + 1) u va m j = probe x f v (va + BitVec.ofNat 80 k) (m - k) (j + k)) ∧
    (∀ pasid page, xlate u x va k false = (v, .error (.xlt pasid page)) → probe x (f + 1) u va m j = (v, .wait j (.inr (pasid, page)))) ∧
    (∀ b, xlate u x va k false = (v, .error (.bank b)) → probe x (f + 1) u va m j = (v, .wait j (.inl b))) ∧
    (∀ e, xlate u x va k false = (v, .error e) → (∀ pasid page, e ≠ .xlt pasid page) → (∀ b, e ≠ .bank b) →
      probe x (f + 1) u va m j = (v, .fail)) := by
  subst hk
  have hpass : ¬(decide (vaRegion va = .scratch) && x.x) = true := by
    rw [Bool.and_eq_true, decide_eq_true_eq]
    rintro ⟨hva, hfetch⟩
    exact hx.elim (· hva) fun hno => Bool.false_ne_true (hno.symm.trans hfetch)
  refine ⟨fun l h => ?_, fun pasid page h => ?_, fun b h => ?_, fun e h hxlt hbank => ?_⟩ <;>
    rw [probe, if_neg hm.ne'] <;> dsimp only <;> rw [if_neg hpass, h]
  cases e with
  | xlt p v => exact absurd rfl (hxlt p v)
  | bank b => exact absurd rfl (hbank b)
  | trap | absent | poison | frozen => rfl

theorem probe_fetch_scratch (hm : 0 < m) (hva : vaRegion va = .scratch) (hx : x.x = true) : probe x (f + 1) u va m j = (u, .fail) := by
  rw [probe, if_neg hm.ne', hva, hx]; rfl

theorem probe_none : probe x f u va 0 j = (u, .pass) := by
  cases f <;> rfl

end

theorem Task.probed_eq (t : Task) : (∀ k w, t.wait = .probe k w → t.probed = k) ∧ ((∀ k w, t.wait ≠ .probe k w) → t.probed = 0) := by
  refine ⟨fun k w h => by rw [Task.probed, h], fun h => ?_⟩
  rw [Task.probed]
  split
  · next k w hw => exact absurd hw (h k w)
  · rfl

/-! ## ACHK (R316) -/

/-- The task after ACHK's probe: p[D], and no probe under way. -/
def Task.probeDone (p : PReg) (v : Bool) (t : Task) : Task := { t.setP p v with wait := .none }

/-- What ACHK does with what its probe has found. -/
def probeEnds (c n : Nat) (p : PReg) : State × Probe → Act
  | (s, .pass) => .done (s.modTask c n (Task.probeDone p true))
  | (s, .fail) => .done (s.modTask c n (Task.probeDone p false))
  | (s, .wait k w) => .hold s .ready (.probe k w)

/-- The end of a task's wait before an instruction issues shows in no register after it. -/
theorem Task.stepped_noCount_wait (t : Task) : ({ t with wait := .none } : Task).stepped.noCount = t.stepped.noCount := by
  have hgone (k : Task) : k.gone.noCount = { k.noCount with wait := .none, st := .ready, isn := k.isn + 1, took := none } := by
    have hpast := k.pastWait_noCount
    simp only [Task.gone, Task.noCount, Task.mk.injEq] at hpast ⊢
    simp only [hpast, and_self]
  simp only [Task.stepped, Task.cont_noCount, hgone]
  rfl

section
variable {s : State} {c n : Nat} {y : Sync} {q : AccKind} {p : PReg} {a : AReg} {b : SReg} (h : Ready s c n y)
include h

/-- An ACHK that probes nothing only writes p[D]. -/
theorem runs_achk_unprobed {v : Bool}
    (hv : exec (.achk y q p a b) s = .next (Act.run y c n (.done ((s.waited c n y).modTask c n (Task.probeDone p v))))) :
    Runs s c n y (.achk y q p a b) (·.setP p v) := by
  obtain ⟨t, ht, htask, hsems, honly⟩ := regOp_effect (y := y) (g := Task.probeDone p v) h
    (fun x => by unfold Task.probeDone Task.setP; split <;> rfl) (by simp [Task.probeDone])
  refine ⟨t, ?_, htask.trans (Task.stepped_noCount_wait _), hsems, honly⟩
  rw [hv, ← ht, regOp, scalar_ready h rfl]

variable {k : Task} {len : Nat} (hk : k = s.task c n) (hlen : len = (k.sreg b).toNat)
include hk hlen

/-- ACHK by the length of its range. -/
theorem exec_achk : exec (.achk y q p a b) s = .next (Act.run y c n (
    if len = 0 then .done ((s.waited c n y).modTask c n (Task.probeDone p true))
    else if 2 ^ 32 < len then .done ((s.waited c n y).modTask c n (Task.probeDone p false))
    else probeEnds c n p (probe (scalarAcc c k.asid (q == .read) (q == .write) (q == .exec)) (len / 4096 + 2) (s.waited c n y)
      (k.areg a + BitVec.ofNat 80 k.probed) (len - k.probed) k.probed))) := by
  subst hlen hk
  obtain ⟨-, ⟨x, hx⟩, -⟩ := State.waited_ready h
  refine (scalar_ready h rfl).trans ?_
  simp only [hx]
  rfl

/-- One that probes its range ends as the probe does. -/
theorem exec_achk_probes (h0 : 0 < len) (h32 : len ≤ 2 ^ 32) {r : State × Probe}
    (hr : probe (scalarAcc c k.asid (q == .read) (q == .write) (q == .exec)) (len / 4096 + 2) (s.waited c n y)
      (k.areg a + BitVec.ofNat 80 k.probed) (len - k.probed) k.probed = r) :
    exec (.achk y q p a b) s = .next ((probeEnds c n p r).run y c n) := by
  rw [exec_achk h hk hlen, if_neg h0.ne', if_neg (by omega), hr]

end

/-! ## The statement -/

/-- Settles O20: an ACHK by the length of its range and the outcome of its probe, and the probe page by page. -/
theorem accessProbe : Obligations.access_probe := by
  rintro s s1 c n y q p a b k len done A X h hk hlen rfl rfl rfl
  refine ⟨fun h0 => runs_achk_unprobed h ?empty, fun h32 => runs_achk_unprobed h ?long, fun h0 h32 hr => exec_achk_probes h hk hlen h0 h32 hr,
    fun h0 h32 hr => exec_achk_probes h hk hlen h0 h32 hr, fun passed w h0 h32 hr => exec_achk_probes h hk hlen h0 h32 hr,
    fun passed w hw => k.probed_eq.1 passed w hw, k.probed_eq.2, fun f u v va m j hm hx => probe_page _ f u va m j hm rfl hx,
    fun f u va m j => probe_fetch_scratch _ f u va m j, fun f u va j => probe_none _ f u va j⟩
  case empty => rw [exec_achk h hk hlen, if_pos h0]
  case long => rw [exec_achk h hk hlen, if_neg (by omega), if_pos h32]

end Sys2Proof.Machine
end

section
/-! SUPPORT. ATOM and CAS (R237, R240 to R243, R318, R320): a read-modify-write that goes through, the bytes of a confidential page (R118), what the unit's
data cache serves after it, and the statement O15. -/

namespace Sys2Proof.Machine

/-! ## Values and addresses (R293, R318) -/

/-- A value extended by its type's signedness is its integer. -/
theorem IntTy.ext_eq_ofInt (t : IntTy) (x : Nat) : t.ext (BitVec.ofNat 64 x) = BitVec.ofInt 64 (t.int x) := by
  have hbits : t.w.bits ≤ 64 := by cases t.w <;> decide
  rw [IntTy.ext, IntTy.int, BitVec.setWidth_ofNat_of_le hbits]
  split
  · rfl
  · rw [BitVec.ofInt_natCast, BitVec.ofNat_toNat]

theorem Task.atomAddr_eq_ofInt (t : Task) (base : AReg) (disp : BitVec 28) :
    t.atomAddr base disp = BitVec.ofInt 80 ((t.areg base).toNat + disp.toInt) := by
  rw [BitVec.ofInt_add, BitVec.ofInt_natCast, BitVec.ofNat_toNat, BitVec.setWidth_eq]; rfl

/-! ## Orders and scopes (R241, R242) -/

theorem OrdScope.awaits_iff (o : OrdScope) : o.awaits = true ↔ (o.ord = .rel ∨ o.ord = .ar) ∧ (o.scope = .fab ∨ o.scope = .sys) := by
  obtain ⟨ord, scope⟩ := o
  cases ord <;> cases scope <;> decide

theorem OrdScope.invalidates_iff (o : OrdScope) : o.invalidates = true ↔ (o.ord = .acq ∨ o.ord = .ar) ∧ o.scope ≠ .core := by
  obtain ⟨ord, scope⟩ := o
  cases ord <;> cases scope <;> decide

theorem State.acquired_eq (s : State) (c : Nat) (o : OrdScope) : s.acquired c o =
    if (o.ord = .acq ∨ o.ord = .ar) ∧ o.scope ≠ .core then s.setCore c { s.core c with dcache := [] } else s := by
  simp only [← OrdScope.invalidates_iff]; rfl

/-! ## A read-modify-write that goes through (R318) -/

/-- What a read-modify-write leaves of memory and the unit's lines: its value written, or the lines refreshed where it writes none. -/
def State.rmwWritten (s : State) (c : Nat) (l : Pieces) (t : IntTy) : Option Nat → State
  | some v => s.storeAll c l (toBytes v t.w.bytes)
  | none => s.refresh c l

theorem scalarRmw_through {s s1 : State} {c n : Nat} {t : IntTy} {o : OrdScope} {d : SReg} {va : Addr} {f : Nat → Option Nat} {l : Pieces} {old : Nat}
    (halign : va.toNat % t.w.bytes = 0) (hr : resolve s (scalarAcc c (s.task c n).asid true true false) va t.w.bytes = (s1, .ok l))
    (hlock : lockHit (s1.core c).queue c l = none) (hclean : s1.firstPoisonAll l = none) (hrel : o.awaits = true → s1.acked c n = true)
    (hold : old = ofBytes (s1.readAll l)) :
    scalarRmw s c n t o d va f =
      .done (((s1.rmwWritten c l t (f old)).acquired c o).modTask c n fun k => k.setS d (BitVec.ofInt 64 (t.int old))) := by
  have hgo : ¬(o.awaits && !(s1.acked c n)) = true := by
    rw [Bool.and_eq_true, Bool.not_eq_true']
    exact fun h => Bool.false_ne_true (h.2.symm.trans (hrel h.1))
  subst hold
  rw [scalarRmw, scalarAccess, scalarAccessAs, if_neg (not_not.mpr halign)]
  simp only [hr, hlock, hclean]
  rw [if_neg hgo, ← IntTy.ext_eq_ofInt]
  rfl

/-! ## The bytes of a confidential page (R118) -/

theorem length_xorBytes (a b : List Byte) : (xorBytes a b).length = min a.length b.length := List.length_zipWith

theorem length_aesKeyWord {i : Nat} {rcon : Byte} {back prev : List Byte} (hb : back.length = 4) (hp : prev.length = 4) :
    (aesKeyWord i rcon back prev).length = 4 := by
  obtain ⟨a, b, c, d, rfl⟩ : ∃ a b c d, prev = [a, b, c, d] := by
    match prev, hp with
    | [a, b, c, d], _ => exact ⟨a, b, c, d, rfl⟩
  rw [aesKeyWord, List.length_zipWith, hb]
  split
  · rfl
  · split <;> rfl

/-- The words of a key schedule stay four bytes long. -/
theorem aesExpand_words (n i : Nat) (rcon : Byte) (ws : List (List Byte)) (hw : ∀ w ∈ ws, w.length = 4) (h8 : 8 ≤ ws.length) :
    (aesExpand n i rcon ws).length = ws.length + n ∧ ∀ w ∈ aesExpand n i rcon ws, w.length = 4 := by
  induction n generalizing i rcon ws with
  | zero => exact ⟨rfl, hw⟩
  | succ n ih =>
    have hget (k : Nat) (hk : k < ws.length) : (ws.getD k []).length = 4 := by
      rw [List.getD_eq_getElem _ _ hk]; exact hw _ (List.getElem_mem hk)
    obtain ⟨hlen, hall⟩ := ih (i + 1) (if i % 8 = 0 then xtime rcon else rcon) (aesKeyWord i rcon (ws.getD 7 []) (ws.getD 0 []) :: ws)
      (List.forall_mem_cons.mpr ⟨length_aesKeyWord (hget 7 (by omega)) (hget 0 (by omega)), hw⟩) (by simp; omega)
    exact ⟨by rw [aesExpand, hlen, List.length_cons]; omega, hall⟩

theorem chunks_eq {α : Type} (k n : Nat) (l : List α) (h : l.length = k * n) :
    (chunks k n l).length = n ∧ ∀ b ∈ chunks k n l, b.length = k ∧ ∀ x ∈ b, x ∈ l := by
  induction n generalizing l with
  | zero => exact ⟨rfl, fun b hb => by cases hb⟩
  | succ n ih =>
    obtain ⟨hlen, hall⟩ := ih (l.drop k) (by rw [List.length_drop, h, Nat.mul_succ]; omega)
    refine ⟨by rw [chunks, List.length_cons, hlen], List.forall_mem_cons.mpr ⟨⟨?_, fun x => List.mem_of_mem_take⟩, fun b hb => ?_⟩⟩
    · rw [List.length_take, h, Nat.mul_succ]; omega
    · exact ⟨(hall b hb).1, fun x hx => List.mem_of_mem_drop ((hall b hb).2 x hx)⟩

/-- A key has fifteen round keys of sixteen bytes. -/
theorem aesKeys_eq {key : List Byte} (h : key.length = 32) : (aesKeys key).length = 15 ∧ ∀ k ∈ aesKeys key, k.length = 16 := by
  obtain ⟨hlen, hwords⟩ := chunks_eq 4 8 key h
  obtain ⟨hn, hall⟩ := aesExpand_words 52 8 1 (chunks 4 8 key).reverse (fun w hw => (hwords w (List.mem_reverse.mp hw)).1)
    (by rw [List.length_reverse, hlen])
  obtain ⟨hlen', hkeys⟩ := chunks_eq 4 15 (aesExpand 52 8 1 (chunks 4 8 key).reverse).reverse (by rw [List.length_reverse, hn, List.length_reverse, hlen])
  refine ⟨by rw [aesKeys, List.length_map, hlen'], fun k hk => ?_⟩
  obtain ⟨b, hb, rfl⟩ := List.mem_map.mp hk
  obtain ⟨hb4, hmem⟩ := hkeys b hb
  have hsum : b.map List.length = List.replicate 4 4 :=
    List.eq_replicate_iff.mpr ⟨by rw [List.length_map, hb4], fun x hx => by
      obtain ⟨w, hw, rfl⟩ := List.mem_map.mp hx
      exact hall w (List.mem_reverse.mp (hmem w hw))⟩
  rw [List.length_flatten, hsum]; rfl

theorem length_mixCols16 {l : List Byte} (h : l.length = 16) : (mixCols l).length = 16 := by
  match l, h with
  | [_, _, _, _, _, _, _, _, _, _, _, _, _, _, _, _], _ => rfl

theorem length_aesRounds (ks : List (List Byte)) (st : List Byte) (hst : st.length = 16) (hk : ∀ k ∈ ks, k.length = 16) :
    (aesRounds ks st).length = 16 := by
  have hround (st k : List Byte) (last : Bool) (hk : k.length = 16) : (aesRound st k last).length = 16 := by
    rw [aesRound, length_xorBytes, hk]
    cases last
    · exact (congrArg (min · 16) (length_mixCols16 (by rw [List.length_map]; rfl)))
    · rfl
  induction ks generalizing st with
  | nil => exact hst
  | cons k ks ih =>
    obtain ⟨hk0, hks⟩ := List.forall_mem_cons.mp hk
    cases ks with
    | nil => exact hround st k true hk0
    | cons k' ks => exact ih _ (hround st k false hk0) hks

theorem length_aesEnc {ks : List (List Byte)} {b : List Byte} (hb : b.length = 16) (hk : ∀ k ∈ ks, k.length = 16) : (aesEnc ks b).length = 16 := by
  cases ks with
  | nil => exact hb
  | cons k ks =>
    obtain ⟨hk0, hks⟩ := List.forall_mem_cons.mp hk
    exact length_aesRounds ks _ (by rw [length_xorBytes, hb, hk0]; rfl) hks

theorem length_aesInvRounds (ks : List (List Byte)) (first : Bool) (st : List Byte) (hst : st.length = 16) (hk : ∀ k ∈ ks, k.length = 16) :
    (aesInvRounds ks first st).length = 16 := by
  induction ks generalizing first st with
  | nil => exact hst
  | cons k ks ih =>
    obtain ⟨hk0, hks⟩ := List.forall_mem_cons.mp hk
    cases ks with
    | nil => exact (length_xorBytes st k).trans (by rw [hst, hk0]; rfl)
    | cons k' ks => exact ih false _ (by rw [aesInvRound, List.length_map]; rfl) hks

theorem length_aesDec {ks : List (List Byte)} {b : List Byte} (hb : b.length = 16) (hk : ∀ k ∈ ks, k.length = 16) : (aesDec ks b).length = 16 :=
  length_aesInvRounds ks.reverse true b hb fun k h => hk k (List.mem_reverse.mp h)

theorem length_xtsTweaks {ks : List (List Byte)} (hk : ∀ k ∈ ks, k.length = 16) (sector : Nat) :
    (xtsTweaks ks sector).1.length = 16 ∧ (xtsTweaks ks sector).2.length = 16 := by
  rw [xtsTweaks]
  exact ⟨length_aesEnc (length_toBytes sector 16) hk, by rw [xtsDouble, length_toBytes]⟩

theorem keyBytes_rounds (k : BitVec 256) : ∀ r ∈ aesKeys (keyBytes k), r.length = 16 :=
  (aesKeys_eq (key := keyBytes k) (by rw [keyBytes, length_toBytes])).2

/-- A sector as its reader sees it keeps its length. -/
theorem length_xtsSector (keys : BitVec 512) (sector : Nat) (dec : Bool) {bs : List Byte} (h : bs.length = 32) :
    (xtsSector keys sector dec bs).length = 32 := by
  have hblock (ks : List (List Byte)) (hk : ∀ k ∈ ks, k.length = 16) (b t : List Byte) (hb : b.length = 16) (ht : t.length = 16) :
      (xorBytes (bif dec then aesDec ks (xorBytes b t) else aesEnc ks (xorBytes b t)) t).length = 16 := by
    have hx : (xorBytes b t).length = 16 := by rw [length_xorBytes, hb, ht, min_self]
    cases dec
    · rw [cond_false, length_xorBytes, length_aesEnc hx hk, ht, min_self]
    · rw [cond_true, length_xorBytes, length_aesDec hx hk, ht, min_self]
  obtain ⟨htweak, htweak'⟩ := length_xtsTweaks (keyBytes_rounds (keys.extractLsb' 256 256)) sector
  rw [xtsSector]
  dsimp only
  rw [List.length_append, hblock _ (keyBytes_rounds _) _ _ (by rw [List.length_take, h]; rfl) htweak,
    hblock _ (keyBytes_rounds _) _ _ (by rw [List.length_drop, h]) htweak']

theorem length_bytes (m : Memory) (a n : Nat) : (m.bytes a n).length = n := by
  induction n generalizing a with
  | zero => rfl
  | succ n ih => rw [Memory.bytes, List.length_cons, ih]

theorem State.length_hbmBytes (s : State) (d n : Nat) (key : Option (BitVec 12)) : (s.hbmBytes d n key).length = n := by
  cases key with
  | none => exact length_bytes _ _ _
  | some k =>
    rw [State.hbmBytes]
    split
    · next h => rw [h]; rfl
    · next h =>
      have hsectors (N : Nat) : ((List.range N).flatMap fun i => s.hbmSector (d / 32 + i) (some k)).length = N * 32 := by
        have hone (i : Nat) : (s.hbmSector (d / 32 + i) (some k)).length = 32 := length_xtsSector _ _ _ (length_bytes _ _ _)
        simp only [List.length_flatMap, hone, List.map_const', List.length_range, List.sum_replicate, smul_eq_mul]
      dsimp only
      rw [List.length_take, List.length_drop, hsectors]
      omega

/-! ## What the data cache serves after a read of memory (R237, R240) -/

section
variable {s : State} {c D m : Nat} {key : Option (BitVec 12)}

theorem State.refresh_eq (s : State) (c : Nat) (l : Pieces) : s.refresh c l = { s with cores := (s.refresh c l).cores } ∧
    (∀ h, h ≠ c → (s.refresh c l).core h = s.core h) ∧ (s.refresh c l).core c = { s.core c with dcache := ((s.refresh c l).core c).dcache } := by
  unfold State.refresh
  split
  · exact ⟨rfl, fun h hh => State.core_modCore_ne _ _ _ _ hh, by rw [State.core_modCore_same]⟩
  · exact ⟨rfl, fun _ _ => rfl, rfl⟩

theorem DLine.seen_fields (x : DLine) (D : Nat) (key : Option (BitVec 12)) (bs : List Byte) :
    (x.seen D key bs).line = x.line ∧ (x.seen D key bs).key = x.key := by
  have hput (x : DLine) (d : Nat) (bs : List Byte) : (x.put d key bs).line = x.line ∧ (x.put d key bs).key = x.key := by
    rw [DLine.put]; split <;> exact ⟨rfl, rfl⟩
  obtain ⟨hline, hkey⟩ := hput (x.put D key (bs.take (lineBytes - D % lineBytes))) (D + (lineBytes - D % lineBytes)) (bs.drop (lineBytes - D % lineBytes))
  exact ⟨hline.trans (hput ..).1, hkey.trans (hput ..).2⟩

/-- A line that takes bytes which lie in it holds them. -/
theorem DLine.seen_bytes {x : DLine} {bs : List Byte} (hline : x.line = D / 64) (hkey : x.key = key) (h64 : x.bytes.length = 64)
    (hlen : bs.length = m) (hm : D % 64 + m ≤ 64) : ((x.seen D key bs).bytes.drop (D % 64)).take m = bs := by
  have hmod : D % 64 < 64 := Nat.mod_lt _ (by decide)
  have hnext : D / 64 ≠ (D + (64 - D % 64)) / 64 := by omega
  have htake : bs.take (64 - D % 64) = bs := List.take_of_length_le (by omega)
  have hpre : (x.bytes.take (D % 64)).length = D % 64 := by rw [List.length_take, h64]; omega
  have hbytes : (x.seen D key bs).bytes = (x.bytes.take (D % 64) ++ bs ++ x.bytes.drop (D % 64 + m)).take 64 := by
    simp only [DLine.seen, DLine.put, lineBytes, htake, hline, hkey, hlen, and_true, if_true, if_neg hnext]
  rw [hbytes, List.drop_take, List.take_take, List.append_assoc, List.drop_left' hpre, List.take_append_of_le_length (by omega),
    List.take_of_length_le (by omega)]

theorem State.dline_refresh (s : State) (c D : Nat) (key : Option (BitVec 12)) (m : Nat) :
    (s.refresh c [(.hbm D key, m)]).dline c D key = (s.dline c D key).map fun x => x.seen D key (s.read (.hbm D key) m) := by
  simp only [State.dline, State.refresh, State.core_modCore_same, List.find?_map, Function.comp_def, DLine.seen_fields]

/-- A load of what a read of memory has found returns that. -/
theorem State.loadAll_refresh (hm : 0 < m) (hone : D / 64 = (D + m - 1) / 64) (h64 : ∀ x ∈ (s.core c).dcache, x.bytes.length = 64) :
    ((s.refresh c [(.hbm D key, m)]).loadAll c [(.hbm D key, m)]).2 = s.readAll [(.hbm D key, m)] := by
  have hload : ((s.refresh c [(.hbm D key, m)]).loadHbm c D key m).2 = s.read (.hbm D key) m := by
    rw [State.loadHbm, State.dline_refresh]
    cases hx : s.dline c D key with
    | none => rfl
    | some x =>
      have hfound := List.find?_some hx
      rw [Bool.and_eq_true, beq_iff_eq, beq_iff_eq] at hfound
      have hbytes := DLine.seen_bytes hfound.1 hfound.2 (h64 x (List.mem_of_find?_eq_some hx)) (s.length_hbmBytes D m key) (by omega)
      exact congrArg Prod.snd (if_pos hbytes)
  show ((s.refresh c [(.hbm D key, m)]).loadHbm c D key m).2 ++ [] = s.read (.hbm D key) m ++ []
  rw [hload]

end

/-! ## The statement -/

/-- Settles O15: ATOM by its operation and CAS by its comparison, each a read-modify-write that goes through, and the lines that it refreshes. -/
theorem atomics : Obligations.atomics := by
  rintro s s1 c n y t o d i base disp l va old b e put inv h rfl halign hr hlock hclean hrel hold hb he rfl rfl
  obtain ⟨-, ⟨x, hx⟩, -⟩ := State.waited_ready h
  rw [← Task.atomAddr_eq_ofInt] at halign hr
  have hrmw (f : Nat → Option Nat) : scalarRmw (s.waited c n y) c n t o d ((s.task c n).atomAddr base disp) f = _ :=
    scalarRmw_through halign (by rw [hx]; exact hr) hlock hclean (fun ha => hrel ((OrdScope.awaits_iff o).mp ha).1 ((OrdScope.awaits_iff o).mp ha).2) hold
  have hatom (op : AtomOp) : exec (.atom y op t o d i base disp) s = .next (State.retired
      (((s1.rmwWritten c l t (some (atomValue op t old b))).acquired c o).modTask c n fun k => k.setS d (BitVec.ofInt 64 (t.int old))) c n y) := by
    refine (scalar_ready h rfl).trans ?_
    rw [hx, hb]
    exact congrArg (fun a => Host.Outcome.next (Act.run y c n a)) (hrmw _)
  have hcas : exec (.cas y t o d i base disp) s = .next (State.retired
      (((s1.rmwWritten c l t (if old = e then some b else none)).acquired c o).modTask c n fun k => k.setS d (BitVec.ofInt 64 (t.int old))) c n y) := by
    refine (scalar_ready h rfl).trans ?_
    rw [hx, hb, he]
    exact congrArg (fun a => Host.Outcome.next (Act.run y c n a)) (hrmw _)
  simp only [State.acquired_eq] at hatom hcas
  obtain ⟨hdevice, hothers, hunit⟩ := s1.refresh_eq c l
  refine ⟨hatom .add, hatom .and, hatom .or, hatom .xor, hatom .min, hatom .max, hatom .xchg, ?_, hdevice, hothers, hunit, ?_⟩
  · rw [hcas]; split <;> rfl
  · rintro D key m rfl hm hone h64
    exact State.loadAll_refresh hm hone h64

end Sys2Proof.Machine
end

section
/-! SUPPORT. PUT, GET, SGET and SPUT (R146, R147, R216, R431 to R436, R441): the packets of a transfer, the pieces of a sharded access and their owners, what
the FX engine performs, and the statement O45. -/

namespace Sys2Proof.Machine

/-! ## Cuts (R410, R433) -/

/-- Every unit of a cut has a byte or more: one without any would be the last but for its end. -/
theorem Cut.lt_succ {n N : Nat} {size : Nat → Nat} {p : Nat → Nat} (h : Cut n size N p) {i : Nat} (hi : i < N) : p i < p (i + 1) := by
  obtain ⟨-, hN, hstep⟩ := h
  by_contra hge
  have hzero : size (p i) = 0 := by have := (hstep i hi).2; omega
  have hstays : ∀ j, i ≤ j → j ≤ N → p j = p i := fun j hij => by
    induction j, hij using Nat.le_induction with
    | base => exact fun _ => rfl
    | succ j _ ih =>
      intro hj
      have hpj := ih (by omega)
      rw [(hstep j (by omega)).2, hpj, hzero, Nat.add_zero]
  have hlast := hstays N hi.le le_rfl
  have hlt := (hstep i hi).1
  omega

/-! ## Packets of a transfer (R433) -/

/-- Packets that each are sent lead to the end of the transfer. -/
theorem sendAll_packets {cut n : Nat} {segs : List Seg} {first last : State} {P : Seg → Nat → Nat → Addr → State → State → Prop}
    {f : Seg → Nat → Nat → Addr → State → PRes} (h : Packets cut n segs first last P)
    (hf : ∀ g pos k a s t, P g pos k a s t → f g pos k a s = ⟨t, pos + k, pos + k, .done⟩) :
    sendAll cut segs f (n + 1) 0 first = ⟨last, n, n, .done⟩ := by
  obtain ⟨N, p, g, hcut, hfind, hend, σ, rfl, rfl, hstep⟩ := h
  have hlt := fun i => hcut.lt_succ (i := i)
  obtain ⟨hp0, hpN, hsize⟩ := hcut
  have hfrom (d : Nat) : ∀ i fuel, i + d = N → n < p i + fuel → sendAll cut segs f fuel (p i) (σ i) = ⟨σ N, n, n, .done⟩ := by
    induction d with
    | zero =>
      rintro i (_ | fuel) rfl hfuel
      · exact absurd hfuel (not_lt.mpr hpN.le)
      · rw [Nat.add_zero] at hpN ⊢
        rw [hpN, sendAll, hend]
        rfl
    | succ d ih =>
      rintro i (_ | fuel) hi hfuel
      · have := (hsize i (by omega)).1
        omega
      · have hiN : i < N := by omega
        have hnext := (hsize i hiN).2
        dsimp only at hnext
        rw [hfind i hiN] at hnext
        have hk : Nat.min ((g i).start + (g i).len - p i) (cut - ((g i).addr + BitVec.ofNat 80 (p i - (g i).start)).toNat % cut) =
            p (i + 1) - p i := by
          rw [hnext]; exact (Nat.add_sub_cancel_left ..).symm
        have hsent := hf _ _ _ _ _ _ (hstep i hiN)
        have hpos : p i + (p (i + 1) - p i) = p (i + 1) := by have := hlt i hiN; omega
        rw [sendAll, hfind i hiN]
        dsimp only
        rw [hk, hsent]
        dsimp only
        rw [hpos]
        exact ih (i + 1) fuel (by omega) (by have := hlt i hiN; omega)
  have hall := hfrom N 0 (n + 1) (by omega) (by omega)
  rwa [hp0] at hall

/-! ## One packet (R432, R435, R436) -/

/-- An entry that its engine works on for the first time. -/
structure Entry.Fresh (q : Entry) : Prop where
  redir : q.redir = []
  comm : q.comm = 0
  landed : q.landed = 0
  mute : q.mute = false
  segs : q.segs = none

theorem Issue.started_fresh (x : Issue) (s : State) (c n : Nat) (y : Sync) : (x.started s c n y).Fresh := ⟨rfl, rfl, rfl, rfl, rfl⟩

section
variable {s t u : State} {c : Nat} {q : Entry} (hq : q.Fresh)
include hq

theorem sendBytes_sends {src : Addr} {total : Nat} {p : Packet} {kind : ReqKind} {g : Seg} {pos k : Nat} {a : Addr}
    (h : SendsBytes c q src p kind g pos k a s t) : sendBytes c q src total p kind g pos k a s = ⟨t, pos + k, pos + k, .done⟩ := by
  obtain ⟨u, l, hthrough, hdata, hclean, htag, hseal, hlive, ht⟩ := h
  have hpoison : (if p.ptype = pPUTREQ then none else u.firstPoisonAll l) = none := by
    split
    · rfl
    · next hp => exact hclean hp
  have hfree : (u.tagFor (g.dev.setWidth 16)).isNone = false := by rw [← Option.not_isSome, htag]; rfl
  rw [sendBytes, fxRead_through hq.redir hthrough hdata]
  simp only [hfree, hpoison, hseal, hq.landed, Nat.not_lt_zero, Bool.false_eq_true, Bool.true_eq_false, if_false, ← ht]
  rw [afterSend, if_pos hlive]

theorem sendGet_sends {dst : Addr} {total : Nat} {kind : ReqKind} {lw : Option Place} {g : Seg} {pos k : Nat} {a : Addr}
    (h : SendsGet c q dst kind lw g pos k a s t) : sendGet c q dst total kind lw g pos k a s = ⟨t, pos + k, pos + k, .done⟩ := by
  obtain ⟨u, l, hthrough, htag, hseal, hdata, hlive, ht⟩ := h
  have hfree : (u.tagFor (g.dev.setWidth 16)).isNone = false := by rw [← Option.not_isSome, htag]; rfl
  rw [sendGet, engAccess_through hq.redir hthrough]
  simp only [hfree, hseal, hdata, Bool.true_eq_false, decide_false, Bool.or_self, Bool.false_eq_true, if_false, ← ht]
  rw [afterSend, if_pos hlive]

end

/-! ## Resolve (R146, R147, R441) -/

theorem State.handle_of_steady {s t : State} (h : t.steady = s.steady) (d : BitVec 12) : t.handle d = s.handle d := by
  have hshtab : t.shtab = s.shtab := show t.steady.shtab = s.steady.shtab by rw [h]
  rw [State.handle, State.handle, hshtab]

theorem Reads.steady {s t : State} {c k : Nat} {q : Entry} {x : Acc} {va : Addr} {l : Pieces} (h : Reads s c q x va k t l) :
    t.steady = s.steady := by
  obtain ⟨⟨hr, -⟩, -⟩ := h
  have hsteady := steady_resolve s x va k
  rwa [hr] at hsteady

theorem getD_indices (i : BitVec 128) (d : Nat) : (indices i).getD d 0 = indexAt i d := by
  rcases Nat.lt_or_ge d 4 with hd | hd
  · match d, hd with
    | 0, _ | 1, _ | 2, _ | 3, _ => rfl
  · have hhigh : i.toNat / 2 ^ (32 * d) = 0 :=
      Nat.div_eq_of_lt (i.isLt.trans_le (Nat.pow_le_pow_right (by decide) (by omega)))
    rw [indexAt, toNat_extractLsb', hhigh, List.getD_eq_default _ _ (by simpa [indices] using hd)]
    rfl

/-- The indices of a piece: those of its access, but that along the last dimension. -/
theorem getD_set_indices (i : BitVec 128) (d x : Nat) {m : Nat} (hm : m < 4) :
    ((indices i).set d x).getD m 0 = if m = d then x else indexAt i m := by
  split
  · next h =>
    subst h
    rw [List.getD_eq_getElem?_getD, List.getElem?_set_self (by simpa [indices] using hm)]; rfl
  · next h =>
    rw [List.getD_eq_getElem?_getD, List.getElem?_set_ne (fun e => h e.symm), ← List.getD_eq_getElem?_getD, getD_indices]

/-- Resolve's numbers are those of an element's indices. -/
theorem resolved_eq {e : ShardEnt} {x : Nat → Nat} {idx : List Nat} {o l : Nat} (h : Resolved e x o l) (hidx : ∀ m, m < 4 → idx.getD m 0 = x m) :
    ownerNo e idx = o ∧ withinBlock e idx = l := by
  obtain ⟨g, j, G, hgjG, rfl, rfl⟩ := h
  have horder (p : Nat) : idx.getD (e.order p) 0 = x (e.order p) := hidx _ (e.extractLsb' (48 + 2 * p) 2).isLt
  simp only [ownerNo, withinBlock, List.foldl_cons, List.foldl_nil, Nat.zero_mul, Nat.zero_add, ShardEnt.grid, horder, hidx, hgjG,
    Nat.reduceLT, and_self]

/-- Pieces whose owners are read lead to their segments. -/
theorem resolvePieces_owners {s t : State} {c : Nat} {q : Entry} {h : BitVec 12} {i : BitVec 128} {n total : Nat} {segs : List Seg}
    {f : List Seg → State → PRes} (hq : q.Fresh) (ho : Owners s c q h i n segs t) :
    resolvePieces c q h total (fun segs s => f segs (s.modEntry c q fun e => { e with segs := some segs }))
      (shardPieces (s.handle h) (indices i) (n + 1) 0 n) [] s = f segs t := by
  obtain ⟨N, p, d, σ, rfl, hcut, hlen, rfl, rfl, hpiece⟩ := ho
  have hlt := fun k => hcut.lt_succ (i := k)
  obtain ⟨hp0, hpN, hsize⟩ := hcut
  have hhandle (k : Nat) : k ≤ N → (σ k).handle h = (σ 0).handle h := by
    induction k with
    | zero => exact fun _ => rfl
    | succ k ih =>
      intro hk
      obtain ⟨_, _, _, _, _, _, _, hread, -⟩ := hpiece k hk
      rw [State.handle_of_steady hread.steady, ih (by omega)]
  have hfrom (m : Nat) : ∀ k fuel, k + m = N → n < p k + fuel →
      resolvePieces c q h total (fun segs s => f segs (s.modEntry c q fun e => { e with segs := some segs }))
        (shardPieces ((σ 0).handle h) (indices i) fuel (p k) n) (segs.take k) (σ k) =
      f segs ((σ N).modEntry c q fun e => { e with segs := some segs }) := by
    induction m with
    | zero =>
      rintro k (_ | fuel) rfl hfuel
      · exact absurd hfuel (not_lt.mpr hpN.le)
      · rw [Nat.add_zero] at hpN hlen ⊢
        rw [shardPieces, if_pos hpN.ge, resolvePieces, List.take_of_length_le hlen.le]
        rfl
    | succ m ih =>
      rintro k (_ | fuel) hk hfuel
      · have := (hsize k (by omega)).1
        omega
      · have hkN : k < N := by omega
        have hnext := (hsize k hkN).2
        have hstep : Nat.min (n - p k) (((σ 0).handle h).blk (((σ 0).handle h).rank - 1) -
            (indexAt i (((σ 0).handle h).rank - 1) + p k) % ((σ 0).handle h).blk (((σ 0).handle h).rank - 1)) = p (k + 1) - p k := by
          rw [hnext, Nat.add_sub_cancel_left]
        have hpos : p k + (p (k + 1) - p k) = p (k + 1) := by have := hlt k hkN; omega
        obtain ⟨e, no, within, l, w, rfl, hres, ⟨hthrough, hclean⟩, hdata, rfl, hbit, hseg⟩ := hpiece k hkN
        rw [hhandle k hkN.le] at hres hthrough hseg
        obtain ⟨hno, hwithin⟩ := resolved_eq hres fun m hm =>
          (getD_set_indices i _ (indexAt i (((σ 0).handle h).rank - 1) + p k) hm).trans (ite_congr rfl (fun e => by rw [e]) fun _ => rfl)
        rw [shardPieces, if_neg (not_le.mpr (hsize k hkN).1)]
        simp only [getD_indices, hstep, hpos]
        rw [resolvePieces]
        dsimp only
        rw [hhandle k hkN.le, hno, hwithin, fxRead_through hq.redir hthrough hdata]
        simp only [hclean, hbit, Bool.false_eq_true, if_false]
        rw [← ih (k + 1) fuel (by omega) (by have := hlt k hkN; omega), List.take_add_one, hseg]
        rfl
  have hall := hfrom N 0 (n + 1) (by omega) (by omega)
  rwa [hp0] at hall

theorem resolveShard_owners {s t : State} {c : Nat} {q : Entry} {h : BitVec 12} {i : BitVec 128} {n : Nat} {segs : List Seg}
    {f : List Seg → State → PRes} (hq : q.Fresh) (ho : Owners s c q h i n segs t) : resolveShard s c q h i n f = f segs t := by
  rw [resolveShard, hq.segs]
  exact resolvePieces_owners hq ho

/-! ## What the FX engine performs (R431 to R436, R441) -/

theorem noCheck_cons {b : Bool} {code : BitVec 8} {a : Addr} {l : List Check} (hb : b = false) (hl : NoCheck l) : NoCheck ((b, code, a) :: l) :=
  List.forall_mem_cons.mpr ⟨hb, hl⟩

theorem noCheck_nil : NoCheck [] := nofun

theorem noCheck_append {l m : List Check} (hl : NoCheck l) (hm : NoCheck m) : NoCheck (l ++ m) :=
  List.forall_mem_append.mpr ⟨hl, hm⟩

section
variable {s t u : State} {c : Nat} {q : Entry} {R A : Addr} {K W N : Word} {len : BitVec 32} {segs : List Seg} (hq : q.Fresh)
include hq

/-- A transfer whose packets are sent ends at once, or with its responses. -/
theorem endTransfer_packets {cut n : Nat} {P : Seg → Nat → Nat → Addr → State → State → Prop} {f : Seg → Nat → Nat → Addr → State → PRes}
    (h : Packets cut n segs s u P) (hf : ∀ g pos k a s t, P g pos k a s t → f g pos k a s = ⟨t, pos + k, pos + k, .done⟩) (resp : Bool) :
    endTransfer c q resp (sendAll cut segs f (n + 1) q.comm s) = ⟨u.endSend c q, n, n, if resp then .sent else .done⟩ := by
  rw [hq.comm, sendAll_packets h hf]; rfl

theorem shardCheck_passes {h : BitVec 12} {i : BitVec 128} {n : Nat} {width : Option Nat} (hf : shardFault s c q h i n width = none) :
    shardCheck s c q h i n width = (false, cSHARD, 0) := by
  rw [shardCheck, hq.segs, hf]

theorem shardBytes_eq (s : State) (h : BitVec 12) (n : Nat) : shardBytes s q h n = n * 2 ^ (s.handle h).esz := by
  rw [shardBytes, hq.segs]

/-- PUT sends the bytes of its source, and the landing word that its target word names. -/
theorem runPut_sends {psz : Psz} {r a : AReg} {rk rc : SReg} (hR : q.o0.setWidth 80 = R) (hA : q.o1.setWidth 80 = A) (hK : q.o2.setWidth 64 = K)
    (hW : q.o3.setWidth 64 = W) (hlw : twLwen W = true → (twSpa W).toNat % 16 = 0 ∧ (twSpa W).extractLsb' 26 10 ≠ 1023)
    (hlocal : (localBad s (fxAcc s c q false) A len.toNat).1 = false) (hbad : twMoveBad W = false)
    (hp : Packets (pszBytes psz) len.toNat [⟨0, len.toNat, twDev W, K, R, none⟩] s u (SendsBytes c q A
      { ptype := pPUTREQ, aux := if twLwen W then (1 : BitVec 64) <<< 63 ||| (twSpa W).setWidth 64 else 0 } .put)) :
    runPut psz r a rk rc len c q s = ⟨u.endSend c q, len.toNat, len.toNat, .done⟩ := by
  subst hR hA hK hW
  have hspa : (twLwen (q.o3.setWidth 64) && (twSpa (q.o3.setWidth 64)).extractLsb' 0 4 != 0) = false := by
    cases h : twLwen (q.o3.setWidth 64)
    · rfl
    · have halign := (hlw h).1
      rw [Bool.true_and, bne_eq_false_iff_eq, ← BitVec.toNat_inj, toNat_extractLsb']
      simpa using halign
  have hown : (twLwen (q.o3.setWidth 64) && (twSpa (q.o3.setWidth 64)).extractLsb' 26 10 == 1023) = false := by
    cases h : twLwen (q.o3.setWidth 64)
    · rfl
    · rw [Bool.true_and, beq_eq_false_iff_ne]; exact (hlw h).2
  rw [runPut]
  rw [whole_of_noCheck (noCheck_cons hspa (noCheck_cons hlocal (noCheck_cons (by rw [hbad, hown]; rfl) noCheck_nil))), hq.mute,
    Bool.not_false, Bool.and_true]
  exact endTransfer_packets hq hp (fun _ _ _ _ _ _ => sendBytes_sends hq) false

/-- GET asks for the bytes of its destination. -/
theorem runGet_sends {psz : Psz} {a r : AReg} {rk rc : SReg} (hA : q.o0.setWidth 80 = A) (hR : q.o1.setWidth 80 = R) (hK : q.o2.setWidth 64 = K)
    (hW : q.o3.setWidth 64 = W) (hlw : NoCheck (getLwChecks s c (fxAcc s c q true) (if twLwen W then some (twSpa W) else none)))
    (hlocal : (localBad s (fxAcc s c q true) A len.toNat).1 = false) (hbad : twMoveBad W = false)
    (hp : Packets (pszBytes psz) len.toNat [⟨0, len.toNat, twDev W, K, R, none⟩] s u
      (SendsGet c q A .get (getLwPlace c (if twLwen W then some (twSpa W) else none)))) :
    runGet psz a r rk rc len c q s = ⟨u.endSend c q, len.toNat, len.toNat, .sent⟩ := by
  subst hR hA hK hW
  rw [runGet]
  rw [whole_of_noCheck (noCheck_append hlw (noCheck_cons hlocal (noCheck_cons hbad noCheck_nil)))]
  exact endTransfer_packets hq hp (fun _ _ _ _ _ _ => sendGet_sends hq) true

/-- SGET asks each owner for its pieces. -/
theorem runSget_sends {psz : Psz} {a : AReg} {ri rn : SReg} {h : BitVec 12} {lw : Option AReg} {i : BitVec 128} {w : Option (BitVec 36)} {n bytes : Nat}
    (hA : q.o0.setWidth 80 = A) (hi : q.o1 = i) (hn : (q.o2.extractLsb' 0 32).toNat = n) (hw : lwOf lw q.o3 = w)
    (hbytes : bytes = n * 2 ^ (s.handle h).esz) (hlw : NoCheck (getLwChecks s c (fxAcc s c q true) w))
    (hlocal : (localBad s (fxAcc s c q true) A bytes).1 = false) (hf : shardFault s c q h i n none = none) (ho : Owners s c q h i n segs t)
    (hp : Packets (pszBytes psz) bytes segs t u (SendsGet c q A .sget (getLwPlace c w))) :
    runSget psz a ri rn h lw c q s = ⟨u.endSend c q, bytes, bytes, .sent⟩ := by
  subst hA hi hn hw hbytes
  rw [runSget]
  rw [shardCheck_passes hq hf, shardBytes_eq hq,
    whole_of_noCheck (noCheck_append hlw (noCheck_cons hlocal (noCheck_cons rfl noCheck_nil))), resolveShard_owners hq ho]
  exact endTransfer_packets hq hp (fun _ _ _ _ _ _ => sendGet_sends hq) true

/-- What a form of SPUT requires: the fields CIDX and CCNT of its count, and the width of an element. -/
def sputNeeds (N : Word) : SputOp → Bool × Option Nat
  | .plain _ => (N.extractLsb' 32 32 != 0, none)
  | .fadd _ => (N.extractLsb' 32 32 != 0, some 4)
  | .faddOrd => (!((N.extractLsb' 32 16).ult (N.extractLsb' 48 16)), some 4)

omit hq in
/-- SPUT by its form. -/
theorem runSput_eq {op : SputOp} {a : AReg} {ri rn : SReg} {h : BitVec 12} {P : Packet} {cut n bytes : Nat} {bad : Bool} {width : Option Nat}
    (hA : q.o0.setWidth 80 = A) (hN : q.o2.setWidth 64 = N) (hn : (N.extractLsb' 0 32).toNat = n) (hbytes : shardBytes s q h n = bytes)
    (hform : sputForm N op = (P, cut)) (hneeds : sputNeeds N op = (bad, width)) : runSput op a ri rn h c q s =
      whole [localBad s (fxAcc s c q false) A bytes, shardCheck s c q h q.o1 n width, (bad, cOPFORMAT, A)] s
        (resolveShard s c q h q.o1 n fun segs s => endTransfer c q false (sendAll cut segs (sendBytes c q A bytes P .sput) (bytes + 1) q.comm s)) := by
  subst hA hN hn hbytes
  cases op <;> cases hform <;> cases hneeds <;> rfl

/-- SPUT sends each owner its pieces. -/
theorem runSput_sends {op : SputOp} {a : AReg} {ri rn : SReg} {h : BitVec 12} {i : BitVec 128} {P : Packet} {cut n bytes : Nat} {width : Option Nat}
    (hA : q.o0.setWidth 80 = A) (hi : q.o1 = i) (hN : q.o2.setWidth 64 = N) (hn : (N.extractLsb' 0 32).toNat = n)
    (hbytes : bytes = n * 2 ^ (s.handle h).esz) (hform : sputForm N op = (P, cut)) (hneeds : sputNeeds N op = (false, width))
    (hlocal : (localBad s (fxAcc s c q false) A bytes).1 = false) (hf : shardFault s c q h i n width = none) (ho : Owners s c q h i n segs t)
    (hp : Packets cut bytes segs t u (SendsBytes c q A P .sput)) :
    runSput op a ri rn h c q s = ⟨u.endSend c q, bytes, bytes, .done⟩ := by
  subst hi
  rw [runSput_eq hA hN hn ((shardBytes_eq hq s h n).trans hbytes.symm) hform hneeds, shardCheck_passes hq hf,
    whole_of_noCheck (noCheck_cons hlocal (noCheck_cons rfl (noCheck_cons rfl noCheck_nil))), resolveShard_owners hq ho]
  exact endTransfer_packets hq hp (fun _ _ _ _ _ _ => sendBytes_sends hq) false

end

/-! ## The statement -/

/-- An FX instruction whose packets have been sent. -/
theorem fx_transferred {s u : State} {c n : Nat} {y : Sync} {i : Instr} {caps : Task → List (BitVec 128)} {perf : Perf} {len : Nat} {resp : Bool}
    (h : EngineReady s c n y .fx) (hy : i.sync = some y)
    (hperf : perf c ((fx i caps).started s c n y) ((fx i caps).begun s c n y) =
      ⟨u.endSend c ((fx i caps).started s c n y), len, len, if resp then .sent else .done⟩) :
    engine legal (fx i caps) perf s = .next ((fx i caps).transferred s c n y u len resp) := by
  have ⟨_, _, _, hfrom, _⟩ := h
  rw [engine_performed (x := fx i caps) (ill := legal) h hy rfl rfl hfrom rfl, Issue.performed, hperf, Issue.transferred]

theorem capS_low32 (t : Task) (r : SReg) : ((capS t r).extractLsb' 0 32).toNat = (t.sreg r).toNat % 2 ^ 32 := by
  rw [toNat_extractLsb', capS, BitVec.toNat_setWidth, Nat.pow_zero, Nat.div_one, Nat.mod_eq_of_lt ((t.sreg r).isLt.trans (by decide))]

theorem lwOf_lwCap (t : Task) (lw : Option AReg) : lwOf lw (lwCap t lw) = lw.map fun l => (t.areg l).setWidth 36 := by
  cases lw with
  | none => rfl
  | some l => exact congrArg some (BitVec.setWidth_setWidth_of_le _ (by decide))

/-- The count of a SPUT that is not ordered has no CIDX and no CCNT (R441). -/
theorem sput_unordered {N : Word} (h1 : N.extractLsb' 32 16 = 0) (h2 : N.extractLsb' 48 16 = 0) : (N.extractLsb' 32 32 != 0) = false := by
  rw [bne_eq_false_iff_eq]
  rw [← BitVec.toNat_inj, toNat_extractLsb'] at h1 h2 ⊢
  simp only [BitVec.ofNat_eq_ofNat, BitVec.toNat_ofNat] at h1 h2 ⊢
  omega

/-- Settles O45: each instruction by what its engine performs in the state in which its entry starts. -/
theorem remoteTransfers : Obligations.remote_transfers := by
  rintro s B u c n y psz r a rk rc ri rn len h op lw k x q R A W N segs cut bytes P hready rfl rfl rfl rfl rfl rfl hcut
  replace hcut : cut = pszBytes psz := hcut.trans (by cases psz <;> rfl)
  refine ⟨fun hx hlw hlocal hbad hsegs hP hp => ?put, fun hx hlw hlocal hbad hsegs hp => ?get, fun hx hbytes hlw hlocal hf t ho hp => ?sget,
    fun c1 c2 hx hN hbytes hc1 hc2 hform hlocal hf t ho hp => ?sput⟩
  case put =>
    subst hx hsegs hP hcut
    exact fx_transferred hready rfl (runPut_sends (Issue.started_fresh ..) (capA_setWidth ..) (capA_setWidth ..) (capS_setWidth ..)
      (capS_setWidth ..) hlw hlocal hbad hp)
  case get =>
    subst hx hsegs hcut
    exact fx_transferred hready rfl (runGet_sends (Issue.started_fresh ..) (capA_setWidth ..) (capA_setWidth ..) (capS_setWidth ..)
      (capS_setWidth ..) hlw hlocal hbad hp)
  case sget =>
    subst hx hcut
    exact fx_transferred hready rfl (runSget_sends (Issue.started_fresh ..) (capA_setWidth ..) rfl (capS_low32 ..) (lwOf_lwCap ..) hbytes hlw
      hlocal hf ho hp)
  case sput =>
    subst hN hc1 hc2
    have hcount : (((s.task c n).sreg rn).extractLsb' 0 32).toNat = ((s.task c n).sreg rn).toNat % 2 ^ 32 := by
      rw [toNat_extractLsb', Nat.pow_zero, Nat.div_one]
    have hsent {width : Option Nat} (hform : sputForm ((s.task c n).sreg rn) op = (P, cut)) (hneeds : sputNeeds ((s.task c n).sreg rn) op = (false, width))
        (hf : shardFault (x.begun s c n y) c (x.started s c n y) h (capPair (s.task c n) ri) (((s.task c n).sreg rn).toNat % 2 ^ 32) width = none) :
        exec (.sput y op a ri rn h) s = .next (x.transferred s c n y u bytes false) := by
      subst hx
      exact fx_transferred hready rfl (runSput_sends (Issue.started_fresh ..) (capA_setWidth ..) rfl (capS_setWidth ..) hcount hbytes hform hneeds
        hlocal hf ho hp)
    cases op with
    | plain p =>
      obtain ⟨rfl, rfl, h1, h2⟩ := hform
      exact hsent (by cases p <;> rfl) (congrArg (·, none) (sput_unordered h1 h2)) hf
    | fadd p =>
      obtain ⟨rfl, rfl, h1, h2⟩ := hform
      exact hsent (by cases p <;> rfl) (congrArg (·, some 4) (sput_unordered h1 h2)) hf
    | faddOrd =>
      obtain ⟨rfl, rfl, hlt⟩ := hform
      exact hsent rfl (by rw [sputNeeds, BitVec.ult, decide_eq_true hlt]; rfl) hf

end Sys2Proof.Machine
end

section
/-! SUPPORT. What a walk leaves alone (R107, R115, R131, R138): the units and the page-fault queue's records, one lemma per operation that it makes. -/

namespace Sys2Proof.Machine

/-- The units, and the records of the page-fault queue. -/
def State.unitsFaults (s : State) : Tab Core × List PageFault := (s.cores, s.faults)

theorem State.unitsFaults_foldl {α : Type} {f : State → α → State} (hf : ∀ s a, (f s a).unitsFaults = s.unitsFaults) (l : List α) (s : State) :
    (l.foldl f s).unitsFaults = s.unitsFaults :=
  foldl_keeps (fun t : State => t.unitsFaults = s.unitsFaults) f (fun _ a h => (hf _ a).trans h) l s rfl

@[simp] theorem State.unitsFaults_ite (p : Prop) [Decidable p] (s t : State) :
    (if p then s else t).unitsFaults = if p then s.unitsFaults else t.unitsFaults := apply_ite ..

/-! ## Memory and banks -/

@[simp] theorem State.unitsFaults_setBank (s : State) (b : Nat) (x : Bank) : (s.setBank b x).unitsFaults = s.unitsFaults := rfl
@[simp] theorem State.unitsFaults_setStack (s : State) (k : Nat) (x : Stack) : (s.setStack k x).unitsFaults = s.unitsFaults := rfl
@[simp] theorem State.unitsFaults_freshSector (s : State) (d : Nat) (k : Option (BitVec 12)) :
    (s.freshSector (.hbm d k)).unitsFaults = s.unitsFaults := rfl
@[simp] theorem State.unitsFaults_setPoison (s : State) (d : Nat) (k : Option (BitVec 12)) (b : Bool) :
    (s.setPoison (.hbm d k) b).unitsFaults = s.unitsFaults := rfl

theorem State.unitsFaults_write (s : State) (d : Nat) (bs : List Byte) : (s.write (.hbm d none) bs).unitsFaults = s.unitsFaults := by
  have hmerge : (s.mergePoison id (.hbm d none) bs.length fun _ => false).unitsFaults = s.unitsFaults := by
    simp only [State.mergePoison, State.unitsFaults_ite]
    rw [State.unitsFaults_foldl, ite_self]
    intro t i
    simp only [id_eq, Place.add, State.unitsFaults_ite, State.unitsFaults_setPoison, State.unitsFaults_freshSector, ite_self]
  exact hmerge

@[simp] theorem State.unitsFaults_usePass (s : State) (u b : Nat) : (s.usePass u b).unitsFaults = s.unitsFaults := by simp [State.usePass]

@[simp] theorem State.unitsFaults_lineUp (s : State) (b : Nat) (w : Waiter) : (s.lineUp b w).unitsFaults = s.unitsFaults := by simp [State.lineUp]

theorem State.unitsFaults_findRow {s t : State} {d : Nat} (h : s.findRow d = some t) : t.unitsFaults = s.unitsFaults := by
  simp only [State.findRow] at h
  split at h
  · obtain rfl := Option.some.inj h; rfl
  · split at h
    · obtain rfl := Option.some.inj h; rfl
    · cases h

theorem State.unitsFaults_useRow {s t : State} {u d : Nat} (h : s.useRow u d = some t) : t.unitsFaults = s.unitsFaults := by
  obtain ⟨v, hv, ht⟩ := Option.bind_eq_some_iff.mp h
  rw [State.unitsFaults_findRow ht]
  simp only [State.enterBank] at hv
  split at hv
  · obtain rfl := Option.some.inj hv; simp
  · cases hv

theorem State.unitsFaults_useRows {u : Nat} {l : List Nat} {s t : State} (h : useRows u l s = .ok t) : t.unitsFaults = s.unitsFaults := by
  induction l generalizing s with
  | nil => obtain rfl := Except.ok.inj h; rfl
  | cons d l ih =>
    simp only [useRows] at h
    split at h
    · next v hv => exact (ih h).trans (State.unitsFaults_useRow hv)
    · cases h

theorem State.unitsFaults_alsoRow {s b t : State} {d : Nat} (h : s.alsoRow b d = some t) : t.unitsFaults = s.unitsFaults := by
  simp only [State.alsoRow] at h
  split at h
  · exact (State.unitsFaults_findRow h).trans (by simp)
  · cases h

@[simp] theorem State.unitsFaults_mgmtWrite (s : State) (d : Nat) (bs : List Byte) : (s.mgmtWrite d bs).unitsFaults = s.unitsFaults := by
  have hretry (l : List (Nat × List Byte)) : ∀ s : State, (retryWaits l s).unitsFaults = s.unitsFaults := by
    induction l with
    | nil => exact fun _ => rfl
    | cons w l ih =>
      intro s
      simp only [retryWaits]
      split
      · next v hv =>
        simp only [State.tryWrite] at hv
        split at hv
        · next z hz =>
          obtain rfl := Option.some.inj hv
          exact (ih _).trans ((State.unitsFaults_write z _ _).trans (State.unitsFaults_useRows hz))
        · cases hv
      · simp
  exact hretry _ _

/-! ## Records of events and the errors that a read finds -/

@[simp] theorem State.unitsFaults_evt (s : State) (v : BitVec 12) : (s.evt v).unitsFaults = s.unitsFaults := rfl
@[simp] theorem State.unitsFaults_strandEvent (s : State) (ty source : Nat) (detail : List Byte) :
    (s.strandEvent ty source detail).unitsFaults = s.unitsFaults := rfl

@[simp] theorem State.unitsFaults_tideEvent (s : State) (ty source : Nat) (detail : List Byte) :
    (s.tideEvent ty source detail).unitsFaults = s.unitsFaults := by
  have hraw (s : State) (ty source : Nat) (detail : List Byte) : (s.tideRaw ty source detail).unitsFaults = s.unitsFaults :=
    State.unitsFaults_mgmtWrite s _ _
  simp only [State.tideEvent, State.tideUpTo]
  split
  · rfl
  · split
    · rw [hraw, hraw]
    · rw [hraw]

@[simp] theorem State.unitsFaults_poisonEvent (s : State) (d agent core : Nat) : (s.poisonEvent d agent core).unitsFaults = s.unitsFaults := by
  simp [State.poisonEvent]

@[simp] theorem State.unitsFaults_readSector (s : State) (sector agent core : Nat) :
    (s.readSector sector agent core).unitsFaults = s.unitsFaults := by
  simp only [State.readSector]
  split
  · rfl
  · simp [State.uncorrectable]
  · simp [State.corrected]

/-! ## Walks -/

theorem State.unitsFaults_walkRead (s b : State) (d : Nat) (k : Bool) : (s.walkRead b d k).1.unitsFaults = s.unitsFaults := by
  simp only [State.walkRead]
  split
  · rfl
  · next v hv => rw [← State.unitsFaults_alsoRow hv]; split <;> simp

theorem unitsFaults_walkChain (b : State) (k : Bool) (asid : BitVec 16) (va : Addr) (sz fuel f : Nat) (found : Option Found) (s : State) :
    (walkChain b k asid va sz fuel f found s).1.unitsFaults = s.unitsFaults := by
  induction fuel generalizing f found s with
  | zero => rw [walkChain]; split <;> rfl
  | succ fuel ih =>
    have hread := s.unitsFaults_walkRead b (iptDpa f) k
    rw [walkChain]
    split
    · rfl
    split
    · rfl
    split
    · next hv => rw [hv] at hread; exact hread
    · next hv =>
      rw [hv] at hread
      dsimp only
      split
      · exact hread
      · split
        · exact hread
        · exact (ih ..).trans hread

theorem unitsFaults_walkSizes (b : State) (k : Bool) (asid : BitVec 16) (va : Addr) (l : List Nat) (found : Option Found) (s : State) :
    (walkSizes b k asid va l found s).1.unitsFaults = s.unitsFaults := by
  have hsize (sz : Nat) (found : Option Found) (s : State) : (walkSize s b k asid va sz found).1.unitsFaults = s.unitsFaults := by
    have hread := s.unitsFaults_walkRead b (anchorDpa (anchorIndex asid sz va)) k
    rw [walkSize]
    dsimp only
    split
    · next hv => rw [hv] at hread; exact hread
    · next hv =>
      rw [hv] at hread
      split
      · exact hread
      · exact (unitsFaults_walkChain ..).trans hread
  induction l generalizing found s with
  | nil => rfl
  | cons sz l ih =>
    have hfirst := hsize sz found s
    rw [walkSizes]
    split
    · next v f hv => rw [hv] at hfirst; exact (ih f v).trans hfirst
    · exact hfirst

theorem unitsFaults_walk (s : State) (k : Bool) (asid : BitVec 16) (va : Addr) : (walk s k asid va).1.unitsFaults = s.unitsFaults := by
  have hsizes := unitsFaults_walkSizes s k asid va [0, 1, 2] none s
  rw [walk]
  split
  · rfl
  all_goals next hv => rw [hv] at hsizes; exact hsizes

@[simp] theorem State.unitsFaults_fillTlb (s : State) (e : TlbEntry) : (s.fillTlb e).unitsFaults = s.unitsFaults := by
  have hevict (t : State) (k : CacheId) : (t.evict k).unitsFaults = t.unitsFaults := by
    simp only [State.evict]
    split
    · rfl
    · split <;> rfl
  exact hevict _ _

theorem State.unitsFaults_walkInto (s : State) (k : Bool) (cache : CacheId) (asid : BitVec 16) (va : Addr) :
    (s.walkInto k cache asid va).unitsFaults = s.unitsFaults := by
  have hwalk := unitsFaults_walk s k asid va
  rw [State.walkInto]
  split
  · split
    all_goals next hv => rw [hv] at hwalk; simpa using hwalk
  · rfl

end Sys2Proof.Machine
end

section
/-! SUPPORT. Walks on their own, the page-fault queue's head and the mapping commands (R131, R134 to R142, R418, R469): each event by the hypothesis under
which its statement speaks, and the statement O57. -/

namespace Sys2Proof.Machine

/-! ## Walks (R131, R137) -/

section
variable {s t : State} {asid : BitVec 16} {va : Addr} {cache : CacheId} {k : Bool}

theorem State.walkInto_ends {r : Except WalkErr Found} (hva : vaRegion va = .device) (hv : (s.asidEnt asid.toNat).valid = true)
    (hw : walk s k asid va = (t, r)) :
    (∀ f, r = .ok f → s.walkInto k cache asid va = t.fillTlb (foundEntry t cache asid va f)) ∧ (∀ x, r = .error x → s.walkInto k cache asid va = t) := by
  rw [State.walkInto, if_pos ⟨hva, hv⟩, hw]
  exact ⟨fun f hf => by rw [hf], fun x hx => by rw [hx]⟩

theorem State.walkInto_unwalked (h : vaRegion va ≠ .device ∨ (s.asidEnt asid.toNat).valid = false) : s.walkInto k cache asid va = s := by
  refine if_neg ?_
  rintro ⟨hva, hv⟩
  exact h.elim (· hva) fun hno => Bool.false_ne_true (hno.symm.trans hv)

end

theorem pageWalk_eq {s : State} (hp : s.powered = true) (hs : s.stopped = false) :
    exec .pageWalk s = .next (s.walkInto true s.inp.cache s.inp.asid s.inp.va) := by
  show Host.Outcome.next (if s.powered && !s.stopped then s.walkInto true s.inp.cache s.inp.asid s.inp.va else s) = _
  rw [hp, hs]; rfl

theorem streamTlbWalkAhead_eq {s : State} {c sh : Nat} {q : Entry} {x : Stream} {a : BitVec 16} {va : Addr} (hc : c = s.inp.core)
    (hq : (s.core c).queue.find? (fun q => q.slot == s.inp.slot && q.eng == s.inp.eng && q.started && !q.done) = some q)
    (ha : a = (s.task c q.slot).asid) (hx : (q.streams (s.task c q.slot))[s.inp.index]? = some x)
    (hsh : sh = ((s.cached (.stream c q.eng) a (x.addr q.comm)).map fun e => e.shift).getD 16) (hva : x.beyond q.comm sh = some va)
    (hhalt : s.haltedUnit c = false) (hmiss : s.cached (.stream c q.eng) a va = none) :
    exec .streamTlbWalkAhead s = .next (s.walkInto false (.stream c q.eng) a va) := by
  subst hc ha
  show execStreamTlbWalkAhead s = _
  simp only [execStreamTlbWalkAhead, event, hq, hx]
  cases he : s.cached (.stream s.inp.core q.eng) (s.task s.inp.core q.slot).asid (x.addr q.comm) with
  | none =>
    rw [he] at hsh
    obtain rfl : sh = 16 := hsh
    simp only [hva, hhalt, hmiss, Option.isSome_none, Bool.or_self, Bool.false_eq_true, if_false]
  | some e =>
    rw [he] at hsh
    obtain rfl : sh = e.shift := hsh
    simp only [hva, hhalt, hmiss, Option.isSome_none, Bool.or_self, Bool.false_eq_true, if_false]

/-! ## The page-fault queue's head (R141, R142) -/

theorem drainFaults_queued {s : State} (n : Nat) (h : ∀ f ∈ s.faults, f.queued.isSome = true) : drainFaults n s = s := by
  have hnone : s.faults.find? (fun f => f.queued.isNone) = none :=
    List.find?_eq_none.mpr fun f hf => by rw [Option.isNone_eq_false_iff.mpr (h f hf)]; exact Bool.false_ne_true
  cases n with
  | zero => rfl
  | succ n => rw [drainFaults, hnone]

theorem drainFaults_full {s : State} (n : Nat) (h : 256 ≤ (s.pftail - s.pfhead).toNat) : drainFaults n s = s := by
  cases n with
  | zero => rfl
  | succ n =>
    rw [drainFaults]
    split
    · rfl
    · rw [if_pos h]

/-- A lone record that waits is let in where the ring has room. -/
theorem drainFaults_lone {s : State} {f : PageFault} (n : Nat) (hf : s.faults = [f]) (hw : f.queued.isNone = true)
    (hroom : (s.pftail - s.pfhead).toNat < 256) (hen : s.xlctl.pfen = false) : drainFaults (n + 1) s = { s with
      faults := [{ f with queued := some s.pftail }], pfring := Tab.set s.pfring (s.pftail.toNat % 256) f.record, pftail := s.pftail + 1 } := by
  have hfind : s.faults.find? (fun f => f.queued.isNone) = some f := by rw [hf, List.find?_cons_of_pos (p := fun f : PageFault => f.queued.isNone) hw]
  rw [drainFaults, hfind]
  dsimp only
  rw [if_neg (not_le.mpr hroom), hen, hf]
  simp only [List.map_cons, List.map_nil, and_self, if_true, Bool.false_eq_true, if_false]
  exact drainFaults_queued n (List.forall_mem_singleton.mpr rfl)

section
variable {s : State} (hon : s.mgmtOn = true)
include hon

theorem pfheadWrite_eq : exec .pfheadWrite s = .next (drainFaults (s.faults.length + 1) { s with pfhead := s.inp.v.setWidth 16 }) := by
  show Host.Outcome.next (if s.mgmtOn then drainFaults (s.faults.length + 1) { s with pfhead := (s.inp.v.setWidth 64).setWidth 16 } else s) = _
  rw [if_pos hon, BitVec.setWidth_setWidth_of_le _ (by decide)]

theorem pfheadWrite_queued (h : ∀ f ∈ s.faults, f.queued.isSome = true) : exec .pfheadWrite s = .next { s with pfhead := s.inp.v.setWidth 16 } := by
  rw [pfheadWrite_eq hon, drainFaults_queued (s := { s with pfhead := s.inp.v.setWidth 16 }) _ h]

theorem pfheadWrite_full (h : 256 ≤ (s.pftail - s.inp.v.setWidth 16).toNat) : exec .pfheadWrite s = .next { s with pfhead := s.inp.v.setWidth 16 } := by
  rw [pfheadWrite_eq hon, drainFaults_full (s := { s with pfhead := s.inp.v.setWidth 16 }) _ h]

theorem pfheadWrite_lone {f : PageFault} (hf : s.faults.find? (fun f => f.queued.isNone) = some f) (hone : s.faults.length = 1)
    (hen : s.xlctl.pfen = false) (hroom : (s.pftail - s.inp.v.setWidth 16).toNat < 256) : exec .pfheadWrite s = .next { s with
      pfhead := s.inp.v.setWidth 16, pftail := s.pftail + 1, pfring := Tab.set s.pfring (s.pftail.toNat % 256) f.record
      faults := [{ f with queued := some s.pftail }] } := by
  obtain ⟨g, hg⟩ := List.length_eq_one_iff.mp hone
  obtain rfl : g = f := by
    have hmem := List.mem_of_find?_eq_some hf
    rw [hg, List.mem_singleton] at hmem
    exact hmem.symm
  rw [pfheadWrite_eq hon, drainFaults_lone (s := { s with pfhead := s.inp.v.setWidth 16 }) _ hg (List.find?_some (p := fun f : PageFault => f.queued.isNone) hf) hroom hen]

end

/-! ## The command block (R134, R135) -/

theorem MapCmd.op_eq (m : MapCmd) : m.op = m.cmd4.toNat / 2 ^ 60 := by
  have := m.cmd4.isLt
  rw [MapCmd.op, toNat_extractLsb']; omega

theorem MapCmd.gfn_eq (m : MapCmd) : m.gfn = m.cmd4.toNat % 2 ^ 36 := by
  rw [MapCmd.gfn, toNat_extractLsb', Nat.pow_zero, Nat.div_one]

theorem MapCmd.asid_eq (m : MapCmd) : m.asid = m.cmd6.setWidth 16 := by
  rw [MapCmd.asid, ← BitVec.toNat_inj, toNat_extractLsb', Nat.pow_zero, Nat.div_one, BitVec.toNat_setWidth]

/-- The state in which a command runs: CMD7 as written. -/
def State.mapStarted (s : State) : State := { s with mapcmd := { s.mapcmd with cmd7 := s.inp.v.setWidth 64 } }

/-- A command that a bank makes wait. -/
def State.mapHeld (s : State) : State := { s with mapcmd := { s.mapcmd with busy := true, again := true } }

section
variable {s u t : State} {i : Instr} {f : State → Except Nat State} (h : exec i s = .next (mapTry f u))
include h

theorem exec_of_tried_ok (hf : f u = .ok t) : exec i s = .next t := by rw [h, mapTry, hf]

theorem exec_of_tried_error {b : Nat} (hf : f u = .error b) : exec i s = .next u.mapHeld := by rw [h, mapTry, hf]; rfl

end

/-- A write of CMD7 under an OP runs its command, when none is in progress. -/
theorem mapEvent_runs {s : State} {p : Nat → Bool} {f : State → State} (hon : s.mgmtOn = true) (hbusy : s.mapcmd.busy = false)
    (hp : p (s.mapcmd.cmd4.toNat / 2 ^ 60) = true) : event (mapEvent p f) s = .next (f s.mapStarted) := by
  rw [event, mapEvent, MapCmd.op_eq, if_pos hp, startMap, hon, hbusy]; rfl

theorem mapEvent_busy {s : State} {p : Nat → Bool} {f : State → State} (hbusy : s.mapcmd.busy = true) : event (mapEvent p f) s = .next s := by
  rw [event, mapEvent, startMap, hbusy, Bool.not_true, Bool.and_false]
  simp only [Bool.false_eq_true, if_false, ite_self]

/-! ## MAP (R135) -/

section
variable {s t w : State} {e : IptEntry} {gfn : Nat} {dup : Bool} (he : s.mapcmd.image = e) (hg : s.mapcmd.gfn = gfn)
include he hg

theorem runMap_malformed (h : mapMalformed e gfn = true) : runMap s = .ok (s.mapStatus 6) := by
  subst he hg; rw [runMap]; simp only [h, if_true]; rfl

/-- MAP ends with its search: MALFORMED, or a wait for the bank that it meets. -/
theorem runMap_stops {x : WalkErr} (hm : mapMalformed e gfn = false) (h : mapFinds s e = (t, .error x)) :
    ((∀ b, x ≠ .bank b) → runMap s = .ok (t.mapStatus 6)) ∧ (∀ b, x = .bank b → runMap s = .error b) := by
  subst he hg
  rw [runMap]
  simp only [hm, h, Bool.false_eq_true, if_false]
  cases x with
  | bank b => exact ⟨fun hno => absurd rfl (hno b), fun b' hb => by cases hb; rfl⟩
  | reason | poison => exact ⟨fun _ => rfl, nofun⟩

theorem runMap_fails {st : BitVec 8} (hm : mapMalformed e gfn = false) (h : mapFinds s e = (t, .ok dup)) (hf : mapFails t e gfn dup = some st) :
    runMap s = .ok (t.mapStatus st) := by
  subst he hg
  rw [runMap]
  simp only [hm, h, hf, Bool.false_eq_true, if_false]

theorem runMap_acts (hm : mapMalformed e gfn = false) (h : mapFinds s e = (t, .ok dup)) (hf : mapFails t e gfn dup = none) :
    runMap s = (alsoRows s (e.tableRows gfn ++ rowsOf e.anchor 8) t).map fun w => (w.installPage e gfn).mapStatus 0 := by
  subst he hg
  rw [runMap]
  simp only [hm, h, hf, Bool.false_eq_true, if_false]

end

theorem mapFails_reserved {t : State} {e : IptEntry} {gfn : Nat} (dup : Bool) (h : Config.reservedGfn < gfn + e.frames) :
    mapFails t e gfn dup = some 5 := by rw [mapFails, if_pos h]; rfl

/-- What MAP finds where its frames lie below the reserved ones (R135). -/
theorem mapFails_within {t : State} {e : IptEntry} {gfn : Nat} (dup : Bool) (h : gfn + e.frames ≤ Config.reservedGfn) :
    ((∃ i, i < e.frames ∧ ((t.ipt (gfn + i)).v = true ∨ (t.ipt (gfn + i)).cont = true)) → mapFails t e gfn dup = some 2) ∧
    ((∀ i, i < e.frames → (t.ipt (gfn + i)).v = false ∧ (t.ipt (gfn + i)).cont = false) →
      mapFails t e gfn dup = if dup then some 3 else none) := by
  rw [mapFails, if_neg (not_lt.mpr h)]
  refine ⟨fun ⟨i, hi, hused⟩ => ?_, fun hfree => ?_⟩
  · rw [if_pos (List.any_eq_true.mpr ⟨i, List.mem_range.mpr hi, Bool.or_eq_true_iff.mpr hused⟩)]; rfl
  · rw [if_neg]
    · rfl
    · rw [List.any_eq_true]
      rintro ⟨i, hi, hused⟩
      obtain ⟨hv, hc⟩ := hfree i (List.mem_range.mp hi)
      rw [hv, hc] at hused
      exact Bool.false_ne_true hused

/-! ## UNMAP and MODIFY (R135) -/

theorem State.mem_dropTlb {s : State} {p : TlbEntry → Bool} {x : TlbEntry} : x ∈ (s.dropTlb p).1.tlb ↔ x ∈ s.tlb ∧ ¬p x = true := by
  rw [State.dropTlb, List.mem_filter, Bool.not_eq_true, Bool.not_eq_true']

/-- A command that drops a page's translations waits for the accesses through them and through the page's frames. -/
theorem State.dropPage_eq (t : State) (gfn : Nat) (h : IptEntry) : ∃ l ws,
    t.dropPage gfn h = { t with tlb := l, mapcmd := { t.mapcmd with busy := true, waits := ws, again := false } } ∧
    (∀ x, x ∈ l ↔ x ∈ t.tlb ∧ ¬(x.cache ≠ .atc ∧ x.asid = h.asid ∧ x.vbase = h.va.toNat ∧ x.shift = pageShift h.size.toNat)) ∧
    ⟨false, gfn * 65536, h.frames * 65536, true⟩ ∈ ws :=
  ⟨_, _, rfl, fun x => State.mem_dropTlb.trans (by simp only [Bool.and_eq_true, bne_iff_ne, beq_iff_eq, and_assoc]), List.mem_cons_self⟩

section
variable {s t w : State} {gfn : Nat} (hg : s.mapcmd.gfn = gfn)
include hg

/-- UNMAP ends with the read of its frame's entry. -/
theorem runUnmap_unread {x : WalkErr} (h : s.headRead s gfn = (t, some x)) :
    ((∀ b, x ≠ .bank b) → runUnmap s = .ok (t.mapStatus 6)) ∧ (∀ b, x = .bank b → runUnmap s = .error b) := by
  subst hg
  rw [runUnmap]
  simp only [h]
  cases x with
  | bank b => exact ⟨fun hno => absurd rfl (hno b), fun b' hb => by cases hb; rfl⟩
  | reason | poison => exact ⟨fun _ => rfl, nofun⟩

variable (h : s.headRead s gfn = (t, none))
include h

theorem runUnmap_unmapped (hh : t.heads gfn = false) : runUnmap s = .ok (t.mapStatus 4) := by
  subst hg
  rw [runUnmap]
  simp only [h, hh]
  rfl

/-- UNMAP ends with its search for the entry before its page. -/
theorem runUnmap_stops {x : WalkErr} (hh : t.heads gfn = true) (hp : pageBefore t s gfn (t.ipt gfn) = (w, .error x)) :
    ((∀ b, x ≠ .bank b) → runUnmap s = .ok (w.mapStatus 6)) ∧ (∀ b, x = .bank b → runUnmap s = .error b) := by
  subst hg
  rw [runUnmap]
  simp only [h, hh, hp, Bool.not_true, Bool.false_eq_true, if_false]
  cases x with
  | bank b => exact ⟨fun hno => absurd rfl (hno b), fun b' hb => by cases hb; rfl⟩
  | reason | poison => exact ⟨fun _ => rfl, nofun⟩

theorem runUnmap_acts {prev : Option Nat} (hh : t.heads gfn = true) (hp : pageBefore t s gfn (t.ipt gfn) = (w, .ok prev)) : runUnmap s =
    (alsoRows s ((w.ipt gfn).unmapRows gfn prev) w).map fun z => (z.removePage gfn (z.ipt gfn) prev).dropPage gfn (z.ipt gfn) := by
  subst hg
  rw [runUnmap]
  simp only [h, hh, hp, Bool.not_true, Bool.false_eq_true, if_false]

end

theorem State.removePage_eq (z : State) (gfn : Nat) (h : IptEntry) (prev : Option Nat) : z.removePage gfn h prev =
    (List.range h.frames).foldl (fun s i => s.setIpt (gfn + i) ((s.ipt (gfn + i)).noCont.withV false))
      (prev.elim (z.setAnchor h.anchor h.next.toNat) fun f => z.setIpt f ((z.ipt f).withNext h.next.toNat)) := by
  cases prev <;> rfl

section
variable {s t : State} {e : IptEntry} {gfn : Nat} (he : s.mapcmd.image = e) (hg : s.mapcmd.gfn = gfn)
include he hg

omit he in
theorem runModify_unmapped (hh : s.heads gfn = false) : runModify s = .ok (s.mapStatus 4) := by
  subst hg
  rw [runModify]
  simp only [hh]
  rfl

theorem runModify_malformed (hh : s.heads gfn = true) (h : (s.ipt gfn ^^^ e) &&& ~~~modifyFree ≠ 0 ∨ 2 ≤ e.ppol.toNat) :
    runModify s = .ok (s.mapStatus 6) := by
  subst he hg
  rw [runModify]
  simp only [hh, Bool.not_true, Bool.false_eq_true, if_false]
  have hbad : (s.ipt s.mapcmd.gfn ^^^ s.mapcmd.image) &&& ~~~modifyFree ≠ 0 ∨ (1 : BitVec 2).ult s.mapcmd.image.ppol = true := h.imp_right fun hp => decide_eq_true hp
  rw [if_pos hbad]
  rfl

theorem runModify_acts (hh : s.heads gfn = true) (h : (s.ipt gfn ^^^ e) &&& ~~~modifyFree = 0) (hp : e.ppol.toNat ≤ 1) : runModify s =
    (alsoRows s (rowsOf (iptDpa gfn) 32) s).map fun t =>
      let t := (t.readSector (iptDpa gfn / 32) 12 0xFFFF).setIpt gfn ((s.ipt gfn &&& ~~~modifyMask) ||| (e &&& modifyMask))
      if ((s.ipt gfn).r && !e.r) || ((s.ipt gfn).w && !e.w) || ((s.ipt gfn).x && !e.x) then t.dropPage gfn (s.ipt gfn) else t.mapStatus 0 := by
  subst he hg
  rw [runModify]
  simp only [hh, Bool.not_true, Bool.false_eq_true, if_false]
  rw [if_neg]
  rintro (hne | hlt)
  · exact hne h
  · exact absurd (of_decide_eq_true hlt) (not_lt.mpr hp)

theorem runModify_ok {w : State} (hh : s.heads gfn = true) (h : (s.ipt gfn ^^^ e) &&& ~~~modifyFree = 0) (hp : e.ppol.toNat ≤ 1)
    (ht : alsoRows s (rowsOf (iptDpa gfn) 32) s = .ok t)
    (hw : w = (t.readSector (iptDpa gfn / 32) 12 0xFFFF).setIpt gfn ((s.ipt gfn &&& ~~~modifyMask) ||| (e &&& modifyMask))) :
    (((s.ipt gfn).r = true ∧ e.r = false) ∨ ((s.ipt gfn).w = true ∧ e.w = false) ∨ ((s.ipt gfn).x = true ∧ e.x = false) →
      runModify s = .ok (w.dropPage gfn (s.ipt gfn))) ∧
    (((s.ipt gfn).r = true → e.r = true) → ((s.ipt gfn).w = true → e.w = true) → ((s.ipt gfn).x = true → e.x = true) →
      runModify s = .ok (w.mapStatus 0)) := by
  rw [runModify_acts he hg hh h hp, ht, hw]
  refine ⟨fun hless => congrArg Except.ok (if_pos ?_), fun hr hw hx => congrArg Except.ok (if_neg ?_)⟩
  · simpa only [Bool.or_eq_true, Bool.and_eq_true, Bool.not_eq_true', or_assoc] using hless
  · rw [Bool.or_eq_true, Bool.or_eq_true, Bool.and_eq_true, Bool.and_eq_true, Bool.and_eq_true, Bool.not_eq_true', Bool.not_eq_true', Bool.not_eq_true']
    rintro ((⟨h1, h0⟩ | ⟨h1, h0⟩) | ⟨h1, h0⟩)
    · exact Bool.false_ne_true (h0.symm.trans (hr h1))
    · exact Bool.false_ne_true (h0.symm.trans (hw h1))
    · exact Bool.false_ne_true (h0.symm.trans (hx h1))

end

/-! ## FLUSHASID, RESUME and REFUSE (R135, R141) -/

theorem runFlushasid_eq {s : State} : ∃ l ws, runFlushasid s = { s with tlb := l, mapcmd := { s.mapcmd with busy := true, waits := ws, again := false } } ∧
    ∀ x, x ∈ l ↔ x ∈ s.tlb ∧ ¬(x.asid = s.mapcmd.cmd6.setWidth 16 ∧
      (s.mapcmd.cmd5 = 0 ∨ (x.vbase < s.mapcmd.cmd5.toNat * 65536 + 65536 ∧ s.mapcmd.cmd5.toNat * 65536 < x.vbase + 2 ^ x.shift))) :=
  ⟨_, _, rfl, fun x => State.mem_dropTlb.trans (by
    simp only [Bool.and_eq_true, Bool.or_eq_true, beq_iff_eq, decide_eq_true_eq, MapCmd.asid_eq])⟩

theorem State.takeFault_some {s : State} {f : PageFault}
    (h : s.faults.find? (fun f => f.asid == s.mapcmd.cmd6.setWidth 16 && f.vpage == s.mapcmd.cmd5.toNat) = some f) :
    s.takeFault = some (f, { s with faults := s.faults.filter fun g => !(g.asid == f.asid && g.vpage == f.vpage) }) := by
  rw [State.takeFault]
  simp only [MapCmd.asid_eq, h]

theorem State.takeFault_none {s : State} (h : ∀ f ∈ s.faults, f.asid ≠ s.mapcmd.cmd6.setWidth 16 ∨ f.vpage ≠ s.mapcmd.cmd5.toNat) :
    s.takeFault = none := by
  have hnone : s.faults.find? (fun f => f.asid == s.mapcmd.asid && f.vpage == s.mapcmd.cmd5.toNat) = none := by
    refine List.find?_eq_none.mpr fun f hf => ?_
    rw [MapCmd.asid_eq, Bool.and_eq_true, beq_iff_eq, beq_iff_eq]
    exact not_and_or.mpr (h f hf)
  rw [State.takeFault]
  simp only [hnone]

theorem Task.onPage_of_parked {t : Task} {a : BitVec 16} {p : Nat} (hst : t.st = .parked) (hw : t.wait = .page a p false) : t.onPage a p = true := by
  rw [Task.onPage, hst, hw]
  simp only [beq_self_eq_true, Bool.true_or, Bool.and_self]

/-! ## The statement -/

section
variable {s : State} (hon : s.mgmtOn = true) (hbusy : s.mapcmd.busy = false)
include hon hbusy

theorem execMap_runs (hop : s.mapcmd.cmd4.toNat / 2 ^ 60 = 1) : exec .map s = .next (mapTry runMap s.mapStarted) :=
  mapEvent_runs hon hbusy (beq_iff_eq.mpr hop)

theorem execUnmap_runs (hop : s.mapcmd.cmd4.toNat / 2 ^ 60 = 2) : exec .unmap s = .next (mapTry runUnmap s.mapStarted) :=
  mapEvent_runs hon hbusy (beq_iff_eq.mpr hop)

theorem execModify_runs (hop : s.mapcmd.cmd4.toNat / 2 ^ 60 = 3) : exec .modify s = .next (mapTry runModify s.mapStarted) :=
  mapEvent_runs hon hbusy (beq_iff_eq.mpr hop)

theorem execFlushasid_runs (hop : s.mapcmd.cmd4.toNat / 2 ^ 60 = 4) : exec .flushasid s = .next (runFlushasid s.mapStarted) :=
  mapEvent_runs hon hbusy (beq_iff_eq.mpr hop)

theorem execResume_runs (hop : s.mapcmd.cmd4.toNat / 2 ^ 60 = 5) : exec .resume s = .next (runResume s.mapStarted) :=
  mapEvent_runs hon hbusy (beq_iff_eq.mpr hop)

theorem execRefuse_runs (hop : s.mapcmd.cmd4.toNat / 2 ^ 60 = 6) : exec .refuse s = .next (runRefuse s.mapStarted) :=
  mapEvent_runs hon hbusy (beq_iff_eq.mpr hop)

theorem execMappingBadop_runs {op : Nat} (hop : s.mapcmd.cmd4.toNat / 2 ^ 60 = op) (h : op = 0 ∨ 6 < op) :
    exec .mappingBadop s = .next (s.mapStarted.mapStatus 1) := by
  subst hop
  exact mapEvent_runs (p := fun op => op == 0 || decide (6 < op)) hon hbusy (Bool.or_eq_true_iff.mpr (h.imp beq_iff_eq.mpr decide_eq_true))

end

theorem State.mapAgain_map {s : State} (hop : s.mapcmd.cmd4.toNat / 2 ^ 60 = 1) : s.mapAgain = mapTry runMap s := by
  rw [State.mapAgain, (MapCmd.op_eq _).trans hop]; rfl

theorem State.mapAgain_unmap {s : State} (hop : s.mapcmd.cmd4.toNat / 2 ^ 60 = 2) : s.mapAgain = mapTry runUnmap s := by
  rw [State.mapAgain, (MapCmd.op_eq _).trans hop]; rfl

theorem State.mapAgain_modify {s : State} (hop : s.mapcmd.cmd4.toNat / 2 ^ 60 = 3) : s.mapAgain = mapTry runModify s := by
  rw [State.mapAgain, (MapCmd.op_eq _).trans hop]; rfl

theorem execMapCmd_busy {s : State} (h : s.mapcmd.busy = true) : exec .map s = .next s ∧ exec .unmap s = .next s ∧ exec .modify s = .next s ∧
    exec .flushasid s = .next s ∧ exec .resume s = .next s ∧ exec .refuse s = .next s ∧ exec .mappingBadop s = .next s :=
  ⟨mapEvent_busy h, mapEvent_busy h, mapEvent_busy h, mapEvent_busy h, mapEvent_busy h, mapEvent_busy h, mapEvent_busy h⟩

/-- A command in progress goes on when it is tried again, and ends when what it waits for is over. -/
theorem mappingCommandComplete_eq {t : State} (h : t.mapcmd.busy = true) :
    (t.mapcmd.again = true → exec .mappingCommandComplete t = .next t.mapAgain) ∧
    (t.mapcmd.again = false → t.performedAll t.mapcmd.waits = true → (∀ o ∈ t.mapcmd.waits, t.rowsIn o = false) →
      exec .mappingCommandComplete t = .next (t.mapStatus 0)) ∧
    (t.mapcmd.again = false → t.performedAll t.mapcmd.waits = false → exec .mappingCommandComplete t = .next t) := by
  have heq : exec .mappingCommandComplete t = .next (if t.mapcmd.busy && t.mapcmd.again then t.mapAgain
    else if t.mapcmd.busy && t.performedAll t.mapcmd.waits && !(t.mapcmd.waits.any fun o => t.rowsIn o) then t.mapStatus 0 else t) := rfl
  rw [h] at heq
  refine ⟨fun ha => ?_, fun ha hall hrows => ?_, fun ha hall => ?_⟩
  · rw [heq, ha]; rfl
  · have hnone : (t.mapcmd.waits.any fun o => t.rowsIn o) = false := List.any_eq_false.mpr fun o ho => Bool.eq_false_iff.mp (hrows o ho)
    rw [heq, ha, hall, hnone]; rfl
  · rw [heq, ha, hall]; rfl

/-- Settles O57: each command by what it finds, on the state in which its write of CMD7 has started it. -/
theorem translationEvents : Obligations.translation_events := by
  unfold Obligations.translation_events
  intro s u m e gfn go done drops waits hp hs hb hbusy hm hu hgfn he hgo hdone hdrops hwaits
  obtain rfl : u = s.mapStarted := by rw [hu, hm]; rfl
  obtain rfl : m = s.mapStarted.mapcmd := hm
  have hg : s.mapStarted.mapcmd.gfn = gfn := (MapCmd.gfn_eq _).trans hgfn.symm
  subst hgo hdone hwaits hdrops
  have hon := State.mgmtOn_of hp hb
  refine ⟨fun t r hva hv hw => ?walks, fun h => (pageWalk_eq hp hs).trans (congrArg _ (State.walkInto_unwalked h)),
    fun c q x a sh va hc hq ha hx hsh hva hhalt hmiss => streamTlbWalkAhead_eq hc hq ha hx hsh hva hhalt hmiss, fun cache a va => ?keeps,
    fun h => pfheadWrite_queued hon h, fun f hf hone hen =>
      ⟨pfheadWrite_lone hon hf hone hen, pfheadWrite_full hon⟩,
    fun hop => ?map, fun hop => ?unmap, fun hop => ?modify, fun hop => ?mapAgain, fun hop => ?unmapAgain, fun hop => ?modifyAgain,
    fun hop => ?flushasid, fun f t hf ht => ?taken, fun a p c n va hst hw => ?faulter, fun hno => ?untaken, fun op hop hbad => ?badop,
    fun t ht => ?inProgress⟩
  case walks =>
    have h := State.walkInto_ends (cache := s.inp.cache) hva hv hw
    exact ⟨fun f hf => (pageWalk_eq hp hs).trans (congrArg _ (h.1 f hf)), fun x hx => (pageWalk_eq hp hs).trans (congrArg _ (h.2 x hx))⟩
  case keeps =>
    obtain ⟨hcores, hfaults⟩ := Prod.mk.inj (State.unitsFaults_walkInto s false cache a va)
    exact ⟨hfaults, hcores⟩
  case map =>
    have hmap := execMap_runs hon hbusy hop
    refine ⟨fun h => exec_of_tried_ok hmap (runMap_malformed he.symm hg h), fun t x hwell h => ?_, fun t dup hwell h => ⟨fun hres => ?_, fun hin => ?_⟩⟩
    · obtain ⟨hends, hbank⟩ := runMap_stops he.symm hg hwell h
      exact ⟨fun hno => exec_of_tried_ok hmap (hends hno), fun ⟨b, hb⟩ => exec_of_tried_error hmap (hbank b hb)⟩
    · exact exec_of_tried_ok hmap (runMap_fails he.symm hg hwell h (mapFails_reserved dup hres))
    · obtain ⟨hused, hfree⟩ := mapFails_within (t := t) (e := e) dup hin
      refine ⟨fun hi => exec_of_tried_ok hmap (runMap_fails he.symm hg hwell h (hused hi)), fun hi => ?_⟩
      have hacts := fun hdup : dup = false => runMap_acts he.symm hg hwell h ((hfree hi).trans (by rw [hdup]; rfl))
      exact ⟨fun hdup => exec_of_tried_ok hmap (runMap_fails he.symm hg hwell h ((hfree hi).trans (if_pos hdup))),
        fun b hdup hb => exec_of_tried_error hmap ((hacts hdup).trans (congrArg _ hb)),
        fun w hdup hw => exec_of_tried_ok hmap ((hacts hdup).trans (congrArg _ hw))⟩
  case unmap =>
    have hunmap := execUnmap_runs hon hbusy hop
    refine ⟨fun t x h => ?_, fun t h => ⟨fun hh => exec_of_tried_ok hunmap (runUnmap_unmapped hg h hh), fun w x hh hp => ?_, fun w prev hh hp => ?_⟩⟩
    · obtain ⟨hends, hbank⟩ := runUnmap_unread hg h
      exact ⟨fun hno => exec_of_tried_ok hunmap (hends hno), fun ⟨b, hb⟩ => exec_of_tried_error hunmap (hbank b hb)⟩
    · obtain ⟨hends, hbank⟩ := runUnmap_stops hg h hh hp
      exact ⟨fun hno => exec_of_tried_ok hunmap (hends hno), fun ⟨b, hb⟩ => exec_of_tried_error hunmap (hbank b hb)⟩
    · have hacts := runUnmap_acts hg h hh hp
      refine ⟨fun b hb => exec_of_tried_error hunmap (hacts.trans (congrArg _ hb)), ?_⟩
      rintro z _ hz rfl
      obtain ⟨l, ws, heq, hl, hws⟩ := ((z.removePage gfn (z.ipt gfn) prev).dropPage_eq gfn (z.ipt gfn))
      rw [← State.removePage_eq]
      exact ⟨l, ws, (exec_of_tried_ok hunmap (hacts.trans (congrArg _ hz))).trans (congrArg _ heq), hl, hws⟩
  case modify =>
    have hmodify := execModify_runs hon hbusy hop
    refine ⟨fun hh => exec_of_tried_ok hmodify (runModify_unmapped hg hh), ?_⟩
    rintro _ hh rfl
    refine ⟨fun h => exec_of_tried_ok hmodify (runModify_malformed he.symm hg hh h),
      fun b h hp hb => exec_of_tried_error hmodify ((runModify_acts he.symm hg hh h hp).trans (congrArg _ hb)), fun t w h hp ht hw => ?_⟩
    obtain ⟨hdrops, hends⟩ := runModify_ok he.symm hg hh h hp ht hw
    obtain ⟨l, ws, heq, hl, hws⟩ := w.dropPage_eq gfn (s.mapStarted.ipt gfn)
    exact ⟨fun hless => ⟨l, ws, (exec_of_tried_ok hmodify (hdrops hless)).trans (congrArg _ heq), hl, hws⟩,
      fun hr hw hx => exec_of_tried_ok hmodify (hends hr hw hx)⟩
  case mapAgain => exact (execMap_runs hon hbusy hop).trans (congrArg _ (State.mapAgain_map hop).symm)
  case unmapAgain => exact (execUnmap_runs hon hbusy hop).trans (congrArg _ (State.mapAgain_unmap hop).symm)
  case modifyAgain => exact (execModify_runs hon hbusy hop).trans (congrArg _ (State.mapAgain_modify hop).symm)
  case flushasid =>
    obtain ⟨l, ws, heq, hl⟩ := runFlushasid_eq (s := s.mapStarted)
    exact ⟨l, ws, (execFlushasid_runs hon hbusy hop).trans (congrArg _ heq), hl⟩
  case taken =>
    have htake : s.mapStarted.takeFault = some (f, t) := (State.takeFault_some hf).trans (by rw [ht]; rfl)
    exact ⟨fun hop => (execResume_runs hon hbusy hop).trans (by rw [runResume, htake]; rfl),
      fun hop => (execRefuse_runs hon hbusy hop).trans (by rw [runRefuse, htake]; rfl)⟩
  case faulter =>
    exact ⟨if_pos (Task.onPage_of_parked hst hw), if_pos (Task.onPage_of_parked hst hw)⟩
  case untaken =>
    have htake := State.takeFault_none (s := s.mapStarted) hno
    exact ⟨fun hop => (execResume_runs hon hbusy hop).trans (by rw [runResume, htake]; rfl),
      fun hop => (execRefuse_runs hon hbusy hop).trans (by rw [runRefuse, htake]; rfl)⟩
  case badop => exact execMappingBadop_runs hon hbusy hop hbad
  case inProgress =>
    obtain ⟨hagain, hover, hwait⟩ := mappingCommandComplete_eq ht
    exact ⟨hagain, hover, hwait, execMapCmd_busy ht⟩

end Sys2Proof.Machine
end

section
/-! SUPPORT. Semaphores and landing words (R166, R215 to R221, R241, R246, R248, R337, R338, R341, R342): what a wait takes and a signal adds, an unmet SYNC
wait, a landing word's count, an access of the scalar pipeline that goes through, and the statement O21. -/

namespace Sys2Proof.Machine

/-! ## What the wait leaves of the task (R216) -/

theorem Task.cnt_took (k : Task) (j : Cnt) (x : Option (BitVec 8 × Nat)) : ({ k with took := x } : Task).cnt j = k.cnt j := by cases j <;> rfl

theorem State.waited_cnt {s : State} {c n : Nat} {y : Sync} (h : Ready s c n y) (j : Cnt) :
    ((s.waited c n y).task c n).cnt j = (s.task c n).cnt j := by
  obtain ⟨-, ⟨x, hx⟩, -⟩ := State.waited_ready h
  rw [hx, Task.cnt_took]

/-- A wait that has taken nothing before takes its count and remembers it. -/
theorem State.waited_takes {s : State} {c n : Nat} {y : Sync} (h : Ready s c n y) (htook : (s.task c n).took = none) (hw : y.wcnt ≠ 0) :
    s.waited c n y = (s.takeSem c y.wsem.toNat y.wcnt.toNat).modTask c n fun t => { t with took := some (y.wsem, y.wcnt.toNat) } := by
  have hpos : y.wcnt.toNat ≠ 0 := fun e => hw (BitVec.eq_of_toNat_eq e)
  have hle : y.wcnt.toNat ≤ (s.sem c y.wsem.toNat).count.toNat := h.2.2.resolve_left (by rw [htook]; exact Bool.false_ne_true)
  simp only [State.waited, State.syncTake, State.semTake, htook, hw, hpos, hle, decide_false, Option.isSome_none, Bool.or_self,
    Bool.false_eq_true, if_false, if_true, Option.map_some, Option.getD_some]

theorem State.waited_none {s : State} {c n : Nat} {y : Sync} (hw : y.wcnt = 0) : s.waited c n y = s := by
  simp only [State.waited, State.syncTake, hw, decide_true, Bool.true_or, if_true, Option.getD_some]

/-- An instruction whose wait is not met is held and takes nothing (R166, R333). -/
theorem scalar_unmet {s : State} {c n : Nat} {y : Sync} {ill : Task → Bool} {body : Nat → Nat → State → Act} (hcur : s.cur = .task c n)
    (hill : ill (s.task c n) = false) (htook : (s.task c n).took = none) (hless : (s.sem c y.wsem.toNat).count.toNat < y.wcnt.toNat) :
    scalar ill y body s = .next (s.holdTask c n .waiting (.sync y.wsem y.wcnt.toNat)) := by
  have hpos : y.wcnt.toNat ≠ 0 := by omega
  have hw : y.wcnt ≠ 0 := fun e => hpos (by rw [e]; rfl)
  simp only [scalar, hcur, hill, State.syncTake, State.semTake, htook, hw, hpos, Nat.not_le.mpr hless, decide_false, Option.isSome_none,
    Bool.or_self, Bool.false_eq_true, if_false, Option.map_none]

/-! ## Counts of a semaphore (R215, R218) -/

theorem count_sub_eq {x : BitVec 16} {v : Nat} (h : v ≤ x.toNat) : x - BitVec.ofNat 16 v = BitVec.ofNat 16 (x.toNat - v) := by
  apply BitVec.eq_of_toNat_eq
  have := x.isLt
  simp only [BitVec.toNat_sub, BitVec.toNat_ofNat]
  omega

/-- A subtraction leaves 0 exactly when it takes the whole count. -/
theorem count_left_eq {x : BitVec 16} {v : Nat} (h : v ≤ x.toNat) : (BitVec.ofNat 16 (x.toNat - v) != 0) = decide (x.toNat ≠ v) := by
  have := x.isLt
  rw [Bool.eq_iff_iff, bne_iff_ne, decide_eq_true_eq, ne_eq, ← BitVec.toNat_inj, BitVec.toNat_ofNat]
  show ¬((x.toNat - v) % 2 ^ 16 = 0) ↔ _
  omega

theorem State.takeSem_eq {s : State} {c q v : Nat} {x : Sem} (hx : x = s.sem c q) (hv : v ≤ x.count.toNat) :
    s.takeSem c q v = s.setCore c { s.core c with
      sems := Tab.set (s.core c).sems q { x with count := BitVec.ofNat 16 (x.count.toNat - v), dev := x.dev && decide (x.count.toNat ≠ v) }
      dcache := if x.dev then [] else (s.core c).dcache } := by
  subst hx
  simp only [State.takeSem, State.modCore, count_sub_eq hv, count_left_eq hv]

theorem Sem.signal_eq (x : Sem) (v : Nat) : x.signal v =
    { x with count := BitVec.ofNat 16 (min (x.count.toNat + v) 65535), ovf := x.ovf || decide (65535 < x.count.toNat + v) } := by
  unfold Sem.signal
  split
  · next h => rw [Nat.min_eq_right h.le, decide_eq_true h, Bool.or_true]; rfl
  · next h => rw [Nat.min_eq_left (Nat.not_lt.mp h), decide_eq_false h, Bool.or_false, BitVec.ofNat_add, BitVec.ofNat_toNat, BitVec.setWidth_eq]

/-- Flags above a count of 16 bits, put beside it by OR, add up. -/
theorem count_or_flags (w : BitVec 16) {f : Nat} (hf : f < 4) : w.setWidth 64 ||| BitVec.ofNat 64 (f * 2 ^ 16) = BitVec.ofNat 64 (w.toNat + f * 2 ^ 16) := by
  have hw := w.isLt
  apply BitVec.eq_of_toNat_eq
  rw [BitVec.toNat_or, BitVec.toNat_setWidth, BitVec.toNat_ofNat, BitVec.toNat_ofNat, Nat.mod_eq_of_lt (by omega), Nat.mod_eq_of_lt (by omega),
    Nat.mod_eq_of_lt (by omega), ← Nat.shiftLeft_eq, Nat.or_comm, ← Nat.shiftLeft_add_eq_or_of_lt hw, Nat.add_comm]

/-- What SEMRD returns is the sum of its fields: the count, OVF and EXT (R338). -/
theorem semrd_value (w : BitVec 16) (ovf ext : Bool) : (w.setWidth 64 ||| (if ovf then 0x10000 else 0) ||| (if ext then 0x20000 else 0) : Word) =
    BitVec.ofNat 64 (w.toNat + (if ovf then 2 ^ 16 else 0) + (if ext then 2 ^ 17 else 0)) := by
  have hflags (f : Nat) (hf : f < 4) {a b : Nat} (hsum : f * 2 ^ 16 = a + b) :
      w.setWidth 64 ||| BitVec.ofNat 64 (f * 2 ^ 16) = BitVec.ofNat 64 (w.toNat + a + b) := by
    rw [count_or_flags w hf, hsum, Nat.add_assoc]
  rw [BitVec.or_assoc]
  cases ovf <;> cases ext
  · exact hflags 0 (by decide) rfl
  · exact hflags 2 (by decide) rfl
  · exact hflags 1 (by decide) rfl
  · exact hflags 3 (by decide) rfl

/-! ## The semaphore instructions (R337, R338) -/

section
variable {s s1 : State} {c n v : Nat} {y : Sync} {q : BitVec 8} {j : Cnt} {x : Sem} (h : Ready s c n y) (hs : s1 = s.waited c n y)
  (hv : v = (s.task c n).cnt j) (hx : x = s1.sem c q.toNat)
include h hs hv hx

theorem exec_semwait_taken {t : State} (ht : s1.semTake c q v = some t) :
    exec (.semwait y q j) s = .next (State.retired (if x.ext then t.invalidate c else t) c n y) := by
  subst hx hv hs
  rw [← State.waited_cnt h] at ht
  refine (scalar_ready h rfl).trans ?_
  simp only [ht]
  rfl

theorem exec_semwait_met (hle : v ≤ x.count.toNat) : exec (.semwait y q j) s = .next (State.retired
    (if v = 0 then (if x.ext then s1.setCore c { s1.core c with dcache := [] } else s1) else s1.setCore c { s1.core c with
      sems := Tab.set (s1.core c).sems q.toNat { x with
        count := BitVec.ofNat 16 (x.count.toNat - v), dev := x.dev && decide (x.count.toNat ≠ v) },
      dcache := if x.dev || x.ext then [] else (s1.core c).dcache }) c n y) := by
  have htaken (t : State) := exec_semwait_taken h hs hv hx (t := t)
  rw [State.semTake, ← hx, if_pos hle] at htaken
  by_cases h0 : v = 0
  · rw [htaken s1 (if_pos h0), if_pos h0]; rfl
  · rw [htaken _ (if_neg h0), if_neg h0, State.takeSem_eq hx hle, State.invalidate, State.modCore, State.setCore_setCore, State.core_setCore_same]
    cases x.ext <;> simp

theorem exec_semwait_unmet (hless : x.count.toNat < v) : exec (.semwait y q j) s = .next (s1.holdTask c n .waiting (.sem q v)) := by
  have htake : s1.semTake c q v = none := by
    rw [State.semTake, ← hx, if_neg (Nat.ne_zero_of_lt hless), if_neg (Nat.not_le.mpr hless)]
  subst hx hv hs
  rw [← State.waited_cnt h] at htake ⊢
  refine (scalar_ready h rfl).trans ?_
  simp only [htake]
  rfl

theorem exec_semsig : exec (.semsig y q j) s = .next (State.retired (if v = 0 then s1 else s1.setSem c q.toNat
    { x with count := BitVec.ofNat 16 (min (x.count.toNat + v) 65535), ovf := x.ovf || decide (65535 < x.count.toNat + v) }) c n y) := by
  rw [← Sem.signal_eq, hx, hv, ← State.waited_cnt h, hs]
  exact scalar_ready h rfl

theorem exec_semset : exec (.semset y q j) s = .next (State.retired (s1.setSem c q.toNat
    { x with count := BitVec.ofNat 16 (min v 65535), ovf := decide (65535 < v), dev := false }) c n y) := by
  rw [hx, hv, ← State.waited_cnt h, hs]
  exact scalar_ready h rfl

end

theorem exec_semrd {s s1 : State} {c n : Nat} {y : Sync} {d : SReg} {q : BitVec 8} {x : Sem} {w : BitVec 16} (h : Ready s c n y)
    (hs : s1 = s.waited c n y) (hx : x = s1.sem c q.toNat) (hw : w = x.count + (s1.task c n).tookOf q) :
    exec (.semrd y d q) s = .next (State.retired (s1.modTask c n fun t => t.setS d
      (BitVec.ofNat 64 (w.toNat + (if x.ovf then 2 ^ 16 else 0) + (if x.ext then 2 ^ 17 else 0)))) c n y) := by
  subst hs hx hw
  rw [← semrd_value]
  exact scalar_ready h rfl

theorem exec_semcfg {s : State} {c n : Nat} {y : Sync} {q : BitVec 8} {e : Bool} (h : Ready s c n y) (hill : (e && !(s.task c n).priv) = false) :
    exec (.semcfg y q e) s =
      .next (State.retired ((s.waited c n y).setSem c q.toNat { (s.waited c n y).sem c q.toNat with ext := e }) c n y) :=
  scalar_ready (ill := fun t => e && !t.priv) h hill

theorem exec_semcfg_illegal {s : State} {c n : Nat} {y : Sync} {q : BitVec 8} {e : Bool} (h : Ready s c n y)
    (hill : (e && !(s.task c n).priv) = true) : exec (.semcfg y q e) s = .next (s.issueTrap c n cILLEGAL 0 0) :=
  scalar_illegal (ill := fun t => e && !t.priv) h hill

/-- What the instruction's own wait has taken, added again, is what stood before it. -/
theorem State.count_before_wait {s s1 : State} {c n : Nat} {y : Sync} (q : BitVec 8) (h : Ready s c n y) (hs : s1 = s.waited c n y)
    (htook : (s.task c n).took = none) : (s1.sem c q.toNat).count + (s1.task c n).tookOf q = (s.sem c q.toNat).count := by
  subst hs
  by_cases hw : y.wcnt = 0
  · rw [State.waited_none hw, Task.tookOf, htook]; exact BitVec.add_zero _
  · rw [State.waited_takes h htook hw, State.sem_modTask, State.task_modTask_same, State.sem_takeSem, Task.tookOf]
    dsimp only
    by_cases hq : y.wsem = q
    · rw [if_pos hq, if_pos (congrArg BitVec.toNat hq.symm), hq, BitVec.sub_add_cancel]
    · rw [if_neg hq, if_neg fun e => hq (BitVec.eq_of_toNat_eq e.symm)]; exact BitVec.add_zero _

/-! ## Landing words (R221) -/

theorem LandingWord.add_bad {w : LandingWord} (k : Nat) (h : w.flags.getLsbD 7 = true) : w.add k = (w, 0) := by
  rw [LandingWord.add, if_pos h]

theorem LandingWord.add_reserved {w : LandingWord} (k : Nat) (h : w.flags.getLsbD 7 = false) (h1 : w.flags.extractLsb' 1 6 ≠ 0) :
    w.add k = ({ w with flags := w.flags ||| 0x80 }, 0) := by
  rw [LandingWord.add, if_neg (Bool.eq_false_iff.mp h), if_pos h1]

theorem LandingWord.add_untargeted {w : LandingWord} (k : Nat) (h : w.flags.getLsbD 7 = false) (h1 : w.flags.extractLsb' 1 6 = 0)
    (h0 : w.target = 0) : w.add k = ({ w with count := min (w.count + k) (2 ^ 48 - 1) }, 0) := by
  rw [LandingWord.add, if_neg (Bool.eq_false_iff.mp h), if_neg (not_not.mpr h1)]
  exact if_pos h0

theorem LandingWord.add_targeted {w : LandingWord} {k : Nat} (h : w.flags.getLsbD 7 = false) (h1 : w.flags.extractLsb' 1 6 = 0)
    (h0 : 0 < w.target) (hk : w.count + k < 2 ^ 48) : w.add k =
      ({ w with count := (w.count + k) % w.target, gen := w.gen + BitVec.ofNat 16 ((w.count + k) / w.target) }, (w.count + k) / w.target) := by
  have hmin : Nat.min (w.count + k) (2 ^ 48 - 1) = w.count + k := Nat.min_eq_left (by omega)
  rw [LandingWord.add, if_neg (Bool.eq_false_iff.mp h), if_neg (not_not.mpr h1)]
  dsimp only
  rw [hmin, if_neg h0.ne']

/-- A generation is reached for a target that lies less than half the numbers behind it (R341). -/
theorem reached_iff_cnt (g : BitVec 16) (t : Nat) : reached g (BitVec.ofNat 16 t) = true ↔ (g.toNat + 2 ^ 16 - t % 2 ^ 16) % 2 ^ 16 < 2 ^ 15 := by
  have := g.isLt
  rw [reached, BitVec.ult, decide_eq_true_eq, BitVec.toNat_sub, BitVec.toNat_ofNat]
  show _ < 2 ^ 15 ↔ _
  omega

/-! ## Accesses of the scalar pipeline that go through (R226, R308, R317, R342) -/

section
variable {s t : State} {c n : Nat} {va : Addr} {r w : Bool} {l : Pieces} {f : State → Pieces → Act}

theorem scalarAccess_through {k al : Nat} (halign : va.toNat % al = 0) (hr : resolve s (scalarAcc c (s.task c n).asid r w false) va k = (t, .ok l))
    (hlock : lockHit (t.core c).queue c l = none) : scalarAccess s c n va k al r w f = f t l := by
  rw [scalarAccess, scalarAccessAs, if_neg (not_not.mpr halign)]
  simp only [hr, hlock]

theorem lwAccess_through (halign : va.toNat % 16 = 0) (hva : vaRegion va = .scratch)
    (hr : resolve s (scalarAcc c (s.task c n).asid r w false) va 16 = (t, .ok l)) (hlock : lockHit (t.core c).queue c l = none) :
    lwAccess s c n va r w f = f t l := by
  rw [lwAccess, if_neg (not_not.mpr halign), if_neg (not_not.mpr hva), scalarAccess_through halign hr hlock]

theorem lwRead_through {g : State → LandingWord → Act} {x : LandingWord} (halign : va.toNat % 16 = 0) (hva : vaRegion va = .scratch)
    (hr : resolve s (scalarAcc c (s.task c n).asid true false false) va 16 = (t, .ok l)) (hlock : lockHit (t.core c).queue c l = none)
    (hclean : t.firstPoisonAll l = none) (hx : x = LandingWord.ofBits (BitVec.ofNat 128 (ofBytes (t.readAll l)))) (hgood : x.flags.getLsbD 7 = false) :
    lwRead s c n va g = g t x := by
  subst hx
  rw [lwRead, lwAccess_through halign hva hr hlock, hclean]
  exact if_neg (Bool.eq_false_iff.mp hgood)

end

/-! ## LWINIT, LWRD and LWWAIT (R342) -/

/-- The bytes that LWINIT writes, by its registers. -/
theorem LandingWord.bytes_init (b g : Word) (sem flags : BitVec 8) :
    LandingWord.bytes { target := b.toNat % 2 ^ 48, count := 0, gen := g.extractLsb' 0 16, sem := sem, flags := flags } =
      toBytes (b.toNat % 2 ^ 48) 6 ++ toBytes 0 6 ++ toBytes (g.toNat % 2 ^ 16) 2 ++ [sem, flags] := by
  rw [LandingWord.bytes, toNat_extractLsb', pow_zero, Nat.div_one]

section
variable {s s1 : State} {c n : Nat} {y : Sync} {k : Task} {a : AReg} {l : Pieces} {va : Addr} (h : Ready s c n y) (hk : k = s.task c n)
  (halign : va.toNat % 16 = 0) (hregion : vaRegion va = .scratch) (hlock : lockHit (s1.core c).queue c l = none)
include h hk halign hregion hlock

theorem exec_lwinit (hva : va = k.areg a) (b g : SReg) (sem : Option (BitVec 8)) {u : State}
    (hr : resolve (s.waited c n y) (scalarAcc c k.asid false true false) va 16 = (s1, .ok l))
    (hu : u = (s1.writeAll l (toBytes ((k.sreg b).toNat % 2 ^ 48) 6 ++ toBytes 0 6 ++ toBytes ((k.sreg g).toNat % 2 ^ 16) 2 ++
      [sem.getD 0, if sem.isSome then 1 else 0])).modCore c fun m => { m with lwDev := m.lwDev.del (va.toNat % 2 ^ 26) }) :
    exec (.lwinit y a b g sem) s = .next (State.retired
      (match sem with | some q => u.setSem c q.toNat { u.sem c q.toNat with ext := true } | none => u) c n y) := by
  obtain ⟨-, ⟨x, hx⟩, -⟩ := State.waited_ready h
  subst hk hva
  have hoff : ((s.task c n).areg a).toNat % 2 ^ 26 = (((s.task c n).areg a).extractLsb' 0 26).toNat := by
    rw [toNat_extractLsb', pow_zero, Nat.div_one]
  rw [← LandingWord.bytes_init, hoff] at hu
  subst hu
  refine (scalar_ready h rfl).trans ?_
  rw [hx]
  refine congrArg (fun a => Host.Outcome.next (Act.run y c n a)) ((lwAccess_through halign hregion ?_ hlock).trans ?_)
  · rw [hx]; exact hr
  · cases sem <;> rfl

variable {w : LandingWord} (hr : resolve (s.waited c n y) (scalarAcc c k.asid true false false) va 16 = (s1, .ok l))
  (hclean : s1.firstPoisonAll l = none) (hw : w = LandingWord.ofBits (BitVec.ofNat 128 (ofBytes (s1.readAll l)))) (hgood : w.flags.getLsbD 7 = false)
include hr hclean hw hgood

/-- The read of a landing word that goes through. -/
theorem lwRead_waited (f : State → LandingWord → Act) : lwRead (s.waited c n y) c n va f = f s1 w := by
  obtain ⟨-, ⟨x, hx⟩, -⟩ := State.waited_ready h
  refine lwRead_through halign hregion ?_ hlock hclean hw hgood
  rw [hx, ← hr, hk]

theorem exec_lwrd (hva : va = k.areg a) (d : SReg) : exec (.lwrd y d a) s = .next (State.retired
    ((s1.invalidate c).modTask c n (·.setS d (BitVec.ofNat 64 (w.count * 2 ^ 16 + w.gen.toNat)))) c n y) := by
  obtain ⟨-, ⟨x, hx⟩, -⟩ := State.waited_ready h
  have hread := lwRead_waited h hk halign hregion hlock hr hclean hw hgood
  subst hk hva
  refine (scalar_ready h rfl).trans ?_
  rw [hx]
  exact congrArg (fun a => Host.Outcome.next (Act.run y c n a)) (hread _)

theorem exec_lwwait (hva : va = k.areg a) (d : SReg) (j : Cnt) : exec (.lwwait y d a j) s = .next (
    if reached w.gen (BitVec.ofNat 16 (k.cnt j)) then
      State.retired ((s1.invalidate c).modTask c n (·.setS d (BitVec.ofNat 64 w.gen.toNat))) c n y
    else s1.holdTask c n .waiting (.landing va (BitVec.ofNat 16 (k.cnt j)))) := by
  obtain ⟨-, ⟨x, hx⟩, -⟩ := State.waited_ready h
  have hread := lwRead_waited h hk halign hregion hlock hr hclean hw hgood
  subst hk hva
  refine (scalar_ready h rfl).trans ?_
  rw [hx, Task.cnt_took]
  refine (congrArg (fun a => Host.Outcome.next (Act.run y c n a)) (hread _)).trans ?_
  simp only [Task.cnt_took, BitVec.ofNat_toNat]
  split <;> rfl

end

/-! ## The statement -/

/-- Settles O21: each instruction in the state after its wait, an unmet wait, a landing word's count by its flags and target, and the accesses to a landing
word that go through. -/
theorem semaphoresAndLandingWords : Obligations.semaphores_and_landing_words := by
  refine ⟨?semaphores, ?unmet, ?count, ?landing⟩
  case semaphores =>
    intro s s1 c n y q j d v x w h hs hv hx hw
    refine ⟨exec_semwait_met h hs hv hx, exec_semwait_unmet h hs hv hx, exec_semsig h hs hv hx, exec_semset h hs hv hx, exec_semrd h hs hx hw,
      fun htook => ?_, fun hp => ?_, fun hp => exec_semcfg_illegal h (by rw [hp]; rfl), ?_⟩
    · rw [hw, hx]; exact State.count_before_wait q h hs htook
    · rw [hx, hs]; exact exec_semcfg h (by rw [hp]; rfl)
    · rw [hx, hs]; exact exec_semcfg h rfl
  case unmet =>
    intro s c n y d a b q hcur htook hless
    have htask : (s.holdTask c n .waiting (.sync y.wsem y.wcnt.toNat)).task c n =
        { (s.task c n).startWait (s.now c) with st := .waiting, wait := .sync y.wsem y.wcnt.toNat } := State.task_modTask_same ..
    refine ⟨_, scalar_unmet hcur rfl htook hless, scalar_unmet hcur rfl htook hless, scalar_unmet hcur rfl htook hless, ?_⟩
    rw [htask]
    exact ⟨rfl, rfl, rfl, rfl, rfl, fun r => State.sem_modTask .., .modTask ..⟩
  case count =>
    intro w k hcount
    refine ⟨LandingWord.add_bad k, LandingWord.add_reserved k, LandingWord.add_untargeted k, fun h h1 h0 hk => ?_⟩
    rw [LandingWord.add_targeted h h1 h0 hk]
    exact ⟨Nat.mod_add_div' .., Nat.mod_lt _ h0, rfl, rfl, rfl⟩
  case landing =>
    intro s s1 c n y d b g a q j l va k w u h hk hva halign hregion hlock
    refine ⟨fun hr => ⟨exec_lwinit h hk halign hregion hlock hva b g none hr rfl, _, rfl,
      exec_lwinit h hk halign hregion hlock hva b g (some q) hr rfl⟩, ?_⟩
    rintro hr hclean hw hgood rfl
    have hwait := exec_lwwait h hk halign hregion hlock hr hclean hw hgood hva d j
    refine ⟨exec_lwrd h hk halign hregion hlock hr hclean hw hgood hva d, fun hreached => ?_, fun hfar => ?_⟩
    · rw [hwait, if_pos ((reached_iff_cnt ..).mpr hreached)]; rfl
    · rw [hwait, if_neg fun hr => absurd ((reached_iff_cnt ..).mp hr) (Nat.not_lt.mpr hfar)]

end Sys2Proof.Machine
end

section
/-! SUPPORT. Barriers (R168, R343): an arrival by the bits of its mask, the instructions in the state after their wait, and the statement O24. -/

namespace Sys2Proof.Machine

/-! ## An arrival -/

/-- The bit of a slot in a mask. -/
theorem getLsbD_slotBit {n : Nat} (hn : n < 8) (j : Nat) : ((1 : BitVec 8) <<< n).getLsbD j = decide (j = n) := by
  rw [show (1 : BitVec 8) <<< n = BitVec.twoPow 8 n from rfl, BitVec.getLsbD_twoPow, decide_eq_true hn, Bool.true_and]
  exact decide_eq_decide.mpr eq_comm

/-- A mask has no bit of a slot exactly when they have no bit in common. -/
theorem and_slotBit_eq_zero {n : Nat} (hn : n < 8) (m : BitVec 8) : m &&& (1 : BitVec 8) <<< n = 0 ↔ m.getLsbD n = false := by
  constructor
  · intro h
    have hbit := congrArg (BitVec.getLsbD · n) h
    rwa [BitVec.getLsbD_and, getLsbD_slotBit hn, decide_eq_true rfl, Bool.and_true, BitVec.ofNat_eq_ofNat, BitVec.getLsbD_zero] at hbit
  · intro h
    apply BitVec.eq_of_getLsbD_eq
    intro j _
    rw [BitVec.getLsbD_and, getLsbD_slotBit hn, BitVec.ofNat_eq_ofNat, BitVec.getLsbD_zero]
    by_cases hj : j = n
    · rw [hj, h, Bool.false_and]
    · rw [decide_eq_false hj, Bool.and_false]

/-- The arrived mask with a member's arrival. -/
def Barrier.withArrival (o : Barrier) (n : Nat) : BitVec 8 :=
  if o.member &&& (1 : BitVec 8) <<< n = 0 then o.arrived else o.arrived ||| (1 : BitVec 8) <<< n

theorem Barrier.getLsbD_withArrival (o : Barrier) {n : Nat} (hn : n < 8) (j : Nat) :
    (o.withArrival n).getLsbD j = (o.arrived.getLsbD j || (decide (j = n) && o.member.getLsbD n)) := by
  rw [Barrier.withArrival]
  split
  · next h => rw [(and_slotBit_eq_zero hn _).mp h, Bool.and_false, Bool.or_false]
  · next h => rw [BitVec.getLsbD_or, getLsbD_slotBit hn, Bool.eq_true_of_not_eq_false fun e => h ((and_slotBit_eq_zero hn _).mpr e), Bool.and_true]

theorem Barrier.arrive_eq (o : Barrier) (n : Nat) : o.arrive n =
    if o.withArrival n = o.member then { o with arrived := 0, phase := !o.phase } else { o with arrived := o.withArrival n } := rfl

theorem Barrier.met_iff (o : Barrier) (p : Bool) : o.met p = true ↔ o.phase ≠ p ∨ o.member = 0 := by
  rw [Barrier.met, Bool.or_eq_true, bne_iff_ne, beq_iff_eq]

/-! ## The instructions (R343) -/

section
variable {s s1 : State} {c n : Nat} {y : Sync} {b : BarReg} {o : Barrier} (h : Ready s c n y) (hs : s1 = s.waited c n y) (ho : o = s1.bar c b.val)
include h hs ho

theorem exec_barinit_imm (m : BitVec 8) : exec (.barinit y b (.imm m)) s =
    .next (State.retired (s1.setBar c b.val { member := m &&& s1.slotMask c, arrived := 0, phase := o.phase }) c n y) := by
  subst hs ho
  exact scalar_ready h rfl

theorem exec_barinit_reg (r : SReg) : exec (.barinit y b (.reg r)) s = .next (State.retired (s1.setBar c b.val
    { member := ((s.task c n).sreg r).extractLsb' 0 8 &&& s1.slotMask c, arrived := 0, phase := o.phase }) c n y) := by
  rw [← State.waited_sreg h r]
  subst hs ho
  exact scalar_ready h rfl

theorem exec_bararr (d : SReg) : exec (.bararr y d b) s =
    .next (State.retired ((s1.setBar c b.val (o.arrive n)).modTask c n (·.setS d (if o.phase then 1 else 0))) c n y) := by
  subst hs ho
  exact scalar_ready h rfl

theorem runs_barwait_met {r : SReg} (hmet : o.met (((s.task c n).sreg r).getLsbD 0) = true) : Runs s c n y (.barwait y b r) id := by
  obtain ⟨t, ht, he⟩ := scalar_skip_effect h (ill := legal) rfl
  refine ⟨t, ?_, he⟩
  rw [← ht, scalar_ready h rfl]
  rw [← State.waited_sreg h r] at hmet
  subst hs ho
  refine (scalar_ready h rfl).trans ?_
  simp only [hmet, if_true]

theorem exec_barwait_unmet {r : SReg} {p : Bool} (hp : ((s.task c n).sreg r).getLsbD 0 = p) (hmet : o.met p = false) :
    exec (.barwait y b r) s = .next (s1.holdTask c n .waiting (.barrier b p)) := by
  subst hp
  rw [← State.waited_sreg h r] at hmet ⊢
  subst hs ho
  refine (scalar_ready h rfl).trans ?_
  simp only [hmet, Bool.false_eq_true, if_false]
  rfl

end

/-- Settles O24: each instruction in the state after its wait, and an arrival by the bits of the arrived mask. -/
theorem barriers : Obligations.barriers := by
  intro s s1 c n y b m r d o h hn hs ho
  refine ⟨exec_barinit_imm h hs ho m, exec_barinit_reg h hs ho r,
    ⟨o.arrive n, o.withArrival n, exec_bararr h hs ho d, fun j _ => o.getLsbD_withArrival hn j, o.arrive_eq n⟩,
    fun hgo => runs_barwait_met h hs ho ((o.met_iff _).mpr hgo),
    fun hphase hmember => exec_barwait_unmet h hs ho hphase.symm (Bool.eq_false_iff.mpr fun hmet => ?_)⟩
  exact ((o.met_iff _).mp hmet).elim (· rfl) hmember

end Sys2Proof.Machine
end

section
/-! SUPPORT. The entry to a trap handler (R166, R170, R178 to R180, R217): what the return of a count leaves, the entry that is delivered and the one that is
not, and the statement O27. -/

namespace Sys2Proof.Machine

/-! ## The return of a count (R217) -/

section
variable {s : State} {c n : Nat}

/-- The task after a count has gone back: nothing of it but its mark of the count has changed. -/
theorem State.task_returnTook (s : State) (c n : Nat) :
    ∃ b, (s.returnTook c n).task c n = { s.task c n with took := none, pastSync := b } := by
  unfold State.returnTook
  split
  · refine ⟨false, ?_⟩
    dsimp only
    split
    · rw [State.task_modTask_same]
    · rw [State.task_signal, State.task_modTask_same]
  · next h =>
    have htook : (s.task c n).took = none := by
      rw [Bool.or_eq_true, not_or] at h
      exact Option.not_isSome_iff_eq_none.mp h.1
    exact ⟨(s.task c n).pastSync, by rw [← htook]⟩

theorem Sem.signal_zero (x : Sem) : x.signal 0 = x := by
  have hcount := x.count.isLt
  rw [Sem.signal, if_neg (by omega)]
  exact congrArg (fun k => { x with count := k }) (BitVec.add_zero _)

theorem State.returnTook_none (hpast : (s.task c n).pastSync = false) (htook : (s.task c n).took = none) : s.returnTook c n = s := by
  rw [State.returnTook, hpast, htook]; rfl

theorem State.returnTook_some (hpast : (s.task c n).pastSync = false) {q : BitVec 8} {j : Nat} (htook : (s.task c n).took = some (q, j)) :
    s.returnTook c n = (s.modTask c n fun t => { t with took := none, pastSync := false }).signal c q j := by
  rw [State.returnTook, State.tookAt, hpast, htook]; rfl

end

/-! ## The entry (R179, R180) -/

@[simp] theorem State.task_trapEvent (s : State) (c n d m : Nat) (code sub : BitVec 8) (o : Nat) (a : Addr) (e : Nat) :
    (s.trapEvent c n code sub o a e).task d m = s.task d m := rfl

/-- A trap outside a handler, HBASE set: the task is in its handler (R179). -/
theorem State.task_enterTrap {s : State} {c n : Nat} (x : Trap) (hin : (s.task c n).inh = false) (hbase : (s.task c n).hbase ≠ 0) :
    ∃ b, (s.enterTrap c n x).task c n = { (s.task c n).endWait with
      took := none, pastSync := b, st := .ready, esw := x.esw (s.task c n).priv, epc := x.epc
      ecause := BitVec.ofNat 64 (x.sub.toNat * 256 + x.code.toNat), eaddr := x.addr, ecp := BitVec.ofNat 64 x.ecp, esp := BitVec.ofNat 64 x.esp
      inh := true, frozenEng := if x.frozen then x.eng else none, pc := (s.task c n).hbase } := by
  obtain ⟨b, hb⟩ := State.task_returnTook s c n
  have hgo : ((s.task c n).inh || (s.task c n).hbase == 0) = false := by rw [hin, Bool.false_or]; exact beq_eq_false_iff_ne.mpr hbase
  refine ⟨b, ?_⟩
  simp only [State.enterTrap, hb, hgo, Bool.false_eq_true, if_false, State.task_modTask_same, State.task_trapEvent]
  rfl

/-- A trap in a handler, or with HBASE zero, is recorded so, and ends the task's sweep (R170, R179). -/
theorem State.enterTrap_undelivered {s : State} {c n : Nat} (x : Trap) (h : (s.task c n).inh = true ∨ (s.task c n).hbase = 0) :
    s.enterTrap c n x = (((s.returnTook c n).trapEvent c n x.code x.sub 2 x.addr (match x.eng with | some e => e.code | none => 0)).modTask c n
      fun t => { t with st := .trapped }).endSweep (s.task c n).sweep 1 0x10 := by
  obtain ⟨b, hb⟩ := State.task_returnTook s c n
  have hstop : ((s.task c n).inh || (s.task c n).hbase == 0) = true := by rwa [Bool.or_eq_true, beq_iff_eq]
  simp only [State.enterTrap, State.notDelivered, hb, hstop, if_true, State.task_modTask_same, State.task_trapEvent] <;> rfl

/-- Settles O27: the task that the entry leaves, a trap that is not delivered, and the count that goes back first. -/
theorem trapEntry : Obligations.trap_entry := by
  refine ⟨?delivered, ?undelivered, ?count⟩
  case delivered =>
    rintro s c n code sub addr epc _ u rfl hin hbase rfl
    obtain ⟨b, hb⟩ := State.task_enterTrap { code := code, sub := sub, addr := addr, epc := epc } hin hbase
    rw [hb]
    exact ⟨BitVec.or_zero, rfl, rfl, rfl, rfl, rfl, rfl, rfl, rfl, rfl, rfl, rfl, rfl, rfl, rfl, rfl, rfl, rfl, rfl, rfl, rfl⟩
  case undelivered =>
    rintro s _ c n x _ rfl h rfl
    exact State.enterTrap_undelivered x h
  case count =>
    rintro s _ c n q j rfl hpast
    refine ⟨State.returnTook_none hpast, fun htook => ?_⟩
    rw [State.returnTook_some hpast htook]
    refine ⟨?_, fun r => ?_, (OnlyTask.modTask ..).trans (.signal ..)⟩
    · rw [State.task_signal, State.task_modTask_same, ← hpast]
    · rw [State.sem_signal, State.sem_modTask, ← Sem.signal_eq]
      by_cases hj : j = 0
      · rw [hj, Sem.signal_zero, ite_self, ite_self]
      · exact if_congr (and_iff_left hj).symm rfl rfl

end Sys2Proof.Machine
end

section
/-! SUPPORT. SPAWN, YIELD, SETCLASS and TEXIT (R152 to R157, R171, R237, R345 to R348): a record that is read and checked, the class that SETCLASS
writes, and the statement O25. -/

namespace Sys2Proof.Machine

theorem OnlyTask.poolFull {s t : State} {c n : Nat} (h : OnlyTask s c n t) (child : Bool) : t.poolFull child = s.poolFull child := by
  rw [h.device]; rfl

/-! ## SPAWN (R345) -/

section
variable {s s1 : State} {c n : Nat} {y : Sync} {a : AReg} {l : Pieces} {k : Task} (h : Ready s c n y)
include h

theorem exec_spawn_full (d : SReg) (hfull : s.poolFull true = true) :
    exec (.spawn y d a) s = .next ((s.waited c n y).issueTrap c n cSPAWNFULL 0 0) := by
  rw [← (State.waited_ready h).1.poolFull] at hfull
  refine (scalar_ready h rfl).trans ?_
  simp only [hfull, if_true]
  rfl

variable (hk : k = s.task c n) (hroom : s.poolFull true = false) (halign : (k.areg a).toNat % 128 = 0)
  (hr : resolve (s.waited c n y) (scalarAcc c k.asid true false false) (k.areg a) 128 = (s1, .ok l))
  (hlock : lockHit (s1.core c).queue c l = none) (hclean : s1.firstPoisonAll l = none)
  {w : SweepRec} {s2 : State} (hw : w = SweepRec.parse (s1.readAll l)) (hs2 : s2 = s1.refresh c l)
include hk hroom halign hr hlock hclean hw hs2

/-- A record that is read goes into the pool or the queue, or its NOTIFY word says why not. -/
theorem exec_spawn_read (d : SReg) :
    (checkRec s2 w true k.ceil k.priv = none → exec (.spawn y d a) s = .next (State.retired ((s2.accept w k.asid (.child k.sweep)).1.modTask c n
      (·.setS d (BitVec.ofNat 64 (s2.accept w k.asid (.child k.sweep)).2.toNat))) c n y)) ∧
    ∀ code, checkRec s2 w true k.ceil k.priv = some code → exec (.spawn y d a) s =
      .next (State.retired ((s2.writeWord k.asid w.notify code 0 0).modTask c n (·.setS d 0xFFFFFFFF)) c n y) := by
  obtain ⟨honly, ⟨x, hx⟩, -⟩ := State.waited_ready h
  subst hk hw hs2
  obtain ⟨hareg, hasid, hceil, hpriv, hsweep⟩ : ((s.waited c n y).task c n).areg a = (s.task c n).areg a ∧
      ((s.waited c n y).task c n).asid = (s.task c n).asid ∧ ((s.waited c n y).task c n).ceil = (s.task c n).ceil ∧
      ((s.waited c n y).task c n).priv = (s.task c n).priv ∧ ((s.waited c n y).task c n).sweep = (s.task c n).sweep := by
    rw [hx]; exact ⟨rfl, rfl, rfl, rfl, rfl⟩
  rw [← honly.poolFull] at hroom
  rw [← hasid] at hr
  refine ⟨fun hok => ?_, fun code hno => ?_⟩ <;> refine (scalar_ready h rfl).trans ?_ <;>
    simp only [hroom, Bool.false_eq_true, if_false, hareg, scalarAccess_through halign hr hlock, hclean, hasid, hceil, hpriv, hsweep]
  · rw [hok, BitVec.ofNat_toNat]; rfl
  · rw [hno]; rfl

end

/-! ## SETCLASS (R347) -/

/-- A task of class `v`, but of no class above its sweep's ceiling, which s[D] tells. -/
def Task.classSet (d : SReg) (v : Task → Nat) (t : Task) : Task :=
  { t with cls := BitVec.ofNat 2 (max (v t) t.ceil.toNat) }.setS d (BitVec.ofNat 64 (max (v t) t.ceil.toNat))

/-- The class written is below 4, so that s[D] holds it whole. -/
theorem setWidth_class {v : Nat} (hv : v ≤ 3) (ceil : BitVec 2) :
    (BitVec.ofNat 2 (max v ceil.toNat)).setWidth 64 = BitVec.ofNat 64 (max v ceil.toNat) := by
  have hceil := ceil.isLt
  apply BitVec.eq_of_toNat_eq
  rw [BitVec.toNat_setWidth, BitVec.toNat_ofNat, BitVec.toNat_ofNat, Nat.mod_eq_of_lt (b := 2 ^ 2) (by omega)]

theorem runs_classSet {s : State} {c n : Nat} {y : Sync} {i : Instr} {d : SReg} {v w : Task → Nat} (h : Ready s c n y)
    (hi : exec i s = regOp y (fun t => { t with cls := BitVec.ofNat 2 (max (min (w t) 3) t.ceil.toNat) }.setS d
      ((BitVec.ofNat 2 (max (min (w t) 3) t.ceil.toNat)).setWidth 64)) s)
    (hv : ∀ t, v t = min (w t) 3) (htook : ∀ t x, v { t with took := x } = v t) : Runs s c n y i (Task.classSet d v) := by
  have hset : (fun t : Task => { t with cls := BitVec.ofNat 2 (max (min (w t) 3) t.ceil.toNat) }.setS d
      ((BitVec.ofNat 2 (max (min (w t) 3) t.ceil.toNat)).setWidth 64)) = Task.classSet d v := by
    funext t
    rw [Task.classSet, hv, setWidth_class (min_le_right _ 3)]
  rw [Runs, hi, hset]
  refine regOp_effect h (fun x => ?_) (by simp [Task.classSet])
  simp only [Task.classSet, htook]
  unfold Task.setS
  split <;> rfl

/-! ## TEXIT (R348) -/

theorem exec_texit {s s1 : State} {c n : Nat} {y : Sync} (h : Ready s c n y) (hs1 : s1 = (s.waited c n y).discardFrozen c n) :
    exec (.texit y) s = .next (if s1.taskQuiet c n then ((s1.finishIteration c n).issued c n).signal c y.ssem y.sinc.toNat
      else s1.holdTask c n .waiting .texit) := by
  subst hs1
  refine (scalar_ready h rfl).trans ?_
  dsimp only
  split <;> rfl

/-- Settles O25: SPAWN by the pool's room and the checks of its record, YIELD and SETCLASS by their function on the task, TEXIT by whether the task is quiet. -/
theorem sweepInstructions : Obligations.sweep_instructions := by
  intro s s1 s2 c n y d r a x l k w code id h hk
  refine ⟨fun hroom halign hr hlock hclean hw hs2 => ?spawn, exec_spawn_full h d, regOp_effect h (fun _ => rfl) rfl, ?classImm, ?classReg,
    fun hs1 hquiet => ?_, fun hs1 hquiet => ?_⟩
  case spawn =>
    obtain ⟨haccepts, hrefuses⟩ := exec_spawn_read h hk hroom halign hr hlock hclean hw hs2 d
    refine ⟨?_, hrefuses code⟩
    rintro hok rfl
    exact haccepts hok
  case classImm =>
    exact runs_classSet (v := fun _ => x.toNat) (w := fun _ => x.toNat) h rfl
      (fun _ => (Nat.min_eq_left (by have := x.isLt; omega)).symm) fun _ _ => rfl
  case classReg =>
    exact runs_classSet (v := fun t => min (t.sreg r).toNat 3) (w := fun t => (t.sreg r).toNat) h rfl (fun _ => rfl) fun _ _ => rfl
  all_goals rw [exec_texit h hs1, hquiet]; rfl

end Sys2Proof.Machine
end

section
/-! SUPPORT. One step (R167, R177, R208, R241, R287, R306, R361, R425): the turn of a unit whose task is chosen and reads its word, of a RUNNING thread and of
an event, and the statement O1. -/

namespace Sys2Proof.Machine

/-! ## Decoding and the fetch (R208) -/

/-- Only a well-formed instruction is decoded. -/
theorem wf_of_decode {w : InstrWord} {i : Instr} (h : decode w = .ok i) : i.wf = true := by
  rw [decode] at h
  split at h
  · next j _ =>
    cases hj : j.wf with
    | true => rw [hj, cond_true] at h; obtain rfl := Except.ok.inj h; exact hj
    | false => rw [hj, cond_false] at h; cases h
  · cases h

section
variable {s v : State} {c n : Nat} {k : Task} (hk : k = s.task c n)
include hk

/-- A word that the unit's instruction memory holds is fetched from there. -/
theorem fetch_imem {w : InstrWord} (h : (s.core c).imem.find? (fun e => e.1 == k.pc.toNat) = some (k.pc.toNat, w)) : fetch s c n = .ok (s, w) := by
  subst hk
  simp only [fetch, h]

/-- Any other is the 12 bytes at the PC, and the unit's instruction memory takes it. -/
theorem fetch_memory {l : Pieces} (hnew : ∀ x ∈ (s.core c).imem, x.1 ≠ k.pc.toNat) (hsp : vaRegion k.pc ≠ .scratch)
    (hr : resolve s (scalarAcc c k.asid false false true) k.pc 12 = (v, .ok l)) (hclean : v.firstPoisonAll l = none) :
    fetch s c n = .ok (v.modCore c fun m => { m with imem := Tab.set m.imem k.pc.toNat (BitVec.ofNat 96 (ofBytes (v.readAll l))) },
      BitVec.ofNat 96 (ofBytes (v.readAll l))) := by
  subst hk
  simp only [fetch, find?_imem_none hnew, if_neg hsp, hr, hclean]
  rfl

end

theorem State.task_setImem (s : State) (c n : Nat) (f : Core → Tab InstrWord) : (s.modCore c fun m => { m with imem := f m }).task c n = s.task c n := by
  rw [State.task, State.core_modCore_same]; rfl

/-! ## The turns -/

section
variable {s t u : State} {c n : Nat} (hturn : s.tick.nextTurn = (.unit c, t)) (hrun : t.frozenUnit c = false)
  (hgo : (t.prepare c).frozenUnit c = false) (hchosen : (t.prepare c).choose c = some (n, u)) (htrap : u.takeTrap c n = none)
include hturn hrun hgo hchosen htrap

/-- The chosen task, with no trap pending, issues the word that it has read. -/
theorem step_unit : step s = issue c n u := by
  show turn s.tick.nextTurn.1 s.tick.nextTurn.2 = _
  rw [hturn]
  show unitTurn c t = _
  rw [unitTurn, if_neg (Bool.eq_false_iff.mp hrun)]
  dsimp only
  rw [if_neg (Bool.eq_false_iff.mp hgo), hchosen]
  show front c n u = _
  rw [front, htrap]

variable {v : State} {w : InstrWord} (hfetch : fetch u c n = .ok (v, w))
include hfetch

theorem step_undecoded {e : Reject} (h : decode w = .error e) : step s = .next (v.issueTrap c n cILLEGAL 0 0) := by
  rw [step_unit hturn hrun hgo hchosen htrap, issue, hfetch]
  dsimp only
  rw [h]

theorem step_decoded {i : Instr} (h : decode w = .ok i) : step s =
    if v.acquiring c n then .next (v.holdTask c n .ready .acquire)
    else if (v.task c n).regBusy i && !illegalIn (v.task c n) i then .next (v.holdTask c n .ready (.regBusy (Instr.sregs i)))
    else exec i { v.modTask c n fun t => t.past i with cur := .task c n } := by
  rw [step_unit hturn hrun hgo hchosen htrap, issue, hfetch]
  dsimp only
  rw [h]

end

theorem step_thread {s t : State} {h : ThreadId} (hturn : s.tick.nextTurn = (.thread h, t)) (hon : t.floodOn = true)
    (hst : (t.thread h).st = .running) :
    (∀ i, t.threadWord h = some i → step s = exec i { t with cur := .thread h }) ∧
      (t.threadWord h = none → step s = .next (t.threadError h cILLEGAL)) := by
  have hstep : step s = threadTurn h t := by
    show turn s.tick.nextTurn.1 s.tick.nextTurn.2 = _
    rw [hturn]; rfl
  rw [hstep, threadTurn, if_pos hon, hst]
  exact ⟨fun i hi => by dsimp only; rw [hi], fun hno => by dsimp only; rw [hno]⟩

theorem step_event {s t : State} {i : Instr} {inp : Input} (hturn : s.tick.nextTurn = (.event i inp, t)) (hevent : Instr.isEvent i = true) :
    step s = exec i { t with inp := inp } := by
  show turn s.tick.nextTurn.1 s.tick.nextTurn.2 = _
  rw [hturn]
  exact if_pos hevent

/-- Settles O1: a unit's turn by the word that its chosen task reads, the fetch, a thread's turn and an event's. -/
theorem stepRunsDecoded : Obligations.step_runs_decoded := by
  refine ⟨?unit, ?fetch, fun s t h i hturn hon hst => ?thread, fun s t i inp => step_event⟩
  case unit =>
    rintro s t u v z c n w i hturn hrun hgo hchosen htrap hfetch
    refine ⟨fun hi => ⟨wf_of_decode hi, ?_⟩, fun e => step_undecoded hturn hrun hgo hchosen htrap hfetch⟩
    rw [step_decoded hturn hrun hgo hchosen htrap hfetch hi]
    refine ⟨fun hacq => if_pos hacq, fun hacq hbusy hlegal => ?_, ?_⟩
    · rw [if_neg (Bool.eq_false_iff.mp hacq), hbusy, hlegal]; rfl
    · rintro hacq hissues rfl
      rw [if_neg (Bool.eq_false_iff.mp hacq), if_neg]
      rw [Bool.and_eq_true, Bool.not_eq_true']
      rintro ⟨hbusy, hlegal⟩
      rcases hissues with h | h
      · exact Bool.false_ne_true (h.symm.trans hbusy)
      · exact Bool.false_ne_true (hlegal.symm.trans h)
  case fetch =>
    intro s v c n k l hk
    exact ⟨fun w => fetch_imem hk, fun hnew hsp hr hclean => ⟨_, fetch_memory hk hnew hsp hr hclean, State.task_setImem ..⟩⟩
  case thread =>
    obtain ⟨hword, hnone⟩ := step_thread hturn hon hst
    exact ⟨hword i, hnone⟩

end Sys2Proof.Machine
end

section
/-! SUPPORT. What a write-back of rows leaves alone (R95, R96, R100, R106, R115, R200): everything but HBM, the units and the logs, one lemma per operation
that it makes. -/

namespace Sys2Proof.Machine

/-- The state without HBM, the units and the logs. -/
def State.outsideMem (s : State) : State := { s with cores := [], hbm := {}, strand := [], strcount := 0, tide := {}, hostLog := [] }

theorem State.images_of_outsideMem {s t : State} (h : t.outsideMem = s.outsideMem) : t.images = s.images :=
  show t.outsideMem.images = s.outsideMem.images by rw [h]

theorem State.ingress_of_outsideMem {s t : State} (h : t.outsideMem = s.outsideMem) : t.ingress = s.ingress :=
  show t.outsideMem.ingress = s.outsideMem.ingress by rw [h]

theorem State.inp_of_outsideMem {s t : State} (h : t.outsideMem = s.outsideMem) : t.inp = s.inp :=
  show t.outsideMem.inp = s.outsideMem.inp by rw [h]

theorem State.outsideMem_foldl {α : Type} {f : State → α → State} (hf : ∀ s a, (f s a).outsideMem = s.outsideMem) (l : List α) (s : State) :
    (l.foldl f s).outsideMem = s.outsideMem :=
  foldl_keeps (fun t : State => t.outsideMem = s.outsideMem) f (fun _ a h => (hf _ a).trans h) l s rfl

@[simp] theorem State.outsideMem_ite (p : Prop) [Decidable p] (s t : State) :
    (if p then s else t).outsideMem = if p then s.outsideMem else t.outsideMem := apply_ite ..

/-! ## Banks and the writes of the management core -/

@[simp] theorem State.outsideMem_hbm (s : State) (h : Hbm) : ({ s with hbm := h } : State).outsideMem = s.outsideMem := rfl
@[simp] theorem State.outsideMem_setBank (s : State) (b : Nat) (x : Bank) : (s.setBank b x).outsideMem = s.outsideMem := rfl
@[simp] theorem State.outsideMem_setStack (s : State) (k : Nat) (x : Stack) : (s.setStack k x).outsideMem = s.outsideMem := rfl
@[simp] theorem State.outsideMem_setPoison (s : State) (d : Nat) (k : Option (BitVec 12)) (b : Bool) :
    (s.setPoison (.hbm d k) b).outsideMem = s.outsideMem := rfl
@[simp] theorem State.outsideMem_freshSector (s : State) (d : Nat) (k : Option (BitVec 12)) :
    (s.freshSector (.hbm d k)).outsideMem = s.outsideMem := rfl

theorem State.outsideMem_useRows {c : Nat} {l : List Nat} {s t : State} (h : useRows c l s = .ok t) : t.outsideMem = s.outsideMem := by
  induction l generalizing s with
  | nil => obtain rfl := Except.ok.inj h; rfl
  | cons d l ih =>
    have hfind {s t : State} (h : s.findRow d = some t) : t.outsideMem = s.outsideMem := by
      simp only [State.findRow] at h
      split at h
      · obtain rfl := Option.some.inj h; rfl
      · split at h
        · obtain rfl := Option.some.inj h; rfl
        · cases h
    simp only [useRows] at h
    split at h
    · next v hv =>
      obtain ⟨z, hz, hrow⟩ := Option.bind_eq_some_iff.mp hv
      rw [ih h, hfind hrow]
      simp only [State.enterBank] at hz
      split at hz
      · obtain rfl := Option.some.inj hz; simp [State.usePass]
      · cases hz
    · cases h

@[simp] theorem State.outsideMem_writeHbm (s : State) (d : Nat) (bs : List Byte) : (s.write (.hbm d none) bs).outsideMem = s.outsideMem := by
  have hpoison : (s.mergePoison id (.hbm d none) bs.length fun _ => false).outsideMem = s.outsideMem := by
    simp only [State.mergePoison, State.outsideMem_ite]
    rw [State.outsideMem_foldl, ite_self]
    intro t i
    simp only [id_eq, Place.add, State.outsideMem_ite, State.outsideMem_setPoison, State.outsideMem_freshSector, ite_self]
  exact hpoison

@[simp] theorem State.outsideMem_mgmtWrite (s : State) (d : Nat) (bs : List Byte) : (s.mgmtWrite d bs).outsideMem = s.outsideMem := by
  have hretry (l : List (Nat × List Byte)) (s : State) : (retryWaits l s).outsideMem = s.outsideMem := by
    induction l generalizing s with
    | nil => rfl
    | cons w l ih =>
      simp only [retryWaits, State.tryWrite]
      cases hz : useRows Config.cores (rowsOf w.1 w.2.length) s with
      | ok z => simp only [ih, State.outsideMem_hbm, State.outsideMem_writeHbm, State.outsideMem_useRows hz]
      | error b => simp [State.lineUp]
  exact hretry _ _

/-! ## The logs and the errors that a read finds -/

@[simp] theorem State.outsideMem_strandEvent (s : State) (ty source : Nat) (detail : List Byte) :
    (s.strandEvent ty source detail).outsideMem = s.outsideMem := rfl
@[simp] theorem State.outsideMem_evt (s : State) (v : BitVec 12) : (s.evt v).outsideMem = s.outsideMem := rfl

@[simp] theorem State.outsideMem_tideEvent (s : State) (ty source : Nat) (detail : List Byte) :
    (s.tideEvent ty source detail).outsideMem = s.outsideMem := by
  have hraw (s : State) (ty source : Nat) (detail : List Byte) : (s.tideRaw ty source detail).outsideMem = s.outsideMem :=
    State.outsideMem_mgmtWrite s _ _
  simp only [State.tideEvent, State.tideUpTo]
  split
  · rfl
  · split <;> simp only [hraw]

@[simp] theorem State.outsideMem_readSector (s : State) (sector agent core : Nat) :
    (s.readSector sector agent core).outsideMem = s.outsideMem := by
  simp only [State.readSector]
  split
  · rfl
  · simp [State.uncorrectable, State.poisonEvent]
  · simp [State.corrected]

/-! ## Rows and banks of a task -/

@[simp] theorem State.outsideMem_rowBack (s : State) (d : Nat) : (s.rowBack d).outsideMem = s.outsideMem := by
  rw [State.rowBack]
  refine (State.outsideMem_hbm _ _).trans ((State.outsideMem_hbm _ _).trans (State.outsideMem_foldl (fun t i => ?_) _ _))
  simp

@[simp] theorem State.outsideMem_setRow (s : State) (c n : Nat) (k : KReg) (r : RowSlot) : (s.setRow c n k r).outsideMem = s.outsideMem := rfl
@[simp] theorem State.outsideMem_dropWaiter (s : State) (c n : Nat) (k : KReg) : (s.dropWaiter c n k).outsideMem = s.outsideMem := rfl
@[simp] theorem State.outsideMem_closeBank (s : State) (c b : Nat) : (s.closeBank c b).outsideMem = s.outsideMem := rfl

@[simp] theorem State.outsideMem_releaseRow (s : State) (c n : Nat) (k : KReg) : (s.releaseRow c n k).outsideMem = s.outsideMem := by
  have hfree (d : Nat) : (s.freeLatch d).outsideMem = s.outsideMem := by simp [State.freeLatch]
  simp only [State.releaseRow]
  split <;> simp only [State.outsideMem_setRow, State.outsideMem_dropWaiter, hfree]

@[simp] theorem State.outsideMem_saveRows (s : State) (c n : Nat) (drop : Bool) : (s.saveRows c n drop).outsideMem = s.outsideMem :=
  State.outsideMem_foldl (fun t k => by rw [State.saveRow, State.outsideMem_setRow, State.outsideMem_releaseRow]) _ _

@[simp] theorem State.outsideMem_closeBanks (s : State) (c n : Nat) : (s.closeBanks c n).outsideMem = s.outsideMem :=
  State.outsideMem_foldl (fun t (r : Nat × Nat) => t.outsideMem_closeBank c r.1) _ _

end Sys2Proof.Machine
end

section
/-! SUPPORT. Placement, clearing and the images of a pre-emption (R157, R159 to R164, R172, R174, R190, R193, R197): one lemma per branch of each event. -/

namespace Sys2Proof.Machine

variable {s : State} {c : Nat}

/-! ## Images (R190, R197) -/

theorem State.retryIngress_none (h : s.ingress = []) : s.retryIngress = s := by rw [State.retryIngress, h, List.foldl_nil]

theorem State.core_strandEvent (s : State) (ty source : Nat) (detail : List Byte) (d : Nat) : (s.strandEvent ty source detail).core d = s.core d := rfl

/-- The image of a unit whose pre-emption stands there: the unit begins to clear, and the image holds its tasks and its queue. -/
theorem State.writeImage_writes {cause : BitVec 8} {w : BitVec 32} {d n : Nat} {x : Sweep} {t : State} (hfreeze : (s.core c).freeze = some cause)
    (htenant : (s.core c).tenant = some w) (hat : (s.core c).imgAt = some (d, n)) (hx : s.sweep w = some x) (hnone : s.ingress = [])
    (ht : t = s.writeImage c) : (t.core c).clearing = true ∧ (t.core c).queue = [] ∧ (t.core c).freeze = none ∧
      ∃ i, t.images = s.images ++ [i] ∧ i.sweep = w ∧ i.unit = c ∧ i.dpa = d ∧ i.mode = (s.core c).mode ∧ i.drop = x.rec'.drop ∧
        i.live = x.rec'.live ∧ i.queue = (s.core c).queue.map Entry.saved ∧ i.tasks.map (fun t => t.1) = s.slotsIn c := by
  have hrows : ((s.slotsIn c).foldl (fun s n => (s.saveRows c n x.rec'.drop).closeBanks c n) s).outsideMem = s.outsideMem :=
    State.outsideMem_foldl (fun t n => by rw [State.outsideMem_closeBanks, State.outsideMem_saveRows]) _ _
  have hingress := (State.ingress_of_outsideMem hrows).trans hnone
  have himages := State.images_of_outsideMem hrows
  subst ht
  simp only [State.writeImage, hfreeze, htenant, hat, hx]
  clear hrows
  generalize (s.slotsIn c).foldl (fun s n => (s.saveRows c n x.rec'.drop).closeBanks c n) s = z at hingress himages ⊢
  rw [State.retryIngress_none]
  · rw [State.core_strandEvent, State.core_modCore_same]
    refine ⟨rfl, rfl, rfl, _, congrArg (· ++ [_]) himages, rfl, rfl, rfl, rfl, rfl, rfl, rfl, ?_⟩
    rw [List.map_map]
    exact List.map_id _
  · dsimp only [State.strandEvent, State.mapFaulters, State.modSweep, State.followUnit, State.modCore, State.setCore]
    exact hingress

theorem State.restoreImage_poisoned {i : Image} (v : Nat) (h : i.poisoned = true) : s.restoreImage i v =
    ({ s with images := s.images.filter fun j => !(j.sweep == i.sweep && j.key == i.key) }).endSweep i.sweep 1 fPOISON := by
  rw [State.restoreImage]
  exact if_pos h

theorem Task.resumed_pc_s (t : Task) (now : Nat) : (t.resumed now).pc = t.pc ∧ (t.resumed now).s = t.s := by
  rw [Task.resumed]
  cases t.st <;> exact ⟨rfl, rfl⟩

theorem Task.resumed_held {t : Task} (now : Nat) (h : t.st = .waiting ∨ t.st = .parked) :
    (t.resumed now).st = t.st ∧ (t.resumed now).wait = t.wait := by
  rcases h with h | h <;> simp only [Task.resumed, h, and_self]

theorem Task.resumed_ready {t : Task} (now : Nat) (hw : t.st ≠ .waiting) (hp : t.st ≠ .parked) : (t.resumed now).st = .ready := by
  rw [Task.resumed]
  dsimp only
  split
  · next h => exact absurd h hw
  · next h => exact absurd h hp
  · rfl

section
variable (hp : s.powered = true) (hs : s.stopped = false)
include hp hs

theorem preemptionImageWrite_eq : exec .preemptionImageWrite s = .next (s.finishPreempt s.inp.core) := by
  show Host.Outcome.next (if s.powered && !s.stopped then s.finishPreempt s.inp.core else s) = _
  rw [hp, hs]; rfl

theorem imageRestoreComplete_eq {i : Image} (h : s.images.find? (fun i => i.target == some s.inp.core) = some i) :
    (∀ b, useRows Config.cores (rowsOf i.dpa i.size) s = .error b → exec .imageRestoreComplete s = .next s) ∧
      ∀ z, useRows Config.cores (rowsOf i.dpa i.size) s = .ok z →
        exec .imageRestoreComplete s = .next (z.restoreImage (i.relock s.inp.core) s.inp.core) := by
  refine ⟨fun b hb => ?_, fun z hz => ?_⟩ <;> show execImageRestoreComplete s = _ <;>
    simp only [execImageRestoreComplete, event, h, hp, hs, Bool.not_false, Bool.and_self, if_true]
  · rw [hb]
  · rw [hz]
    dsimp only
    rw [State.inp_of_outsideMem (State.outsideMem_useRows hz)]

end

theorem imageRestoreComplete_none (h : ∀ i ∈ s.images, i.target ≠ some s.inp.core) : exec .imageRestoreComplete s = .next s := by
  have hfind : s.images.find? (fun i => i.target == some s.inp.core) = none :=
    List.find?_eq_none.mpr fun i hi => by rw [beq_iff_eq]; exact h i hi
  show execImageRestoreComplete s = _
  simp only [execImageRestoreComplete, event, hfind]

theorem State.finishPreempt_running (h : (s.core c).freeze = none) : s.finishPreempt c = s := by
  rw [State.finishPreempt, h]; rfl

section
variable {t : State} (hfreeze : (s.core c).freeze ≠ none) (ht : t = s.advance c)
include hfreeze ht

theorem State.finishPreempt_waits (h : ∃ q ∈ (t.core c).queue, t.unfinished c q = true) : s.finishPreempt c = t := by
  subst ht
  rw [State.finishPreempt, if_pos (Option.isSome_iff_ne_none.mpr hfreeze)]
  exact if_pos (List.any_eq_true.mpr h)

theorem State.finishPreempt_writes (h : ∀ q ∈ (t.core c).queue, t.unfinished c q = false) :
    (∀ b, useRows Config.cores (t.imageRows c) t = .error b → s.finishPreempt c = t) ∧
      ∀ z, useRows Config.cores (t.imageRows c) t = .ok z → s.finishPreempt c = (z.writeImage c).wakeRedirs c := by
  have hfinished : ((t.core c).queue.any fun q => t.unfinished c q) = false := List.any_eq_false.mpr fun q hq => Bool.eq_false_iff.mp (h q hq)
  subst ht
  refine ⟨fun b hb => ?_, fun z hz => ?_⟩ <;>
    simp only [State.finishPreempt, if_pos (Option.isSome_iff_ne_none.mpr hfreeze), hfinished, Bool.false_eq_true, if_false]
  · rw [hb]
  · rw [hz]

end

end Sys2Proof.Machine
end

section
/-! SUPPORT. The walker's placement, clearing, pre-emption for placement and the end of a sweep (R157, R159 to R164, R172, R174): one lemma per branch of each
event. -/

namespace Sys2Proof.Machine

variable {s : State} {c v : Nat} {w : Sweep}

/-! ## Placement (R160 to R164) -/

theorem unitPlacement_none (h : s.faulted = true ∨ s.winnerAt s.inp.core = none) : exec .unitPlacement s = .next s := by
  show Host.Outcome.next (if s.powered && !s.stopped && !s.faulted then s.placement s.inp.core else s) = _
  rcases h with h | h
  · rw [h, Bool.not_true, Bool.and_false]; rfl
  · rw [State.placement, h, ite_self]

theorem unitPlacement_places (hp : s.powered = true) (hs : s.stopped = false) (hf : s.faulted = false) (hw : s.winnerAt s.inp.core = some w)
    (hv : (searchFrom w.prevUnit (s.wonUnits w)).head? = some v) : exec .unitPlacement s = .next (s.place w v) := by
  show Host.Outcome.next (if s.powered && !s.stopped && !s.faulted then s.placement s.inp.core else s) = _
  rw [hp, hs, hf, State.placement, hw]
  dsimp only
  rw [hv]; rfl

theorem State.place_image {i : Image} {is : List Image} (hc : w.rec'.coresident = false) (hi : s.waitingImages w.id = i :: is) :
    s.place w v = s.beginRestore w i v := by
  rw [State.place, hc, if_neg Bool.false_ne_true, hi]

theorem State.place_next {n : Nat} {t z : State} (hc : w.rec'.coresident = false) (hi : s.waitingImages w.id = []) (ht : t = s.beginTenancy w v)
    (hn : (List.range 8).find? (fun n => !(t.occupied v n)) = some n)
    (hz : z = (t.setTask v n (startTask w (w.rec'.index w.placed))).modSweep w.id
      fun w => { w.tookUnit v with placed := w.placed + 1, prevUnit := some v }) :
    s.place w v = if w.placed + 1 = w.rec'.iterations then z.endIdleTenancies w.id else z := by
  subst ht hz
  rw [State.place, hc, if_neg Bool.false_ne_true, hi]
  dsimp only
  rw [State.placeNext]
  dsimp only
  rw [hn]

section
variable {t : State} {us : List Nat} (hc : w.rec'.coresident = true)
  (ht : t = ((unitCores v w.rec'.gang).foldl (fun s c => s.modCore c fun k => { k with claim := some w.id }) s).modSweep w.id (fun w => w.tookUnit v))
  (hus : us = t.claimed w)
include hc ht hus

/-- A CORESIDENT sweep that needs more units, or is leaving one, only claims the unit (R163). -/
theorem State.place_claims (h : us.length < t.unitsNeeded w ∨ t.leaving w.id = true) : s.place w v = t := by
  subst ht hus
  rw [State.place, if_pos hc, State.claimUnit]
  exact if_pos (by rwa [Bool.or_eq_true, decide_eq_true_eq])

/-- One that has claimed enough is placed whole, or restored whole (R163). -/
theorem State.place_whole (hlen : t.unitsNeeded w ≤ us.length) (hstay : t.leaving w.id = false) :
    (t.waitingImages w.id = [] → s.place w v = placeAll us w.id w.rec'.iterations t) ∧
      (t.waitingImages w.id ≠ [] → s.place w v = ((t.waitingImages w.id).zip us).foldl (fun s x => s.beginRestore w x.1 x.2) t) := by
  have hgo : ¬(decide (us.length < t.unitsNeeded w) || t.leaving w.id) = true := by
    rw [Bool.or_eq_true, decide_eq_true_eq, hstay]
    exact fun h => h.elim (Nat.not_lt.mpr hlen) Bool.false_ne_true
  have hplace : s.place w v = match t.waitingImages w.id with
      | [] => placeAll us w.id w.rec'.iterations t
      | is => (is.zip us).foldl (fun s x => s.beginRestore w x.1 x.2) t := by
    subst ht hus
    rw [State.place, if_pos hc, State.claimUnit]
    exact if_neg hgo
  rw [hplace]
  cases t.waitingImages w.id with
  | nil => exact ⟨fun _ => rfl, fun h => absurd rfl h⟩
  | cons i is => exact ⟨fun h => absurd h (List.cons_ne_nil i is), fun _ => rfl⟩

end

/-- The units on which a sweep competes (R160, R163). -/
theorem State.mem_contested : v ∈ s.contested w ↔ s.hasWork w = true ∧ v ∈ w.rec'.units ∧ s.eligibleUnit w v = true ∧ (w.rec'.coresident = true →
    if s.unitsNeeded w ≤ (s.claimed w).length then (s.core v).claim = some w.id ∧ s.leaving w.id = false else (s.core v).claim ≠ some w.id) := by
  rw [State.contested, State.claimedAll]
  by_cases hwork : s.hasWork w = true
  · rw [if_pos hwork, List.mem_filter, Bool.and_eq_true]
    cases w.rec'.coresident with
    | false => simp [hwork]
    | true =>
      by_cases hall : s.unitsNeeded w ≤ (s.claimed w).length <;> simp [hwork, hall]
  · rw [if_neg hwork]
    exact ⟨fun h => absurd h List.not_mem_nil, fun h => absurd h.1 hwork⟩

/-! ## Clearing (R159) -/

theorem unitClearComplete_clears (hclear : (s.core s.inp.core).clearing = true) (hq : (s.core s.inp.core).queue = [])
    (hbusy : (s.core s.inp.core).busy = false) : exec .unitClearComplete s =
      .next ((unitCores s.inp.core (s.core s.inp.core).mode).foldl (fun s c => s.modCore c Core.cleared) s) := by
  show execUnitClearComplete s = _
  simp only [execUnitClearComplete, event, hclear, hq, hbusy, List.isEmpty_nil, Bool.not_false, Bool.and_self, if_true]

theorem unitClearComplete_waits (h : (s.core s.inp.core).clearing = false ∨ (s.core s.inp.core).queue ≠ [] ∨ (s.core s.inp.core).busy = true) :
    exec .unitClearComplete s = .next s := by
  show execUnitClearComplete s = _
  have hstop : ¬((s.core s.inp.core).clearing && (s.core s.inp.core).queue.isEmpty && !(s.core s.inp.core).busy) = true := by
    simp only [Bool.and_eq_true, Bool.not_eq_true', List.isEmpty_iff]
    rintro ⟨⟨hclear, hq⟩, hbusy⟩
    rcases h with h | h | h
    · exact Bool.false_ne_true (h.symm.trans hclear)
    · exact h hq
    · exact Bool.false_ne_true (hbusy.symm.trans h)
  exact congrArg Host.Outcome.next (if_neg hstop)

/-! ## Pre-emption for placement (R162) -/

/-- A fold that keeps its choice or takes the element before it ends with an element of the list. -/
theorem foldl_choice_mem {α : Type} {f : Option α → α → Option α} (hf : ∀ b a x, f b a = some x → b = some x ∨ a = x) {l : List α} {b : Option α} {x : α}
    (h : l.foldl f b = some x) : b = some x ∨ x ∈ l := by
  induction l generalizing b with
  | nil => exact .inl h
  | cons a l ih =>
    rcases ih h with h | h
    · exact (hf b a x h).imp id fun e => by rw [e]; exact List.mem_cons_self
    · exact .inr (List.mem_cons_of_mem a h)

theorem State.unitToFree_mem (h : s.unitToFree w = some v) : v ∈ w.rec'.units ∧ s.canFree w v = true := by
  rw [State.unitToFree] at h
  refine List.mem_filter.mp ((foldl_choice_mem (fun b a x hx => ?_) h).resolve_left nofun)
  cases b with
  | none => exact .inr (Option.some.inj hx)
  | some b =>
    dsimp only at hx
    split at hx
    · exact .inr (Option.some.inj hx)
    · exact .inl hx

/-- A unit's victims stand on units that are not being cleared. -/
theorem State.victims_not_clearing {g : Gang} {x : Nat × Sweep} (h : x ∈ s.victims v g) : (s.core x.1).clearing = false := by
  obtain ⟨u, hu, hx⟩ := List.mem_filterMap.mp h
  obtain ⟨z, -, rfl⟩ := Option.map_eq_some_iff.mp hx
  have hclear := (List.mem_filter.mp hu).2
  rwa [Bool.not_eq_true'] at hclear

theorem State.unitToFree_spec (h : s.unitToFree w = some v) : v ∈ w.rec'.units ∧ s.unitServes v w.rec'.gang = true ∧ s.victims v w.rec'.gang ≠ [] ∧
    ∀ x ∈ s.victims v w.rec'.gang, w.rec'.cls.toNat < x.2.rec'.cls.toNat ∧ (s.core x.1).clearing = false := by
  obtain ⟨hmem, hfree⟩ := State.unitToFree_mem h
  simp only [State.canFree, Bool.and_eq_true, Bool.not_eq_true', List.isEmpty_eq_false_iff, List.all_eq_true] at hfree
  obtain ⟨⟨hserves, hsome⟩, hclass⟩ := hfree
  exact ⟨hmem, hserves, hsome, fun x hx => ⟨BitVec.ult_iff_lt.mp (hclass x hx), State.victims_not_clearing hx⟩⟩

theorem prewaitExpiry_eq {o : Option State} (hp : s.powered = true) (hs : s.stopped = false) (hf : s.faulted = false) (hwait : s.prewait ≠ 0)
    (hw : s.sweep s.inp.sweep = some w) (hwork : s.hasWork w = true) (hnone : s.contested w = [])
    (hclaims : w.rec'.coresident = true → (s.claimed w).length < s.unitsNeeded w) (hv : s.unitToFree w = some v)
    (ho : o = preemptUnits 0 none (((s.victims v w.rec'.gang).flatMap fun x => s.wholeSweep x.1).eraseDups) s) :
    (∀ t, o = some t → exec .prewaitExpiry s = .next (t.modSweep w.id fun w => { w with firstFor := some v })) ∧
      (o = none → exec .prewaitExpiry s = .next s) := by
  have hall : s.claimedAll w = false := by
    rw [State.claimedAll, Bool.and_eq_false_iff, decide_eq_false_iff_not, Nat.not_le]
    cases hc : w.rec'.coresident with
    | false => exact .inl rfl
    | true => exact .inr (hclaims hc)
  have hgo : (s.powered && !s.stopped && !s.faulted && s.prewait != 0 && s.hasWork w && !(s.claimedAll w) && (s.contested w).isEmpty) = true := by
    rw [hp, hs, hf, bne_iff_ne.mpr hwait, hwork, hall, hnone]; rfl
  subst ho
  refine ⟨fun t ho => ?_, fun ho => ?_⟩ <;> show execPrewaitExpiry s = _ <;> simp only [execPrewaitExpiry, event, hw, hgo, hv, ho, if_true]

theorem schedctlWrite_eq (hon : s.mgmtOn = true) :
    exec .schedctlWrite s = .next { s with prewait := BitVec.ofNat 16 (s.inp.v.toNat / 2 ^ 16) } := by
  show Host.Outcome.next (s.writeSchedctl (s.inp.v.setWidth 64)) = _
  rw [State.writeSchedctl, if_pos hon]
  congr 2
  apply BitVec.eq_of_toNat_eq
  rw [BitVec.extractLsb'_toNat, BitVec.toNat_setWidth, BitVec.toNat_ofNat, Nat.shiftRight_eq_div_pow]
  omega

/-! ## The end of a sweep (R157, R172) -/

theorem State.id_of_sweep {i : BitVec 32} (h : s.sweep i = some w) : w.id = i := by
  have hfound := List.find?_some h
  rwa [beq_iff_eq] at hfound

theorem State.quiet_iff (i : BitVec 32) : s.quiet i = true ↔ s.entriesOf i = false ∧ ∀ o ∈ s.outst, o.sweep ≠ i := by
  simp [State.quiet]

theorem State.tryComplete_stays (hw : s.sweep w.id = some w)
    (h : w.ended = none ∨ w.reported = true ∨ s.entriesOf w.id = true ∨ ∃ o ∈ s.outst, o.sweep = w.id) : s.tryComplete w.id = s := by
  rw [State.tryComplete, hw]
  dsimp only
  cases hend : w.ended with
  | none => rfl
  | some e =>
    refine if_pos ?_
    rw [Bool.or_eq_true, Bool.not_eq_true', ← Bool.not_eq_true, State.quiet_iff]
    rcases h with h | h | h | ⟨o, ho, hid⟩
    · cases hend.symm.trans h
    · exact .inl h
    · exact .inr fun hq => Bool.false_ne_true (hq.1.symm.trans h)
    · exact .inr fun hq => hq.2 o ho hid

theorem State.tryComplete_completes {code reason : BitVec 8} {n : Nat} {t : State} (hw : s.sweep w.id = some w) (hend : w.ended = some (code, reason))
    (hrep : w.reported = false) (hentries : s.entriesOf w.id = false) (hout : ∀ o ∈ s.outst, o.sweep ≠ w.id)
    (hn : n = if code = 7 then w.done else w.doneBefore + w.done) (ht : t = s.modSweep w.id fun w => { w with reported := true }) :
    (∀ page seq, w.src = .launch page seq → s.tryComplete w.id = (t.writeWord w.asid w.rec'.notify code reason n).pushComp page
      { seq := seq, status := code, reason := reason, sweep := w.id, time := BitVec.ofNat 64 s.ftime, iters := BitVec.ofNat 64 n }) ∧
    (∀ p, w.src = .child p → s.tryComplete w.id = t.writeWord w.asid w.rec'.notify code reason n (some w.id)) := by
  have hgo : ¬(w.reported || !(s.quiet w.id)) = true := by
    rw [hrep, (State.quiet_iff _).mpr ⟨hentries, hout⟩]; exact Bool.false_ne_true
  subst hn ht
  refine ⟨fun page seq hsrc => ?_, fun p hsrc => ?_⟩ <;> simp only [State.tryComplete, hw, hend, if_neg hgo, hsrc]
  rfl

theorem State.wordDone_eq (x : PendWord) : (x.child = none → s.wordDone x = s) ∧ ∀ i, x.child = some i → s.wordDone x = s.dropSweep i := by
  refine ⟨fun h => ?_, fun i h => ?_⟩ <;> rw [State.wordDone, h]

end Sys2Proof.Machine
end

section
/-! SUPPORT. The sweep command block and debug halts (R198, R199, R206): a command by its OP and its checks, and the statement O58. -/

namespace Sys2Proof.Machine

variable {s : State} {w : Sweep}

/-! ## The command block (R198) -/

theorem extractLsb'_ne_zero {n : Nat} (v : BitVec n) (lo k : Nat) : v.extractLsb' lo k ≠ 0 ↔ v.toNat / 2 ^ lo % 2 ^ k ≠ 0 := by
  rw [ne_eq, ← BitVec.toNat_inj, toNat_extractLsb', BitVec.ofNat_eq_ofNat, BitVec.toNat_ofNat, Nat.zero_mod]

/-- OP by the numbers in the registers. -/
theorem SweepCmd.op_eq (m : SweepCmd) : m.op =
    if m.scmd.toNat / 2 ^ 32 % 2 ^ 18 ≠ 0 ∨ 2 ^ 16 ≤ m.saddrhi.toNat ∨ 2 ^ 32 ≤ m.scores.toNat then 0
    else if 4 < m.scmd.toNat / 2 ^ 60 then 0 else m.scmd.toNat / 2 ^ 60 := by
  have hop : (m.scmd.extractLsb' 60 4).toNat = m.scmd.toNat / 2 ^ 60 := by
    have := m.scmd.isLt
    rw [toNat_extractLsb']; omega
  have hhi : m.saddrhi.extractLsb' 16 48 ≠ 0 ↔ 2 ^ 16 ≤ m.saddrhi.toNat := by
    have := m.saddrhi.isLt
    rw [extractLsb'_ne_zero]; omega
  have hscores : m.scores.extractLsb' 32 32 ≠ 0 ↔ 2 ^ 32 ≤ m.scores.toNat := by
    have := m.scores.isLt
    rw [extractLsb'_ne_zero]; omega
  simp only [SweepCmd.op, hop, hhi, hscores, extractLsb'_ne_zero]

/-- A bundle address is aligned to 64 KiB when its low part is. -/
theorem SweepCmd.addr_mod (m : SweepCmd) : m.addr.toNat % 65536 = m.saddrlo.toNat % 65536 := by
  have hlow := m.saddrlo.isLt
  rw [SweepCmd.addr, BitVec.toNat_append, ← Nat.shiftLeft_add_eq_or_of_lt hlow, Nat.shiftLeft_eq]
  omega

/-- A write of SGO runs the command of its OP in the state that holds what was written. -/
theorem cmdEvent_runs {u : State} {op : Nat} (f : State → State) (hon : s.mgmtOn = true) (hbusy : s.scmd.busy = false) (hop : s.scmd.op = op)
    (hu : u = { s with scmd := { s.scmd with sgo := s.inp.v.setWidth 64 } }) : event (cmdEvent op f) s = .next (f u) := by
  subst hu hop
  rw [event, cmdEvent, if_pos (beq_self_eq_true _), startCmd, hon, hbusy]; rfl

/-! ### PREEMPT and RELEASE -/

theorem State.runPreempt_unknown (h : s.standing s.scmd.id = none) : s.runPreempt = s.cmdStatus wNOSWEEP := by
  simp only [State.runPreempt, h]

theorem State.runRelease_unknown (h : s.standing s.scmd.id = none) : s.runRelease = s.cmdStatus wNOSWEEP := by
  simp only [State.runRelease, h]

theorem State.runRelease_releases (h : s.standing s.scmd.id = some w) : s.runRelease =
    ((s.modSweep s.scmd.id fun w => { w with held := false }).resumeSweepThreads s.scmd.id).cmdStatus 0 := by
  simp only [State.runRelease, h]

theorem State.runPreempt_again (h : s.standing s.scmd.id = some w) (hheld : w.held = true) : s.runPreempt = s.cmdStatus wBUSY := by
  simp only [State.runPreempt, h, hheld, if_true]

theorem State.runPreempt_held (h : s.standing s.scmd.id = some w) (hheld : w.held = false) :
    (preemptUnits 2 (some 200) (s.unitsHolding s.scmd.id) s = none → s.runPreempt = s.cmdStatus wNOSPACE) ∧
      ∀ z, preemptUnits 2 (some 200) (s.unitsHolding s.scmd.id) s = some z →
        s.runPreempt = ((z.stopRestores s.scmd.id).modSweep s.scmd.id fun w => { w with held := true }).cmdBusy 0 s.scmd.id := by
  refine ⟨fun hz => ?_, fun z hz => ?_⟩ <;> simp only [State.runPreempt, h, hheld, hz, Bool.false_eq_true, if_false]

/-! ### EXPORT -/

theorem State.runExport_unknown (h : s.standing s.scmd.id = none) : s.runExport = s.cmdStatus wNOSWEEP := by
  simp only [State.runExport, h]

section
variable (h : s.standing s.scmd.id = some w)
include h

theorem State.runExport_busy (hbusy : s.exportBusy w = true) : s.runExport = s.cmdStatus wBUSY := by
  simp only [State.runExport, h, hbusy, if_true]

variable (hfree : s.exportBusy w = false)
include hfree

theorem State.runExport_misaligned (ha : s.scmd.saddrlo.toNat % 65536 ≠ 0) : s.runExport = s.cmdStatus wALIGN := by
  rw [← SweepCmd.addr_mod] at ha
  simp only [State.runExport, h, hfree, Bool.false_eq_true, if_false, if_pos ha]

variable (ha : s.scmd.saddrlo.toNat % 65536 = 0)
include ha

theorem State.runExport_aligned : s.runExport = s.exportTo w s.scmd.addr := by
  rw [← SweepCmd.addr_mod] at ha
  simp only [State.runExport, h, hfree, Bool.false_eq_true, if_false, if_neg (not_not.mpr ha)]

theorem State.runExport_outside (hregion : bundleRegion s.scmd.addr (bundleSize s w) = false) : s.runExport = s.cmdStatus wXLATE := by
  rw [State.runExport_aligned h hfree ha, State.exportTo, hregion]; rfl

/-- A bundle whose place translates waits for the banks of its images, or is written, and the sweep's end here is EXPORTED. -/
theorem State.runExport_writes {t : State} {l : Pieces} (hregion : bundleRegion s.scmd.addr (bundleSize s w) = true)
    (hr : resolve s (mgmtAcc w.asid true) s.scmd.addr (bundleSize s w) = (t, .ok l)) {rows : List Nat}
    (hrows : rows = (t.images.filter fun i => i.sweep == w.id).flatMap fun i => rowsOf i.dpa i.size) :
    (∀ b, useRows Config.cores rows t = .error b → s.runExport = t.cmdBusy wWAIT w.id) ∧
      ∀ v z, useRows Config.cores rows t = .ok v → z = (v.writeParts l (bundleParts v w)).endSweep w.id 7 0 →
        s.runExport = { z with scmd := { z.scmd with size := BitVec.ofNat 32 (bundleSize s w) } }.cmdBusy 0 w.id := by
  subst hrows
  rw [State.runExport_aligned h hfree ha, State.exportTo, hregion]
  refine ⟨fun b hb => ?_, fun v z hv hz => ?_⟩
  · simp only [hr, hb, Bool.not_true, Bool.false_eq_true, if_false]
  · subst hz
    simp only [hr, hv, Bool.not_true, Bool.false_eq_true, if_false]

end

/-! ### IMPORT -/

section
variable {k : Nat} {p : LPage} (hk : k = (s.scmd.scmd.extractLsb' 50 10).toNat) (hp : p = s.lpage k)
include hk hp

theorem State.runImport_disabled (hen : p.en = false) : s.runImport = s.cmdStatus wNOSWEEP := by
  subst hk hp
  simp only [State.runImport, hen, Bool.not_false, if_true]

variable (hen : p.en = true)
include hen

theorem State.runImport_misaligned (ha : s.scmd.saddrlo.toNat % 65536 ≠ 0) : s.runImport = s.cmdStatus wALIGN := by
  subst hk hp
  rw [← SweepCmd.addr_mod] at ha
  simp only [State.runImport, hen, Bool.not_true, Bool.false_eq_true, if_false, if_pos ha]

variable (ha : s.scmd.saddrlo.toNat % 65536 = 0)
include ha

theorem State.runImport_outside (hregion : bundleRegion s.scmd.addr 0x100 = false) : s.runImport = s.cmdStatus wXLATE := by
  subst hk hp
  rw [← SweepCmd.addr_mod] at ha
  simp only [State.runImport, hen, Bool.not_true, Bool.false_eq_true, if_false, if_neg (not_not.mpr ha), hregion, Bool.not_false, if_true]

/-- The header of a bundle tells its length; the bundle is then read whole. -/
theorem State.runImport_reads (hregion : bundleRegion s.scmd.addr 0x100 = true) {z z' : State} {l l' : Pieces}
    (hr : resolve s (mgmtAcc p.asid false) s.scmd.addr 0x100 = (z, .ok l))
    (hr' : resolve z (mgmtAcc p.asid false) s.scmd.addr (max 0x100 (field (z.readAll l) 8 8)) = (z', .ok l')) :
    s.runImport = z'.importBundle k (z'.readAll l') (z'.poisonAt l') := by
  subst hk hp
  rw [← SweepCmd.addr_mod] at ha
  simp only [State.runImport, hen, Bool.not_true, Bool.false_eq_true, if_false, if_neg (not_not.mpr ha), hregion, hr]
  rw [show resolve z _ s.scmd.addr (Nat.max 0x100 _) = _ from hr']

end

theorem State.importBundle_refused (k : Nat) (bs : List Byte) (bad : Nat → Bool) {r : SweepRec} (hr : r = importRec s.scmd.scores bs) :
    (s.faulted = true → s.importBundle k bs bad = s.refuseImport k r.notify 1 fDEVFAULT) ∧
      (s.faulted = false → bundleBad bs r = true → s.importBundle k bs bad = s.refuseImport k r.notify 3 0) := by
  subst hr
  refine ⟨fun hf => ?_, fun hf hb => ?_⟩
  · rw [State.importBundle]; exact if_pos hf
  · simp only [State.importBundle, hf, hb, Bool.true_or, Bool.false_eq_true, if_false, if_true]

/-! ### The end of a command -/

theorem sweepCommandComplete_eq (hbusy : s.scmd.busy = true) (hnext : s.scmd.next ≠ 0xFF) : exec .sweepCommandComplete s =
    .next (if s.cores.any (fun e => e.2.freeze.isSome && e.2.tenant == some s.scmd.sweep) then s else s.cmdStatus s.scmd.next) := by
  show execSweepCommandComplete s = _
  have hword : ¬s.scmd.next = wWAIT := hnext
  simp only [execSweepCommandComplete, event, hbusy, hword, Bool.not_true, Bool.false_eq_true, if_false]

/-! ## Debug halts (R206) -/

/-- ASID lies within the 64 bits that a write of DBGCTL takes. -/
theorem dbgctl_asid {n : Nat} (v : BitVec n) : (v.setWidth 64).extractLsb' 48 16 = v.extractLsb' 48 16 := by
  apply BitVec.eq_of_toNat_eq
  rw [toNat_extractLsb', toNat_extractLsb', BitVec.toNat_setWidth]
  omega

section
variable (hon : s.mgmtOn = true)
include hon

theorem dbgctlHalt_eq (hv : s.inp.v.getLsbD 0 = true) (hh : s.dbg.halt = false) : exec .dbgctlHalt s =
    .next (State.haltContext { s with dbg := { s.dbg with haltonbrk := s.inp.v.getLsbD 1 } } (s.inp.v.extractLsb' 48 16)) := by
  show execDbgctlHalt s = _
  simp only [execDbgctlHalt, event, State.writeDbgctl, hon, hv, hh, BitVec.getLsbD_setWidth, dbgctl_asid]
  rfl

theorem dbgctlRelease_eq {z : State} (hv : s.inp.v.getLsbD 0 = false) (hh : s.dbg.halt = true)
    (hz : z = { s with dbg := { s.dbg with haltonbrk := s.inp.v.getLsbD 1, halt := false, done := false } }) : exec .dbgctlRelease s =
      .next ((z.resumeThreads fun t => t.asid == s.dbg.asid && !(z.sweepAway t.sweep)).retryIngress) := by
  show execDbgctlRelease s = _
  subst hz
  simp only [execDbgctlRelease, event, State.writeDbgctl, hon, hv, hh, BitVec.getLsbD_setWidth]
  rfl

theorem dbgctlHaltonbrk_eq (hv : s.inp.v.getLsbD 0 = s.dbg.halt) : exec .dbgctlHaltonbrk s = .next
    { s with dbg := { s.dbg with haltonbrk := s.inp.v.getLsbD 1, asid := if s.dbg.halt then s.dbg.asid else s.inp.v.extractLsb' 48 16 } } := by
  show execDbgctlHaltonbrk s = _
  cases hh : s.dbg.halt <;> rw [hh] at hv <;>
    simp only [execDbgctlHaltonbrk, event, State.writeDbgctl, hon, hv, hh, BitVec.getLsbD_setWidth, dbgctl_asid] <;> rfl

end

/-! ## O58 -/

/-- Settles O58: each event of the walker, of an image, of the command block and of DBGCTL by the lemma of its branch. -/
theorem schedulingEvents : Obligations.scheduling_events := by
  unfold Obligations.scheduling_events
  intro s u c m id st hp hs hboot hc hm hu hid hst
  have hon : s.mgmtOn = true := State.mgmtOn_of hp hboot
  subst hc
  refine ⟨unitPlacement_none, fun w v hf hw hv => ?_, fun w v => State.mem_contested, unitClearComplete_clears, unitClearComplete_waits,
    fun w v o hf hwait hw hwork hnone hclaims hv ho => prewaitExpiry_eq hp hs hf hwait hw hwork hnone hclaims hv ho,
    fun w v h => State.unitToFree_spec h, schedctlWrite_eq hon, fun w hw => ?_, State.wordDone_eq, fun h => ?_, fun t hfreeze ht => ?_,
    fun cause w d n x t hfreeze htenant hat hx hnone ht => State.writeImage_writes hfreeze htenant hat hx hnone ht,
    fun i h => imageRestoreComplete_eq hp hs h, imageRestoreComplete_none, fun i v h => State.restoreImage_poisoned v h,
    fun t now => ⟨Task.resumed_held now, Task.resumed_ready now, Task.resumed_pc_s t now⟩, fun op hbusy hop => ?_,
    fun z k bs bad r hr => State.importBundle_refused k bs bad hr, fun hbusy hnext => ?_, dbgctlHalt_eq hon,
    fun z => dbgctlRelease_eq hon, dbgctlHaltonbrk_eq hon⟩
  · rw [unitPlacement_places hp hs hf hw hv]
    refine ⟨fun i is hco hi => congrArg _ (State.place_image hco hi),
      fun n t z hco hi ht hn hz => congrArg _ (State.place_next hco hi ht hn hz),
      fun t us hco ht hus => ⟨fun h => congrArg _ (State.place_claims hco ht hus h), fun hlen hstay => ?_⟩⟩
    obtain ⟨hnew, hback⟩ := State.place_whole hco ht hus hlen hstay
    exact ⟨fun h => congrArg _ (hnew h), fun h => congrArg _ (hback h)⟩
  · have hwid := State.id_of_sweep hw
    have hrun : exec .sweepComplete s = .next (s.tryComplete w.id) := by rw [hwid]; rfl
    rw [← hwid] at hw
    rw [hrun]
    refine ⟨fun h => congrArg _ (State.tryComplete_stays hw h), fun code reason n t hend hrep hentries hout hn ht => ?_⟩
    obtain ⟨hlaunch, hchild⟩ := State.tryComplete_completes hw hend hrep hentries hout hn ht
    exact ⟨fun page seq h => congrArg _ (hlaunch page seq h), fun p h => congrArg _ (hchild p h)⟩
  · rw [preemptionImageWrite_eq hp hs, State.finishPreempt_running h]
  · rw [preemptionImageWrite_eq hp hs]
    refine ⟨fun h => congrArg _ (State.finishPreempt_waits hfreeze ht h), fun h => ?_⟩
    obtain ⟨hwait, hwrite⟩ := State.finishPreempt_writes hfreeze ht h
    exact ⟨fun b hb => congrArg _ (hwait b hb), fun z hz => congrArg _ (hwrite z hz)⟩
  · have hop' : s.scmd.op = op := by rw [hop, ← SweepCmd.op_eq, hm]; rfl
    have run (n f) (hn : op = n) : event (cmdEvent n f) s = .next (f u) := cmdEvent_runs f hon hbusy (hop'.trans hn) (by rw [hu, hm])
    have hpreempt (h : op = 1) : exec .preempt s = .next u.runPreempt := run 1 _ h
    have hexport (h : op = 2) : exec .exportSweep s = .next u.runExport := run 2 _ h
    have himport (h : op = 3) : exec .importSweep s = .next u.runImport := run 3 _ h
    have hrelease (h : op = 4) : exec .releaseSweep s = .next u.runRelease := run 4 _ h
    have hmu : m = u.scmd := by rw [hu]
    have hlpage (k) : s.lpage k = u.lpage k := by rw [hu]; rfl
    have hst' : st = fun x => .next (u.cmdStatus x) := by rw [hst, hmu]; rfl
    have hid' : id = u.scmd.id := by rw [hid, hmu]; rfl
    clear hst hid hu hm hop
    subst hmu hid' hst'
    refine ⟨fun h => run 0 _ h, fun hnone => ⟨fun h => ?_, fun h => ?_, fun h => ?_⟩, fun w a hw ha => ?_, fun k p a hk hp ha => ?_⟩
    · rw [hpreempt h, State.runPreempt_unknown hnone]; rfl
    · rw [hexport h, State.runExport_unknown hnone]; rfl
    · rw [hrelease h, State.runRelease_unknown hnone]; rfl
    · subst ha
      refine ⟨fun h hheld => (hpreempt h).trans (congrArg _ (State.runPreempt_again hw hheld)),
        fun h hheld hz => (hpreempt h).trans (congrArg _ ((State.runPreempt_held hw hheld).1 hz)),
        fun z h hheld hz => (hpreempt h).trans (congrArg _ ((State.runPreempt_held hw hheld).2 z hz)),
        fun h hb => (hexport h).trans (congrArg _ (State.runExport_busy hw hb)),
        fun h hfree hal => (hexport h).trans (congrArg _ (State.runExport_misaligned hw hfree hal)),
        fun h hfree hal hregion => (hexport h).trans (congrArg _ (State.runExport_outside hw hfree hal hregion)),
        fun t l h hfree hal hregion hr => ?_, fun h => (hrelease h).trans (congrArg _ (State.runRelease_releases hw))⟩
      rw [hexport h]
      obtain ⟨hwait, hwrite⟩ := State.runExport_writes hw hfree hal hregion hr rfl
      exact ⟨fun b hb => congrArg _ (hwait b hb), fun v z hv hz => congrArg _ (hwrite v z hv hz)⟩
    · rw [← toNat_extractLsb'] at hk
      rw [hlpage] at hp
      subst ha
      exact ⟨fun h hen => (himport h).trans (congrArg _ (State.runImport_disabled hk hp hen)),
        fun h hen hal => (himport h).trans (congrArg _ (State.runImport_misaligned hk hp hen hal)),
        fun h hen hal hregion => (himport h).trans (congrArg _ (State.runImport_outside hk hp hen hal hregion)),
        fun z l z' l' h hen hal hregion hr hr' =>
          (himport h).trans (congrArg _ (State.runImport_reads hk hp hen hal hregion hr hr'))⟩
  · rw [sweepCommandComplete_eq hbusy hnext]
    refine ⟨fun h => congrArg _ (if_neg ?_), fun e he hfrozen hsweep => congrArg _ (if_pos ?_)⟩
    · rw [Bool.not_eq_true, List.any_eq_false]
      intro e he hboth
      rw [Bool.and_eq_true, beq_iff_eq] at hboth
      exact h e he hboth.1 hboth.2
    · exact List.any_eq_true.mpr ⟨e, he, by rw [hfrozen, hsweep, beq_self_eq_true]; rfl⟩

end Sys2Proof.Machine
end

section
/-! SUPPORT. The outcome of an instruction and of an event (R176, R209, R305, R308, R333): the four frames in which every meaning stands each answer a
next state, and the statement O7. -/

namespace Sys2Proof.Machine

/-! ## The frames -/

theorem scalar_answers_next (ill : Task → Bool) (y : Sync) (body : Nat → Nat → State → Act) (s : State) : ∃ t, scalar ill y body s = .next t := by
  rw [scalar]
  split
  · exact ⟨_, rfl⟩
  · split
    · exact ⟨_, rfl⟩
    · split <;> exact ⟨_, rfl⟩

theorem engine_answers_next (ill : Task → Bool) (x : Issue) (perf : Perf) (s : State) : ∃ t, engine ill x perf s = .next t := by
  rw [engine]
  split
  · exact ⟨_, rfl⟩
  · dsimp only
    split
    · exact ⟨_, rfl⟩
    · split <;> exact ⟨_, rfl⟩

theorem seqWord_answers_next (body : ThreadId → State → State) (s : State) : ∃ t, seqWord body s = .next t := by
  rw [seqWord]
  split <;> exact ⟨_, rfl⟩

theorem event_answers_next (f : State → State) (s : State) : ∃ t, event f s = .next t := ⟨f s, rfl⟩

/-! ## The statement -/

/-- Settles O7: every meaning stands in the frame of its class, an event's where no other is named. -/
theorem everyInstructionAnswersNext : Obligations.every_instruction_answers_next := by
  intro i s
  cases i with
  | add | sub | mul | mulh | div | rem | min | max | and | or | xor | andn | shl | shr | sar | rotr | clz | ctz | popc | bswap | ext | ins
  | sel | cmp | movi | movhi | mov | pset | sext | zext | fadd | fsub | fmul | ffma | fdiv | fsqrt | fmin | fmax | fcmp | fcvt | icvtf | fcvti
  | aadd | aaddi | alea | amov | aset | aget | asub | acmp | achk | ld | st | lda | sta | atom | cas | pref | br | brp | jmp | call | calla
  | ret | loop | loopi | loopmb | lpbrk | srd | swr | mbrd | mbwr | nop | semwait | semsig | semset | semrd | semcfg | qjoin | fence | mwait
  | lwinit | lwwait | lwrd | barinit | bararr | barwait | spawn | yieldTask | texit | setclass | cropen | crclose | trap | tret | halt
  | ecall => unfold exec; exact scalar_answers_next ..
  | vadd | vsub | vmul | vfma | vfms | vmin | vmax | vabs | vneg | vrcp | vrsq | vexp2 | vlog2 | vdiv | vsqrt | vfcmp | viadd | visub | vimul
  | vimad | vimin | vimax | vand | vor | vxor | vnot | vshl | vshr | vsar | vicmp | vpopc | vclmul | vcvt | vpack | vunpack | vbcast | vextr
  | vinsr | vperm | vrot | vsel | vmov | vred | vscan | vdot | vld | vst | vlds | vsts | vgath | vscat | mlog | mpopc | msetl | vsetw | txload
  | txrun | txv | txcfg | txrd | mxldw | mxldwt | mxpass | mxzero | mxst | mxrdv | mxwrv | mxagen | mxscl | mxmode | mxchk | mxidle | cpy | cpyt
  | cpym | fill | rlopen | rlhold | rlrel | rlrd | rlwr | rlstat | streamrow | bankclose | sqload | sqstart | sqstop | sqstat | put | get | rld
  | rst | ratom | rcas | flush | sld | sst | sget | sput | shfence | shupd | grant | revoke => unfold exec; exact engine_answers_next ..
  | sqburst | sqset | sqsig | sqwait | sqloop | sqend => unfold exec; exact seqWord_answers_next ..
  | _ => unfold exec; exact event_answers_next ..

end Sys2Proof.Machine
end

section
/-! SUPPORT. Errors that are not contained (R5, R93, R203): what a device-level fault keeps of its reason, and the statement O60. -/

namespace Sys2Proof.Machine

theorem State.freason_of_steady {s t : State} (h : t.steady = s.steady) : t.freason = s.freason :=
  show t.steady.freason = s.steady.freason by rw [h]

/-- The first device-level fault gives FREASON (R93). -/
theorem State.freason_deviceFault {s : State} (h : s.faulted = false) (r : BitVec 8) : (s.deviceFault r).freason = r := by
  rw [State.deviceFault, h]
  exact State.freason_of_steady (s := { s with faulted := true, freason := r }) <|
    (State.steady_faultEvents _).trans ((steady_faultSweeps ..).trans (State.steady_discardWork _ _))

/-- A consumption outside the innermost open region is a device-level fault (R203). -/
theorem State.consume_uncontained {s : State} {c n rdepth : Nat} {code sub : BitVec 8} {addr : Addr} {eng comm spec : Nat}
    (h : (s.task c n).st = .idle ∨ (s.task c n).regions = [] ∨ rdepth < (s.task c n).regions.length) :
    s.consume c n rdepth code sub addr eng comm spec =
      (s.trapEvent c n code sub 3 addr eng).deviceFault (if code = cMXCHECK then fMXCHECK else fPOISON) := by
  have houtside : ¬(0 < (if (s.task c n).st = .idle then 0 else (s.task c n).regions.length) ∧
      (if (s.task c n).st = .idle then 0 else (s.task c n).regions.length) ≤ rdepth) := by
    split
    · exact fun hin => absurd hin.1 (Nat.lt_irrefl 0)
    · next hrun =>
      rcases h.resolve_left hrun with hnone | hless
      · rw [hnone]; exact fun hin => absurd hin.1 (Nat.lt_irrefl 0)
      · omega
  exact if_neg houtside

/-- Settles O60: the consumption is a device-level fault, whose reason is the cause's. -/
theorem uncontainedErrors : Obligations.uncontained_errors := by
  rintro s _ c n rdepth eng comm spec code sub addr h rfl
  rw [State.consume_uncontained h]
  have hreason (hfirst : s.faulted = false) := State.freason_deviceFault (s := s.trapEvent c n code sub 3 addr eng) hfirst
  exact ⟨State.faulted_deviceFault _ _, fun hfirst => ⟨by rintro rfl; exact hreason hfirst _, by rintro rfl; exact hreason hfirst _⟩⟩

end Sys2Proof.Machine
end

section
/-! SUPPORT. Scalar accesses that are not aligned (R176, R308, R317, R318), and control transfers (R291, R322, R323, R326): what the wait leaves of the task's
addresses and predicates, an action that traps, skips or moves the PC, and the statements O16 and O17. -/

namespace Sys2Proof.Machine

/-! ## Actions in the state after the wait (R216, R308, R333) -/

section
variable {s : State} {c n : Nat} {y : Sync} {i : Instr} {ill : Task → Bool} {body : Nat → Nat → State → Act}
  (h : Ready s c n y) (hi : exec i s = scalar ill y body s) (hill : ill (s.task c n) = false)
include h

theorem State.waited_ea (m : MemOp) : ((s.waited c n y).task c n).ea m = (s.task c n).ea m := by
  obtain ⟨-, ⟨x, hx⟩, -⟩ := State.waited_ready h
  rw [hx]; rfl

theorem State.waited_areg (a : AReg) : ((s.waited c n y).task c n).areg a = (s.task c n).areg a := by
  obtain ⟨-, ⟨x, hx⟩, -⟩ := State.waited_ready h
  rw [hx]; rfl

theorem State.waited_pc : ((s.waited c n y).task c n).pc = (s.task c n).pc := by
  obtain ⟨-, ⟨x, hx⟩, -⟩ := State.waited_ready h
  rw [hx]

theorem State.waited_asid : ((s.waited c n y).task c n).asid = (s.task c n).asid := by
  obtain ⟨-, ⟨x, hx⟩, -⟩ := State.waited_ready h
  rw [hx]

theorem State.waited_pred (p : Pred) : ((s.waited c n y).task c n).pred p = (s.task c n).pred p := by
  obtain ⟨-, ⟨x, hx⟩, -⟩ := State.waited_ready h
  rw [hx]; cases p <;> rfl

theorem State.waited_inBody (pc : Addr) : ((s.waited c n y).task c n).inBody pc = (s.task c n).inBody pc := by
  obtain ⟨-, ⟨x, hx⟩, -⟩ := State.waited_ready h
  rw [hx]; rfl

include hi hill

theorem exec_issueTrap {code sub : BitVec 8} {va : Addr} (hbody : body c n (s.waited c n y) = .trap (s.waited c n y) code sub va) :
    exec i s = .next ((s.waited c n y).issueTrap c n code sub va) := by
  rw [hi, scalar_ready h hill, hbody]; rfl

/-- An instruction whose action does nothing waits, signals and goes on. -/
theorem runs_skip (hbody : body c n (s.waited c n y) = .done (s.waited c n y)) : Runs s c n y i id := by
  obtain ⟨t, ht, heffect⟩ := scalar_skip_effect h hill
  exact ⟨t, by rw [← ht, hi, scalar_ready h hill, scalar_ready h hill, hbody], heffect⟩

end

/-! ## Misaligned accesses (R176, R308) -/

/-- The alignment of a scalar access is its first check. -/
theorem scalarAccessAs_misaligned {s : State} {c n : Nat} {va : Addr} {k al : Nat} {x : Acc} {f : State → Pieces → Act}
    (h : va.toNat % al ≠ 0) : scalarAccessAs s c n va k al x f = .trap s cALIGN 0 va := if_pos h

theorem length_lowBytes (x : Word) (n : Nat) : (lowBytes x n).length = n := length_toBytes x.toNat n

/-- Settles O16: each access is misaligned in the state after its wait, which leaves its address. -/
theorem scalarAlignment : Obligations.scalar_alignment := by
  rintro s c n y t op o d i da base m disp _ _ h rfl rfl
  refine ⟨fun hodd => ⟨exec_issueTrap h rfl rfl ?ld, exec_issueTrap h rfl rfl ?st⟩,
    fun hodd => ⟨exec_issueTrap h rfl rfl ?lda, exec_issueTrap h rfl rfl ?sta⟩,
    fun hodd => ⟨exec_issueTrap h rfl rfl ?atom, exec_issueTrap h rfl rfl ?cas⟩⟩
  case ld | lda => rw [State.waited_ea h]; exact scalarAccessAs_misaligned hodd
  case st => rw [State.waited_ea h]; exact scalarAccessAs_misaligned (by rwa [length_lowBytes])
  case sta => rw [State.waited_ea h]; exact scalarAccessAs_misaligned (by rwa [length_toBytes])
  case atom | cas => dsimp only; rw [Task.atomAddr, State.waited_areg h]; exact scalarAccessAs_misaligned hodd

/-! ## Targets and bodies (R291, R322, R326) -/

theorem branchTarget_eq_ofInt (pc : Addr) (x : BitVec 32) : branchTarget pc x = BitVec.ofInt 80 (pc.toNat + 12 * x.toInt) := by
  rw [BitVec.ofInt_add, BitVec.ofInt_natCast, BitVec.ofNat_toNat, BitVec.setWidth_eq, BitVec.ofInt_mul, mul_comm]; rfl

theorem returnAddress_eq_ofNat (pc : Addr) : pc + 12 = BitVec.ofNat 80 (pc.toNat + 12) := by
  rw [BitVec.ofNat_add, BitVec.ofNat_toNat, BitVec.setWidth_eq]; rfl

theorem Task.inBody_free {k : Task} (h : k.inh = true ∨ k.depth = 0) (pc : Addr) : k.inBody pc = true := by
  rw [Task.inBody, if_pos (by rwa [Bool.or_eq_true, beq_iff_eq])]

theorem Task.inBody_iff {k : Task} {l : Loop} (hin : k.inh = false) (hd : k.depth ≠ 0) (hl : l = k.loops.toArray.getD (k.depth - 1) {}) (pc : Addr) :
    k.inBody pc = true ↔ (pc.toNat + 2 ^ 80 - l.start.toNat) % 2 ^ 80 < 12 * l.len.toNat := by
  subst hl
  have hlevel : ¬((k.inh || k.depth == 0) = true) := by rw [hin, Bool.false_or, beq_iff_eq]; exact hd
  rw [Task.inBody, if_neg hlevel, decide_eq_true_eq, BitVec.toNat_sub, Nat.mul_comm]
  have := (k.loops.toArray.getD (k.depth - 1) {}).start.isLt
  rw [← Nat.sub_add_comm this.le, Nat.add_comm (2 ^ 80)]

/-! ## Control transfers (R322, R323, R326) -/

/-- The task after an issue, whatever it has marked as taken. -/
theorem Task.gone_took {k : Task} (hst : k.st = .ready) (x : Option (BitVec 8 × Nat)) :
    ({ ({ k with took := x } : Task).pastWait with st := if k.st = .idle then .idle else .ready, isn := k.isn + 1, took := none } : Task) =
      k.gone := by
  rw [if_neg (by rw [hst]; exact nofun)]
  simp only [Task.gone, Task.pastWait]
  split <;> rfl

/-- An instruction that moves control to an address, having changed its task by `g`. -/
theorem scalar_jumps {s : State} {c n : Nat} {y : Sync} {i : Instr} {ill : Task → Bool} {body : Nat → Nat → State → Act} {f g : Task → Task}
    {pc : Addr} (h : Ready s c n y) (hi : exec i s = scalar ill y body s) (hill : ill (s.task c n) = false)
    (hbody : body c n (s.waited c n y) = .goto ((s.waited c n y).modTask c n f) pc)
    (hf : ∀ x, f { s.task c n with took := x } = { g (s.task c n) with took := x }) (hst : (g (s.task c n)).st = .ready) :
    Jumps s c n y i g pc := by
  obtain ⟨honly, ⟨x, htask⟩, hsem⟩ := State.waited_ready h
  refine ⟨_, by rw [hi, scalar_ready h hill, hbody], ?_, fun q => ?_, ?_⟩ <;> simp only [Act.run, State.issued]
  · rw [State.task_signal, State.task_modTask_same, State.task_modTask_same, State.task_modTask_same, htask, hf]
    exact congrArg (fun k : Task => { k.noCount with pc := pc }) (Task.gone_took hst x)
  · rw [State.sem_signal]
    simp only [State.sem_modTask]
    rw [hsem q]; rfl
  · exact (((honly.trans (.modTask ..)).trans (.modTask ..)).trans (.modTask ..)).trans (.signal ..)

section
variable {s : State} {c n : Nat} {y : Sync} {i : Instr} {body : Nat → Nat → State → Act} {f g : Task → Task} {pc : Addr}
  (h : Ready s c n y) (hi : exec i s = scalar legal y body s)
  (hbody : body c n (s.waited c n y) = transfer (s.waited c n y) c n pc f)
include h hi hbody

/-- A target in the innermost body, a multiple of 4. -/
theorem transfer_jumps (hin : (s.task c n).inBody pc = true) (hfour : pc.toNat % 4 = 0)
    (hf : ∀ x, f { s.task c n with took := x } = { g (s.task c n) with took := x }) (hst : (g (s.task c n)).st = (s.task c n).st) :
    Jumps s c n y i g pc := by
  refine scalar_jumps h hi rfl (hbody.trans ?_) hf (hst.trans h.2.1)
  simp only [transfer, State.waited_inBody h, hin, hfour, Bool.not_true, Bool.false_eq_true, if_false, ne_eq, not_true_eq_false]

theorem transfer_outside (hout : (s.task c n).inBody pc = false) : exec i s = .next ((s.waited c n y).issueTrap c n cLOOPNEST 0 0) := by
  refine exec_issueTrap h hi rfl (hbody.trans ?_)
  simp only [transfer, State.waited_inBody h, hout, Bool.not_false, if_true]

theorem transfer_misaligned (hin : (s.task c n).inBody pc = true) (hfour : pc.toNat % 4 ≠ 0) :
    exec i s = .next ((s.waited c n y).issueTrap c n cALIGN 0 pc) := by
  refine exec_issueTrap h hi rfl (hbody.trans ?_)
  simp only [transfer, State.waited_inBody h, hin, Bool.not_true, Bool.false_eq_true, if_false]
  exact if_pos hfour

end

/-- Settles O17: each instruction is a transfer to its target, which the target's place and alignment decide; BRP is one where its predicate holds. -/
theorem controlTransfers : Obligations.control_transfers := by
  rintro s c n y x a d p _ _ _ _ _ h rfl rfl rfl rfl rfl
  rw [← branchTarget_eq_ofInt, ← returnAddress_eq_ofNat]
  have branch (f : Task → Task) : transfer (s.waited c n y) c n (branchTarget ((s.waited c n y).task c n).pc x) f =
      transfer (s.waited c n y) c n (branchTarget (s.task c n).pc x) f := by rw [State.waited_pc h]
  have jump (f : Task → Task) : transfer (s.waited c n y) c n (((s.waited c n y).task c n).areg a) f =
      transfer (s.waited c n y) c n ((s.task c n).areg a) f := by rw [State.waited_areg h]
  have predicate (hp : (s.task c n).pred p = true) : (if ((s.waited c n y).task c n).pred p = true then
      transfer (s.waited c n y) c n (branchTarget ((s.waited c n y).task c n).pc x) id else .done (s.waited c n y)) =
      transfer (s.waited c n y) c n (branchTarget (s.task c n).pc x) id := by
    rw [State.waited_pred h, if_pos hp, branch]
  have skip (hp : (s.task c n).pred p = false) : (if ((s.waited c n y).task c n).pred p = true then
      transfer (s.waited c n y) c n (branchTarget ((s.waited c n y).task c n).pc x) id else .done (s.waited c n y)) = .done (s.waited c n y) := by
    rw [State.waited_pred h, if_neg (by rw [hp]; exact Bool.false_ne_true)]
  refine ⟨fun hfour hin => ⟨transfer_jumps h rfl (branch id) hin hfour (fun _ => rfl) rfl,
      transfer_jumps h rfl (branch _) hin hfour (fun _ => rfl) rfl,
      fun hp => transfer_jumps h rfl (predicate hp) hin hfour (fun _ => rfl) rfl⟩,
    fun hp => runs_skip h rfl rfl (skip hp),
    fun hfour hin => ⟨transfer_jumps h rfl (jump id) hin hfour (fun _ => rfl) rfl, transfer_jumps h rfl (jump id) hin hfour (fun _ => rfl) rfl,
      transfer_jumps h rfl (jump _) hin hfour (fun _ => rfl) rfl⟩,
    fun hout => ⟨transfer_outside h rfl (branch id) hout, transfer_outside h rfl (branch _) hout,
      fun hp => transfer_outside h rfl (predicate hp) hout⟩,
    fun hin hfour => ⟨transfer_misaligned h rfl (branch id) hin hfour, transfer_misaligned h rfl (branch _) hin hfour,
      fun hp => transfer_misaligned h rfl (predicate hp) hin hfour⟩,
    fun hout => ⟨transfer_outside h rfl (jump id) hout, transfer_outside h rfl (jump id) hout, transfer_outside h rfl (jump _) hout⟩,
    fun hin hfour => ⟨transfer_misaligned h rfl (jump id) hin hfour, transfer_misaligned h rfl (jump id) hin hfour,
      transfer_misaligned h rfl (jump _) hin hfour⟩,
    Task.inBody_free, fun l t hin hd hl => Task.inBody_iff hin hd hl t⟩

end Sys2Proof.Machine
end

section
/-! SUPPORT. TRAP, ECALL, HALT and TRET (R177 to R179, R183, R185, R206, R304, R352 to R355): a trap that its own instruction takes, the return from a
handler with and without a frozen command, and the statements O28 and O29. -/

namespace Sys2Proof.Machine

/-! ## TRAP (R206, R352) -/

/-- The state from which TRAP enters its handler: its count has gone back, Continue has moved the PC, and its number is used up (R352). -/
def State.pastTrap (s : State) (c n : Nat) : State := (s.returnTook c n).modTask c n fun t => { t.cont (t.pc + 12) with isn := t.isn + 1 }

theorem State.task_pastTrap (s : State) (c n : Nat) : ∃ b, (s.pastTrap c n).task c n =
    { s.task c n with took := none, pastSync := b, isn := (s.task c n).isn + 1, pc := ((s.task c n).cont ((s.task c n).pc + 12)).pc,
                      depth := ((s.task c n).cont ((s.task c n).pc + 12)).depth, loops := ((s.task c n).cont ((s.task c n).pc + 12)).loops } := by
  obtain ⟨b, hb⟩ := State.task_returnTook s c n
  refine ⟨b, ?_⟩
  rw [State.pastTrap, State.task_modTask_same, hb]
  exact congrArg (fun t : Task => { t with isn := (s.task c n).isn + 1 })
    (Task.cont_eq_of (s.task c n) { s.task c n with took := none, pastSync := b } ((s.task c n).pc + 12) rfl rfl rfl)

/-- A trap that a TRAP outside a handler takes: its handler is entered, its number used up. -/
theorem State.task_pastTrap_enterTrap {s : State} {c n : Nat} {k : Task} (hk : ∃ x, s.task c n = { k with took := x }) (hin : k.inh = false)
    (hbase : k.hbase ≠ 0) (code : BitVec 8) (addr : Addr) (u : Task)
    (hu : u = ((s.pastTrap c n).enterTrap c n { code := code, sub := 0, addr := addr, epc := ((s.pastTrap c n).task c n).pc }).task c n) :
    u.pc = k.hbase ∧ u.inh = true ∧ u.ecause = code.setWidth 64 ∧ u.eaddr = addr ∧ u.epc = (k.cont (k.pc + 12)).pc ∧
      u.esw = (if k.priv then 2 else 0) ∧ u.isn = k.isn + 1 ∧ u.s = k.s := by
  obtain ⟨x, hx⟩ := hk
  obtain ⟨b, hb⟩ := State.task_pastTrap s c n
  rw [hx] at hb
  obtain ⟨b', hb'⟩ := State.task_enterTrap (s := s.pastTrap c n)
    { code := code, sub := 0, addr := addr, epc := ((s.pastTrap c n).task c n).pc } (by rw [hb]; exact hin) (by rw [hb]; exact hbase)
  rw [hu, hb', hb]
  refine ⟨rfl, rfl, ?_, rfl, (Task.cont_congr { k with took := x } k (k.pc + 12) rfl rfl rfl).1, BitVec.or_zero, rfl, rfl⟩
  show BitVec.ofNat 64 (0 * 256 + code.toNat) = _
  rw [Nat.zero_mul, Nat.zero_add, BitVec.ofNat_toNat]

theorem OnlyTask.dbg {s t : State} {c n : Nat} (h : OnlyTask s c n t) : t.dbg = s.dbg := by rw [h.device]

section
variable {s : State} {c n : Nat} {y : Sync} {brk : Bool} {code : BitVec 16} (h : Ready s c n y)
include h

/-- A TRAP that does not halt its context enters its handler. -/
theorem exec_trap_enters {cause : BitVec 8} (hcause : (if brk then cBREAK else cSOFT) = cause)
    (hgo : (brk && s.dbg.haltonbrk && s.dbg.asid == (s.task c n).asid) = false) :
    exec (.trap y brk code) s = .next (((s.waited c n y).pastTrap c n).enterTrap c n
      { code := cause, sub := 0, addr := code.setWidth 80, epc := (((s.waited c n y).pastTrap c n).task c n).pc }) := by
  subst hcause
  have honly := (State.waited_ready h).1
  refine (scalar_ready (y := { y with sinc := 0 }) h rfl).trans ?_
  have hgo' : (brk && (s.waited c n y).dbg.haltonbrk && (s.waited c n y).dbg.asid == ((s.waited c n y).task c n).asid) = false := by
    rw [honly.dbg, State.waited_asid h, hgo]
  exact congrArg (fun a : Act => Host.Outcome.next (a.run { y with sinc := 0 } c n)) (if_neg (Bool.eq_false_iff.mp hgo'))

/-- A BREAK under HALTONBRK halts its context (R206). -/
theorem exec_trap_halts (hhalt : (s.dbg.haltonbrk && s.dbg.asid == (s.task c n).asid) = true) : exec (.trap y true code) s =
    .next (State.retired ((s.waited c n y).haltContext (s.task c n).asid) c n { y with sinc := 0 }) := by
  have honly := (State.waited_ready h).1
  refine (scalar_ready (y := { y with sinc := 0 }) h rfl).trans ?_
  have hhalt' : (true && (s.waited c n y).dbg.haltonbrk && (s.waited c n y).dbg.asid == ((s.waited c n y).task c n).asid) = true := by
    rw [Bool.true_and, honly.dbg, State.waited_asid h, hhalt]
  rw [← State.waited_asid h]
  exact congrArg (fun a : Act => Host.Outcome.next (a.run { y with sinc := 0 } c n)) (if_pos hhalt')

/-! ## HALT (R304, R354) -/

theorem exec_halt_requests (hpriv : (s.task c n).priv = true) (hrun : s.dbg.halt = false) : exec (.halt y) s =
    .next (State.retired ((s.waited c n y).haltContext (s.task c n).asid) c n y) := by
  refine (scalar_ready (ill := fun t => !t.priv) h (privileged hpriv)).trans ?_
  simp only [(State.waited_ready h).1.dbg, hrun, Bool.false_eq_true, if_false, State.waited_asid h]; rfl

theorem exec_halt_waits (hpriv : (s.task c n).priv = true) (hhalt : s.dbg.halt = true) (hother : s.dbg.asid ≠ (s.task c n).asid) :
    exec (.halt y) s = .next ((s.waited c n y).holdTask c n .waiting .halt) := by
  refine (scalar_ready (ill := fun t => !t.priv) h (privileged hpriv)).trans ?_
  simp only [(State.waited_ready h).1.dbg, hhalt, if_true, State.waited_asid h, hother, if_false]; rfl

theorem runs_halt (hpriv : (s.task c n).priv = true) (hhalt : s.dbg.halt = true) (hown : s.dbg.asid = (s.task c n).asid) :
    Runs s c n y (.halt y) id := by
  refine runs_skip (ill := fun t => !t.priv) h rfl (privileged hpriv) ?_
  simp only [(State.waited_ready h).1.dbg, hhalt, if_true, State.waited_asid h, hown]

end

/-- Settles O28: TRAP by whether it halts its context, the handler that it enters, and HALT by the halt that is in force. -/
theorem systemCalls : Obligations.system_calls := by
  rintro s _ c n y code svc d a _ h rfl rfl
  have htask := (State.waited_ready h).2.1
  refine ⟨fun hin hbase => ⟨_, exec_trap_enters h rfl rfl, State.task_pastTrap_enterTrap htask hin hbase cSOFT _ _ rfl⟩,
    fun hin hbase hgo => ⟨_, exec_trap_enters h rfl hgo, State.task_pastTrap_enterTrap htask hin hbase cBREAK _ _ rfl⟩,
    ?entries, exec_trap_halts h, ?ecall, exec_halt_requests h, exec_halt_waits h, runs_halt h, fun hpriv => scalar_illegal (ill := fun t => !t.priv) h ?user⟩
  case entries =>
    rintro _ rfl
    exact ⟨exec_trap_enters (cause := cSOFT) h rfl rfl, exec_trap_enters (cause := cBREAK) (brk := true) h rfl⟩
  case ecall => rw [← State.waited_sreg h]; exact scalar_ready h rfl
  case user => rw [hpriv]; rfl

/-! ## The frozen command at TRET (R179, R183) -/

/-- TRET leaves the handler: PC from EPC and PRIV from ESW. -/
def State.leaveHandler (s : State) (c n : Nat) (k : Task) : State :=
  s.modTask c n fun t => { t with priv := k.esw.getLsbD 1, inh := false, frozenEng := none, pc := k.epc }

/-- What a handler's task returns with. -/
def Task.home (t : Task) : Word × Addr := (t.esw, t.epc)

/-- TRET past its frozen command, by what the command's end leaves of ESW and EPC. -/
theorem State.leaveHandler_of_home {u : State} {c n : Nat} {k : Task} (h : (u.task c n).home = k.home) :
    (u.modTask c n fun t => { t with priv := t.esw.getLsbD 1, inh := false, frozenEng := none, pc := t.epc }) = u.leaveHandler c n k := by
  obtain ⟨hesw, hepc⟩ := Prod.mk.inj h
  rw [State.leaveHandler, State.modTask, State.modTask, hesw, hepc]

@[simp] theorem State.home_modTask (s : State) (c n m : Nat) {f : Task → Task} (hf : ∀ t, (f t).home = t.home) :
    ((s.modTask c n f).task c m).home = (s.task c m).home := by
  by_cases hm : m = n
  · rw [hm, State.task_modTask_same, hf]
  · rw [State.task_modTask_slot _ _ _ _ _ hm]

theorem State.home_release (s : State) (c n m : Nat) (i : Instr) : ((s.release c n i).task c m).home = (s.task c m).home := by
  unfold State.release
  split
  · split
    · rfl
    · exact State.home_modTask _ _ _ _ fun _ => rfl
  · rfl

theorem State.home_reserve (s : State) (c n m : Nat) (i : Instr) : ((s.reserve c n i).task c m).home = (s.task c m).home := by
  unfold State.reserve
  split
  · split
    · rfl
    · exact State.home_modTask _ _ _ _ fun _ => rfl
  · rfl

theorem State.task_queue (s : State) (c n : Nat) (f : List Entry → List Entry) :
    (s.modCore c fun k => { k with queue := f k.queue }).task c n = s.task c n := by
  rw [State.task, State.core_modCore_same]; rfl

theorem State.task_silence (s : State) (c d n : Nat) (q : Entry) : (s.silence c q).task d n = s.task d n := by
  rw [State.silence]; split <;> rfl

theorem State.home_discardEntry (s : State) (c n : Nat) (q : Entry) (ret : Bool) : ((s.discardEntry c q ret).task c n).home = (s.task c n).home := by
  have hgone (p : Entry → Bool) : ((s.dropEntries c p).silence c q).task c n = s.task c n := by
    rw [State.task_silence]; exact State.task_queue s c n _
  have hrelease (u : State) : ((if q.frozen then u else u.release c q.slot q.instr).task c n).home = (u.task c n).home := by
    split
    · rfl
    · exact State.home_release ..
  simp only [State.discardEntry]
  split
  · split
    · rw [State.task_signal, hrelease, hgone]
    · rw [hrelease, hgone]
  · rw [hrelease, hgone]

section
variable {s : State} {c n : Nat} {k : Task} (hk : ∃ x, s.task c n = { k with took := x })
include hk

/-- A handler without a frozen command only leaves. -/
theorem State.trapReturn_unfrozen (h : k.esw.getLsbD 39 = true → k.frozenEng.bind (s.frozenEntry c n) = none) :
    s.trapReturn c n = s.leaveHandler c n k := by
  obtain ⟨x, hx⟩ := hk
  have hhome : (s.task c n).home = k.home := by rw [hx]; rfl
  rw [← State.leaveHandler_of_home hhome, State.trapReturn, hx]
  dsimp only
  split
  · next hbit => rw [h hbit]
  · rfl

/-- A frozen command goes on from ECP, or is discarded, as ESW says. -/
theorem State.trapReturn_frozen {e : Eng} {q : Entry} (hbit : k.esw.getLsbD 39 = true) (he : k.frozenEng = some e) (hq : s.frozenEntry c n e = some q) :
    s.trapReturn c n = (if k.esw.getLsbD 38 then
      (s.modEntries c (fun x => x.slot == n && x.isn == q.isn && x.eng == q.eng)
        fun x => { x with frozen := false, started := false, comm := k.ecp.toNat, spec := k.ecp.toNat, hdr := none, srcs := none,
                          segs := none }).reserve c n q.instr
      else s.discardEntry c q true).leaveHandler c n k := by
  obtain ⟨x, hx⟩ := hk
  have hhome : (s.task c n).home = k.home := by rw [hx]; rfl
  rw [← State.leaveHandler_of_home, State.trapReturn, hx]
  · dsimp only
    rw [if_pos hbit, he, Option.bind_some, hq]
  · split
    · rw [State.home_reserve, ← hhome]
      exact congrArg Task.home (State.task_queue s c n _)
    · rw [State.home_discardEntry, hhome]

end

/-! ## TRET (R179, R185, R353) -/

/-- No entry of a slot is found in queues that have none. -/
theorem find?_of_slot_none {l : List Entry} {n : Nat} {p : Entry → Bool} (h : (l.all fun q => !(q.slot == n)) = true)
    (hp : ∀ q, p q = true → (q.slot == n) = true) : l.find? p = none := by
  rw [List.find?_eq_none]
  intro q hq hfound
  have hother := List.all_eq_true.mp h q hq
  rw [hp q hfound] at hother
  exact Bool.false_ne_true hother

theorem State.repark_of_none {s : State} {c n : Nat} (h : ((s.core c).queue.all fun q => !(q.slot == n)) = true) : s.repark c n = s := by
  rw [State.repark, find?_of_slot_none h fun q hq => (Bool.and_eq_true_iff.mp (Bool.and_eq_true_iff.mp hq).1).1]

theorem State.frozenEntry_of_none {s : State} {c n : Nat} (h : ((s.core c).queue.all fun q => !(q.slot == n)) = true) (e : Eng) :
    s.frozenEntry c n e = none :=
  find?_of_slot_none h fun _ hq => (Bool.and_eq_true_iff.mp (Bool.and_eq_true_iff.mp hq).1).1

theorem OnlyTask.queue {s t : State} {c n : Nat} (h : OnlyTask s c n t) : (t.core c).queue = (s.core c).queue := by rw [h.unit]

/-- The conditions of R179 on ESW. -/
theorem Task.eswBad_iff (k : Task) : k.eswBad = true ↔ k.esw.toNat / 2 ^ 48 ≠ 0 ∨ k.esw.toNat / 4 % 2 ^ 36 ≠ 0 ∨ k.esw.getLsbD 0 = true ∨
    (k.esw.getLsbD 1 = true ∧ k.priv = false) := by
  have hfield (lo len : Nat) : k.esw.extractLsb' lo len ≠ 0 ↔ k.esw.toNat / 2 ^ lo % 2 ^ len ≠ 0 := by
    rw [ne_eq, ← BitVec.toNat_inj, BitVec.extractLsb'_toNat, Nat.shiftRight_eq_div_pow]; rfl
  have hhigh : k.esw.toNat / 2 ^ 48 % 2 ^ 16 = k.esw.toNat / 2 ^ 48 := by have := k.esw.isLt; omega
  rw [Task.eswBad, Bool.or_eq_true, Bool.or_eq_true, Bool.or_eq_true, Bool.and_eq_true, bne_iff_ne, bne_iff_ne, Bool.not_eq_true', hfield, hfield,
    hhigh, or_assoc, or_assoc]; rfl

section
variable {s : State} {c n : Nat} {y : Sync} (h : Ready s c n y)
include h

theorem State.waited_eswBad : ((s.waited c n y).task c n).eswBad = (s.task c n).eswBad := by
  obtain ⟨-, ⟨x, hx⟩, -⟩ := State.waited_ready h
  rw [hx]; rfl

variable (hin : (s.task c n).inh = true)
include hin

theorem exec_tret (hgood : (s.task c n).eswBad = false) : exec (.tret y) s =
    .next (((((s.waited c n y).trapReturn c n).issued c n).repark c n).signal c y.ssem y.sinc.toNat) := by
  refine (scalar_ready (ill := fun t => !t.inh) h (by rw [hin]; rfl)).trans ?_
  simp only [State.waited_eswBad h, hgood, Bool.false_eq_true, if_false]; rfl

theorem exec_tret_bad (hbad : (s.task c n).eswBad = true) : exec (.tret y) s = .next ((s.waited c n y).issueTrap c n cBADSTATUS 0 0) := by
  refine exec_issueTrap (ill := fun t => !t.inh) h rfl (by rw [hin]; rfl) ?_
  simp only [State.waited_eswBad h, hbad, if_true]

/-- A handler whose task has nothing in the queues: it leaves, and only its task and the semaphores change. -/
theorem exec_tret_alone (hgood : (s.task c n).eswBad = false) (hq : ((s.core c).queue.all fun q => !(q.slot == n)) = true) :
    ∃ u, exec (.tret y) s = .next u ∧ (u.task c n).noCount = { (s.task c n).gone.noCount with
      pc := (s.task c n).epc, inh := false, priv := (s.task c n).esw.getLsbD 1, frozenEng := none } ∧ OnlyTask s c n u := by
  obtain ⟨honly, ⟨x, hx⟩, -⟩ := State.waited_ready h
  have hq' : (((s.waited c n y).core c).queue.all fun q => !(q.slot == n)) = true := by rwa [honly.queue]
  have hleave : (s.waited c n y).trapReturn c n = (s.waited c n y).leaveHandler c n (s.task c n) :=
    State.trapReturn_unfrozen ⟨x, hx⟩ fun _ => by
      cases (s.task c n).frozenEng with
      | none => rfl
      | some e => exact State.frozenEntry_of_none hq' e
  have hpark : (((s.waited c n y).leaveHandler c n (s.task c n)).issued c n).repark c n =
      ((s.waited c n y).leaveHandler c n (s.task c n)).issued c n :=
    State.repark_of_none (by rwa [State.issued, State.queue_modTask, State.leaveHandler, State.queue_modTask])
  have hexec := exec_tret h hin hgood
  rw [hleave, hpark] at hexec
  refine ⟨_, hexec, ?_, ((honly.trans (.modTask ..)).trans (.modTask ..)).trans (.signal ..)⟩
  rw [State.task_signal, State.issued, State.task_modTask_same, State.leaveHandler, State.task_modTask_same, hx]
  simp only [Task.gone, Task.pastWait, h.2.1, reduceCtorEq, if_false]
  split <;> rfl

end

/-- Settles O29: TRET by its ESW, and the return by the command that its engine keeps frozen. -/
theorem trapReturn : Obligations.trap_return := by
  rintro s _ c n y _ _ h rfl rfl rfl
  have htask := (State.waited_ready h).2.1
  refine ⟨fun hin hgood => exec_tret h hin hgood,
    fun hbit => State.trapReturn_unfrozen htask fun hset => absurd (hbit.symm.trans hset) Bool.false_ne_true,
    fun e q hbit he hq => ⟨fun hresume => ?resumed, fun hresume => ?discarded⟩, fun hin hgood hq => exec_tret_alone h hin hgood hq,
    fun hin hbad => exec_tret_bad h hin hbad, fun hout => scalar_illegal (ill := fun t => !t.inh) h (by rw [hout]; rfl), Task.eswBad_iff _⟩
  case resumed => rw [State.trapReturn_frozen htask hbit he hq, if_pos hresume]; rfl
  case discarded => rw [State.trapReturn_frozen htask hbit he hq, if_neg (Bool.eq_false_iff.mp hresume)]; rfl

end Sys2Proof.Machine
end

section
/-! SUPPORT. The accumulators of a pass (R279, R282, R385, R399): rows written into an accumulator, the rows of a pass one after the other, and the sums of
an integer pass. -/

namespace Sys2Proof.Machine

/-! ## Rows of an accumulator (R385) -/

/-- Where element (i, j) of accumulator n lies. -/
def accAddr (n : AccReg) (i j : Nat) : Nat := n.val * 65536 + i * 512 + j

theorem Core.accElem_eq (k : Core) (n : AccReg) (i j : Nat) : k.accElem n i j = Sparse.get k.acc (accAddr n i j) := rfl

theorem Core.acc_setAccElem (k : Core) (n : AccReg) (i j : Nat) (x : BitVec 32) :
    (k.setAccElem n i j x).acc = Sparse.set k.acc (accAddr n i j) x := rfl

/-- Elements of an accumulator, and of different accumulators in their 128 rows, lie apart. -/
theorem accAddr_inj {n m : AccReg} {i i' j j' : Nat} (hj : j < 512) (hj' : j' < 512) (hrow : n = m ∨ i < 128 ∧ i' < 128) :
    accAddr n i j = accAddr m i' j' ↔ n = m ∧ i = i' ∧ j = j' := by
  rw [Fin.ext_iff] at hrow ⊢
  unfold accAddr
  omega

/-- A row of an accumulator is all that is written. -/
theorem Core.setAccRow_eq (k : Core) (n : AccReg) (i j : Nat) (l : List (BitVec 32)) :
    k.setAccRow n i j l = { k with acc := (k.setAccRow n i j l).acc } := by
  induction l generalizing k j with
  | nil => rfl
  | cons x l ih => rw [Core.setAccRow, ih]; rfl

theorem Core.isat_setAccRow (k : Core) (n : AccReg) (i j : Nat) (l : List (BitVec 32)) : (k.setAccRow n i j l).isat = k.isat := by
  rw [Core.setAccRow_eq]

theorem Core.wf_setAccRow {k : Core} (n : AccReg) (i j : Nat) (l : List (BitVec 32)) (h : Sparse.wf k.acc = true) :
    Sparse.wf (k.setAccRow n i j l).acc = true := by
  induction l generalizing k j with
  | nil => exact h
  | cons x l ih => exact ih (j + 1) (Sparse.wf_set _ _ h)

/-- An element after a row of `l` has been written from column `j` on. -/
theorem Core.get_setAccRow {k : Core} (n : AccReg) (i j a : Nat) (l : List (BitVec 32)) (h : Sparse.wf k.acc = true) :
    Sparse.get (k.setAccRow n i j l).acc a =
      if accAddr n i j ≤ a ∧ a < accAddr n i j + l.length then l.getD (a - accAddr n i j) 0 else Sparse.get k.acc a := by
  induction l generalizing k j with
  | nil => rw [if_neg fun hin => by simp only [List.length_nil] at hin; omega]; rfl
  | cons x l ih =>
    have hnext : accAddr n i (j + 1) = accAddr n i j + 1 := (Nat.add_assoc ..).symm
    rw [Core.setAccRow, ih (j + 1) (Sparse.wf_set _ _ h), Core.acc_setAccElem, hnext, List.length_cons]
    by_cases ha : a = accAddr n i j
    · rw [if_neg (by omega), if_pos (by omega), ha, Sparse.get_set_same (lo := none) _ _ h, Nat.sub_self, List.getD_cons_zero]
    · rw [Sparse.get_set_ne (lo := none) _ _ _ ha h]
      split
      · next hin => rw [if_pos (by omega), show a - accAddr n i j = a - (accAddr n i j + 1) + 1 by omega, List.getD_cons_succ]
      · next hout => rw [if_neg (by omega)]

theorem Core.accElem_setAccRow {k : Core} {n m : AccReg} {i i' j : Nat} {l : List (BitVec 32)} (h : Sparse.wf k.acc = true) (hl : l.length ≤ 512)
    (hj : j < 512) (hrow : n = m ∨ i < 128 ∧ i' < 128) :
    (k.setAccRow n i 0 l).accElem m i' j = if m = n ∧ i' = i ∧ j < l.length then l.getD j 0 else k.accElem m i' j := by
  rw [Core.accElem_eq, Core.get_setAccRow n i 0 _ l h]
  have hin : accAddr n i 0 ≤ accAddr m i' j ∧ accAddr m i' j < accAddr n i 0 + l.length ↔ m = n ∧ i' = i ∧ j < l.length := by
    rw [Fin.ext_iff] at hrow ⊢
    unfold accAddr
    omega
  split
  · next h1 =>
    rw [if_pos (hin.mp h1), (hin.mp h1).1, (hin.mp h1).2.1]
    congr 1
    unfold accAddr; omega
  · next h1 => exact (if_neg fun h2 => h1 (hin.mpr h2)).symm

/-! ## The rows of a pass (R279, R282, R399) -/

/-- A row of a pass: each of `cols` elements of row `i` of accumulator n takes the value that `V` gives it, and ISAT is set where `V` says so. -/
def Core.passRow (n : AccReg) (cols i : Nat) (V : Nat → BitVec 32 → BitVec 32 × Bool) (k : Core) : Core :=
  let out := (List.range cols).map fun j => V j (k.accElem n i j)
  { k.setAccRow n i 0 (out.map fun o => o.1) with isat := k.isat || out.any fun o => o.2 }

/-- The first `nr` rows of a pass from row `r0` on, one after the other. -/
def Core.passRows (n : AccReg) (r0 cols : Nat) (V : Nat → Nat → BitVec 32 → BitVec 32 × Bool) (nr : Nat) (k : Core) : Core :=
  (List.range nr).foldl (fun k r => k.passRow n cols (r0 + r) (V r)) k

section
variable {n : AccReg} {k : Core}

theorem Core.passRow_eq (cols i : Nat) (W : Nat → BitVec 32 → BitVec 32 × Bool) :
    k.passRow n cols i W = { k with acc := (k.passRow n cols i W).acc, isat := (k.passRow n cols i W).isat } := by
  unfold Core.passRow
  dsimp only
  rw [Core.setAccRow_eq]

theorem Core.wf_passRow (cols i : Nat) (W : Nat → BitVec 32 → BitVec 32 × Bool) (h : Sparse.wf k.acc = true) :
    Sparse.wf (k.passRow n cols i W).acc = true := Core.wf_setAccRow _ _ _ _ h

theorem Core.accElem_passRow {m : AccReg} {cols i i' j : Nat} (W : Nat → BitVec 32 → BitVec 32 × Bool) (h : Sparse.wf k.acc = true)
    (hcols : cols ≤ 512) (hj : j < 512) (hrow : n = m ∨ i < 128 ∧ i' < 128) : (k.passRow n cols i W).accElem m i' j =
      if m = n ∧ i' = i ∧ j < cols then (W j (k.accElem n i j)).1 else k.accElem m i' j := by
  have hset := Core.accElem_setAccRow (i := i) (l := ((List.range cols).map fun j => W j (k.accElem n i j)).map fun o => o.1) h
    (by simpa using hcols) hj hrow
  refine hset.trans ?_
  simp only [List.length_map, List.length_range]
  split
  · next hin => simp [List.getD_eq_getElem?_getD, hin.2.2]
  · rfl

theorem Core.isat_passRow (cols i : Nat) (W : Nat → BitVec 32 → BitVec 32 × Bool) :
    (k.passRow n cols i W).isat = true ↔ k.isat = true ∨ ∃ j, j < cols ∧ (W j (k.accElem n i j)).2 = true := by
  simp [Core.passRow]

variable {r0 cols : Nat} {V : Nat → Nat → BitVec 32 → BitVec 32 × Bool}

theorem Core.passRows_succ (nr : Nat) : k.passRows n r0 cols V (nr + 1) = (k.passRows n r0 cols V nr).passRow n cols (r0 + nr) (V nr) := by
  rw [Core.passRows, List.range_succ, List.foldl_append]; rfl

theorem Core.passRows_eq (nr : Nat) :
    k.passRows n r0 cols V nr = { k with acc := (k.passRows n r0 cols V nr).acc, isat := (k.passRows n r0 cols V nr).isat } := by
  induction nr with
  | zero => rfl
  | succ nr ih => rw [Core.passRows_succ, Core.passRow_eq, ih]

theorem Core.wf_passRows (nr : Nat) (h : Sparse.wf k.acc = true) : Sparse.wf (k.passRows n r0 cols V nr).acc = true := by
  induction nr with
  | zero => exact h
  | succ nr ih => rw [Core.passRows_succ]; exact Core.wf_passRow _ _ _ ih

/-- The elements of the rows of a pass take their new values from the old ones; every other element is kept. -/
theorem Core.accElem_passRows {nr : Nat} (h : Sparse.wf k.acc = true) (hcols : cols ≤ 512) (i j : Nat) (hj : j < 512) :
    (k.passRows n r0 cols V nr).accElem n i j =
      if r0 ≤ i ∧ i < r0 + nr ∧ j < cols then (V (i - r0) j (k.accElem n i j)).1 else k.accElem n i j := by
  induction nr with
  | zero => rw [if_neg (by omega)]; rfl
  | succ nr ih =>
    rw [Core.passRows_succ, Core.accElem_passRow _ (Core.wf_passRows nr h) hcols hj (.inl rfl)]
    by_cases hi : i = r0 + nr
    · subst hi
      rw [ih, if_neg (c := r0 ≤ r0 + nr ∧ r0 + nr < r0 + nr ∧ j < cols) (by omega), Nat.add_sub_cancel_left]
      exact if_congr (by simp only [true_and]; omega) rfl rfl
    · rw [if_neg fun hin => hi hin.2.1, ih]
      exact if_congr (by omega) rfl rfl

/-- Other accumulators are kept. -/
theorem Core.accElem_passRows_ne {nr : Nat} (h : Sparse.wf k.acc = true) (hcols : cols ≤ 512) (hnr : r0 + nr ≤ 128) {m : AccReg} (hm : m ≠ n) (i j : Nat)
    (hi : i < 128) (hj : j < 512) : (k.passRows n r0 cols V nr).accElem m i j = k.accElem m i j := by
  induction nr with
  | zero => rfl
  | succ nr ih =>
    rw [Core.passRows_succ, Core.accElem_passRow _ (Core.wf_passRows nr h) hcols hj (.inr (by omega)), if_neg fun hin => hm hin.1, ih (by omega)]

/-- ISAT after the rows of a pass. -/
theorem Core.isat_passRows {nr : Nat} (h : Sparse.wf k.acc = true) (hcols : cols ≤ 512) : (k.passRows n r0 cols V nr).isat = true ↔
    k.isat = true ∨ ∃ i j, r0 ≤ i ∧ i < r0 + nr ∧ j < cols ∧ (V (i - r0) j (k.accElem n i j)).2 = true := by
  induction nr with
  | zero => exact ⟨.inl, fun hset => hset.resolve_right fun ⟨i, j, h1, h2, _⟩ => by omega⟩
  | succ nr ih =>
    have hkept (j : Nat) (hj : j < cols) : (k.passRows n r0 cols V nr).accElem n (r0 + nr) j = k.accElem n (r0 + nr) j := by
      rw [Core.accElem_passRows h hcols _ _ (by omega), if_neg (by omega)]
    rw [Core.passRows_succ, Core.isat_passRow, ih, or_assoc]
    refine or_congr_right ⟨?_, ?_⟩
    · rintro (⟨i, j, h1, h2, hset⟩ | ⟨j, hj, hset⟩)
      · exact ⟨i, j, h1, by omega, hset⟩
      · exact ⟨r0 + nr, j, by omega, by omega, hj, by rwa [Nat.add_sub_cancel_left, ← hkept j hj]⟩
    · rintro ⟨i, j, h1, h2, hj, hset⟩
      by_cases hi : i = r0 + nr
      · subst hi
        rw [Nat.add_sub_cancel_left] at hset
        exact .inr ⟨j, hj, by rwa [hkept j hj]⟩
      · exact .inl ⟨i, j, h1, by omega, hj, hset⟩

end

/-! ## The sum of an integer pass (R282) -/

theorem foldl_products (l : List (Int × Int × Int)) (x : Int) :
    l.foldl (fun v (a, w, d) => v + a * w + d) x = x + (l.map fun p => p.1 * p.2.1 + p.2.2).sum := by
  induction l generalizing x with
  | nil => simp
  | cons p l ih => rw [List.foldl_cons, ih, List.map_cons, List.sum_cons]; ring

/-- An integer pass on one element: its sum, clamped where it saturates, which it says. -/
theorem intElem_eq {saturate : Bool} {l : List (Int × Int × Int)} {x : BitVec 32} {v : Int}
    (hv : v = x.toInt + (l.map fun p => p.1 * p.2.1 + p.2.2).sum) :
    (intElem saturate l x).1 = BitVec.ofInt 32 (if saturate then max (min v (2 ^ 31 - 1)) (-2 ^ 31) else v) ∧
    ((intElem saturate l x).2 = true ↔ saturate = true ∧ (v < -2 ^ 31 ∨ 2 ^ 31 - 1 < v)) := by
  rw [← foldl_products] at hv
  rw [intElem, ← hv]
  cases saturate with
  | false => exact ⟨rfl, by simp⟩
  | true =>
    simp only [if_true, true_and]
    split
    · next hhigh => rw [min_eq_right hhigh.le]; exact ⟨by decide, by simp; omega⟩
    · split
      · next hlow => rw [min_eq_left (by omega), max_eq_right hlow.le]; exact ⟨by decide, by simp; omega⟩
      · next hhigh hlow => rw [min_eq_left (by omega), max_eq_left (by omega)]; exact ⟨rfl, by simp; omega⟩

end Sys2Proof.Machine
end

section
/-! SUPPORT. MXPASS (R204, R389 to R393, R399): the entry's copy of its sets, the checks that its operands pass, what the skerry check and the rows written leave
of the scratchpad, the rows that its engine performs, and the statement O38. -/

namespace Sys2Proof.Machine

/-! ## The copy of the sets (R393) -/

theorem copySets_mxCopy (k : Core) (g h : GReg) : copySets (mxCopy k g h) = (k.agSet g, k.agSet h, k.mxmode.getLsbD 0) := by
  have hfirst : (mxCopy k g h).extractLsb' 0 44 = k.agSet g := by
    apply BitVec.eq_of_getLsbD_eq
    intro i hi
    simp [mxCopy, hi, show i < 128 by omega, show i < 88 by omega]
  have hsecond : (mxCopy k g h).extractLsb' 44 44 = k.agSet h := by
    apply BitVec.eq_of_getLsbD_eq
    intro i hi
    simp [mxCopy, hi, show 44 + i < 128 by omega, show 44 + i < 88 by omega]
  have himode : (mxCopy k g h).getLsbD 88 = k.mxmode.getLsbD 0 := by simp [mxCopy]
  rw [copySets, hfirst, hsecond, himode]

/-- In the unit, the start of an entry and its copy of the sets change the tasks, the semaphores, the data cache and the queues. -/
theorem Issue.copied_core (x : Issue) (s : State) (c n : Nat) (y : Sync) (e3 : Bool) (g h : GReg) : (x.copied s c n y e3 g h).core c =
    { s.core c with slots := ((x.copied s c n y e3 g h).core c).slots, sems := ((x.copied s c n y e3 g h).core c).sems,
                    dcache := ((x.copied s c n y e3 g h).core c).dcache, queue := ((x.copied s c n y e3 g h).core c).queue } := by
  unfold Issue.copied State.modEntry State.modEntries
  rw [State.core_modCore_same, Issue.begun_core]

/-- An MX instruction that names sets is performed with the copy of them. -/
theorem withCopy_started {x : Issue} {s : State} {c n : Nat} {y : Sync} {e3 : Bool} {g h : GReg} {f : AgSet × AgSet × Bool → Perf} :
    withCopy e3 g h f c (x.started s c n y) (x.begun s c n y) =
      f ((s.core c).agSet g, (s.core c).agSet h, (s.core c).mxmode.getLsbD 0) c (x.started s c n y) (x.copied s c n y e3 g h) := by
  have hcopy : mxCopy ((x.begun s c n y).core c) g h = mxCopy (s.core c) g h := by rw [Issue.begun_core]; rfl
  rw [← copySets_mxCopy]
  simp only [withCopy, hcopy]
  rfl

/-! ## The checks (R391) -/

theorem foldl_lower_none {α : Type} {l : List α} {f : α → Option Addr} (h : ∀ x ∈ l, f x = none) : l.foldl (fun b x => lower b (f x)) none = none := by
  induction l with
  | nil => rfl
  | cons x l ih =>
    obtain ⟨hx, hl⟩ := List.forall_mem_cons.mp h
    rw [List.foldl_cons, hx]
    exact ih hl

/-- Operands that pass the checks, with values that do, are performed on. -/
theorem mxCheck_fits {l : List MxArg} {code c : Nat} {q : Entry} {s : State} {f : PRes} (h : MxFits s c q true l) (hcode : code = 0) :
    mxCheck l code true c q s f = f := by
  have halign : l.find? (fun x => x.data && x.base.toNat % 16 != 0) = none := by
    rw [List.find?_eq_none]
    intro x hx
    obtain ⟨hbase, -⟩ := h x hx
    cases hd : x.data with
    | false => exact Bool.false_ne_true
    | true => simp [hbase hd]
  have hlocked : (l.any fun x => x.locked (before q (s.core c).queue)) = false := by
    rw [List.any_eq_false]
    intro x hx
    obtain ⟨-, -, hlock, -⟩ := h x hx
    rw [hlock]; exact Bool.false_ne_true
  simp only [mxCheck, halign, foldl_lower_none fun x hx => (h x hx).2.1, hlocked, hcode, foldl_lower_none fun x hx => (h x hx).2.2.2 rfl,
    Bool.false_eq_true, if_false, if_true, ne_eq, not_true_eq_false]

/-! ## The scratchpad (R23, R204, R225) -/

/-- Two states whose scratchpads and their poison are alike. -/
def State.SameSp (s t : State) : Prop := ∀ d, (t.core d).spm = (s.core d).spm ∧ (t.core d).spPoison = (s.core d).spPoison

theorem State.SameSp.of_cores {s t : State} (h : t.cores = s.cores) : s.SameSp t := fun d => by
  rw [State.core, State.core, h]; exact ⟨rfl, rfl⟩

theorem State.SameSp.setCore {s t : State} {c : Nat} {k : Core} (h : s.SameSp t) (hspm : k.spm = (t.core c).spm)
    (hpoison : k.spPoison = (t.core c).spPoison) : s.SameSp (t.setCore c k) := fun d => by
  by_cases hd : d = c
  · subst hd
    rw [State.core_setCore_same, hspm, hpoison]
    exact h d
  · rw [State.core_setCore_ne _ _ _ _ hd]
    exact h d

theorem State.SameSp.spByte {s t : State} (h : s.SameSp t) (c o : Nat) : t.spByte c o = s.spByte c o := by
  rw [State.spByte, State.spByte, (h _).1]

theorem State.SameSp.swzPoison {s t : State} (h : s.SameSp t) (c p o n : Nat) : t.swzPoison c p o n = s.swzPoison c p o n := by
  simp only [State.swzPoison, State.poisoned, (h _).2]

/-- Logical bytes, by number. -/
theorem State.swzBytes_eq_map (s : State) (c p o n : Nat) : s.swzBytes c p o n = (List.range n).map fun i => s.spByte c (swizzle p (o + i)) := by
  induction n generalizing o with
  | zero => rfl
  | succ n ih =>
    rw [State.swzBytes, ih, List.range_succ_eq_map, List.map_cons, List.map_map]
    exact congrArg _ (List.map_congr_left fun i _ => by rw [Function.comp_apply, Nat.succ_eq_add_one, Nat.add_assoc, Nat.add_comm 1])

/-- An element of `w` bytes of a row of an operand, out of the row's bytes. -/
theorem MxArg.word_eq_ofBytes {x : MxArg} {s : State} {c r w m e : Nat} (hlen : x.len = w * m) (he : e < m) :
    ofBytes ((List.range w).map fun b => (s.swzBytes c x.swz (x.row r) x.len).toArray.getD (w * e + b) 0) = x.word s c r (w * e) w := by
  rw [MxArg.word, State.swzBytes_eq_map]
  refine congrArg ofBytes (List.map_congr_left fun b hb => ?_)
  rw [List.mem_range] at hb
  have hin : w * e + b < x.len := by
    rw [hlen]
    calc w * e + b < w * e + w := by omega
      _ = w * (e + 1) := by ring
      _ ≤ w * m := Nat.mul_le_mul_left w he
  simp [hin, Nat.add_assoc]

/-- The skerry check leaves every unit as it was. -/
theorem State.cores_skerry (s : State) (c k0 kp : Nat) : (s.skerry c k0 kp).1.cores = s.cores := by
  have hhalf (member : Nat) (h : Bool) (s : State) (first : Option Addr) :
      (s.skerryHalf c member h k0 kp first).1.unitsFaults = s.unitsFaults := by
    simp only [State.skerryHalf]
    split
    · rfl
    · refine foldl_keeps (fun x : State × Option Addr => x.1.unitsFaults = s.unitsFaults) _ (fun x col hx => ?_) _ _ rfl
      split
      · exact hx
      · rename_i o _
        by_cases ho : o = 2
        all_goals
          simp only [ho, if_true, if_false]
          exact ((State.unitsFaults_tideEvent _ _ _ _).trans (State.unitsFaults_strandEvent _ _ _ _)).trans hx
  refine congrArg Prod.fst (foldl_keeps (fun x : State × Option Addr => x.1.unitsFaults = s.unitsFaults) _ (fun x m hx => ?_) _ _ rfl)
  rw [hhalf, hhalf, hx]

/-! ## The rows that the engine performs (R279, R282, R399) -/

/-- The scale of element `e` of activation row `r` (R399). -/
def Pass.scale (p : Pass) (s : State) (c r e : Nat) : Byte :=
  match p.y with
  | some (a, geo) => s.spByte c (swizzle a.swz (a.row (r / geo.1) + e / geo.2))
  | none => 0x7F

/-- The activation word of element `e` of row `r` (R399). -/
def Pass.word (p : Pass) (s : State) (c r e : Nat) : Nat := p.x.word s c r (esz p.fmt * e) (esz p.fmt)

/-- What row `r` of a pass makes of a value in column `j`, whose weights are `w` and to which defective cells add `wrong`. -/
def Pass.elem (p : Pass) (s : State) (c : Nat) (w : Nat → Nat → BitVec 16) (wrong : Nat → Nat → Int) (r j : Nat) (x : BitVec 32) : BitVec 32 × Bool :=
  if p.latchFmt = 0x20 then
    intElem p.saturate ((List.range p.kp).map fun e => ((BitVec.ofNat 8 (p.word s c r e)).toInt, ((w e j).setWidth 8).toInt, wrong e j)) x
  else
    (floatElem 4 ((List.range p.kp).map fun e =>
      (Fl.mul (e8m0 (p.scale s c r e)) ((fmtOf p.fmt).decode (p.word s c r e)), latchVal p.latchFmt (w e j), wrong e j)) x, false)

/-- Weights by column with what their cells add wrongly. -/
def columnWeights (cols kp : Nat) (w : Nat → Nat → BitVec 16) (wrong : Nat → Nat → Int) : List (List (BitVec 16 × Int)) :=
  (List.range cols).map fun j => (List.range kp).map fun e => (w e j, wrong e j)

theorem map_zipIdx_columnWeights {α : Type} (cols kp : Nat) (w : Nat → Nat → BitVec 16) (wrong : Nat → Nat → Int)
    (f : List (BitVec 16 × Int) × Nat → α) : (columnWeights cols kp w wrong).zipIdx.map f =
      (List.range cols).map fun j => f ((List.range kp).map fun e => (w e j, wrong e j), j) := by
  apply List.ext_getElem
  · simp [columnWeights]
  · intro j _ _
    simp [columnWeights]

section
variable {p : Pass} {s t : State} {c r cols : Nat} {w : Nat → Nat → BitVec 16} {wrong : Nat → Nat → Int}

theorem Pass.row_eq (hsp : s.SameSp t) (hlen : p.x.len = esz p.fmt * p.kp) :
    p.row t c r = (List.range p.kp).map fun e => (p.word s c r e, p.scale s c r e) := by
  have hbytes : t.swzBytes c p.x.swz (p.x.row r) p.x.len = s.swzBytes c p.x.swz (p.x.row r) p.x.len := by
    simp only [State.swzBytes_eq_map, hsp.spByte]
  rw [Pass.row, hbytes]
  refine List.map_congr_left fun e he => ?_
  rw [MxArg.word_eq_ofBytes hlen (List.mem_range.mp he)]
  simp only [Pass.scale, hsp.spByte]
  rfl

/-- A clean row of a pass without an MXCHECK writes its accumulator row. -/
theorem passRow_clean (hsp : s.SameSp t) (hlen : p.x.len = esz p.fmt * p.kp) (hw : p.weights = columnWeights cols p.kp w wrong)
    (hcheck : p.check = none) (hclean : p.x.clean s c r) (hscale : ∀ a geo, p.y = some (a, geo) → a.clean s c (r / geo.1)) :
    passRow p c r t = ⟨t.setCore c ((t.core c).passRow p.n cols (p.row0 + r) (p.elem s c w wrong r)), r, r, .done⟩ := by
  have hdata : t.swzPoison c p.x.swz (p.x.row r) p.x.len = none := (hsp.swzPoison ..).trans hclean
  have hscales : (p.y.bind fun (a, geo) => (t.swzPoison c a.swz (a.row (r / geo.1)) a.len).map fun i => a.addr (a.row (r / geo.1) + i)) = none := by
    cases hy : p.y with
    | none => rfl
    | some z =>
      obtain ⟨a, geo⟩ := z
      have hnone : t.swzPoison c a.swz (a.row (r / geo.1)) a.len = none := (hsp.swzPoison ..).trans (hscale a geo hy)
      simp only [Option.bind_some, hnone, Option.map_none]
  simp only [passRow, hdata, hscales, hcheck, Pass.row_eq hsp hlen, hw, map_zipIdx_columnWeights, Core.isat_setAccRow]
  split
  · next hint => simp only [Core.passRow, Pass.elem, if_pos hint, List.map_map, List.zipWith_map, List.zipWith_self, Function.comp_def]
  · next hfloat =>
    simp only [Core.passRow, Pass.elem, if_neg hfloat, List.map_map, List.any_map, List.zipWith_map, List.zipWith_self, Function.comp_def]
    rw [List.any_eq_false.mpr fun _ _ => Bool.false_ne_true, Bool.or_false, Core.setAccRow_eq]

end

/-- Units that each change one core are performed one after the other. -/
theorem stream_setCore {c : Nat} {f : Nat → State → PRes} {g : Nat → Core → Core} {P : State → Prop} {N : Nat}
    (hf : ∀ e s, e < N → P s → f e s = ⟨s.setCore c (g e (s.core c)), e, e, .done⟩ ∧ P (s.setCore c (g e (s.core c)))) (n e : Nat) (s : State)
    (hs : P s) (hN : e + n < N) :
    stream (n + 1) e f s = ⟨s.setCore c ((List.range' e (n + 1)).foldl (fun k r => g r k) (s.core c)), e + n + 1, e + n + 1, .done⟩ := by
  induction n generalizing e s with
  | zero =>
    obtain ⟨hstep, -⟩ := hf e s hN hs
    simp only [stream, hstep]
    rfl
  | succ n ih =>
    obtain ⟨hstep, hnext⟩ := hf e s (by omega) hs
    rw [stream, hstep]
    dsimp only
    rw [ih (e + 1) _ hnext (by omega), State.setCore_setCore, State.core_setCore_same, List.range'_succ (n := n + 1), List.foldl_cons,
      show e + 1 + n + 1 = e + (n + 1) + 1 by omega]

/-- The rows of a pass over clean operands without an MXCHECK (R399). -/
theorem stream_passRow {p : Pass} {s t : State} {c cols : Nat} {w : Nat → Nat → BitVec 16} {wrong : Nat → Nat → Int} (hsp : s.SameSp t)
    (hlen : p.x.len = esz p.fmt * p.kp) (hw : p.weights = columnWeights cols p.kp w wrong) (hcheck : p.check = none) (hpos : p.nrow ≠ 0)
    (hclean : ∀ r, r < p.nrow → p.x.clean s c r) (hscale : ∀ a geo, p.y = some (a, geo) → ∀ r, r < p.nrow → a.clean s c (r / geo.1)) :
    stream p.nrow 0 (passRow p c) t =
      ⟨t.setCore c ((t.core c).passRows p.n p.row0 cols (p.elem s c w wrong) p.nrow), p.nrow, p.nrow, .done⟩ := by
  obtain ⟨m, hm⟩ := Nat.exists_eq_succ_of_ne_zero hpos
  rw [Nat.succ_eq_add_one] at hm
  have hrows := stream_setCore (c := c) (f := passRow p c) (g := fun r k => k.passRow p.n cols (p.row0 + r) (p.elem s c w wrong r)) (P := s.SameSp)
    (N := p.nrow) (fun r u hr hu => ⟨passRow_clean hu hlen hw hcheck (hclean r hr) fun a geo hy => hscale a geo hy r hr,
      hu.setCore (by rw [Core.passRow_eq]) (by rw [Core.passRow_eq])⟩) m 0 t hsp (by omega)
  rw [Nat.zero_add, ← List.range_eq_range'] at hrows
  rw [hm]
  exact hrows

/-! ## MXPASS (R391, R399) -/

/-- MXPASS at its issue. -/
def passIssue (y : Sync) (fmt : BitVec 8) (acc : AccReg) (a : AReg) (rt : SReg) (gx : GReg) (sc : ScaleOp) : Issue :=
  mx (.mxpass y fmt acc a rt gx sc) fun k => [0, capA k a, capS k rt, sclCap k sc]

/-- The address of an optional scale operand. -/
def Task.scaleBase (k : Task) : ScaleOp → Addr
  | none => 0
  | some (a, _) => k.areg a

/-- The activations of a pass with the PTILE word `T`. -/
def passData (k : Task) (K : Core) (fmt : BitVec 8) (a : AReg) (gx : GReg) (T : Word) : MxArg :=
  { base := k.areg a, stride := 16 * (K.agSet gx).rstr, rows := tw T 8, len := esz fmt * tw T 24, swz := (K.agSet gx).swz, data := true }

/-- Their scales. -/
def passScales (k : Task) (K : Core) (sc : ScaleOp) (T : Word) : MxArg :=
  { base := k.scaleBase sc, stride := (K.agSet (sclSet sc)).sstr, rows := ceilDiv (tw T 8) (K.agSet (sclSet sc)).geo.1,
    len := ceilDiv (tw T 24) (K.agSet (sclSet sc)).geo.2, swz := (K.agSet (sclSet sc)).swz, data := false }

/-- A pass whose skerry check finds no three-way difference. -/
def passOf (k : Task) (K : Core) (fmt : BitVec 8) (acc : AccReg) (a : AReg) (gx : GReg) (sc : ScaleOp) (T : Word) (w : Nat → Nat → BitVec 16)
    (wrong : Nat → Nat → Int) : Pass :=
  { fmt := fmt, n := acc, row0 := tw T 0, nrow := tw T 8, kp := tw T 24, x := passData k K fmt a gx T
    y := if sc.isSome then some (passScales k K sc T, (K.agSet (sclSet sc)).geo) else none
    saturate := K.mxmode.getLsbD 0, check := none, weights := columnWeights (128 * K.mode.size) (tw T 24) w wrong, latchFmt := K.latchFmt }

section
variable {s B S : State} {c n : Nat} {y : Sync} {fmt : BitVec 8} {acc : AccReg} {a : AReg} {rt : SReg} {gx : GReg} {sc : ScaleOp}
  {k : Task} {K : Core} {T : Word} (hk : k = s.task c n) (hK : K = s.core c) (hT : T = k.sreg rt)
  (hB : B = (passIssue y fmt acc a rt gx sc).copied s c n y false gx (sclSet sc))
include hk hK hT hB

/-- MXPASS past its copy and its checks: the rows of its pass, after the skerry check. -/
theorem runMxpass_started (hfits : MxFits B c ((passIssue y fmt acc a rt gx sc).started s c n y) true
      (passData k K fmt a gx T :: if sc.isSome then [passScales k K sc T] else []))
    (hcode : firstCode [(pTileBad T, 1), (K.noFormat, 2), ((fmt == 0x20) != (K.latchFmt == 0x20), 3), (sc.isSome && fmt == 0x20, 4)] = 0)
    (hsk : B.skerry c (tw T 16) (tw T 24) = (S, none)) :
    runMxpass fmt acc a rt gx sc c ((passIssue y fmt acc a rt gx sc).started s c n y) ((passIssue y fmt acc a rt gx sc).begun s c n y) =
      stream (tw T 8) 0 (passRow (passOf k K fmt acc a gx sc T (fun i j => K.latchEntry (tw T 16 + i) j) fun i j => B.wrongAt c (tw T 16 + i) j) c) S := by
  subst hk hK
  have hdata : ((passIssue y fmt acc a rt gx sc).started s c n y).o1.setWidth 80 = (s.task c n).areg a := capA_setWidth ..
  have htile : ((passIssue y fmt acc a rt gx sc).started s c n y).o2.setWidth 64 = T := (capS_setWidth ..).trans hT.symm
  have hscale : ((passIssue y fmt acc a rt gx sc).started s c n y).o3.setWidth 80 = (s.task c n).scaleBase sc := by
    cases sc with
    | none => rfl
    | some z => exact capA_setWidth ..
  have hcore := Issue.copied_core (passIssue y fmt acc a rt gx sc) s c n y false gx (sclSet sc)
  rw [← hB] at hcore
  have hfmt : (B.core c).latchFmt = (s.core c).latchFmt := by rw [hcore]
  have hcols : B.columns c = 128 * (s.core c).mode.size := by rw [State.columns, hcore]
  have hentry (r j : Nat) : (B.core c).latchEntry r j = (s.core c).latchEntry r j := by rw [hcore]; rfl
  have hnone : (B.core c).noFormat = (s.core c).noFormat := by rw [hcore]; rfl
  rw [runMxpass, withCopy_started, ← hB]
  dsimp only
  rw [hdata, htile, hscale, hnone, hfmt, hcode, hsk]
  refine (mxCheck_fits hfits rfl).trans ?_
  simp only [hentry, hcols]
  rfl

/-- The rows that a pass writes, from the state that its skerry check leaves. -/
def passEnd (B S : State) (c : Nat) (p : Pass) (cols : Nat) (w : Nat → Nat → BitVec 16) (wrong : Nat → Nat → Int) : State :=
  S.setCore c ((S.core c).passRows p.n p.row0 cols (p.elem B c w wrong) p.nrow)

omit hk hK hT hB in
/-- The conditions of R390 on a PTILE word. -/
theorem pTileBad_eq_false (h : pTileBad T = false) : tw T 8 ≠ 0 ∧ tw T 0 + tw T 8 ≤ 128 := by
  simp only [pTileBad, Bool.or_eq_false_iff, beq_eq_false_iff_ne, decide_eq_false_iff_not, not_lt] at h
  obtain ⟨⟨⟨⟨⟨⟨-, hnr⟩, -⟩, hrows⟩, -⟩, -⟩, -⟩ := h
  exact ⟨hnr, hrows⟩

variable (h : EngineReady s c n y .mx) (hbad : pTileBad T = false)
include h hbad

theorem exec_mxpass {w : Nat → Nat → BitVec 16} {wrong : Nat → Nat → Int}
    (hfits : MxFits B c ((passIssue y fmt acc a rt gx sc).started s c n y) true
      (passData k K fmt a gx T :: if sc.isSome then [passScales k K sc T] else []))
    (hform : K.noFormat = false ∧ (fmt == 0x20) = (K.latchFmt == 0x20) ∧ (sc.isSome && fmt == 0x20) = false)
    (hclean : ∀ r, r < tw T 8 → (passData k K fmt a gx T).clean B c r)
    (hscale : sc.isSome = true → ∀ r, r < tw T 8 → (passScales k K sc T).clean B c (r / (K.agSet (sclSet sc)).geo.1))
    (hsk : B.skerry c (tw T 16) (tw T 24) = (S, none)) (hw : w = fun i j => K.latchEntry (tw T 16 + i) j)
    (hwrong : wrong = fun i j => B.wrongAt c (tw T 16 + i) j) :
    exec (.mxpass y fmt acc a rt gx sc) s = .next ((passIssue y fmt acc a rt gx sc).ended s c n y
      (passEnd B S c (passOf k K fmt acc a gx sc T w wrong) (128 * K.mode.size) w wrong) (tw T 8)) := by
  obtain ⟨hnone, hint, hscl⟩ := hform
  obtain ⟨hpos, -⟩ := pTileBad_eq_false hbad
  have hsp : B.SameSp S := .of_cores (by rw [← State.cores_skerry B, hsk])
  have hcode : firstCode [(pTileBad T, 1), (K.noFormat, 2), ((fmt == 0x20) != (K.latchFmt == 0x20), 3), (sc.isSome && fmt == 0x20, 4)] = 0 := by
    rw [hbad, hnone, hscl, hint, bne_self_eq_false]; rfl
  subst hw hwrong
  have hscales (z : MxArg) (geo : Nat × Nat)
      (hy : (if sc.isSome then some (passScales k K sc T, (K.agSet (sclSet sc)).geo) else none) = some (z, geo)) (r : Nat) (hr : r < tw T 8) :
      z.clean B c (r / geo.1) := by
    split at hy
    · next hs =>
      obtain ⟨rfl, rfl⟩ := Prod.mk.inj (Option.some.inj hy)
      exact hscale hs r hr
    · contradiction
  have hrows := stream_passRow (p := passOf k K fmt acc a gx sc T (fun i j => K.latchEntry (tw T 16 + i) j) fun i j => B.wrongAt c (tw T 16 + i) j)
    hsp rfl rfl rfl hpos hclean hscales
  exact engine_ended (x := passIssue y fmt acc a rt gx sc) h rfl rfl rfl ((runMxpass_started hk hK hT hB hfits hcode hsk).trans hrows)

end

section
variable {B S : State} {c : Nat} {p : Pass} {K : Core} {cols : Nat} {w : Nat → Nat → BitVec 16} {wrong : Nat → Nat → Int}
  (hacc : (S.core c).acc = K.acc) (hwf : Sparse.wf K.acc = true) (hcols : cols ≤ 512)

theorem passEnd_accOnly : AccOnly c S (passEnd B S c p cols w wrong) := by
  rw [AccOnly, passEnd, State.core_setCore_same, ← Core.passRows_eq]

include hacc hwf hcols

theorem passEnd_accElem (i j : Nat) (hj : j < 512) : ((passEnd B S c p cols w wrong).core c).accElem p.n i j =
    if p.row0 ≤ i ∧ i < p.row0 + p.nrow ∧ j < cols then (p.elem B c w wrong (i - p.row0) j (K.accElem p.n i j)).1 else K.accElem p.n i j := by
  rw [passEnd, State.core_setCore_same, Core.accElem_passRows (by rwa [hacc]) hcols i j hj, Core.accElem_eq, hacc]
  rfl

theorem passEnd_accElem_ne (hrows : p.row0 + p.nrow ≤ 128) (m : AccReg) (i j : Nat) (hm : m ≠ p.n) (hi : i < 128) (hj : j < 512) :
    ((passEnd B S c p cols w wrong).core c).accElem m i j = K.accElem m i j := by
  rw [passEnd, State.core_setCore_same, Core.accElem_passRows_ne (by rwa [hacc]) hcols hrows hm i j hi hj, Core.accElem_eq, hacc]
  rfl

theorem passEnd_isat (hisat : (S.core c).isat = K.isat) : ((passEnd B S c p cols w wrong).core c).isat = true ↔ K.isat = true ∨
    ∃ i j, p.row0 ≤ i ∧ i < p.row0 + p.nrow ∧ j < cols ∧ (p.elem B c w wrong (i - p.row0) j (K.accElem p.n i j)).2 = true := by
  rw [passEnd, State.core_setCore_same, Core.isat_passRows (by rwa [hacc]) hcols, hisat]
  simp only [Core.accElem_eq, hacc]

end

/-! ## The value of an element (R279, R282) -/

section
variable {k : Task} {K : Core} {fmt : BitVec 8} {acc : AccReg} {a : AReg} {gx : GReg} {sc : ScaleOp} {T : Word} {w : Nat → Nat → BitVec 16}
  {wrong : Nat → Nat → Int}

/-- The sum of an integer element: its old value and its products. -/
def passSum (k : Task) (K : Core) (acc : AccReg) (a : AReg) (gx : GReg) (T : Word) (B : State) (c : Nat) (w : Nat → Nat → BitVec 16)
    (wrong : Nat → Nat → Int) (i j : Nat) : Int :=
  (K.accElem acc i j).toInt + ((List.range (tw T 24)).map fun e =>
    (BitVec.ofNat 8 ((passData k K 0x20 a gx T).word B c (i - tw T 0) e 1)).toInt * ((w e j).setWidth 8).toInt + wrong e j).sum

theorem passOf_elem_int (hlatch : K.latchFmt = 0x20) (B : State) (c i j : Nat) :
    ((passOf k K 0x20 acc a gx sc T w wrong).elem B c w wrong (i - tw T 0) j (K.accElem acc i j)).1 =
      BitVec.ofInt 32 (if K.mxmode.getLsbD 0 then max (min (passSum k K acc a gx T B c w wrong i j) (2 ^ 31 - 1)) (-2 ^ 31)
        else passSum k K acc a gx T B c w wrong i j) ∧
    (((passOf k K 0x20 acc a gx sc T w wrong).elem B c w wrong (i - tw T 0) j (K.accElem acc i j)).2 = true ↔ K.mxmode.getLsbD 0 = true ∧
      (passSum k K acc a gx T B c w wrong i j < -2 ^ 31 ∨ 2 ^ 31 - 1 < passSum k K acc a gx T B c w wrong i j)) := by
  have hword (e : Nat) : (passOf k K 0x20 acc a gx sc T w wrong).word B c (i - tw T 0) e = (passData k K 0x20 a gx T).word B c (i - tw T 0) e 1 := by
    have hsize : esz 0x20 = 1 := rfl
    change (passData k K 0x20 a gx T).word B c (i - tw T 0) (esz 0x20 * e) (esz 0x20) = _
    rw [hsize, Nat.one_mul]
  have hlatch' : (passOf k K 0x20 acc a gx sc T w wrong).latchFmt = 0x20 := hlatch
  rw [Pass.elem, if_pos hlatch']
  refine intElem_eq (v := passSum k K acc a gx T B c w wrong i j) ?_
  rw [List.map_map]
  simp only [hword]
  rfl

theorem passOf_elem_float (hlatch : K.latchFmt ≠ 0x20) (B : State) (c r j : Nat) (v : BitVec 32) :
    (passOf k K fmt acc a gx sc T w wrong).elem B c w wrong r j v = (floatElem 4 ((List.range (tw T 24)).map fun e =>
      (Fl.mul (e8m0 (if sc.isSome then B.spByte c (swizzle (passScales k K sc T).swz
          ((passScales k K sc T).row (r / (K.agSet (sclSet sc)).geo.1) + e / (K.agSet (sclSet sc)).geo.2)) else 0x7F))
        ((fmtOf fmt).decode ((passData k K fmt a gx T).word B c r (esz fmt * e) (esz fmt))), latchVal K.latchFmt (w e j), wrong e j)) v, false) := by
  have hlatch' : (passOf k K fmt acc a gx sc T w wrong).latchFmt ≠ 0x20 := hlatch
  rw [Pass.elem, if_neg hlatch']
  cases sc with
  | none => rfl
  | some z => rfl

end

/-! ## The statement -/

/-- Settles O38: the pass over clean operands, element by element, by the format of its latch. -/
theorem matrixPass : Obligations.matrix_pass := by
  rintro s B S c n y fmt acc a rt gx sc k K T _ _ _ _ _ _ _ z _ w wrong h hwf hk hK hT hbad rfl rfl rfl rfl rfl rfl hB rfl rfl hz hfits hclean hscale
    hsk hw hwrong
  obtain rfl : z = passScales k K sc T := by rw [hz]; cases sc <;> rfl
  have hcore : S.core c = B.core c := by rw [State.core, State.core, ← State.cores_skerry B c (tw T 16) (tw T 24), hsk]
  have hBK : B.core c = { s.core c with slots := (B.core c).slots, sems := (B.core c).sems, dcache := (B.core c).dcache, queue := (B.core c).queue } := by
    rw [hB]
    exact Issue.copied_core (passIssue y fmt acc a rt gx sc) s c n y false gx (sclSet sc)
  have hacc : (S.core c).acc = K.acc := by rw [hcore, hBK, hK]
  have hisat : (S.core c).isat = K.isat := by rw [hcore, hBK, hK]
  have hcols : 128 * K.mode.size ≤ 512 := by cases K.mode <;> decide
  have hKwf : Sparse.wf K.acc = true := by
    rw [hK]
    exact ((Core.memWf_iff _).mp (State.memWf_core hwf c)).2.2.2
  obtain ⟨-, hrows⟩ := pTileBad_eq_false hbad
  refine ⟨?int, ?float⟩
  case int =>
    rintro rfl hlatch rfl
    have hform : K.noFormat = false ∧ ((0x20 : BitVec 8) == 0x20) = (K.latchFmt == 0x20) ∧ ((none : ScaleOp).isSome && (0x20 : BitVec 8) == 0x20) = false := by
      rw [Core.noFormat, hlatch]
      decide
    refine ⟨_, exec_mxpass hk hK hT hB h hbad hfits hform hclean hscale hsk hw hwrong, passEnd_accOnly, passSum k K acc a gx T B c w wrong,
      fun _ _ => rfl, fun i j hj => ?elem, passEnd_accElem_ne (p := passOf k K 0x20 acc a gx none T w wrong) hacc hKwf hcols hrows, ?isat⟩
    case elem =>
      rw [← (passOf_elem_int hlatch B c i j).1]
      exact passEnd_accElem (p := passOf k K 0x20 acc a gx none T w wrong) hacc hKwf hcols i j hj
    case isat =>
      refine (passEnd_isat (p := passOf k K 0x20 acc a gx none T w wrong) hacc hKwf hcols hisat).trans (or_congr_right ?_)
      constructor
      · rintro ⟨i, j, hi, hr, hj, hset⟩
        obtain ⟨hmode, hv⟩ := (passOf_elem_int hlatch B c i j).2.mp hset
        exact ⟨hmode, i, j, hi, hr, hj, hv⟩
      · rintro ⟨hmode, i, j, hi, hr, hj, hv⟩
        exact ⟨i, j, hi, hr, hj, (passOf_elem_int hlatch B c i j).2.mpr ⟨hmode, hv⟩⟩
  case float =>
    intro hfmt hlatch hmx
    have hform : K.noFormat = false ∧ (fmt == 0x20) = (K.latchFmt == 0x20) ∧ (sc.isSome && fmt == 0x20) = false := by
      have hset : K.latchFmt ≠ 0xFF := by rintro hff; rw [hff] at hmx; exact absurd hmx (by decide)
      rw [Core.noFormat, hmx, beq_eq_false_iff_ne.mpr hset, beq_eq_false_iff_ne.mpr hfmt, beq_eq_false_iff_ne.mpr hlatch, Bool.and_false]
      exact ⟨rfl, rfl, rfl⟩
    refine ⟨_, exec_mxpass hk hK hT hB h hbad hfits hform hclean hscale hsk hw hwrong, passEnd_accOnly, ?isat, fun i j hj => ?elem,
      passEnd_accElem_ne (p := passOf k K fmt acc a gx sc T w wrong) hacc hKwf hcols hrows⟩
    case isat =>
      rw [Bool.eq_iff_iff, passEnd_isat hacc hKwf hcols hisat]
      simp [passOf_elem_float hlatch]
    case elem =>
      have helem := passEnd_accElem (B := B) (w := w) (wrong := wrong) (p := passOf k K fmt acc a gx sc T w wrong) hacc hKwf hcols i j hj
      rw [passOf_elem_float hlatch] at helem
      exact helem

end Sys2Proof.Machine
end
